-- ==== Sys2Proof/Word.lean ====
section
/-! DEFINITION. The word types of the block and their plainest arithmetic (R8, 00_scope.md: registers are 32 bits wide and
little-endian). -/

namespace Sys2Proof

/-- A 32-bit register word (R8). -/
abbrev Word := BitVec 32

/-- A byte of a memory, a ring entry or a frame. -/
abbrev Byte := BitVec 8

/-- A 64-bit quantity held in two registers (R8: the least significant word at the lower offset). -/
abbrev Dword := BitVec 64

end Sys2Proof
end

