-- ==== Sys2Proof/Machine/Inputs.lean ====
section
/-! DEFINITION. What the outside world brings with a command: the answers of host memory, the observations of training and
calibration, and errors that strike stored or computed words. An operand of this kind is an input of the block: a
statement holds for every value of it. -/

namespace Sys2Proof

/-- What a read of host memory brings (R277 item 1). After a failed read, `below` are the bytes below the failing request
and `above` the bytes at and above it that arrived all the same, with their transfer offsets ("may or may not have been
written"). -/
inductive HostRead where
  | data (bytes : List Byte)
  | fail (below : List Byte) (above : List (Nat × Byte))
deriving DecidableEq, Repr

/-- What a fetch of a ring entry brings: its bytes, or a failure of the fetch and of its one retry (R257). -/
inductive EntryRead where
  | bytes (b : List Byte)
  | failed
deriving DecidableEq, Repr

/-- The error answers of a transfer (R277 items 2 and 3): the transfer offset of the first byte of the failing beat, and
whether the read-back failed twice. -/
structure XferErrors where
  writeErr : Option Nat := none
  flushErr : Bool := false
deriving DecidableEq, Repr

/-- How the write of a snapshot to host memory ends (R269, R277 item 3). -/
inductive WriteResp where
  | ok
  | flushFailed
deriving DecidableEq, Repr

/-- The resets of the host port (R252). -/
inductive PortReset where
  | flr
  | hot
  | linkDown
deriving DecidableEq, Repr

/-- The two encoder axes (R184). -/
inductive AxisName where
  | scan
  | cross
deriving DecidableEq, Repr

/-- The six encoder pairs (R184). -/
inductive EncoderPair where
  | qaS | qbS | qiS | qaC | qbC | qiC
deriving DecidableEq, Repr

/-- The DRAM service classes in the order of Table 10.4. -/
inductive DramClass where
  | feed | fill | pipe | ingest | background | maint
deriving DecidableEq, Repr

/-- An error that strikes a word: its number (a word of a beat, or an output word of a pass), and the bits that turn over
in its data and in its check byte. -/
structure WordFlip where
  index : Nat
  data : Dword
  check : Byte
deriving DecidableEq, Repr

/-- The taps one equalise run finds: transmit FFE pre, main and post, CTLE, and the five DFE taps (R233). -/
structure LaneTaps where
  pre : Int
  main : Int
  post : Int
  ctle : Int
  dfe : List Int
deriving DecidableEq, Repr

/-- What one lane shows in training (Table 8.6): signal, lock and polarity, the LANE field received and the module lane the
partner reports, the equalise runs in order, the error counts of both directions, the lateness in UI. -/
structure LaneTraining where
  present : Bool
  locked : Bool
  inverted : Bool
  laneSeen : Option Nat
  laneReported : Option Nat
  runs : List LaneTaps
  errsIn : Nat
  errsOut : Nat
  lateness : Nat
deriving DecidableEq, Repr

/-- A partner's IDENT answer (R236): PARTNER_ID, N_P and MAC_P. -/
structure Ident where
  partnerId : Nat
  np : Nat
  mac : Nat
deriving DecidableEq, Repr

/-- What a training of the link shows: 72 lanes, the number N_M drawn for the challenge, and the partner's answer to it. -/
structure RimTraining where
  lanes : List LaneTraining
  nm : Nat
  ident : Option Ident
deriving DecidableEq, Repr

/-- What a re-calibration of a lane shows: the runs of step 4, the error counts of step 5, and those that it gives with the
previous settings should the re-calibration fail (R243). -/
structure LaneRecal where
  lane : Nat
  runs : List LaneTaps
  errsIn : Nat
  errsOut : Nat
  prevIn : Nat
  prevOut : Nat
deriving DecidableEq, Repr

/-- The margins of a DRAM channel: read and write width in 1/64 UI, height in 5 mV (R301, R302). -/
structure ChanMargins where
  chan : Nat
  readWidth : Nat
  writeWidth : Nat
  height : Nat
deriving DecidableEq, Repr

/-- What one DRAM channel shows in training (Table 10.5). -/
structure ChanTraining where
  chan : Nat
  impedanceOk : Bool
  caWidth : Nat
  strobeOk : Bool
  readWidth : Nat
  writeWidth : Nat
  height : Nat
deriving DecidableEq, Repr

/-- What an Upsett or a CALIBRATE UPSETT_SET meets (Table 14.2): the step durations in ms, whether a macro has more failing
rows than spare rows, DRAM training, the weavers whose test signatures differ, Rim training, the first conversions of the
28 sensors in Q8.8 °C, the ageing counts, and whether the test stripe differs. -/
structure UpsettInput where
  ms : List Nat
  sramFail : Bool
  dram : List ChanTraining
  weaverDiff : List Nat
  rim : RimTraining
  temps : List Int
  age : List Nat
  pathDiff : Bool
deriving DecidableEq, Repr

end Sys2Proof
end

