-- ==== Sys2Proof/Syntax.lean ====
section
/-! DEFINITION. The commands of the block: one constructor for each row of spec/opcode_table.json, its summary quoted from
there. `ring` is the ring whose entry is meant, `t` the instant of the event in tu (00_scope.md, R13: 57,600 tu are 1 ns). -/

namespace Sys2Proof

/-- A command or event of the block (spec/opcode_table.json). -/
inductive Instr where
  /-- LOAD_JOB_KEY (R37). Command that fetches and unwraps a wrapped key block and, on success, installs the new job
key and resets decoder, weaving, correction and staging state. -/
  | loadJobKey (ring : Nat) (blk : HostRead)
  /-- SET_MODE (R401). Command that moves the module between operating modes, running Upsett when the target is
UPSETT. -/
  | setMode (ring : Nat) (t : Nat) (u : UpsettInput)
  /-- ARM_STRIPE (R266). Command that checks and binds a NORMAL, RESUME or REPAIR run of a stripe to the tracking
loop and wakes the lanes. -/
  | armStripe (ring : Nat) (t : Nat)
  /-- ABORT (R267). Command that ends the bound run, unbinding it before tick 0 or truncating it with cause ABORT. -/
  | abort (ring : Nat) (t : Nat)
  /-- SWAP_SET_SEAL (R281). Command action that seals the shadow configuration set for a swap at the next run's
stripe tick 0. -/
  | swapSetSeal (ring : Nat)
  /-- SWAP_SET_CANCEL (R282). Command action that clears a seal whose swap has not taken place. -/
  | swapSetCancel (ring : Nat)
  /-- SWAP_SET_NOW (R282). Command action that exchanges the active and shadow sets at once when no run is bound. -/
  | swapSetNow (ring : Nat) (t : Nat)
  /-- TRAIN_RIM (R230). Command that runs the Rim training steps on all lanes that are not retired. -/
  | trainRim (ring : Nat) (r : RimTraining)
  /-- TRAIN_DRAM (R301). Command that repeats DRAM eye-training steps 1 to 6 on every usable channel. -/
  | trainDram (ring : Nat) (r : List ChanTraining)
  /-- CALIBRATE_UPSETT_SET (R400). Command target that reruns the weaver, sensor and test-stripe checks of Upsett. -/
  | calibrateUpsettSet (ring : Nat) (u : UpsettInput)
  /-- CALIBRATE_RIM_RECAL (R400). Command target that re-calibrates every Rim lane as at a turn-around. -/
  | calibrateRimRecal (ring : Nat) (r : List LaneRecal)
  /-- CALIBRATE_SENSORS (R400). Command target that re-trims the sensors and takes one ageing measurement. -/
  | calibrateSensors (ring : Nat) (temps : List Int) (age : List Nat)
  /-- CALIBRATE_DRAM_RECAL (R302). Command target that recalibrates every DRAM channel once. -/
  | calibrateDramRecal (ring : Nat) (r : List ChanMargins)
  /-- RETIRE_PAGE (R314). Command that copies a DRAM page to a replacement page and switches its retirement map
entry. -/
  | retirePage (ring : Nat) (writeErr : Bool)
  /-- READ_COUNTERS (R269). Command that writes a one-clock snapshot of the RC registers of selected blocks to host
memory, optionally clearing them. -/
  | readCounters (ring : Nat) (t : Nat) (resp : WriteResp)
  /-- SYNC_BARRIER (R268). Command that completes once every descriptor owned in the named rings at its start has
completed. -/
  | syncBarrier (ring : Nat)
  /-- SYNC_FIGURE (R54). Command that restarts a halted verify pass at a given stream offset. -/
  | syncFigure (ring : Nat)
  /-- SYNC_RUN_END (R268). Command that waits for the end of the bound or next run and reports its serial, end and
ledger slot. -/
  | syncRunEnd (ring : Nat)
  /-- DOORBELL (R256). A doorbell write that advances a ring's tail or is ignored and counted. -/
  | doorbell (page : Nat) (off : Nat) (be : Nat) (v : Word)
  /-- ENTRY_FETCH (R257). The module fetches an owned ring entry when its engine or command unit can take it and
checks its submission phase. -/
  | entryFetch (ring : Nat) (e : EntryRead)
  /-- PHASE_REFETCH (R257). After 1 µs an entry with the wrong submission phase is fetched again, and after three
retries the ring halts. -/
  | phaseRefetch (ring : Nat) (e : EntryRead)
  /-- RING_RESET (R259). RING_CMD action that abandons unstarted entries and returns head and tail to slot 0, phase
1. -/
  | ringReset (ring : Nat)
  /-- RING_RESUME (R259). RING_CMD action that clears HALTED and restarts fetching at the head. -/
  | ringResume (ring : Nat)
  /-- RING_ENABLE (R254). A write of ENABLE = 1 that enables a ring or sets CFG_ERR for an invalid geometry. -/
  | ringEnable (ring : Nat) (v : Word)
  /-- RING_DISABLE (R259). A write of ENABLE = 0 that resets and disables a ring. -/
  | ringDisable (ring : Nat) (v : Word)
  /-- DMA_H2L (R272). Descriptor that moves rows from host memory to local DRAM after format and window checks. -/
  | dmaH2L (ring : Nat) (data : HostRead)
  /-- DMA_L2H (R272). Descriptor that moves rows from local DRAM to host memory. -/
  | dmaL2H (ring : Nat)
  /-- DMA_L2L (R272). Descriptor that moves rows between two non-overlapping local extents. -/
  | dmaL2L (ring : Nat)
  /-- DMA_H2F (R274). Descriptor that places stream bytes from the host into the figure ring at their stream offsets.
-/
  | dmaH2F (ring : Nat) (data : HostRead)
  /-- FIG_WAIT (R275). A waiting H2F descriptor proceeds once the release point has advanced far enough. -/
  | figWait (ring : Nat) (data : HostRead)
  /-- DESCRIPTOR_COMPLETE (R277). A transfer completes once every read, write response and flush read-back is in,
with the error at the lowest offset reported. -/
  | descriptorComplete (ring : Nat) (errs : XferErrors)
  /-- HOST_PORT_RESET (R252). FLR, hot reset or link-down resets only the HST and DMA blocks and disables every ring.
-/
  | hostPortReset (kind : PortReset)
  /-- BUS_MASTER_ENABLE (R252). A change of Bus Master Enable pauses the rings or lets them resume. -/
  | busMasterEnable (on : Bool)
  /-- IRQ_MESSAGE_SEND (R343). An owed MSI-X message is sent once MSI-X, masks and Bus Master Enable allow it. -/
  | irqMessageSend (v : Word)
  /-- IRQ_PEND_CLEAR (R342). A W1C write to IRQ_PEND clears edge sources and level sources whose condition is false.
-/
  | irqPendClear (hi : Bool) (v : Word)
  /-- IRQ_ENABLE_WRITE (R343). A write of IRQ_ENABLE that creates or cancels owed messages. -/
  | irqEnableWrite (hi : Bool) (v : Word)
  /-- IRQ_SET (R341). A test write that raises the selected interrupt sources. -/
  | irqSet (hi : Bool) (v : Word)
  /-- RC_READ (R11). A read of an RC field returns it and clears it, unless blocked by the silent access policy. -/
  | rcRead (addr : Nat)
  /-- REGISTER_WRITE (R358). A BAR0 write to a register with no behaviour of its own, applied under mode, lock and
reserved-bit rules. -/
  | registerWrite (addr : Nat) (be : Nat) (v : Word)
  /-- PTP_NOW_READ (R334). A read of PTP_NOW_0 latches PTP_NOW_1 to PTP_NOW_3 in the same clock. -/
  | ptpNowRead (t : Nat)
  /-- PTP_FRC_READ (R334). A read of PTP_FRC_LO latches PTP_FRC_HI. -/
  | ptpFrcRead (t : Nat)
  /-- RESIDENCY_READ (R356). A read of a residency _LO word latches its _HI word. -/
  | residencyRead (n : Nat) (t : Nat)
  /-- CONFIG_SET_WRITE (R280). A write to a configuration set window, accepted, locked, late or repairing a marked
word. -/
  | configSetWrite (addr : Nat) (be : Nat) (v : Word)
  /-- VERIFY_JOB_HEADER (R35). The verify pass takes a JOB_HEADER record and checks its tag, version and JOB_ID. -/
  | verifyJobHeader
  /-- VERIFY_CLASS_TABLE (R35). The verify pass takes the CLASS_TABLE record of the job. -/
  | verifyClassTable
  /-- VERIFY_STRIPE (R42). The verify pass takes a STRIPE record and remembers its generation for the stripe. -/
  | verifyStripe
  /-- VERIFY_TILE_ROW (R36). The verify pass takes a TILE_ROW record and its bin directory, including replacement
rows. -/
  | verifyTileRow
  /-- VERIFY_TILE_BIN (R48). The verify pass checks a TILE_BIN and enters a valid bin in the tile queue. -/
  | verifyTileBin
  /-- VERIFY_JOB_END (R35). The verify pass takes the JOB_END record. -/
  | verifyJobEnd
  /-- FIG_ERRLOG_POP (R58). A write of 1 to FIG_ERRLOG_POP removes the head entry of the FIG error log. -/
  | figErrlogPop (v : Word)
  /-- WEAVER_TAKE_PASS (R78). A free weaver takes a density, pixel, arbiter or re-weave pass in priority order. -/
  | weaverTakePass (w : Nat)
  /-- DENSITY_PASS_DONE (R74). A density pass completes and delivers its fragment records and signature. -/
  | densityPassDone (w : Nat) (errs : List WordFlip)
  /-- PIXEL_PASS_DONE (R72). A pixel pass completes and delivers its window of pixel words and signature. -/
  | pixelPassDone (w : Nat) (errs : List WordFlip)
  /-- REWEAVE_DONE (R89). A re-weave completes and its signature is compared with the working pass, issuing an
arbiter pass on a mismatch. -/
  | reweaveDone (w : Nat) (errs : List WordFlip)
  /-- ARBITER_DONE (R89). An arbiter pass completes and the re-weave outcome is settled by Table 3.4. -/
  | arbiterDone (w : Nat) (errs : List WordFlip)
  /-- REWEAVE_HOLD_EXPIRY (R88). A sample with no re-weaver found within HOLD_MS becomes void. -/
  | reweaveHoldExpiry (t : Nat)
  /-- WEAVER_UE (R83). An uncorrectable error in a weaver fails its pass, which is issued again elsewhere. -/
  | weaverUe (w : Nat)
  /-- WEAVER_WATCHDOG (R83). A pass with no progress for 2^20 clocks fails and is issued again elsewhere. -/
  | weaverWatchdog (w : Nat)
  /-- WEAVER_RETIRE (R84). WVR_CMD.RETIRE retires a weaver and reissues its pass in flight. -/
  | weaverRetire (w : Nat)
  /-- CORRECT_SLICE (R93). The correction block forms the EV containers of a slice's written pixels and hands them to
the codec. -/
  | correctSlice (stripe : Nat) (w : Nat)
  /-- BIND_NEXT_STRIPE (R113). The next stripe is bound to the shadow or active set when correction is about to begin
it. -/
  | bindNextStripe
  /-- BIND_ACTIVE (R115). COR_CMD.BIND_ACTIVE releases a binding wait. -/
  | bindActive
  /-- COR_RESUME (R118). COR_CMD.RESUME restarts halted correction at the halted slice. -/
  | corResume
  /-- SLICE_CODED (R134). The Osier encoder completes a slice's 32 blocks and header in its staging slot. -/
  | sliceCoded (stripe : Nat) (w : Nat)
  /-- ENCODER_RESUME (R136). An encoder waiting for a chunk or slot resumes once a release supplies it. -/
  | encoderResume
  /-- EXPAND_SLICE (R138). The decompressor checks a complete slice and expands it into a free footprint slot. -/
  | expandSlice (n : Nat)
  /-- HINT_PROJECTION (R144). Every 1.024 ms the lead is projected and the speed hint asserted, updated or released.
-/
  | hintProjection (t : Nat)
  /-- TICK_ISSUE (R191). A tick is issued when the run position crosses the next integer, with its stage edge and
per-tick effects. -/
  | tickIssue (t : Nat)
  /-- BEAM_STORE_LOAD_DONE (R166). The beam-store load completes with the first working table and ledger copies
written. -/
  | beamStoreLoadDone
  /-- WORKING_TABLE_UPDATE (R168). Every CAL_PERIOD_MS a new working table is interpolated from plate temperatures. -/
  | workingTableUpdate
  /-- THERMAL_DECAY (R164). Every 1 µs each thermal cell's state decays by HEAT_KAPPA. -/
  | thermalDecay
  /-- TEMP_STALE (R169). A quadrant temperature older than 1 s is flagged STALE and logged once per run. -/
  | tempStale (q : Nat) (t : Nat)
  /-- FRAME_LAUNCH (R202). At t_k + D_L the frame leaves on the lanes and the feed begins assembling the next frame.
-/
  | frameLaunch (t : Nat) (missed : List Nat)
  /-- ENCODER_EDGE (R184). An accepted quadrature transition updates an axis count by ±1. -/
  | encoderEdge (axis : AxisName) (a : Bool) (b : Bool) (t : Nat)
  /-- ENCODER_LOS (R184). A used encoder pair without valid swing for 64 clocks is a loss of signal. -/
  | encoderLos (pair : EncoderPair) (t : Nat)
  /-- INDEX_EDGE (R185). An accepted rising edge of QI captures the count and completes a pending index preset. -/
  | indexEdge (axis : AxisName) (t : Nat)
  /-- PRESET_S_NOW (R185). TRK_CMD action that loads the scan preset into C_S at once. -/
  | presetSNow
  /-- PRESET_S_IDX (R185). TRK_CMD action that arms loading the scan preset at the next index edge. -/
  | presetSIdx
  /-- PRESET_C_NOW (R185). TRK_CMD action that loads the cross preset into C_C at once. -/
  | presetCNow
  /-- PRESET_C_IDX (R185). TRK_CMD action that arms loading the cross preset at the next index edge. -/
  | presetCIdx
  /-- ANCHOR_PW (R187). TRK_CMD action that arms anchoring C_S from the next valid position word. -/
  | anchorPw
  /-- POSITION_WORD (R187). A received position word is checked and compared with the scan position, or anchors the
count. -/
  | positionWord (bits : List Bool) (t : Nat)
  /-- POSITION_WORD_LOSS (R187). No valid position word for PW_TIMEOUT raises TRK_INPUT. -/
  | positionWordLoss (t : Nat)
  /-- TICK_TRIM_UPDATE (R198). Every 1.024 ms the TICK tap target is recomputed from delay and temperature trim. -/
  | tickTrimUpdate
  /-- SIM_RUN (R206). TRK_CMD action that starts the free-running tick simulator in SERVICE. -/
  | simRun (t : Nat)
  /-- SIM_STOP (R206). TRK_CMD action that stops the free-running tick simulator. -/
  | simStop
  /-- SIM_TICK (R205). The internal generator issues a tick of an armed run every TRK_SIM_PERIOD. -/
  | simTick (t : Nat)
  /-- SIM_FREE_TICK (R206). The free-running simulator gives a TICK pulse with no run or frame. -/
  | simFreeTick (t : Nat)
  /-- RETURN_FRAME (R220). A return frame from the partner is checked and its acknowledgement and telemetry
processed. -/
  | returnFrame (lane : Nat) (words : List Nat) (t : Nat)
  /-- TEMP_QUORUM_TIMEOUT (R227). A TEMP sample without quorum within 100 µs is rejected and counted. -/
  | tempQuorumTimeout (t : Nat)
  /-- TEL_RATE_WINDOW (R226). Each 1 ms window restarts the per-lane telemetry record allowance. -/
  | telRateWindow
  /-- ACK_DRAIN_TIMEOUT (R222). Frames outstanding 10 µs after the last drain tick are declared lost. -/
  | ackDrainTimeout (t : Nat)
  /-- RUN_END (R222). A run ends once its drain ticks are issued and every fired frame is settled. -/
  | runEnd (t : Nat)
  /-- CONTROL_BLOCK_RX (R211). A received control block is acted on or discarded and counted. -/
  | controlBlockRx (lane : Nat) (block : Nat)
  /-- LPREQ (R246). A received LPREQ puts the module's facing transmitter in the requested power state. -/
  | lpreq (lane : Nat) (state : Nat)
  /-- LANE_LOS (R223). No valid receive swing for 100 ns is a lane fault. -/
  | laneLos (lane : Nat) (t : Nat)
  /-- LANE_LOCK (R223). 16 invalid sync headers in 64 blocks is a lane fault. -/
  | laneLock (lane : Nat) (t : Nat)
  /-- RET_SILENT (R223). No valid return frame for RET_TMO_US is a lane fault. -/
  | retSilent (lane : Nat) (t : Nat)
  /-- LANE_RETIRE (R242). LNK_LN_CMD.RETIRE retires a lane, a lane fault if it is assigned. -/
  | laneRetire (lane : Nat) (t : Nat)
  /-- LANE_RETRAIN (R242). LNK_LN_CMD.RETRAIN retrains a FAILED lane when no run is bound. -/
  | laneRetrain (lane : Nat) (r : LaneTraining)
  /-- LANE_INJECT (R245). A write of LNK_LN_INJ arms fault injection on a lane's transmitter. -/
  | laneInject (lane : Nat) (v : Word)
  /-- LANE_PRBS (R244). A write of LNK_LN_PRBS starts or stops a lane's PRBS generator or checker. -/
  | lanePrbs (lane : Nat) (v : Word)
  /-- CHALLENGE_RESEND (R237). Every 1 ms the identity challenge is sent again until a valid IDENT arrives. -/
  | challengeResend (t : Nat)
  /-- SPARE_RECAL (R243). Every RECAL_PERIOD_S a spare lane is re-calibrated during a run. -/
  | spareRecal (lane : Nat) (r : LaneRecal)
  /-- LANE_LP_IDLE (R246). After LP_IDLE_US with no run bound, lanes go to their idle power targets. -/
  | laneLpIdle (t : Nat)
  /-- LANE_RELOCK_TIMEOUT (R247). A lane not relocked within 100 µs of an arm wake is a LOCK fault and is spared. -/
  | laneRelockTimeout (lane : Nat) (t : Nat)
  /-- MAILBOX_READ_ADVANCE (R229). A host write of LNK_MBX_RD frees mailbox entries and may move the mirror pointer.
-/
  | mailboxReadAdvance (v : Word)
  /-- REFRESH_DUE (R297). A pseudo-channel's refresh falls due and is issued, postponed or forced. -/
  | refreshDue (p : Nat) (pc : Nat) (busy : Bool)
  /-- AGE_PROMOTION (R295). A request waiting LIMIT_NS is promoted one class. -/
  | agePromotion (cls : DramClass)
  /-- DRAM_POWER_DOWN (R300). An idle pseudo-channel enters power-down after IDLE_NS. -/
  | dramPowerDown (p : Nat) (pc : Nat)
  /-- DRAM_RECAL_PERIODIC (R302). Every RECAL_PERIOD_S one channel's read and write eyes are recentred. -/
  | dramRecalPeriodic (p : Nat) (m : ChanMargins)
  /-- SCRUB_READ (R308). A scrub read of a beat behind schedule is classed and corrected or marked. -/
  | scrubRead (l : Nat) (flips : List WordFlip) (t : Nat)
  /-- DEMAND_READ_ERROR (R312). A requester read meets a correctable or uncorrectable word, which is corrected or
marked. -/
  | demandReadError (a : Nat) (cls : DramClass) (dx : Dword) (cx : Byte) (t : Nat)
  /-- WRITEBACK_QUEUE (R308). A queued demand correctable error is written back clean by the scrubber. -/
  | writebackQueue (p : Nat)
  /-- SRAM_SCRUB (R313). The SRAM scrubber checks a word in an idle port slot and corrects or marks it. -/
  | sramScrub (store : Nat) (word : Nat) (dx : Dword) (cx : Byte)
  /-- CAPAR (R319). CA parity errors reaching the threshold in 1 µs cause a hard fence. -/
  | capar (p : Nat) (n : Nat)
  /-- READ_TIMEOUT (R319). A DRAM read unanswered for 2 µs causes a hard fence. -/
  | readTimeout (p : Nat)
  /-- CE_RATE (R319). Correctable errors above CE_LIMIT averaged over 10 s cause a planned fence. -/
  | ceRate (p : Nat) (rate : Nat)
  /-- MEM_CH_FENCE (R319). MEM_CH_CMD.FENCE requests a planned fence of a channel. -/
  | memChFence (p : Nat)
  /-- FENCE_COPY_DONE (R320). The fence copy ends and the logical channel moves to the spare. -/
  | fenceCopyDone (stack : Nat)
  /-- REBUILD_SWEEP_DONE (R321). The rebuild sweep of a hard-fenced channel ends and frees its bitmap. -/
  | rebuildSweepDone (l : Nat)
  /-- MEM_CH_RETRAIN (R322). MEM_CH_CMD.RETRAIN retrains a channel in SERVICE. -/
  | memChRetrain (p : Nat) (r : ChanTraining)
  /-- MEM_CH_RETIRE (R322). MEM_CH_CMD.RETIRE retires a FAILED or OFF channel in SERVICE. -/
  | memChRetire (p : Nat)
  /-- PPR_GO (R318). MEM_PPR_CMD.GO starts a hard post-package repair of a DRAM row. -/
  | pprGo (v : Word)
  /-- PPR_DONE (R318). A post-package repair completes with its code in MEM_PPR_STAT. -/
  | pprDone (code : Nat)
  /-- ECC_FLIP_ARM (R306). A write of ECC_FLIP_CTRL arms altering the next write of a target word. -/
  | eccFlipArm (v : Word)
  /-- ECC_LOG_POP (R323). A write of 1 to ECC_LOG_POP removes the head integrity log entry. -/
  | eccLogPop (v : Word)
  /-- NET_RX_FRAME (R331). A received Ethernet frame is checked and accepted into the receive ring or dropped. -/
  | netRxFrame (bytes : List Byte) (t : Nat)
  /-- NET_TX_ENTRY (R328). A transmit ring entry is checked, read and sent with optional timestamp. -/
  | netTxEntry (frame : HostRead) (t : Nat)
  /-- NET_LINK (R326). A change of link state sets or clears LINK_UP and raises NET_LINK. -/
  | netLink (up : Bool)
  /-- SPEED_SEEK (R325). With SPEED AUTO, every 500 ms without lock the receiver switches between 25G and 10G. -/
  | speedSeek
  /-- NET_RATE_WINDOW (R332). Each 125 ms window restarts the PTP message acceptance limits. -/
  | netRateWindow (t : Nat)
  /-- APPLY (R335). PTP_CMD.APPLY steps or slews the PTP clock by Δ, or refuses it. -/
  | apply (t : Nat)
  /-- UNLOCK (R335). PTP_CMD.UNLOCK clears LOCKED and discards the slew remainder. -/
  | unlock (t : Nat)
  /-- PTP_PERIOD_WRITE (R334). A write of PTP_PERIOD re-anchors the clock at the new period. -/
  | ptpPeriodWrite (hi : Bool) (v : Word) (t : Nat)
  /-- SLEW_END (R335). The slew remainder reaches zero and SLEWING clears. -/
  | slewEnd (t : Nat)
  /-- PPS_PULSE (R338). PPS_OUT rises at each scheduled PTP instant and falls after WIDTH. -/
  | ppsPulse (t : Nat)
  /-- CAPTURE_EVENT (R339). A capture source event writes a timestamp entry into its FIFO or is dropped. -/
  | captureEvent (n : Nat) (t : Nat)
  /-- CAP_POP (R339). PTP_CMD.CAP_POPn removes the head entry of a capture FIFO. -/
  | capPop (n : Nat)
  /-- MIRROR_SEND (R340). The telemetry mirror sends a frame of mailbox entries when BATCH or FLUSH_US is reached. -/
  | mirrorSend (t : Nat)
  /-- POWER_REQUEST (R348). A write of PWR_REQ requests a power state, taken up or placed in the pending slot. -/
  | powerRequest (v : Word) (t : Nat)
  /-- POWER_TRANSITION_END (R352). A power transition ends, writes its result and takes up any pending request. -/
  | powerTransitionEnd (t : Nat) (r : List ChanMargins)
  /-- PWR_RESULT_POP (R348). A write of PWR_RESULT_POP removes the head result entry. -/
  | pwrResultPop (v : Word)
  /-- DEEP_GRACE_EXPIRY (R354). PWR_DEEP_GRACE after DEEP entry PD_HOST enters RET and the link goes down. -/
  | deepGraceExpiry (t : Nat)
  /-- WAKE_PIN (R354). WAKE_N low for 1 µs leaves DEEP or cold-starts from OFF. -/
  | wakePin (low : Bool) (t : Nat)
  /-- WAKE_TIMER (R354). Expiry of PWR_WAKE_TIMER leaves DEEP. -/
  | wakeTimer (t : Nat)
  /-- REF_LOST (R360). Loss of CLK156 puts the PLLs in hold-over and raises PWR_FAULT. -/
  | refLost (t : Nat)
  /-- HOLDOVER_EXPIRY (R360). 10 ms after a reference loss without relock the bound run is truncated. -/
  | holdoverExpiry (t : Nat)
  /-- PLL_UNLOCK (R360). A PLL out of lock for 2 µs makes its domains clock-off and truncates a run using it. -/
  | pllUnlock (n : Nat) (ppm : Nat) (t : Nat)
  /-- PLL_RELOCK (R360). A PLL relocks and its domains return through RET to ON. -/
  | pllRelock (n : Nat) (t : Nat)
  /-- REFCLK_LOSS (R360). Loss of REFCLK stops PLL_H and takes the PCIe link down. -/
  | refclkLoss
  /-- PHASE_FAULT (R362). A faulty regulator phase is removed and replaced by a spare within 20 µs. -/
  | phaseFault (rail : Nat) (phase : Nat) (ma : Nat)
  /-- LP_OVER (R363). VCORE above 400 mA for 100 µs in low-power mode returns the regulator to normal mode. -/
  | lpOver (ma : Nat)
  /-- VIN_LOW (R364). VIN below VIN_LOW for 10 µs raises PWR_FAULT. -/
  | vinLow (mv : Nat)
  /-- BROWNOUT (R364). A rail below 92 % for 2 µs sets BROWNOUT and truncates a bound run. -/
  | brownout (rail : Nat) (mv : Nat) (t : Nat)
  /-- BROWNOUT_LASTING (R364). A brown-out lasting 1 ms, or VIN below 9.0 V, removes every rail. -/
  | brownoutLasting
  /-- BROWNOUT_CLEAR (R386). When BROWNOUT clears the recorder commits the shadow. -/
  | brownoutClear
  /-- SENSOR_CONVERSION (R366). Every 32 µs each temperature sensor converts and warn, critical and trip thresholds
are applied. -/
  | sensorConversion (n : Nat) (raw : Int) (t : Nat)
  /-- AGEING_MEASURE (R367). Once an hour the ageing oscillators of every domain are measured. -/
  | ageingMeasure (counts : List Nat)
  /-- VAUX_LOSS (R418). Loss of VAUX clears the values held on VAUX and stops WAKE_N sensing. -/
  | vauxLoss
  /-- COLD_START (R395). VIN rising or a wake from OFF brings up rails, boots and enters DORMANT. -/
  | coldStart (mv : Nat)
  /-- RESET_N (R393). RESET_N low for 1 µs warm-resets the module and stops any bound run. -/
  | resetN (t : Nat)
  /-- WARM_RESET (R394). GLB_CMD.WARM_RESET resets the module while keeping the link and the kept state. -/
  | warmReset (t : Nat)
  /-- COLD_RESET (R394). GLB_CMD.COLD_RESET enters OFF and cold-starts at once. -/
  | coldReset (t : Nat)
  /-- FW_COMMIT (R396). GLB_CMD.FW_COMMIT raises the fused rollback minimum to the running image's. -/
  | fwCommit
  /-- UPSETT_AUTO_START (R399). With STRAP_AUTO high the module starts Upsett by itself on reaching DORMANT. -/
  | upsettAutoStart (t : Nat) (u : UpsettInput)
  /-- MGT_WATCHDOG (R412). A 100 ms watchdog restarts a hung management core from its image. -/
  | mgtWatchdog
  /-- PLATE_FORECAST (R407). Every 10 ms during a plate warning the plate temperature is forecast to the run's end. -/
  | plateForecast (t : Nat)
  /-- RECORD_COMMIT (R376). A shadow record is programmed into its NOR region, read back and marked committed. -/
  | recordCommit (progOk : Bool)
  /-- INVENTORY_COMMIT (R389). An inventory entry for a withy pool change is appended to INVENTORY. -/
  | inventoryCommit (progOk : Bool)
  /-- OPERATING_SECOND (R372). Each operating second is counted and the lifetime histograms accumulate. -/
  | operatingSecond (power : Nat)
  /-- AGE_TRIGGER (R374). Every 86,400 operating seconds in RUN or IDLE the AGE record fires. -/
  | ageTrigger
  /-- HISTOGRAM_CHECKPOINT (R387). Every 86,400 operating seconds all histogram bins are checkpointed to INVENTORY. -/
  | histogramCheckpoint
  /-- RETENTION_CHECK (R381). Every MARGIN_DAYS each written sector is read at margin and refreshed if needed. -/
  | retentionCheck (sector : Nat) (marginOk : Bool) (verifyOk : Bool)
  /-- SNAP (R375). REC_CMD.SNAP fires the HOST trigger. -/
  | snap
  /-- SHRINK (R385). REC_CMD.SHRINK turns the oldest ROLLING sector into a spare. -/
  | shrink
  /-- CURSOR_FETCH (R379). A write of REC_CURSOR_SEQ_LO starts fetching a record into the cursor window. -/
  | cursorFetch (v : Word)
  /-- CURSOR_FETCH_DONE (R379). The cursor fetch completes with READY, NOTFOUND or CRC_BAD. -/
  | cursorFetchDone
  /-- AUTO_INC (R379). A read of REC_WIN_63 with AUTO_INC starts the fetch of the next SEQ. -/
  | autoInc
  /-- REFERENCE_RETURN (R360). CLK156 returns after a loss, ending the PLL hold-over, setting REF156_OK and letting
AON_OSC lock again. -/
  | referenceReturn (t : Nat)
  /-- RESET_N_RISING (R395). RESET_N rising releases the module from reset, samples the straps, loads NOR values and
brings it to DORMANT within 300 ms. -/
  | resetNRising (auto : Bool) (img : Bool)
  /-- VAUX_RETURN (R418). VAUX returning within range restores WAKE_N sensing and, after 10 ms, lets a waiting cold
start proceed. -/
  | vauxReturn (mv : Nat)
deriving DecidableEq, Repr

end Sys2Proof
end

