-- ==== Sys2Proof/Decode.lean ====
section
/-! DEFINITION. Decoding of command words. spec/opcode_table.json gives no row of this block any bits: the commands come from
outside as events with operands, so no word spells one. -/

namespace Sys2Proof

/-- The command that a word spells by the bits of spec/opcode_table.json: no row gives bits, so none. -/
def decodeTableWord (_nbits _w : Nat) : Option Instr := none

end Sys2Proof
end

