-- ==== Sys2Proof/Machine/Bytes.lean ====
section
/-! DEFINITION. Byte strings, little-endian and big-endian numbers, bit fields, and sparse maps and sorted sets in one
canonical form (R8, R33; the memory's canonical form is the model's own). -/

namespace Sys2Proof.Machine

/-- Bits `hi:lo` of a number (R10's field notation). -/
def bitsOf (n hi lo : Nat) : Nat := n / 2 ^ lo % 2 ^ (hi + 1 - lo)

/-- One bit of a number. -/
def bitOf (n i : Nat) : Bool := n.testBit i

/-- A Bool as the bit the registers show. -/
def b2n (b : Bool) : Nat := if b then 1 else 0

/-- A signed field of `w` bits held in a number (two's complement, 00_scope.md, "Conventions"). -/
def signedOf (w n : Nat) : Int :=
  let m := n % 2 ^ w
  if m < 2 ^ (w - 1) then (m : Int) else (m : Int) - (2 ^ w : Nat)

/-- A signed value as the `w`-bit field that holds it. -/
def unsignedOf (w : Nat) (v : Int) : Nat := (v % ((2 ^ w : Nat) : Int)).toNat

/-- A value held to a closed range: "values outside are used as the nearest limit". -/
def clampNat (lo hi v : Nat) : Nat := if v < lo then lo else if hi < v then hi else v

/-- A signed value held to a closed range. -/
def clampInt (lo hi v : Int) : Int := if v < lo then lo else if hi < v then hi else v

/-- "0 is read and used as 1". -/
def atLeast1 (v : Nat) : Nat := if v = 0 then 1 else v

/-- The number that bytes hold, least significant byte first (R33). -/
def leNat : List Byte → Nat
  | [] => 0
  | b :: t => b.toNat + 256 * leNat t

/-- `n` bytes of a number, least significant byte first. -/
def leBytes : Nat → Nat → List Byte
  | 0, _ => []
  | n + 1, v => BitVec.ofNat 8 v :: leBytes n (v / 256)

/-- The number that bytes hold, most significant byte first. -/
def beNat (bs : List Byte) : Nat := bs.foldl (fun acc b => 256 * acc + b.toNat) 0

/-- `n` bytes of a number, most significant byte first. -/
def beBytes (n v : Nat) : List Byte := (leBytes n v).reverse

/-- The `n` bytes of a byte string from place `off`; places beyond its end read zero. -/
def slice (bs : List Byte) (off n : Nat) : List Byte :=
  let t := (bs.drop off).take n
  t ++ List.replicate (n - t.length) 0

/-- The little-endian number at bytes `off` to `off + n - 1`. -/
def fieldLE (bs : List Byte) (off n : Nat) : Nat := leNat (slice bs off n)

/-- The bits of a byte string, most significant bit first within each byte (R33: the figure bitstream). -/
def msbBits (bs : List Byte) : List Bool :=
  bs.flatMap fun b => (List.range 8).map fun i => b.getLsbD (7 - i)

/-- Bytes from bits, most significant bit first; a last partial byte is padded with zero bits. -/
def bytesOfMsb : List Bool → List Byte
  | [] => []
  | a :: b :: c :: d :: e :: f :: g :: h :: t =>
    BitVec.ofNat 8 (b2n a * 128 + b2n b * 64 + b2n c * 32 + b2n d * 16 + b2n e * 8 + b2n f * 4 + b2n g * 2 + b2n h)
      :: bytesOfMsb t
  | t => [BitVec.ofNat 8 (((t ++ List.replicate 8 false).take 8).foldl (fun acc b => 2 * acc + b2n b) 0)]

/-! Sparse maps: strictly rising keys, no entry equal to what an unlisted key reads as. -/

/-- What a sparse map reads at a key; `d` says what an unlisted key reads as. -/
def smGet {α : Type} (d : Nat → α) : List (Nat × α) → Nat → α
  | [], a => d a
  | (k, v) :: t, a => if a = k then v else if a < k then d a else smGet d t a

/-- Write one key; writing what an unlisted key reads as removes the entry. -/
def smPut {α : Type} [DecidableEq α] (d : Nat → α) (a : Nat) (v : α) : List (Nat × α) → List (Nat × α)
  | [] => if v = d a then [] else [(a, v)]
  | (k, w) :: t =>
    if a < k then (if v = d a then (k, w) :: t else (a, v) :: (k, w) :: t)
    else if a = k then (if v = d a then t else (a, v) :: t)
    else (k, w) :: smPut d a v t

/-- All keys of a map are at least `lo`, strictly rising, and no entry holds what an unlisted key reads as. -/
def smWfFrom {α : Type} [DecidableEq α] (d : Nat → α) : Nat → List (Nat × α) → Bool
  | _, [] => true
  | lo, (k, v) :: t => decide (lo ≤ k) && !decide (v = d k) && smWfFrom d (k + 1) t

/-- The canonical form of a sparse map. -/
def smWf {α : Type} [DecidableEq α] (d : Nat → α) (m : List (Nat × α)) : Bool := smWfFrom d 0 m

/-- Add a number to a sorted list without repeats. -/
def ssAdd (a : Nat) : List Nat → List Nat
  | [] => [a]
  | k :: t => if a < k then a :: k :: t else if a = k then k :: t else k :: ssAdd a t

/-- Remove a number from a sorted list. -/
def ssDel (a : Nat) (l : List Nat) : List Nat := l.filter (fun k => k ≠ a)

/-- Replace the element at a place of a list. -/
def setAt {α : Type} (l : List α) (i : Nat) (v : α) : List α := l.set i v

/-- Change the element at a place of a list. -/
def modAt {α : Type} (l : List α) (i : Nat) (f : α → α) : List α := l.modify i f

/-- `floor(a / b)` of signed numbers (the spec's floor). -/
def floorDiv (a b : Int) : Int := Int.fdiv a b

end Sys2Proof.Machine
end

