-- ==== Sys2Proof/Machine/Crypto.lean ====
section
/-! DEFINITION. AES-256, GCM with a 96-bit IV and a 128-bit tag (R39, NIST SP 800-38D), AES-256 CMAC, and the cyclic checks
CRC-32C (R215), CRC-64, CRC-16 and CRC-8 as one function over their parameters. -/

namespace Sys2Proof.Machine

/-- Multiplication by x in GF(2^8) with the polynomial of AES. -/
def gfDouble (a : Byte) : Byte := (a <<< 1) ^^^ (if a.getLsbD 7 then 0x1B else 0)

/-- Multiplication in GF(2^8). -/
def gfMul (a b : Byte) : Byte :=
  ((List.range 8).foldl (fun (p : Byte × Byte) i => (if b.getLsbD i then p.1 ^^^ p.2 else p.1, gfDouble p.2)) (0, a)).1

/-- The inverse in GF(2^8): the 254th power, zero for zero. -/
def gfInv (a : Byte) : Byte :=
  let a2 := gfMul a a
  let a3 := gfMul a2 a
  let a6 := gfMul a3 a3
  let a12 := gfMul a6 a6
  let a15 := gfMul a12 a3
  let a30 := gfMul a15 a15
  let a60 := gfMul a30 a30
  let a120 := gfMul a60 a60
  let a126 := gfMul a120 a6
  let a127 := gfMul a126 a
  gfMul a127 a127

/-- The byte substitution of AES. -/
def aesSub (a : Byte) : Byte :=
  let i := gfInv a
  i ^^^ i.rotateLeft 1 ^^^ i.rotateLeft 2 ^^^ i.rotateLeft 3 ^^^ i.rotateLeft 4 ^^^ 0x63

/-- Bytewise exclusive or. -/
def xorBytes (a b : List Byte) : List Byte := List.zipWith (· ^^^ ·) a b

/-- The next 4-byte word of the AES-256 key schedule from the eight before it. -/
def aesNextWord (i : Nat) (rcon : Byte) (back8 prev : List Byte) : List Byte :=
  if i % 8 = 0 then
    match prev with
    | [a, b, c, d] => xorBytes back8 [aesSub b ^^^ rcon, aesSub c, aesSub d, aesSub a]
    | _ => back8
  else if i % 8 = 4 then xorBytes back8 (prev.map aesSub)
  else xorBytes back8 prev

/-- The key schedule: `n` more words after the words `w` (newest first) from word number `i`. -/
def aesExpand : Nat → Nat → Byte → List (List Byte) → List (List Byte)
  | 0, _, _, w => w.reverse
  | n + 1, i, rcon, w =>
    let nw := aesNextWord i rcon (w.getD 7 []) (w.getD 0 [])
    aesExpand n (i + 1) (if i % 8 = 0 then gfDouble rcon else rcon) (nw :: w)

/-- The fifteen round keys of 16 bytes of a 32-byte key. -/
def aesRoundKeys (key : List Byte) : List (List Byte) :=
  let w0 := (List.range 8).map fun i => slice key (4 * i) 4
  let ws := aesExpand 52 8 1 w0.reverse
  (List.range 15).map fun r => (List.range 4).flatMap fun c => ws.getD (4 * r + c) []

/-- The row shift of AES on 16 bytes held column by column. -/
def aesShiftRows (s : List Byte) : List Byte :=
  (List.range 16).map fun i => s.getD ((i + 4 * (i % 4)) % 16) 0

/-- The column mix of AES. -/
def aesMixColumns (s : List Byte) : List Byte :=
  (List.range 16).map fun i =>
    let c := i / 4 * 4
    let g := fun k => s.getD (c + (i + k) % 4) 0
    gfDouble (g 0) ^^^ (gfDouble (g 1) ^^^ g 1) ^^^ g 2 ^^^ g 3

/-- AES-256 encryption of one 16-byte block under its round keys. -/
def aesBlock (rks : List (List Byte)) (blk : List Byte) : List Byte :=
  match rks with
  | [] => blk
  | k0 :: rest =>
    let s := rest.dropLast.foldl
      (fun s k => xorBytes (aesMixColumns (aesShiftRows (s.map aesSub))) k) (xorBytes blk k0)
    xorBytes (aesShiftRows (s.map aesSub)) (rest.getLastD [])

/-- Multiplication of 128-bit blocks in the field of GHASH; bit 127 of the vector is the leftmost bit. -/
def ghashMul (x y : BitVec 128) : BitVec 128 :=
  ((List.range 128).foldl
    (fun (p : BitVec 128 × BitVec 128) i =>
      (if x.getLsbD (127 - i) then p.1 ^^^ p.2 else p.1,
       (p.2 >>> 1) ^^^ (if p.2.getLsbD 0 then BitVec.ofNat 128 (0xE1 * 2 ^ 120) else 0))) (0, y)).1

/-- GHASH of a byte string in blocks of 16, the last padded with zeros; `n` bounds the number of blocks. -/
def ghash (h : BitVec 128) : Nat → List Byte → BitVec 128 → BitVec 128
  | 0, _, acc => acc
  | n + 1, bs, acc =>
    if bs = [] then acc
    else ghash h n (bs.drop 16) (ghashMul (acc ^^^ BitVec.ofNat 128 (beNat (slice bs 0 16))) h)

/-- The key stream of GCM: `n` blocks from counter `ctr`. -/
def gcmStream (rks : List (List Byte)) (iv : List Byte) : Nat → Nat → List Byte
  | 0, _ => []
  | n + 1, ctr => aesBlock rks (iv ++ beBytes 4 ctr) ++ gcmStream rks iv n (ctr + 1)

/-- The GCM tag of a ciphertext and its additional data (R39). -/
def gcmTag (key iv aad ct : List Byte) : List Byte :=
  let rks := aesRoundKeys key
  let h := BitVec.ofNat 128 (beNat (aesBlock rks (List.replicate 16 0)))
  let pad := fun (n : Nat) => (n + 15) / 16
  let s := ghash h (pad aad.length) aad 0
  let s := ghash h (pad ct.length) ct s
  let s := ghashMul (s ^^^ BitVec.ofNat 128 (8 * aad.length * 2 ^ 64 + 8 * ct.length)) h
  xorBytes (aesBlock rks (iv ++ beBytes 4 1)) (beBytes 16 s.toNat)

/-- The GCM key stream applied to data: decryption and encryption alike. -/
def gcmCrypt (key iv data : List Byte) : List Byte :=
  xorBytes data (gcmStream (aesRoundKeys key) iv ((data.length + 15) / 16) 2)

/-- AES-256-GCM decryption with its tag check in full: the plaintext, or none. -/
def gcmOpen (key iv aad ct tag : List Byte) : Option (List Byte) :=
  if gcmTag key iv aad ct = tag then some (gcmCrypt key iv ct) else none

/-- A CMAC subkey from a block. -/
def cmacDouble (x : BitVec 128) : BitVec 128 := (x <<< 1) ^^^ (if x.getLsbD 127 then 0x87 else 0)

/-- AES-256 CMAC of a message. -/
def cmac (key msg : List Byte) : List Byte :=
  let rks := aesRoundKeys key
  let enc := fun (x : BitVec 128) => BitVec.ofNat 128 (beNat (aesBlock rks (beBytes 16 x.toNat)))
  let k1 := cmacDouble (enc 0)
  let n := if msg.length = 0 then 1 else (msg.length + 15) / 16
  let blocks := (List.range n).map fun i => slice msg (16 * i) 16
  let whole : Bool := msg.length = 16 * n
  let lastRaw := if whole then blocks.getLastD [] else slice (msg.drop (16 * (n - 1)) ++ [0x80]) 0 16
  let last := BitVec.ofNat 128 (beNat lastRaw) ^^^ (if whole then k1 else cmacDouble k1)
  let body := blocks.dropLast.foldl (fun acc b => enc (acc ^^^ BitVec.ofNat 128 (beNat b))) 0
  beBytes 16 (enc (body ^^^ last)).toNat

/-- A cyclic redundancy check over bits in the order they are taken: the register is `w` bits wide, its top bit leaves
first, and each bit taken is added to the bit that leaves. -/
def crcBits (w poly : Nat) (init : Nat) (bits : List Bool) : Nat :=
  bits.foldl (fun r b =>
    let out := xor (r.testBit (w - 1)) b
    let sh := (2 * r) % 2 ^ w
    if out then sh ^^^ poly else sh) init

/-- The bits of a byte string, least significant bit first within each byte. -/
def lsbBits (bs : List Byte) : List Bool :=
  bs.flatMap fun b => (List.range 8).map fun i => b.getLsbD i

/-- A `w`-bit number with its bits in the opposite order. -/
def reflectBits (w n : Nat) : Nat :=
  (List.range w).foldl (fun acc i => 2 * acc + b2n (n.testBit i)) 0

/-- CRC-32C over a byte string, least significant bit first within each byte (R215, R371): all-ones at the start,
complemented at the end. -/
def crc32c (bs : List Byte) : Nat :=
  reflectBits 32 (crcBits 32 0x1EDC6F41 0xFFFFFFFF (lsbBits bs)) ^^^ 0xFFFFFFFF

end Sys2Proof.Machine
end

