-- ==== Sys2Proof/Machine/Kfs.lean ====
section
/-! DEFINITION. The Kwahiwen figure stream: record headers, the tile bin's bit stream and its figures, with the reason each
rejection gets (02_figure_stream.md, R33 to R47, R52, R429, Tables 2.1 to 2.10). -/

namespace Sys2Proof.Machine

/-- Reason codes of Table 2.10. -/
inductive FigReason where
  | badType | badHeader | zeroLength | fixedLength | order | version | jobRange
  | binOverrun | binLength | binPosition | binShort | binHeader
  | opcode | codeLength | coordRange | size | vertexCount | classUndef | repeat | truncated | trailing
  | tag | jobMismatch | noKey | refetch
  deriving DecidableEq, Repr

/-- The code of a reason (Table 2.10). -/
def FigReason.code : FigReason → Nat
  | .badType => 0x01 | .badHeader => 0x02 | .zeroLength => 0x03 | .fixedLength => 0x04 | .order => 0x05
  | .version => 0x06 | .jobRange => 0x07
  | .binOverrun => 0x10 | .binLength => 0x11 | .binPosition => 0x12 | .binShort => 0x13 | .binHeader => 0x14
  | .opcode => 0x20 | .codeLength => 0x21 | .coordRange => 0x22 | .size => 0x23 | .vertexCount => 0x24
  | .classUndef => 0x25 | .repeat => 0x26 | .truncated => 0x27 | .trailing => 0x28
  | .tag => 0x30 | .jobMismatch => 0x31 | .noKey => 0x32 | .refetch => 0x40

/-- The status a reason carries, as the codes of Table 9.5: FORMAT 3, AUTH 4, INTEGRITY 6. -/
def FigReason.status : FigReason → Nat
  | .tag | .jobMismatch | .noKey => 4
  | .refetch => 6
  | _ => 3

/-- A record header (Table 2.2). -/
structure KfsHeader where
  type : Nat
  flags : Nat
  rsv : Nat
  bodyLen : Nat
  stripe : Nat
  trow : Int
  tcol : Int
  rsv2 : Nat
  deriving DecidableEq, Repr

/-- GEN, bits 3:0 of FLAGS. -/
def KfsHeader.gen (h : KfsHeader) : Nat := h.flags % 16
/-- REPLACE, bit 4 of FLAGS. -/
def KfsHeader.replace (h : KfsHeader) : Bool := h.flags.testBit 4

/-- The header held in the first 16 bytes of a record (Table 2.2; R33: little-endian). -/
def kfsHeader (bs : List Byte) : KfsHeader where
  type := fieldLE bs 0 1
  flags := fieldLE bs 1 1
  rsv := fieldLE bs 2 2
  bodyLen := fieldLE bs 4 4
  stripe := fieldLE bs 8 2
  trow := signedOf 24 (fieldLE bs 10 3)
  tcol := signedOf 8 (fieldLE bs 13 1)
  rsv2 := fieldLE bs 14 2

/-- The 96-bit nonce of a record (R39, Table 2.4; R33: each field most significant byte first). -/
def kfsNonce (salt : Nat) (h : KfsHeader) : List Byte :=
  beBytes 4 salt ++ beBytes 1 h.type ++ beBytes 2 h.stripe ++ beBytes 3 (unsignedOf 24 h.trow)
    ++ beBytes 1 (unsignedOf 8 h.tcol) ++ beBytes 1 h.flags

/-- The fixed body length of a structural record (Table 2.1). -/
def kfsFixedLen (type : Nat) : Nat :=
  match type with
  | 1 => 32 | 2 => 128 | 3 => 16 | 4 => 80 | 6 => 16 | _ => 0

/-- A point in 1/16 nm relative to the tile origin (R43). -/
abbrev Pt := Int × Int

/-- One segment of a CURVE: a straight line to its end, or a cubic with two control points (Table 2.8). -/
inductive CurveSeg where
  | line (e : Pt)
  | cubic (c1 c2 e : Pt)
  deriving DecidableEq, Repr

/-- The region of a figure: a list of vertices in order, or a closed curve from its anchor (R47). -/
inductive Shape where
  | poly (vs : List Pt)
  | curve (start : Pt) (segs : List CurveSeg)
  deriving DecidableEq, Repr

/-- A decoded figure record: its class and its array of instances (R47). -/
structure Figure where
  cls : Nat
  shape : Shape
  nx : Nat
  ny : Nat
  px : Int
  py : Int
  deriving DecidableEq, Repr

/-- Read one bit; a read past the end is TRUNCATED (R45). -/
def readBit : List Bool → Except FigReason (Bool × List Bool)
  | [] => .error .truncated
  | b :: t => .ok (b, t)

/-- Read `n` bits, most significant first. -/
def readBits : Nat → Nat → List Bool → Except FigReason (Nat × List Bool)
  | 0, acc, bs => .ok (acc, bs)
  | _ + 1, _, [] => .error .truncated
  | n + 1, acc, b :: t => readBits n (2 * acc + b2n b) t

/-- The prefix zeros of a residue code: at most `33 - k` (R45). -/
def readZeros (k : Nat) : Nat → List Bool → Except FigReason (Nat × List Bool)
  | _, [] => .error .truncated
  | z, true :: t => .ok (z, t)
  | z, false :: t => if z + 1 > 33 - k then .error .codeLength else readZeros k (z + 1) t

/-- One residue of order `k` (R45). -/
def readResidue (k : Nat) (bs : List Bool) : Except FigReason (Int × List Bool) := do
  let (z, bs) ← readZeros k 0 bs
  let (n, bs) ← readBits (z + k) 1 bs
  let u := n - 2 ^ k
  .ok (if u % 2 = 0 then ((u / 2 : Nat) : Int) else -(((u + 1) / 2 : Nat) : Int), bs)

/-- COORD_RANGE, met when a coordinate is formed (R46, R429). -/
def inCoord (v : Int) : Except FigReason Int :=
  if -(2 ^ 31 : Int) ≤ v ∧ v < (2 ^ 31 : Int) then .ok v else .error .coordRange

/-- SIZE, met when a size is formed (R47, R429). -/
def inSize (least v : Int) : Except FigReason Int :=
  if least ≤ v then .ok v else .error .size

/-- A point from a base and a pair of residues; X is formed before Y is read (R429). -/
def readPoint (k : Nat) (p : Pt) (bs : List Bool) : Except FigReason (Pt × List Bool) := do
  let (dx, bs) ← readResidue k bs
  let x ← inCoord (p.1 + dx)
  let (dy, bs) ← readResidue k bs
  let y ← inCoord (p.2 + dy)
  .ok ((x, y), bs)

/-- The prediction state of a bin (R46), the repeat that stands before the next record, and the figures so far, newest
first. -/
structure BinState where
  a1 : Pt
  a2 : Pt
  w : Int
  h : Int
  cls : Nat
  rep : Option (Nat × Nat × Int × Int)
  figs : List Figure
  deriving DecidableEq, Repr

/-- The orders of Table 2.7. -/
structure BinOrders where
  ka : Nat
  ks : Nat
  kv : Nat
  kc : Nat
  deriving DecidableEq, Repr

/-- The anchor of a figure (R46). -/
def readAnchor (st : BinState) (o : BinOrders) (pm : Bool) (bs : List Bool) : Except FigReason (Pt × List Bool) :=
  readPoint o.ka (if pm then (2 * st.a1.1 - st.a2.1, 2 * st.a1.2 - st.a2.2) else st.a1) bs

/-- The vertices of a POLY with MAN = 0 after `v` (R47). -/
def readVerts (k : Nat) : Nat → Pt → List Bool → Except FigReason (List Pt × List Bool)
  | 0, _, bs => .ok ([], bs)
  | n + 1, v, bs => do
    let (p, bs) ← readPoint k v bs
    let (rest, bs) ← readVerts k n p bs
    .ok (p :: rest, bs)

/-- The coded vertices of a rectilinear POLY (R47): edge `i` along X when `i` is even. -/
def readManVerts (k : Nat) : Nat → Nat → Pt → List Bool → Except FigReason (List Pt × List Bool)
  | 0, _, _, bs => .ok ([], bs)
  | n + 1, i, v, bs => do
    let (d, bs) ← readResidue k bs
    let p ← if i % 2 = 0 then do let x ← inCoord (v.1 + d); pure (x, v.2)
            else do let y ← inCoord (v.2 + d); pure (v.1, y)
    let (rest, bs) ← readManVerts k n (i + 1) p bs
    .ok (p :: rest, bs)

/-- The segments of a CURVE (R47); the last one ends at the anchor. -/
def readSegs (o : BinOrders) (anchor : Pt) : Nat → Pt → List Bool → Except FigReason (List CurveSeg × List Bool)
  | 0, _, bs => .ok ([], bs)
  | n + 1, cur, bs => do
    let (ln, bs) ← readBit bs
    if ln then do
      let (e, bs) ← if n = 0 then pure (anchor, bs) else readPoint o.kv cur bs
      let (rest, bs) ← readSegs o anchor n e bs
      .ok (.line e :: rest, bs)
    else do
      let (c1, bs) ← readPoint o.kc cur bs
      let (c2, bs) ← readPoint o.kc c1 bs
      let (e, bs) ← if n = 0 then pure (anchor, bs) else readPoint o.kv c2 bs
      let (rest, bs) ← readSegs o anchor n e bs
      .ok (.cubic c1 c2 e :: rest, bs)

/-- The points of a shape. -/
def Shape.points : Shape → List Pt
  | .poly vs => vs
  | .curve s segs => s :: segs.flatMap fun g => match g with
    | .line e => [e]
    | .cubic a b e => [a, b, e]

/-- COORD_RANGE over every instance of a repeated figure (R46): the extreme instances bound the rest. -/
def inInstances (f : Figure) : Except FigReason Unit :=
  let ok := fun (v : Int) => decide (-(2 ^ 31 : Int) ≤ v ∧ v < (2 ^ 31 : Int))
  if f.shape.points.all (fun p => ok (p.1 + f.nx * f.px) && ok (p.2 + f.ny * f.py)) then .ok () else .error .coordRange

/-- The shape that a figure opcode 0 to 4 spells, with the anchor and the widths it leaves (R47, Table 2.8). -/
def readShape (op : Nat) (st : BinState) (o : BinOrders) (bs : List Bool) :
    Except FigReason ((Shape × Pt × Int × Int) × List Bool) := do
  let (pm, bs) ← readBit bs
  match op with
  | 0 => do
    let (a, bs) ← readAnchor st o pm bs
    let (dw, bs) ← readResidue o.ks bs
    let w ← inSize 1 (st.w + dw)
    let x1 ← inCoord (a.1 + w)
    let (dh, bs) ← readResidue o.ks bs
    let h ← inSize 1 (st.h + dh)
    let y1 ← inCoord (a.2 + h)
    .ok ((.poly [a, (x1, a.2), (x1, y1), (a.1, y1)], a, w, h), bs)
  | 1 => do
    let (a, bs) ← readAnchor st o pm bs
    let (dh, bs) ← readResidue o.ks bs
    let h ← inSize 1 (st.h + dh)
    let y1 ← inCoord (a.2 + h)
    let (dw, bs) ← readResidue o.ks bs
    let wb ← inSize 0 (st.w + dw)
    let xb ← inCoord (a.1 + wb)
    let (dt, bs) ← readResidue o.kv bs
    let xt ← inCoord (a.1 + dt)
    let (dwt, bs) ← readResidue o.ks bs
    let wt ← inSize 0 (wb + dwt)
    let _ ← inSize 1 (wb + wt)
    let xe ← inCoord (xt + wt)
    .ok ((.poly [a, (xb, a.2), (xe, y1), (xt, y1)], a, wb, h), bs)
  | 2 => do
    let (a, bs) ← readAnchor st o pm bs
    let (dh, bs) ← readResidue o.ks bs
    let h ← inSize 1 (st.h + dh)
    let x1 ← inCoord (a.1 + h)
    let (dw, bs) ← readResidue o.ks bs
    let wb ← inSize 0 (st.w + dw)
    let yb ← inCoord (a.2 + wb)
    let (dt, bs) ← readResidue o.kv bs
    let yt ← inCoord (a.2 + dt)
    let (dwt, bs) ← readResidue o.ks bs
    let wt ← inSize 0 (wb + dwt)
    let _ ← inSize 1 (wb + wt)
    let ye ← inCoord (yt + wt)
    .ok ((.poly [a, (x1, yt), (x1, ye), (a.1, yb)], a, wb, h), bs)
  | 3 => do
    let (man, bs) ← readBit bs
    let (nv, bs) ← readBits 6 0 bs
    let n := nv + 1
    if n < 3 ∨ (man = true ∧ (n % 2 = 1 ∨ n < 4)) then .error .vertexCount
    else do
      let (a, bs) ← readAnchor st o pm bs
      if man then do
        let (vs, bs) ← readManVerts o.kv (n - 2) 0 a bs
        .ok ((.poly (a :: vs ++ [(a.1, (vs.getLastD a).2)]), a, st.w, st.h), bs)
      else do
        let (vs, bs) ← readVerts o.kv (n - 1) a bs
        .ok ((.poly (a :: vs), a, st.w, st.h), bs)
  | _ => do
    let (ns, bs) ← readBits 8 0 bs
    let (a, bs) ← readAnchor st o pm bs
    let (segs, bs) ← readSegs o a (ns + 1) a bs
    .ok ((.curve a segs, a, st.w, st.h), bs)

/-- One record of the bit stream (R46, R47, R429). `defined c` says whether class `c` has a CLASS_ID. -/
def readRecord (defined : Nat → Bool) (o : BinOrders) (st : BinState) (bs : List Bool) :
    Except FigReason (BinState × List Bool) := do
  let (op, bs) ← readBits 4 0 bs
  if 6 < op then .error .opcode
  else if 5 ≤ op ∧ st.rep.isSome then .error .repeat
  else if op = 6 then do
    let (c, bs) ← readBits 4 0 bs
    if defined c then .ok ({ st with cls := c }, bs) else .error .classUndef
  else if op = 5 then do
    let (nx, bs) ← readBits 12 0 bs
    let (ny, bs) ← readBits 12 0 bs
    let (px, bs) ← readResidue o.ka bs
    if 0 < nx ∧ px = 0 then .error .repeat
    else do
      let (py, bs) ← readResidue o.ka bs
      if 0 < ny ∧ py = 0 then .error .repeat
      else .ok ({ st with rep := some (nx, ny, px, py) }, bs)
  else if !defined st.cls then .error .classUndef
  else do
    let ((sh, a, w, h), bs) ← readShape op st o bs
    let (nx, ny, px, py) := st.rep.getD (0, 0, 0, 0)
    let f : Figure := { cls := st.cls, shape := sh, nx := nx, ny := ny, px := px, py := py }
    let _ ← inInstances f
    .ok ({ st with a1 := a, a2 := st.a1, w := w, h := h, rep := none, figs := f :: st.figs }, bs)

/-- `n` records; every record takes at least one bit, so `fuel`, the bits there are, bounds those that can be read. -/
def readRecords (defined : Nat → Bool) (o : BinOrders) :
    Nat → Nat → BinState → List Bool → Except FigReason (BinState × List Bool)
  | _, 0, st, bs => .ok (st, bs)
  | 0, _ + 1, _, _ => .error .truncated
  | fuel + 1, n + 1, st, bs => do
    let (st, bs) ← readRecord defined o st bs
    readRecords defined o fuel n st bs

/-- The figures of a bin's plaintext, or the first reason met (R44 to R47, R429, Table 2.7). -/
def decodeBin (defined : Nat → Bool) (plain : List Byte) : Except FigReason (List Figure) := do
  let count := fieldLE plain 0 4
  let word := fieldLE plain 4 4
  if count = 0 ∨ 2 ^ 20 ≤ word then .error .binHeader
  else do
    let o : BinOrders := { ka := bitsOf word 4 0, ks := bitsOf word 9 5, kv := bitsOf word 14 10, kc := bitsOf word 19 15 }
    let bits := msbBits (plain.drop 8)
    let st0 : BinState := { a1 := (0, 0), a2 := (0, 0), w := 0, h := 0, cls := 0, rep := none, figs := [] }
    let (st, rest) ← readRecords defined o (bits.length + 1) count st0 bits
    if st.rep.isSome then .error .repeat
    else if 7 < rest.length ∨ rest.any id then .error .trailing
    else .ok st.figs.reverse

end Sys2Proof.Machine
end

