-- ==== Sys2Proof/Machine/Weave.lean ====
section
/-! DEFINITION. Exact coverage: figures as outlines, curve flattening, splitting at the grid, signed area, weighted
exposure, pixel centres, pixel words, density fragments, signatures and the sampling register
(03_weavers.md, R64 to R75, R86, R87). -/

namespace Sys2Proof.Machine

/-- `floor(n / d + 1/2)` of integers, `d > 0` (R66, R67). -/
def roundHalfUp (n d : Int) : Int := floorDiv (2 * n + d) (2 * d)

/-- The number of a cubic's chords is `2^e`: the smallest `e` from 0 with `3d ≤ 16 × 4^e`, or none up to 12 (R66). -/
def flattenExp (d : Nat) : Option Nat := (List.range 13).find? fun (e : Nat) => decide (3 * d ≤ 16 * 4 ^ e)

/-- The largest second difference of a cubic's control points over both components (R66). -/
def secondDiff (p0 p1 p2 p3 : Pt) : Nat :=
  max (max (p0.1 - 2 * p1.1 + p2.1).natAbs (p0.2 - 2 * p1.2 + p2.2).natAbs)
    (max (p1.1 - 2 * p2.1 + p3.1).natAbs (p1.2 - 2 * p2.2 + p3.2).natAbs)

/-- One component of chord point `m` of `n` (R66). -/
def chordAt (n m : Nat) (a b c d : Int) : Int :=
  let k : Int := (n - m : Nat)
  let j : Int := m
  roundHalfUp (k ^ 3 * a + 3 * k ^ 2 * j * b + 3 * k * j ^ 2 * c + j ^ 3 * d) ((n : Int) ^ 3)

/-- The chord end points of a cubic (R66). -/
def flattenCubic (p0 p1 p2 p3 : Pt) : List Pt :=
  let n := 2 ^ ((flattenExp (secondDiff p0 p1 p2 p3)).getD 12)
  (List.range n).map fun (i : Nat) =>
    (chordAt n (i + 1) p0.1 p1.1 p2.1 p3.1, chordAt n (i + 1) p0.2 p1.2 p2.2 p3.2)

/-- The vertices of a curve: the chord end points of each segment in order (R65, R66). -/
def flattenSegs : Pt → List CurveSeg → List Pt
  | _, [] => []
  | _, .line e :: t => e :: flattenSegs e t
  | p, .cubic c1 c2 e :: t => flattenCubic p c1 c2 e ++ flattenSegs e t

/-- The cubic segments of a curve that are flattened at the cap (R66: WVR_CURVE_CAPPED). -/
def cappedSegs : Pt → List CurveSeg → Nat
  | _, [] => 0
  | _, .line e :: t => cappedSegs e t
  | p, .cubic c1 c2 e :: t => (if (flattenExp (secondDiff p c1 c2 e)).isNone then 1 else 0) + cappedSegs e t

/-- The capped cubic segments of a figure, once per record (R66). -/
def Figure.capped (f : Figure) : Nat :=
  match f.shape with
  | .poly _ => 0
  | .curve s segs => cappedSegs s segs

/-- The closed vertex list of a shape (R65). -/
def Shape.vertices : Shape → List Pt
  | .poly vs => vs
  | .curve s segs => flattenSegs s segs

/-- An outline with its class: one figure of R65 in fine units of 1/256 nm (R64). -/
structure Outline where
  cls : Nat
  pts : List Pt
  deriving DecidableEq, Repr

/-- Every instance of a figure record as an outline (R65, R47: instance (a, b) is displaced by (a PX, b PY)). -/
def Figure.outlines (f : Figure) : List Outline :=
  let vs := f.shape.vertices
  (List.range (f.ny + 1)).flatMap fun (b : Nat) => (List.range (f.nx + 1)).map fun (a : Nat) =>
    { cls := f.cls, pts := vs.map fun p => (16 * (p.1 + a * f.px), 16 * (p.2 + b * f.py)) }

/-- The edges of an outline: each vertex to the next and the last to the first (R65). -/
def Outline.edges (o : Outline) : List (Pt × Pt) :=
  match o.pts with
  | [] => []
  | p :: t => List.zip (p :: t) (t ++ [p])

/-- The orientation of an outline (R65). -/
def Outline.sign (o : Outline) : Int :=
  Int.sign ((o.edges.map fun e => e.1.1 * e.2.2 - e.2.1 * e.1.2).sum)

/-- A piece of an edge with the column and row of the cell that holds it; column 0 is left of the first grid line (R67). -/
structure Piece where
  xa : Int
  ya : Int
  xb : Int
  yb : Int
  col : Nat
  row : Nat
  deriving DecidableEq, Repr

/-- How many lines of a grid lie at or before `n / d`. -/
def gridIndex (ls : List Int) (n d : Int) : Nat := (ls.filter fun l => decide (l * d ≤ n)).length

/-- Insert a crossing by its position along the edge; crossings at one position are one corner (R67). -/
def insertCrossing (c : Nat × Pt) : List (Nat × Pt) → List (Nat × Pt)
  | [] => [c]
  | h :: t => if c.1 < h.1 then c :: h :: t else if c.1 = h.1 then h :: t else h :: insertCrossing c t

/-- The pieces of an edge on the grid of vertical lines `xs` and horizontal lines `ys` (R67). A position along the edge is
a number from 0 to `dd`; rounding a crossing to whole units never leaves the column that holds it, because grid lines
are whole. -/
def edgePieces (xs ys : List Int) (e : Pt × Pt) : List Piece :=
  let (x0, y0) := e.1
  let (x1, y1) := e.2
  let dx := x1 - x0
  let dy := y1 - y0
  if dx = 0 ∧ dy = 0 then []
  else
    let sx := if dx = 0 then 1 else dx.natAbs
    let sy := if dy = 0 then 1 else dy.natAbs
    let dd := sx * sy
    let hs := (ys.filter fun l => decide ((min y0 y1 < l) ∧ l < max y0 y1)).map fun l =>
      ((l - y0).natAbs * sx, ((x0 * dy + (l - y0) * dx) * Int.sign dy, l))
    let hs := hs.map fun c => (c.1, (roundHalfUp c.2.1 dy.natAbs, c.2.2))
    let vs := (xs.filter fun l => decide ((min x0 x1 < l) ∧ l < max x0 x1)).map fun l =>
      ((l - x0).natAbs * sy, (l, (y0 * dx + (l - x0) * dy) * Int.sign dx))
    let vs := vs.map fun c => (c.1, (c.2.1, roundHalfUp c.2.2 dx.natAbs))
    let cs := (hs ++ vs).foldl (fun acc c => insertCrossing c acc) []
    let pts := (0, e.1) :: cs ++ [(dd, e.2)]
    (List.zip pts pts.tail).map fun ab =>
      let m : Int := (ab.1.1 + ab.2.1 : Nat)
      let d2 : Int := 2 * dd
      { xa := ab.1.2.1, ya := ab.1.2.2, xb := ab.2.2.1, yb := ab.2.2.2,
        col := gridIndex xs (x0 * d2 + dx * m) d2, row := gridIndex ys (y0 * d2 + dy * m) d2 }

/-- The signed area of an outline in the cell between lines `i - 1` and `i` of `xs` and the row `j` of `ys` (R68, R73). -/
def signedArea (xs ys : List Int) (i j : Nat) (o : Outline) : Int :=
  let right := xs.getD i 0
  let width := right - xs.getD (i - 1) 0
  (o.edges.map fun e => ((edgePieces xs ys e).map fun p =>
    if p.row ≠ j then 0
    else if p.col = i then (p.ya - p.yb) * (2 * right - p.xa - p.xb)
    else if p.col < i then 2 * width * (p.ya - p.yb)
    else 0).sum).sum

/-- Weights of the classes: WT_c of R69. -/
abbrev Weights := List Nat

/-- The value K of a cell: the true sum modulo 2^48 read as signed (R69). -/
def cellSum (wt : Weights) (xs ys : List Int) (i j : Nat) (os : List Outline) : Int :=
  let k := (os.map fun o => (wt.getD o.cls 0 : Int) * o.sign * signedArea xs ys i j o).sum
  signedOf 48 (unsignedOf 48 k)

/-- The weighted exposure of R69, held at `top`. -/
def exposureOf (top : Nat) (k : Int) : Nat :=
  if k ≤ 0 then 0 else min ((k.toNat + 1638400) / 3276800) top

/-- The lines of the pixel grid: 1,280 m for m from -4 to 4,100 (R67). -/
def pixelLines : List Int := (List.range 4105).map fun (m : Nat) => 1280 * ((m : Int) - 4)

/-- The winding of an outline at a point (R71). -/
def winding (o : Outline) (xc yc : Int) : Int :=
  (o.edges.map fun e =>
    let (x0, y0) := e.1
    let (x1, y1) := e.2
    if min y0 y1 ≤ yc ∧ yc < max y0 y1 ∧
        (x0 * (y1 - y0) + (yc - y0) * (x1 - x0)) * Int.sign (y1 - y0) ≤ xc * (y1 - y0).natAbs
    then Int.sign (y0 - y1) else 0).sum

/-- W_c of R71 at a point is not zero modulo 2^16. -/
def classHit (os : List Outline) (xc yc : Int) (c : Nat) : Bool :=
  unsignedOf 16 ((os.map fun o => if o.cls = c then o.sign * winding o xc yc else 0).sum) ≠ 0

/-- The highest class that encloses a pixel centre, if one does (R71). -/
def centreClass (os : List Outline) (x y : Int) : Option Nat :=
  ((List.range 16).reverse).find? (classHit os (1280 * x + 640) (1280 * y + 640))

/-- A pixel word (Table 3.1). -/
structure Pixel where
  we : Nat
  ctr : Bool
  cls : Nat
  halo : Bool
  deriving DecidableEq, Repr

/-- The 32-bit word of a pixel (Table 3.1). -/
def Pixel.word (p : Pixel) : Nat := p.we + 65536 * p.cls + 2 ^ 20 * b2n p.ctr + 2 ^ 21 * b2n p.halo

/-- Read a pixel word. -/
def Pixel.ofWord (w : Nat) : Pixel :=
  { we := w % 65536, cls := bitsOf w 19 16, ctr := bitOf w 20, halo := bitOf w 21 }

/-- The pixel word of window pixel (x, y), -4 to 4,099 in each axis (R69, R71, R72). -/
def pixelAt (wt : Weights) (os : List Outline) (x y : Int) : Pixel :=
  let c := centreClass os x y
  { we := exposureOf 65535 (cellSum wt pixelLines pixelLines (x + 5).toNat (y + 5).toNat os)
    ctr := c.isSome
    cls := c.getD 0
    halo := x < 0 || 4095 < x || y < 0 || 4095 < y }

/-- The job pixel at which a tile starts (03_weavers.md, "Coarse density"). -/
def tileOriginX (stripe : Nat) (tcol : Int) : Int := (stripe : Int) * 65280 + 4096 * tcol

/-- The lines of the density grid across a tile that starts at job pixel `p`, in fine units from the tile's own corner:
the tile's boundaries and the cell boundaries between them (R73). -/
def densityLines (p : Int) : List Int :=
  let first := floorDiv p 200
  let inner := (List.range 22).filterMap fun (i : Nat) =>
    let l := 200 * (first + 1 + (i : Int)) - p
    if 0 < l ∧ l < 4096 then some (1280 * l) else none
  0 :: inner ++ [1280 * 4096]

/-- One density fragment (Table 3.2). -/
structure Fragment where
  du : Nat
  dv : Nat
  f : Nat
  deriving DecidableEq, Repr

/-- The 64-bit fragment record (Table 3.2). -/
def Fragment.word (g : Fragment) : Nat := g.f + 2 ^ 32 * g.du + 2 ^ 37 * g.dv

/-- The fragments of a density pass: ascending DV, then ascending DU (R73, R74). -/
def fragmentsOf (wt : Weights) (os : List Outline) (px py : Int) : List Fragment :=
  let xs := densityLines px
  let ys := densityLines py
  (List.range (ys.length - 1)).flatMap fun (v : Nat) => (List.range (xs.length - 1)).map fun (u : Nat) =>
    { du := u, dv := v, f := exposureOf (2 ^ 32 - 1) (cellSum wt xs ys (u + 1) (v + 1) os) }

/-- The tile a pass works on. -/
structure TileId where
  stripe : Nat
  trow : Int
  tcol : Int
  deriving DecidableEq, Repr

/-- The pixel words of a pass in the order of R72: `up` for a +Y stripe. -/
def windowWords (pix : Int → Int → Nat) (up : Bool) : List Nat :=
  (List.range 4104).flatMap fun (j : Nat) => (List.range 4104).map fun (i : Nat) =>
    pix ((i : Int) - 4) (if up then (j : Int) - 4 else 4099 - (j : Int))

/-- The signature of a pass (R86): CRC-64 over the tile identity and the output words of `n` bytes each. -/
def passSignature (tile : TileId) (passType n : Nat) (words : List Nat) : Nat :=
  let ident := leBytes 2 tile.stripe ++ leBytes 3 (unsignedOf 24 tile.trow) ++ leBytes 1 (unsignedOf 8 tile.tcol)
    ++ leBytes 1 passType ++ leBytes 1 0
  let bytes := ident ++ words.flatMap (leBytes n)
  crcBits 64 0x42F0E1EBA9EA3693 (2 ^ 64 - 1) (msbBits bytes) ^^^ (2 ^ 64 - 1)

/-- One shift of the sampling register, x^32 + x^22 + x^2 + x + 1 (R87). -/
def lfsrShift (r : BitVec 32) : BitVec 32 :=
  (r <<< 1) ||| (if xor (xor (r.getLsbD 31) (r.getLsbD 21)) (xor (r.getLsbD 1) (r.getLsbD 0)) then 1 else 0)

/-- One draw: 32 shifts (R87). -/
def lfsrDraw (r : BitVec 32) : BitVec 32 := (List.range 32).foldl (fun r _ => lfsrShift r) r

end Sys2Proof.Machine
end

