-- ==== Sys2Proof/Machine/Correct.lean ====
section
/-! DEFINITION. The arithmetic of dose correction: effective class, short-range term, density, backscatter, fog, border and
the EV container (04_dose_correction.md, R93 to R111, Table 4.4). A correction page is read through a function from its
page offsets to its words. -/

namespace Sys2Proof.Machine

/-- The words of a configuration page by page offset. -/
abbrev Page := Nat → Nat

/-- The effective class of a pixel: its own class, the first neighbour's in the fixed order, or 0 (R96). -/
def effClass (pix : Int → Int → Pixel) (x y : Int) : Nat :=
  if (pix x y).ctr then (pix x y).cls
  else
    let ns : List Pt := [(x - 1, y), (x + 1, y), (x, y - 1), (x, y + 1), (x - 1, y - 1), (x + 1, y - 1), (x - 1, y + 1),
      (x + 1, y + 1)]
    match ns.find? fun p => (pix p.1 p.2).ctr with
    | some p => (pix p.1 p.2).cls
    | none => 0

/-- A kernel entry SR[dy][dx], signed Q2.14 (R98, Table 4.6). -/
def srEntry (pg : Page) (dx dy : Int) : Int :=
  let e := (9 * (dy + 4) + (dx + 4)).toNat
  let w := pg (0x400 + 4 * (e / 2))
  signedOf 16 (if e % 2 = 0 then w % 65536 else w / 65536)

/-- The short-range sum of R98. -/
def srSum (pg : Page) (we : Int → Int → Nat) (x y : Int) : Int :=
  ((List.range 9).flatMap fun (j : Nat) => (List.range 9).map fun (i : Nat) =>
    let dx : Int := (i : Int) - 4
    let dy : Int := (j : Int) - 4
    srEntry pg dx dy * (we (x + dx) (y + dy) : Int)).sum

/-- X of R98 and whether it was held at 65,535. -/
def shortRange (sum : Int) : Nat × Bool :=
  let v := floorDiv (sum + 8192) 16384
  (if v < 0 then 0 else min v.toNat 65535, decide (65535 < v))

/-- The cell density D of R100. -/
def cellDensity (f : Nat) : Nat := min ((f + 5000) / 10000) 65535

/-- g_k[d], unsigned Q0.16 (R101, Table 4.6). -/
def gaussEntry (pg : Page) (k d : Nat) : Nat :=
  if 32 < d then 0
  else
    let w := pg (0x200 + 0x80 * k + 4 * (d / 2))
    if d % 2 = 0 then w % 65536 else w / 65536

/-- NGAUSS of a correction page. -/
def pageNGauss (pg : Page) : Nat := bitsOf (pg 0x100) 18 16
/-- ETA of a correction page. -/
def pageEta (pg : Page) : Nat := pg 0x100 % 65536
/-- F_MAX of a correction page. -/
def pageFMax (pg : Page) : Nat := bitsOf (pg 0x104) 19 0

/-- B of a cell from the densities around it (R101). -/
def backscatterCell (pg : Page) (d : Int → Int → Nat) (u v : Int) : Nat :=
  let raw := fun (k : Nat) => ((List.range 65).map fun (j : Nat) =>
    gaussEntry pg k ((j : Int) - 32).natAbs * ((List.range 65).map fun (i : Nat) =>
      gaussEntry pg k ((i : Int) - 32).natAbs * d (u + (i : Int) - 32) (v + (j : Int) - 32)).sum).sum
  let s := ((List.range (pageNGauss pg)).map fun (k : Nat) => pg (0x120 + 4 * k) % 65536 * raw k).sum
  min ((s + 2 ^ 46) / 2 ^ 47) 65535

/-- Bilinear interpolation between the centres of cells `2 * half` pixels wide (R102, R108). -/
def bilinear (half : Nat) (val : Int → Int → Nat) (x y : Int) : Nat :=
  let w : Int := 4 * half
  let tx := 2 * x + 1 - 2 * half
  let ty := 2 * y + 1 - 2 * half
  let u := floorDiv tx w
  let v := floorDiv ty w
  let fx := tx - w * u
  let fy := ty - w * v
  let s := (val u v : Int) * (w - fx) * (w - fy) + (val (u + 1) v : Int) * fx * (w - fy)
    + (val u (v + 1) : Int) * (w - fx) * fy + (val (u + 1) (v + 1) : Int) * fx * fy
  (floorDiv (s + w * w / 2) (w * w)).toNat

/-- The backscatter factor of R103 and whether it was held at F_MAX. -/
def backscatterFactor (pg : Page) (bp : Nat) : Nat × Bool :=
  let num := 2 ^ 25 + pageEta pg * 2 ^ 12
  let den := 2 ^ 25 + pageEta pg * bp
  let f := (num * 2 ^ 16 + den / 2) / den
  (min f (pageFMax pg), decide (pageFMax pg < f))

/-- NU and NV of a correction page (R107). -/
def pageFogDim (pg : Page) : Nat × Nat := (bitsOf (pg 0x10C) 11 0, bitsOf (pg 0x10C) 27 16)
/-- FOG_BASE of a correction page. -/
def pageFogBase (pg : Page) : Nat := pg 0x110 + 2 ^ 32 * pg 0x114
/-- The address of fog map entry (u, v), held to the map's edge (R107, R108). -/
def fogAddr (pg : Page) (u v : Int) : Nat :=
  let (nu, nv) := pageFogDim pg
  let uu := (clampInt 0 ((nu : Int) - 1) u).toNat
  let vv := (clampInt 0 ((nv : Int) - 1) v).toNat
  pageFogBase pg + 2 * (vv * nu + uu)

/-- The ramp value of a correction page (R109). -/
def pageRamp (pg : Page) (b : Nat) : Nat :=
  if bitOf (pg 0x118) 0 then bitsOf (pg (0x800 + 4 * b)) 16 0 else 256 * b + 128

/-- The border weight of line `x` of stripe `j` (R109). -/
def borderWeight (pg : Page) (stripeCount j x : Nat) : Nat :=
  if x < 256 ∧ 0 < j then pageRamp pg x
  else if 65280 ≤ x ∧ j + 1 < stripeCount then 65536 - pageRamp pg (x - 65280)
  else 65536

/-- The class entry word 1 of a correction page (Table 4.2). -/
def pageClass (pg : Page) (c : Nat) : Nat := pg (0x10 * c + 4)

/-- One corrected pixel: its container and the three saturations it met (R93, R98, R103, R111). -/
structure Corrected where
  container : Nat
  xSat : Bool
  fSat : Bool
  evSat : Bool
  deriving DecidableEq, Repr

/-- The exposure value of the product of R93, held at 4,095. -/
def evOf (x f g c w : Nat) : Nat × Bool :=
  let e := (x * f * g * c * w + 2 ^ 60) / 2 ^ 61
  (min e 4095, decide (4095 < e))

/-- Correct one written pixel at tile-local (x, y): `jx`, `jy` its job pixel, `line` its line in the stripe, `bCell` the
stored B of a cell and `fog` the map entry (R93 to R111). -/
def correctPixel (pg : Page) (pix : Int → Int → Pixel) (x y jx jy : Int) (stripeCount stripe line : Nat)
    (bCell fog : Int → Int → Nat) : Corrected :=
  let p := pix x y
  let cls := pageClass pg (effClass pix x y)
  let sr := if bitOf cls 17 then shortRange (srSum pg (fun a b => (pix a b).we) x y) else (p.we, false)
  let f := if bitOf cls 16 ∧ 0 < pageNGauss pg then backscatterFactor pg (bilinear 100 bCell jx jy) else (65536, false)
  let g := if bitOf cls 18 ∧ bitOf (pg 0x108) 0 then bilinear 10000 fog jx jy else 16384
  let w := borderWeight pg stripeCount stripe line
  let ev := evOf sr.1 f.1 g (cls % 65536) w
  { container := ev.1 + 4096 * bitsOf cls 21 20 + 2 ^ 14 * b2n p.ctr + 2 ^ 15 * b2n (decide (w < 65536))
    xSat := sr.2, fSat := f.2, evSat := ev.2 }

end Sys2Proof.Machine
end

