-- ==== Sys2Proof/Config.lean ====
section
/-! DEFINITION. The free values: what the spec leaves open and the machine goes on (log entry 2). -/

namespace Sys2Proof

/-- The value that the `n`-th open point of a run takes: 64 bits that nothing constrains, fewer where fewer are used. -/
opaque Config.freeWord : Nat → BitVec 64

end Sys2Proof
end

