-- ==== Sys2Proof/Machine/Ecc.lean ====
section
/-! DEFINITION. The SECDED code and its syndrome classes (R303, Table 10.6), address orders and the channel-local offset
(Tables 10.1, 10.2), and region entries (R291). -/

namespace Sys2Proof.Machine

/-- The number of ones of an 8-bit value. -/
def weight8 (n : Nat) : Nat := (List.range 8).foldl (fun a i => a + b2n (n.testBit i)) 0

/-- The columns h_0 to h_63 of the code (R303). -/
def eccColumns : List Nat :=
  (List.range 256).filter (fun v => weight8 v = 3) ++ ((List.range 256).filter fun v => weight8 v = 5).take 8

/-- The code of a data word (R303). -/
def eccCode (data : Nat) : Nat :=
  (eccColumns.zipIdx.filter fun p => data.testBit p.2).foldl (fun a p => a ^^^ p.1) 0

/-- Classes of a syndrome (Table 10.6). -/
inductive EccClass where
  | clean
  | marked
  | check
  | data (bit : Nat)
  | ue
deriving DecidableEq, Repr

/-- The mark of R303. -/
def eccMark : Nat := 0x7F

/-- The class of a syndrome (Table 10.6). -/
def eccClass (s : Nat) : EccClass :=
  if s = 0 then .clean
  else if s = eccMark then .marked
  else if weight8 s = 1 then .check
  else if s ∈ eccColumns then .data (eccColumns.idxOf s)
  else .ue

/-- The syndrome of a word stored with data altered by `dx` and check byte altered by `cx`, marked or not (R303: the code
is linear, so the stored data themselves cancel). -/
def eccSyndrome (mark : Bool) (dx cx : Nat) : Nat := eccCode dx ^^^ cx ^^^ (if mark then eccMark else 0)

/-- Bytes of local memory. -/
def localTop : Nat := 0x1800000000

/-- Logical channel index 15 s + k and channel-local offset of a local address (R289). -/
def addrOrder (order a : Nat) : Nat × Nat :=
  if order = 1 then
    let r := a % 0x600000000
    let g := r / 4096
    (15 * (a / 0x600000000) + g % 15, g / 15 * 4096 + r % 4096)
  else if order = 2 then
    let g := a / 1024
    let c := g % 60
    (15 * (c % 4) + c / 4, g / 60 * 1024 + a % 1024)
  else
    let g := a / 4096
    let c := g % 60
    (15 * (c % 4) + c / 4, g / 60 * 4096 + a % 4096)

/-- The local address at a channel-local offset: the inverse of `addrOrder`. -/
def addrOfOffset (order ch o : Nat) : Nat :=
  let s := ch / 15
  let k := ch % 15
  if order = 1 then s * 0x600000000 + (o / 4096 * 15 + k) * 4096 + o % 4096
  else if order = 2 then (o / 1024 * 60 + 4 * k + s) * 1024 + o % 1024
  else (o / 4096 * 60 + 4 * k + s) * 4096 + o % 4096

/-- Bytes that an address order maps on one logical channel: 96 GiB / 60, in whole granules (R289). -/
def channelSpan (order ch : Nat) : Nat :=
  if order = 1 then ((0x600000000 / 4096 - ch % 15 + 14) / 15) * 4096
  else if order = 2 then ((localTop / 1024 - (4 * (ch % 15) + ch / 15) + 59) / 60) * 1024
  else ((localTop / 4096 - (4 * (ch % 15) + ch / 15) + 59) / 60) * 4096

/-- The physical cell of a channel-local offset (Table 10.1). -/
structure CellPlace where
  pc : Nat
  bankGroup : Nat
  bank : Nat
  sid : Nat
  row : Nat
deriving DecidableEq, Repr

/-- Table 10.1. -/
def cellPlace (o : Nat) : CellPlace :=
  { pc := bitsOf o 10 10, bankGroup := bitsOf o 12 11, bank := bitsOf o 14 13, sid := bitsOf o 16 15,
    row := bitsOf o 30 17 }

/-- Region types (Table 10.10). -/
inductive RegionType where
  | unused | staging | footprint | figure | corrmap | tables | job | telemetry | reserve | free | reserved
deriving DecidableEq, Repr

/-- The type a code names; reserved codes are a type of their own. -/
def RegionType.ofCode : Nat → RegionType
  | 0 => .unused | 1 => .staging | 2 => .footprint | 3 => .figure | 4 => .corrmap | 5 => .tables | 6 => .job
  | 7 => .telemetry | 8 => .reserve | 9 => .free | _ => .reserved

/-- The code of a region type. -/
def RegionType.code : RegionType → Nat
  | .unused => 0 | .staging => 1 | .footprint => 2 | .figure => 3 | .corrmap => 4 | .tables => 5 | .job => 6
  | .telemetry => 7 | .reserve => 8 | .free => 9 | .reserved => 10

/-- A region entry: pages of 64 KiB. -/
structure Region where
  type : RegionType
  first : Nat
  last : Nat
deriving DecidableEq, Repr

/-- The region check of R291: unused entries take no part. -/
def regionsOk (rs : List Region) : Bool :=
  let us := rs.filter fun r => r.type ≠ .unused
  us.all (fun r => decide (r.first ≤ r.last))
    && (us.zipIdx.all fun a => us.zipIdx.all fun b =>
        a.2 == b.2 || decide (a.1.last < b.1.first) || decide (b.1.last < a.1.first))
    && decide ((us.filter fun r => r.type = .reserve).map (fun r => r.last + 1 - r.first) = [65536])

/-- The region of a local address: FREE where no entry holds it (R291). -/
def regionOf (rs : List Region) (a : Nat) : RegionType :=
  match rs.find? fun r => r.type ≠ .unused ∧ r.first ≤ a / 65536 ∧ a / 65536 ≤ r.last with
  | some r => r.type
  | none => .free

/-- A structure lies wholly within one region of its type (R293). -/
def placedOk (rs : List Region) (ty : RegionType) (base size : Nat) : Bool :=
  rs.any fun r => r.type = ty ∧ r.first * 65536 ≤ base ∧ base + size ≤ (r.last + 1) * 65536

end Sys2Proof.Machine
end

