-- ==== Sys2Proof/Machine/Feed.lean ====
section
/-! DEFINITION. The lattice, the slath map and the beam feed's arithmetic: beams and ticks (R15 to R27), share plan,
playback, heating, calibration, curves, quantisation (R157 to R172, R179), the shot ledger's layout (R174, R175). -/

namespace Sys2Proof.Machine

/-! The lattice (R15 to R17, R24, R25). -/

/-- Beams of the plate. -/
def beamCount : Nat := 262144

/-- The line a beam traces (R15). -/
def beamLine (b : Nat) : Nat := b % 512 * 128 + b / 512 % 128

/-- The logical data lane that carries a beam (R17). -/
def beamLane (b : Nat) : Nat := 16 * (b / 512 / 128) + b / 512 % 128 / 8

/-- The slot of a beam in its lane's payload (R17). -/
def beamSlot (b : Nat) : Nat := b / 512 % 8 * 512 + b % 512

/-- The quadrant of a beam (R168). -/
def beamQuad (b : Nat) : Nat := 2 * (b / 512 / 256) + b % 512 / 256

/-- q of a row: rows counted from the leading row (R24). -/
def rowQ (down : Bool) (i : Nat) : Nat := if down then i else 511 - i

/-- The beam of line x that gives pass p (R16, R25). -/
def passBeam (down : Bool) (x p : Nat) : Nat :=
  (128 * (if down then p else 3 - p) + x % 128) * 512 + x / 128

/-- The rows a logical lane carries: first and last (R17). -/
def laneRows (lane : Nat) : Nat × Nat := (128 * (lane / 16) + 8 * (lane % 16), 128 * (lane / 16) + 8 * (lane % 16) + 7)

/-- The slath entry the module writes at Upsett (Table 1.4). -/
def slathReset (b : Nat) : Nat :=
  b + beamLine b * 2 ^ 18 + (b / 512 / 128) * 2 ^ 34 + beamLane b * 2 ^ 36 + beamSlot b * 2 ^ 42

/-- R27: every field but YTRIM holds its reset value and the reserved field is zero. -/
def slathOk (b entry : Nat) : Bool := entry % 2 ^ 54 == slathReset b && entry / 2 ^ 57 == 0

/-- YTRIM of a slath entry. -/
def slathTrim (entry : Nat) : Nat := bitsOf entry 56 54

/-- The byte of the reset slath map at an offset from the bank base. -/
def slathByte (off : Nat) : Byte := BitVec.ofNat 8 (slathReset (off / 8) / 2 ^ (8 * (off % 8)))

/-! Runs as the feed sees them. -/

/-- What the share plan needs of a run: its geometry, dead beams, trims, holes and HEAL_EN. -/
structure RunView where
  down : Bool
  wStart : Nat
  len : Nat
  dry : Bool
  heal : Bool
  dead : Nat → Bool
  trim : Nat → Nat
  hole : Nat → Nat → Bool

/-- The stripe tick at which a beam writes writing index w (R24, R178). -/
def RunView.tick (v : RunView) (b w : Nat) : Nat :=
  65536 + 128 * rowQ v.down (b / 512) + v.trim b + (w - v.wStart)

/-- The writing index a beam writes at stripe tick k, if the run writes it (R24, R178). -/
def RunView.windex (v : RunView) (b k : Nat) : Option Nat :=
  let base := 65536 + 128 * rowQ v.down (b / 512) + v.trim b
  if base ≤ k ∧ v.wStart + (k - base) < v.len then some (v.wStart + (k - base)) else none

/-- The stripe slice of a writing index (R24). -/
def RunView.slice (v : RunView) (w : Nat) : Nat := if v.down then v.len - 1 - w else w

/-- The writing index of a stripe slice. -/
def RunView.ofSlice (v : RunView) (s : Nat) : Nat := if v.down then v.len - 1 - s else s

/-- Λ: the live passes of line x (R158). -/
def RunView.live (v : RunView) (x : Nat) : List Nat :=
  (List.range 4).filter fun (p : Nat) => !v.dead (passBeam v.down x p)

/-- Pass q's shot of line x at writing index w is a hole, whatever HEAL_EN says (R159, R161). -/
def RunView.lost (v : RunView) (x w q : Nat) : Bool :=
  let b := passBeam v.down x q
  v.hole (b / 512) (v.tick b w)

/-- hole(q) as the share plan takes it: 0 with HEAL_EN = 0 (R161). -/
def RunView.healHole (v : RunView) (x w q : Nat) : Bool := v.heal && v.lost x w q

/-- CEIL of R161: 63 nominal levels. -/
def doseCeil : Nat := 64512

/-- What remains of dose `d` before pass p and p's share (R161). -/
def RunView.plan (v : RunView) (x w d p : Nat) : Nat × Nat :=
  let lam := v.live x
  let rem := (lam.filter (· < p)).foldl (fun rem q =>
    let s := rem / (lam.filter (q ≤ ·)).length
    if v.healHole x w q then rem else rem - min s doseCeil) d
  (rem, rem / (lam.filter (p ≤ ·)).length)

/-- The share of pass p (R161). -/
def RunView.share (v : RunView) (x w d p : Nat) : Nat := (v.plan x w d p).2

/-- The dose that remains of `m` after the earlier run `e` (R179); `s` is the pixel's stripe slice. -/
def RunView.remaining (e : RunView) (x s m : Nat) : Nat :=
  let w := e.ofSlice s
  if e.dry then m
  else if w < e.wStart then m
  else m - ((e.live x).filter fun q => !e.lost x w q).foldl (fun t q => t + min (e.share x w m q) doseCeil) 0

/-- T of a pixel (R157). -/
def targetDose (ev n0 : Nat) : Nat := 8 * ev * n0

/-- M: the target less what the chain of earlier runs, oldest first, delivered (R179). -/
def remainingDose (chain : List RunView) (x s t : Nat) : Nat := chain.foldl (fun m e => e.remaining x s m) t

/-! The beam-feed page (Table 6.13). -/

/-- N0. -/
def feedN0 (pg : Page) : Nat := bitsOf (pg 0) 5 0
/-- HEAT_EN. -/
def feedHeatEn (pg : Page) : Bool := bitOf (pg 0) 8
/-- TBL_BANK. -/
def feedBank (pg : Page) : Bool := bitOf (pg 0) 12
/-- CAL_Tj, signed Q8.8. -/
def feedCalT (pg : Page) (j : Nat) : Int := signedOf 16 (pg (4 + 4 * (j / 2)) / 2 ^ (16 * (j % 2)))
/-- Knot i of curve m. -/
def feedKnot (pg : Page) (m i : Nat) : Nat := pg (0x100 + 0x100 * m + 4 * (i / 2)) / 2 ^ (16 * (i % 2)) % 65536

/-- The heating factor of R165. -/
def heatFactor (pg : Page) (theta : Nat) : Nat :=
  max (pg 0x10 / 65536) (32768 - theta * (pg 0x10 % 65536) / 2 ^ 24)

/-- The dose after heating (R165). -/
def heatedDose (pg : Page) (theta s : Nat) : Nat :=
  if feedHeatEn pg then (s * heatFactor pg theta + 16384) / 32768 else s

/-- One decay of the thermal state (R164). -/
def heatDecay (kappa theta : Nat) : Nat := theta - theta * kappa / 2 ^ 24

/-- j and φ of R168 for a quadrant temperature. -/
def calPlace (pg : Page) (tau : Int) : Nat × Int :=
  let t := clampInt (feedCalT pg 0) (feedCalT pg 3) tau
  let j := if feedCalT pg 2 ≤ t then 2 else if feedCalT pg 1 ≤ t then 1 else 0
  (j, floorDiv ((t - feedCalT pg j) * 65536) (feedCalT pg (j + 1) - feedCalT pg j))

/-- Interpolation between two calibration values (R168). -/
def calInterp (a b phi : Int) : Int := a + floorDiv ((b - a) * phi + 32768) 65536

/-- GAIN and OFFSET of a calibration entry (Table 6.4). -/
def calGain (e : Nat) : Int := (e % 65536 : Nat)
/-- OFFSET of a calibration entry. -/
def calOffset (e : Nat) : Int := signedOf 16 (e / 65536)

/-- c of R170 and whether it was held at 65,535. -/
def calibrated (g o : Int) (d : Nat) : Nat × Bool :=
  let v := floorDiv ((d : Int) * g + 8192) 16384 + o
  (if v < 0 then 0 else min v.toNat 65535, decide (65535 < v))

/-- λ of R171. -/
def curveOf (pg : Page) (m c : Nat) : Nat :=
  let i := min (c / 1024) 63
  let f := c - 1024 * i
  feedKnot pg m i + (feedKnot pg m (i + 1) - feedKnot pg m i) * f / 1024

/-- The threshold of pass p of pixel (x, w) (R172). -/
def quantTheta (v : RunView) (x w p : Nat) : Nat :=
  let ps := (v.live x).filter fun q => !(decide (q < p) && v.healHole x w q)
  let n := ps.length
  let r := (ps.filter (· < p)).length
  (2 * ((r + x + w) % n) + 1) * 512 / n

/-- The level of R172 and whether it was held at 63. -/
def quantLevel (lam theta : Nat) : Nat × Bool := (min ((lam + theta) / 1024) 63, decide (63 < (lam + theta) / 1024))

/-- One beam's level with its clip counts (steps 3 to 7 of Table 6.1, R162). -/
structure LevelOut where
  level : Nat := 0
  share : Nat := 0
  clips : Nat := 0
deriving DecidableEq, Repr

/-- Steps 3 to 7 of Table 6.1 for pass p of pixel (x, w) with dose d. -/
def RunView.level (v : RunView) (pg : Page) (cmark theta : Nat) (g o : Int) (x w d p : Nat) : LevelOut :=
  let s := v.share x w d p
  if s = 0 then {}
  else
    let c := calibrated g o (heatedDose pg theta s)
    let l := quantLevel (curveOf pg cmark c.1) (quantTheta v x w p)
    { level := l.1, share := s, clips := b2n c.2 + b2n l.2 }

/-- What the last live pass of a pixel leaves: the shortfall and whether an earlier live pass was a hole (R163). -/
def RunView.lastPass (v : RunView) (x w d p : Nat) : Option (Nat × Bool) :=
  let lam := v.live x
  if lam.getLast? = some p then
    let pl := v.plan x w d p
    some (pl.1 - min pl.2 doseCeil, (lam.filter (· < p)).any (v.healHole x w))
  else none

/-! The beam-feed page checks of R180. -/

/-- Reserved fields of the beam-feed page are zero, N0 in range, temperatures ascending, curves valid (R180, R181). -/
def feedPageOk (pg : Page) : Bool :=
  (pg 0 / 2 ^ 6 % 4 == 0 && bitsOf (pg 0) 11 9 == 0 && bitsOf (pg 0) 31 13 == 0 && pg 0xC / 2 ^ 24 == 0)
  && ((List.range 0x3B).all fun (i : Nat) => pg (0x14 + 4 * i) == 0)
  && ((List.range 4).all fun (m : Nat) => bitsOf (pg (0x100 + 0x100 * m + 0x80)) 31 16 == 0
      && (List.range 31).all fun (i : Nat) => pg (0x100 + 0x100 * m + 4 * (33 + i)) == 0)
  && ((List.range 0x2C0).all fun (i : Nat) => pg (0x500 + 4 * i) == 0)
  && decide (8 ≤ feedN0 pg ∧ feedN0 pg ≤ 40)
  && decide (feedCalT pg 0 < feedCalT pg 1 ∧ feedCalT pg 1 < feedCalT pg 2 ∧ feedCalT pg 2 < feedCalT pg 3)
  && ((List.range 4).all fun (m : Nat) => feedKnot pg m 0 == 0
      && (List.range 64).all fun (i : Nat) => decide (feedKnot pg m i ≤ feedKnot pg m (i + 1)))

/-! The shot ledger (Tables 6.9 to 6.11). -/

/-- Causes of holes with their ledger codes (Tables 6.2, 6.11). -/
inductive HoleCause where
  | linkLost | laneSwap | overspeed | missing | deadline | loadLate | truncate | abort
deriving DecidableEq, Repr

/-- The CAUSE code (Table 6.11). -/
def HoleCause.code : HoleCause → Nat
  | .linkLost => 1 | .laneSwap => 2 | .overspeed => 3 | .missing => 4 | .deadline => 5 | .loadLate => 6
  | .truncate => 7 | .abort => 8

/-- A hole entry (Table 6.11). -/
structure HoleEntry where
  cause : HoleCause
  kFirst : Nat
  kCount : Nat := 0
  rowFirst : Nat
  rowLast : Nat
deriving DecidableEq, Repr

/-- The 16 bytes of a hole entry. -/
def HoleEntry.bytes (e : HoleEntry) : List Byte :=
  leBytes 4 (e.kFirst + e.cause.code * 2 ^ 26) ++ leBytes 4 e.kCount ++ leBytes 4 (e.rowFirst + e.rowLast * 2 ^ 16)
    ++ leBytes 4 0

/-- Whether a hole entry (16 bytes) of a run that ends at tick `endTick` marks row i at tick k (R175, R179). -/
def entryCovers (bs : List Byte) (endTick i k : Nat) : Bool :=
  let w0 := fieldLE bs 0 4
  let first := w0 % 2 ^ 26
  let cause := bitsOf w0 29 26
  let last := if cause = 7 ∨ cause = 8 then endTick else first + fieldLE bs 4 2
  let rows := fieldLE bs 8 4
  decide (first ≤ k ∧ k ≤ last ∧ bitsOf rows 8 0 ≤ i ∧ i ≤ bitsOf rows 24 16)

/-- R175: a hole is merged into the last entry under its four conditions. -/
def addHole (es : List HoleEntry) (c : HoleCause) (k r0 r1 : Nat) : List HoleEntry :=
  match es.getLast? with
  | some e =>
    if e.cause = c ∧ e.rowFirst = r0 ∧ e.rowLast = r1 ∧ k = e.kFirst + e.kCount + 1 ∧ e.kCount < 65535 ∧ c ≠ .truncate
        ∧ c ≠ .abort then
      es.dropLast ++ [{ e with kCount := e.kCount + 1 }]
    else es ++ [{ cause := c, kFirst := k, rowFirst := r0, rowLast := r1 }]
  | none => [{ cause := c, kFirst := k, rowFirst := r0, rowLast := r1 }]

/-- The largest number of hole entries of a slot (Table 6.9). -/
def ledgerCapacity : Nat := 118784

/-- A ledger descriptor (Table 6.10). -/
structure LedgerDesc where
  jobId : Nat := 0
  serial : Nat := 0
  stripe : Nat := 0
  down : Bool := false
  kind : Nat := 0
  depth : Nat := 0
  dry : Bool := false
  bank : Bool := false
  ending : Nat := 0
  heal : Bool := false
  wStart : Nat := 0
  len : Nat := 0
  predSlot : Nat := 0
  predValid : Bool := false
  predSerial : Nat := 0
  truncTick : Nat := 0
  resumeW : Nat := 0
  entries : Nat := 0
  shortPixels : Nat := 0
  holeShots : Nat := 0
  truncCause : Nat := 0
deriving DecidableEq, Repr

/-- The 14 words of a descriptor as bytes (Table 6.10). -/
def LedgerDesc.bytes (d : LedgerDesc) : List Byte :=
  leBytes 8 d.jobId ++ leBytes 4 d.serial
    ++ leBytes 4 (d.stripe % 65536 + b2n d.down * 2 ^ 16 + d.kind * 2 ^ 17 + d.depth * 2 ^ 19 + b2n d.dry * 2 ^ 21
        + b2n d.bank * 2 ^ 22 + d.ending * 2 ^ 23 + b2n d.heal * 2 ^ 26)
    ++ leBytes 4 d.wStart ++ leBytes 4 d.len ++ leBytes 4 (d.predSlot + b2n d.predValid * 2 ^ 31)
    ++ leBytes 4 d.predSerial ++ leBytes 4 d.truncTick ++ leBytes 4 d.resumeW ++ leBytes 4 d.entries
    ++ leBytes 4 d.shortPixels ++ leBytes 4 d.holeShots ++ leBytes 4 d.truncCause

/-- The descriptor that 56 bytes hold. -/
def LedgerDesc.ofBytes (bs : List Byte) : LedgerDesc :=
  let w := fun i => fieldLE bs (4 * i) 4
  { jobId := fieldLE bs 0 8, serial := w 2, stripe := bitsOf (w 3) 15 0, down := bitOf (w 3) 16,
    kind := bitsOf (w 3) 18 17, depth := bitsOf (w 3) 20 19, dry := bitOf (w 3) 21, bank := bitOf (w 3) 22,
    ending := bitsOf (w 3) 25 23, heal := bitOf (w 3) 26, wStart := bitsOf (w 4) 24 0, len := bitsOf (w 5) 25 0,
    predSlot := bitsOf (w 6) 9 0, predValid := bitOf (w 6) 31, predSerial := w 7, truncTick := w 8,
    resumeW := bitsOf (w 9) 24 0, entries := w 10, shortPixels := w 11, holeShots := w 12,
    truncCause := bitsOf (w 13) 7 0 }

/-- RESUME_W of a run truncated at tick t (R177). -/
def resumePoint (wStart len t yLast : Nat) : Nat := min (wStart + (t - 130942 - yLast)) len

/-- Ticks of a run (R24, R178). -/
def runTicks (wStart len : Nat) : Nat := len - wStart + 131072

end Sys2Proof.Machine
end

