-- ==== Sys2Proof/Machine/Frames.lean ====
section
/-! DEFINITION. The words of the Rim link: control blocks, forward frames and return frames (Tables 8.1 to 8.4, R211 to
R215, R219, R237). Bit 0 of a word is transmitted first (R210). -/

namespace Sys2Proof.Machine

/-- The low `n` bits of a word in transmission order. -/
def wordBits (n w : Nat) : List Bool := (List.range n).map fun i => w.testBit i

/-- The CRC-16 of headers and trailers (R213). -/
def linkCrc16 (bits : List Bool) : Nat := crcBits 16 0x1021 0xFFFF bits

/-- The CRC-32C of fields and return frames, bit by bit in transmission order (R215). -/
def linkCrc32 (bits : List Bool) : Nat := crcBits 32 0x1EDC6F41 0xFFFFFFFF bits ^^^ 0xFFFFFFFF

/-- What the header of a frame says (Table 8.2). -/
structure FrameHead where
  llane : Nat := 0
  stick : Nat := 0
  runser : Nat := 0
  dry : Bool := false
  blank : Bool := false
  ovs : Bool := false
  last : Bool := false
  cxw : Nat := 0
  phase : Nat := 0
deriving DecidableEq, Repr

/-- W0 of a frame (Table 8.2). -/
def FrameHead.w0 (h : FrameHead) : Nat :=
  0xD5 + h.llane * 2 ^ 8 + h.stick % 2 ^ 26 * 2 ^ 16 + h.runser % 2 ^ 16 * 2 ^ 42 + b2n h.dry * 2 ^ 58
    + b2n h.blank * 2 ^ 59 + b2n h.ovs * 2 ^ 60 + b2n h.last * 2 ^ 61

/-- W1 of a frame with its HCRC (Table 8.2). -/
def FrameHead.w1 (h : FrameHead) : Nat :=
  let low := h.cxw % 2 ^ 16 + h.phase % 2 ^ 12 * 2 ^ 16
  low + linkCrc16 (wordBits 64 h.w0 ++ wordBits 48 low) * 2 ^ 48

/-- The payload of a frame as one number of 24,576 bits: the level of slot s at bits 6s to 6s + 5 (R214). -/
def framePayload (level : Nat → Nat) : Nat := (List.range 4096).foldl (fun a s => a + level s % 64 * 2 ^ (6 * s)) 0

/-- The 389 words of a frame (R212 to R215); `level` gives the level of each slot. -/
def frameWords (h : FrameHead) (level : Nat → Nat) : List Nat :=
  let p := framePayload level
  let pw := (List.range 384).map fun j => p / 2 ^ (64 * j) % 2 ^ 64
  let crc := fun f => linkCrc32 (wordBits 64 h.w0 ++ wordBits 64 h.w1 ++ ((pw.drop (96 * f)).take 96).flatMap (wordBits 64))
  let t := 0xE7 + h.stick % 2 ^ 16 * 2 ^ 8 + h.runser % 2 ^ 16 * 2 ^ 24
  [h.w0, h.w1] ++ pw ++ [crc 0 + crc 1 * 2 ^ 32, crc 2 + crc 3 * 2 ^ 32, t + linkCrc16 (wordBits 48 t) * 2 ^ 48]

/-! Control blocks (Table 8.1). -/

/-- An ALIGN block. -/
def alignBlock (lane : Nat) (assigned : Option Nat) (stick runser : Nat) : Nat :=
  0x2D + lane * 2 ^ 8 + (assigned.getD 0) * 2 ^ 15 + b2n assigned.isSome * 2 ^ 21 + stick % 2 ^ 26 * 2 ^ 22
    + runser % 2 ^ 16 * 2 ^ 48

/-- A SWAP block (R239). -/
def swapBlock (llane stick runser : Nat) : Nat :=
  0x4B + llane * 2 ^ 8 + stick % 2 ^ 26 * 2 ^ 14 + runser % 2 ^ 16 * 2 ^ 40

/-- An END block (R218). -/
def endBlock (lastFired runser : Nat) : Nat := 0x55 + lastFired % 2 ^ 26 * 2 ^ 8 + runser % 2 ^ 16 * 2 ^ 34

/-- An LPREQ block (R246). -/
def lpreqBlock (st : Nat) : Nat := 0x66 + st % 4 * 2 ^ 8

/-- The CHAL blocks of a message (R237). -/
def chalBlocks (msg : Bool) (bytes : List Byte) : List Nat :=
  (List.range ((bytes.length + 5) / 6)).map fun f =>
    0x6C + (b2n msg * 128 + f) * 2 ^ 8 + beNat (Machine.slice bytes (6 * f) 6) * 2 ^ 16

/-- A control block is one of Table 8.1 with its reserved fields zero (R211). -/
def controlBlockOk (b : Nat) : Bool :=
  let ty := b % 256
  if ty = 0x1E then b / 256 == 0
  else if ty = 0x2D then decide (b < 2 ^ 64)
  else if ty = 0x4B then b / 2 ^ 56 == 0
  else if ty = 0x55 then b / 2 ^ 50 == 0
  else if ty = 0x66 then b / 2 ^ 10 == 0
  else if ty = 0x6C then decide (b < 2 ^ 64)
  else if ty = 0x78 then decide (b < 2 ^ 64) && !bitOf b 15
      && bitsOf b 63 56 == crcBits 8 7 0 (wordBits 56 b)
  else false

/-! Return frames (Table 8.3). -/

/-- A return frame as it was received: its eight words. -/
structure RetFrame where
  w0 : Nat
  body : List Nat
  crcOk : Bool
deriving DecidableEq, Repr

namespace RetFrame
/-- LLANE. -/
def llane (f : RetFrame) : Nat := bitsOf f.w0 14 8
/-- ACKV. -/
def ackv (f : RetFrame) : Bool := bitOf f.w0 15
/-- HDR_OK. -/
def hdrOk (f : RetFrame) : Bool := bitOf f.w0 16
/-- FLD_OK[f]. -/
def fldOk (f : RetFrame) (i : Nat) : Bool := bitOf f.w0 (17 + i)
/-- ACK_SEQ. -/
def ackSeq (f : RetFrame) : Nat := bitsOf f.w0 36 21
/-- TTYPE. -/
def ttype (f : RetFrame) : Nat := bitsOf f.w0 56 53
/-- Record word Wn, n from 1 to 6. -/
def word (f : RetFrame) (n : Nat) : Nat := f.body.getD (n - 1) 0
end RetFrame

/-- The return frame that eight words spell; RCRC as R219 says. -/
def retFrame (ws : List Nat) : RetFrame :=
  { w0 := ws.getD 0 0, body := (ws.drop 1).take 6,
    crcOk := decide (ws.length = 8) && ws.getD 7 0 == linkCrc32 ((ws.take 7).flatMap (wordBits 64)) }

/-- The record of a return frame has its reserved words and fields zero (Table 8.4). -/
def RetFrame.recordClean (f : RetFrame) : Bool :=
  let z := fun (l : List Nat) => l.all fun n => f.word n == 0
  match f.ttype with
  | 0 => z [1, 2, 3, 4, 5, 6]
  | 1 => decide (f.word 2 < 65536) && z [3, 4, 5, 6]
  | 2 => f.word 1 / 2 ^ 23 == 0 && z [6]
  | 3 => decide (f.word 2 < 2) && z [3, 4, 5, 6]
  | 5 => z [6]
  | _ => true

/-- A return frame is well formed: RTYPE, RCRC, reserved fields and TTYPE (R220, first case). The reserved words of a BCM
or STATUS record are checks of that record (R228) and not of the frame. -/
def RetFrame.formed (f : RetFrame) : Bool :=
  f.w0 % 256 == 0x2B && f.crcOk && f.w0 / 2 ^ 57 == 0 && decide (f.ttype < 6)
    && (f.ttype == 2 || f.ttype == 3 || f.recordClean)

/-- Sample n of a BCM record (Table 8.4). -/
def RetFrame.bcmSample (f : RetFrame) (n : Nat) : Nat := bitsOf (f.word (2 + n / 4)) (16 * (n % 4) + 15) (16 * (n % 4))

/-- A BCM record passes its checks (Table 8.4); `first mod 512 + N ≤ 512`, row on LLANE, samples in range. -/
def RetFrame.bcmOk (f : RetFrame) (laneOf : Nat → Nat) (bcmMax : Nat) : Bool :=
  let first := bitsOf (f.word 1) 17 0
  let n := bitsOf (f.word 1) 22 18
  decide (1 ≤ n ∧ n ≤ 16 ∧ first % 512 + n ≤ 512) && laneOf first == f.llane
    && ((List.range 16).all fun i => if i < n then decide (f.bcmSample i ≤ bcmMax) else f.bcmSample i == 0)
    && f.recordClean

end Sys2Proof.Machine
end

