-- ==== Sys2Proof/Machine/Regs.lean ====
section
/-! DEFINITION. The register maps of the spec: every BAR0 register's offset, access code, reset value, defined and
host-writable bits and the modes in which it is writable (Tables 2.12, 3.5, 4.6, 4.7, 5.7, 6.13, 6.14, 7.5, 7.6, 8.9,
9.11 to 9.15, 10.10, 10.14, 11.7 to 11.9, 12.10, 12.13, 12.14, 13.8, 14.7 and the field tables they name).
NOR-sourced values that the spec does not print are DESIGN CHOICE (log entry 4). -/

namespace Sys2Proof.Machine

/-- Access codes of Table 0.8 (R10). -/
inductive Access where
  | rw | ro | wo | w1c | rc
  deriving DecidableEq, Repr

/-- One line of a register map: the offsets `base + step * i + step2 * j` for `i < count`, `j < count2`.
`bits` are the defined bits, `writable` those the host can write, `modes` the mask of the modes (bit m for mode code m of
Table 9.4) in which it is writable. -/
structure RegRow where
  base : Nat
  step : Nat
  count : Nat
  step2 : Nat
  count2 : Nat
  access : Access
  reset : Nat
  bits : Nat
  writable : Nat
  modes : Nat
  deriving DecidableEq, Repr

namespace Reg

abbrev FIG_CTRL : Nat := 0x200000
abbrev FIG_STATUS : Nat := 0x200004
abbrev FIG_KWK_ID_LO : Nat := 0x200008
abbrev FIG_KWK_ID_HI : Nat := 0x20000c
abbrev FIG_JOB_ID_LO : Nat := 0x200010
abbrev FIG_JOB_ID_HI : Nat := 0x200014
abbrev FIG_SALT : Nat := 0x200018
abbrev FIG_POS_LO : Nat := 0x200020
abbrev FIG_POS_HI : Nat := 0x200024
abbrev FIG_RING_BASE_LO : Nat := 0x200028
abbrev FIG_RING_BASE_HI : Nat := 0x20002c
abbrev FIG_RING_SIZE : Nat := 0x200030
abbrev FIG_TQ_LEVEL : Nat := 0x200034
abbrev FIG_STALL_AT_0 : Nat := 0x200038
abbrev FIG_STALL_AT_1 : Nat := 0x20003c
abbrev FIG_AUTH_COUNT : Nat := 0x200040
abbrev FIG_FORMAT_COUNT : Nat := 0x200044
abbrev FIG_INTEGRITY_COUNT : Nat := 0x200048
abbrev FIG_STALE_COUNT : Nat := 0x20004c
abbrev FIG_UNWRITABLE_COUNT : Nat := 0x200050
abbrev FIG_ERRLOG_LOST : Nat := 0x200054
abbrev FIG_ERRLOG_COUNT : Nat := 0x200058
abbrev FIG_ERRLOG_POP : Nat := 0x20005c
abbrev FIG_ERRLOG_0 (i : Nat) : Nat := 0x200060 + 0x4 * i
abbrev WVR_STAT (i : Nat) : Nat := 0x300000 + 0x1000 * i
abbrev WVR_TILE_0 (i : Nat) : Nat := 0x300004 + 0x1000 * i
abbrev WVR_TILE_1 (i : Nat) : Nat := 0x300008 + 0x1000 * i
abbrev WVR_SUSPECT (i : Nat) : Nat := 0x30000c + 0x1000 * i
abbrev WVR_PASSES (i : Nat) : Nat := 0x300010 + 0x1000 * i
abbrev WVR_RW_AGREE (i : Nat) : Nat := 0x300014 + 0x1000 * i
abbrev WVR_RW_DISAGREE (i : Nat) : Nat := 0x300018 + 0x1000 * i
abbrev WVR_UE_COUNT (i : Nat) : Nat := 0x30001c + 0x1000 * i
abbrev WVR_WDOG_COUNT (i : Nat) : Nat := 0x300020 + 0x1000 * i
abbrev WVR_CMD (i : Nat) : Nat := 0x300024 + 0x1000 * i
abbrev WVR_CTRL : Nat := 0x390000
abbrev WVR_STATUS : Nat := 0x390004
abbrev WVR_AHEAD : Nat := 0x390008
abbrev WVR_RW_CFG : Nat := 0x39000c
abbrev WVR_RW_SEED : Nat := 0x390010
abbrev WVR_LIMITS : Nat := 0x390014
abbrev WVR_DENS_ROW : Nat := 0x390018
abbrev WVR_PIX_ROW : Nat := 0x39001c
abbrev WVR_WT_0 (i : Nat) : Nat := 0x390020 + 0x4 * i
abbrev WVR_RW_SAMPLES : Nat := 0x390040
abbrev WVR_RW_VOID : Nat := 0x390044
abbrev WVR_MISMATCHES : Nat := 0x390048
abbrev WVR_CURVE_CAPPED : Nat := 0x39004c
abbrev WVR_ZERO_TILES : Nat := 0x390050
abbrev WVR_MM_LOG_0 (i : Nat) : Nat := 0x390054 + 0x4 * i
abbrev WVR_SUSPECT_AT_0 (i : Nat) : Nat := 0x390060 + 0x4 * i
abbrev CLASS_ID (i : Nat) : Nat := 0xe00000 + 0x10 * i
abbrev CLASS_W1 (i : Nat) : Nat := 0xe00004 + 0x10 * i
abbrev CLASS_RSV (i j : Nat) : Nat := 0xe00008 + 0x10 * i + 0x4 * j
abbrev PEC_CTRL : Nat := 0xe00100
abbrev F_MAX : Nat := 0xe00104
abbrev FOG_CTRL : Nat := 0xe00108
abbrev FOG_DIM : Nat := 0xe0010c
abbrev FOG_BASE_LO : Nat := 0xe00110
abbrev FOG_BASE_HI : Nat := 0xe00114
abbrev BORDER_CTRL : Nat := 0xe00118
abbrev GAUSS_A (i : Nat) : Nat := 0xe00120 + 0x4 * i
abbrev GAUSS_TAB (i j : Nat) : Nat := 0xe00200 + 0x80 * i + 0x4 * j
abbrev GAUSS_TAB16 (i : Nat) : Nat := 0xe00240 + 0x80 * i
abbrev GAUSS_RSV (i j : Nat) : Nat := 0xe00244 + 0x80 * i + 0x4 * j
abbrev SR_KERNEL (i : Nat) : Nat := 0xe00400 + 0x4 * i
abbrev SR_KERNEL40 : Nat := 0xe004a0
abbrev RAMP (i : Nat) : Nat := 0xe00800 + 0x4 * i
abbrev COR_CTRL : Nat := 0x400000
abbrev COR_STATUS : Nat := 0x400004
abbrev COR_BIND_0 : Nat := 0x400008
abbrev COR_BIND_1 : Nat := 0x40000c
abbrev COR_CMD : Nat := 0x400010
abbrev COR_DMAP_BASE_LO : Nat := 0x400014
abbrev COR_DMAP_BASE_HI : Nat := 0x400018
abbrev COR_DMAP_ROWS : Nat := 0x40001c
abbrev COR_SLICE : Nat := 0x400020
abbrev COR_X_SAT : Nat := 0x400024
abbrev COR_F_SAT : Nat := 0x400028
abbrev COR_EV_SAT : Nat := 0x40002c
abbrev COR_REBINDS : Nat := 0x400030
abbrev COR_DMAP_REDO : Nat := 0x400034
abbrev COR_ERR_COUNT : Nat := 0x400038
abbrev COR_ERR_LOG_0 (i : Nat) : Nat := 0x40003c + 0x4 * i
abbrev STG_CTRL : Nat := 0x500000
abbrev STG_STATUS : Nat := 0x500004
abbrev STG_BASE_LO : Nat := 0x500008
abbrev STG_BASE_HI : Nat := 0x50000c
abbrev STG_SLOTS : Nat := 0x500010
abbrev STG_ALLOT : Nat := 0x500014
abbrev STG_CHUNKS : Nat := 0x500018
abbrev STG_CMAP_BASE_LO : Nat := 0x50001c
abbrev STG_CMAP_BASE_HI : Nat := 0x500020
abbrev STG_FP_BASE_LO : Nat := 0x500024
abbrev STG_FP_BASE_HI : Nat := 0x500028
abbrev STG_FP_SLOTS : Nat := 0x50002c
abbrev STG_LEAD_MIN : Nat := 0x500030
abbrev STG_HINT_CFG : Nat := 0x500034
abbrev STG_REPLAY_MIN : Nat := 0x500038
abbrev STG_LEAD : Nat := 0x50003c
abbrev STG_HINT : Nat := 0x500040
abbrev STG_RATE : Nat := 0x500044
abbrev STG_REPLAY : Nat := 0x500048
abbrev STG_FREE_SLOTS : Nat := 0x50004c
abbrev STG_FREE_CHUNKS : Nat := 0x500050
abbrev STG_RUN : Nat := 0x500054
abbrev STG_NB_LO : Nat := 0x500058
abbrev STG_NB_HI : Nat := 0x50005c
abbrev STG_LATE_AT : Nat := 0x500060
abbrev STG_LATE_STRANDS : Nat := 0x500064
abbrev STG_HINTS : Nat := 0x500068
abbrev STG_REPLAY_SHORT : Nat := 0x50006c
abbrev STG_POOL_WAITS : Nat := 0x500070
abbrev STG_REGEN_ROWS : Nat := 0x500074
abbrev STG_REGEN_LATE : Nat := 0x500078
abbrev STG_ERR_COUNT : Nat := 0x50007c
abbrev STG_ERR_LOG_0 (i : Nat) : Nat := 0x500080 + 0x4 * i
abbrev OSR_STATUS : Nat := 0x501000
abbrev OSR_CODED : Nat := 0x501004
abbrev OSR_RAW : Nat := 0x501008
abbrev OSR_ZERO : Nat := 0x50100c
abbrev OSR_RATIO : Nat := 0x501010
abbrev OSR_DEC_ERRS : Nat := 0x501014
abbrev FEED_CTRL : Nat := 0xe01000
abbrev CAL_T01 : Nat := 0xe01004
abbrev CAL_T23 : Nat := 0xe01008
abbrev HEAT_KAPPA : Nat := 0xe0100c
abbrev HEAT_CFG : Nat := 0xe01010
abbrev RECIPE (i j : Nat) : Nat := 0xe01100 + 0x100 * i + 0x4 * j
abbrev RECIPE32 (i : Nat) : Nat := 0xe01180 + 0x100 * i
abbrev RECIPE_RSV (i j : Nat) : Nat := 0xe01184 + 0x100 * i + 0x4 * j
abbrev BMF_CTRL : Nat := 0x600000
abbrev BMF_STATUS : Nat := 0x600004
abbrev BMF_BANK0_BASE_LO : Nat := 0x600008
abbrev BMF_BANK0_BASE_HI : Nat := 0x60000c
abbrev BMF_BANK1_BASE_LO : Nat := 0x600010
abbrev BMF_BANK1_BASE_HI : Nat := 0x600014
abbrev BMF_LEDGER_BASE_LO : Nat := 0x600018
abbrev BMF_LEDGER_BASE_HI : Nat := 0x60001c
abbrev BMF_LEDGER_SLOTS : Nat := 0x600020
abbrev BMF_CFG : Nat := 0x600024
abbrev BMF_RUN_0 : Nat := 0x600028
abbrev BMF_RUN_1 : Nat := 0x60002c
abbrev BMF_RUN_SERIAL : Nat := 0x600030
abbrev BMF_LEDGER_USED : Nat := 0x600034
abbrev BMF_TEMP_0 (i : Nat) : Nat := 0x600040 + 0x4 * i
abbrev BMF_HOLE_SHOTS : Nat := 0x600050
abbrev BMF_HEALED_PIXELS : Nat := 0x600054
abbrev BMF_SHORT_PIXELS : Nat := 0x600058
abbrev BMF_LEVEL_CLIP : Nat := 0x60005c
abbrev BMF_DEADLINE_MISS : Nat := 0x600060
abbrev BMF_DEAD_BEAMS : Nat := 0x600064
abbrev BMF_TABLE_FAULTS : Nat := 0x600068
abbrev BMF_ERR_COUNT : Nat := 0x60006c
abbrev BMF_ERR_LOG_0 (i : Nat) : Nat := 0x600070 + 0x4 * i
abbrev YOFF_P : Nat := 0xe02000
abbrev YOFF_N : Nat := 0xe02004
abbrev XOFF_P : Nat := 0xe02008
abbrev XOFF_N : Nat := 0xe0200c
abbrev TRK_CTRL : Nat := 0x700000
abbrev TRK_STATUS : Nat := 0x700004
abbrev TRK_S_RATIO_LO : Nat := 0x700008
abbrev TRK_S_RATIO_HI : Nat := 0x70000c
abbrev TRK_C_RATIO_LO : Nat := 0x700010
abbrev TRK_C_RATIO_HI : Nat := 0x700014
abbrev TRK_INPUT_CFG : Nat := 0x700018
abbrev TRK_REV_TOL : Nat := 0x70001c
abbrev TRK_GUARD : Nat := 0x700020
abbrev TRK_LAUNCH : Nat := 0x700024
abbrev TRK_CX_CFG : Nat := 0x700028
abbrev TRK_SPEED_HINT : Nat := 0x70002c
abbrev TRK_S_COUNT_LO : Nat := 0x700030
abbrev TRK_S_COUNT_HI : Nat := 0x700034
abbrev TRK_C_COUNT_LO : Nat := 0x700038
abbrev TRK_C_COUNT_HI : Nat := 0x70003c
abbrev TRK_S_PRESET_LO : Nat := 0x700040
abbrev TRK_S_PRESET_HI : Nat := 0x700044
abbrev TRK_C_PRESET_LO : Nat := 0x700048
abbrev TRK_C_PRESET_HI : Nat := 0x70004c
abbrev TRK_CMD : Nat := 0x700050
abbrev TRK_S_IDXCAP_LO : Nat := 0x700054
abbrev TRK_S_IDXCAP_HI : Nat := 0x700058
abbrev TRK_C_IDXCAP_LO : Nat := 0x70005c
abbrev TRK_C_IDXCAP_HI : Nat := 0x700060
abbrev TRK_PW_ZERO_LO : Nat := 0x700064
abbrev TRK_PW_ZERO_HI : Nat := 0x700068
abbrev TRK_PW_CFG : Nat := 0x70006c
abbrev TRK_PW_TIME : Nat := 0x700070
abbrev TRK_PW_LAST_LO : Nat := 0x700074
abbrev TRK_PW_LAST_HI : Nat := 0x700078
abbrev TRK_TICK_TOTAL_LO : Nat := 0x70007c
abbrev TRK_TICK_TOTAL_HI : Nat := 0x700080
abbrev TRK_STRIPE_TICK : Nat := 0x700084
abbrev TRK_PERIOD : Nat := 0x700088
abbrev TRK_CXW : Nat := 0x70008c
abbrev TRK_SIM_PERIOD : Nat := 0x700090
abbrev TRK_OVS_COUNT : Nat := 0x700094
abbrev TRK_REV_ABSORB : Nat := 0x700098
abbrev TRK_REV_DEPTH : Nat := 0x70009c
abbrev TRK_QERR_S : Nat := 0x7000a0
abbrev TRK_QERR_C : Nat := 0x7000a4
abbrev TRK_LOS_COUNT : Nat := 0x7000a8
abbrev TRK_PW_CRC_ERR : Nat := 0x7000ac
abbrev TRK_PW_MISMATCH : Nat := 0x7000b0
abbrev TRK_CX_SAT : Nat := 0x7000b4
abbrev TRK_REV_AT_LO : Nat := 0x7000b8
abbrev TRK_REV_AT_HI : Nat := 0x7000bc
abbrev TRK_EVT_LOG_0 (i : Nat) : Nat := 0x7000c0 + 0x4 * i
abbrev TRK_TICKq_DLY (i : Nat) : Nat := 0x700100 + 0x10 * i
abbrev TRK_TICKq_TRIM (i : Nat) : Nat := 0x700104 + 0x10 * i
abbrev TRK_TICK_TEMP : Nat := 0x700140
abbrev TRK_TICK_CFG : Nat := 0x700144
abbrev LNK_CTRL : Nat := 0x800000
abbrev LNK_STATUS : Nat := 0x800004
abbrev LNK_TRAIN_CFG : Nat := 0x800008
abbrev LNK_ACK_CFG : Nat := 0x80000c
abbrev LNK_TEL_CFG : Nat := 0x800010
abbrev LNK_TEMP_LIM : Nat := 0x800014
abbrev LNK_TEMP_CHK : Nat := 0x800018
abbrev LNK_LP : Nat := 0x80001c
abbrev LNK_RECAL : Nat := 0x800020
abbrev LNK_MBX_BASE_LO : Nat := 0x800024
abbrev LNK_MBX_BASE_HI : Nat := 0x800028
abbrev LNK_MBX_ENTRIES : Nat := 0x80002c
abbrev LNK_MBX_WR : Nat := 0x800030
abbrev LNK_MBX_RD : Nat := 0x800034
abbrev LNK_PKB_0 (i : Nat) : Nat := 0x800040 + 0x4 * i
abbrev LNK_PARTNER_ID_LO : Nat := 0x800098
abbrev LNK_PARTNER_ID_HI : Nat := 0x80009c
abbrev LNK_PSTAT : Nat := 0x8000a0
abbrev LNK_TEMP_01 : Nat := 0x8000a4
abbrev LNK_TEMP_23 : Nat := 0x8000a8
abbrev LNK_LOST_FRAMES : Nat := 0x8000b0
abbrev LNK_NAK_COUNT : Nat := 0x8000b4
abbrev LNK_ACK_LATE : Nat := 0x8000b8
abbrev LNK_ACK_SPUR : Nat := 0x8000bc
abbrev LNK_RET_BAD : Nat := 0x8000c0
abbrev LNK_RET_SPOOF : Nat := 0x8000c4
abbrev LNK_TEL_RANGE : Nat := 0x8000c8
abbrev LNK_TEL_RATE : Nat := 0x8000cc
abbrev LNK_TEL_FLOOD : Nat := 0x8000d0
abbrev LNK_MBX_DROP : Nat := 0x8000d4
abbrev LNK_SWAPS : Nat := 0x8000d8
abbrev LNK_ID_FAILS : Nat := 0x8000dc
abbrev LNK_ERR_COUNT : Nat := 0x8000e0
abbrev LNK_ERR_LOG_0 (i : Nat) : Nat := 0x8000e4 + 0x4 * i
abbrev LNK_LMAP_0 (i : Nat) : Nat := 0x800100 + 0x4 * i
abbrev LNK_LN_STAT (i : Nat) : Nat := 0x801000 + 0x40 * i
abbrev LNK_LN_EQ (i : Nat) : Nat := 0x801004 + 0x40 * i
abbrev LNK_LN_DFE (i : Nat) : Nat := 0x801008 + 0x40 * i
abbrev LNK_LN_SKEW (i : Nat) : Nat := 0x80100c + 0x40 * i
abbrev LNK_LN_PRBS (i : Nat) : Nat := 0x801010 + 0x40 * i
abbrev LNK_LN_PRBS_ERR (i : Nat) : Nat := 0x801014 + 0x40 * i
abbrev LNK_LN_INJ (i : Nat) : Nat := 0x801018 + 0x40 * i
abbrev LNK_LN_NAK (i : Nat) : Nat := 0x80101c + 0x40 * i
abbrev LNK_LN_SWAPOUTS (i : Nat) : Nat := 0x801020 + 0x40 * i
abbrev LNK_LN_CMD (i : Nat) : Nat := 0x801024 + 0x40 * i
abbrev HST_STATUS : Nat := 0x100000
abbrev HST_STATE_REFUSED : Nat := 0x100004
abbrev HST_LAST_REFUSED : Nat := 0x100008
abbrev HST_DB_BAD : Nat := 0x10000c
abbrev HST_DB_BAD_AT : Nat := 0x100010
abbrev DMA_FIG_DELIVERED_LO : Nat := 0x100020
abbrev DMA_FIG_DELIVERED_HI : Nat := 0x100024
abbrev DMA_FIG_RELEASE_LO : Nat := 0x100028
abbrev DMA_FIG_RELEASE_HI : Nat := 0x10002c
abbrev DMA_ENGe_STAT (i : Nat) : Nat := 0x100100 + 0x10 * i
abbrev DMA_ENGe_DONE (i : Nat) : Nat := 0x100104 + 0x10 * i
abbrev DMA_ENGe_BYTES_LO (i : Nat) : Nat := 0x100108 + 0x10 * i
abbrev DMA_ENGe_BYTES_HI (i : Nat) : Nat := 0x10010c + 0x10 * i
abbrev RING_BASE_LO (i : Nat) : Nat := 0x101000 + 0x40 * i
abbrev NET_RING_BASE_LO (i : Nat) : Nat := 0xb01000 + 0x40 * i
abbrev RING_BASE_HI (i : Nat) : Nat := 0x101004 + 0x40 * i
abbrev NET_RING_BASE_HI (i : Nat) : Nat := 0xb01004 + 0x40 * i
abbrev RING_CFG (i : Nat) : Nat := 0x101008 + 0x40 * i
abbrev NET_RING_CFG (i : Nat) : Nat := 0xb01008 + 0x40 * i
abbrev RING_CMD (i : Nat) : Nat := 0x10100c + 0x40 * i
abbrev NET_RING_CMD (i : Nat) : Nat := 0xb0100c + 0x40 * i
abbrev RING_HEAD (i : Nat) : Nat := 0x101010 + 0x40 * i
abbrev NET_RING_HEAD (i : Nat) : Nat := 0xb01010 + 0x40 * i
abbrev RING_TAIL (i : Nat) : Nat := 0x101014 + 0x40 * i
abbrev NET_RING_TAIL (i : Nat) : Nat := 0xb01014 + 0x40 * i
abbrev RING_STAT (i : Nat) : Nat := 0x101018 + 0x40 * i
abbrev NET_RING_STAT (i : Nat) : Nat := 0xb01018 + 0x40 * i
abbrev RING_DONE (i : Nat) : Nat := 0x10101c + 0x40 * i
abbrev NET_RING_DONE (i : Nat) : Nat := 0xb0101c + 0x40 * i
abbrev HWIN_BASE_LO (i : Nat) : Nat := 0x101020 + 0x40 * i
abbrev NET_HWIN_BASE_LO (i : Nat) : Nat := 0xb01020 + 0x40 * i
abbrev HWIN_BASE_HI (i : Nat) : Nat := 0x101024 + 0x40 * i
abbrev NET_HWIN_BASE_HI (i : Nat) : Nat := 0xb01024 + 0x40 * i
abbrev HWIN_LIMIT_LO (i : Nat) : Nat := 0x101028 + 0x40 * i
abbrev NET_HWIN_LIMIT_LO (i : Nat) : Nat := 0xb01028 + 0x40 * i
abbrev HWIN_LIMIT_HI (i : Nat) : Nat := 0x10102c + 0x40 * i
abbrev NET_HWIN_LIMIT_HI (i : Nat) : Nat := 0xb0102c + 0x40 * i
abbrev LWIN_BASE_LO (i : Nat) : Nat := 0x101030 + 0x40 * i
abbrev LWIN_BASE_HI (i : Nat) : Nat := 0x101034 + 0x40 * i
abbrev LWIN_LIMIT_LO (i : Nat) : Nat := 0x101038 + 0x40 * i
abbrev LWIN_LIMIT_HI (i : Nat) : Nat := 0x10103c + 0x40 * i
abbrev SET_STATUS : Nat := 0xe80000
abbrev SET_SWAP_COUNT : Nat := 0xe80004
abbrev SET_LATE_WRITES : Nat := 0xe80008
abbrev SET_LATE_AT : Nat := 0xe8000c
abbrev MEM_CTRL : Nat := 0x900000
abbrev MEM_STATUS : Nat := 0x900004
abbrev MEM_TRAIN_CFG : Nat := 0x900008
abbrev MEM_REFRESH : Nat := 0x90000c
abbrev MEM_PANIC : Nat := 0x900010
abbrev MEM_AGE : Nat := 0x900014
abbrev MEM_PD : Nat := 0x900018
abbrev MEM_FENCE_CFG : Nat := 0x90001c
abbrev MEM_RSV_ACCESS : Nat := 0x900020
abbrev MEM_FORCED_REF : Nat := 0x900024
abbrev MEM_PANICS : Nat := 0x900028
abbrev MEM_AGED : Nat := 0x90002c
abbrev MEM_STACK_0 (i : Nat) : Nat := 0x900030 + 0x4 * i
abbrev MEM_REGION_n_0 (i : Nat) : Nat := 0x900040 + 0x8 * i
abbrev MEM_REGION_n_1 (i : Nat) : Nat := 0x900044 + 0x8 * i
abbrev MEM_PPR_CMD : Nat := 0x9000c0
abbrev MEM_PPR_ADDR : Nat := 0x9000c4
abbrev MEM_PPR_STAT : Nat := 0x9000c8
abbrev MEM_CH_STAT (i : Nat) : Nat := 0x901000 + 0x40 * i
abbrev MEM_CH_EYE (i : Nat) : Nat := 0x901004 + 0x40 * i
abbrev MEM_CH_CMD (i : Nat) : Nat := 0x901008 + 0x40 * i
abbrev MEM_CH_PANICS (i : Nat) : Nat := 0x90100c + 0x40 * i
abbrev MEM_CH_CAPAR (i : Nat) : Nat := 0x901010 + 0x40 * i
abbrev MEM_CH_CE (i : Nat) : Nat := 0x901014 + 0x40 * i
abbrev MEM_CH_UE (i : Nat) : Nat := 0x901018 + 0x40 * i
abbrev MEM_CH_OWED (i : Nat) : Nat := 0x90101c + 0x40 * i
abbrev MEM_CH_SWEEP (i : Nat) : Nat := 0x901020 + 0x40 * i
abbrev MEM_CH_FENCES (i : Nat) : Nat := 0x901024 + 0x40 * i
abbrev ECC_CTRL : Nat := 0xa00000
abbrev ECC_STATUS : Nat := 0xa00004
abbrev ECC_SCRUB_CFG : Nat := 0xa00008
abbrev ECC_SCRUB_PASSES : Nat := 0xa0000c
abbrev ECC_SCRUB_LAG : Nat := 0xa00010
abbrev ECC_CE_COUNT : Nat := 0xa00014
abbrev ECC_UE_COUNT : Nat := 0xa00018
abbrev ECC_POISON_READS : Nat := 0xa0001c
abbrev ECC_STICKY_COUNT : Nat := 0xa00020
abbrev ECC_WB_COUNT : Nat := 0xa00024
abbrev ECC_WATCH_DROP : Nat := 0xa00028
abbrev ECC_RMW_POISON : Nat := 0xa0002c
abbrev ECC_SRAM_CE : Nat := 0xa00030
abbrev ECC_SRAM_UE : Nat := 0xa00034
abbrev ECC_RETIRED : Nat := 0xa00038
abbrev ECC_RSV_FREE : Nat := 0xa0003c
abbrev ECC_AUTO_RETIRED : Nat := 0xa00040
abbrev ECC_TABLE_POISON : Nat := 0xa00044
abbrev ECC_TABLE_OTHER : Nat := 0xa00048
abbrev ECC_HIST_BASE_LO : Nat := 0xa0004c
abbrev ECC_HIST_BASE_HI : Nat := 0xa00050
abbrev ECC_REFETCH_AT_0 : Nat := 0xa00054
abbrev ECC_REFETCH_AT_1 : Nat := 0xa00058
abbrev ECC_REFETCH_AT_2 : Nat := 0xa0005c
abbrev ECC_FLIP_CTRL : Nat := 0xa00060
abbrev ECC_FLIP_ADDR_LO : Nat := 0xa00064
abbrev ECC_FLIP_ADDR_HI : Nat := 0xa00068
abbrev ECC_FLIP_DATA_LO : Nat := 0xa0006c
abbrev ECC_FLIP_DATA_HI : Nat := 0xa00070
abbrev ECC_FLIP_CHECK : Nat := 0xa00074
abbrev ECC_LOG_COUNT : Nat := 0xa00080
abbrev ECC_LOG_POP : Nat := 0xa00084
abbrev ECC_LOG_LOST : Nat := 0xa00088
abbrev ECC_LOG_0 (i : Nat) : Nat := 0xa00090 + 0x4 * i
abbrev NET_CTRL : Nat := 0xb00000
abbrev NET_STATUS : Nat := 0xb00004
abbrev NET_MAC_LO : Nat := 0xb00008
abbrev NET_MAC_HI : Nat := 0xb0000c
abbrev NET_IP : Nat := 0xb00010
abbrev NET_VLAN : Nat := 0xb00014
abbrev NET_PTP_CFG : Nat := 0xb00018
abbrev NET_GM_ID_LO : Nat := 0xb0001c
abbrev NET_GM_ID_HI : Nat := 0xb00020
abbrev NET_PORT_ID_LO : Nat := 0xb00024
abbrev NET_PORT_ID_HI : Nat := 0xb00028
abbrev NET_RATE_0 : Nat := 0xb0002c
abbrev NET_RATE_1 : Nat := 0xb00030
abbrev NET_LAT_m_TX (i : Nat) : Nat := 0xb00040 + 0x8 * i
abbrev NET_LAT_m_RX (i : Nat) : Nat := 0xb00044 + 0x8 * i
abbrev NET_MIR_DST_MAC_LO : Nat := 0xb00070
abbrev NET_MIR_DST_MAC_HI : Nat := 0xb00074
abbrev NET_MIR_DST_IP : Nat := 0xb00078
abbrev NET_MIR_PORT : Nat := 0xb0007c
abbrev NET_MIR_CFG : Nat := 0xb00080
abbrev NET_MIR_RD : Nat := 0xb00084
abbrev NET_MIR_SEQ : Nat := 0xb00088
abbrev NET_RX_FRAMES : Nat := 0xb00090
abbrev NET_RX_MALFORMED : Nat := 0xb00094
abbrev NET_RX_OTHER : Nat := 0xb00098
abbrev NET_RX_FILTERED : Nat := 0xb0009c
abbrev NET_RX_RATE : Nat := 0xb000a0
abbrev NET_RX_NOBUF : Nat := 0xb000a4
abbrev NET_TX_FRAMES : Nat := 0xb000a8
abbrev NET_MIR_FRAMES : Nat := 0xb000ac
abbrev NET_MIR_SKIP : Nat := 0xb000b0
abbrev NET_LINK_DOWNS : Nat := 0xb000b4
abbrev PTP_CTRL : Nat := 0xb80000
abbrev PTP_STATUS : Nat := 0xb80004
abbrev PTP_NOW_0 (i : Nat) : Nat := 0xb80008 + 0x4 * i
abbrev PTP_FRC_LO : Nat := 0xb80018
abbrev PTP_FRC_HI : Nat := 0xb8001c
abbrev PTP_PERIOD_LO : Nat := 0xb80020
abbrev PTP_PERIOD_HI : Nat := 0xb80024
abbrev PTP_ADJ_0 : Nat := 0xb80028
abbrev PTP_ADJ_1 : Nat := 0xb8002c
abbrev PTP_ADJ_2 : Nat := 0xb80030
abbrev PTP_SLEW_CFG : Nat := 0xb80034
abbrev PTP_SLEW_LEFT : Nat := 0xb80038
abbrev PTP_CMD : Nat := 0xb8003c
abbrev PTP_PULSE_START_0 : Nat := 0xb80040
abbrev PTP_PULSE_START_1 : Nat := 0xb80044
abbrev PTP_PULSE_START_2 : Nat := 0xb80048
abbrev PTP_PULSE_PERIOD : Nat := 0xb8004c
abbrev PTP_PULSE_WIDTH : Nat := 0xb80050
abbrev PTP_CAPn_COUNT (i : Nat) : Nat := 0xb80060 + 0x20 * i
abbrev PTP_CAPn (i j : Nat) : Nat := 0xb80064 + 0x20 * i + 0x4 * j
abbrev PTP_CAPn_DROP (i : Nat) : Nat := 0xb80074 + 0x20 * i
abbrev PTP_STEP_REFUSED : Nat := 0xb800a0
abbrev PTP_PULSE_SKIP : Nat := 0xb800a4
abbrev IRQ_PEND_LO : Nat := 0xf00000
abbrev IRQ_PEND_HI : Nat := 0xf00004
abbrev IRQ_ENABLE_LO : Nat := 0xf00008
abbrev IRQ_ENABLE_HI : Nat := 0xf0000c
abbrev IRQ_OWED_LO : Nat := 0xf00010
abbrev IRQ_OWED_HI : Nat := 0xf00014
abbrev IRQ_SET_LO : Nat := 0xf00018
abbrev IRQ_SET_HI : Nat := 0xf0001c
abbrev IRQ_COALESCED : Nat := 0xf00020
abbrev IRQ_SENT : Nat := 0xf00024
abbrev PWR_CTRL : Nat := 0xc00000
abbrev PWR_STATUS : Nat := 0xc00004
abbrev PWR_REQ : Nat := 0xc00008
abbrev PWR_DOM_TGT : Nat := 0xc0000c
abbrev PWR_DOM_STAT : Nat := 0xc00010
abbrev PWR_REQ_SEQ : Nat := 0xc00014
abbrev PWR_RESULT_0 : Nat := 0xc00018
abbrev PWR_RESULT_1 : Nat := 0xc0001c
abbrev PWR_RESULT_COUNT : Nat := 0xc00020
abbrev PWR_RESULT_POP : Nat := 0xc00024
abbrev PWR_RESULT_LOST : Nat := 0xc00028
abbrev PWR_WAKE_TIMER : Nat := 0xc0002c
abbrev PWR_DEEP_GRACE : Nat := 0xc00030
abbrev PWR_LP_TMAX : Nat := 0xc00034
abbrev PWR_VIN_LIM : Nat := 0xc00038
abbrev PWR_VIN : Nat := 0xc0003c
abbrev PWR_POWER : Nat := 0xc00040
abbrev PWR_OFF_ACCESS : Nat := 0xc00044
abbrev PWR_OFF_ACCESS_AT : Nat := 0xc00048
abbrev PWR_VIOL : Nat := 0xc0004c
abbrev PWR_VIOL_AT : Nat := 0xc00050
abbrev PWR_FAULT_LOG_0 (i : Nat) : Nat := 0xc00054 + 0x4 * i
abbrev PWR_FAULT_COUNT : Nat := 0xc00060
abbrev PWR_LP_OVER : Nat := 0xc00064
abbrev PWR_RES_s_LO (i : Nat) : Nat := 0xc00080 + 0x8 * i
abbrev PWR_RES_s_HI (i : Nat) : Nat := 0xc00084 + 0x8 * i
abbrev PWR_CB_REFUSE_n (i : Nat) : Nat := 0xc000c0 + 0x4 * i
abbrev PWR_RAIL_r (i : Nat) : Nat := 0xc00100 + 0x4 * i
abbrev CLK_STATUS : Nat := 0xc40000
abbrev CLK_GATE : Nat := 0xc40004
abbrev CLK_LOSS_COUNT : Nat := 0xc40008
abbrev CLK_AON_ERR : Nat := 0xc4000c
abbrev THM_CTRL : Nat := 0xc80000
abbrev THM_STATUS : Nat := 0xc80004
abbrev THM_LIM : Nat := 0xc80008
abbrev THM_HYST : Nat := 0xc8000c
abbrev THM_AGE_WARN : Nat := 0xc80010
abbrev THM_T_n (i : Nat) : Nat := 0xc80100 + 0x4 * i
abbrev THM_AGE_d (i : Nat) : Nat := 0xc80200 + 0x4 * i
abbrev REC_CTRL : Nat := 0xd00000
abbrev REC_STATUS : Nat := 0xd00004
abbrev REC_CMD : Nat := 0xd00008
abbrev REC_SEQ_NEXT_LO : Nat := 0xd0000c
abbrev REC_SEQ_NEXT_HI : Nat := 0xd00010
abbrev REC_ROLL_OLDEST_LO : Nat := 0xd00014
abbrev REC_ROLL_OLDEST_HI : Nat := 0xd00018
abbrev REC_LIFE_COUNT : Nat := 0xd0001c
abbrev REC_OP_SECONDS : Nat := 0xd00020
abbrev REC_POWER_CYCLES : Nat := 0xd00024
abbrev REC_UNCOMMITTED : Nat := 0xd00028
abbrev REC_THROTTLED : Nat := 0xd0002c
abbrev REC_TRIG_LOST : Nat := 0xd00030
abbrev REC_SECTORS : Nat := 0xd00034
abbrev REC_PENDING : Nat := 0xd00038
abbrev REC_ERASE_MAX : Nat := 0xd0003c
abbrev REC_WEAR : Nat := 0xd00040
abbrev REC_WEAR_DAYS : Nat := 0xd00044
abbrev REC_LOGMEM_AT : Nat := 0xd00048
abbrev REC_CURSOR_CTL : Nat := 0xd0004c
abbrev REC_CURSOR_SEQ_LO : Nat := 0xd00050
abbrev REC_CURSOR_SEQ_HI : Nat := 0xd00054
abbrev REC_CURSOR_STAT : Nat := 0xd00058
abbrev REC_WIN_n (i : Nat) : Nat := 0xd00100 + 0x4 * i
abbrev REC_MAP_j (i : Nat) : Nat := 0xd00200 + 0x4 * i
abbrev REC_LIST_m_k (i j : Nat) : Nat := 0xd00400 + 0x80 * i + 0x4 * j
abbrev REC_WITHY_k (i : Nat) : Nat := 0xd00800 + 0x4 * i
abbrev REC_USED_k (i : Nat) : Nat := 0xd00840 + 0x4 * i
abbrev REC_HIST_i (i : Nat) : Nat := 0xd01000 + 0x4 * i
abbrev GLB_ID : Nat := 0x0
abbrev GLB_MODE : Nat := 0x4
abbrev GLB_CTRL : Nat := 0x8
abbrev GLB_CMD : Nat := 0xc
abbrev GLB_STRAPS : Nat := 0x10
abbrev GLB_RESET_CAUSE : Nat := 0x14
abbrev GLB_UPSETT_STAT : Nat := 0x18
abbrev GLB_UPSETT_MS_1 (i : Nat) : Nat := 0x20 + 0x4 * i
abbrev GLB_FW : Nat := 0x40
abbrev GLB_FW_VER : Nat := 0x44
abbrev GLB_FW_MIN : Nat := 0x48
abbrev GLB_MGT_RESTARTS : Nat := 0x4c
abbrev GLB_PLATE_LIM : Nat := 0x50
abbrev GLB_PLATE_ARM : Nat := 0x54
abbrev GLB_PLATE_A : Nat := 0x58
abbrev GLB_PLATE_B : Nat := 0x5c
abbrev GLB_PLATE_STAT : Nat := 0x60
abbrev GLB_PLATE_TRUNC_AT : Nat := 0x64
abbrev GLB_TRUNCS : Nat := 0x68
abbrev GLB_TRUNC_LOG_0 (i : Nat) : Nat := 0x6c + 0x4 * i

end Reg

/-- Register map, part 0 (R10). -/
def regRows0 : List RegRow := [
  ⟨0x200000, 0x0, 1, 0, 1, .rw, 0x2000000, 0xffff0001, 0xffff0001, 5⟩,
  ⟨0x200004, 0x0, 1, 0, 1, .ro, 0xffff0000, 0xffffff1f, 0x0, 0⟩,
  ⟨0x200008, 0x0, 1, 0, 1, .ro, 0x0, 0xffffffff, 0x0, 0⟩,
  ⟨0x20000c, 0x0, 1, 0, 1, .ro, 0x0, 0xffffffff, 0x0, 0⟩,
  ⟨0x200010, 0x0, 1, 0, 1, .ro, 0x0, 0xffffffff, 0x0, 0⟩,
  ⟨0x200014, 0x0, 1, 0, 1, .ro, 0x0, 0xffffffff, 0x0, 0⟩,
  ⟨0x200018, 0x0, 1, 0, 1, .ro, 0x0, 0xffffffff, 0x0, 0⟩,
  ⟨0x200020, 0x0, 1, 0, 1, .ro, 0x0, 0xffffffff, 0x0, 0⟩,
  ⟨0x200024, 0x0, 1, 0, 1, .ro, 0x0, 0xffffffff, 0x0, 0⟩,
  ⟨0x200028, 0x0, 1, 0, 1, .rw, 0x80000000, 0xfff00000, 0xfff00000, 1⟩,
  ⟨0x20002c, 0x0, 1, 0, 1, .rw, 0xe, 0xffffffff, 0xffffffff, 1⟩,
  ⟨0x200030, 0x0, 1, 0, 1, .rw, 0x4000, 0xffffffff, 0xffffffff, 1⟩,
  ⟨0x200034, 0x0, 1, 0, 1, .ro, 0x0, 0xffffffff, 0x0, 0⟩,
  ⟨0x200038, 0x0, 1, 0, 1, .ro, 0x0, 0xffffff, 0x0, 0⟩,
  ⟨0x20003c, 0x0, 1, 0, 1, .ro, 0x0, 0xffffff, 0x0, 0⟩,
  ⟨0x200040, 0x0, 1, 0, 1, .rc, 0x0, 0xffffffff, 0x0, 0⟩,
  ⟨0x200044, 0x0, 1, 0, 1, .rc, 0x0, 0xffffffff, 0x0, 0⟩,
  ⟨0x200048, 0x0, 1, 0, 1, .rc, 0x0, 0xffffffff, 0x0, 0⟩,
  ⟨0x20004c, 0x0, 1, 0, 1, .rc, 0x0, 0xffffffff, 0x0, 0⟩,
  ⟨0x200050, 0x0, 1, 0, 1, .rc, 0x0, 0xffffffff, 0x0, 0⟩,
  ⟨0x200054, 0x0, 1, 0, 1, .rc, 0x0, 0xffffffff, 0x0, 0⟩,
  ⟨0x200058, 0x0, 1, 0, 1, .ro, 0x0, 0xffffffff, 0x0, 0⟩,
  ⟨0x20005c, 0x0, 1, 0, 1, .wo, 0x0, 0x1, 0x1, 63⟩,
  ⟨0x200060, 0x4, 4, 0, 1, .ro, 0x0, 0xffffffff, 0x0, 0⟩,
  ⟨0x300000, 0x1000, 136, 0, 1, .ro, 0x0, 0x1f071f, 0x0, 0⟩,
  ⟨0x300004, 0x1000, 136, 0, 1, .ro, 0x0, 0xffffff, 0x0, 0⟩,
  ⟨0x300008, 0x1000, 136, 0, 1, .ro, 0x0, 0xffffff, 0x0, 0⟩,
  ⟨0x30000c, 0x1000, 136, 0, 1, .ro, 0x0, 0xffffffff, 0x0, 0⟩,
  ⟨0x300010, 0x1000, 136, 0, 1, .rc, 0x0, 0xffffffff, 0x0, 0⟩,
  ⟨0x300014, 0x1000, 136, 0, 1, .rc, 0x0, 0xffffffff, 0x0, 0⟩,
  ⟨0x300018, 0x1000, 136, 0, 1, .rc, 0x0, 0xffffffff, 0x0, 0⟩,
  ⟨0x30001c, 0x1000, 136, 0, 1, .rc, 0x0, 0xffffffff, 0x0, 0⟩,
  ⟨0x300020, 0x1000, 136, 0, 1, .rc, 0x0, 0xffffffff, 0x0, 0⟩,
  ⟨0x300024, 0x1000, 136, 0, 1, .wo, 0x0, 0x1, 0x1, 63⟩,
  ⟨0x390000, 0x0, 1, 0, 1, .rw, 0x2, 0x3, 0x3, 5⟩,
  ⟨0x390004, 0x0, 1, 0, 1, .ro, 0x0, 0xfffffffe, 0x0, 0⟩,
  ⟨0x390008, 0x0, 1, 0, 1, .rw, 0x80006, 0x1f00ff, 0x1f00ff, 5⟩,
  ⟨0x39000c, 0x0, 1, 0, 1, .rw, 0x640400, 0xffffffff, 0xffffffff, 5⟩,
  ⟨0x390010, 0x0, 1, 0, 1, .rw, 0x5eed0001, 0xffffffff, 0xffffffff, 5⟩,
  ⟨0x390014, 0x0, 1, 0, 1, .rw, 0x700003, 0xff00ff, 0xff00ff, 5⟩]

/-- Register map, part 1 (R10). -/
def regRows1 : List RegRow := [
  ⟨0x390018, 0x0, 1, 0, 1, .ro, 0x0, 0xffffff, 0x0, 0⟩,
  ⟨0x39001c, 0x0, 1, 0, 1, .ro, 0x0, 0xffffff, 0x0, 0⟩,
  ⟨0x390020, 0x4, 8, 0, 1, .rw, 0x4000400, 0xfff0fff, 0xfff0fff, 5⟩,
  ⟨0x390040, 0x0, 1, 0, 1, .rc, 0x0, 0xffffffff, 0x0, 0⟩,
  ⟨0x390044, 0x0, 1, 0, 1, .rc, 0x0, 0xffffffff, 0x0, 0⟩,
  ⟨0x390048, 0x0, 1, 0, 1, .rc, 0x0, 0xffffffff, 0x0, 0⟩,
  ⟨0x39004c, 0x0, 1, 0, 1, .rc, 0x0, 0xffffffff, 0x0, 0⟩,
  ⟨0x390050, 0x0, 1, 0, 1, .rc, 0x0, 0xffffffff, 0x0, 0⟩,
  ⟨0x390054, 0x4, 3, 0, 1, .ro, 0x0, 0xffffffff, 0x0, 0⟩,
  ⟨0x390060, 0x4, 4, 0, 1, .ro, 0x0, 0xffffffff, 0x0, 0⟩,
  ⟨0xe00000, 0x10, 16, 0, 1, .rw, 0x0, 0xffffffff, 0xffffffff, 63⟩,
  ⟨0xe00004, 0x10, 16, 0, 1, .rw, 0x74000, 0x37ffff, 0x37ffff, 63⟩,
  ⟨0xe00008, 0x10, 16, 4, 2, .ro, 0x0, 0x0, 0x0, 0⟩,
  ⟨0xe00100, 0x0, 1, 0, 1, .rw, 0x0, 0x7ffff, 0x7ffff, 63⟩,
  ⟨0xe00104, 0x0, 1, 0, 1, .rw, 0x40000, 0xfffff, 0xfffff, 63⟩,
  ⟨0xe00108, 0x0, 1, 0, 1, .rw, 0x0, 0x1, 0x1, 63⟩,
  ⟨0xe0010c, 0x0, 1, 0, 1, .rw, 0x0, 0xfff0fff, 0xfff0fff, 63⟩,
  ⟨0xe00110, 0x0, 1, 0, 1, .rw, 0x0, 0xfffff000, 0xfffff000, 63⟩,
  ⟨0xe00114, 0x0, 1, 0, 1, .rw, 0x0, 0xffffffff, 0xffffffff, 63⟩,
  ⟨0xe00118, 0x0, 1, 0, 1, .rw, 0x0, 0x1, 0x1, 63⟩,
  ⟨0xe00120, 0x4, 4, 0, 1, .rw, 0x0, 0xffff, 0xffff, 63⟩,
  ⟨0xe00200, 0x80, 4, 4, 16, .rw, 0x0, 0xffffffff, 0xffffffff, 63⟩,
  ⟨0xe00240, 0x80, 4, 0, 1, .rw, 0x0, 0xffff, 0xffff, 63⟩,
  ⟨0xe00244, 0x80, 4, 4, 15, .ro, 0x0, 0x0, 0x0, 0⟩,
  ⟨0xe00400, 0x4, 40, 0, 1, .rw, 0x0, 0xffffffff, 0xffffffff, 63⟩,
  ⟨0xe004a0, 0x0, 1, 0, 1, .rw, 0x0, 0xffff, 0xffff, 63⟩,
  ⟨0xe00800, 0x4, 256, 0, 1, .rw, 0x0, 0x1ffff, 0x1ffff, 63⟩,
  ⟨0x400000, 0x0, 1, 0, 1, .rw, 0x0, 0x3, 0x3, 5⟩,
  ⟨0x400004, 0x0, 1, 0, 1, .ro, 0x0, 0xff0f, 0x0, 0⟩,
  ⟨0x400008, 0x0, 1, 0, 1, .ro, 0xffff, 0xffffffff, 0x0, 0⟩,
  ⟨0x40000c, 0x0, 1, 0, 1, .ro, 0xffff, 0xffffffff, 0x0, 0⟩,
  ⟨0x400010, 0x0, 1, 0, 1, .wo, 0x0, 0x3, 0x3, 63⟩,
  ⟨0x400014, 0x0, 1, 0, 1, .rw, 0x90000000, 0xfff00000, 0xfff00000, 1⟩,
  ⟨0x400018, 0x0, 1, 0, 1, .rw, 0x12, 0xffffffff, 0xffffffff, 1⟩,
  ⟨0x40001c, 0x0, 1, 0, 1, .rw, 0x8000, 0xffffffff, 0xffffffff, 1⟩,
  ⟨0x400020, 0x0, 1, 0, 1, .ro, 0x0, 0x1ffffff, 0x0, 0⟩,
  ⟨0x400024, 0x0, 1, 0, 1, .rc, 0x0, 0xffffffff, 0x0, 0⟩,
  ⟨0x400028, 0x0, 1, 0, 1, .rc, 0x0, 0xffffffff, 0x0, 0⟩,
  ⟨0x40002c, 0x0, 1, 0, 1, .rc, 0x0, 0xffffffff, 0x0, 0⟩,
  ⟨0x400030, 0x0, 1, 0, 1, .rc, 0x0, 0xffffffff, 0x0, 0⟩]

/-- Register map, part 2 (R10). -/
def regRows2 : List RegRow := [
  ⟨0x400034, 0x0, 1, 0, 1, .rc, 0x0, 0xffffffff, 0x0, 0⟩,
  ⟨0x400038, 0x0, 1, 0, 1, .rc, 0x0, 0xffffffff, 0x0, 0⟩,
  ⟨0x40003c, 0x4, 3, 0, 1, .ro, 0x0, 0xffffffff, 0x0, 0⟩,
  ⟨0x500000, 0x0, 1, 0, 1, .rw, 0x2, 0x3, 0x3, 5⟩,
  ⟨0x500004, 0x0, 1, 0, 1, .ro, 0x0, 0x3f, 0x0, 0⟩,
  ⟨0x500008, 0x0, 1, 0, 1, .rw, 0x0, 0xfff00000, 0xfff00000, 1⟩,
  ⟨0x50000c, 0x0, 1, 0, 1, .rw, 0x0, 0xffffffff, 0xffffffff, 1⟩,
  ⟨0x500010, 0x0, 1, 0, 1, .rw, 0x300000, 0xffffffff, 0xffffffff, 1⟩,
  ⟨0x500014, 0x0, 1, 0, 1, .rw, 0x2, 0x1f, 0x1f, 1⟩,
  ⟨0x500018, 0x0, 1, 0, 1, .rw, 0x600000, 0xffffffff, 0xffffffff, 1⟩,
  ⟨0x50001c, 0x0, 1, 0, 1, .rw, 0xc0000000, 0xfffff000, 0xfffff000, 1⟩,
  ⟨0x500020, 0x0, 1, 0, 1, .rw, 0x13, 0xffffffff, 0xffffffff, 1⟩,
  ⟨0x500024, 0x0, 1, 0, 1, .rw, 0x0, 0xfff00000, 0xfff00000, 1⟩,
  ⟨0x500028, 0x0, 1, 0, 1, .rw, 0xc, 0xffffffff, 0xffffffff, 1⟩,
  ⟨0x50002c, 0x0, 1, 0, 1, .rw, 0x14000, 0xffffffff, 0xffffffff, 1⟩,
  ⟨0x500030, 0x0, 1, 0, 1, .rw, 0xc350, 0xffffff, 0xffffff, 5⟩,
  ⟨0x500034, 0x0, 1, 0, 1, .rw, 0x320064, 0xffffffff, 0xffffffff, 5⟩,
  ⟨0x500038, 0x0, 1, 0, 1, .rw, 0xf4240, 0xffffff, 0xffffff, 5⟩,
  ⟨0x50003c, 0x0, 1, 0, 1, .ro, 0x0, 0xffffff, 0x0, 0⟩,
  ⟨0x500040, 0x0, 1, 0, 1, .ro, 0x400, 0x7ff, 0x0, 0⟩,
  ⟨0x500044, 0x0, 1, 0, 1, .ro, 0x0, 0xffffffff, 0x0, 0⟩,
  ⟨0x500048, 0x0, 1, 0, 1, .ro, 0x0, 0xffffff, 0x0, 0⟩,
  ⟨0x50004c, 0x0, 1, 0, 1, .ro, 0x0, 0xffffffff, 0x0, 0⟩,
  ⟨0x500050, 0x0, 1, 0, 1, .ro, 0x0, 0xffffffff, 0x0, 0⟩,
  ⟨0x500054, 0x0, 1, 0, 1, .ro, 0xffffffff, 0xffffffff, 0x0, 0⟩,
  ⟨0x500058, 0x0, 1, 0, 1, .ro, 0x0, 0xffffffff, 0x0, 0⟩,
  ⟨0x50005c, 0x0, 1, 0, 1, .ro, 0x0, 0xffff, 0x0, 0⟩,
  ⟨0x500060, 0x0, 1, 0, 1, .ro, 0x0, 0x1ffffff, 0x0, 0⟩,
  ⟨0x500064, 0x0, 1, 0, 1, .rc, 0x0, 0xffffffff, 0x0, 0⟩,
  ⟨0x500068, 0x0, 1, 0, 1, .rc, 0x0, 0xffffffff, 0x0, 0⟩,
  ⟨0x50006c, 0x0, 1, 0, 1, .rc, 0x0, 0xffffffff, 0x0, 0⟩,
  ⟨0x500070, 0x0, 1, 0, 1, .rc, 0x0, 0xffffffff, 0x0, 0⟩,
  ⟨0x500074, 0x0, 1, 0, 1, .rc, 0x0, 0xffffffff, 0x0, 0⟩,
  ⟨0x500078, 0x0, 1, 0, 1, .rc, 0x0, 0xffffffff, 0x0, 0⟩,
  ⟨0x50007c, 0x0, 1, 0, 1, .rc, 0x0, 0xffffffff, 0x0, 0⟩,
  ⟨0x500080, 0x4, 3, 0, 1, .ro, 0x0, 0xffffffff, 0x0, 0⟩,
  ⟨0x501000, 0x0, 1, 0, 1, .ro, 0x0, 0x3, 0x0, 0⟩,
  ⟨0x501004, 0x0, 1, 0, 1, .rc, 0x0, 0xffffffff, 0x0, 0⟩,
  ⟨0x501008, 0x0, 1, 0, 1, .rc, 0x0, 0xffffffff, 0x0, 0⟩,
  ⟨0x50100c, 0x0, 1, 0, 1, .rc, 0x0, 0xffffffff, 0x0, 0⟩]

/-- Register map, part 3 (R10). -/
def regRows3 : List RegRow := [
  ⟨0x501010, 0x0, 1, 0, 1, .ro, 0x0, 0xffff, 0x0, 0⟩,
  ⟨0x501014, 0x0, 1, 0, 1, .rc, 0x0, 0xffffffff, 0x0, 0⟩,
  ⟨0xe01000, 0x0, 1, 0, 1, .rw, 0x18, 0x113f, 0x113f, 63⟩,
  ⟨0xe01004, 0x0, 1, 0, 1, .rw, 0x16001500, 0xffffffff, 0xffffffff, 63⟩,
  ⟨0xe01008, 0x0, 1, 0, 1, .rw, 0x18001700, 0xffffffff, 0xffffffff, 63⟩,
  ⟨0xe0100c, 0x0, 1, 0, 1, .rw, 0x0, 0xffffff, 0xffffff, 63⟩,
  ⟨0xe01010, 0x0, 1, 0, 1, .rw, 0x60000000, 0xffffffff, 0xffffffff, 63⟩,
  ⟨0xe01100, 0x100, 4, 4, 32, .rw, 0x0, 0xffffffff, 0xffffffff, 63⟩,
  ⟨0xe01180, 0x100, 4, 0, 1, .rw, 0xffff, 0xffff, 0xffff, 63⟩,
  ⟨0xe01184, 0x100, 4, 4, 31, .ro, 0x0, 0x0, 0x0, 0⟩,
  ⟨0x600000, 0x0, 1, 0, 1, .rw, 0x2, 0x3, 0x3, 5⟩,
  ⟨0x600004, 0x0, 1, 0, 1, .ro, 0x0, 0x1f, 0x0, 0⟩,
  ⟨0x600008, 0x0, 1, 0, 1, .rw, 0x80000000, 0xff800000, 0xff800000, 1⟩,
  ⟨0x60000c, 0x0, 1, 0, 1, .rw, 0x13, 0xffffffff, 0xffffffff, 1⟩,
  ⟨0x600010, 0x0, 1, 0, 1, .rw, 0x80800000, 0xff800000, 0xff800000, 1⟩,
  ⟨0x600014, 0x0, 1, 0, 1, .rw, 0x13, 0xffffffff, 0xffffffff, 1⟩,
  ⟨0x600018, 0x0, 1, 0, 1, .rw, 0xc4000000, 0xffe00000, 0xffe00000, 1⟩,
  ⟨0x60001c, 0x0, 1, 0, 1, .rw, 0x13, 0xffffffff, 0xffffffff, 1⟩,
  ⟨0x600020, 0x0, 1, 0, 1, .rw, 0x40, 0x7ff, 0x7ff, 1⟩,
  ⟨0x600024, 0x0, 1, 0, 1, .rw, 0xa0100, 0xffffffff, 0xffffffff, 5⟩,
  ⟨0x600028, 0x0, 1, 0, 1, .ro, 0xffff, 0x7fffffff, 0x0, 0⟩,
  ⟨0x60002c, 0x0, 1, 0, 1, .ro, 0x0, 0x1ffffff, 0x0, 0⟩,
  ⟨0x600030, 0x0, 1, 0, 1, .ro, 0x0, 0xffffffff, 0x0, 0⟩,
  ⟨0x600034, 0x0, 1, 0, 1, .ro, 0x0, 0xffffffff, 0x0, 0⟩,
  ⟨0x600040, 0x4, 4, 0, 1, .ro, 0x0, 0x7ffff, 0x0, 0⟩,
  ⟨0x600050, 0x0, 1, 0, 1, .rc, 0x0, 0xffffffff, 0x0, 0⟩,
  ⟨0x600054, 0x0, 1, 0, 1, .rc, 0x0, 0xffffffff, 0x0, 0⟩,
  ⟨0x600058, 0x0, 1, 0, 1, .rc, 0x0, 0xffffffff, 0x0, 0⟩,
  ⟨0x60005c, 0x0, 1, 0, 1, .rc, 0x0, 0xffffffff, 0x0, 0⟩,
  ⟨0x600060, 0x0, 1, 0, 1, .rc, 0x0, 0xffffffff, 0x0, 0⟩,
  ⟨0x600064, 0x0, 1, 0, 1, .ro, 0x0, 0x7ffff, 0x0, 0⟩,
  ⟨0x600068, 0x0, 1, 0, 1, .rc, 0x0, 0xffffffff, 0x0, 0⟩,
  ⟨0x60006c, 0x0, 1, 0, 1, .rc, 0x0, 0xffffffff, 0x0, 0⟩,
  ⟨0x600070, 0x4, 3, 0, 1, .ro, 0x0, 0xffffffff, 0x0, 0⟩,
  ⟨0xe02000, 0x0, 1, 0, 1, .rw, 0x0, 0xffffffff, 0xffffffff, 63⟩,
  ⟨0xe02004, 0x0, 1, 0, 1, .rw, 0x0, 0xffffffff, 0xffffffff, 63⟩,
  ⟨0xe02008, 0x0, 1, 0, 1, .rw, 0x0, 0xffffffff, 0xffffffff, 63⟩,
  ⟨0xe0200c, 0x0, 1, 0, 1, .rw, 0x0, 0xffffffff, 0xffffffff, 63⟩,
  ⟨0x700000, 0x0, 1, 0, 1, .rw, 0x4, 0x7, 0x7, 37⟩,
  ⟨0x700004, 0x0, 1, 0, 1, .w1c, 0x0, 0x3ff, 0x18, 63⟩]

/-- Register map, part 4 (R10). -/
def regRows4 : List RegRow := [
  ⟨0x700008, 0x0, 1, 0, 1, .rw, 0x0, 0xffffffff, 0xffffffff, 37⟩,
  ⟨0x70000c, 0x0, 1, 0, 1, .rw, 0x0, 0xffffffff, 0xffffffff, 37⟩,
  ⟨0x700010, 0x0, 1, 0, 1, .rw, 0x0, 0xffffffff, 0xffffffff, 37⟩,
  ⟨0x700014, 0x0, 1, 0, 1, .rw, 0x0, 0xffffffff, 0xffffffff, 37⟩,
  ⟨0x700018, 0x0, 1, 0, 1, .rw, 0x100202, 0x7fff70f, 0x7fff70f, 37⟩,
  ⟨0x70001c, 0x0, 1, 0, 1, .rw, 0x10, 0xffff, 0xffff, 37⟩,
  ⟨0x700020, 0x0, 1, 0, 1, .rw, 0x104f, 0xff7f, 0xff7f, 37⟩,
  ⟨0x700024, 0x0, 1, 0, 1, .rw, 0x60, 0xff, 0xff, 37⟩,
  ⟨0x700028, 0x0, 1, 0, 1, .rw, 0x40000190, 0xffffffff, 0xffffffff, 37⟩,
  ⟨0x70002c, 0x0, 1, 0, 1, .ro, 0x400, 0x107ff, 0x0, 0⟩,
  ⟨0x700030, 0x0, 1, 0, 1, .ro, 0x0, 0xffffffff, 0x0, 0⟩,
  ⟨0x700034, 0x0, 1, 0, 1, .ro, 0x0, 0xffffffff, 0x0, 0⟩,
  ⟨0x700038, 0x0, 1, 0, 1, .ro, 0x0, 0xffffffff, 0x0, 0⟩,
  ⟨0x70003c, 0x0, 1, 0, 1, .ro, 0x0, 0xffffffff, 0x0, 0⟩,
  ⟨0x700040, 0x0, 1, 0, 1, .rw, 0x0, 0xffffffff, 0xffffffff, 37⟩,
  ⟨0x700044, 0x0, 1, 0, 1, .rw, 0x0, 0xffffffff, 0xffffffff, 37⟩,
  ⟨0x700048, 0x0, 1, 0, 1, .rw, 0x0, 0xffffffff, 0xffffffff, 37⟩,
  ⟨0x70004c, 0x0, 1, 0, 1, .rw, 0x0, 0xffffffff, 0xffffffff, 37⟩,
  ⟨0x700050, 0x0, 1, 0, 1, .wo, 0x0, 0x7f, 0x7f, 63⟩,
  ⟨0x700054, 0x0, 1, 0, 1, .ro, 0x0, 0xffffffff, 0x0, 0⟩,
  ⟨0x700058, 0x0, 1, 0, 1, .ro, 0x0, 0xffffffff, 0x0, 0⟩,
  ⟨0x70005c, 0x0, 1, 0, 1, .ro, 0x0, 0xffffffff, 0x0, 0⟩,
  ⟨0x700060, 0x0, 1, 0, 1, .ro, 0x0, 0xffffffff, 0x0, 0⟩,
  ⟨0x700064, 0x0, 1, 0, 1, .rw, 0x0, 0xffffffff, 0xffffffff, 37⟩,
  ⟨0x700068, 0x0, 1, 0, 1, .rw, 0x0, 0xff, 0xff, 37⟩,
  ⟨0x70006c, 0x0, 1, 0, 1, .rw, 0x5000040, 0xffff00f1, 0xffff00f1, 37⟩,
  ⟨0x700070, 0x0, 1, 0, 1, .rw, 0xa0028, 0xffffffff, 0xffffffff, 37⟩,
  ⟨0x700074, 0x0, 1, 0, 1, .ro, 0x0, 0xffffffff, 0x0, 0⟩,
  ⟨0x700078, 0x0, 1, 0, 1, .ro, 0x0, 0xffffffff, 0x0, 0⟩,
  ⟨0x70007c, 0x0, 1, 0, 1, .ro, 0x0, 0xffffffff, 0x0, 0⟩,
  ⟨0x700080, 0x0, 1, 0, 1, .ro, 0x0, 0xffffffff, 0x0, 0⟩,
  ⟨0x700084, 0x0, 1, 0, 1, .ro, 0x0, 0x3ffffff, 0x0, 0⟩,
  ⟨0x700088, 0x0, 1, 0, 1, .ro, 0x0, 0xffffffff, 0x0, 0⟩,
  ⟨0x70008c, 0x0, 1, 0, 1, .ro, 0x0, 0xfffffff, 0x0, 0⟩,
  ⟨0x700090, 0x0, 1, 0, 1, .rw, 0xc800, 0xffffffff, 0xffffffff, 37⟩,
  ⟨0x700094, 0x0, 1, 0, 1, .rc, 0x0, 0xffffffff, 0x0, 0⟩,
  ⟨0x700098, 0x0, 1, 0, 1, .rc, 0x0, 0xffffffff, 0x0, 0⟩,
  ⟨0x70009c, 0x0, 1, 0, 1, .rc, 0x0, 0xffff, 0x0, 0⟩,
  ⟨0x7000a0, 0x0, 1, 0, 1, .rc, 0x0, 0xffffffff, 0x0, 0⟩,
  ⟨0x7000a4, 0x0, 1, 0, 1, .rc, 0x0, 0xffffffff, 0x0, 0⟩]

/-- Register map, part 5 (R10). -/
def regRows5 : List RegRow := [
  ⟨0x7000a8, 0x0, 1, 0, 1, .rc, 0x0, 0xffffffff, 0x0, 0⟩,
  ⟨0x7000ac, 0x0, 1, 0, 1, .rc, 0x0, 0xffffffff, 0x0, 0⟩,
  ⟨0x7000b0, 0x0, 1, 0, 1, .rc, 0x0, 0xffffffff, 0x0, 0⟩,
  ⟨0x7000b4, 0x0, 1, 0, 1, .rc, 0x0, 0xffffffff, 0x0, 0⟩,
  ⟨0x7000b8, 0x0, 1, 0, 1, .ro, 0x0, 0xffffffff, 0x0, 0⟩,
  ⟨0x7000bc, 0x0, 1, 0, 1, .ro, 0x0, 0xffffffff, 0x0, 0⟩,
  ⟨0x7000c0, 0x4, 3, 0, 1, .ro, 0x0, 0xffffffff, 0x0, 0⟩,
  ⟨0x700100, 0x10, 4, 0, 1, .rw, 0x0, 0xfff, 0xfff, 63⟩,
  ⟨0x700104, 0x10, 4, 0, 1, .rw, 0x0, 0xffffffff, 0xffffffff, 63⟩,
  ⟨0x700140, 0x0, 1, 0, 1, .rw, 0x55001900, 0xffffffff, 0xffffffff, 63⟩,
  ⟨0x700144, 0x0, 1, 0, 1, .rw, 0x180f, 0x3f0f, 0x3f0f, 63⟩,
  ⟨0x800000, 0x0, 1, 0, 1, .rw, 0xc, 0x1f, 0x1f, 37⟩,
  ⟨0x800004, 0x0, 1, 0, 1, .ro, 0x0, 0x7ffffff, 0x0, 0⟩,
  ⟨0x800008, 0x0, 1, 0, 1, .rw, 0x813, 0xffff0fff, 0xffff0fff, 37⟩,
  ⟨0x80000c, 0x0, 1, 0, 1, .rw, 0x323042, 0xffffffff, 0xffffffff, 37⟩,
  ⟨0x800010, 0x0, 1, 0, 1, .rw, 0xc3500310, 0xffff0fff, 0xffff0fff, 37⟩,
  ⟨0x800014, 0x0, 1, 0, 1, .rw, 0x28000a00, 0xffffffff, 0xffffffff, 37⟩,
  ⟨0x800018, 0x0, 1, 0, 1, .rw, 0x1000040, 0xffffffff, 0xffffffff, 37⟩,
  ⟨0x80001c, 0x0, 1, 0, 1, .rw, 0x640005, 0xffff000f, 0xffff000f, 37⟩,
  ⟨0x800020, 0x0, 1, 0, 1, .rw, 0x330258, 0xffffff, 0xffffff, 37⟩,
  ⟨0x800024, 0x0, 1, 0, 1, .rw, 0x80000000, 0xfffff000, 0xfffff000, 1⟩,
  ⟨0x800028, 0x0, 1, 0, 1, .rw, 0x14, 0xffffffff, 0xffffffff, 1⟩,
  ⟨0x80002c, 0x0, 1, 0, 1, .rw, 0x1000000, 0x1ffffff, 0x1ffffff, 1⟩,
  ⟨0x800030, 0x0, 1, 0, 1, .ro, 0x0, 0xffffff, 0x0, 0⟩,
  ⟨0x800034, 0x0, 1, 0, 1, .rw, 0x0, 0xffffff, 0xffffff, 63⟩,
  ⟨0x800040, 0x4, 22, 0, 1, .rw, 0x0, 0xffffffff, 0xffffffff, 1⟩,
  ⟨0x800098, 0x0, 1, 0, 1, .ro, 0x0, 0xffffffff, 0x0, 0⟩,
  ⟨0x80009c, 0x0, 1, 0, 1, .ro, 0x0, 0xffffffff, 0x0, 0⟩,
  ⟨0x8000a0, 0x0, 1, 0, 1, .ro, 0x0, 0xffffffff, 0x0, 0⟩,
  ⟨0x8000a4, 0x0, 1, 0, 1, .ro, 0x0, 0xffffffff, 0x0, 0⟩,
  ⟨0x8000a8, 0x0, 1, 0, 1, .ro, 0x0, 0xffffffff, 0x0, 0⟩,
  ⟨0x8000b0, 0x0, 1, 0, 1, .rc, 0x0, 0xffffffff, 0x0, 0⟩,
  ⟨0x8000b4, 0x0, 1, 0, 1, .rc, 0x0, 0xffffffff, 0x0, 0⟩,
  ⟨0x8000b8, 0x0, 1, 0, 1, .rc, 0x0, 0xffffffff, 0x0, 0⟩,
  ⟨0x8000bc, 0x0, 1, 0, 1, .rc, 0x0, 0xffffffff, 0x0, 0⟩,
  ⟨0x8000c0, 0x0, 1, 0, 1, .rc, 0x0, 0xffffffff, 0x0, 0⟩,
  ⟨0x8000c4, 0x0, 1, 0, 1, .rc, 0x0, 0xffffffff, 0x0, 0⟩,
  ⟨0x8000c8, 0x0, 1, 0, 1, .rc, 0x0, 0xffffffff, 0x0, 0⟩,
  ⟨0x8000cc, 0x0, 1, 0, 1, .rc, 0x0, 0xffffffff, 0x0, 0⟩,
  ⟨0x8000d0, 0x0, 1, 0, 1, .rc, 0x0, 0xffffffff, 0x0, 0⟩]

/-- Register map, part 6 (R10). -/
def regRows6 : List RegRow := [
  ⟨0x8000d4, 0x0, 1, 0, 1, .rc, 0x0, 0xffffffff, 0x0, 0⟩,
  ⟨0x8000d8, 0x0, 1, 0, 1, .rc, 0x0, 0xffffffff, 0x0, 0⟩,
  ⟨0x8000dc, 0x0, 1, 0, 1, .ro, 0x0, 0xffffffff, 0x0, 0⟩,
  ⟨0x8000e0, 0x0, 1, 0, 1, .rc, 0x0, 0xffffffff, 0x0, 0⟩,
  ⟨0x8000e4, 0x4, 3, 0, 1, .ro, 0x0, 0xffffffff, 0x0, 0⟩,
  ⟨0x800100, 0x4, 16, 0, 1, .ro, 0x0, 0xffffffff, 0x0, 0⟩,
  ⟨0x801000, 0x40, 72, 0, 1, .ro, 0x7f3c00, 0xff7f3fff, 0x0, 0⟩,
  ⟨0x801004, 0x40, 72, 0, 1, .ro, 0x0, 0xfffffff, 0x0, 0⟩,
  ⟨0x801008, 0x40, 72, 0, 1, .ro, 0x0, 0xffffffff, 0x0, 0⟩,
  ⟨0x80100c, 0x40, 72, 0, 1, .ro, 0x0, 0x1ff, 0x0, 0⟩,
  ⟨0x801010, 0x40, 72, 0, 1, .rw, 0x0, 0x8077, 0x77, 48⟩,
  ⟨0x801014, 0x40, 72, 0, 1, .rc, 0x0, 0xffffffff, 0x0, 0⟩,
  ⟨0x801018, 0x40, 72, 0, 1, .rw, 0x0, 0xff37, 0xff37, 48⟩,
  ⟨0x80101c, 0x40, 72, 0, 1, .rc, 0x0, 0xffffffff, 0x0, 0⟩,
  ⟨0x801020, 0x40, 72, 0, 1, .ro, 0x0, 0xffffffff, 0x0, 0⟩,
  ⟨0x801024, 0x40, 72, 0, 1, .wo, 0x0, 0x3, 0x3, 36⟩,
  ⟨0x100000, 0x0, 1, 0, 1, .ro, 0x0, 0x1ff, 0x0, 0⟩,
  ⟨0x100004, 0x0, 1, 0, 1, .rc, 0x0, 0xffffffff, 0x0, 0⟩,
  ⟨0x100008, 0x0, 1, 0, 1, .ro, 0x0, 0x7ff, 0x0, 0⟩,
  ⟨0x10000c, 0x0, 1, 0, 1, .rc, 0x0, 0xffffffff, 0x0, 0⟩,
  ⟨0x100010, 0x0, 1, 0, 1, .ro, 0x0, 0xff, 0x0, 0⟩,
  ⟨0x100020, 0x0, 1, 0, 1, .ro, 0x0, 0xffffffff, 0x0, 0⟩,
  ⟨0x100024, 0x0, 1, 0, 1, .ro, 0x0, 0xffffffff, 0x0, 0⟩,
  ⟨0x100028, 0x0, 1, 0, 1, .ro, 0x0, 0xffffffff, 0x0, 0⟩,
  ⟨0x10002c, 0x0, 1, 0, 1, .ro, 0x0, 0xffffffff, 0x0, 0⟩,
  ⟨0x100100, 0x10, 8, 0, 1, .ro, 0x0, 0x3f, 0x0, 0⟩,
  ⟨0x100104, 0x10, 8, 0, 1, .rc, 0x0, 0xffffffff, 0x0, 0⟩,
  ⟨0x100108, 0x10, 8, 0, 1, .ro, 0x0, 0xffffffff, 0x0, 0⟩,
  ⟨0x10010c, 0x10, 8, 0, 1, .ro, 0x0, 0xffffffff, 0x0, 0⟩,
  ⟨0x101000, 0x40, 130, 0, 1, .rw, 0x0, 0xfffff000, 0xfffff000, 63⟩,
  ⟨0xb01000, 0x40, 2, 0, 1, .rw, 0x0, 0xfffff000, 0xfffff000, 63⟩,
  ⟨0x101004, 0x40, 130, 0, 1, .rw, 0x0, 0xffffffff, 0xffffffff, 63⟩,
  ⟨0xb01004, 0x40, 2, 0, 1, .rw, 0x0, 0xffffffff, 0xffffffff, 63⟩,
  ⟨0x101008, 0x40, 130, 0, 1, .rw, 0x4, 0x11f, 0x11f, 63⟩,
  ⟨0xb01008, 0x40, 2, 0, 1, .rw, 0x4, 0x11f, 0x11f, 63⟩,
  ⟨0x10100c, 0x40, 130, 0, 1, .wo, 0x0, 0x3, 0x3, 63⟩,
  ⟨0xb0100c, 0x40, 2, 0, 1, .wo, 0x0, 0x3, 0x3, 63⟩,
  ⟨0x101010, 0x40, 130, 0, 1, .ro, 0x10000, 0x1ffff, 0x0, 0⟩,
  ⟨0xb01010, 0x40, 2, 0, 1, .ro, 0x10000, 0x1ffff, 0x0, 0⟩,
  ⟨0x101014, 0x40, 130, 0, 1, .ro, 0x10000, 0x1ffff, 0x0, 0⟩]

/-- Register map, part 7 (R10). -/
def regRows7 : List RegRow := [
  ⟨0xb01014, 0x40, 2, 0, 1, .ro, 0x10000, 0x1ffff, 0x0, 0⟩,
  ⟨0x101018, 0x40, 130, 0, 1, .ro, 0x0, 0xff0f, 0x0, 0⟩,
  ⟨0xb01018, 0x40, 2, 0, 1, .ro, 0x0, 0xff0f, 0x0, 0⟩,
  ⟨0x10101c, 0x40, 130, 0, 1, .rc, 0x0, 0xffffffff, 0x0, 0⟩,
  ⟨0xb0101c, 0x40, 2, 0, 1, .rc, 0x0, 0xffffffff, 0x0, 0⟩,
  ⟨0x101020, 0x40, 128, 0, 1, .rw, 0x0, 0xffffffff, 0xffffffff, 63⟩,
  ⟨0xb01020, 0x40, 2, 0, 1, .rw, 0x0, 0xffffffff, 0xffffffff, 63⟩,
  ⟨0x101024, 0x40, 128, 0, 1, .rw, 0x0, 0xffffffff, 0xffffffff, 63⟩,
  ⟨0xb01024, 0x40, 2, 0, 1, .rw, 0x0, 0xffffffff, 0xffffffff, 63⟩,
  ⟨0x101028, 0x40, 128, 0, 1, .rw, 0x0, 0xffffffff, 0xffffffff, 63⟩,
  ⟨0xb01028, 0x40, 2, 0, 1, .rw, 0x0, 0xffffffff, 0xffffffff, 63⟩,
  ⟨0x10102c, 0x40, 128, 0, 1, .rw, 0x0, 0xffffffff, 0xffffffff, 63⟩,
  ⟨0xb0102c, 0x40, 2, 0, 1, .rw, 0x0, 0xffffffff, 0xffffffff, 63⟩,
  ⟨0x101030, 0x40, 128, 0, 1, .rw, 0x0, 0xffffffff, 0xffffffff, 63⟩,
  ⟨0x101034, 0x40, 128, 0, 1, .rw, 0x0, 0xff, 0xff, 63⟩,
  ⟨0x101038, 0x40, 128, 0, 1, .rw, 0x0, 0xffffffff, 0xffffffff, 63⟩,
  ⟨0x10103c, 0x40, 128, 0, 1, .rw, 0x0, 0xff, 0xff, 63⟩,
  ⟨0xe80000, 0x0, 1, 0, 1, .ro, 0x0, 0xf, 0x0, 0⟩,
  ⟨0xe80004, 0x0, 1, 0, 1, .ro, 0x0, 0xffffffff, 0x0, 0⟩,
  ⟨0xe80008, 0x0, 1, 0, 1, .rc, 0x0, 0xffffffff, 0x0, 0⟩,
  ⟨0xe8000c, 0x0, 1, 0, 1, .ro, 0x0, 0xffffff, 0x0, 0⟩,
  ⟨0x900000, 0x0, 1, 0, 1, .rw, 0x70, 0x73, 0x73, 37⟩,
  ⟨0x900004, 0x0, 1, 0, 1, .ro, 0x0, 0x3f0fff, 0x0, 0⟩,
  ⟨0x900008, 0x0, 1, 0, 1, .rw, 0x2580c10, 0xffffffff, 0xffffffff, 37⟩,
  ⟨0x90000c, 0x0, 1, 0, 1, .rw, 0x8, 0xf, 0xf, 37⟩,
  ⟨0x900010, 0x0, 1, 0, 1, .rw, 0x8002000, 0xffffffff, 0xffffffff, 37⟩,
  ⟨0x900014, 0x0, 1, 0, 1, .rw, 0x100fa0, 0xffffffff, 0xffffffff, 37⟩,
  ⟨0x900018, 0x0, 1, 0, 1, .rw, 0xc8, 0xffff, 0xffff, 37⟩,
  ⟨0x90001c, 0x0, 1, 0, 1, .rw, 0x3e80804, 0xffffffff, 0xffffffff, 37⟩,
  ⟨0x900020, 0x0, 1, 0, 1, .rc, 0x0, 0xffffffff, 0x0, 0⟩,
  ⟨0x900024, 0x0, 1, 0, 1, .rc, 0x0, 0xffffffff, 0x0, 0⟩,
  ⟨0x900028, 0x0, 1, 0, 1, .rc, 0x0, 0xffffffff, 0x0, 0⟩,
  ⟨0x90002c, 0x0, 1, 0, 1, .rc, 0x0, 0xffffffff, 0x0, 0⟩,
  ⟨0x900030, 0x4, 4, 0, 1, .ro, 0x0, 0x1fff, 0x0, 0⟩,
  ⟨0x900040, 0x8, 16, 0, 1, .rw, 0x0, 0xf01fffff, 0xf01fffff, 1⟩,
  ⟨0x900044, 0x8, 16, 0, 1, .rw, 0x0, 0x1fffff, 0x1fffff, 1⟩,
  ⟨0x9000c0, 0x0, 1, 0, 1, .wo, 0x0, 0x1, 0x1, 32⟩,
  ⟨0x9000c4, 0x0, 1, 0, 1, .rw, 0x0, 0x7ffffff, 0x7ffffff, 32⟩,
  ⟨0x9000c8, 0x0, 1, 0, 1, .ro, 0x0, 0x37, 0x0, 0⟩,
  ⟨0x901000, 0x40, 64, 0, 1, .ro, 0x0, 0xff000ff7, 0x0, 0⟩]

/-- Register map, part 8 (R10). -/
def regRows8 : List RegRow := [
  ⟨0x901004, 0x40, 64, 0, 1, .ro, 0x0, 0xffffffff, 0x0, 0⟩,
  ⟨0x901008, 0x40, 64, 0, 1, .wo, 0x0, 0x7, 0x7, 60⟩,
  ⟨0x90100c, 0x40, 64, 0, 1, .rc, 0x0, 0xffffffff, 0x0, 0⟩,
  ⟨0x901010, 0x40, 64, 0, 1, .rc, 0x0, 0xffffffff, 0x0, 0⟩,
  ⟨0x901014, 0x40, 64, 0, 1, .rc, 0x0, 0xffffffff, 0x0, 0⟩,
  ⟨0x901018, 0x40, 64, 0, 1, .rc, 0x0, 0xffffffff, 0x0, 0⟩,
  ⟨0x90101c, 0x40, 64, 0, 1, .ro, 0x0, 0xff, 0x0, 0⟩,
  ⟨0x901020, 0x40, 64, 0, 1, .ro, 0x0, 0xffffffff, 0x0, 0⟩,
  ⟨0x901024, 0x40, 64, 0, 1, .ro, 0x0, 0xff, 0x0, 0⟩,
  ⟨0xa00000, 0x0, 1, 0, 1, .rw, 0x7, 0x7, 0x7, 37⟩,
  ⟨0xa00004, 0x0, 1, 0, 1, .ro, 0x0, 0x7, 0x0, 0⟩,
  ⟨0xa00008, 0x0, 1, 0, 1, .rw, 0x3e83c18, 0xffffffff, 0xffffffff, 37⟩,
  ⟨0xa0000c, 0x0, 1, 0, 1, .ro, 0x0, 0xffffffff, 0x0, 0⟩,
  ⟨0xa00010, 0x0, 1, 0, 1, .ro, 0x0, 0x3fffff, 0x0, 0⟩,
  ⟨0xa00014, 0x0, 1, 0, 1, .rc, 0x0, 0xffffffff, 0x0, 0⟩,
  ⟨0xa00018, 0x0, 1, 0, 1, .rc, 0x0, 0xffffffff, 0x0, 0⟩,
  ⟨0xa0001c, 0x0, 1, 0, 1, .rc, 0x0, 0xffffffff, 0x0, 0⟩,
  ⟨0xa00020, 0x0, 1, 0, 1, .rc, 0x0, 0xffffffff, 0x0, 0⟩,
  ⟨0xa00024, 0x0, 1, 0, 1, .rc, 0x0, 0xffffffff, 0x0, 0⟩,
  ⟨0xa00028, 0x0, 1, 0, 1, .rc, 0x0, 0xffffffff, 0x0, 0⟩,
  ⟨0xa0002c, 0x0, 1, 0, 1, .rc, 0x0, 0xffffffff, 0x0, 0⟩,
  ⟨0xa00030, 0x0, 1, 0, 1, .rc, 0x0, 0xffffffff, 0x0, 0⟩,
  ⟨0xa00034, 0x0, 1, 0, 1, .rc, 0x0, 0xffffffff, 0x0, 0⟩,
  ⟨0xa00038, 0x0, 1, 0, 1, .ro, 0x0, 0x1ffff, 0x0, 0⟩,
  ⟨0xa0003c, 0x0, 1, 0, 1, .ro, 0x0, 0x1ffff, 0x0, 0⟩,
  ⟨0xa00040, 0x0, 1, 0, 1, .rc, 0x0, 0xffffffff, 0x0, 0⟩,
  ⟨0xa00044, 0x0, 1, 0, 1, .ro, 0x0, 0xffffffff, 0x0, 0⟩,
  ⟨0xa00048, 0x0, 1, 0, 1, .ro, 0x0, 0xffffffff, 0x0, 0⟩,
  ⟨0xa0004c, 0x0, 1, 0, 1, .rw, 0xcc000000, 0xfffff000, 0xfffff000, 1⟩,
  ⟨0xa00050, 0x0, 1, 0, 1, .rw, 0x13, 0xffffffff, 0xffffffff, 1⟩,
  ⟨0xa00054, 0x0, 1, 0, 1, .ro, 0x0, 0xffff, 0x0, 0⟩,
  ⟨0xa00058, 0x0, 1, 0, 1, .ro, 0x0, 0xffffff, 0x0, 0⟩,
  ⟨0xa0005c, 0x0, 1, 0, 1, .ro, 0x0, 0xffffff, 0x0, 0⟩,
  ⟨0xa00060, 0x0, 1, 0, 1, .rw, 0x0, 0xff07, 0xff07, 63⟩,
  ⟨0xa00064, 0x0, 1, 0, 1, .rw, 0x0, 0xffffffff, 0xffffffff, 63⟩,
  ⟨0xa00068, 0x0, 1, 0, 1, .rw, 0x0, 0xffffffff, 0xffffffff, 63⟩,
  ⟨0xa0006c, 0x0, 1, 0, 1, .rw, 0x0, 0xffffffff, 0xffffffff, 63⟩,
  ⟨0xa00070, 0x0, 1, 0, 1, .rw, 0x0, 0xffffffff, 0xffffffff, 63⟩,
  ⟨0xa00074, 0x0, 1, 0, 1, .rw, 0x0, 0xff, 0xff, 63⟩,
  ⟨0xa00080, 0x0, 1, 0, 1, .ro, 0x0, 0xffffffff, 0x0, 0⟩]

/-- Register map, part 9 (R10). -/
def regRows9 : List RegRow := [
  ⟨0xa00084, 0x0, 1, 0, 1, .wo, 0x0, 0x1, 0x1, 63⟩,
  ⟨0xa00088, 0x0, 1, 0, 1, .rc, 0x0, 0xffffffff, 0x0, 0⟩,
  ⟨0xa00090, 0x4, 4, 0, 1, .ro, 0x0, 0xffffffff, 0x0, 0⟩,
  ⟨0xb00000, 0x0, 1, 0, 1, .rw, 0x0, 0x77, 0x77, 37⟩,
  ⟨0xb00004, 0x0, 1, 0, 1, .ro, 0x0, 0x77, 0x0, 0⟩,
  ⟨0xb00008, 0x0, 1, 0, 1, .rw, 0x0, 0xffffffff, 0xffffffff, 37⟩,
  ⟨0xb0000c, 0x0, 1, 0, 1, .rw, 0x0, 0xffff, 0xffff, 37⟩,
  ⟨0xb00010, 0x0, 1, 0, 1, .rw, 0x0, 0xffffffff, 0xffffffff, 37⟩,
  ⟨0xb00014, 0x0, 1, 0, 1, .rw, 0x0, 0x17fff, 0x17fff, 37⟩,
  ⟨0xb00018, 0x0, 1, 0, 1, .rw, 0x0, 0xfff03, 0xfff03, 37⟩,
  ⟨0xb0001c, 0x0, 1, 0, 1, .rw, 0x0, 0xffffffff, 0xffffffff, 37⟩,
  ⟨0xb00020, 0x0, 1, 0, 1, .rw, 0x0, 0xffffffff, 0xffffffff, 37⟩,
  ⟨0xb00024, 0x0, 1, 0, 1, .ro, 0x0, 0xffffffff, 0x0, 0⟩,
  ⟨0xb00028, 0x0, 1, 0, 1, .ro, 0x0, 0xffffffff, 0x0, 0⟩,
  ⟨0xb0002c, 0x0, 1, 0, 1, .rw, 0x2101010, 0xffffffff, 0xffffffff, 63⟩,
  ⟨0xb00030, 0x0, 1, 0, 1, .rw, 0x40, 0xff, 0xff, 63⟩,
  ⟨0xb00040, 0x8, 5, 0, 1, .rw, 0x0, 0xfffff, 0xfffff, 37⟩,
  ⟨0xb00044, 0x8, 5, 0, 1, .rw, 0x0, 0xfffff, 0xfffff, 37⟩,
  ⟨0xb00070, 0x0, 1, 0, 1, .rw, 0x0, 0xffffffff, 0xffffffff, 63⟩,
  ⟨0xb00074, 0x0, 1, 0, 1, .rw, 0x0, 0xffff, 0xffff, 63⟩,
  ⟨0xb00078, 0x0, 1, 0, 1, .rw, 0x0, 0xffffffff, 0xffffffff, 63⟩,
  ⟨0xb0007c, 0x0, 1, 0, 1, .rw, 0x2a012a01, 0xffffffff, 0xffffffff, 63⟩,
  ⟨0xb00080, 0x0, 1, 0, 1, .rw, 0x3e80014, 0xffff001f, 0xffff001f, 63⟩,
  ⟨0xb00084, 0x0, 1, 0, 1, .ro, 0x0, 0xffffff, 0x0, 0⟩,
  ⟨0xb00088, 0x0, 1, 0, 1, .ro, 0x0, 0xffffffff, 0x0, 0⟩,
  ⟨0xb00090, 0x0, 1, 0, 1, .rc, 0x0, 0xffffffff, 0x0, 0⟩,
  ⟨0xb00094, 0x0, 1, 0, 1, .rc, 0x0, 0xffffffff, 0x0, 0⟩,
  ⟨0xb00098, 0x0, 1, 0, 1, .rc, 0x0, 0xffffffff, 0x0, 0⟩,
  ⟨0xb0009c, 0x0, 1, 0, 1, .rc, 0x0, 0xffffffff, 0x0, 0⟩,
  ⟨0xb000a0, 0x0, 1, 0, 1, .rc, 0x0, 0xffffffff, 0x0, 0⟩,
  ⟨0xb000a4, 0x0, 1, 0, 1, .rc, 0x0, 0xffffffff, 0x0, 0⟩,
  ⟨0xb000a8, 0x0, 1, 0, 1, .rc, 0x0, 0xffffffff, 0x0, 0⟩,
  ⟨0xb000ac, 0x0, 1, 0, 1, .rc, 0x0, 0xffffffff, 0x0, 0⟩,
  ⟨0xb000b0, 0x0, 1, 0, 1, .rc, 0x0, 0xffffffff, 0x0, 0⟩,
  ⟨0xb000b4, 0x0, 1, 0, 1, .rc, 0x0, 0xffffffff, 0x0, 0⟩,
  ⟨0xb80000, 0x0, 1, 0, 1, .rw, 0x1, 0x1f, 0x1f, 63⟩,
  ⟨0xb80004, 0x0, 1, 0, 1, .ro, 0x0, 0x7, 0x0, 0⟩,
  ⟨0xb80008, 0x4, 4, 0, 1, .ro, 0x0, 0xffffffff, 0x0, 0⟩,
  ⟨0xb80018, 0x0, 1, 0, 1, .ro, 0x0, 0xffffffff, 0x0, 0⟩,
  ⟨0xb8001c, 0x0, 1, 0, 1, .ro, 0x0, 0xffffffff, 0x0, 0⟩]

/-- Register map, part 10 (R10). -/
def regRows10 : List RegRow := [
  ⟨0xb80020, 0x0, 1, 0, 1, .rw, 0x8f5c28f6, 0xffffffff, 0xffffffff, 63⟩,
  ⟨0xb80024, 0x0, 1, 0, 1, .rw, 0x2, 0xf, 0xf, 63⟩,
  ⟨0xb80028, 0x0, 1, 0, 1, .rw, 0x0, 0xffffffff, 0xffffffff, 63⟩,
  ⟨0xb8002c, 0x0, 1, 0, 1, .rw, 0x0, 0xffffffff, 0xffffffff, 63⟩,
  ⟨0xb80030, 0x0, 1, 0, 1, .rw, 0x0, 0xffff, 0xffff, 63⟩,
  ⟨0xb80034, 0x0, 1, 0, 1, .rw, 0x3e80064, 0xffff03ff, 0xffff03ff, 63⟩,
  ⟨0xb80038, 0x0, 1, 0, 1, .ro, 0x0, 0xffffffff, 0x0, 0⟩,
  ⟨0xb8003c, 0x0, 1, 0, 1, .wo, 0x0, 0xf, 0xf, 63⟩,
  ⟨0xb80040, 0x0, 1, 0, 1, .rw, 0x0, 0x3fffffff, 0x3fffffff, 63⟩,
  ⟨0xb80044, 0x0, 1, 0, 1, .rw, 0x0, 0xffffffff, 0xffffffff, 63⟩,
  ⟨0xb80048, 0x0, 1, 0, 1, .rw, 0x0, 0xffffffff, 0xffffffff, 63⟩,
  ⟨0xb8004c, 0x0, 1, 0, 1, .rw, 0x3b9aca00, 0xffffffff, 0xffffffff, 63⟩,
  ⟨0xb80050, 0x0, 1, 0, 1, .rw, 0x989680, 0xffffffff, 0xffffffff, 63⟩,
  ⟨0xb80060, 0x20, 2, 0, 1, .ro, 0x0, 0x1f, 0x0, 0⟩,
  ⟨0xb80064, 0x20, 2, 4, 4, .ro, 0x0, 0xffffffff, 0x0, 0⟩,
  ⟨0xb80074, 0x20, 2, 0, 1, .rc, 0x0, 0xffffffff, 0x0, 0⟩,
  ⟨0xb800a0, 0x0, 1, 0, 1, .rc, 0x0, 0xffffffff, 0x0, 0⟩,
  ⟨0xb800a4, 0x0, 1, 0, 1, .rc, 0x0, 0xffffffff, 0x0, 0⟩,
  ⟨0xf00000, 0x0, 1, 0, 1, .w1c, 0x0, 0xffffffff, 0xffffffff, 63⟩,
  ⟨0xf00004, 0x0, 1, 0, 1, .w1c, 0x0, 0xffffffff, 0xffffffff, 63⟩,
  ⟨0xf00008, 0x0, 1, 0, 1, .rw, 0x0, 0xffffffff, 0xffffffff, 63⟩,
  ⟨0xf0000c, 0x0, 1, 0, 1, .rw, 0x0, 0xffffffff, 0xffffffff, 63⟩,
  ⟨0xf00010, 0x0, 1, 0, 1, .ro, 0x0, 0xffffffff, 0x0, 0⟩,
  ⟨0xf00014, 0x0, 1, 0, 1, .ro, 0x0, 0xffffffff, 0x0, 0⟩,
  ⟨0xf00018, 0x0, 1, 0, 1, .wo, 0x0, 0xffffffff, 0xffffffff, 32⟩,
  ⟨0xf0001c, 0x0, 1, 0, 1, .wo, 0x0, 0xffffffff, 0xffffffff, 32⟩,
  ⟨0xf00020, 0x0, 1, 0, 1, .rc, 0x0, 0xffffffff, 0x0, 0⟩,
  ⟨0xf00024, 0x0, 1, 0, 1, .rc, 0x0, 0xffffffff, 0x0, 0⟩,
  ⟨0xc00000, 0x0, 1, 0, 1, .rw, 0x1e, 0x1f, 0x1f, 37⟩,
  ⟨0xc00004, 0x0, 1, 0, 1, .ro, 0x0, 0x3fff, 0x0, 0⟩,
  ⟨0xc00008, 0x0, 1, 0, 1, .wo, 0x0, 0x7, 0x7, 63⟩,
  ⟨0xc0000c, 0x0, 1, 0, 1, .rw, 0x0, 0xfffff, 0xfffff, 63⟩,
  ⟨0xc00010, 0x0, 1, 0, 1, .ro, 0x0, 0xffffffff, 0x0, 0⟩,
  ⟨0xc00014, 0x0, 1, 0, 1, .ro, 0x0, 0xffff, 0x0, 0⟩,
  ⟨0xc00018, 0x0, 1, 0, 1, .ro, 0x0, 0xfffff, 0x0, 0⟩,
  ⟨0xc0001c, 0x0, 1, 0, 1, .ro, 0x0, 0x7ffff, 0x0, 0⟩,
  ⟨0xc00020, 0x0, 1, 0, 1, .ro, 0x0, 0x7, 0x0, 0⟩,
  ⟨0xc00024, 0x0, 1, 0, 1, .wo, 0x0, 0x1, 0x1, 63⟩,
  ⟨0xc00028, 0x0, 1, 0, 1, .rc, 0x0, 0xffffffff, 0x0, 0⟩,
  ⟨0xc0002c, 0x0, 1, 0, 1, .rw, 0x0, 0xffffffff, 0xffffffff, 37⟩]

/-- Register map, part 11 (R10). -/
def regRows11 : List RegRow := [
  ⟨0xc00030, 0x0, 1, 0, 1, .rw, 0x3e8, 0xffff, 0xffff, 37⟩,
  ⟨0xc00034, 0x0, 1, 0, 1, .rw, 0x4600, 0xffff, 0xffff, 37⟩,
  ⟨0xc00038, 0x0, 1, 0, 1, .rw, 0x2a30, 0xffff, 0xffff, 37⟩,
  ⟨0xc0003c, 0x0, 1, 0, 1, .ro, 0x0, 0xffffffff, 0x0, 0⟩,
  ⟨0xc00040, 0x0, 1, 0, 1, .ro, 0x0, 0xffff, 0x0, 0⟩,
  ⟨0xc00044, 0x0, 1, 0, 1, .rc, 0x0, 0xffffffff, 0x0, 0⟩,
  ⟨0xc00048, 0x0, 1, 0, 1, .ro, 0x0, 0x1fffffff, 0x0, 0⟩,
  ⟨0xc0004c, 0x0, 1, 0, 1, .rc, 0x0, 0xffffffff, 0x0, 0⟩,
  ⟨0xc00050, 0x0, 1, 0, 1, .ro, 0x0, 0x8fffffff, 0x0, 0⟩,
  ⟨0xc00054, 0x4, 3, 0, 1, .ro, 0x0, 0xffffffff, 0x0, 0⟩,
  ⟨0xc00060, 0x0, 1, 0, 1, .rc, 0x0, 0xffffffff, 0x0, 0⟩,
  ⟨0xc00064, 0x0, 1, 0, 1, .rc, 0x0, 0xffffffff, 0x0, 0⟩,
  ⟨0xc00080, 0x8, 5, 0, 1, .ro, 0x0, 0xffffffff, 0x0, 0⟩,
  ⟨0xc00084, 0x8, 5, 0, 1, .ro, 0x0, 0xffffffff, 0x0, 0⟩,
  ⟨0xc000c0, 0x4, 5, 0, 1, .rc, 0x0, 0xffffffff, 0x0, 0⟩,
  ⟨0xc00100, 0x4, 8, 0, 1, .ro, 0x0, 0xfffffff, 0x0, 0⟩,
  ⟨0xc40000, 0x0, 1, 0, 1, .ro, 0x0, 0x77f, 0x0, 0⟩,
  ⟨0xc40004, 0x0, 1, 0, 1, .ro, 0x0, 0xffffffff, 0x0, 0⟩,
  ⟨0xc40008, 0x0, 1, 0, 1, .rc, 0x0, 0xffffffff, 0x0, 0⟩,
  ⟨0xc4000c, 0x0, 1, 0, 1, .ro, 0x0, 0xffff, 0x0, 0⟩,
  ⟨0xc80000, 0x0, 1, 0, 1, .rw, 0x1, 0x1, 0x1, 37⟩,
  ⟨0xc80004, 0x0, 1, 0, 1, .ro, 0x0, 0xff0007, 0x0, 0⟩,
  ⟨0xc80008, 0x0, 1, 0, 1, .rw, 0x69005a00, 0xffffffff, 0xffffffff, 37⟩,
  ⟨0xc8000c, 0x0, 1, 0, 1, .rw, 0x300, 0xffff, 0xffff, 37⟩,
  ⟨0xc80010, 0x0, 1, 0, 1, .rw, 0x9c4, 0xffff, 0xffff, 37⟩,
  ⟨0xc80100, 0x4, 28, 0, 1, .ro, 0x0, 0xffffffff, 0x0, 0⟩,
  ⟨0xc80200, 0x4, 10, 0, 1, .ro, 0x0, 0xffffffff, 0x0, 0⟩,
  ⟨0xd00000, 0x0, 1, 0, 1, .rw, 0x4000407, 0xffffff07, 0xffffff07, 37⟩,
  ⟨0xd00004, 0x0, 1, 0, 1, .ro, 0x0, 0xff, 0x0, 0⟩,
  ⟨0xd00008, 0x0, 1, 0, 1, .wo, 0x0, 0x3, 0x3, 63⟩,
  ⟨0xd0000c, 0x0, 1, 0, 1, .ro, 0x0, 0xffffffff, 0x0, 0⟩,
  ⟨0xd00010, 0x0, 1, 0, 1, .ro, 0x0, 0xffffffff, 0x0, 0⟩,
  ⟨0xd00014, 0x0, 1, 0, 1, .ro, 0x0, 0xffffffff, 0x0, 0⟩,
  ⟨0xd00018, 0x0, 1, 0, 1, .ro, 0x0, 0xffffffff, 0x0, 0⟩,
  ⟨0xd0001c, 0x0, 1, 0, 1, .ro, 0x0, 0xffffffff, 0x0, 0⟩,
  ⟨0xd00020, 0x0, 1, 0, 1, .ro, 0x0, 0xffffffff, 0x0, 0⟩,
  ⟨0xd00024, 0x0, 1, 0, 1, .ro, 0x0, 0xffffffff, 0x0, 0⟩,
  ⟨0xd00028, 0x0, 1, 0, 1, .ro, 0x0, 0xffffffff, 0x0, 0⟩,
  ⟨0xd0002c, 0x0, 1, 0, 1, .rc, 0x0, 0xffffffff, 0x0, 0⟩,
  ⟨0xd00030, 0x0, 1, 0, 1, .rc, 0x0, 0xffffffff, 0x0, 0⟩]

/-- Register map, part 12 (R10). -/
def regRows12 : List RegRow := [
  ⟨0xd00034, 0x0, 1, 0, 1, .ro, 0x0, 0x7ff00ff, 0x0, 0⟩,
  ⟨0xd00038, 0x0, 1, 0, 1, .ro, 0x0, 0xff3f, 0x0, 0⟩,
  ⟨0xd0003c, 0x0, 1, 0, 1, .ro, 0x0, 0xffffffff, 0x0, 0⟩,
  ⟨0xd00040, 0x0, 1, 0, 1, .rw, 0xa0186a0, 0xf01ffff, 0xf01ffff, 37⟩,
  ⟨0xd00044, 0x0, 1, 0, 1, .rw, 0x1e, 0xff, 0xff, 37⟩,
  ⟨0xd00048, 0x0, 1, 0, 1, .ro, 0x0, 0x7ff, 0x0, 0⟩,
  ⟨0xd0004c, 0x0, 1, 0, 1, .rw, 0x0, 0x7, 0x7, 63⟩,
  ⟨0xd00050, 0x0, 1, 0, 1, .rw, 0x0, 0xffffffff, 0xffffffff, 63⟩,
  ⟨0xd00054, 0x0, 1, 0, 1, .rw, 0x0, 0xffff, 0xffff, 63⟩,
  ⟨0xd00058, 0x0, 1, 0, 1, .ro, 0x0, 0xf, 0x0, 0⟩,
  ⟨0xd00100, 0x4, 64, 0, 1, .ro, 0x0, 0xffffffff, 0x0, 0⟩,
  ⟨0xd00200, 0x4, 16, 0, 1, .rw, 0x0, 0xffffffff, 0xffffffff, 37⟩,
  ⟨0xd00400, 0x80, 8, 4, 24, .rw, 0x0, 0x80ffffff, 0x80ffffff, 37⟩,
  ⟨0xd00800, 0x4, 8, 0, 1, .ro, 0x0, 0xffffffff, 0x0, 0⟩,
  ⟨0xd00840, 0x4, 8, 0, 1, .ro, 0x0, 0xffffffff, 0x0, 0⟩,
  ⟨0xd01000, 0x4, 291, 0, 1, .ro, 0x0, 0xffffffff, 0x0, 0⟩,
  ⟨0x0, 0x0, 1, 0, 1, .ro, 0x15120, 0xffffff, 0x0, 0⟩,
  ⟨0x4, 0x0, 1, 0, 1, .ro, 0x0, 0x71f, 0x0, 0⟩,
  ⟨0x8, 0x0, 1, 0, 1, .rw, 0x1, 0x1, 0x1, 37⟩,
  ⟨0xc, 0x0, 1, 0, 1, .wo, 0x0, 0x7, 0x7, 37⟩,
  ⟨0x10, 0x0, 1, 0, 1, .ro, 0x0, 0x3, 0x0, 0⟩,
  ⟨0x14, 0x0, 1, 0, 1, .ro, 0x1, 0x1ff, 0x0, 0⟩,
  ⟨0x18, 0x0, 1, 0, 1, .ro, 0x0, 0x3ffff, 0x0, 0⟩,
  ⟨0x20, 0x4, 8, 0, 1, .ro, 0x0, 0xffffffff, 0x0, 0⟩,
  ⟨0x40, 0x0, 1, 0, 1, .ro, 0x0, 0x3f03, 0x0, 0⟩,
  ⟨0x44, 0x0, 1, 0, 1, .ro, 0x0, 0xffffffff, 0x0, 0⟩,
  ⟨0x48, 0x0, 1, 0, 1, .ro, 0x0, 0x3f, 0x0, 0⟩,
  ⟨0x4c, 0x0, 1, 0, 1, .rc, 0x0, 0xffffffff, 0x0, 0⟩,
  ⟨0x50, 0x0, 1, 0, 1, .rw, 0x1a801900, 0xffffffff, 0xffffffff, 37⟩,
  ⟨0x54, 0x0, 1, 0, 1, .rw, 0x1880, 0xffff, 0xffff, 37⟩,
  ⟨0x58, 0x0, 1, 0, 1, .rw, 0x0, 0xffffffff, 0xffffffff, 37⟩,
  ⟨0x5c, 0x0, 1, 0, 1, .rw, 0x0, 0xffffffff, 0xffffffff, 37⟩,
  ⟨0x60, 0x0, 1, 0, 1, .ro, 0x0, 0xffff003f, 0x0, 0⟩,
  ⟨0x64, 0x0, 1, 0, 1, .ro, 0x0, 0x3ffffff, 0x0, 0⟩,
  ⟨0x68, 0x0, 1, 0, 1, .rc, 0x0, 0xffffffff, 0x0, 0⟩,
  ⟨0x6c, 0x4, 3, 0, 1, .ro, 0x0, 0xffffffff, 0x0, 0⟩]

/-- The whole register map of BAR0. -/
def regRows : List RegRow :=
  regRows0 ++ regRows1 ++ regRows2 ++ regRows3 ++ regRows4 ++ regRows5 ++ regRows6 ++ regRows7 ++ regRows8 ++ regRows9 ++ regRows10 ++ regRows11 ++ regRows12

/-- An offset of set B's window stands for the same offset of set A's in the maps (Table 9.9). -/
def Reg.canonical (off : Nat) : Nat :=
  if 0xE10000 ≤ off ∧ off < 0xE13000 then off - 0x10000 else off

/-- Does a line of a register map hold the offset? -/
def RegRow.holds (r : RegRow) (off : Nat) : Bool :=
  if off < r.base then false
  else
    let d := off - r.base
    if r.step = 0 then d = 0
    else
      let i := d / r.step
      let e := d % r.step
      decide (i < r.count) &&
        (if r.count2 ≤ 1 then decide (e = 0) else decide (e % r.step2 = 0) && decide (e / r.step2 < r.count2))

/-- The line of the register maps that defines a word-aligned offset, if one does. -/
def Reg.row? (off : Nat) : Option RegRow :=
  if off % 4 = 0 then regRows.find? (fun r => r.holds (Reg.canonical off)) else none

/-- The default regions of Table 10.3 as (first page, last page, type); pages are 64 KiB. -/
def defaultRegions : List (Nat × Nat × Nat) :=
  [(0x0, 0xbffff, 1), (0xc0000, 0xe7fff, 2), (0xe8000, 0x127fff, 3), (0x128000, 0x137fff, 4), (0x138000, 0x13bfff, 5), (0x13c000, 0x147fff, 6), (0x148000, 0x14bfff, 7), (0x14c000, 0x15bfff, 8), (0x15c000, 0x17ffff, 9)]

/-- The default snapshot list of a trigger code (Table 13.3): 0 to 7, or 15 for none. -/
def defaultList (code : Nat) : Nat :=
  if code < 16 then 0 else if code < 34 then 1 else if code < 44 then 2 else if code < 50 then 3
  else if code = 58 then 15 else if code < 64 then 0
  else match code with
    | 0x40 => 4 | 0x41 => 0 | 0x42 => 1 | 0x43 => 4 | 0x44 => 5 | 0x45 => 0 | 0x46 => 6 | 0x47 => 0 | _ => 15

/-- The default contents of the snapshot lists (R373, the list after Table 13.3). -/
def defaultListOffsets (m : Nat) : List Nat :=
  match m with
  | 0 => [Reg.GLB_MODE, Reg.HST_STATUS, Reg.FIG_STATUS, Reg.WVR_STATUS, Reg.COR_STATUS, Reg.STG_STATUS, Reg.OSR_STATUS,
      Reg.BMF_STATUS, Reg.TRK_STATUS, Reg.LNK_STATUS, Reg.MEM_STATUS, Reg.ECC_STATUS, Reg.NET_STATUS, Reg.PTP_STATUS,
      Reg.PWR_STATUS, Reg.CLK_STATUS, Reg.THM_STATUS, Reg.REC_STATUS, Reg.SET_STATUS]
  | 1 => [Reg.FIG_ERRLOG_0 0, Reg.FIG_ERRLOG_0 1, Reg.FIG_ERRLOG_0 2, Reg.FIG_ERRLOG_0 3, Reg.WVR_MM_LOG_0 0,
      Reg.WVR_MM_LOG_0 1, Reg.WVR_MM_LOG_0 2, Reg.COR_ERR_LOG_0 0, Reg.COR_ERR_LOG_0 1, Reg.COR_ERR_LOG_0 2,
      Reg.STG_ERR_LOG_0 0, Reg.STG_ERR_LOG_0 1, Reg.STG_ERR_LOG_0 2, Reg.BMF_ERR_LOG_0 0, Reg.BMF_ERR_LOG_0 1,
      Reg.BMF_ERR_LOG_0 2]
  | 2 => [Reg.TRK_EVT_LOG_0 0, Reg.TRK_EVT_LOG_0 1, Reg.TRK_EVT_LOG_0 2, Reg.LNK_ERR_LOG_0 0, Reg.LNK_ERR_LOG_0 1,
      Reg.LNK_ERR_LOG_0 2, Reg.LNK_STATUS, Reg.TRK_STRIPE_TICK]
  | 3 => [Reg.ECC_LOG_0 0, Reg.ECC_LOG_0 1, Reg.ECC_LOG_0 2, Reg.ECC_LOG_0 3, Reg.MEM_STATUS, Reg.MEM_STACK_0 0,
      Reg.MEM_STACK_0 1, Reg.MEM_STACK_0 2, Reg.MEM_STACK_0 3]
  | 4 => [Reg.PWR_FAULT_LOG_0 0, Reg.PWR_FAULT_LOG_0 1, Reg.PWR_FAULT_LOG_0 2, Reg.PWR_VIN, Reg.PWR_POWER, Reg.THM_STATUS]
  | 5 => (List.range 10).map Reg.THM_AGE_d
  | _ => []

/-- Reset values that depend on the place in a table: MEM_REGION (Table 10.3), REC_MAP and REC_LIST (Table 13.3), RAMP
(Table 4.6), the short-range kernel's centre (Table 4.6) and the identity recipe (R171). -/
def Reg.special? (off : Nat) : Option Nat :=
  if 0x900040 ≤ off ∧ off < 0x9000C0 then
    let n := (off - 0x900040) / 8
    match defaultRegions[n]? with
    | some (a, b, t) => some (if off % 8 = 0 then a + t * 0x10000000 else b)
    | none => some 0
  else if 0xD00200 ≤ off ∧ off < 0xD00240 then
    let j := (off - 0xD00200) / 4
    some ((List.range 8).foldl (fun acc c => acc + defaultList (8 * j + c) * 16 ^ c) 0)
  else if 0xD00400 ≤ off ∧ off < 0xD00800 then
    match (defaultListOffsets ((off - 0xD00400) / 0x80))[(off - 0xD00400) % 0x80 / 4]? with
    | some o => some (o + 0x80000000)
    | none => some 0
  else if 0xE00800 ≤ off ∧ off < 0xE00C00 then some (256 * ((off - 0xE00800) / 4) + 128)
  else if off = 0xE00450 then some 0x4000
  else if 0xE01100 ≤ off ∧ off < 0xE01500 ∧ (off % 0x100) / 4 < 32 then
    let m := (off % 0x100) / 4
    some (2048 * m + (2048 * m + 1024) * 0x10000)
  else none

/-- The cold-reset value of the word at a BAR0 offset; zero where the offset is undefined (R393). -/
def Reg.resetWord (off : Nat) : BitVec 32 :=
  match Reg.special? (Reg.canonical off) with
  | some v => BitVec.ofNat 32 v
  | none =>
    match Reg.row? off with
    | some r => BitVec.ofNat 32 r.reset
    | none => 0

end Sys2Proof.Machine
end

