-- ==== Sys2Proof/Machine/Track.lean ====
section
/-! DEFINITION. The arithmetic of stage tracking: position words, interpolation, run position, tick instants, correction
word, phase and TICK taps (R186 to R200). Instants are in CK_TRK clocks or in 1/64 clock (1,125 tu); positions in
2^-32 pixel. -/

namespace Sys2Proof.Machine

/-- One CK_TRK clock in tu. -/
def clkTu : Nat := 72000
/-- 1/64 CK_TRK clock in tu (R191). -/
def subTu : Nat := 1125

/-- An accepted edge (dir +1 or -1) or a preset (dir 0) of an axis: its clock and the count it left. -/
structure EdgeRec where
  clk : Nat
  dir : Int
  count : Int
deriving DecidableEq, Repr

/-- An encoder axis: count, anchoring, input levels and what it saw last, newest first (R184, R185, R189). -/
structure Axis where
  count : Int := 0
  anchored : Bool := false
  levelA : Bool := false
  levelB : Bool := false
  levelI : Bool := false
  idxPreset : Bool := false
  recs : List EdgeRec := []
deriving DecidableEq, Repr

/-- The ×4 decoder (R184): A leads B going forward. `none`: both changed. -/
def quadStep (a b a' b' : Bool) : Option Int :=
  if a ≠ a' ∧ b ≠ b' then none
  else if a = a' ∧ b = b' then some 0
  else if a ≠ a' then (if a' ≠ b then some 1 else some (-1))
  else (if b' = a then some 1 else some (-1))

/-- Records kept: the last 65 and those of the last 65,535 ns, the longest PW_LAT (R187, R189). -/
def pruneRecs (now : Nat) (rs : List EdgeRec) : List EdgeRec :=
  rs.take 65 ++ (rs.drop 65).filter fun r => decide (now ≤ r.clk + 52429)

/-- The count of an axis at a clock. -/
def Axis.countAt (x : Axis) (c : Nat) : Int :=
  match x.recs.find? fun r => decide (r.clk ≤ c) with
  | some r => r.count
  | none => match x.recs.getLast? with
    | some r => r.count - r.dir
    | none => x.count

/-- Interpolation facts of R189 at a clock: direction, t_e, t_eN; `none` when interpolation is off. -/
def Axis.interp (x : Axis) (vwin imax c : Nat) : Option (Int × Nat × Nat) :=
  let n := 2 ^ min vwin 6
  let es := (x.recs.filter fun r => decide (r.clk ≤ c ∧ r.dir ≠ 0)).take (n + 1)
  match es.head?, es.getLast? with
  | some e, some f =>
    if es.length = n + 1 ∧ (es.all fun r => r.dir = e.dir) ∧ e.clk - f.clk ≤ n * (imax * 256) ∧ imax ≠ 0 then
      some (e.dir, e.clk, f.clk)
    else none
  | _, _ => none

/-- E × 65,536 at a clock (R189); `on` is false while the depth of R194 is above 0. -/
def Axis.extended (x : Axis) (vwin imax : Nat) (on : Bool) (c : Nat) : Int :=
  let base := x.countAt c * 65536
  if on then
    match x.interp vwin imax c with
    | some (dir, te, ten) => base + dir * (min (65536 * 2 ^ min vwin 6 * (c - te) / (te - ten)) 65535 : Nat)
    | none => base
  else base

/-- ±1 of a sign bit. -/
def signOf (neg : Bool) : Int := if neg then -1 else 1

/-- σ_raw or ξ_raw in 2^-32 pixel, floored (R188). -/
def rawPos (neg : Bool) (e65536 : Int) (ratio : Nat) : Int := floorDiv (signOf neg * e65536 * (ratio : Int)) 65536

/-- A Q20.12 page offset in 2^-32 pixel. -/
def offQ32 (w : Nat) : Int := signedOf 32 w * 2 ^ 20

/-- σ_start in pixels (R190). -/
def sigmaStart (down : Bool) (s0 len wStart : Nat) : Int :=
  if down then (s0 : Int) + len - wStart + 65535 else (s0 : Int) + wStart - 130944

/-- u in 2^-32 pixel (R190). -/
def runPos (down : Bool) (sigma : Int) (start : Int) : Int := signOf down * (sigma - start * 2 ^ 32)

/-- t_k in 1/64 clock from u at clock c - 1 and at clock c, `prev` the tick before (R191). -/
def tickInstant (c k : Nat) (uPrev uNow : Int) (prev : Option Nat) : Nat :=
  let kk : Int := (k : Int) * 2 ^ 32
  let cross := if uPrev < kk then 64 * (c - 1) + (floorDiv (64 * (kk - uPrev)) (uNow - uPrev)).toNat else 64 * (c - 1)
  match prev with
  | some p => max cross (p + 64 * 64)
  | none => cross

/-- CXW of R199 before it is held to ±2,000: δ in 2^-32 pixel; `vel` = (signed RATIO × N, t_e - t_eN); Δ in 1/64 clock. -/
def cxwRaw (delta : Int) (vel : Option (Int × Nat)) (dt64 : Nat) : Int :=
  match vel with
  | none => floorDiv (-200 * delta + 2 ^ 32) (2 ^ 33)
  | some (rn, t) => floorDiv (-200 * (delta * 64 * t + rn * dt64) + 2 ^ 38 * t) (2 ^ 39 * t)

/-- Δ of R199 in 1/64 clock. -/
def cxDelta (dt64 lead hmax : Nat) : Nat := min (2 * dt64 + 64 * lead) (64 * hmax)

/-- PHASE of R200 from u and k; negative differences are the caller's. -/
def phaseOf (u : Int) (k : Nat) : Int := min (floorDiv ((u - (k : Int) * 2 ^ 32) * 4096) (2 ^ 32)) 4095

/-- The trim of a TICK output (R198). -/
def tickTrim (lo hi tLo tHi td : Int) : Int :=
  let t := clampInt tLo tHi td
  lo + floorDiv (2 * (hi - lo) * (t - tLo) + (tHi - tLo)) (2 * (tHi - tLo))

/-- taps_q of R197. -/
def tickTaps (base : Nat) (trim : Int) : Nat := (clampInt 0 4095 ((base : Int) + trim)).toNat

/-- One tap towards the target (R198). -/
def tapStep (cur target : Nat) : Nat := if cur < target then cur + 1 else if target < cur then cur - 1 else cur

/-- CRC-8 of a position word's 40 POS bits, most significant first (Table 7.1). -/
def crc8 (bits : List Bool) : Nat :=
  bits.foldl (fun c b =>
    let top := (c.testBit 7) != b
    let s := c * 2 % 256
    if top then s ^^^ 7 else s) 0

/-- The number that bits spell, most significant first. -/
def msbNat (bits : List Bool) : Nat := bits.foldl (fun a b => 2 * a + b2n b) 0

/-- POS of a 50-bit position word whose start, stop and CRC are right (R186). -/
def posWord (bits : List Bool) : Option Nat :=
  if bits.length = 50 ∧ bits[0]? = some false ∧ bits[49]? = some true ∧
      msbNat ((bits.drop 41).take 8) = crc8 ((bits.drop 1).take 40) then some (msbNat ((bits.drop 1).take 40)) else none

/-- |ψ - σ_raw| > PW_TOL / 1,280 (R187): `d` is SGN_W × (POS - PW_ZERO). -/
def pwMismatch (d sigmaRaw : Int) (tol : Nat) : Bool :=
  decide ((tol : Int) * 2 ^ 32 < ((d * 2 ^ 32 - 1280 * sigmaRaw).natAbs : Int))

/-- The anchored count of R187. -/
def pwAnchor (neg : Bool) (d : Int) (ratio : Nat) : Int :=
  signOf neg * floorDiv (2 * d * 2 ^ 32 + 1280 * (ratio : Int)) (2560 * (ratio : Int))

/-- A RATIO lies in the range of R188. -/
def ratioOk (r : Nat) : Bool := decide (0x10000000 ≤ r ∧ r ≤ 0x1000000000)

/-- The tracking page checks of R207: every reserved word is zero. -/
def trackPageOk (pg : Nat → Nat) : Bool := (List.range 0x3FC).all fun i => pg (0x10 + 4 * i) == 0

end Sys2Proof.Machine
end

