-- ==== Sys2Proof/Machine/State.lean ====
section
/-! DEFINITION. The state of the block: its registers in one sparse store and, block by block, what the registers only show
in part. Every structure is plain data; instants are in tu (57,600 tu = 1 ns, log entry 1). The spec's own name and rule
stand at each field. -/

namespace Sys2Proof.Machine

/-- Why the machine stops with a fault. -/
inductive Fault where
  /-- VIN or VAUX outside the absolute ratings of 15_package_signals.md (R420): raised by COLD_START and VAUX_RETURN. The
  spec says the part may be damaged and gives no behaviour. Safe. -/
  | beyondRatings
deriving DecidableEq, Repr

/-- Why a command is refused. -/
inductive Refusal where
  /-- A command that has no meaning yet: raised by `exec` alone. Safe. -/
  | notModelled (mnemonic : String)
deriving DecidableEq, Repr

/-- The operating modes (Table 0.3; codes of Table 9.4 in this order). -/
inductive Mode where
  | dormant | upsett | ready | expose | dryrun | service
deriving DecidableEq, Repr

/-- The code of a mode (Table 9.4). -/
def Mode.code : Mode → Nat
  | .dormant => 0 | .upsett => 1 | .ready => 2 | .expose => 3 | .dryrun => 4 | .service => 5

/-- The mode a code names. -/
def Mode.ofCode : Nat → Option Mode
  | 0 => some .dormant | 1 => some .upsett | 2 => some .ready | 3 => some .expose | 4 => some .dryrun
  | 5 => some .service | _ => none

/-! Host interface (09_host_interface.md). -/

/-- How the data of a descriptor moved, until its completion is written (R277). -/
structure Moved where
  status : Nat
  detail : Nat
  result : Nat
  bytes : Nat := 0
  toHost : Bool := false
  toLocal : Bool := false
deriving DecidableEq, Repr

/-- A ring entry in progress (R257, R260, R271). `held` is its completion (status, detail, result) while the link takes no
request (R252). -/
structure CurEntry where
  bytes : List Byte
  order : Nat
  waiting : Bool := false
  moved : Option Moved := none
  held : Option (Nat × Nat × Nat) := none
deriving DecidableEq, Repr

/-- A ring (R253 to R259). The phase is true for 1. -/
structure Ring where
  headSlot : Nat := 0
  headPhase : Bool := true
  tailSlot : Nat := 0
  tailPhase : Bool := true
  enabled : Bool := false
  halted : Bool := false
  cfgErr : Bool := false
  reason : Nat := 0
  tries : Nat := 0
  resetDue : Bool := false
  cur : Option CurEntry := none
deriving DecidableEq, Repr

/-- What a command that has started waits for (R267, R268, R275). -/
inductive WaitFor where
  /-- SYNC BARRIER: for each ring the entries still to complete, and the rings named. -/
  | barrier (left : List (Nat × Nat)) (named : List Nat)
  /-- SYNC RUN_END: the serial of the run, or the next run bound. -/
  | runEnd (serial : Option Nat)
  /-- ABORT of a run whose drain is still going on. -/
  | abort (serial : Nat)
  /-- LOAD_JOB_KEY behind H2F descriptors in flight, with the key block it fetched. -/
  | loadKey (blk : HostRead)
  /-- TRAIN of the Rim link in its identity step. -/
  | identity
deriving DecidableEq, Repr

/-- The host port and its rings. `mem` holds what the module wrote to host memory, sparse, unlisted bytes 0. -/
structure Hst where
  rings : List (Nat × Ring) := []
  lastChan : List Nat := List.replicate 8 15
  nextOrder : Nat := 0
  waits : List (Nat × WaitFor) := []
  width : Nat := 16
  rate : Nat := 5
  bme : Bool := false
  msixEnable : Bool := false
  funcMask : Bool := false
  msix : List (Nat × Word) := []
  owed : BitVec 64 := 0
  lastMsg : Option Nat := none
  mem : List Host.Cell := []
  poisoned : List Nat := []
deriving DecidableEq, Repr

/-- The configuration sets' roles and marks (R279 to R283). `marks`: set (true for B), word number, and which of its two
registers were written since. -/
structure SetMark where
  setB : Bool
  word : Nat
  lo : Bool
  hi : Bool
deriving DecidableEq, Repr

/-- The roles of the two sets. -/
structure Sets where
  active : Bool := false
  sealed : Bool := false
  swappedAt : Option Nat := none
  marks : List SetMark := []
deriving DecidableEq, Repr

/-! Start-up (14_startup_faults.md). -/

/-- A firmware image on the NOR die as far as the rules look at it (R396). -/
structure FwImage where
  magicOk : Bool
  version : Nat
  rollback : Nat
  length : Nat
  keyOk : Bool
  sigOk : Bool
deriving DecidableEq, Repr

/-- Modes, resets, straps, fuses and firmware. `resetNLow`: RESET_N is low and the module stays in reset; `waitVaux`: a cold
start waits for VAUX (R418); `brownOff`: a lasting brown-out removed the rails (R364); `autoDue`: Upsett starts by itself (R399). -/
structure Glb where
  mode : Mode := .dormant
  resetNLow : Bool := false
  waitVaux : Bool := false
  brownOff : Bool := false
  autoDue : Bool := false
  strapAuto : Bool := false
  strapImg : Bool := false
  kwk : List Byte := List.replicate 32 0
  kwkId : Dword := 0
  fwMin : Nat := 0
  fwA : FwImage
  fwB : FwImage
  firstUpsett : Bool := true
  planAt : Option Nat := none
  plateWarn : Bool := false
deriving DecidableEq, Repr

/-! Runs, tracking and beam feed (06_beam_feed.md, 07_stage_tracking.md). -/

/-- What happens at most once in a run. -/
inductive Once where
  | hole | short | overspeed | lost | loadLate | deadline | staleLog | ledger | tablePoison | tableInvalid | priorPoison
  | late
deriving DecidableEq, Repr

/-- A tick issued whose frame has not left: its stripe tick, stage edge in 1/64 clock, overspeed mark and CXW. -/
structure TickRec where
  k : Nat
  at64 : Nat
  ovs : Bool
  cxw : Nat
deriving DecidableEq, Repr

/-- The bound run (R190, R191, R266, R405). `issued` is HWM + 1 and `hwmAt` the stage edge of that tick in 1/64 clock;
`launched` counts the frames sent and `ticks` lists those that wait; `lastFrame` is the last frame that is sent; `trunc` is
the decided truncation: its t and source; `below` says that u has been below 0 since the arm. -/
structure Run where
  stripe : Nat
  kind : Nat
  down : Bool
  s0 : Nat
  len : Nat
  wStart : Nat
  serial : Nat
  slot : Nat
  depth : Nat
  predSlot : Nat
  predSerial : Nat
  dry : Bool
  issued : Nat := 0
  launched : Nat := 0
  lastFrame : Nat
  noTicks : Bool := false
  trunc : Option (Int × Nat) := none
  endBlock : Bool := false
  below : Bool := false
  waitStart : Bool := false
  yoff : Word := 0
  xoff : Word := 0
  ticks : List TickRec := []
  ovsRun : Nat := 0
  once : List Once := []
  hwmAt : Nat := 0
  lastDrainAt : Option Nat := none
  shortPixels : Nat := 0
  holeShots : Nat := 0
  entries : List HoleEntry := []
  bank : Bool := false
deriving DecidableEq, Repr

/-- The end of the last run (R268): serial, END code, ledger slot. -/
structure RunEnded where
  serial : Nat
  ending : Nat
  slot : Nat
deriving DecidableEq, Repr

/-- The tracking loop beside its registers. `fmax` and `depth` are those of R194; `last64` is the instant of the last free-running
tick; `taps` are in force and `target` is what they move to, `width` and `enables` those in force (R197, R198); `ticked` says
that a tick came since the last update; `simNext` and `simFree` are the instants of the next simulated tick, armed and
free-running, in 1/64 clock; `pulses` the TICK pulses of the last tick: output, rise and fall in tu. -/
structure Trk where
  s : Axis := {}
  c : Axis := {}
  fmax : Int := 0
  depth : Nat := 0
  last64 : Option Nat := none
  taps : List Nat := [0, 0, 0, 0]
  target : List Nat := [0, 0, 0, 0]
  width : Nat := 24
  enables : Nat := 15
  ticked : Bool := false
  simNext : Option Nat := none
  simFree : Option Nat := none
  anchorPw : Bool := false
  pwMiss : Nat := 0
  pulses : List (Nat × Nat × Nat) := []
deriving DecidableEq, Repr

/-- The content of a range of DRAM as it stood: fills under the range, its listed bytes and its marked words. -/
structure MemCopy where
  base : Nat := 0
  size : Nat := 0
  fills : List (Nat × Nat × Bool) := []
  cells : List Host.Cell := []
  marks : List Nat := []
deriving DecidableEq, Repr

/-- An earlier run of the chain (R179): its descriptor, its slot's address, and its dead-map and YTRIM copies. -/
structure Prior where
  desc : LedgerDesc
  base : Nat
  copies : MemCopy
deriving DecidableEq, Repr

/-- A mark of the hole map: rows and ticks, first and last (R160). -/
structure HoleMark where
  row0 : Nat
  row1 : Nat
  k0 : Nat
  k1 : Nat
deriving DecidableEq, Repr

/-- Short counts of a row in a frame (R163): frame, row, beams not counted as short. -/
structure RowShort where
  k : Nat
  row : Nat
  count : Nat
deriving DecidableEq, Repr

/-- The beam feed beside its registers. `store` is the beam store (the bank as tick 0 copied it), `dead` the beams dead in the
run, `page` the beam-feed page read at tick 0, `table` the temperatures of the working table in use by quadrant; `holes` the
hole map; `heat` the thermal cells by 82 * row + column; `turn` the next ledger slot and `serial` the last run serial;
`chain` the earlier runs, oldest first; `frame` the levels above 0 of frame `frameK`, which is assembled and waits. -/
structure Bmf where
  store : MemCopy := {}
  loading : Bool := false
  dead : List Nat := []
  page : List (Nat × Word) := []
  table : Option (List Int) := none
  holes : List HoleMark := []
  heat : List (Nat × Nat) := []
  turn : Nat := 0
  serial : Nat := 0
  chain : List Prior := []
  shorts : List RowShort := []
  frame : List (Nat × Nat) := []
  frameK : Option Nat := none
deriving DecidableEq, Repr

/-! The Rim link (08_rim_link.md). -/

/-- Lane states (Table 8.12). -/
inductive LaneState where
  | off | training | active | spare | spareCal | failed | retired
deriving DecidableEq, Repr

/-- The code of a lane state. -/
def LaneState.code : LaneState → Nat
  | .off => 0 | .training => 1 | .active => 2 | .spare => 3 | .spareCal => 4 | .failed => 5 | .retired => 6

/-- A physical lane (Table 8.12, R223, R239). `hist` holds the outcomes of the last 1,024 frames, true for lost;
`lateRun` counts consecutive frames that were late, up to the one before `lateNext`;
`lastRet` is the instant of the last valid return frame. -/
structure Lane where
  state : LaneState := .off
  llane : Nat := 0
  tx : Nat := 3
  rx : Nat := 3
  pair : Nat := 0x7F
  rxInv : Bool := false
  lastFault : Nat := 0
  taps : LaneTaps := { pre := 0, main := 0, post := 0, ctle := 0, dfe := [] }
  skew : Nat := 0
  hist : List Bool := []
  lateRun : Nat := 0
  lateNext : Nat := 0
  retTimes : List Nat := []
  fresh : Bool := false
  carryFrom : Nat := 0
  swapDue : Bool := false
  relockDue : Bool := false
  lastRet : Nat := 0
deriving DecidableEq, Repr

/-- A report of a plate temperature sample (R227). -/
structure TempReport where
  sample : Nat
  llane : Nat
  vals : List Int
  at_ : Nat
deriving DecidableEq, Repr

/-- The Rim link beside its registers. `down` are the logical lanes that are DOWN,
`downHeld` those of them that R224 holds, `challenge` the number N_M of an identity step in progress with its start and its last
sending (R236, R237), `keep` the lanes' logical lanes before the training (R235), `out` the outstanding frames (logical lane,
stripe tick), `faults` the instants of the lane faults of the last 1 ms, `head` the header of the last frame sent and `levels` its levels above 0 by beam, `sentBlocks`
the control blocks of the latest event by lane, `wire` the instant at which the last frame has left the wire (R202). -/
structure Lnk where
  lanes : List Lane := List.replicate 72 {}
  down : List Nat := []
  downHeld : List Nat := []
  out : List (Nat × Nat) := []
  faults : List Nat := []
  noSpare : Bool := false
  partner : Nat := 0
  linkUp : Bool := false
  lanesOk : Bool := false
  partnerOk : Bool := false
  idLocked : Bool := false
  trainFail : Nat := 0
  challenge : Option (Nat × Nat × Nat) := none
  keep : List (Nat × Nat) := []
  temps : List TempReport := []
  accepted : List (Option (Int × Nat)) := [none, none, none, none]
  telCount : List (Nat × Nat) := []
  head : Option FrameHead := none
  levels : List (Nat × Nat) := []
  sentBlocks : List (Nat × Nat) := []
  lastEnd : Nat := 0
  idleSince : Nat := 0
  wire : Nat := 0
deriving DecidableEq, Repr

/-! Memory (10_memory_integrity.md). -/

/-- Channel states (Table 10.13). -/
inductive ChanState where
  | off | active | spare | fencing | failed | retired
deriving DecidableEq, Repr

/-- The code of a channel state. -/
def ChanState.code : ChanState → Nat
  | .off => 0 | .active => 1 | .spare => 2 | .fencing => 3 | .failed => 4 | .retired => 5

/-- A physical channel (R285, R297, R299, R300, R319). -/
structure Chan where
  state : ChanState := .off
  logical : Nat := 15
  fault : Nat := 0
  owed : Nat × Nat := (0, 0)
  pd : Bool × Bool := (false, false)
  panic : Bool := false
  eye : Nat := 0
  ueTimes : List (Nat × Nat) := []
deriving DecidableEq, Repr

/-- A planned fence copy of a stack (R320): the channel left and the spare. -/
structure FenceCopy where
  stack : Nat
  chan : Nat
  spare : Nat
  cause : Nat
deriving DecidableEq, Repr

/-- A rebuild (R321): logical channel index, spare, and the beats made valid since; without a bitmap every read of the
channel is poisoned. -/
structure Sweep where
  lch : Nat
  spare : Nat
  bitmap : Bool
  valid : List Nat
deriving DecidableEq, Repr

/-- A word under watch (R309): its address and the scrub passes left. -/
structure Watch where
  addr : Nat
  left : Nat
deriving DecidableEq, Repr

/-- The integrity log's entry (Table 10.18). -/
abbrev LogWords := List Word

/-- Local memory and its controller. `fills` are areas (base, size, true for the slath pattern) under the listed bytes;
`cells` the bytes that differ from them; `marks` the marked words (address / 8); `flips` stored words altered by the flip
mask or by errors: word number, data bits and check bits turned over. -/
structure Dram where
  fills : List (Nat × Nat × Bool) := []
  cells : List Host.Cell := []
  marks : List Nat := []
  flips : List (Nat × (Nat × Nat)) := []
  chans : List Chan := List.replicate 64 {}
  unbacked : List Nat := []
  fenced : List (Nat × Nat) := []
  order : Nat := 0
  copies : List FenceCopy := []
  sweeps : List Sweep := []
  scrub : List (Nat × Nat) := []
  passes : List (Nat × Nat) := []
  passAt : List (Nat × Nat) := []
  promoted : List Nat := []
  watch : List (Nat × List Watch) := []
  wbq : List Nat := []
  log : List LogWords := []
  ppr : Option Nat := none
  hot : Bool := false
  cfgErr : Bool := false
  initDone : Bool := false
  trained : Bool := false
  usable : Bool := false
deriving DecidableEq, Repr

/-- SRAM stores (R313): marked words, and words under watch with the scrub passes left, as (store code, word). -/
structure Sram where
  marks : List (Nat × Nat) := []
  watch : List ((Nat × Nat) × Nat) := []
deriving DecidableEq, Repr

/-! Network and time (11_time_and_interrupts.md). -/

/-- A capture or timestamp entry (R339): four words. -/
abbrev CapEntry := List Word

/-- The network port. `counts` are the messages accepted in the window, by type; `txLast` is the frame sent last and `txHeld` the
frame that waits for the link (R328); `rxWait` are frames accepted, with their timestamp areas, that wait for the fetch of a
receive entry (R330); `arrivals` are the arrival instants of the mailbox entries that the mirror has not passed (R340). -/
structure Net where
  up : Bool := false
  speed10 : Bool := false
  counts : List Nat := [0, 0, 0, 0, 0]
  errSecond : Option Nat := none
  txLast : List Byte := []
  txHeld : Option (List Byte) := none
  rxWait : List (List Byte × List Word) := []
  skipped : Nat := 0
  arrivals : List Nat := []
deriving DecidableEq, Repr

/-- The PTP clock (R333, R335), its pulses and captures. Times are in 2^-32 ns. -/
structure Ptp where
  onAt : Nat := 0
  tRef : Int := 0
  fRef : Nat := 0
  period : Nat := 10995116278
  slew : Int := 0
  locked : Bool := false
  level : Bool := false
  pulseN : Nat := 0
  caps : List (List CapEntry) := [[], []]
  lastCap : List (Option Nat) := [none, none]
deriving DecidableEq, Repr

/-! Power, clocks, sensors (12_power_clocks.md). -/

/-- A power request (R348). -/
structure PwrReq where
  target : Nat
  doms : Nat
  seq : Nat
deriving DecidableEq, Repr

/-- A transition in progress (R351): its request, the state being left, whether it is automatic. -/
structure PwrTrans where
  req : PwrReq
  fromState : Nat
  auto : Bool
deriving DecidableEq, Repr

/-- A result entry (PWR_RESULT_0, PWR_RESULT_1). -/
structure PwrResult where
  status : Nat
  target : Nat
  reached : Nat
  refuser : Nat
  superseded : Bool
  nochange : Bool
  auto : Bool
  seq : Nat
  mode : Nat
deriving DecidableEq, Repr

/-- A rail (Table 12.9). -/
structure Rail where
  mv : Nat
  working : Nat
  spares : Nat
deriving DecidableEq, Repr

/-- Power states, supplies and what VAUX holds. `state` is coded as PWR_REQ.TARGET: 0 RUN, 1 IDLE, 2 SLEEP, 3 DEEP, 4 OFF,
5 DOMAIN; `doms` the ten domain states, 0 ON, 1 RET, 2 OFF. -/
structure Pwr where
  state : Nat := 0
  doms : List Nat := List.replicate 10 0
  trans : Option PwrTrans := none
  slot : Option PwrReq := none
  results : List PwrResult := []
  since : Nat := 0
  res : List Nat := [0, 0, 0, 0, 0]
  lp : Bool := false
  brown : Bool := false
  wakeN : Bool := true
  vin : Nat := 12000
  vaux : Nat := 3300
  rails : List Rail := [⟨5000, 8, 1⟩, ⟨750, 20, 2⟩, ⟨850, 4, 1⟩, ⟨900, 4, 1⟩, ⟨1100, 3, 1⟩, ⟨400, 2, 1⟩, ⟨1800, 1, 1⟩,
    ⟨1800, 1, 1⟩]
  grace : Option Nat := none
  deepAt : Nat := 0
  tripped : Bool := false
  trippedLast : Bool := false
deriving DecidableEq, Repr

/-- The clocks (R359, R360): lock of PLL_H, F, W, M, L, T, N; the references; when CLK156 was lost. -/
structure Clk where
  lock : List Bool := List.replicate 7 true
  ref156 : Bool := true
  refclk : Bool := true
  aonLocked : Bool := true
  lostAt : Option Nat := none
deriving DecidableEq, Repr

/-- The sensors (R366, R367): the last four conversions of each, newest first. -/
structure Thm where
  conv : List (List Int) := List.replicate 28 []
  warn : Bool := false
  crit : Bool := false
  aged : List Nat := []
deriving DecidableEq, Repr

/-! Recorder and withy pool (13_recorder_lifetime.md). -/

/-- A snapshot pair of a record: offset, SILENT, value. -/
structure RecPair where
  off : Nat
  silent : Bool
  value : Word
deriving DecidableEq, Repr

/-- A record (Table 13.2) before it is laid out in bytes. -/
structure Record where
  seq : Nat
  trigger : Nat
  lifetime : Bool
  logmem : Bool := false
  priorLost : Bool := false
  aonSnap : Bool := false
  pairs : List RecPair
  opSeconds : Nat
  powerCycles : Nat
  ticks : Nat
  ptpSec : Nat
  ptpNs : Nat
  mode : Nat
  power : Nat
  stripe : Nat
  stick : Nat
  detail : Nat
deriving DecidableEq, Repr

/-- An entry of the AON shadow (R376). -/
structure ShadowEntry where
  record : Record
  committed : Bool
deriving DecidableEq, Repr

/-- Regions of the NOR die (Table 13.1). -/
inductive NorRegion where
  | firmware | config | inventory | lifetime | rolling | spare | buffer
deriving DecidableEq, Repr

/-- States of a sector (R370). -/
inductive SectorState where
  | erased | opened | full | bad
deriving DecidableEq, Repr

/-- A sector of the NOR die (R370). `used` counts its slots used; `records` the records that stand in slots. -/
structure Sector where
  region : NorRegion
  state : SectorState
  logical : Nat
  erases : Nat := 0
  progAge : Nat := 0
  copyOf : Option Nat := none
  used : Nat := 0
  records : List (Nat × Record) := []
  marginAt : Nat := 0
deriving DecidableEq, Repr

/-- A withy pool change (R389). -/
structure InvEntry where
  kind : Nat
  action : Nat
  subject : Nat
  value : Nat
  opSeconds : Nat
  seq : Nat
deriving DecidableEq, Repr

/-- The withy pool (Table 13.6): retired weavers, suspect counts of weavers (R84), retired lanes, lane swap-out counts, failed and retired channels, fence
counts, retired pages with their replacements, bad replacements, repaired rows, SRAM rows, spare phases drawn by rail,
spare sectors drawn. -/
structure Withy where
  weavers : List Nat := []
  suspects : List (Nat × Nat) := []
  lanes : List Nat := []
  swapouts : List (Nat × Nat) := []
  chanFailed : List Nat := []
  chanRetired : List Nat := []
  fences : List (Nat × Nat) := []
  pages : List (Nat × Nat) := []
  badRepl : List Nat := []
  rows : List Nat := []
  sramRows : List (Nat × Nat) := []
  phases : List (Nat × Nat) := []
  sectors : Nat := 0
deriving DecidableEq, Repr

/-- The recorder. -/
structure Rec where
  shadow : List ShadowEntry := []
  tokens : Nat := 1024
  seqNext : Nat := 0
  lost : Bool := false
  sectors : List (Nat × Sector) := []
  invPending : List InvEntry := []
  invUsed : Nat := 0
  invHalf : Bool := false
  invValid : Bool := true
  opSeconds : Nat := 0
  powerCycles : Nat := 1
  savedSeconds : Nat := 0
  savedCycles : Nat := 1
  sinceAge : Nat := 0
  sinceCheckpoint : Nat := 0
  hist : List (Nat × Nat) := []
  savedHist : List (Nat × Nat) := []
  cursor : Option (Nat × Nat) := none
  window : Option (List Byte) := none
  winSeq : Nat := 0
  notFound : Bool := false
  crcBad : Bool := false
  mounted : Bool := false
  invFault : Bool := false
  ramOnly : Bool := false
  faulted : Bool := false
  live : Withy := {}
  saved : Withy := {}
deriving DecidableEq, Repr

/-! The data path: figure stream, weavers, correction, staging (02 to 05). -/

/-- What the verify pass takes next (R35, R54). -/
inductive Expect where
  | header | classes | body | row | sync
deriving DecidableEq, Repr

/-- A STRIPE record accepted for a stripe (R42, Table 2.6). -/
structure StripeRec where
  stripe : Nat
  gen : Nat
  down : Bool
  s0 : Nat
  len : Nat
deriving DecidableEq, Repr

/-- The stripe being sent: its rows still to come in order; a stale sending is discarded with its rows (R36, R56). -/
structure Sending where
  desc : StripeRec
  rows : List Int
  stale : Bool
deriving DecidableEq, Repr

/-- The row whose bins are being verified: the bins still to come (column, BIN_LEN) and the end of the row span. -/
structure RowCtx where
  stripe : Nat
  trow : Int
  gen : Nat
  replace : Bool
  bins : List (Int × Nat)
  rowEnd : Nat
deriving DecidableEq, Repr

/-- A tile as the tile queue knows it (R48, R50, R55, R62): `len` 0 is a tile without a bin; `counted` while the tile
counts in FIG_TQ_LEVEL. -/
structure Tile where
  gen : Nat
  pos : Nat
  len : Nat
  writable : Bool
  counted : Bool
deriving DecidableEq, Repr

/-- A bin held in the figure ring (R51, R152). -/
structure HeldBin where
  tile : TileId
  gen : Nat
  pos : Nat
  len : Nat
deriving DecidableEq, Repr

/-- The figure decoder. `ranges` are the delivered byte ranges that do not yet join the delivered point (R274); `rows` the
rows verified with their generation, in order; `refetch` the rows named in FIG_REFETCH. -/
structure Fig where
  key : Option (List Byte) := none
  jobId : Nat := 0
  salt : Nat := 0
  pos : Nat := 0
  halted : Bool := false
  reason : Nat := 0
  expect : Expect := .header
  job : Option (Nat × Nat) := none
  classes : List Nat := []
  ended : Bool := false
  curStripe : Nat := 0xFFFF
  stripes : List StripeRec := []
  rows : List (Nat × Int × Nat) := []
  sending : Option Sending := none
  row : Option RowCtx := none
  tiles : List (TileId × Tile) := []
  held : List HeldBin := []
  refetch : List (Nat × Int) := []
  stalled : Bool := false
  errlog : List LogWords := []
  delivered : Nat := 0
  released : Nat := 0
  ranges : List (Nat × Nat) := []
deriving DecidableEq, Repr

/-- States of a weaver (Table 3.6). -/
inductive WeaverState where
  | spare | working | retired | test
deriving DecidableEq, Repr

/-- The code of a weaver state. -/
def WeaverState.code : WeaverState → Nat
  | .spare => 0 | .working => 1 | .retired => 2 | .test => 3

/-- What a weaver weaves: the PASS code of Table 3.6 is 1, 2, 3, 3. -/
inductive PassKind where
  | density | pixel | reweave | arbiter
deriving DecidableEq, Repr

/-- The code of a pass kind. -/
def PassKind.code : PassKind → Nat
  | .density => 1 | .pixel => 2 | .reweave => 3 | .arbiter => 3

/-- A pass in flight: the bin it decodes, the work it serves, and the sample it belongs to (R79, R87). -/
structure Pass where
  kind : PassKind
  pixel : Bool
  tile : TileId
  pos : Nat
  len : Nat
  work : Nat
  sample : Option Nat
deriving DecidableEq, Repr

/-- A sample of R87: working weaver and its signature once done, re-weaver and arbiter with theirs. -/
structure Sample where
  id : Nat
  pixel : Bool
  tile : TileId
  pos : Nat
  len : Nat
  work : Nat
  working : Nat
  doneAt : Option Nat := none
  sigW : Nat := 0
  rw : Option Nat := none
  sigR : Option Nat := none
  arb : Option Nat := none
deriving DecidableEq, Repr

/-- A weaver. -/
structure Weaver where
  st : WeaverState := .working
  pass : Option Pass := none
  suspect : Nat := 0
deriving DecidableEq, Repr

/-- The weavers: sampling register, samples, and how many samples were drawn. Weaver w is position w mod 17 of skein
w div 17; in a new module position 16 is the spare (R59). -/
structure Wvr where
  weavers : List Weaver := (List.range 136).map fun w => if w % 17 = 16 then { st := .spare } else {}
  lfsr : BitVec 32 := 1
  samples : List Sample := []
  sampleN : Nat := 0
  wtLock : Bool := false
deriving DecidableEq, Repr

/-- The output of a pixel pass: the figures it decoded, the weights it used, and the words that came out altered. -/
structure PixOut where
  figs : List Figure
  weights : List Nat
  errs : List WordFlip
deriving DecidableEq, Repr

/-- How far a pass of a tile has come; a failed pass is to be issued again (R83). -/
inductive Woven where
  | todo | flying (w : Nat) | done
deriving DecidableEq, Repr

/-- The passes of a tile in a stripe's work. `only` limits a density pass issued again to the cells that were cleared (R106,
R119); `regen` puts the pixel pass at the head (R147); `avoidD` and `avoidP` are what a density or pixel pass issued again
keeps out of: the skein n for n below 8 (R90: such a pass is always sampled), weaver n - 8 from there on (R83). -/
structure TileWork where
  dens : Woven := .todo
  pix : Woven := .todo
  out : Option PixOut := none
  only : Option (List (Int × Int)) := none
  regen : Bool := false
  avoidD : List Nat := []
  avoidP : List Nat := []
deriving DecidableEq, Repr

/-- A slice group (R125): slices corrected and slices coded, in writing order, the containers of the last slice coded, and
ΣEV of the corrected slices in the two line halves (R407). -/
structure Group where
  trow : Int
  corrected : Nat := 0
  coded : Nat := 0
  prev : List Nat := []
  regen : Bool := false
  ev : Nat × Nat := (0, 0)
deriving DecidableEq, Repr

/-- The work on one stripe (R112, R124): the rows it weaves, its set and staging base once bound, its density slot with the
cell rows that stand in it (slot row, v), and the exposure point its run ended at. -/
structure Work where
  id : Nat
  stripe : Nat
  gen : Nat
  down : Bool
  s0 : Nat
  len : Nat
  wStart : Nat
  set : Option Bool := none
  nb : Option Nat := none
  slot : Option Nat := none
  cellRows : List (Nat × Int) := []
  tiles : List ((Int × Int) × TileWork) := []
  groups : List Group := []
  lastE : Option Int := none
deriving DecidableEq, Repr

/-- A corrected slice on its way to the codec, with the count of set swaps when it was corrected (Table 5.3). -/
structure SliceOut where
  work : Nat
  w : Nat
  epoch : Nat
  containers : List Nat
deriving DecidableEq, Repr

/-- ΣEV of a corrected tile row by line half, and the slices it was taken over (R407). -/
structure RowSum where
  work : Nat
  trow : Int
  sums : Nat × Nat
  slices : Nat
deriving DecidableEq, Repr

/-- The correction block: the works, which one is the current (or the armed) stripe's and which the next stripe's, the
stripe of the most recent run bound, the job ramp, the halt of R118 (reason, slice), swaps since LOAD_JOB_KEY. -/
structure Cor where
  works : List Work := []
  workN : Nat := 0
  cur : Option Nat := none
  next : Option Nat := none
  lastBound : Option Nat := none
  ramp : Option (List Nat) := none
  halt : Option (Nat × Nat × Nat) := none
  waitBind : Bool := false
  bindActive : Bool := false
  bindFailed : Option (Nat × Bool) := none
  slices : List SliceOut := []
  epoch : Nat := 0
  evRows : List RowSum := []
deriving DecidableEq, Repr

/-- A slice held in the staging ring (R124, R134, R149). -/
structure Staged where
  work : Nat
  w : Nat
  lost : Bool := false
  expanded : Bool := false
deriving DecidableEq, Repr

/-- What the encoder waits for (R136). -/
inductive EncWait where
  | slot | chunk
deriving DecidableEq, Repr

/-- A strand in a strand window (R140, R141); none is a missing strand. -/
abbrev Strand := Option (List Nat)

/-- The staging ring, footprint ring and speed hint. `slices` maps staging indices to slices held, `chunks` overflow chunks
to their slices, `fp` footprint slots to the slices valid in them; `window` the strands of the last eight ticks by tick and
row; `released` is the staging index below which the replay window has been released; `wait` what the encoder waits for and the
slice it holds (work, writing index). -/
structure Stg where
  slices : List (Nat × Staged) := []
  chunks : List (Nat × Nat) := []
  cursor : Nat := 0
  wait : Option (EncWait × Nat × Nat) := none
  fp : List (Nat × Nat) := []
  window : List (Nat × List Strand) := []
  released : Nat := 0
  doneTimes : List Nat := []
  tickTimes : List Nat := []
  hint : Bool := false
  cfgErr : Bool := false
  sizes : List Nat := []
deriving DecidableEq, Repr

/-- The state of the block. `pending` is the queue of waiting commands, first in, first out; `time` the instant of the
latest dated event; `free` counts the free values drawn (log entry 2); `readData` is the word the latest register read
returned; `regs` the registers of BAR0, sparse, against `Reg.resetWord`. -/
structure State where
  pending : List Instr
  time : Nat
  free : Nat
  readData : Word
  regs : List (Nat × Word)
  glb : Glb
  hst : Hst
  sets : Sets
  run : Option Run
  runEnded : Option RunEnded
  fig : Fig
  wvr : Wvr
  cor : Cor
  stg : Stg
  bmf : Bmf
  trk : Trk
  lnk : Lnk
  dram : Dram
  sram : Sram
  net : Net
  ptp : Ptp
  pwr : Pwr
  clk : Clk
  thm : Thm
  rcr : Rec
deriving DecidableEq, Repr

/-- The default sectors of a new die (Table 13.1; log entry 6). -/
def Sector.fresh (n : Nat) : Sector :=
  if n < 512 then { region := .firmware, state := .opened, logical := n }
  else if n < 544 then { region := .config, state := .opened, logical := n - 512 }
  else if n < 608 then { region := .inventory, state := .opened, logical := n - 544 }
  else if n < 1120 then { region := .lifetime, state := .erased, logical := n - 608 }
  else if n < 1888 then { region := .rolling, state := .erased, logical := n - 1120 }
  else if n < 2047 then { region := .spare, state := .erased, logical := n - 1888 }
  else { region := .buffer, state := .erased, logical := 0 }

/-- The machine right after reset: the first cold start of a new module has run, the module is in DORMANT with both straps
low, every register at its cold value (R393, R395; log entries 1 to 7). -/
def State.reset : State where
  pending := []
  time := 0
  free := 0
  readData := 0
  regs := []
  glb := { fwA := { magicOk := true, version := 1, rollback := 0, length := 0x10000, keyOk := true, sigOk := true },
           fwB := { magicOk := true, version := 0, rollback := 0, length := 0x10000, keyOk := true, sigOk := true } }
  hst := {}
  sets := {}
  run := none
  runEnded := none
  fig := {}
  wvr := {}
  cor := {}
  stg := {}
  bmf := {}
  trk := {}
  lnk := {}
  dram := {}
  sram := {}
  net := {}
  ptp := {}
  pwr := {}
  clk := {}
  thm := {}
  rcr := {}

end Sys2Proof.Machine
end

