-- ==== Sys2Proof/Machine/Ops.lean ====
section
/-! DEFINITION. The named operations over the register store, free values, time and the host's memory (R8 to R13). -/

namespace Sys2Proof.Machine

/-- The word a BAR0 offset holds in the register store (R393: unlisted offsets hold their cold-reset value). -/
def State.reg (s : State) (off : Nat) : Nat := (smGet Reg.resetWord s.regs off).toNat

/-- Store a word at a BAR0 offset. -/
def State.setReg (s : State) (off v : Nat) : State :=
  { s with regs := smPut Reg.resetWord off (BitVec.ofNat 32 v) s.regs }

/-- A 64-bit quantity of two registers, least significant word first (R8). -/
def State.reg64 (s : State) (lo hi : Nat) : Nat := s.reg lo + 2 ^ 32 * s.reg hi

/-- Store a 64-bit quantity in two registers. -/
def State.setReg64 (s : State) (lo hi v : Nat) : State := (s.setReg lo v).setReg hi (v / 2 ^ 32)

/-- Add to a counter that saturates at 0xFFFF_FFFF (R11). -/
def State.bumpBy (s : State) (off n : Nat) : State :=
  if n = 0 then s else s.setReg off (min (s.reg off + n) 0xFFFFFFFF)

/-- Count one event. -/
def State.bump (s : State) (off : Nat) : State := s.bumpBy off 1

/-- One bit of a register. -/
def State.bit (s : State) (off i : Nat) : Bool := bitOf (s.reg off) i

/-- A field of a register. -/
def State.field (s : State) (off hi lo : Nat) : Nat := bitsOf (s.reg off) hi lo

/-- Store a field of a register and leave its other bits. -/
def State.setField (s : State) (off hi lo v : Nat) : State :=
  let m := 2 ^ (hi + 1 - lo)
  s.setReg off (s.reg off - s.field off hi lo * 2 ^ lo + v % m * 2 ^ lo)

/-- Store several consecutive words. -/
def State.setRegs (s : State) (off : Nat) (vs : List Nat) : State :=
  (vs.zipIdx).foldl (fun s p => s.setReg (off + 4 * p.2) p.1) s

/-- An event dated `t` has come: the instant of the latest event (log entry 1). -/
def State.at_ (s : State) (t : Nat) : State := { s with time := max s.time t }

/-- The next free value: 64 bits that nothing constrains (log entry 2). -/
def State.drawn (s : State) : Nat := (Config.freeWord s.free).toNat

/-- Pass to the next free value. -/
def State.next (s : State) : State := { s with free := s.free + 1 }

/-- Do something once in a run (R163, R182, R201, R222). -/
def State.once (s : State) (o : Once) (f : State → State) : State :=
  match s.run with
  | some r => if o ∈ r.once then s else f { s with run := some { r with once := o :: r.once } }
  | none => s

/-- Change the bound run. -/
def State.modRun (s : State) (f : Run → Run) : State := { s with run := s.run.map f }

/-- The present stripe for logs: 0xFFFF when no run is bound. -/
def State.stripeNow (s : State) : Nat := match s.run with | some r => r.stripe | none => 0xFFFF

/-- The stripe tick of the last tick issued of the bound run. -/
def State.stickNow (s : State) : Nat := match s.run with | some r => r.issued - 1 | none => 0

/-- The code of the present mode. -/
def State.modeCode (s : State) : Nat := s.glb.mode.code

/-- Microseconds in tu. -/
def usTu (n : Nat) : Nat := n * 57600000

/-- Nanoseconds in tu. -/
def nsTu (n : Nat) : Nat := n * 57600

/-- Milliseconds in tu. -/
def msTu (n : Nat) : Nat := n * 57600000000

/-- TRK_TICK_TOTAL (R191). -/
def State.tickTotal (s : State) : Nat := s.reg64 Reg.TRK_TICK_TOTAL_LO Reg.TRK_TICK_TOTAL_HI

/-! Host memory as the module writes it. -/

/-- What an unlisted byte of the host memory written by the module reads as. -/
def hostDefault (_ : Nat) : Byte := 0

/-- Write bytes to host memory, without the poisoned-data bit (R277 item 4). -/
def State.hostWrite (s : State) (addr : Nat) (bs : List Byte) : State :=
  { s with hst := { s.hst with
      mem := bs.zipIdx.foldl (fun m p => smPut hostDefault (addr + p.2) p.1 m) s.hst.mem,
      poisoned := s.hst.poisoned.filter fun a => !decide (addr ≤ a ∧ a < addr + bs.length) } }

/-! Rings. -/

/-- A ring of the host interface; network rings are numbers 192 and 193 (R253, R327). -/
def State.ring (s : State) (r : Nat) : Ring :=
  match s.hst.rings.find? (fun p => p.1 = r) with
  | some p => p.2
  | none => {}

/-- Store a ring. -/
def State.setRing (s : State) (r : Nat) (x : Ring) : State :=
  { s with hst := { s.hst with rings := smPut (fun _ => ({} : Ring)) r x s.hst.rings } }

/-- The window register of a ring at an offset of Table 9.12. -/
def ringReg (r off : Nat) : Nat := if 192 ≤ r then 0xB01000 + 0x40 * (r % 2) + off else 0x101000 + 0x40 * r + off

/-- The rings there are (R253, R327). -/
def ringOk (r : Nat) : Bool := decide (r < 130 ∨ r = 192 ∨ r = 193)

/-- SIZE of a ring (R254). -/
def State.ringSize (s : State) (r : Nat) : Nat := 2 ^ (s.reg (ringReg r 8) % 32)

/-- The position of an index (R255). -/
def ringPos (size slot : Nat) (phase : Bool) : Nat := (slot + (if phase then 0 else size)) % (2 * size)

/-- Entries a ring holds (R255). -/
def State.ringHeld (s : State) (r : Nat) : Nat :=
  let n := s.ringSize r
  let x := s.ring r
  (ringPos n x.tailSlot x.tailPhase + 2 * n - ringPos n x.headSlot x.headPhase) % (2 * n)

/-- RING_BASE of a ring. -/
def State.ringBase (s : State) (r : Nat) : Nat := s.reg64 (ringReg r 0) (ringReg r 4)

/-! Configuration sets (R266, R279, R281). -/

/-- The offset of set A (false) or set B (true). -/
def setBase (b : Bool) : Nat := if b then 0xE10000 else 0xE00000

/-- The words of a page of a set: page 0 correction, 1 beam feed, 2 tracking (Table 9.9). -/
def State.page (s : State) (b : Bool) (n : Nat) : Page := fun o => s.reg (setBase b + 0x1000 * n + o)

/-- The shadow set. -/
def State.shadow (s : State) : Bool := !s.sets.active

/-! Lists of blocks by number. -/

/-- The weaver, lane or channel of a number, or a default. -/
def getAt {α : Type} (l : List α) (i : Nat) (d : α) : α := l.getD i d

/-- The physical lane of a number. -/
def State.lane (s : State) (p : Nat) : Lane := s.lnk.lanes.getD p {}

/-- Change a physical lane. -/
def State.modLane (s : State) (p : Nat) (f : Lane → Lane) : State :=
  { s with lnk := { s.lnk with lanes := s.lnk.lanes.modify p f } }

/-- The physical lane that carries a logical lane (LNK_LMAP). -/
def State.carrier (s : State) (l : Nat) : Option Nat :=
  (s.lnk.lanes.zipIdx.find? fun x => x.1.state = .active ∧ x.1.llane = l).map (·.2)

/-- The physical DRAM channel of a number. -/
def State.chan (s : State) (p : Nat) : Chan := s.dram.chans.getD p {}

/-- Change a DRAM channel. -/
def State.modChan (s : State) (p : Nat) (f : Chan → Chan) : State :=
  { s with dram := { s.dram with chans := s.dram.chans.modify p f } }

/-- The physical channel that carries logical channel k of stack s, as the index 15 s + k (R286). -/
def State.chanOf (s : State) (lch : Nat) : Option Nat :=
  ((List.range 16).map (16 * (lch / 15) + ·)).find? fun p =>
    ((s.chan p).state = .active ∨ (s.chan p).state = .fencing) ∧ (s.chan p).logical = lch % 15

end Sys2Proof.Machine
end

