-- ==== Sys2Proof/Machine/ReadPath.lean ====
section
/-! DEFINITION. The works of the data path as the registers show them: rows, frontiers, the next stripe, exposure point and
lead, and the registers of FIG, WVR, COR and STG that are derived from them (Tables 2.12, 3.5, 4.7, 5.7). -/

namespace Sys2Proof.Machine

/-! Rows of a work (R36, R76, R124). -/

/-- The writing index of a job slice (R24, R124). -/
def Work.wOf (k : Work) (y : Nat) : Nat := if k.down then k.len - 1 - (y - k.s0) else y - k.s0

/-- The job slice of a writing index. -/
def Work.sliceOf (k : Work) (w : Nat) : Nat := if k.down then k.s0 + k.len - 1 - w else k.s0 + w

/-- The tile row of a writing index. -/
def Work.rowOf (k : Work) (w : Nat) : Int := ((k.sliceOf w / 4096 : Nat) : Int)

/-- The writing indices of a tile row, first and last, from W_START on (R125: a slice group). -/
def Work.span (k : Work) (t : Int) : Option (Nat × Nat) :=
  if t < 0 then none
  else
    let lo := max (4096 * t.toNat) k.s0
    let hi := min (4096 * t.toNat + 4095) (k.s0 + k.len - 1)
    if hi < lo then none
    else
      let a := if k.down then k.wOf hi else k.wOf lo
      let b := if k.down then k.wOf lo else k.wOf hi
      if b < k.wStart then none else some (max a k.wStart, b)

/-- The first tile row written, in writing order, and the last (R36). -/
def Work.ends (k : Work) : Int × Int := (k.rowOf k.wStart, k.rowOf (k.len - 1))

/-- The rows of a work in writing order, margin rows included (R36, R76). -/
def Work.rows (k : Work) : List Int :=
  let lo := min k.ends.1 k.ends.2 - 2
  let n := (max k.ends.1 k.ends.2 + 2 - lo + 1).toNat
  let l := (List.range n).map fun (i : Nat) => lo + (i : Int)
  if k.down then l.reverse else l

/-- The columns of a row (R36). -/
def tileCols : List Int := (List.range 20).map fun (i : Nat) => (i : Int) - 2

/-- The work of a tile. -/
def Work.tile (k : Work) (t c : Int) : TileWork :=
  match k.tiles.find? fun p => p.1 = (t, c) with
  | some p => p.2
  | none => {}

/-- Change the work of a tile. -/
def Work.modTile (k : Work) (t c : Int) (f : TileWork → TileWork) : Work :=
  { k with tiles := ((t, c), f (k.tile t c)) :: k.tiles.filter fun p => p.1 ≠ (t, c) }

/-- The slice group of a row. -/
def Work.group (k : Work) (t : Int) : Group :=
  match k.groups.find? fun g => g.trow = t with
  | some g => g
  | none => { trow := t }

/-- Change a slice group. -/
def Work.modGroup (k : Work) (t : Int) (f : Group → Group) : Work :=
  { k with groups := f (k.group t) :: k.groups.filter fun g => g.trow ≠ t }

/-- Every density pass of a row is complete. -/
def Work.densDone (k : Work) (t : Int) : Bool := tileCols.all fun c => (k.tile t c).dens = .done

/-- Every pixel pass of a written row is complete. -/
def Work.pixDone (k : Work) (t : Int) : Bool :=
  (List.range 16).all fun c => (k.tile t (c : Int)).pix = .done

/-- The place, among the rows in writing order, of the pixel frontier (03_weavers.md, "Dispatch and look-ahead"). -/
def Work.pixFront (k : Work) : Nat :=
  let rs := k.rows
  rs.findIdx fun t => (k.span t).isSome && !k.pixDone t

/-- The density frontier: the furthest row whose density passes are all complete. -/
def Work.densFront (k : Work) : Option Int := k.rows.reverse.find? fun t => k.densDone t

/-! Works of the correction block (R112). -/

/-- A work by its number. -/
def State.workAt (s : State) (id : Nat) : Option Work := s.cor.works.find? fun k => k.id = id

/-- The work of the current (or the armed) stripe. -/
def State.curWork (s : State) : Option Work := s.cor.cur.bind s.workAt

/-- The work of the next stripe. -/
def State.nextWork (s : State) : Option Work := s.cor.next.bind s.workAt

/-- Change a work. -/
def State.modWork (s : State) (id : Nat) (f : Work → Work) : State :=
  { s with cor := { s.cor with works := s.cor.works.map fun k => if k.id = id then f k else k } }

/-- The next stripe (R112): the stripe that follows, in stream order, the stripe of the most recent run bound; the first of
the stream before any run. -/
def State.nextStripe (s : State) : Option StripeRec :=
  match s.cor.lastBound with
  | none => s.fig.stripes.head?
  | some j =>
    let i := s.fig.stripes.findIdx fun r => r.stripe = j
    s.fig.stripes[i + 1]?

/-- The set a next stripe is bound to: the shadow if it is sealed, the active set otherwise (R113). -/
def State.nextSet (s : State) : Bool := if s.sets.sealed then s.shadow else s.sets.active

/-- The current work has begun: its run has issued tick 0 and has not ended. -/
def State.running (s : State) : Bool := match s.run with | some r => decide (0 < r.issued) | none => false

/-! Staging (R124, R142, R143). -/

/-- A slice is complete in the staging ring (R134). -/
def State.complete (s : State) (k : Work) (w : Nat) : Bool :=
  match k.nb with
  | some nb => s.stg.slices.any fun p => p.1 = nb + w ∧ p.2.work = k.id
  | none => false

/-- The exposure point of the run that is being written (R142, R178). -/
def State.exposure (s : State) : Option Int :=
  match s.run with
  | some r => if 0 < r.issued then some ((r.wStart : Int) + (r.issued - 1 : Nat) - 65536) else none
  | none => none

/-- Lead and whether the run is done (R142). -/
def State.leadDone (s : State) : Nat × Bool :=
  match s.curWork, s.exposure with
  | some k, some e =>
    let start := max (e + 1).toNat k.wStart
    match ((List.range (k.len - start)).map (start + ·)).find? fun w => !s.complete k w with
    | some c => (((c : Int) - e - 1).toNat, false)
    | none => (((k.len : Int) - 1 - e).toNat, true)
  | _, _ => (0, false)

/-- The lead in ticks. -/
def State.lead (s : State) : Nat := s.leadDone.1

/-- Staging slots (STG_SLOTS, "131,072 to 16,777,216"). -/
def State.stgSlots (s : State) : Nat := atLeast1 (s.reg Reg.STG_SLOTS)

/-- ALLOT in bytes (R133, Table 5.7). -/
def State.stgAllot (s : State) : Nat := 4096 * clampNat 1 16 (s.field Reg.STG_ALLOT 4 0)

/-- STG_CHUNKS. -/
def State.stgChunks (s : State) : Nat := s.reg Reg.STG_CHUNKS

/-- STG_BASE. -/
def State.stgBase (s : State) : Nat := s.reg64 Reg.STG_BASE_LO Reg.STG_BASE_HI

/-- STG_FP_BASE. -/
def State.fpBase (s : State) : Nat := s.reg64 Reg.STG_FP_BASE_LO Reg.STG_FP_BASE_HI

/-- STG_FP_SLOTS. -/
def State.fpSlots (s : State) : Nat := atLeast1 (s.reg Reg.STG_FP_SLOTS)

/-! Registers. -/

/-- A bit when a list of weavers of a skein holds no spare (Table 3.8). -/
def State.skeinNoSpare (s : State) (k : Nat) : Bool :=
  !(((s.wvr.weavers.drop (17 * k)).take 17).any fun w => w.st = .spare)

/-- Weavers in a state. -/
def State.weaversIn (s : State) (st : WeaverState) : Nat := (s.wvr.weavers.filter fun w => w.st = st).length

/-- WORKING is below MIN_WORKING (R82). -/
def State.lowWorking (s : State) : Bool := decide (s.weaversIn .working < s.field Reg.WVR_LIMITS 23 16)

/-- FIG registers (Tables 2.12, 2.14). -/
def State.figReg (s : State) (off : Nat) : Option Nat :=
  let f := s.fig
  if off = Reg.FIG_STATUS then
    some (b2n f.key.isSome + 2 * b2n (!f.classes.isEmpty) + 4 * b2n f.ended + 8 * b2n f.halted + 16 * b2n f.stalled
      + 256 * f.reason + 65536 * f.curStripe)
  else if off = Reg.FIG_KWK_ID_LO then some (s.glb.kwkId.toNat % 2 ^ 32)
  else if off = Reg.FIG_KWK_ID_HI then some (s.glb.kwkId.toNat / 2 ^ 32)
  else if off = Reg.FIG_JOB_ID_LO then some (f.jobId % 2 ^ 32)
  else if off = Reg.FIG_JOB_ID_HI then some (f.jobId / 2 ^ 32)
  else if off = Reg.FIG_SALT then some f.salt
  else if off = Reg.FIG_POS_LO then some (f.pos % 2 ^ 32)
  else if off = Reg.FIG_POS_HI then some (f.pos / 2 ^ 32)
  else if off = Reg.FIG_TQ_LEVEL then some (f.tiles.filter fun t => t.2.counted).length
  else if off = Reg.FIG_ERRLOG_COUNT then some f.errlog.length
  else if Reg.FIG_ERRLOG_0 0 ≤ off ∧ off < Reg.FIG_ERRLOG_0 4 then
    some (((f.errlog.headD []).getD ((off - Reg.FIG_ERRLOG_0 0) / 4) 0).toNat)
  else none

/-- WVR registers (Tables 3.5, 3.6, 3.8). -/
def State.wvrReg (s : State) (off : Nat) : Option Nat :=
  if off < 0x390000 then
    let w := (off - 0x300000) / 0x1000
    let v := s.wvr.weavers.getD w {}
    match off % 0x1000 with
    | 0x000 => some (v.st.code + 4 * b2n v.pass.isSome + 8 * ((v.pass.map (·.kind.code)).getD 0) + 256 * (w / 17)
        + 65536 * (w % 17))
    | 0x004 => some (match v.pass with
        | some p => p.tile.stripe % 65536 + 65536 * unsignedOf 8 p.tile.tcol
        | none => 0)
    | 0x008 => some (match v.pass with | some p => unsignedOf 24 p.tile.trow | none => 0)
    | 0x00C => some (min 255 v.suspect)
    | _ => none
  else if off = Reg.WVR_STATUS then
    some (2 * b2n s.fig.stalled + 4 * b2n s.wvr.wtLock + 8 * b2n s.lowWorking
      + (List.range 8).foldl (fun a k => a + b2n (s.skeinNoSpare k) * 2 ^ (4 + k)) 0
      + 2 ^ 12 * s.weaversIn .retired + 2 ^ 20 * s.weaversIn .spare + 2 ^ 24 * s.weaversIn .working)
  else if off = Reg.WVR_DENS_ROW then
    some (match s.curWork.orElse (fun _ => s.nextWork) with
      | some k => (k.densFront.map (unsignedOf 24)).getD 0
      | none => 0)
  else if off = Reg.WVR_PIX_ROW then
    some (match s.curWork.orElse (fun _ => s.nextWork) with
      | some k => unsignedOf 24 (k.rows.getD (min k.pixFront (k.rows.length - 3)) 0)
      | none => 0)
  else none

/-- A COR_BIND register (Table 4.10). -/
def bindWord (stripe : Option Nat) (k : Option Work) : Nat :=
  (stripe.getD 0xFFFF) + (match k with
    | some k => (match k.set with | some b => b2n b * 2 ^ 16 + 2 ^ 17 | none => 0) + k.slot.getD 0 * 2 ^ 18
    | none => 0)

/-- COR registers (Tables 4.7, 4.9, 4.10). -/
def State.corReg (s : State) (off : Nat) : Option Nat :=
  if off = Reg.COR_STATUS then
    some (2 * b2n s.cor.halt.isSome + 4 * b2n s.cor.waitBind + 8 * b2n s.cor.ramp.isSome
      + 256 * ((s.cor.halt.map (·.1)).getD 0))
  else if off = Reg.COR_BIND_0 then some (bindWord (s.curWork.map (·.stripe)) s.curWork)
  else if off = Reg.COR_BIND_1 then some (bindWord (s.nextStripe.map (·.stripe)) s.nextWork)
  else none

/-- STG and OSR registers (Tables 5.7, 5.9). -/
def State.stgReg (s : State) (off : Nat) : Option Nat :=
  if off = Reg.STG_STATUS then
    some (b2n s.stg.hint + 2 * b2n (s.stg.wait.any fun x => x.1 == .chunk) + 4 * b2n (s.stg.wait.any fun x => x.1 == .slot)
      + 8 * b2n s.stg.cfgErr + 16 * b2n s.leadDone.2
      + 32 * b2n (s.cor.works.any fun k => k.groups.any (·.regen)))
  else if off = Reg.STG_LEAD then some (min s.lead 0xFFFFFF)
  else if off = Reg.STG_REPLAY then
    some (match s.curWork, s.exposure with
      | some k, some e => min 0xFFFFFF (s.stg.slices.filter fun p =>
          decide ((p.1 : Int) ≤ (k.nb.getD 0 : Int) + e)).length
      | _, _ => min 0xFFFFFF (s.stg.slices.filter fun p => (some p.2.work ≠ s.cor.cur ∧ some p.2.work ≠ s.cor.next)).length)
  else if off = Reg.STG_FREE_SLOTS then some (s.stgSlots - s.stg.slices.length)
  else if off = Reg.STG_FREE_CHUNKS then some (s.stgChunks - s.stg.chunks.length)
  else if off = Reg.STG_RUN then
    some ((s.curWork.map (·.stripe)).getD 0xFFFF + 65536 * ((s.nextStripe.map (·.stripe)).getD 0xFFFF))
  else if off = Reg.STG_NB_LO then some (((s.curWork.bind (·.nb)).getD 0) % 2 ^ 32)
  else if off = Reg.STG_NB_HI then some (((s.curWork.bind (·.nb)).getD 0) / 2 ^ 32 % 2 ^ 16)
  else if off = Reg.OSR_STATUS then some (b2n (!s.cor.slices.isEmpty))
  else if off = Reg.OSR_RATIO then
    some (if s.stg.sizes = [] then 0 else min 65535 (s.stg.sizes.length * 131072 * 256 / atLeast1 s.stg.sizes.sum))
  else none

/-- What a register of blocks 2 to 5 shows, where it is not simply stored. -/
def State.pathReg (s : State) (off : Nat) : Option Nat :=
  match off / 0x100000 with
  | 2 => s.figReg off
  | 3 => s.wvrReg off
  | 4 => s.corReg off
  | 5 => s.stgReg off
  | _ => none

end Sys2Proof.Machine
end

