-- ==== Sys2Proof/Machine/Read.lean ====
section
/-! DEFINITION. What a register shows when it is read: the register store, or what is derived from richer state (the RO
registers of the block chapters). -/

namespace Sys2Proof.Machine

/-! The PTP clock (R333 to R335). -/

/-- F at an instant (R333). -/
def Ptp.count (p : Ptp) (t : Nat) : Nat := (t - p.onAt) / 147456

/-- S of R335 for a rate in ppm. -/
def slewStep (period ppm : Nat) : Nat := period * ppm / 1000000

/-- The part of the slew remainder absorbed in `n` clocks (R335). -/
def slewDone (r : Int) (step n : Nat) : Int :=
  if r < 0 then -(min (n * step) r.natAbs : Nat) else (min (n * step) r.natAbs : Nat)

/-- T at count f, in 2^-32 ns (R333, R335). -/
def Ptp.timeAt (p : Ptp) (step f : Nat) : Int :=
  p.tRef + ((f - p.fRef) * p.period : Nat) + slewDone p.slew step (f - p.fRef)

/-- What is left of the slew remainder at count f (R335). -/
def Ptp.left (p : Ptp) (step f : Nat) : Int := p.slew - slewDone p.slew step (f - p.fRef)

/-- S of R335 as the registers stand. -/
def State.slewStepNow (s : State) : Nat :=
  slewStep s.ptp.period (clampNat 1 500 (s.field Reg.PTP_SLEW_CFG 9 0))

/-- The PTP time at an instant, in 2^-32 ns. -/
def State.ptpTime (s : State) (t : Nat) : Int := s.ptp.timeAt s.slewStepNow (s.ptp.count t)

/-- One second in 2^-32 ns. -/
def secQ32 : Nat := 1000000000 * 2 ^ 32

/-- Words 8 to 10 of Table 11.3 for a time in 2^-32 ns: NS (with VALID), SEC_LO, SEC_HI with SUBNS; seconds modulo 2^48. -/
def stampWords (valid : Bool) (t : Int) : List Nat :=
  let u := (t % ((2 ^ 48 * secQ32 : Nat) : Int)).toNat
  let sec := u / secQ32
  let ns := u % secQ32 / 2 ^ 32
  let sub := u % 2 ^ 32 / 2 ^ 16
  [ns + b2n valid * 2 ^ 31, sec % 2 ^ 32, sec / 2 ^ 32 + sub * 2 ^ 16]

/-! Domains (R345, R357, Table 12.6). -/

/-- The power domain of a BAR0 offset: 0 AON, 1 HOST, 2 FAB, 3 WVA, 4 WVB, 5 COR, 6 MEM, 7 LNK, 8 NET, 9 MGT. -/
def domainOf (off : Nat) : Nat :=
  match off / 0x100000 with
  | 2 => 2
  | 3 => if 0x390000 ≤ off then 2 else if (off - 0x300000) / 0x1000 < 68 then 3 else 4
  | 4 => 5 | 5 => 5 | 6 => 5
  | 7 => 7 | 8 => 7
  | 9 => 6 | 10 => 6
  | 11 => 8
  | 12 => 0
  | 13 => 9
  | _ => 1

/-- A PLL is out of lock with its reference present, and not in or coming out of hold-over (R360): its domains are clock-off.
PLL order H, F, W, M, L, T, N; PLL_H runs on REFCLK, the others on CLK156. -/
def State.pllOff (s : State) (i : Nat) : Bool :=
  (if i = 0 then s.clk.refclk else s.clk.ref156 && s.clk.lostAt.isNone) && !(s.clk.lock.getD i true)

/-- The PLLs a domain runs on (Table 12.1, Table 12.8). -/
def domainPlls (d : Nat) : List Nat :=
  match d with
  | 1 => [0] | 2 => [1] | 3 => [2] | 4 => [2] | 5 => [1] | 6 => [3] | 7 => [4, 5] | 8 => [6] | 9 => [1] | _ => []

/-- The block at an offset is clock-off (R347, R360, Table 12.6). -/
def State.clockOff (s : State) (off : Nat) : Bool :=
  let d := domainOf off
  (s.pwr.state == 1 && (off / 0x100000 == 2 || d == 3 || d == 4 || d == 5)) || (domainPlls d).any s.pllOff

/-- The domain of an offset is ON. -/
def State.domOn (s : State) (d : Nat) : Bool := s.pwr.doms.getD d 0 == 0

/-- An access to an offset is answered by R357. -/
def State.accessOff (s : State) (off : Nat) : Bool := !s.domOn (domainOf off) || s.clockOff off

/-! Derived registers. -/

/-- The mean of a sensor's last four conversions (R366), rounded down; 0 before the first. -/
def State.temp (s : State) (n : Nat) : Int :=
  let l := s.thm.conv.getD n []
  if l = [] then 0 else floorDiv l.sum l.length

/-- The hottest die sensor and its reading (THM_STATUS.HOTTEST). -/
def State.hottest (s : State) : Nat × Int :=
  (List.range 24).foldl (fun best n => if best.2 < s.temp n then (n, s.temp n) else best) (0, s.temp 0)

/-- GLB and HST registers. -/
def State.hostReg (s : State) (off : Nat) : Option Nat :=
  if off = Reg.GLB_MODE then some (s.modeCode + b2n s.run.isSome * 8)
  else if off = Reg.GLB_STRAPS then some (b2n s.glb.strapAuto + 2 * b2n s.glb.strapImg)
  else if off = Reg.GLB_FW_MIN then some s.glb.fwMin
  else if off = Reg.HST_STATUS then some (s.hst.width + 32 * s.hst.rate + 256 * b2n s.hst.bme)
  else if off = Reg.DMA_FIG_DELIVERED_LO then some (s.fig.delivered % 2 ^ 32)
  else if off = Reg.DMA_FIG_DELIVERED_HI then some (s.fig.delivered / 2 ^ 32)
  else if off = Reg.DMA_FIG_RELEASE_LO then some (s.fig.released % 2 ^ 32)
  else if off = Reg.DMA_FIG_RELEASE_HI then some (s.fig.released / 2 ^ 32)
  else if Reg.DMA_ENGe_STAT 0 ≤ off ∧ off < Reg.DMA_ENGe_STAT 8 ∧ (off - Reg.DMA_ENGe_STAT 0) % 16 = 0 then
    let e := (off - Reg.DMA_ENGe_STAT 0) / 16
    match (List.range 16).find? fun c => (s.ring (16 * e + c)).cur.isSome with
    | some c => some (c + 16 + 32 * b2n (((s.ring (16 * e + c)).cur.map (·.waiting)).getD false))
    | none => some 0
  else none

/-- Ring window registers (Tables 9.12 to 9.14, R327). -/
def State.ringWindow (s : State) (r o : Nat) : Option Nat :=
  let x := s.ring r
  if o = 0x10 then some (x.headSlot + b2n x.headPhase * 65536)
  else if o = 0x14 then some (x.tailSlot + b2n x.tailPhase * 65536)
  else if o = 0x18 then some (b2n x.enabled + 2 * b2n x.halted + 4 * b2n x.cfgErr + 8 * b2n x.cur.isSome + 256 * x.reason)
  else none

/-- BMF and TRK registers. -/
def State.trackReg (s : State) (off : Nat) : Option Nat :=
  if off = Reg.BMF_STATUS then
    match s.run with
    | some r => some (b2n (0 < r.issued) + 2 * b2n s.bmf.loading + 4 * b2n s.bmf.loading
        + 8 * b2n (decide (ledgerCapacity < r.entries.length + 1024)) + 16 * b2n (decide (Once.short ∈ r.once)))
    | none => some 0
  else if off = Reg.TRK_STATUS then
    let vw := s.field Reg.TRK_INPUT_CFG 10 8
    let im := s.field Reg.TRK_INPUT_CFG 23 12
    some (b2n (decide (s.trk.depth = 0) && (s.trk.s.interp vw im (s.time / clkTu)).isSome)
      + 2 * b2n s.trk.s.anchored + 4 * b2n s.trk.c.anchored + s.field Reg.TRK_STATUS 4 3 * 8 + 32 * b2n s.run.isSome
      + 64 * b2n ((s.run.map (·.waitStart)).getD false)
      + 128 * b2n (!ratioOk (s.reg64 Reg.TRK_S_RATIO_LO Reg.TRK_S_RATIO_HI)
          || (s.bit Reg.TRK_CTRL 2 && !ratioOk (s.reg64 Reg.TRK_C_RATIO_LO Reg.TRK_C_RATIO_HI))
          || decide (signedOf 16 (s.field Reg.TRK_TICK_TEMP 31 16) ≤ signedOf 16 (s.field Reg.TRK_TICK_TEMP 15 0)))
      + 256 * b2n (decide (clampNat 40 156 (s.field Reg.TRK_LAUNCH 7 0) < 27 + s.field Reg.TRK_INPUT_CFG 3 0))
      + 512 * b2n s.trk.simFree.isSome)
  else if off = Reg.TRK_S_COUNT_LO then some (unsignedOf 32 s.trk.s.count)
  else if off = Reg.TRK_S_COUNT_HI then some (unsignedOf 64 s.trk.s.count / 2 ^ 32)
  else if off = Reg.TRK_C_COUNT_LO then some (unsignedOf 32 s.trk.c.count)
  else if off = Reg.TRK_C_COUNT_HI then some (unsignedOf 64 s.trk.c.count / 2 ^ 32)
  else none

/-- No logical lane is DOWN and the link is up with every lane and the partner accepted (R238). -/
def Lnk.exposeOk (l : Lnk) : Bool := l.linkUp && l.lanesOk && l.partnerOk && l.down.isEmpty

/-- LNK registers (Tables 8.9, 8.11, 8.12). -/
def State.linkReg (s : State) (off : Nat) : Option Nat :=
  if off = Reg.LNK_STATUS then
    some (b2n s.lnk.linkUp + 2 * b2n s.lnk.lanesOk + 4 * b2n s.lnk.partnerOk + 8 * b2n s.lnk.exposeOk
      + 16 * s.lnk.partner + 64 * b2n s.lnk.idLocked
      + 128 * b2n s.lnk.challenge.isSome + 256 * s.lnk.trainFail
      + 2 ^ 16 * min 15 (s.lnk.lanes.filter fun l => l.state = .spare ∧ l.tx ≤ 1).length
      + 2 ^ 20 * min 127 s.lnk.down.length)
  else if Reg.LNK_LMAP_0 0 ≤ off ∧ off < Reg.LNK_LMAP_0 16 then
    let w := (off - Reg.LNK_LMAP_0 0) / 4
    some ((List.range 4).foldl (fun a n =>
      match s.carrier (4 * w + n) with
      | some p => a + (p + 128) * 2 ^ (8 * n)
      | none => a) 0)
  else if Reg.LNK_LN_STAT 0 ≤ off ∧ off < Reg.LNK_LN_STAT 72 then
    let p := (off - Reg.LNK_LN_STAT 0) / 0x40
    let x := s.lane p
    match (off - Reg.LNK_LN_STAT 0) % 0x40 with
    | 0x00 => some (x.state.code + 8 * b2n x.rxInv + 16 * x.llane + 2 ^ 10 * x.tx + 2 ^ 12 * x.rx + 2 ^ 16 * x.pair
        + 2 ^ 24 * x.lastFault)
    | 0x04 => some (unsignedOf 8 x.taps.pre + 2 ^ 8 * unsignedOf 8 x.taps.main + 2 ^ 16 * unsignedOf 8 x.taps.post
        + 2 ^ 24 * unsignedOf 4 x.taps.ctle)
    | 0x08 => some ((x.taps.dfe.take 5).zipIdx.foldl (fun a p => a + unsignedOf 6 p.1 * 2 ^ (6 * p.2)) 0)
    | 0x0C => some x.skew
    | 0x20 => some (if s.rcr.mounted then smGet (fun _ => 0) s.rcr.live.swapouts p else 0)
    | _ => none
  else none

/-- The number of marked words in a range of local addresses. -/
def Dram.marksIn (d : Dram) (base size : Nat) : Nat :=
  (d.marks.filter fun w => base ≤ 8 * w ∧ 8 * w < base + size).length

/-- The region entries as they stand (R291). -/
def State.regions (s : State) : List Region :=
  (List.range 16).map fun n =>
    { type := RegionType.ofCode (s.field (Reg.MEM_REGION_n_0 n) 31 28), first := s.field (Reg.MEM_REGION_n_0 n) 20 0,
      last := s.field (Reg.MEM_REGION_n_1 n) 20 0 }

/-- The type of region of a local address. -/
def State.regionAt (s : State) (a : Nat) : RegionType := regionOf s.regions a

/-- The base of table bank 0 or 1. -/
def State.bankBase (s : State) (b : Bool) : Nat :=
  if b then s.reg64 Reg.BMF_BANK1_BASE_LO Reg.BMF_BANK1_BASE_HI else s.reg64 Reg.BMF_BANK0_BASE_LO Reg.BMF_BANK0_BASE_HI

/-- Marked words of the TABLES region: in bank 0, in bank 1, elsewhere (R311). -/
def State.tableMarks (s : State) : Nat × Nat × Nat :=
  let ws := s.dram.marks.filter fun w => s.regionAt (8 * w) = .tables
  let inb := fun (b : Bool) (w : Nat) => decide (s.bankBase b ≤ 8 * w ∧ 8 * w < s.bankBase b + 0x800000)
  ((ws.filter (inb false)).length, (ws.filter (inb true)).length,
    (ws.filter fun w => !inb false w && !inb true w).length)

/-- TABLE_RELOAD stands (R311). -/
def State.reload (s : State) : Bool :=
  let m := s.tableMarks
  decide (0 < m.1 + m.2.1 + m.2.2) || !s.sets.marks.isEmpty

/-- Replacement pages free (R314): not in use and not bad. -/
def State.replFree (s : State) : Nat := 65536 - s.rcr.live.pages.length - s.rcr.live.badRepl.length

/-- The scrub period in tu (R307). -/
def State.scrubPeriod (s : State) : Nat := atLeast1 (s.field Reg.ECC_SCRUB_CFG 7 0) * 3600000 * msTu 1

/-- The lag of a channel's scrub pointer in tu (R307). -/
def State.scrubLag (s : State) (l : Nat) : Nat :=
  let span := channelSpan s.dram.order l
  (s.time - smGet (fun _ => 0) s.dram.passAt l) - smGet (fun _ => 0) s.dram.scrub l * s.scrubPeriod / span

/-- MEM registers (Tables 10.10, 10.12, 10.13). -/
def State.memReg (s : State) (off : Nat) : Option Nat :=
  let d := s.dram
  if off = Reg.MEM_STATUS then
    some (b2n d.trained + 4 * b2n d.initDone + 8 * b2n d.cfgErr + 16 * b2n (!d.copies.isEmpty)
      + 32 * b2n (!d.sweeps.isEmpty) + 64 * b2n (!d.unbacked.isEmpty) + 128 * b2n d.hot
      + (if d.usable && s.rcr.mounted then (List.range 4).foldl (fun a st =>
          if ((List.range 16).any fun i => (s.chan (16 * st + i)).state = .spare) then a else a + 2 ^ (8 + st)) 0 else 0)
      + 2 ^ 16 * min 63 (d.chans.filter (·.panic)).length)
  else if Reg.MEM_STACK_0 0 ≤ off ∧ off < Reg.MEM_STACK_0 4 then
    if d.usable && s.rcr.mounted then
      let st := (off - Reg.MEM_STACK_0 0) / 4
      let spare := (List.range 16).find? fun i => (s.chan (16 * st + i)).state = .spare
      let fen := d.fenced.find? fun p => p.1 = st
      let un := d.unbacked.find? fun l => l / 15 = st
      let place := match spare with
        | some i => i
        | none => match fen with
          | some p => ((s.chanOf (15 * st + p.2)).map (· % 16)).getD (s.drawn % 16)
          | none => s.drawn % 16
      some (place + 16 * ((fen.map (·.2)).getD 15) + 256 * b2n fen.isSome + 512 * ((un.map (· % 15)).getD 15))
    else some 0
  else if Reg.MEM_CH_STAT 0 ≤ off ∧ off < Reg.MEM_CH_STAT 64 then
    let p := (off - Reg.MEM_CH_STAT 0) / 0x40
    let x := s.chan p
    match (off - Reg.MEM_CH_STAT 0) % 0x40 with
    | 0x00 => some (if d.usable && s.rcr.mounted then x.state.code + 16 * x.logical + 256 * b2n x.panic + 512 * b2n x.pd.1
        + 1024 * b2n x.pd.2 + 2048 * b2n (d.sweeps.any fun w => w.spare = p ∧ w.bitmap = true) + 2 ^ 24 * x.fault else 0)
    | 0x04 => some x.eye
    | 0x1C => some (x.owed.1 + 16 * x.owed.2)
    | 0x20 => if (d.copies.any fun c => c.chan = p) || (d.sweeps.any fun w => w.spare = p) then some (s.drawn % 2 ^ 25) else some 0
    | 0x24 => some (if s.rcr.mounted then min 255 (smGet (fun _ => 0) s.rcr.live.fences p) else 0)
    | _ => none
  else none

/-- ECC registers (Tables 10.14, 10.16). -/
def State.eccReg (s : State) (off : Nat) : Option Nat :=
  let m := s.tableMarks
  if off = Reg.ECC_STATUS then
    some (b2n s.reload + 2 * b2n (!s.dram.promoted.isEmpty) + 4 * b2n (s.rcr.mounted && decide (s.replFree = 0)))
  else if off = Reg.ECC_SCRUB_PASSES then
    some (min 0xFFFFFFFF ((List.range 60).foldl (fun a l => min a (smGet (fun _ => 0) s.dram.passes l)) (2 ^ 32 - 1)))
  else if off = Reg.ECC_SCRUB_LAG then
    some (min 65535 (((List.range 60).foldl (fun a l => max a (s.scrubLag l)) 0) / (60000 * msTu 1))
      + 2 ^ 16 * s.dram.promoted.length)
  else if off = Reg.ECC_RETIRED then some (if s.rcr.mounted then s.rcr.live.pages.length else 0)
  else if off = Reg.ECC_RSV_FREE then some (if s.rcr.mounted then s.replFree else 0)
  else if off = Reg.ECC_TABLE_POISON then some (min 65535 m.1 + 2 ^ 16 * min 65535 m.2.1)
  else if off = Reg.ECC_TABLE_OTHER then some (min 0xFFFFFFFF m.2.2)
  else if off = Reg.ECC_LOG_COUNT then some s.dram.log.length
  else if Reg.ECC_LOG_0 0 ≤ off ∧ off < Reg.ECC_LOG_0 4 then
    some (((s.dram.log.headD []).getD ((off - Reg.ECC_LOG_0 0) / 4) 0).toNat)
  else none

/-- NET and PTP registers (Tables 11.7, 11.8). -/
def State.netReg (s : State) (off : Nat) : Option Nat :=
  if off = Reg.NET_STATUS then
    let fec := s.field Reg.NET_CTRL 5 4
    some (b2n s.net.up + 2 * (if s.net.speed10 then 2 else 1)
      + 16 * (if fec = 3 then 0 else if fec = 2 ∧ s.net.speed10 = true then 1 else fec) + 64 * b2n s.net.txHeld.isSome)
  else if off = Reg.PTP_STATUS then
    some (b2n s.ptp.locked + 2 * b2n (decide (s.ptp.left s.slewStepNow (s.ptp.count s.time) ≠ 0)) + 4 * b2n s.ptp.level)
  else if off = Reg.PTP_NOW_0 0 then some ((stampWords false (s.ptpTime s.time)).headD 0)
  else if off = Reg.PTP_FRC_LO then some (s.ptp.count s.time % 2 ^ 32)
  else if off = Reg.PTP_SLEW_LEFT then
    some (unsignedOf 32 (clampInt (-2 ^ 31) (2 ^ 31 - 1)
      (floorDiv (s.ptp.left s.slewStepNow (s.ptp.count s.time)) (2 ^ 32))))
  else if 0xB80060 ≤ off ∧ off < 0xB800A0 then
    let fifo := s.ptp.caps.getD ((off - 0xB80060) / 0x20) []
    let o := (off - 0xB80060) % 0x20
    if o = 0 then some fifo.length
    else if 4 ≤ o ∧ o < 0x14 then some ((((fifo.headD []).getD ((o - 4) / 4) 0).toNat))
    else none
  else none

/-- One microsecond counter of R356: what was counted, with the present stay if it is the state's. -/
def State.residency (s : State) (i : Nat) (t : Nat) : Nat :=
  (s.pwr.res.getD i 0 + (if s.pwr.state = (if i = 4 then 5 else i) then t - s.pwr.since else 0)) / usTu 1

/-- PWR, CLK and THM registers (Tables 12.10, 12.12 to 12.15). -/
def State.powerReg (s : State) (off : Nat) : Option Nat :=
  let p := s.pwr
  if off = Reg.PWR_STATUS then
    some (p.state + 8 * b2n p.trans.isSome + 16 * ((p.trans.map (·.req.target)).getD 0) + 128 * b2n p.slot.isSome
      + 256 * ((p.slot.map (·.target)).getD 0) + 2 ^ 11 * b2n p.lp + 2 ^ 12 * b2n p.brown + 2 ^ 13 * b2n p.wakeN)
  else if off = Reg.PWR_DOM_STAT then some (p.doms.zipIdx.foldl (fun a x => a + x.1 * 4 ^ x.2) 0)
  else if off = Reg.PWR_RESULT_0 then
    match p.results.head? with
    | some r => some (r.status + 2 ^ 8 * r.target + 2 ^ 11 * r.reached + 2 ^ 14 * r.refuser + 2 ^ 17 * b2n r.superseded
        + 2 ^ 18 * b2n r.nochange + 2 ^ 19 * b2n r.auto)
    | none => some 0
  else if off = Reg.PWR_RESULT_1 then
    match p.results.head? with
    | some r => some (r.seq + 2 ^ 16 * r.mode)
    | none => some 0
  else if off = Reg.PWR_RESULT_COUNT then some p.results.length
  else if off = Reg.PWR_VIN then some (p.vin % 65536 + s.field Reg.PWR_VIN 31 16 * 65536)
  else if Reg.PWR_RES_s_LO 0 ≤ off ∧ off < Reg.PWR_RES_s_LO 5 ∧ off % 8 = 0 then
    some (s.residency ((off - Reg.PWR_RES_s_LO 0) / 8) s.time % 2 ^ 32)
  else if Reg.PWR_RAIL_r 0 ≤ off ∧ off < Reg.PWR_RAIL_r 8 then
    if s.rcr.mounted then
      let r := p.rails.getD ((off - Reg.PWR_RAIL_r 0) / 4) ⟨0, 0, 0⟩
      some (r.mv + 2 ^ 16 * r.working + 2 ^ 24 * r.spares)
    else some 0
  else if off = Reg.CLK_STATUS then
    some (s.clk.lock.zipIdx.foldl (fun a x => a + b2n x.1 * 2 ^ x.2) 0 + 256 * b2n s.clk.ref156
      + 512 * b2n s.clk.refclk + 1024 * b2n s.clk.aonLocked)
  else if off = Reg.CLK_GATE then
    some ((List.range 8).foldl (fun a c =>
      let stop := match c with
        | 0 => p.state == 4
        | 1 => p.state == 3 || p.state == 4 || !s.clk.refclk || s.pllOff 0
        | 3 => p.state == 1 || p.state == 2 || p.state == 3 || p.state == 4 || s.pllOff 2
        | _ => p.state == 2 || p.state == 3 || p.state == 4 || s.pllOff (c - 1)
      a + b2n stop * 2 ^ c) 0)
  else if off = Reg.THM_STATUS then
    some (b2n s.thm.warn + 2 * b2n s.thm.crit + 4 * b2n p.trippedLast + 2 ^ 16 * s.hottest.1)
  else if Reg.THM_T_n 0 ≤ off ∧ off < Reg.THM_T_n 28 then some (unsignedOf 16 (s.temp ((off - Reg.THM_T_n 0) / 4)))
  else none

/-! The recorder (Tables 13.8, 13.9). -/

/-- A sector of the NOR die; unlisted sectors are as new. -/
def Rec.sector (r : Rec) (n : Nat) : Sector := smGet Sector.fresh r.sectors n

/-- Every sector with its number. -/
def Rec.allSectors (r : Rec) : List (Nat × Sector) := (List.range 2048).map fun n => (n, r.sector n)

/-- The sectors of a region in logical order. -/
def Rec.regionSectors (r : Rec) (g : NorRegion) : List (Nat × Sector) :=
  r.allSectors.filter fun p => p.2.region = g ∧ p.2.state ≠ .bad

/-- The records held in a region. -/
def Rec.recordsIn (r : Rec) (g : NorRegion) : List Record :=
  (r.regionSectors g).flatMap fun p => p.2.records.map (·.2)

/-- Records in LIFETIME, slots used. -/
def Rec.lifeCount (r : Rec) : Nat := (r.regionSectors .lifetime).foldl (fun a p => a + p.2.used) 0

/-- LIFETIME is full (R378). -/
def Rec.lifeFull (r : Rec) : Bool := decide (130560 ≤ r.lifeCount)

/-- Erased spare sectors, lowest number first. -/
def Rec.spares (r : Rec) : List Nat :=
  ((r.regionSectors .spare).filter fun p => p.2.state = .erased).map (·.1)

/-- Spares provided of each kind of the withy pool (Table 13.6). -/
def withyProvided : Nat → Nat
  | 0 => 8 | 1 => 8 | 2 => 4 | 3 => 65536 | 6 => 9 | 7 => 159 | _ => 0

/-- Spares drawn of each kind (Table 13.6). -/
def State.withyUsed (s : State) (k : Nat) : Nat :=
  let w := s.rcr.live
  match k with
  | 0 => ((List.range 8).filter fun k => w.weavers.any fun v => v / 17 == k).length
  | 1 => w.lanes.length
  | 2 => w.chanFailed.length + w.chanRetired.length
  | 3 => w.pages.length + w.badRepl.length
  | 4 => w.rows.length
  | 5 => w.sramRows.length
  | 6 => w.phases.length
  | 7 => w.sectors
  | _ => 0

/-- REC registers. -/
def State.recReg (s : State) (off : Nat) : Option Nat :=
  let r := s.rcr
  if off = Reg.REC_STATUS then
    some (b2n r.ramOnly + 2 * b2n r.lifeFull + 32 * b2n r.faulted + 64 * b2n (decide (r.tokens = 0)) + 128 * b2n r.invFault)
  else if off = Reg.REC_SEQ_NEXT_LO then some (r.seqNext % 2 ^ 32)
  else if off = Reg.REC_SEQ_NEXT_HI then some (r.seqNext / 2 ^ 32 % 65536)
  else if off = Reg.REC_ROLL_OLDEST_LO then some (((r.recordsIn .rolling).map (·.seq)).min?.getD 0 % 2 ^ 32)
  else if off = Reg.REC_ROLL_OLDEST_HI then some (((r.recordsIn .rolling).map (·.seq)).min?.getD 0 / 2 ^ 32)
  else if off = Reg.REC_LIFE_COUNT then some r.lifeCount
  else if off = Reg.REC_OP_SECONDS then some r.opSeconds
  else if off = Reg.REC_POWER_CYCLES then some r.powerCycles
  else if off = Reg.REC_SECTORS then
    some (min 255 r.spares.length + 2 ^ 16 * ((r.allSectors.filter fun p => p.2.state = .bad).length % 2048))
  else if off = Reg.REC_PENDING then
    some ((r.shadow.filter fun e => !e.committed).length % 64 + 256 * min 255 r.invPending.length)
  else if off = Reg.REC_ERASE_MAX then some (r.allSectors.foldl (fun a p => max a p.2.erases) 0)
  else if off = Reg.REC_CURSOR_STAT then
    some (b2n (r.window.isSome && r.cursor.isNone) + 2 * b2n r.notFound + 4 * b2n r.crcBad + 8 * b2n r.cursor.isSome)
  else if Reg.REC_WIN_n 0 ≤ off ∧ off < Reg.REC_WIN_n 64 then
    some (fieldLE (r.window.getD []) (off - Reg.REC_WIN_n 0) 4)
  else if Reg.REC_WITHY_k 0 ≤ off ∧ off < Reg.REC_WITHY_k 8 then
    let k := (off - Reg.REC_WITHY_k 0) / 4
    if r.mounted then
      (if k = 4 ∨ k = 5 then some (s.drawn % 2 ^ 20) else some (withyProvided k - s.withyUsed k))
    else some 0
  else if Reg.REC_USED_k 0 ≤ off ∧ off < Reg.REC_USED_k 8 then
    some (if r.mounted then s.withyUsed ((off - Reg.REC_USED_k 0) / 4) % 2 ^ 20 else 0)
  else if Reg.REC_HIST_i 0 ≤ off ∧ off < Reg.REC_HIST_i 291 then
    some (smGet (fun _ => 0) r.hist ((off - Reg.REC_HIST_i 0) / 4))
  else none

/-- SET and IRQ registers, the MSI-X table and the PBA (Tables 9.15, 11.9, R343, R344). -/
def State.setReg? (s : State) (off : Nat) : Option Nat :=
  if off = Reg.SET_STATUS then
    some (b2n s.sets.active + 2 * b2n s.sets.sealed + 4 * b2n (s.sets.marks.any fun m => !m.setB)
      + 8 * b2n (s.sets.marks.any (·.setB)))
  else if off = Reg.IRQ_OWED_LO then some (s.hst.owed.toNat % 2 ^ 32)
  else if off = Reg.IRQ_OWED_HI then some (s.hst.owed.toNat / 2 ^ 32)
  else none

/-- Every vector resets masked (R344): word 3 of each of the 64 table entries. -/
def msixDefault (off : Nat) : Word := if off % 16 = 12 then 1 else 0

/-- A word of the MSI-X table (offset within the table). -/
def State.msixWord (s : State) (o : Nat) : Nat := (smGet msixDefault s.hst.msix o).toNat

/-- Vector v is masked by its mask bit or the function mask. -/
def State.vectorMasked (s : State) (v : Nat) : Bool := s.hst.funcMask || bitOf (s.msixWord (16 * v + 12)) 0

/-- The PBA: owed messages held by a mask (R343). -/
def State.pba (s : State) : Nat :=
  (List.range 64).foldl (fun a v => if s.hst.owed.getLsbD v && s.vectorMasked v then a + 2 ^ v else a) 0

/-- The word a defined BAR0 offset shows. -/
def State.readReg (s : State) (off : Nat) : Nat :=
  let d : Option Nat :=
    match off / 0x100000 with
    | 0 => s.hostReg off
    | 1 =>
      if 0x101000 ≤ off ∧ off < 0x101000 + 0x40 * 130 then s.ringWindow ((off - 0x101000) / 0x40) ((off - 0x101000) % 0x40)
      else s.hostReg off
    | 2 => s.pathReg off
    | 3 => s.pathReg off
    | 4 => s.pathReg off
    | 5 => s.pathReg off
    | 6 => s.trackReg off
    | 7 => s.trackReg off
    | 8 => s.linkReg off
    | 9 => s.memReg off
    | 10 => s.eccReg off
    | 11 =>
      if 0xB01000 ≤ off ∧ off < 0xB01080 then s.ringWindow (192 + (off - 0xB01000) / 0x40) ((off - 0xB01000) % 0x40)
      else s.netReg off
    | 12 => s.powerReg off
    | 13 => s.recReg off
    | 14 => s.setReg? off
    | _ =>
      if 0xF10000 ≤ off ∧ off < 0xF10400 then some (s.msixWord (off - 0xF10000))
      else if off = 0xF11000 then some (s.pba % 2 ^ 32)
      else if off = 0xF11004 then some (s.pba / 2 ^ 32)
      else s.setReg? off
  d.getD (s.reg off)

/-- The offset is defined: a register map, the MSI-X table or the PBA holds it. -/
def offsetDefined (off : Nat) : Bool :=
  (Reg.row? off).isSome || decide (off % 4 = 0 ∧ ((0xF10000 ≤ off ∧ off < 0xF10400) ∨ off = 0xF11000 ∨ off = 0xF11004))

/-- ALERT_N is asserted (R365). -/
def State.alert (s : State) : Bool :=
  decide (s.pwr.state ≠ 4) &&
  (s.rcr.ramOnly || (s.thm.crit && s.bit Reg.PWR_CTRL 1) || (s.pwr.brown && s.bit Reg.PWR_CTRL 2)
    || (!s.clk.ref156 && s.bit Reg.PWR_CTRL 3) || (s.pwr.rails.any (fun r => r.spares = 0) && s.bit Reg.PWR_CTRL 4))

end Sys2Proof.Machine
end

