-- ==== Sys2Proof/Machine/Irq.lean ====
section
/-! DEFINITION. Recorder triggers and interrupt sources (R341 to R343, R373 to R377): the operations through which every other
block raises a source or fires a record. -/

namespace Sys2Proof.Machine

/-- The interrupt sources that are named one by one (Table 11.6). -/
inductive Src where
  | figErr | figHalt | figStall | figRefetch | wvrSwap | wvrMismatch | wvrCapacity | wvrErr | corErr | corRebind
  | stgHint | stgLate | stgRegen | osrErr | bmfHole | bmfShort | bmfLedger | bmfErr | trkReversal | trkOverspeed
  | trkInput | trkPoschk | lnkLost | lnkSwap | lnkDown | lnkPartner | lnkTel | lnkTrain | memTrain | memFence
  | memErr | eccUe | eccSticky | eccTableReload | netLink | netRing | ptpCap | ptpErr | pwrDone | pwrFault
  | thmWarn | thmCrit | recSnap | recLogmem | recRamonly | hstCmd | hstMode | setSwapped
  | dmaDone (e : Nat) | dmaErr (e : Nat)
deriving DecidableEq, Repr

/-- The number of a source (Table 11.6). -/
def Src.num : Src → Nat
  | .dmaDone e => e % 8 | .dmaErr e => 8 + e % 8
  | .figErr => 16 | .figHalt => 17 | .figStall => 18 | .figRefetch => 19 | .wvrSwap => 20 | .wvrMismatch => 21
  | .wvrCapacity => 22 | .wvrErr => 23 | .corErr => 24 | .corRebind => 25 | .stgHint => 26 | .stgLate => 27
  | .stgRegen => 28 | .osrErr => 29 | .bmfHole => 30 | .bmfShort => 31 | .bmfLedger => 32 | .bmfErr => 33
  | .trkReversal => 34 | .trkOverspeed => 35 | .trkInput => 36 | .trkPoschk => 37 | .lnkLost => 38 | .lnkSwap => 39
  | .lnkDown => 40 | .lnkPartner => 41 | .lnkTel => 42 | .lnkTrain => 43 | .memTrain => 44 | .memFence => 45
  | .memErr => 46 | .eccUe => 47 | .eccSticky => 48 | .eccTableReload => 49 | .netLink => 50 | .netRing => 51
  | .ptpCap => 52 | .ptpErr => 53 | .pwrDone => 54 | .pwrFault => 55 | .thmWarn => 56 | .thmCrit => 57
  | .recSnap => 58 | .recLogmem => 59 | .recRamonly => 60 | .hstCmd => 61 | .hstMode => 62 | .setSwapped => 63

/-! Recorder triggers (R373 to R377). -/

/-- The list of a trigger code (REC_MAP, R373); 8 and above disable the code, and code 0x3A always reads 0xF. -/
def State.recList (s : State) (code : Nat) : Nat :=
  if code = 0x3A then 15 else s.field (Reg.REC_MAP_j (code / 8)) (4 * (code % 8) + 3) (4 * (code % 8))

/-- Codes of lifetime class (Table 13.3). -/
def lifetimeCode (code : Nat) : Bool :=
  [20, 39, 45, 57, 59, 60, 0x40, 0x44, 0x45, 0x47].contains code

/-- One snapshot pair (R374): through the path of a host read, uncounted and without its side effects. -/
def State.snapPair (s : State) (off : Nat) : RecPair :=
  if s.accessOff off || !offsetDefined off then { off := off, silent := true, value := 0 }
  else { off := off, silent := false, value := BitVec.ofNat 32 (s.readReg off) }

/-- The snapshot of a list (R373, R374): its VALID offsets in list order. -/
def State.snapshot (s : State) (m : Nat) : List RecPair :=
  (List.range 24).filterMap fun k =>
    let e := s.reg (Reg.REC_LIST_m_k m k)
    if bitOf e 31 then some (s.snapPair (e % 2 ^ 24)) else none

/-- Rolling records that wait for their commit and so for a token (R377). -/
def Rec.rollingDue (r : Rec) : Nat := (r.shadow.filter fun e => !e.committed && !e.record.lifetime).length

/-- Put an entry into the AON shadow (R376): over the oldest committed entry, or over the oldest. -/
def State.shadowPut (s : State) (e : ShadowEntry) : State :=
  let sh := s.rcr.shadow
  if sh.length < 32 then { s with rcr := { s.rcr with shadow := sh ++ [e] } }
  else
    match sh.findIdx? (·.committed) with
    | some i => { s with rcr := { s.rcr with shadow := sh.eraseIdx i ++ [e] } }
    | none => { s with rcr := { s.rcr with shadow := sh.tail ++ [e] } }.bump Reg.REC_UNCOMMITTED

/-- A trigger fires (R373 to R377). -/
def State.trigger (s : State) (code detail : Nat) : State :=
  let m := s.recList code
  if !s.bit Reg.REC_CTRL 0 || 8 ≤ m || s.pwr.state == 4 then s
  else
    let life := lifetimeCode code
    let throttled := !life && s.bit Reg.REC_CTRL 1 && decide (s.rcr.tokens ≤ s.rcr.rollingDue)
    let now := (s.ptpTime s.time)
    let w := stampWords false now
    let rec_ : Record :=
      { seq := s.rcr.seqNext % 2 ^ 48, trigger := code, lifetime := life, aonSnap := !s.domOn 9,
        pairs := s.snapshot m, opSeconds := s.rcr.opSeconds, powerCycles := s.rcr.powerCycles,
        ticks := if s.domOn 7 then s.tickTotal else 0,
        ptpSec := if s.domOn 8 then w.getD 1 0 + w.getD 2 0 % 65536 * 2 ^ 32 else 0,
        ptpNs := if s.domOn 8 then w.getD 0 0 else 0,
        mode := s.modeCode, power := s.pwr.state, stripe := s.stripeNow, stick := s.stickNow, detail := detail }
    let s := { s with rcr := { s.rcr with seqNext := (s.rcr.seqNext + 1) % 2 ^ 48 } }
    if throttled then
      let s := s.shadowPut { record := rec_, committed := true }
      { s with rcr := { s.rcr with lost := true } }.bump Reg.REC_THROTTLED
    else s.shadowPut { record := rec_, committed := false }

/-! The withy pool (R388, R389). -/

/-- The pool after a change (R389): the subject of a phase is rail + 256 × phase, of an SRAM row store + 65,536 × word; the value
of a channel's change is its new state (R322); a page without a replacement reads as 65,536, which names none. -/
def Withy.apply (w : Withy) (e : InvEntry) : Withy :=
  let put := smPut (fun _ => 0) e.subject e.value
  match e.kind, e.action with
  | 0, 2 => { w with weavers := ssAdd e.subject w.weavers }
  | 0, 4 => { w with suspects := put w.suspects }
  | 1, 2 => { w with lanes := ssAdd e.subject w.lanes }
  | 1, 4 => { w with swapouts := put w.swapouts }
  | 2, 1 => { w with chanFailed := if e.value = 4 then ssAdd e.subject w.chanFailed else ssDel e.subject w.chanFailed }
  | 2, 2 => { w with chanFailed := ssDel e.subject w.chanFailed, chanRetired := ssAdd e.subject w.chanRetired }
  | 2, 4 => { w with fences := put w.fences }
  | 3, 0 => { w with pages := smPut (fun _ => 65536) e.subject e.value w.pages }
  | 3, 3 => { w with badRepl := ssAdd e.subject w.badRepl }
  | 4, 0 => { w with rows := w.rows ++ [e.subject] }
  | 5, 0 => { w with sramRows := w.sramRows ++ [(e.subject % 65536, e.subject / 65536)] }
  | 6, 0 => { w with phases := w.phases ++ [(e.subject % 256, e.subject / 256)] }
  | 7, 0 => { w with sectors := w.sectors + 1 }
  | _, _ => w

/-- The pool changes (R389): the change takes effect at once, its entry waits for INVENTORY_COMMIT, and WITHY fires. In RAM-ONLY
there is no entry (R383). -/
def State.withyChange (s : State) (kind action subject value : Nat) : State :=
  let e : InvEntry := { kind := kind, action := action, subject := subject, value := value,
                        opSeconds := s.rcr.opSeconds, seq := s.rcr.seqNext % 2 ^ 48 }
  let s : State := { s with rcr := { s.rcr with live := s.rcr.live.apply e } }
  if s.rcr.ramOnly then s
  else
    ({ s with rcr := { s.rcr with invPending := s.rcr.invPending ++ [e] } } : State).trigger 0x45
      (kind + 256 * (subject % 2 ^ 24))

/-! Interrupt sources (R341 to R343). -/

/-- The register half and the bit of a source: pending registers. -/
def pendReg (v : Nat) : Nat := if v < 32 then Reg.IRQ_PEND_LO else Reg.IRQ_PEND_HI
/-- Enable registers. -/
def enableReg (v : Nat) : Nat := if v < 32 then Reg.IRQ_ENABLE_LO else Reg.IRQ_ENABLE_HI

/-- The pending bit of a source. -/
def State.pending? (s : State) (v : Nat) : Bool := s.bit (pendReg v) (v % 32)
/-- The enable bit of a source. -/
def State.enabled? (s : State) (v : Nat) : Bool := s.bit (enableReg v) (v % 32)

/-- Owe the message of a source (R343). -/
def State.owe (s : State) (v : Nat) : State :=
  { s with hst := { s.hst with owed := s.hst.owed ||| BitVec.ofNat 64 (2 ^ v) } }

/-- Cancel the message of a source. -/
def State.unowe (s : State) (v : Nat) : State :=
  { s with hst := { s.hst with owed := s.hst.owed &&& ~~~ BitVec.ofNat 64 (2 ^ v) } }

/-- Raise source number v (R342, R343): a pending source only counts as coalesced. -/
def State.raiseN (s : State) (v : Nat) : State :=
  if s.pending? v then s.bump Reg.IRQ_COALESCED
  else
    let s := s.setField (pendReg v) (v % 32) (v % 32) 1
    let s := if s.enabled? v then s.owe v else s
    s.trigger v 0

/-- Raise a source. -/
def State.raise (s : State) (x : Src) : State := s.raiseN x.num

/-- The condition of a source of kind L (Table 11.6). -/
def State.level (s : State) (v : Nat) : Bool :=
  match v with
  | 17 => s.fig.halted
  | 18 => s.fig.stalled
  | 22 => s.lowWorking || (List.range 8).any s.skeinNoSpare
  | 40 => !s.lnk.down.isEmpty
  | 49 => s.reload
  | 60 => s.rcr.ramOnly
  | _ => false

/-- The sources of kind L. -/
def levelSources : List Nat := [17, 18, 22, 40, 49, 60]

/-- R342: a source of kind L is raised when its condition goes from false, in the state before, to true. -/
def State.settle (s' s : State) : State :=
  levelSources.foldl (fun a v => if !s.level v && s'.level v then a.raiseN v else a) s'

/-- A step that ends in a next state, with the sources of kind L raised that became true in it. -/
def finish (s s' : State) : Host.Outcome State Fault Refusal := .next (s'.settle s)

end Sys2Proof.Machine
end

