-- ==== Sys2Proof/Machine/Access.lean ====
section
/-! DEFINITION. The silent access policy and the checks of a BAR0 write (R9, R10, R251, R357, R358, Tables 12.6, 12.7). -/

namespace Sys2Proof.Machine

/-- R357: an access to a block that is off or clock-off is counted and recorded. -/
def State.offAccess (s : State) (off : Nat) (write : Bool) : State :=
  (s.bump Reg.PWR_OFF_ACCESS).setReg Reg.PWR_OFF_ACCESS_AT
    (off % 2 ^ 24 + b2n write * 2 ^ 24 + domainOf off * 2 ^ 25)

/-- R358: an access of Table 12.7 is counted and recorded; `bar2` for a reserved BAR2 page. -/
def State.violation (s : State) (kind off : Nat) (write : Bool) (bar2 : Bool := false) : State :=
  (s.bump Reg.PWR_VIOL).setReg Reg.PWR_VIOL_AT
    (off % 2 ^ 24 + b2n write * 2 ^ 24 + kind * 2 ^ 25 + b2n bar2 * 2 ^ 31)

/-- What becomes of a BAR0 write: its block is off, it is a violation of a kind, or the bits of `mask` take it, `some4` when
it also counts as kind 4 for fields it would change. -/
inductive WriteVerdict where
  | off
  | viol (kind : Nat)
  | ok (mask : Nat) (some4 : Bool)
deriving DecidableEq, Repr

/-- The bits set in `a` and clear in `b`. -/
def bitsBeyond (a b : Nat) : Nat := a - (a &&& b)

/-- A register is writable in the present mode (the mode mask of its row). -/
def State.modeAllows (s : State) (r : RegRow) : Bool := bitOf r.modes s.modeCode

/-- Fields of a register whose writability differs from the register's own mode mask: FIG_CTRL.ENABLE (R57) and
MEM_CTRL.ORDER (R324) are writable in DORMANT only. -/
def State.frozenBits (s : State) (off : Nat) : Nat :=
  if s.glb.mode = .dormant then 0
  else if off = Reg.FIG_CTRL then 1
  else if off = Reg.MEM_CTRL then 3
  else 0

/-- A ring window register that is writable only while the ring is disabled: RING_BASE, RING_CFG.LOG2_SIZE and the windows
(R254, R284). -/
def State.ringFrozen (s : State) (off : Nat) : Bool :=
  let r? := if 0x101000 ≤ off ∧ off < 0x101000 + 0x40 * 130 then some ((off - 0x101000) / 0x40)
    else if 0xB01000 ≤ off ∧ off < 0xB01080 then some (192 + (off - 0xB01000) / 0x40) else none
  match r? with
  | some r =>
    let o := off % 0x40
    (s.ring r).enabled && (decide (o < 8) || decide (0x20 ≤ o))
  | none => false

/-- The first rule of R357 and R358 that a BAR0 write meets. -/
def State.writeVerdict (s : State) (off be v : Nat) : WriteVerdict :=
  if s.accessOff off then .off
  else if be ≠ 15 then .viol (if offsetDefined off then 5 else 0)
  else if !offsetDefined off then .viol 0
  else
    match Reg.row? off with
    | none => if off < 0xF11000 then .ok 0xFFFFFFFF false else .viol 2
    | some r =>
      if bitsBeyond v r.bits ≠ 0 then .viol 1
      else if r.writable = 0 then .viol 2
      else if Reg.WVR_WT_0 0 ≤ off ∧ off < Reg.WVR_WT_0 8 ∧ s.wvr.wtLock = true ∧ s.modeAllows r = true then .viol 3
      else if !s.modeAllows r || s.ringFrozen off then .viol 4
      else
        let fr := s.frozenBits off
        .ok (bitsBeyond r.writable fr) (decide ((v &&& fr) ≠ (s.reg off &&& fr)))

/-- The word a register takes from a write under a mask. -/
def mergeWord (old v mask : Nat) : Nat := bitsBeyond old mask + (v &&& mask)

/-- Run a write: count what R357 and R358 count, and hand the mask of the bits that take it to `f`. -/
def State.guardWrite (s : State) (off be v : Nat) (f : State → Nat → State) : State :=
  match s.writeVerdict off be v with
  | .off => s.offAccess off true
  | .viol k => s.violation k off true
  | .ok mask some4 => f (if some4 then s.violation 4 off true else s) mask

/-- A write of a command register whose row is a command of its own: the checks of a full-word write. -/
def State.command (s : State) (off v : Nat) (f : State → State) : State := s.guardWrite off 15 v fun s _ => f s

/-- Run an action that a command register honours only in some modes: elsewhere it counts as kind 4. -/
def State.onlyIn (s : State) (modes : List Mode) (off : Nat) (f : State → State) : State :=
  if s.glb.mode ∈ modes then f s else s.violation 4 off true

end Sys2Proof.Machine
end

