-- ==== Sys2Proof/Machine/Mem.lean ====
section
/-! DEFINITION. Local memory: reading and writing bytes under the SECDED code, poison, the flip mask, unbacked and void
channels, the RESERVE region, the watch lists and the integrity log (R286 to R292, R303 to R309, R323). -/

namespace Sys2Proof.Machine

/-- What an unlisted byte of local memory reads as: the fill that covers it, newest first; zero elsewhere (R290; log
entry 7). -/
def fillByte (fills : List (Nat × Nat × Bool)) (a : Nat) : Byte :=
  match fills.find? fun f => decide (f.1 ≤ a ∧ a < f.1 + f.2.1) with
  | some f => if f.2.2 then slathByte (a - f.1) else 0
  | none => 0

/-- The canonical form of local memory: addresses strictly rising, no entry at what an unlisted address reads as. -/
def Dram.memWf (d : Dram) : Bool := smWf (fillByte d.fills) d.cells

/-- The byte stored at a local address. -/
def Dram.byte (d : Dram) (a : Nat) : Byte := smGet (fillByte d.fills) d.cells a

/-- Store a byte. -/
def Dram.putByte (d : Dram) (a : Nat) (b : Byte) : Dram := { d with cells := smPut (fillByte d.fills) a b d.cells }

/-- Cells that hold bytes from an address on, but for those at what an unlisted address reads as. -/
def cellsFrom (f : Nat → Byte) (a : Nat) : List Byte → List Host.Cell
  | [] => []
  | b :: t => if b = f a then cellsFrom f (a + 1) t else (a, b) :: cellsFrom f (a + 1) t

/-- Store bytes from an address on. -/
def Dram.putBytes (d : Dram) (a : Nat) (bs : List Byte) : Dram :=
  { d with cells := d.cells.filter (fun c => decide (c.1 < a)) ++ cellsFrom (fillByte d.fills) a bs
      ++ d.cells.filter fun c => decide (a + bs.length ≤ c.1) }

/-- The eight bytes of word n as a number, as stored. -/
def Dram.wordRaw (d : Dram) (n : Nat) : Nat := leNat ((List.range 8).map fun i => d.byte (8 * n + i))

/-- The logical channel of a word (R289). -/
def Dram.chanOfWord (d : Dram) (n : Nat) : Nat := (addrOrder d.order (8 * n)).1

/-- A word is out of reach: its logical channel is unbacked, or its beat is void (R321, R322). -/
def Dram.lostWord (d : Dram) (n : Nat) : Bool :=
  let l := d.chanOfWord n
  d.unbacked.contains l
    || d.sweeps.any fun w => w.lch == l && (!w.bitmap || !w.valid.contains (n / 8))

/-- What a read of a word finds (Table 10.6). -/
structure WordRead where
  data : Nat
  poison : Bool
  cls : EccClass
deriving DecidableEq, Repr

/-- Class a word's data under the bits turned over in it. -/
def classed (data : Nat) (mark : Bool) (dx cx : Nat) : WordRead :=
  let seen := data ^^^ dx
  match eccClass (eccSyndrome mark dx cx) with
  | .clean => { data := seen, poison := false, cls := .clean }
  | .marked => { data := seen, poison := true, cls := .marked }
  | .check => { data := seen, poison := false, cls := .check }
  | .data b => { data := seen ^^^ 2 ^ b, poison := false, cls := .data b }
  | .ue => { data := seen, poison := true, cls := .ue }

/-- Read word n. -/
def Dram.readWord (d : Dram) (n : Nat) : WordRead :=
  if d.lostWord n then { data := 0, poison := true, cls := .marked }
  else
    let f := smGet (fun _ => (0, 0)) d.flips n
    classed (d.wordRaw n) (d.marks.contains n) f.1 f.2

/-- The class of a read of word n; it does not depend on the data. -/
def Dram.wordClass (d : Dram) (n : Nat) : EccClass :=
  if d.lostWord n then .marked
  else
    let f := smGet (fun _ => (0, 0)) d.flips n
    eccClass (eccSyndrome (d.marks.contains n) f.1 f.2)

/-- The word as delivered, with its poison. -/
def State.wordAt (s : State) (n : Nat) : WordRead :=
  if s.regionAt (8 * n) = .reserve then { data := 0, poison := false, cls := .clean } else s.dram.readWord n

/-- The bytes delivered by a read of `n` bytes at `a` (R292, R304). -/
def State.bytesAt (s : State) (a n : Nat) : List Byte :=
  (List.range n).map fun i =>
    let x := a + i
    BitVec.ofNat 8 ((s.wordAt (x / 8)).data / 2 ^ (8 * (x % 8)))

/-- The words of a range. -/
def wordsOf (a n : Nat) : List Nat := if n = 0 then [] else (List.range ((a + n - 1) / 8 - a / 8 + 1)).map (a / 8 + ·)

/-- Word n is delivered with poison. -/
def State.poisonedWord (s : State) (n : Nat) : Bool :=
  (match s.dram.wordClass n with | .marked => true | .ue => true | _ => false) && s.regionAt (8 * n) != .reserve

/-- Some word of a range is delivered with poison. -/
def State.poisonIn (s : State) (a n : Nat) : Bool := (wordsOf a n).any s.poisonedWord

/-- The state with local memory cut down to a range: what is read in the range is read the same. -/
def State.narrowed (s : State) (a n : Nat) : State :=
  { s with dram := { s.dram with cells := s.dram.cells.filter fun c => decide (a ≤ c.1 ∧ c.1 < a + n) } }

/-! The integrity log (R323, Table 10.18). -/

/-- Write the integrity log; a full log drops and counts (R323, R58). -/
def State.eccLog (s : State) (event region cls chan detail addr : Nat) : State :=
  if 256 ≤ s.dram.log.length then s.bump Reg.ECC_LOG_LOST
  else
    let e : LogWords := [BitVec.ofNat 32 (event + region * 2 ^ 8 + cls * 2 ^ 12 + chan * 2 ^ 16 + detail * 2 ^ 24),
      BitVec.ofNat 32 addr, BitVec.ofNat 32 (addr / 2 ^ 32 % 256), BitVec.ofNat 32 s.tickTotal]
    { s with dram := { s.dram with log := s.dram.log ++ [e] } }

/-- The code of a service class (Table 10.4, in order from 0). -/
def classCode : DramClass → Nat
  | .feed => 0 | .fill => 1 | .pipe => 2 | .ingest => 3 | .background => 4 | .maint => 5

/-- The physical channel that carries a word, 0xFF without one. -/
def State.physOf (s : State) (n : Nat) : Nat := (s.chanOf (s.dram.chanOfWord n)).getD 0xFF

/-! Writes (R305, R306). -/

/-- The flip mask takes the next write of this word (R306). -/
def State.flipHits (s : State) (n : Nat) : Bool :=
  s.bit Reg.ECC_FLIP_CTRL 0 && !s.bit Reg.ECC_FLIP_CTRL 1
    && decide (s.reg64 Reg.ECC_FLIP_ADDR_LO Reg.ECC_FLIP_ADDR_HI / 8 = n)

/-- Store a word clean or marked, whole; the flip mask alters it if it is the target (R303, R306). -/
def State.putWord (s : State) (n data : Nat) (mark : Bool) : State :=
  let d := s.dram.putBytes (8 * n) (leBytes 8 data)
  let d := { d with marks := if mark then ssAdd n d.marks else ssDel n d.marks,
                    flips := smPut (fun _ => (0, 0)) n (0, 0) d.flips }
  let s := { s with dram := d }
  if s.flipHits n then
    let dx := s.reg64 Reg.ECC_FLIP_DATA_LO Reg.ECC_FLIP_DATA_HI
    let cx := s.reg Reg.ECC_FLIP_CHECK % 256
    let s := { s with dram := { s.dram with flips := smPut (fun _ => (0, 0)) n (dx, cx) s.dram.flips } }
    if s.bit Reg.ECC_FLIP_CTRL 2 then s else s.setField Reg.ECC_FLIP_CTRL 0 0 0
  else s

/-- Write part of word n: bytes from place `i` (R305). -/
def State.mergeBytes (s : State) (n i : Nat) (bs : List Byte) : State :=
  if s.regionAt (8 * n) = .reserve ∨ s.dram.unbacked.contains (s.dram.chanOfWord n) = true then s
  else
    let r := s.dram.readWord n
    let old := leBytes 8 r.data
    let new := leNat (old.take i ++ bs ++ old.drop (i + bs.length))
    if bs.length = 8 then s.putWord n new false
    else
      let s := s.putWord n new r.poison
      if r.poison then s.bump Reg.ECC_RMW_POISON else s

/-- Write bytes word by word; `fuel` bounds the words. -/
def State.writeWords : Nat → State → Nat → List Byte → State
  | 0, s, _, _ => s
  | fuel + 1, s, a, bs =>
    if bs = [] then s
    else
      let k := 8 - a % 8
      State.writeWords fuel (s.mergeBytes (a / 8) (a % 8) (bs.take k)) (a + k) (bs.drop k)

/-- Whole beats of a write become valid in their channels' rebuild bitmaps (R321). -/
def Dram.validate (d : Dram) (a n : Nat) : Dram :=
  let first := (a + 63) / 64
  let last := (a + n) / 64
  { d with sweeps := d.sweeps.map fun w =>
      if w.bitmap then
        { w with valid := ((List.range (last - first)).map (first + ·)).foldl (fun v b =>
            if d.chanOfWord (8 * b) = w.lch then ssAdd b v else v) w.valid }
      else w }

/-- A range meets RESERVE; regions begin and end at 64 KiB (R291). -/
def State.meetsReserve (s : State) (a n : Nat) : Bool :=
  decide (n ≠ 0) && (List.range ((a + n - 1) / 65536 - a / 65536 + 1)).any fun i =>
    s.regionAt (65536 * (a / 65536 + i)) = .reserve

/-- Write bytes to local memory (R292, R305, R306, R321, R322). A write into RESERVE is dropped and counted once. -/
def State.memWrite (s : State) (a : Nat) (bs : List Byte) : State :=
  if bs = [] then s
  else
    let s := if s.meetsReserve a bs.length then s.bump Reg.MEM_RSV_ACCESS else s
    let s := { s with dram := s.dram.validate a bs.length }
    State.writeWords (bs.length + 1) s a bs

/-- Write a 64-bit entry. -/
def State.memWrite64 (s : State) (a v : Nat) : State := s.memWrite a (leBytes 8 v)

/-- Store a word marked with the data as read (R304). -/
def State.markWord (s : State) (n : Nat) : State :=
  let r := s.dram.readWord n
  { s with dram := { (s.dram.putBytes (8 * n) (leBytes 8 r.data)) with
      marks := ssAdd n s.dram.marks, flips := smPut (fun _ => (0, 0)) n (0, 0) s.dram.flips } }

/-- Store a word as marked zeros (R321). -/
def State.zeroWord (s : State) (n : Nat) : State :=
  { s with dram := { (s.dram.putBytes (8 * n) (leBytes 8 0)) with
      marks := ssAdd n s.dram.marks, flips := smPut (fun _ => (0, 0)) n (0, 0) s.dram.flips } }

/-- Store a word clean with its corrected data (R308). -/
def State.cleanWord (s : State) (n : Nat) : State :=
  let r := s.dram.readWord n
  { s with dram := { (s.dram.putBytes (8 * n) (leBytes 8 r.data)) with
      flips := smPut (fun _ => (0, 0)) n (0, 0) s.dram.flips } }

/-! Replacement pages (R314 to R316). -/

/-- The lowest free replacement page that is not recorded as bad. -/
def State.freeReplacement (s : State) : Option Nat :=
  (List.range 65536).find? fun i => !(s.rcr.live.pages.any fun p => p.2 = i) && !s.rcr.live.badRepl.contains i

/-- A page takes a replacement: copied with correction, its uncorrectable words carried across as marked (R314); RSV_EMPTY is
logged once, when the last one goes (R316). -/
def State.takeReplacement (s : State) (page idx : Nat) : State :=
  let struck := s.dram.flips.filter fun p => p.1 / 8192 = page
  let s := struck.foldl (fun s p =>
    match s.dram.wordClass p.1 with
    | .ue => s.markWord p.1
    | .marked => s.markWord p.1
    | .clean => s
    | _ => s.cleanWord p.1) s
  let s := s.withyChange 3 0 page idx
  if s.replFree = 0 then s.eccLog 0x10 0 5 0xFF 0 0 else s

/-- A replacement page that suffers a UE or a sticky word is replaced in turn (R315). -/
def State.replaceAgain (s : State) (n : Nat) : State :=
  let page := n / 8192
  match s.rcr.live.pages.find? fun p => p.1 = page with
  | none => s
  | some (_, old) =>
    match s.freeReplacement with
    | none => s
    | some i => (s.withyChange 3 3 old 0).takeReplacement page i

/-! Correctable errors: write-back, watch list, sticky words (R308, R309). -/

/-- The watch list of a logical channel. -/
def Dram.watchOf (d : Dram) (l : Nat) : List Watch := smGet (fun _ => []) d.watch l

/-- Enter a word in its channel's watch list (R309). -/
def State.watchAdd (s : State) (n : Nat) : State :=
  let l := s.dram.chanOfWord n
  let w := (s.dram.watchOf l).filter fun e => e.addr ≠ n
  let full := decide (256 ≤ w.length)
  let w := (if full then w.tail else w) ++ [{ addr := n, left := 3 }]
  let s := { s with dram := { s.dram with watch := smPut (fun _ => []) l w s.dram.watch } }
  if full then s.bump Reg.ECC_WATCH_DROP else s

/-- Add 1, saturating, to a word's page entry in the sticky histogram (R309). -/
def State.histAdd (s : State) (n : Nat) : State :=
  let a := s.reg64 Reg.ECC_HIST_BASE_LO Reg.ECC_HIST_BASE_HI + 4 * (8 * n / 65536)
  let v := leNat (s.bytesAt a 4)
  s.memWrite a (leBytes 4 (min (v + 1) 0xFFFFFFFF))

/-- The region code of a word (Table 10.10). -/
def State.regionCode (s : State) (n : Nat) : Nat := (s.regionAt (8 * n)).code

/-- Write a word back clean and enter it in the watch list (R308, R309). -/
def State.writeBack (s : State) (n : Nat) : State := ((s.cleanWord n).bump Reg.ECC_WB_COUNT).watchAdd n

/-- Add to a lifetime histogram bin (R387: 32-bit and saturating). -/
def State.histBump (s : State) (bin n : Nat) : State :=
  let v := smGet (fun _ => 0) s.rcr.hist bin
  { s with rcr := { s.rcr with hist := smPut (fun _ => 0) bin (min 0xFFFFFFFF (v + n)) s.rcr.hist } }

/-- A correctable error is found at a word by a read of a class: it is counted, and a watched word becomes sticky (R308,
R309). `synd` is the syndrome. -/
def State.ceFound (s : State) (n synd cls : Nat) : State :=
  let l := s.dram.chanOfWord n
  let p := s.physOf n
  let s := (s.bump Reg.ECC_CE_COUNT).bump (Reg.MEM_CH_CE (p % 64))
  let s := if s.pwr.state < 2 then s.histBump (155 + p) 1 else s
  if (s.dram.watchOf l).any fun e => e.addr = n then
    let s := s.eccLog 0x05 (s.regionCode n) cls p synd (8 * n)
    let s := (s.bump Reg.ECC_STICKY_COUNT).histAdd n
    ((s.raise .eccSticky).writeBack n).replaceAgain n
  else s

/-- An uncorrectable error is found at a word: it is marked, counted, and its time kept for UE_BURST (R304, R312, R319). The
log entry is the caller's. -/
def State.ueFound (s : State) (n : Nat) : State :=
  let p := s.physOf n
  let s := ((s.markWord n).bump Reg.ECC_UE_COUNT).bump (Reg.MEM_CH_UE (p % 64))
  let s := s.modChan p fun c =>
    { c with ueTimes := (s.time, n / 8) :: (c.ueTimes.filter fun u => decide (s.time ≤ u.1 + usTu 10)) }
  s.replaceAgain n

/-- What a requester's read of a range does besides delivering data (R292, R304, R308, R312): counts, corrections queued for
write-back and marks. -/
def State.touch (s : State) (cls : DramClass) (a n : Nat) : State :=
  let s0 := if s.meetsReserve a n then s.bump Reg.MEM_RSV_ACCESS else s
  (wordsOf a n).foldl (fun s w =>
    if s.dram.wordClass w = .clean ∨ s.regionAt (8 * w) = .reserve then s
    else
      match s.dram.wordClass w with
      | .clean => s
      | .marked => s.bump Reg.ECC_POISON_READS
      | .ue =>
        let f := smGet (fun _ => (0, 0)) s.dram.flips w
        let sy := eccSyndrome (s.dram.marks.contains w) f.1 f.2
        ((s.ueFound w).eccLog 0x02 (s.regionCode w) (classCode cls) (s.physOf w) sy (8 * w)).raise .eccUe
      | _ =>
        let f := smGet (fun _ => (0, 0)) s.dram.flips w
        let sy := eccSyndrome (s.dram.marks.contains w) f.1 f.2
        let s := s.ceFound w sy (classCode cls)
        if s.dram.wbq.contains w || decide (64 ≤ (s.dram.wbq.filter fun x =>
            s.dram.chanOfWord x = s.dram.chanOfWord w).length) then s
        else { s with dram := { s.dram with wbq := s.dram.wbq ++ [w] } }) s0

/-- A copy of a range of local memory as it stands (R166, R174). -/
def Dram.copyOf (d : Dram) (a n : Nat) : MemCopy :=
  { base := a, size := n, fills := d.fills, cells := d.cells.filter fun c => decide (a ≤ c.1 ∧ c.1 < a + n),
    marks := d.marks.filter fun w => decide (a ≤ 8 * w ∧ 8 * w < a + n) }

/-- The number that `n` bytes of a copy hold. -/
def MemCopy.num (m : MemCopy) (a n : Nat) : Nat :=
  leNat ((List.range n).map fun i => smGet (fillByte m.fills) m.cells (a + i))

end Sys2Proof.Machine
end

