-- ==== Sys2Proof/Machine/HostOps.lean ====
section
/-! DEFINITION. Completions and halts of the rings, and what waits for them (R257 to R265, R268, R277, R278). -/

namespace Sys2Proof.Machine

/-! Status and detail codes (Table 9.5). -/

namespace Stat
/-- OK. -/
abbrev ok : Nat := 0
/-- STATE. -/
abbrev state : Nat := 1
/-- BOUNDS. -/
abbrev bounds : Nat := 2
/-- FORMAT. -/
abbrev format : Nat := 3
/-- AUTH. -/
abbrev auth : Nat := 4
/-- BUSY. -/
abbrev busy : Nat := 5
/-- INTEGRITY. -/
abbrev integrity : Nat := 6
/-- ERR_WRITE. -/
abbrev errWrite : Nat := 7
/-- ERR_FLUSH. -/
abbrev errFlush : Nat := 8
/-- INTERNAL. -/
abbrev internal : Nat := 9
end Stat

/-- A command ring (R253). -/
def isCmdRing (r : Nat) : Bool := decide (r = 128 ∨ r = 129)

/-- A DMA channel ring (R253). -/
def isDmaRing (r : Nat) : Bool := decide (r < 128)

/-- The other command ring. -/
def otherRing (r : Nat) : Nat := if r = 128 then 129 else 128

/-- The source that a ring's halt raises (R259, R327). -/
def haltSource (r : Nat) : Src := if r < 128 then .dmaErr (r / 16) else if r < 130 then .hstCmd else .netRing

/-- A ring halts with a reason (R259). -/
def State.haltRing (s : State) (r reason : Nat) : State :=
  (s.setRing r { s.ring r with halted := true, reason := reason }).raise (haltSource r)

/-- The index after a slot (R255). -/
def nextSlot (size slot : Nat) (phase : Bool) : Nat × Bool :=
  if slot + 1 < size then (slot + 1, phase) else (0, !phase)

/-- The address of the entry at the head. -/
def State.headAddr (s : State) (r : Nat) : Nat := s.ringBase r + 64 * (s.ring r).headSlot

/-- The completion record of an entry (Table 9.4). -/
def State.recordBytes (s : State) (r : Nat) (e : CurEntry) (status detail result : Nat) : List Byte :=
  leBytes 4 (status + 256 * detail + 65536 * s.modeCode) ++ slice e.bytes 4 4 ++ leBytes 4 result
    ++ leBytes 4 (result / 2 ^ 32 % 65536 + b2n (s.ring r).headPhase * 2 ^ 31)

/-- Head and tail return to slot 0, phase 1, and a ring whose ENABLE is clear is disabled (R255, R259). -/
def State.doReset (s : State) (r : Nat) : State :=
  let x := s.ring r
  s.setRing r { x with headSlot := 0, headPhase := true, tailSlot := 0, tailPhase := true, resetDue := false,
                       tries := 0, enabled := x.enabled && s.bit (ringReg r 8) 8 }

/-- The head passes the entry in progress, and a reset that waited for it is carried out (R258, R259). -/
def State.advanceHead (s : State) (r : Nat) : State :=
  let x := s.ring r
  let h := nextSlot (s.ringSize r) x.headSlot x.headPhase
  let s := s.setRing r { x with headSlot := h.1, headPhase := h.2, cur := none, tries := 0 }
  let s := s.bump (ringReg r 0x1C)
  if x.resetDue then s.doReset r else s

/-- The source of a completion with IRQ set (R260, R271, R327). -/
def doneSource (r : Nat) : Src := if r < 128 then .dmaDone (r / 16) else if r < 130 then .hstCmd else .netRing

/-- The module may issue requests on the link (R252). -/
def State.linkReady (s : State) : Bool := s.hst.bme && s.hst.width != 0 && s.domOn 1

/-- Write the completion of the entry in progress of a ring and pass on (R258, R264, R278). -/
def State.writeCompletion (s : State) (r status detail result : Nat) : State :=
  match (s.ring r).cur with
  | none => s
  | some e =>
    let s := s.hostWrite (s.headAddr r + 48) (s.recordBytes r e status detail result)
    let s := if isCmdRing r && status == Stat.state then
        (s.bump Reg.HST_STATE_REFUSED).setReg Reg.HST_LAST_REFUSED (fieldLE e.bytes 0 1 + 256 * s.modeCode)
      else s
    let s := s.advanceHead r
    let s := if isDmaRing r then s.bump (Reg.DMA_ENGe_DONE (r / 16 % 8)) else s
    let s := if bitOf (fieldLE e.bytes 0 4) 8 then s.raise (doneSource r) else s
    if !isCmdRing r && status != Stat.ok then s.haltRing r 3 else s

/-- Complete the entry in progress of a ring; while the link takes no request, its completion is held (R252). -/
def State.completeRing (s : State) (r status detail result : Nat) : State :=
  if s.linkReady then s.writeCompletion r status detail result
  else
    match (s.ring r).cur with
    | none => s
    | some e => s.setRing r { s.ring r with cur := some { e with held := some (status, detail, result) } }

/-! Waiting commands. -/

/-- Stop waiting on a command ring. -/
def State.dropWait (s : State) (r : Nat) : State :=
  { s with hst := { s.hst with waits := s.hst.waits.filter fun w => w.1 ≠ r } }

/-- What a command ring waits for. -/
def State.waitOf (s : State) (r : Nat) : Option WaitFor := (s.hst.waits.find? fun w => w.1 = r).map (·.2)

/-- A command that has started waits (R265: it holds its own ring only). -/
def State.setWait (s : State) (r : Nat) (w : WaitFor) : State :=
  let s := s.dropWait r
  { s with hst := { s.hst with waits := s.hst.waits ++ [(r, w)] } }

/-! Entries that name no command (Tables 9.5, 9.6, 9.8). -/

/-- The FENCE of a command holds it back (R260): a command fetched earlier on the other ring is in progress. -/
def State.fenced (s : State) (r : Nat) (e : CurEntry) : Bool :=
  bitOf (fieldLE e.bytes 0 4) 9 && (match (s.ring (otherRing r)).cur with
    | some o => decide (o.order < e.order)
    | none => false)

/-- The format failure of a command entry that no command of the opcode table takes: a reserved opcode, or a selector out of
its range after the reserved fields that all its selectors share. -/
def malformed? (e : CurEntry) : Option Nat :=
  let op := fieldLE e.bytes 0 1
  let sel := fieldLE e.bytes 8 1
  let rsv := bitsOf (fieldLE e.bytes 0 4) 30 10 ≠ 0 ∨ fieldLE e.bytes 9 7 ≠ 0 ∨ fieldLE e.bytes 32 16 ≠ 0
  let rest := decide (rsv ∨ (op ≠ 0x0A ∧ fieldLE e.bytes 16 16 ≠ 0))
  let limit := match op with | 0x05 => 3 | 0x06 => 2 | 0x07 => 4 | 0x0A => 3 | _ => 256
  if op = 0 ∨ 0x0A < op then some 0x01
  else if limit ≤ sel then some (if rest then 0x02 else 0x03)
  else none

/-- Complete a malformed command at the front of a command ring (R263). -/
def State.rejectMalformed (s : State) (r : Nat) : State :=
  match (s.ring r).cur with
  | none => s
  | some e =>
    match malformed? e with
    | none => s
    | some d => if s.fenced r e || e.held.isSome || (s.waitOf r).isSome then s else s.completeRing r Stat.format d 0

/-- Complete the entry in progress of a command ring, and a malformed command that its FENCE held on the other one. -/
def State.completeCmd (s : State) (r status detail result : Nat) : State :=
  let ready := s.linkReady
  let s := s.completeRing r status detail result
  if ready then s.rejectMalformed (otherRing r) else s

/-- A named ring that counts as drained: disabled or halted (R268). -/
def State.drained (s : State) (r : Nat) : Bool := !(s.ring r).enabled || (s.ring r).halted

/-- Barriers whose rings have drained complete (R268). -/
def State.settleBarriers (s : State) : State :=
  s.hst.waits.foldl (fun s w =>
    match w.2 with
    | .barrier left named =>
      if left.all fun p => p.2 == 0 || s.drained p.1 then
        (s.dropWait w.1).completeCmd w.1 Stat.ok 0 (named.filter fun r => (s.ring r).halted).length
      else s
    | _ => s) s

/-- A DMA entry has completed: barriers count it (R268). -/
def State.countBarriers (s : State) (r : Nat) : State :=
  { s with hst := { s.hst with waits := s.hst.waits.map fun w =>
      match w.2 with
      | .barrier left named => (w.1, .barrier (left.map fun p => if p.1 = r then (p.1, p.2 - 1) else p) named)
      | _ => w } }

/-- Complete the entry in progress of a ring, and what waited for that (R258, R260, R268). -/
def State.answer (s : State) (r status detail result : Nat) : State :=
  if isCmdRing r then s.completeCmd r status detail result
  else
    let ready := s.linkReady
    let s := s.completeRing r status detail result
    if ready && isDmaRing r then (s.countBarriers r).settleBarriers else s

/-- Refuse a command or a descriptor. -/
def State.refuse (s : State) (r status detail : Nat) : State := s.answer r status detail 0

/-! Commands in progress (R263, R265). -/

/-- A command of the opcode, and of the selector where it has one, stands at the front of a command ring, has not started,
and its FENCE is satisfied (R260: no command fetched earlier on the other ring is in progress). -/
def State.command? (s : State) (r op : Nat) (sel : Option (Nat × Nat)) : Option CurEntry :=
  if !isCmdRing r || (s.waitOf r).isSome then none
  else
    match (s.ring r).cur with
    | none => none
    | some e =>
      if fieldLE e.bytes 0 1 = op ∧ s.fenced r e = false ∧ e.held = none ∧ s.linkReady = true
          ∧ (match sel with | some (b, v) => fieldLE e.bytes b 1 == v | none => true) = true then some e
      else none

/-- An exclusive command runs on the other ring (R265): a LOAD_JOB_KEY that waits for H2F descriptors. -/
def State.exclusiveBusy (s : State) (r : Nat) : Bool :=
  match s.waitOf (otherRing r) with
  | some (.loadKey _) => true
  | some .identity => true
  | _ => false

/-- A range of bytes of an entry is zero. -/
def zeroBytes (e : CurEntry) (off n : Nat) : Bool := fieldLE e.bytes off n == 0

/-- The reserved bits of bytes 0 to 3 of a command are zero (Table 9.3). -/
def headClean (e : CurEntry) : Bool := bitsOf (fieldLE e.bytes 0 4) 30 10 == 0

/-- The checks that every command has in common (R263): the reserved fields of its entry, its place in the legality matrix
(R403), the conditions of step 2 beside it, and BUSY for a bound run in the modes of `bound` and for an exclusive command
(R265). -/
def State.checked (s : State) (r : Nat) (e : CurEntry) (format : Option Nat) (legal : List Mode) (exclusive : Bool)
    (f : State → State) (bound : List Mode := []) (also : Option (Nat × Nat) := none) : State :=
  if !headClean e then s.refuse r Stat.format 0x02
  else
    match format with
    | some d => s.refuse r Stat.format d
    | none =>
      if s.glb.mode ∉ legal then s.refuse r Stat.state 0
      else
        match also with
        | some (st, d) => s.refuse r st d
        | none =>
          if s.glb.mode ∈ bound ∧ s.run.isSome = true then s.refuse r Stat.busy 0x23
          else if exclusive && s.exclusiveBusy r then s.refuse r Stat.busy 0x22
          else f s

/-! Run ends (R267, R268). -/

/-- The waiters for the end of a run complete (R267, R268). -/
def State.tellRunEnd (s : State) (serial ending slot : Nat) : State :=
  s.hst.waits.foldl (fun s w =>
    match w.2 with
    | .runEnd (some n) =>
      if n = serial then (s.dropWait w.1).completeCmd w.1 Stat.ok 0 (serial + ending * 2 ^ 32 + slot * 2 ^ 34) else s
    | .abort n => if n = serial then (s.dropWait w.1).completeCmd w.1 Stat.ok 0 (serial + 2 ^ 32) else s
    | _ => s) s

/-- The waiters for the next run bound wait for this one (R268). -/
def State.tellBound (s : State) (serial : Nat) : State :=
  { s with hst := { s.hst with waits := s.hst.waits.map fun w =>
      match w.2 with
      | .runEnd none => (w.1, .runEnd (some serial))
      | _ => w } }

end Sys2Proof.Machine
end

