-- ==== Sys2Proof/Machine/Figure.lean ====
section
/-! DEFINITION. The figure decoder: the verify pass, the tile queue, rejections, halts and the release point
(02_figure_stream.md, R33 to R58, R152, R276, R429). -/

namespace Sys2Proof.Machine

/-! The figure ring (R274). -/

/-- Bytes of the figure ring. -/
def State.figSize (s : State) : Nat := 2 ^ 20 * clampNat 1024 65535 (s.reg Reg.FIG_RING_SIZE)

/-- The local address of a stream offset. -/
def State.figAddr (s : State) (off : Nat) : Nat :=
  s.reg64 Reg.FIG_RING_BASE_LO Reg.FIG_RING_BASE_HI + off % s.figSize

/-- The two contiguous parts of a stream range in the ring: address and length. -/
def State.figParts (s : State) (off n : Nat) : List (Nat × Nat) :=
  let room := s.figSize - off % s.figSize
  if n ≤ room then [(s.figAddr off, n)] else [(s.figAddr off, room), (s.figAddr (off + room), n - room)]

/-- Stream bytes as the ring delivers them. -/
def State.figBytes (s : State) (off n : Nat) : List Byte := (s.figParts off n).flatMap fun p => s.bytesAt p.1 p.2

/-- Some stream byte is delivered with poison. -/
def State.figPoison (s : State) (off n : Nat) : Bool := (s.figParts off n).any fun p => s.poisonIn p.1 p.2

/-- What a read of stream bytes does besides delivering them (R304, R308, R312). -/
def State.figTouch (s : State) (off n : Nat) : State := (s.figParts off n).foldl (fun s p => s.touch .pipe p.1 p.2) s

/-- The verify pass runs (Table 2.13). -/
def State.figRuns (s : State) : Bool :=
  s.bit Reg.FIG_CTRL 0 && decide (s.glb.mode ∈ [Mode.ready, .expose, .dryrun]) && !s.fig.halted
    && !s.accessOff Reg.FIG_CTRL

/-! Stripes and rows (R36, R56). -/

/-- First and last tile row of a stripe (R36). -/
def StripeRec.rowRange (r : StripeRec) : Int × Int := ((r.s0 / 4096 : Nat) - 2, ((r.s0 + r.len - 1) / 4096 : Nat) + 2)

/-- The tile rows of a stripe in the order of the stream (R36). -/
def StripeRec.rowList (r : StripeRec) : List Int :=
  let n := (r.s0 + r.len - 1) / 4096 - r.s0 / 4096 + 5
  let l := (List.range n).map fun (i : Nat) => r.rowRange.1 + (i : Int)
  if r.down then l.reverse else l

/-- A tile lies in a written row and column of its stripe (R36). -/
def StripeRec.written (r : StripeRec) (t : TileId) : Bool :=
  decide (0 ≤ t.tcol ∧ t.tcol ≤ 15 ∧ r.rowRange.1 + 2 ≤ t.trow ∧ t.trow ≤ r.rowRange.2 - 2)

/-- The STRIPE record accepted for a stripe. -/
def State.stripeRec (s : State) (j : Nat) : Option StripeRec := s.fig.stripes.find? fun r => r.stripe = j

/-- The highest generation accepted for a tile row (R56). -/
def State.rowGen (s : State) (j : Nat) (t : Int) : Option Nat :=
  (s.fig.rows.find? fun r => r.1 = j ∧ r.2.1 = t).map (·.2.2)

/-- A generation is not above the remembered one (R56). -/
def staleGen (g : Nat) (remembered : Option Nat) : Bool :=
  match remembered with
  | some m => decide (g ≤ m)
  | none => false

/-- Rows verified before the row from which the weavers take tiles (R49); the row of the next density pass (DEDUCED). -/
def State.rowsTaken (s : State) : Nat :=
  let ks := [s.curWork, s.nextWork].filterMap id
  match ks.findSome? fun k =>
      (k.rows.find? fun t => tileCols.any fun c => (k.tile t c).dens = .todo).map fun t => (k.stripe, t) with
  | some p => s.fig.rows.findIdx fun r => decide (r.1 = p.1 ∧ r.2.1 = p.2)
  | none => if ks = [] then 0 else s.fig.rows.length

/-! Tiles (R48, R50, R55). -/

/-- A tile of the tile queue. -/
def State.tile? (s : State) (id : TileId) : Option Tile := (s.fig.tiles.find? fun p => p.1 = id).map (·.2)

/-- The last pass of a tile has been issued (Table 2.12, FIG_TQ_LEVEL). -/
def State.lastIssued (s : State) (id : TileId) : Bool :=
  let px := match s.stripeRec id.stripe with | some r => r.written id | none => false
  s.cor.works.any fun k => k.stripe == id.stripe &&
    (if px then decide ((k.tile id.trow id.tcol).pix ≠ .todo) else decide ((k.tile id.trow id.tcol).dens ≠ .todo))

/-- The queue stalls at this tile (FIG_STALL_AT). -/
def State.stalledAt (s : State) (id : TileId) : Bool :=
  s.fig.stalled && s.field Reg.FIG_STALL_AT_0 15 0 == id.stripe
    && s.field Reg.FIG_STALL_AT_0 23 16 == unsignedOf 8 id.tcol
    && s.field Reg.FIG_STALL_AT_1 23 0 == unsignedOf 24 id.trow

/-- Store a tile; a writable tile at which the queue stalls lets it resume (R55). -/
def State.setTile (s : State) (id : TileId) (t : Tile) : State :=
  let stalled := s.fig.stalled && !(t.writable && s.stalledAt id)
  { s with fig := { s.fig with
      tiles := (id, t) :: s.fig.tiles.filter fun p => p.1 ≠ id, stalled := stalled } }

/-- A weaver needs an unwritable tile: the queue stalls there (R55). -/
def State.stallAt (s : State) (id : TileId) : State :=
  if s.stalledAt id then s
  else
    let s := s.setReg Reg.FIG_STALL_AT_0 (id.stripe % 65536 + unsignedOf 8 id.tcol * 65536)
    let s := s.setReg Reg.FIG_STALL_AT_1 (unsignedOf 24 id.trow)
    { s with fig := { s.fig with stalled := true } }

/-! Rejections (R53, R54, R58). -/

/-- The counter of a status (R53). -/
def figCounter (status : Nat) : Nat :=
  if status = Stat.auth then Reg.FIG_AUTH_COUNT
  else if status = Stat.integrity then Reg.FIG_INTEGRITY_COUNT else Reg.FIG_FORMAT_COUNT

/-- Put an entry into the FIG error log (R58, Table 2.15). -/
def State.figLog (s : State) (e : LogWords) : State :=
  if 64 ≤ s.fig.errlog.length then s.bump Reg.FIG_ERRLOG_LOST
  else { s with fig := { s.fig with errlog := s.fig.errlog ++ [e] } }

/-- Log and count a rejection (R53). -/
def State.figLogReject (s : State) (h : KfsHeader) (off : Nat) (r : FigReason) (unw halt : Bool) : State :=
  let s := s.figLog [
    BitVec.ofNat 32 (r.status + 2 ^ 8 * r.code + 2 ^ 16 * (h.type % 256) + 2 ^ 24 * h.gen + 2 ^ 28 * b2n unw
      + 2 ^ 29 * b2n halt),
    BitVec.ofNat 32 (h.stripe % 65536 + 65536 * (off / 2 ^ 32 % 65536)),
    BitVec.ofNat 32 (unsignedOf 24 h.trow + 2 ^ 24 * unsignedOf 8 h.tcol),
    BitVec.ofNat 32 off]
  let s := s.bump (figCounter r.status)
  let s := if unw then s.bump Reg.FIG_UNWRITABLE_COUNT else s
  s.raise .figErr

/-- The lowest offset still held by the verify pass: the next record, or everything delivered while it is halted (R54,
R276). -/
def Fig.verifyPoint (f : Fig) : Nat := if f.halted then f.delivered else min f.pos f.delivered

/-- The release point moves up to the lowest offset still held (R276). -/
def State.freeRing (s : State) : State :=
  let low := s.fig.held.foldl (fun a b => min a b.pos) s.fig.verifyPoint
  { s with fig := { s.fig with released := max s.fig.released low } }

/-- A structural record is rejected: the decoder halts at it (R53, R54). -/
def State.figHalt (s : State) (h : KfsHeader) (off : Nat) (r : FigReason) : State :=
  let s := s.figLogReject h off r false true
  { s with fig := { s.fig with halted := true, reason := r.code, pos := off, row := none } }.freeRing

/-- A tile loses its bin (R50, R53): it is unwritable until a replacement is verified. -/
def State.figUnwritable (s : State) (id : TileId) (h : KfsHeader) (off : Nat) (r : FigReason) : State :=
  (s.figLogReject h off r true false).setTile id { gen := h.gen, pos := off, len := 0, writable := false, counted := false }

/-- The header that a row and its directory place at a bin (R429). -/
def binHeader (id : TileId) (gen : Nat) (replace : Bool) : KfsHeader :=
  { type := 5, flags := gen + 16 * b2n replace, rsv := 0, bodyLen := 0, stripe := id.stripe, trow := id.trow,
    tcol := id.tcol, rsv2 := 0 }

/-- The decode of a held bin fails (R50): unwritable with reason REFETCH, and FIG_REFETCH for its row. -/
def State.refetchTile (s : State) (id : TileId) : State :=
  match s.tile? id with
  | none => s
  | some t =>
    if !t.writable then s
    else
      let s := s.figUnwritable id (binHeader id t.gen false) t.pos .refetch
      { s with fig := { s.fig with refetch := (id.stripe, id.trow) :: s.fig.refetch.filter (· ≠ (id.stripe, id.trow)) } }.raise
        .figRefetch

/-! The verify pass: structural records (R34 to R36, R42, R429). -/

/-- The type can stand at the next record boundary (R35, R54, R56). -/
def Fig.expects (f : Fig) (ty : Nat) (replace : Bool) : Bool :=
  match f.expect with
  | .header => ty == 1
  | .classes => ty == 2
  | .row => ty == 4
  | .body => ty == 3 || (ty == 6 && !f.ended) || (ty == 4 && replace)
  | .sync => ty == 3 || (ty == 4 && replace)

/-- The stripe that a row belongs to: the one being sent, or for a replacement row any accepted one (R36, R56). -/
def State.rowStripe (s : State) (h : KfsHeader) : Option StripeRec :=
  if h.replace then s.stripeRec h.stripe
  else match s.fig.sending with
    | some x => if x.desc.stripe = h.stripe then some x.desc else none
    | none => none

/-- BAD_HEADER of a structural record (Table 2.2, Table 2.9). -/
def State.badHeader (s : State) (h : KfsHeader) : Bool :=
  let count := match s.fig.job with | some j => j.2 | none => 512
  h.rsv != 0 || h.rsv2 != 0 || decide (32 ≤ h.flags)
  || (if h.type = 1 ∨ h.type = 2 ∨ h.type = 6 then
        h.stripe != 0xFFFF || h.trow != 0 || h.tcol != 0 || h.flags != 0
      else decide (512 ≤ h.stripe) || decide (count ≤ h.stripe) || h.tcol != 0
        || (h.type == 3 && (h.trow != 0 || h.replace))
        || (h.type == 4 && match s.rowStripe h with
            | some r => decide (h.trow < r.rowRange.1) || decide (r.rowRange.2 < h.trow)
            | none => false))

/-- ORDER of a structural record (R35, R36, R54, R56). -/
def State.badOrder (s : State) (h : KfsHeader) : Bool :=
  (s.fig.expect == .sync && (s.fig.classes.isEmpty || !s.fig.expects h.type h.replace))
  || (s.fig.ended && h.gen == 0)
  || (h.type == 4 && (match s.rowStripe h with
      | none => true
      | some _ => !h.replace && (match s.fig.sending with
          | some x => x.rows.head? != some h.trow
          | none => true)))

/-- The header reasons of a structural record, in ascending code (R429). -/
def State.headerReason (s : State) (h : KfsHeader) : Option FigReason :=
  if h.type = 0 ∨ 6 < h.type then some .badType
  else if s.fig.expect ≠ .sync ∧ s.fig.expects h.type h.replace = false then some .badType
  else if s.badHeader h then some .badHeader
  else if h.bodyLen = 0 then some .zeroLength
  else if h.type ≠ 5 ∧ h.bodyLen ≠ kfsFixedLen h.type then some .fixedLength
  else if s.badOrder h then some .order
  else none

/-- The body reasons of a structural record (Tables 2.5 and 2.6, R429). -/
def State.bodyReason (s : State) (h : KfsHeader) (b : List Byte) : Option FigReason :=
  let count := match s.fig.job with | some j => j.2 | none => 0
  let slices := match s.fig.job with | some j => j.1 | none => 0
  match h.type with
  | 1 =>
    if fieldLE b 0 2 ≠ 0x0100 then some .version
    else if fieldLE b 2 2 ≠ 0 ∨ fieldLE b 22 10 ≠ 0 ∨ fieldLE b 16 4 = 0 ∨ 2 ^ 25 < fieldLE b 16 4
        ∨ fieldLE b 20 2 = 0 ∨ 512 < fieldLE b 20 2 then some .jobRange
    else if fieldLE b 8 8 ≠ s.fig.jobId then some .jobMismatch
    else none
  | 2 => if (List.range 16).any fun c => fieldLE b (8 * c + 4) 4 ≠ 0 then some .jobRange else none
  | 3 =>
    let s0 := fieldLE b 4 4
    let l := fieldLE b 8 4
    if 1 < fieldLE b 0 1 ∨ fieldLE b 1 3 ≠ 0 ∨ 2 ^ 25 ≤ s0 ∨ l = 0 ∨ 2 ^ 25 < l ∨ slices < s0 + l
        ∨ fieldLE b 12 4 < 5 ∨ 8196 < fieldLE b 12 4
        ∨ fieldLE b 12 4 ≠ (s0 + l - 1) / 4096 - s0 / 4096 + 5 then some .jobRange
    else none
  | 6 => if fieldLE b 0 2 ≠ count ∨ fieldLE b 2 14 ≠ 0 then some .jobRange else none
  | _ => none

/-- Count a stale record (R56). -/
def State.figStale (s : State) : State := s.bump Reg.FIG_STALE_COUNT

/-- A STRIPE record passes its checks (R42, R56): a stale one is discarded, and its rows with it. -/
def State.takeStripe (s : State) (h : KfsHeader) (b : List Byte) : State :=
  let r : StripeRec := { stripe := h.stripe, gen := h.gen, down := fieldLE b 0 1 = 1, s0 := fieldLE b 4 4, len := fieldLE b 8 4 }
  let stale := staleGen h.gen ((s.stripeRec h.stripe).map (·.gen))
  let f := { s.fig with expect := .row, sending := some { desc := r, rows := r.rowList, stale := stale } }
  if stale then { s with fig := f }.figStale
  else
    let known := s.fig.stripes.any fun x => x.stripe == h.stripe
    { s with fig := { f with
        curStripe := h.stripe,
        stripes := if known then s.fig.stripes.map fun x => if x.stripe = h.stripe then r else x
          else s.fig.stripes ++ [r] } }

/-- The state after the rows of a stripe or a replacement row (R35, R56). -/
def Fig.afterRow (f : Fig) (replace : Bool) : Fig :=
  if replace then { f with expect := if f.expect = .sync then .body else f.expect }
  else
    let x := f.sending.map fun x => { x with rows := x.rows.tail }
    let fin := match x with | some x => x.rows.isEmpty | none => true
    { f with sending := if fin then none else x, expect := if fin then .body else .row }

/-- The row has been taken whole: a replacement row settles FIG_REFETCH for it (R51). -/
def State.rowDone (s : State) (c : RowCtx) : State :=
  { s with fig := { s.fig with
      row := none, refetch := if c.replace then s.fig.refetch.filter (· ≠ (c.stripe, c.trow)) else s.fig.refetch } }

/-- A TILE_ROW record passes its checks (R36, R56, R62, R152). -/
def State.takeRow (s : State) (h : KfsHeader) (off : Nat) (b : List Byte) : State :=
  let lens := (List.range 20).map fun i => fieldLE b (4 * i) 4
  let start := off + 112
  let stop := start + lens.sum
  let stale := staleGen h.gen (s.rowGen h.stripe h.trow)
    || (!h.replace && (match s.fig.sending with | some x => x.stale | none => false))
  let s := { s with fig := s.fig.afterRow h.replace }
  if stale then { s with fig := { s.fig with pos := stop } }.figStale
  else
    let f : Fig := s.fig
    let known := f.rows.any fun r => r.1 == h.stripe && r.2.1 == h.trow
    let f := { f with
      rows := if known then f.rows.map fun (r : Nat × Int × Nat) => if r.1 = h.stripe ∧ r.2.1 = h.trow then (r.1, r.2.1, h.gen) else r
        else f.rows ++ [(h.stripe, h.trow, h.gen)],
      held := if h.replace then f.held
        else f.held.filter fun x => !(x.tile.stripe == h.stripe && x.tile.trow == h.trow && decide (x.gen < h.gen)),
      tiles := if h.replace then f.tiles
        else f.tiles.filter fun p => !(p.1.stripe == h.stripe && p.1.trow == h.trow) }
    let bins := (lens.zipIdx.filter fun p => p.1 ≠ 0).map fun p => ((p.2 : Int) - 2, p.1)
    let c : RowCtx := { stripe := h.stripe, trow := h.trow, gen := h.gen, replace := h.replace, bins := bins, rowEnd := stop }
    let s := { s with fig := { f with pos := start, row := some c } }
    let s := if h.replace then s
      else (lens.zipIdx.filter fun p => p.1 = 0).foldl (fun s p =>
        s.setTile { stripe := h.stripe, trow := h.trow, tcol := (p.2 : Int) - 2 }
          { gen := h.gen, pos := 0, len := 0, writable := true, counted := false }) s
    if bins = [] then s.rowDone c else s

/-- A structural record passes every check. -/
def State.takeStruct (s : State) (h : KfsHeader) (off : Nat) (b : List Byte) : State :=
  let s := { s with fig := { s.fig with pos := off + 32 + h.bodyLen } }
  match h.type with
  | 1 => { s with fig := { s.fig with expect := .classes, job := some (fieldLE b 16 4, fieldLE b 20 2) } }
  | 2 => { s with fig := { s.fig with
      expect := .body, classes := (List.range 16).map fun c => fieldLE b (8 * c) 4 } }
  | 3 => s.takeStripe h b
  | 4 => s.takeRow h off b
  | _ => { s with fig := { s.fig with ended := true } }

/-- The verify pass takes the record at FIG_POS, which is not a bin (R48, R49, R429). -/
def State.verifyStruct (s : State) : State :=
  let off := s.fig.pos
  if s.fig.delivered < off + 16 then s
  else
    let h := kfsHeader (s.figBytes off 16)
    match s.fig.key with
    | none => s.figHalt h off .noKey
    | some key =>
      match s.headerReason h with
      | some r => s.figHalt h off r
      | none =>
        let wait := h.type == 4 && !h.replace && decide (s.rowsTaken + s.field Reg.FIG_CTRL 31 16 < s.fig.rows.length)
        if wait || decide (s.fig.delivered < off + 32 + h.bodyLen) then s
        else
          let all := s.figBytes off (32 + h.bodyLen)
          let bad := s.figPoison off (32 + h.bodyLen)
          let s := s.figTouch off (32 + h.bodyLen)
          let body := slice all 16 h.bodyLen
          let opened := gcmOpen key (kfsNonce s.fig.salt h) (slice all 0 (16 + h.bodyLen)) []
            (slice all (16 + h.bodyLen) 16)
          if bad || opened.isNone then s.figHalt h off .tag
          else
            match s.bodyReason h body with
            | some r => s.figHalt h off r
            | none => (s.takeStruct h off body).freeRing

/-- VERIFY_JOB_HEADER and its like: the record at FIG_POS is taken when it is of the row's type, or when that type is expected
there (R35). -/
def State.verifyAs (s : State) (ty : Nat) : State :=
  if !s.figRuns || s.fig.row.isSome || decide (s.fig.delivered < s.fig.pos + 16) then s
  else
    let h := kfsHeader (s.figBytes s.fig.pos 16)
    if h.type = ty ∨ s.fig.expects ty h.replace = true then s.verifyStruct else s

/-! The verify pass: bins (R48, R52, R429). -/

/-- What is known of a bin at its position: a reason, or the length of its body. -/
def State.binReason (s : State) (c : RowCtx) (col : Int) (blen off : Nat) : Option FigReason :=
  if blen < 41 then some .binShort
  else
    let h := kfsHeader (s.figBytes off 16)
    if h.type ≠ 5 ∨ h.stripe ≠ c.stripe ∨ h.trow ≠ c.trow ∨ h.tcol ≠ col ∨ h.gen ≠ c.gen ∨ h.replace ≠ c.replace then
      some .binPosition
    else if h.rsv ≠ 0 ∨ h.rsv2 ≠ 0 ∨ 32 ≤ h.flags then some .badHeader
    else if h.bodyLen = 0 then some .zeroLength
    else if h.bodyLen < 9 then some .binShort
    else if c.rowEnd - off < h.bodyLen + 32 then some .binOverrun
    else if h.bodyLen + 32 ≠ blen ∨ 2 ^ 32 - 33 < h.bodyLen then some .binLength
    else
      let all := s.figBytes off blen
      let opened := match s.fig.key with
        | some key => gcmOpen key (kfsNonce s.fig.salt h) (slice all 0 16) (slice all 16 h.bodyLen)
            (slice all (16 + h.bodyLen) 16)
        | none => none
      match opened with
      | none => some .tag
      | some plain =>
        if s.figPoison off blen then some .tag
        else
          match decodeBin (fun i => s.fig.classes.getD i 0 ≠ 0) plain with
          | .error r => some r
          | .ok _ => none

/-- The next bin of the row is taken (R48, R55, R56). -/
def State.takeBin (s : State) (c : RowCtx) (col : Int) (blen : Nat) (rest : List (Int × Nat)) : State :=
  let off := s.fig.pos
  let id : TileId := { stripe := c.stripe, trow := c.trow, tcol := col }
  let reason := s.binReason c col blen off
  let h := if blen < 41 then binHeader id c.gen c.replace else kfsHeader (s.figBytes off 16)
  let need := !c.replace || s.fig.refetch.contains (c.stripe, c.trow)
    || (match s.tile? id with | some t => !t.writable | none => false)
  let s := s.figTouch off blen
  let c' := { c with bins := rest }
  let s := { s with fig := { s.fig with pos := off + blen, row := some c' } }
  let s := match reason with
    | some r => if need then s.figUnwritable id h off r else s.figLogReject h off r false false
    | none =>
      if need then
        let held : List HeldBin := if c.replace then s.fig.held.filter fun x => x.tile ≠ id else s.fig.held
        let issued := s.lastIssued id
        let bin : HeldBin := { tile := id, gen := c.gen, pos := off, len := blen }
        let s := { s with fig := { s.fig with held := held ++ [bin] } }
        s.setTile id { gen := c.gen, pos := off, len := blen, writable := true, counted := !issued }
      else s.figStale
  (if rest = [] then s.rowDone c' else s).freeRing

/-- The verify pass takes the next bin of the row, once all of it is delivered (R49). -/
def State.verifyBin (s : State) : State :=
  if !s.figRuns then s
  else
    match s.fig.row with
    | none => if s.fig.delivered < s.fig.pos + 16 then s
        else if (kfsHeader (s.figBytes s.fig.pos 16)).type = 5 then s.verifyStruct else s
    | some c =>
      match c.bins with
      | [] => s.rowDone c
      | (col, blen) :: rest => if s.fig.delivered < s.fig.pos + blen then s else s.takeBin c col blen rest

/-! Meanings. -/

/-- VERIFY_JOB_HEADER (R35). -/
def execVerifyJobHeader (s : State) : Host.Outcome State Fault Refusal := finish s (s.verifyAs 1)

/-- VERIFY_CLASS_TABLE (R35). -/
def execVerifyClassTable (s : State) : Host.Outcome State Fault Refusal := finish s (s.verifyAs 2)

/-- VERIFY_STRIPE (R42). -/
def execVerifyStripe (s : State) : Host.Outcome State Fault Refusal := finish s (s.verifyAs 3)

/-- VERIFY_TILE_ROW (R36). -/
def execVerifyTileRow (s : State) : Host.Outcome State Fault Refusal := finish s (s.verifyAs 4)

/-- VERIFY_TILE_BIN (R48). -/
def execVerifyTileBin (s : State) : Host.Outcome State Fault Refusal := finish s s.verifyBin

/-- VERIFY_JOB_END (R35). -/
def execVerifyJobEnd (s : State) : Host.Outcome State Fault Refusal := finish s (s.verifyAs 6)

/-- FIG_ERRLOG_POP (R58). -/
def execFigErrlogPop (v : Word) (s : State) : Host.Outcome State Fault Refusal :=
  finish s (s.command Reg.FIG_ERRLOG_POP v.toNat fun s =>
    if v.getLsbD 0 then { s with fig := { s.fig with errlog := s.fig.errlog.tail } } else s)

end Sys2Proof.Machine
end

