-- ==== Sys2Proof/Machine/Works.lean ====
section
/-! DEFINITION. The works of the data path: which stripes are woven and corrected, their density slots and cells, binding,
invalidation, release and abandonment (03_weavers.md R76 to R80, 04_dose_correction.md R99 to R119, 05_staging.md R124, R143,
R146 to R152). -/

namespace Sys2Proof.Machine

/-- A block of the data path runs: its ENABLE, and a mode of READY, EXPOSE or DRYRUN (Tables 3.7, 4.8, 5.8). -/
def State.pathRuns (s : State) (ctrl : Nat) : Bool :=
  s.bit ctrl 0 && decide (s.glb.mode ∈ [Mode.ready, .expose, .dryrun]) && !s.accessOff ctrl

/-- The works that are woven and corrected: the current stripe's, then the next stripe's (R112). -/
def State.liveWorks (s : State) : List Work := [s.curWork, s.nextWork].filterMap id

/-- A work is woven and corrected. -/
def State.isLive (s : State) (id : Nat) : Bool := s.cor.cur == some id || s.cor.next == some id

/-! Error logs (R123, R155: the caller writes the event with the lower reason last). -/

/-- Write the STG error log (Table 5.11). -/
def State.stgLog (s : State) (reason status stripe w : Nat) : State :=
  (s.bump Reg.STG_ERR_COUNT).setRegs (Reg.STG_ERR_LOG_0 0) [reason + 256 * status, stripe % 65536, w % 2 ^ 25]

/-- Write the COR error log and raise COR_ERR (Table 4.11). -/
def State.corLog (s : State) (reason : Nat) (set halt : Bool) (stripe slice : Nat) : State :=
  ((s.bump Reg.COR_ERR_COUNT).setRegs (Reg.COR_ERR_LOG_0 0)
    [reason + 256 * b2n set + 512 * b2n halt, stripe % 65536, slice % 2 ^ 25]).raise .corErr

/-! Staging indices (R124, R139, R143). -/

/-- The work that holds a staging index, and the writing index. -/
def State.workOfN (s : State) (n : Nat) : Option (Work × Nat) :=
  s.cor.works.findSome? fun k => match k.nb with
    | some nb => if nb + k.wStart ≤ n ∧ n < nb + k.len then some (k, n - nb) else none
    | none => none

/-- The slice of a writing index has been released (R124, R143). -/
def State.releasedSlice (s : State) (k : Work) (w : Nat) : Bool :=
  match k.nb with | some nb => decide (nb + w < s.stg.released) | none => false

/-- A slice is drained (R139): frame 130,944 + w has been assembled, or its run has ended. -/
def State.drainedSlice (s : State) (k : Work) (w : Nat) : Bool :=
  if s.cor.cur = some k.id then
    match s.run with
    | some r => decide (130944 + (w - k.wStart) < r.launched)
    | none => true
  else !(s.cor.next == some k.id)

/-- The exposure point of a work: its run's, or the one its run ended at (R142). -/
def State.exposureOf (s : State) (k : Work) : Option Int := if s.cor.cur = some k.id then s.exposure else k.lastE

/-- Return the chunks that a test does not keep to the pool (R135): their chunk map entries are cleared. -/
def State.freeChunks (s : State) (keep : Nat → Bool) : State :=
  let gone := s.stg.chunks.filter fun c => !keep c.2
  let s := { s with stg := { s.stg with chunks := s.stg.chunks.filter fun c => keep c.2 } }
  gone.foldl (fun s c => s.memWrite64 (s.reg64 Reg.STG_CMAP_BASE_LO Reg.STG_CMAP_BASE_HI + 8 * c.1) 0) s

/-! Releasing bins (R51, R88, R152). -/

/-- A sample is void (R88). -/
def State.voidSample (s : State) (id : Nat) : State :=
  ({ s with wvr := { s.wvr with samples := s.wvr.samples.filter fun x => x.id ≠ id } } : State).bump Reg.WVR_RW_VOID

/-- Release the held bins that a test does not keep; samples of a bin that is gone and has not begun its re-weave are void. -/
def State.keepBins (s : State) (keep : HeldBin → Bool) : State :=
  let held := s.fig.held.filter keep
  let s : State := { s with fig := { s.fig with held := held } }
  let gone := s.wvr.samples.filter fun x => x.rw.isNone && !(held.any fun b => b.tile == x.tile && b.pos == x.pos)
  (gone.foldl (fun s x => s.voidSample x.id) s).freeRing

/-- Every slice of the rows within two of row t has been released, in every work of the stripe (R152). -/
def State.rowReleased (s : State) (stripe : Nat) (t : Int) : Bool :=
  let ks := s.cor.works.filter fun k => k.stripe == stripe
  !ks.isEmpty && ks.all fun k => k.nb.isSome && [-2, -1, 0, 1, 2].all fun (d : Int) =>
    match k.span (t + d) with
    | some (_, b) => s.releasedSlice k b
    | none => true

/-- R152: drop the bins whose rows have been released. -/
def State.dropBins (s : State) : State := s.keepBins fun b => !s.rowReleased b.tile.stripe b.tile.trow

/-- A work whose slices are all released and that is neither current nor next is done with. -/
def State.sweepWorks (s : State) : State :=
  let works := s.cor.works.filter fun k => s.isLive k.id || !(s.releasedSlice k (k.len - 1))
  { s with cor := { s.cor with works := works } }

/-- Release every slice below a staging index, oldest first (R143). -/
def State.releaseTo (s : State) (n : Nat) : State :=
  if n ≤ s.stg.released then s
  else
    let s := { s with stg := { s.stg with
      released := n, slices := s.stg.slices.filter fun p => decide (n ≤ p.1) } }
    ((s.freeChunks fun m => decide (n ≤ m)).dropBins).sweepWorks

/-! Density slots and cells (R99, R100, R105). -/

/-- COR_DMAP_ROWS. -/
def State.dmapRows (s : State) : Nat := atLeast1 (s.reg Reg.COR_DMAP_ROWS)

/-- The density slots that no work holds. -/
def State.freeSlots (s : State) : List Nat := [0, 1].filter fun i => !(s.cor.works.any fun k => k.slot == some i)

/-- u_base of a stripe (R105). -/
def uBase (stripe : Nat) : Int := floorDiv (65280 * (stripe : Int) - 8192) 200

/-- The slot row of a cell row. -/
def State.slotRow (s : State) (v : Int) : Nat := (v % (s.dmapRows : Int)).toNat

/-- The slot holds a cell row. -/
def State.rowHeld (s : State) (k : Work) (v : Int) : Bool := k.cellRows.any fun p => p.1 == s.slotRow v && p.2 == v

/-- The address of a slot row. -/
def State.rowAddr (s : State) (k : Work) (v : Int) : Nat :=
  s.reg64 Reg.COR_DMAP_BASE_LO Reg.COR_DMAP_BASE_HI + (k.slot.getD 0 * s.dmapRows + s.slotRow v) * 4096

/-- The address of a cell's entry. -/
def State.cellAddr (s : State) (k : Work) (u v : Int) : Nat := s.rowAddr k v + 8 * (u - uBase k.stripe).toNat

/-- A cell column lies in the stripe's map. -/
def inMap (stripe : Nat) (u : Int) : Bool := decide (uBase stripe ≤ u ∧ u ≤ uBase stripe + 410)

/-- The stored entry of a cell; zero where the map does not hold it (R100). -/
def State.cellEntry (s : State) (k : Work) (u v : Int) : Nat :=
  if k.slot.isSome && inMap k.stripe u && s.rowHeld k v then leNat (s.bytesAt (s.cellAddr k u v) 8) else 0

/-- D of a cell. -/
def State.cellD (s : State) (k : Work) (u v : Int) : Nat := cellDensity (s.cellEntry k u v % 2 ^ 32)

/-- Cells of the job grid from `lo` on, `n` of them. -/
def intsFrom (lo : Int) (n : Nat) : List Int := (List.range n).map fun (i : Nat) => lo + (i : Int)

/-- The 1 µm cells that meet the job pixels `p` to `p + n - 1`. -/
def cellsOf (p : Int) (n : Nat) : List Int :=
  let a := floorDiv p 200
  intsFrom a (floorDiv (p + n - 1) 200 - a + 1).toNat

/-- The cell columns of a tile. -/
def tileUs (stripe : Nat) (c : Int) : List Int := cellsOf (tileOriginX stripe c) 4096
/-- The cell rows of a tile row. -/
def tileVs (t : Int) : List Int := cellsOf (4096 * t) 4096

/-- Every cell of the 65 by 65 around a cell is complete (R99, R101). -/
def Work.windowComplete (k : Work) (u v : Int) : Bool :=
  let c0 := floorDiv (200 * (u - 32) - tileOriginX k.stripe 0) 4096
  let c1 := floorDiv (200 * (u + 32) + 199 - tileOriginX k.stripe 0) 4096
  let t0 := floorDiv (200 * (v - 32)) 4096
  let t1 := floorDiv (200 * (v + 32) + 199) 4096
  (intsFrom t0 (t1 - t0 + 1).toNat).all fun t => !k.rows.contains t ||
    (intsFrom c0 (c1 - c0 + 1).toNat).all fun c => !tileCols.contains c ||
      let w := k.tile t c
      w.dens == .done || match w.only with
        | some l => !l.any fun p => decide (u - 32 ≤ p.1 ∧ p.1 ≤ u + 32 ∧ v - 32 ≤ p.2 ∧ p.2 ≤ v + 32)
        | none => false

/-- A slot takes up a cell row, cleared (R105). -/
def State.claimRow (s : State) (id : Nat) (v : Int) : State :=
  match s.workAt id with
  | none => s
  | some k =>
    let s := s.memWrite (s.rowAddr k v) (List.replicate 4096 0)
    s.modWork id fun k => { k with cellRows := (s.slotRow v, v) :: k.cellRows.filter fun p => p.1 ≠ s.slotRow v }

/-- R105: a slot is assigned when the stripe's first fragment arrives. -/
def State.takeSlot (s : State) (id : Nat) : State :=
  match s.workAt id with
  | some k => if k.slot.isSome then s else s.modWork id fun k => { k with slot := s.freeSlots.head? }
  | none => s

/-- Rebuild cell rows (R106, R118): they are cleared, and the density passes of every tile within two rows of row t are issued
again for those rows. -/
def State.rebuildRows (s : State) (id : Nat) (t : Int) (vs : List Int) : State :=
  let s := vs.foldl (fun s v => (s.claimRow id v).bump Reg.COR_DMAP_REDO) s
  s.modWork id fun k =>
    ((k.rows.filter fun r => decide (t - 2 ≤ r ∧ r ≤ t + 2)).flatMap fun r => tileCols.map fun c => (r, c)).foldl
      (fun k p =>
        let w := k.tile p.1 p.2
        let cells := (tileVs p.1).flatMap fun v =>
          if vs.contains v then (tileUs k.stripe p.2).map fun u => (u, v) else []
        if w.dens = .done then k.modTile p.1 p.2 fun w => { w with dens := .todo, only := some cells }
        else match w.only with
          | some l => k.modTile p.1 p.2 fun w => { w with only := some (l ++ cells.filter fun x => !l.contains x) }
          | none => k) k

/-- A density map entry is poisoned (R118): its row is rebuilt. -/
def State.dmapPoison (s : State) (id : Nat) (t v : Int) : State :=
  match s.workAt id with
  | none => s
  | some k => (s.rebuildRows id t [v]).corLog 0x03 (k.set.getD false) false k.stripe
      (clampInt k.s0 ((k.s0 + k.len - 1 : Nat) : Int) (200 * v)).toNat

/-- Add one fragment to its cell (R99, R105: F saturates; B is to be computed afresh). -/
def State.addCell (s : State) (id : Nat) (u v : Int) (f : Nat) : State :=
  match s.workAt id with
  | none => s
  | some k =>
    let s := if s.rowHeld k v then s else s.claimRow id v
    match s.workAt id with
    | none => s
    | some k => s.memWrite64 (s.cellAddr k u v) (min (s.cellEntry k u v % 2 ^ 32 + f) 0xFFFFFFFF)

/-- Add the fragment records of a completed density pass in one step (R74, R99). -/
def State.addFragments (s : State) (id : Nat) (t c : Int) (words : List Nat) (only : Option (List (Int × Int))) : State :=
  let s := s.takeSlot id
  match s.workAt id with
  | none => s
  | some k =>
    let u0 := floorDiv (tileOriginX k.stripe c) 200
    let v0 := floorDiv (4096 * t) 200
    let bad := (tileVs t).find? fun v => s.rowHeld k v && (tileUs k.stripe c).any fun u => s.poisonIn (s.cellAddr k u v) 8
    match bad with
    | some v => s.dmapPoison id t v
    | none => words.foldl (fun s w =>
        let u := u0 + (bitsOf w 36 32 : Nat)
        let v := v0 + (bitsOf w 41 37 : Nat)
        let take := match only with | some l => l.contains (u, v) | none => true
        if take then s.addCell id u v (w % 2 ^ 32) else s) s

/-- B of a cell that can be computed and is not, is computed and stored (R101). -/
def State.fillB (s : State) (id : Nat) (us vs : List Int) : State :=
  vs.foldl (fun s v => us.foldl (fun s u =>
    match s.workAt id with
    | none => s
    | some k =>
      match k.set with
      | none => s
      | some b =>
        let near := fun (x : Int) => intsFrom (x - 32) 65
        if !inMap k.stripe u || !s.rowHeld k v || bitOf (s.cellEntry k u v) 48
            || !k.windowComplete u v then s
        else
          match (near v).find? fun y => s.rowHeld k y && (near u).any fun x =>
              inMap k.stripe x && s.poisonIn (s.cellAddr k x y) 8 with
          | some y => s.dmapPoison id (floorDiv (200 * y) 4096) y
          | none => s.memWrite64 (s.cellAddr k u v)
              (s.cellEntry k u v % 2 ^ 32 + 2 ^ 32 * backscatterCell (s.page b 0) (s.cellD k) u v + 2 ^ 48)) s) s

/-- The cells whose B may have become computable around a tile. -/
def State.fillAround (s : State) (id : Nat) (t c : Int) : State :=
  match s.workAt id with
  | none => s
  | some k =>
    let us := tileUs k.stripe c
    let vs := tileVs t
    s.fillB id (intsFrom (us.headD 0 - 32) (us.length + 64)) (intsFrom (vs.headD 0 - 32) (vs.length + 64))

/-! Invalidation (R146). -/

/-- Invalidate a slice group and have it regenerated (R146, R147): what has been corrected of it stops being complete. A group
of which nothing has been corrected, or all has been released, is left (R150). -/
def State.invalidateGroup (s : State) (id : Nat) (t : Int) (reason status : Nat) : State :=
  match s.workAt id with
  | none => s
  | some k =>
    match k.span t with
    | none => s
    | some (a, b) =>
      let g := k.group t
      if !s.isLive id || s.releasedSlice k b || (g.corrected == 0 && !(s.cor.slices.any fun x =>
          x.work == id && decide (a ≤ x.w ∧ x.w ≤ b))) then s
      else
        let nb := k.nb.getD 0
        let mine := fun (n : Nat) => decide (nb + a ≤ n ∧ n ≤ nb + b)
        let s := { s with
          stg := { s.stg with
            slices := s.stg.slices.filter fun p => !(mine p.1 && p.2.work == id),
            fp := s.stg.fp.filter fun p => !(mine p.2) || s.drainedSlice k (p.2 - nb),
            wait := s.stg.wait.filter fun x => !(x.2.1 == id && decide (a ≤ x.2.2 ∧ x.2.2 ≤ b)) },
          cor := { s.cor with slices := s.cor.slices.filter fun x => !(x.work == id && decide (a ≤ x.w ∧ x.w ≤ b)) } }
        let s := s.freeChunks fun n => !(mine n)
        let s := s.modWork id fun k =>
          let k := k.modGroup t fun g => { g with corrected := 0, coded := 0, prev := [], regen := true, ev := (0, 0) }
          (List.range 16).foldl (fun k (c : Nat) => k.modTile t (c : Int) fun w =>
            let zero := match w.out with | some o => o.figs.isEmpty && o.errs.isEmpty | none => false
            if w.pix = .done ∧ zero = false then { w with pix := .todo, regen := true, out := none } else w) k
        s.stgLog reason status k.stripe a

/-- Invalidate slice groups for one cause: STG_REGEN is raised when the first of them is (R146). -/
def State.invalidateRows (s : State) (id : Nat) (ts : List Int) (reason status : Nat) : State :=
  let s' := ts.foldl (fun s t => s.invalidateGroup id t reason status) s
  if s'.cor.works ≠ s.cor.works then s'.raise .stgRegen else s'

/-- Invalidate every corrected slice of a work (R114). -/
def State.invalidateAll (s : State) (id : Nat) : State :=
  match s.workAt id with
  | some k => s.invalidateRows id k.rows 0x07 0
  | none => s

/-! Abandonment (R80, R116, R122). -/

/-- Passes in flight and samples of the works that a test does not keep are abandoned (R80). -/
def State.keepPasses (s : State) (keep : Nat → Bool) : State :=
  { s with wvr := { s.wvr with
      weavers := s.wvr.weavers.map fun w => match w.pass with
        | some p => if keep p.work then w else { w with pass := none }
        | none => w,
      samples := s.wvr.samples.filter fun x => keep x.work } }

/-- Abandon a work: its passes, its corrected output, its slices and its density slot. -/
def State.abandonWork (s : State) (id : Nat) : State :=
  match s.workAt id with
  | none => s
  | some k =>
    let s := s.keepPasses fun i => i ≠ id
    let mine := fun (n : Nat) => match k.nb with
      | some nb => decide (nb + k.wStart ≤ n ∧ n < nb + k.len)
      | none => false
    let s := { s with
      stg := { s.stg with slices := s.stg.slices.filter fun p => p.2.work ≠ id, fp := s.stg.fp.filter fun p => !mine p.2,
                          wait := s.stg.wait.filter fun x => x.2.1 ≠ id }
      cor := { s.cor with
        slices := s.cor.slices.filter fun x => x.work ≠ id, works := s.cor.works.filter fun k => k.id ≠ id,
        cur := if s.cor.cur = some id then none else s.cor.cur, next := if s.cor.next = some id then none else s.cor.next } }
    s.freeChunks fun n => !mine n

/-- The next stripe's work is abandoned (R116, R152): its bins are released too, where no other work needs them. -/
def State.abandonNext (s : State) : State :=
  match s.nextWork with
  | none => s
  | some k =>
    let s := { (s.abandonWork k.id) with
      cor := { (s.abandonWork k.id).cor with waitBind := false, bindFailed := none } }
    if s.cor.works.any fun x => x.stripe == k.stripe then s
    else
      let s := { s with fig := { s.fig with
        stalled := s.fig.stalled && !(s.field Reg.FIG_STALL_AT_0 15 0 == k.stripe),
        tiles := s.fig.tiles.map fun (p : TileId × Tile) =>
          if p.1.stripe = k.stripe then (p.1, { p.2 with counted := false }) else p } }
      s.keepBins fun b => b.tile.stripe ≠ k.stripe

/-- The whole data path is reset (R80, R122, R154): passes, samples, corrections, slots, bindings, staging and footprint. -/
def State.resetPath (s : State) : State :=
  let s := s.keepPasses fun _ => false
  let s := s.freeChunks fun _ => false
  let hinted := s.stg.hint
  let s := { s with
    wvr := { s.wvr with wtLock := false, samples := [] },
    cor := { s.cor with works := [], cur := none, next := none, lastBound := none, ramp := none, halt := none,
                        waitBind := false, bindActive := false, bindFailed := none, slices := [], epoch := 0, evRows := [] },
    stg := { s.stg with slices := [], chunks := [], cursor := 0, wait := none, fp := [], window := [], released := 0,
                        doneTimes := [], tickTimes := [], hint := false, sizes := [] } }
  if hinted then ((s.setReg Reg.STG_HINT 1024).setReg Reg.TRK_SPEED_HINT 1024).raise .stgHint else s

/-! The next stripe (R112). -/

/-- A work on a stripe from its record. -/
def StripeRec.work (r : StripeRec) (id wStart : Nat) : Work :=
  { id := id, stripe := r.stripe, gen := r.gen, down := r.down, s0 := r.s0, len := r.len, wStart := wStart }

/-- Begin a work. -/
def State.newWork (s : State) (r : StripeRec) (wStart : Nat) : State × Nat :=
  let id := s.cor.workN
  ({ s with cor := { s.cor with works := s.cor.works ++ [r.work id wStart], workN := id + 1 } }, id)

/-- The next stripe's work stands for the stripe that R112 names, in its latest generation. -/
def State.ensureNext (s : State) : State :=
  match s.nextStripe with
  | none => s
  | some r =>
    let same := match s.nextWork with | some k => k.stripe == r.stripe && k.gen == r.gen | none => false
    if same then s
    else
      let s := match s.cor.next with | some id => s.abandonWork id | none => s
      let (s, id) := s.newWork r 0
      { s with cor := { s.cor with next := some id, waitBind := false, bindFailed := none } }

/-! Binding (R110, R113 to R117). -/

/-- The RAMP values of a correction page (R110). -/
def pageRamps (pg : Page) : List Nat := (List.range 256).map (pageRamp pg)

/-- The correction page has a reserved field set: the bits of its registers that no field takes (Tables 4.2, 4.6). -/
def State.pageReserved (s : State) (b : Bool) : Bool :=
  (List.range 1024).any fun (i : Nat) =>
    let off := setBase b + 4 * i
    match Reg.row? off with
    | some r => bitsBeyond (s.reg off) r.bits ≠ 0
    | none => s.reg off ≠ 0

/-- The fog map lies wholly in the correction maps region. -/
def State.fogOutside (s : State) (pg : Page) : Bool :=
  let a := pageFogBase pg
  let n := 2 * (pageFogDim pg).1 * (pageFogDim pg).2
  s.regionAt a != .corrmap || s.regionAt (a + n - 1) != .corrmap

/-- Conditions of Table 4.4 other than the ramp and CLASS_ID. -/
def State.pageBad (s : State) (b : Bool) : Bool :=
  let pg := s.page b 0
  let (nu, nv) := pageFogDim pg
  s.pageReserved b || decide (4 < pageNGauss pg) || decide (0xC000 < pageEta pg) || decide (pageFMax pg < 0x10000)
    || (bitOf (pg 0x118) 0 && (List.range 256).any fun (i : Nat) => decide (65536 < bitsOf (pg (0x800 + 4 * i)) 16 0))
    || (bitOf (pg 0x108) 0 && (nu == 0 || nv == 0 || decide (2048 < nu) || decide (2048 < nv) || s.fogOutside pg))

/-- The ramp condition of Table 4.4. -/
def State.rampBad (s : State) (b : Bool) : Bool :=
  match s.cor.ramp with | some l => pageRamps (s.page b 0) != l | none => false

/-- The staging base of a binding (R124). -/
def State.nextBase (s : State) (id : Nat) : Nat :=
  s.cor.works.foldl (fun a k => match k.nb with
    | some nb => if k.id = id ∨ nb + k.len ≤ s.stg.released then a else max a (nb + k.len)
    | none => a) 0

/-- Bind a work to a set (R113, R110, R124). -/
def State.bindTo (s : State) (id : Nat) (b : Bool) : State :=
  match s.workAt id with
  | none => s
  | some k =>
    let nb := k.nb.getD (s.nextBase id)
    let s := s.modWork id fun k => { k with set := some b, nb := some nb }
    let s := { s with
      cor := { s.cor with waitBind := false, bindActive := false, bindFailed := none,
                          ramp := some (s.cor.ramp.getD (pageRamps (s.page b 0))) },
      stg := { s.stg with released := min s.stg.released nb } }
    s.fillB id (intsFrom (uBase k.stripe) 411) (k.cellRows.map (·.2))

/-- Bind a work to a set if its page passes, else log the failure (R117). -/
def State.tryBindTo (s : State) (id : Nat) (b : Bool) : State :=
  match s.workAt id with
  | none => s
  | some k =>
    if k.set.isSome || s.cor.bindFailed == some (k.stripe, b) then s
    else if s.pageBad b || s.rampBad b then
      let s := { s with cor := { s.cor with bindFailed := some (k.stripe, b) } }
      s.corLog (if s.pageBad b then 0x04 else 0x05) b false k.stripe k.s0
    else s.bindTo id b

/-- The set a work is bound to (R113): the active set from tick 0 on, before it the set of a next stripe. -/
def State.setFor (s : State) (k : Work) : Bool := if s.running && s.cor.cur == some k.id then s.sets.active else s.nextSet

/-- Bind the next stripe (R113, R115). An armed or current stripe that is not bound yet comes first. -/
def State.bindNext (s : State) : State :=
  if !s.pathRuns Reg.COR_CTRL then s
  else
    let s := s.ensureNext
    match s.liveWorks.find? fun k => k.set.isNone && s.cor.bindFailed != some (k.stripe, s.setFor k) with
    | none => s
    | some k =>
      if s.running && s.cor.cur == some k.id then s.tryBindTo k.id (s.setFor k)
      else if s.bit Reg.COR_CTRL 1 && !s.sets.sealed && !s.cor.bindActive then
        { s with cor := { s.cor with waitBind := true } }
      else s.tryBindTo k.id (s.setFor k)

/-- Rebind a work to a new set (R114): what was corrected is invalidated, and B is computed with the new page. -/
def State.rebind (s : State) (id : Nat) (b : Bool) : State :=
  match s.workAt id with
  | none => s
  | some k =>
    if k.set = none ∨ k.set = some b then s
    else if s.pageBad b || s.rampBad b then
      let s := s.invalidateAll id
      let s := (s.modWork id fun k => { k with set := none })
      let s := { s with cor := { s.cor with bindFailed := some (k.stripe, b) } }
      s.corLog (if s.pageBad b then 0x04 else 0x05) b false k.stripe k.s0
    else
      let s := s.invalidateAll id
      let s := s.modWork id fun k => { k with set := some b }
      let rows := k.cellRows.map (·.2)
      let s := rows.foldl (fun s v => (List.range 411).foldl (fun s (i : Nat) =>
        let u := uBase k.stripe + (i : Int)
        s.memWrite64 (s.cellAddr k u v) (s.cellEntry k u v % 2 ^ 32)) s) s
      ((s.fillB id (intsFrom (uBase k.stripe) 411) rows).bump Reg.COR_REBINDS).raise .corRebind

/-- The set that the next or the armed stripe will use has changed (R114, R117): rebind what is bound, try again what failed. -/
def State.setChanged (s : State) (id : Nat) (b : Bool) : State :=
  match s.workAt id with
  | none => s
  | some k =>
    if k.set.isSome then s.rebind id b
    else if s.cor.bindFailed.isSome && s.pathRuns Reg.COR_CTRL then s.tryBindTo id b else s

end Sys2Proof.Machine
end

