-- ==== Sys2Proof/Machine/Weavers.lean ====
section
/-! DEFINITION. The weavers: dispatch, density and pixel passes, sampled re-weave, faults and retirement (03_weavers.md, R60 to
R92). -/

namespace Sys2Proof.Machine

/-! Weavers and samples. -/

/-- A weaver by its number. -/
def State.weaver (s : State) (w : Nat) : Weaver := s.wvr.weavers.getD w { st := .retired }

/-- Change a weaver. -/
def State.modWeaver (s : State) (w : Nat) (f : Weaver → Weaver) : State :=
  { s with wvr := { s.wvr with weavers := s.wvr.weavers.modify w f } }

/-- A sample by its number. -/
def State.sample? (s : State) (id : Nat) : Option Sample := s.wvr.samples.find? fun x => x.id = id

/-- Change a sample. -/
def State.modSample (s : State) (id : Nat) (f : Sample → Sample) : State :=
  { s with wvr := { s.wvr with samples := s.wvr.samples.map fun x => if x.id = id then f x else x } }

/-- A sample is done with. -/
def State.dropSample (s : State) (id : Nat) : State :=
  { s with wvr := { s.wvr with samples := s.wvr.samples.filter fun x => x.id ≠ id } }

/-- The weave weights of the sixteen classes (R69, R70). -/
def State.weights (s : State) : Weights :=
  (List.range 16).map fun c => s.field (Reg.WVR_WT_0 (c / 2)) (16 * (c % 2) + 11) (16 * (c % 2))

/-- The figures of a held bin, decoded again; none when its tag fails or a word is poisoned (R50). -/
def State.decodeAt (s : State) (pos len : Nat) : Option (List Figure) :=
  match s.fig.key with
  | none => none
  | some key =>
    if s.figPoison pos len then none
    else
      let all := s.figBytes pos len
      match gcmOpen key (kfsNonce s.fig.salt (kfsHeader all)) (slice all 0 16) (slice all 16 (len - 32))
          (slice all (len - 16) 16) with
      | none => none
      | some plain =>
        match decodeBin (fun i => s.fig.classes.getD i 0 ≠ 0) plain with
        | .error _ => none
        | .ok fs => some fs

/-- Turn over the bits that errors strike in output words. -/
def flipWords (errs : List WordFlip) (ws : List Nat) : List Nat :=
  ws.zipIdx.map fun p => errs.foldl (fun a e => if e.index = p.2 then a ^^^ e.data.toNat else a) p.1

/-- The fragment records of a density pass (R73, R74). -/
def densityWords (o : PixOut) (tile : TileId) : List Nat :=
  flipWords o.errs ((fragmentsOf o.weights (o.figs.flatMap Figure.outlines) (tileOriginX tile.stripe tile.tcol)
    (4096 * tile.trow)).map Fragment.word)

/-- The place of a window pixel in the order of R72. -/
def windowIndex (up : Bool) (x y : Int) : Nat := ((if up then y + 4 else 4099 - y) * 4104 + (x + 4)).toNat

/-- A pixel word of a pass as it came out. -/
def PixOut.word (o : PixOut) (up : Bool) (x y : Int) : Nat :=
  o.errs.foldl (fun a e => if e.index = windowIndex up x y then a ^^^ (e.data.toNat % 2 ^ 32) else a)
    (pixelAt o.weights (o.figs.flatMap Figure.outlines) x y).word

/-- A stripe is written upwards (R72). -/
def State.stripeUp (s : State) (id : Nat) : Bool := match s.workAt id with | some k => !k.down | none => true

/-- The signature of a pass's output (R86). -/
def State.signature (s : State) (p : Pass) (o : PixOut) : Nat :=
  if p.pixel then passSignature p.tile 2 4 (windowWords (o.word (s.stripeUp p.work)) (s.stripeUp p.work))
  else passSignature p.tile 1 8 (densityWords o p.tile)

/-! Giving back passes, retirement (R83, R84). -/

/-- The pass of a weaver is given back: a density or pixel pass is to be issued again, keeping out of `avoid`; a re-weave or
an arbiter pass may be taken by another weaver. -/
def State.giveBack (s : State) (w : Nat) (avoid : List Nat) : State :=
  match (s.weaver w).pass with
  | none => s
  | some p =>
    let s := s.modWeaver w fun v => { v with pass := none }
    let drop := fun (s : State) => match p.sample with | some i => s.dropSample i | none => s
    match p.kind with
    | .density => (drop s).modWork p.work fun k => k.modTile p.tile.trow p.tile.tcol fun t =>
        { t with dens := .todo, avoidD := avoid ++ t.avoidD }
    | .pixel => (drop s).modWork p.work fun k => k.modTile p.tile.trow p.tile.tcol fun t =>
        { t with pix := .todo, avoidP := avoid ++ t.avoidP }
    | .reweave => match p.sample with | some i => s.modSample i fun x => { x with rw := none } | none => s
    | .arbiter => match p.sample with | some i => s.modSample i fun x => { x with arb := none } | none => s

/-- The SPARE of a skein. -/
def State.spareOf (s : State) (skein : Nat) : Option Nat :=
  ((List.range 17).map (17 * skein + ·)).find? fun w => (s.weaver w).st = .spare

/-- The spare of a skein becomes WORKING and gives up its re-weave sample (R84). -/
def State.promote (s : State) (w : Nat) : State :=
  let s := match (s.weaver w).pass with
    | some p => if p.kind = PassKind.reweave then
        match p.sample with | some i => (s.modWeaver w fun v => { v with pass := none }).voidSample i | none => s
      else s.giveBack w []
    | none => s
  s.modWeaver w fun v => { v with st := .working }

/-- A weaver is retired (R84, R85). -/
def State.retireWeaver (s : State) (w : Nat) : State :=
  if (s.weaver w).st = .retired then s
  else
    let s := (s.giveBack w []).modWeaver w fun v => { v with st := .retired }
    let s := match s.spareOf (w / 17) with | some x => s.promote x | none => s
    (s.withyChange 0 2 w 2).raise .wvrSwap

/-- The suspect count of a weaver goes up; at SUSPECT_LIMIT it is retired (R84). -/
def State.suspectUp (s : State) (w : Nat) : State :=
  let n := min 255 ((s.weaver w).suspect + 1)
  let s := (s.modWeaver w fun v => { v with suspect := n }).withyChange 0 4 w n
  if atLeast1 (s.field Reg.WVR_LIMITS 7 0) ≤ n then s.retireWeaver w else s

/-! Outcomes of re-weave (R89, R90, R92). -/

/-- The slices of rows that have been fed from a work's output, in writing order (R90). -/
def State.fedSlices (s : State) (k : Work) (ts : List Int) : List Nat :=
  match s.exposureOf k with
  | none => []
  | some e => (List.range (e + 1).toNat).filter fun w =>
      ts.contains (k.rowOf w) && (s.complete k w || s.releasedSlice k w)

/-- The rows whose correction reads a cell of a tile of row t (R119). -/
def Work.readers (k : Work) (t : Int) : List Int :=
  k.rows.filter fun r => (k.span r).isSome
    && decide ((tileVs r).headD 0 - 33 ≤ (tileVs t).getLastD 0 ∧ (tileVs t).headD 0 ≤ (tileVs r).getLastD 0 + 33)

/-- Clear the cells that a tile meets and issue again the density passes of every tile that meets them (R119). -/
def State.redoDensity (s : State) (id : Nat) (tile : TileId) (avoid : List Nat) : State :=
  match s.workAt id with
  | none => s
  | some k =>
    let us := tileUs k.stripe tile.tcol
    let vs := tileVs tile.trow
    let wide := intsFrom (us.headD 0 - 32) (us.length + 64)
    let tall := intsFrom (vs.headD 0 - 32) (vs.length + 64)
    let s := tall.foldl (fun s v => wide.foldl (fun s u =>
      if !inMap k.stripe u || !s.rowHeld k v then s
      else s.memWrite64 (s.cellAddr k u v)
        (if us.contains u ∧ vs.contains v then 0 else s.cellEntry k u v % 2 ^ 32)) s) s
    let s := s.bumpBy Reg.COR_DMAP_REDO vs.length
    let s := s.modWork id fun k =>
      ((intsFrom (tile.trow - 1) 3).flatMap fun t => (intsFrom (tile.tcol - 1) 3).map fun c => (t, c)).foldl (fun k p =>
        let mine := fun (l : List (Int × Int)) (a b : List Int) => l ++ (b.filter (vs.contains ·)).flatMap fun v =>
          ((a.filter (us.contains ·)).map fun u => (u, v)).filter fun x => !l.contains x
        let old := k.tile p.1 p.2
        let more := mine (old.only.getD []) (tileUs k.stripe p.2) (tileVs p.1)
        if !k.rows.contains p.1 || !tileCols.contains p.2 || more.isEmpty then k
        else if old.dens = .done then k.modTile p.1 p.2 fun w => { w with
          dens := .todo, only := some more, avoidD := if p = (tile.trow, tile.tcol) then avoid else w.avoidD }
        else if old.only.isSome then k.modTile p.1 p.2 fun w => { w with only := some more }
        else k) k
    (s.corLog 0x07 (k.set.getD false) false k.stripe k.s0).invalidateRows id (k.readers tile.trow) 0x07 0

/-- Working output is replaced (R90): the shots fed from it stand and are recorded. Answers whether there were any. -/
def State.replaceOutput (s : State) (x : Sample) (avoid : List Nat) : State × Bool :=
  match s.workAt x.work with
  | none => (s, false)
  | some k =>
    let ts := if x.pixel then [x.tile.trow] else k.readers x.tile.trow
    let fed := s.fedSlices k ts
    let late := !fed.isEmpty
    let s := if !s.isLive x.work then s
      else if x.pixel then
        let s := s.modWork x.work fun k => k.modTile x.tile.trow x.tile.tcol fun t =>
          if t.pix = .done then { t with pix := .todo, out := none, avoidP := avoid } else t
        s.invalidateRows x.work [x.tile.trow] 0x07 0
      else s.redoDensity x.work x.tile avoid
    if late then
      let s := s.setRegs (Reg.WVR_SUSPECT_AT_0 0) [x.tile.stripe % 65536 + 65536 * unsignedOf 8 x.tile.tcol,
        unsignedOf 24 x.tile.trow, k.sliceOf (fed.headD 0), k.sliceOf (fed.getLastD 0)]
      (s.raise .wvrErr, true)
    else (s, false)

/-- A mismatch is settled by Table 3.4: `arb` the arbiter with its signature, none when it is void. -/
def State.settleSample (s : State) (x : Sample) (arb : Option (Nat × Nat)) : State :=
  let sigR := x.sigR.getD 0
  let rw := x.rw.getD 0
  let outcome := match arb with
    | some (_, g) => if g = sigR then 1 else if g = x.sigW then 2 else 3
    | none => 3
  let blame := fun (s : State) (w : Nat) => (s.bump (Reg.WVR_RW_DISAGREE (w % 136))).suspectUp w
  let s := s.dropSample x.id
  let avoid := [x.working / 17, rw / 17] ++ (arb.map fun a => a.1 / 17).toList
  let (s, late) := if outcome = 2 then (s, false) else s.replaceOutput x avoid
  let s := if outcome = 2 then s else blame s x.working
  let s := if outcome = 1 then s else blame s rw
  let s := s.setRegs (Reg.WVR_MM_LOG_0 0)
    [x.working + 2 ^ 8 * rw + 2 ^ 16 * ((arb.map (·.1)).getD 0xFF) + 2 ^ 24 * outcome + 2 ^ 26 * b2n x.pixel
        + 2 ^ 27 * b2n late,
     x.tile.stripe % 65536 + 65536 * unsignedOf 8 x.tile.tcol, unsignedOf 24 x.tile.trow]
  (s.bump Reg.WVR_MISMATCHES).raise .wvrMismatch

/-! Dispatch (R76 to R79, R87, R88). -/

/-- Passes are issued (Table 3.7). -/
def State.weaves (s : State) : Bool := s.pathRuns Reg.WVR_CTRL

/-- The tile a work weaves: absent while a newer sending of its stripe has not brought its row yet (R56). -/
def State.tileFor (s : State) (k : Work) (t c : Int) : Option Tile :=
  let due := match s.fig.sending with
    | some x => !x.stale && x.desc.stripe == k.stripe && x.desc.gen == k.gen && x.rows.contains t
    | none => false
  if due then none else s.tile? { stripe := k.stripe, trow := t, tcol := c }

/-- A weaver may take a pass that keeps out of `avoid` (R83, R90). -/
def mayTake (w : Nat) (avoid : List Nat) : Bool := !avoid.contains (w / 17) && !avoid.contains (8 + w)

/-- A pass is wanted whose bin has been released: FIG_REFETCH for its row and BIN_RELEASED, once (R148). -/
def State.wantBin (s : State) (k : Work) (t : Int) : State :=
  if s.fig.refetch.contains (k.stripe, t) then s
  else
    let s : State := { s with fig := { s.fig with refetch := (k.stripe, t) :: s.fig.refetch } }
    (s.raise .figRefetch).stgLog 0x06 0 k.stripe (((k.span t).map (·.1)).getD k.wStart)

/-- A pass found for a weaver: its work, its tile and the tile's bin. -/
structure Found where
  work : Nat
  pixel : Bool
  trow : Int
  tcol : Int
  tile : Tile
deriving DecidableEq, Repr

/-- A bin of a tile is held in the figure ring. -/
def State.binHeld (s : State) (id : TileId) (pos : Nat) : Bool := s.fig.held.any fun b => b.tile == id && b.pos == pos

/-- The tile queue stalls at a tile that a weaver needs (R55). -/
def State.needTile (s : State) (id : TileId) : State := if s.fig.stalled then s else s.stallAt id

/-- A zero tile's density pass completes without a weaver (R62). -/
def State.zeroDensity (s : State) (id : Nat) (t c : Int) : State :=
  let s := s.takeSlot id
  let s := s.modWork id fun k => k.modTile t c fun w => { w with dens := .done, only := none }
  (s.fillAround id t c).bump Reg.WVR_ZERO_TILES

/-- The next density pass in tile-queue order (R76, R79, R62), and what looking for it does. -/
def State.seekDensity (w : Nat) : List (Nat × Int × Int) → State → State × Option Found
  | [], s => (s, none)
  | (id, t, c) :: rest, s =>
    match s.workAt id with
    | none => (s, none)
    | some k =>
      let x := k.tile t c
      if x.dens ≠ .todo then State.seekDensity w rest s
      else if k.pixFront + max 3 (s.field Reg.WVR_AHEAD 7 0) < k.rows.idxOf t
          ∨ (k.slot.isNone && s.freeSlots.isEmpty) = true then (s, none)
      else
        match s.tileFor k t c with
        | none => (s, none)
        | some tile =>
          let tid : TileId := { stripe := k.stripe, trow := t, tcol := c }
          if !tile.writable then (s.needTile tid, none)
          else if tile.len = 0 then State.seekDensity w rest (s.zeroDensity id t c)
          else if !s.binHeld tid tile.pos then (s.wantBin k t, none)
          else if !mayTake w x.avoidD then State.seekDensity w rest s
          else (s, some { work := id, pixel := false, trow := t, tcol := c, tile := tile })

/-- The next pixel pass of a list of tiles, in order (R77, R79, R62, R147). -/
def State.seekPixel (w : Nat) : List (Nat × Int × Int) → State → State × Option Found
  | [], s => (s, none)
  | (id, t, c) :: rest, s =>
    match s.workAt id with
    | none => (s, none)
    | some k =>
      let x := k.tile t c
      let ready := k.set.isSome && [-2, -1, 0, 1, 2].all fun (d : Int) => !k.rows.contains (t + d) || k.densDone (t + d)
      if x.pix ≠ .todo ∨ ready = false then State.seekPixel w rest s
      else
        match s.tileFor k t c with
        | none => State.seekPixel w rest s
        | some tile =>
          let tid : TileId := { stripe := k.stripe, trow := t, tcol := c }
          if !tile.writable then (s.needTile tid, none)
          else if tile.len = 0 then
            State.seekPixel w rest (s.modWork id fun k => k.modTile t c fun y =>
              { y with pix := .done, regen := false, out := some { figs := [], weights := s.weights, errs := [] } })
          else if !s.binHeld tid tile.pos then
            (if x.regen then State.seekPixel w rest (s.wantBin k t) else (s.wantBin k t, none))
          else if !mayTake w x.avoidP then State.seekPixel w rest s
          else (s, some { work := id, pixel := true, trow := t, tcol := c, tile := tile })

/-- The tiles of the live works in tile-queue order. -/
def State.densityOrder (s : State) : List (Nat × Int × Int) :=
  s.liveWorks.flatMap fun k => k.rows.flatMap fun t => tileCols.map fun c => (k.id, t, c)

/-- The written tiles of the live works: those that are regenerated first, then the rows within PIX_ROWS of the frontier
(R77, R147). -/
def State.pixelOrder (s : State) : List (Nat × Int × Int) :=
  let cols := (List.range 16).map fun (i : Nat) => (i : Int)
  let all := fun (k : Work) (ts : List Int) => ts.flatMap fun t => cols.map fun c => (k.id, t, c)
  let regen := s.liveWorks.flatMap fun k => (all k k.rows).filter fun p => (k.tile p.2.1 p.2.2).regen
  let near := s.liveWorks.flatMap fun k =>
    all k ((k.rows.take (k.pixFront + clampNat 1 16 (s.field Reg.WVR_AHEAD 20 16))).filter fun t => (k.span t).isSome)
  regen ++ near

/-- The next density or pixel pass for a weaver (R78 items 1 and 2). -/
def State.seekWork (s : State) (w : Nat) : State × Option Found :=
  match State.seekDensity w s.densityOrder s with
  | (s, some f) => (s, some f)
  | (s, none) => State.seekPixel w s.pixelOrder s

/-- A free SPARE outside some skeins. -/
def State.freeSpare (s : State) (skeins : List Nat) : Bool :=
  (List.range 136).any fun w => (s.weaver w).st = .spare && (s.weaver w).pass.isNone && !skeins.contains (w / 17)

/-- The next arbiter pass, then the next re-weave sample, for a weaver (R78 items 3 and 4, R88, R89). -/
def State.seekSample (s : State) (w : Nat) : Option (Sample × PassKind) :=
  let fit := fun (skeins : List Nat) => !skeins.contains (w / 17)
    && ((s.weaver w).st == .spare || !s.freeSpare skeins)
  match s.wvr.samples.find? fun x => x.sigR.isSome && x.arb.isNone
      && fit [x.working / 17, x.rw.getD 0 / 17] && s.binHeld x.tile x.pos with
  | some x => some (x, .arbiter)
  | none => (s.wvr.samples.find? fun x => x.doneAt.isSome && x.rw.isNone && fit [x.working / 17]
      && s.binHeld x.tile x.pos).map fun x => (x, .reweave)

/-- The last pass of a tile is issued: it no longer counts in FIG_TQ_LEVEL. -/
def State.uncount (s : State) (id : TileId) : State :=
  if s.lastIssued id then
    { s with fig := { s.fig with tiles := s.fig.tiles.map fun (p : TileId × Tile) =>
        if p.1 = id then (p.1, { p.2 with counted := false }) else p } }
  else s

/-- Issue a density or pixel pass to a weaver, and draw for its sample (R70, R87, R90). -/
def State.issuePass (s : State) (w : Nat) (f : Found) : State :=
  let tid : TileId := { stripe := (s.workAt f.work).elim 0 (·.stripe), trow := f.trow, tcol := f.tcol }
  let avoid := (s.workAt f.work).elim [] fun k =>
    let x := k.tile f.trow f.tcol
    if f.pixel then x.avoidP else x.avoidD
  let r := lfsrDraw s.wvr.lfsr
  let sampled := s.bit Reg.WVR_CTRL 1
    && (avoid.any (fun n => decide (n < 8)) || decide (r.toNat % 65536 < s.field Reg.WVR_RW_CFG 15 0))
  let x : Sample := { id := s.wvr.sampleN, pixel := f.pixel, tile := tid, pos := f.tile.pos, len := f.tile.len,
                      work := f.work, working := w }
  let p : Pass := { kind := if f.pixel then .pixel else .density, pixel := f.pixel, tile := tid, pos := f.tile.pos,
                    len := f.tile.len, work := f.work, sample := if sampled then some x.id else none }
  let s := { s with wvr := { s.wvr with
    wtLock := true, lfsr := r,
    samples := if sampled then s.wvr.samples ++ [x] else s.wvr.samples,
    sampleN := if sampled then s.wvr.sampleN + 1 else s.wvr.sampleN } }
  let s := s.modWork f.work fun k => k.modTile f.trow f.tcol fun t =>
    if f.pixel then { t with pix := .flying w } else { t with dens := .flying w }
  let s := (s.modWeaver w fun v => { v with pass := some p }).uncount tid
  if sampled then s.bump Reg.WVR_RW_SAMPLES else s

/-- Begin an arbiter pass or a re-weave (R88, R89). -/
def State.issueSample (s : State) (w : Nat) (x : Sample) (kind : PassKind) : State :=
  let p : Pass := { kind := kind, pixel := x.pixel, tile := x.tile, pos := x.pos, len := x.len, work := x.work,
                    sample := some x.id }
  let s := s.modSample x.id fun x => if kind = .arbiter then { x with arb := some w } else { x with rw := some w }
  s.modWeaver w fun v => { v with pass := some p }

/-- A WORKING weaver that is re-weaving gives up its sample (R88). -/
def State.giveUp (s : State) (w : Nat) (p : Pass) : State :=
  let s := s.modWeaver w fun v => { v with pass := none }
  match p.sample.bind s.sample? with
  | none => s
  | some x => if p.kind = .arbiter then s.settleSample x none else s.voidSample x.id

/-- A weaver takes a pass (R78, R88). -/
def State.takePass (s : State) (w : Nat) : State :=
  let v := s.weaver w
  let s := s.ensureNext
  match v.st with
  | .working =>
    match v.pass with
    | none =>
      match s.seekWork w with
      | (s, some f) => s.issuePass w f
      | (s, none) => match s.seekSample w with
        | some x => s.issueSample w x.1 x.2
        | none => s
    | some p =>
      if p.kind = .density ∨ p.kind = .pixel then s
      else
        match s.seekWork w with
        | (s, some _) =>
          let s := s.giveUp w p
          if (s.weaver w).st ≠ .working then s
          else match s.seekWork w with
            | (s, some f) => s.issuePass w f
            | (s, none) => s
        | (s, none) => s
  | .spare =>
    match v.pass with
    | none => match s.seekSample w with
      | some x => s.issueSample w x.1 x.2
      | none => s
    | some _ => s
  | _ => s

/-! Completion (R72 to R74, R83, R89). -/

/-- The pass of a weaver, if it is of a kind. -/
def State.passOf (s : State) (w : Nat) (kind : PassKind) : Option Pass :=
  match (s.weaver w).pass with
  | some p => if p.kind = kind then some p else none
  | none => none

/-- The decode of a working pass fails (R50, R83): the tile is unwritable, and the pass waits for a replacement bin. -/
def State.decodeFails (s : State) (w : Nat) (p : Pass) : State :=
  let s := s.figTouch p.pos p.len
  let s := s.giveBack w []
  let fresh := match s.tile? p.tile with | some t => t.pos == p.pos | none => false
  (if fresh then s.refetchTile p.tile else s).raise .wvrErr

/-- A working pass completes: counts, its sample's signature, its output. -/
def State.passDone (s : State) (w : Nat) (p : Pass) (figs : List Figure) (errs : List WordFlip) : State :=
  let o : PixOut := { figs := figs, weights := s.weights, errs := errs }
  let s := s.figTouch p.pos p.len
  let s := s.modWeaver w fun v => { v with pass := none }
  let s := (s.bump (Reg.WVR_PASSES (w % 136))).bumpBy Reg.WVR_CURVE_CAPPED (figs.map Figure.capped).sum
  let s := match p.sample with
    | some i => s.modSample i fun x => { x with doneAt := some s.time, sigW := s.signature p o }
    | none => s
  let only := (s.workAt p.work).elim none fun k => (k.tile p.tile.trow p.tile.tcol).only
  if p.pixel then
    s.modWork p.work fun k => k.modTile p.tile.trow p.tile.tcol fun t =>
      { t with pix := .done, out := some o, avoidP := [] }
  else
    let s := s.modWork p.work fun k => k.modTile p.tile.trow p.tile.tcol fun t =>
      { t with dens := .done, only := none, avoidD := [] }
    (s.addFragments p.work p.tile.trow p.tile.tcol (densityWords o p.tile) only).fillAround p.work p.tile.trow p.tile.tcol

/-- A re-weave or an arbiter pass completes, with its signature; none when its decode fails (R50, R89). -/
def State.sampleDone (s : State) (w : Nat) (p : Pass) (sig : Option Nat) : State :=
  let s := (s.figTouch p.pos p.len).modWeaver w fun v => { v with pass := none }
  let s := if sig.isSome then s.bump (Reg.WVR_PASSES (w % 136)) else s
  match p.sample.bind s.sample? with
  | none => s
  | some x =>
    match p.kind, sig with
    | .arbiter, some g => s.settleSample x (some (w, g))
    | .arbiter, none => s.settleSample x none
    | _, none => s.voidSample x.id
    | _, some g =>
      if g = x.sigW then ((s.dropSample x.id).bump (Reg.WVR_RW_AGREE (x.working % 136))).bump (Reg.WVR_RW_AGREE (w % 136))
      else s.modSample x.id fun x => { x with sigR := some g }

/-- Complete a working pass of a kind. -/
def State.completePass (s : State) (w : Nat) (kind : PassKind) (errs : List WordFlip) : State :=
  match s.passOf w kind with
  | none => s
  | some p =>
    match s.decodeAt p.pos p.len with
    | none => s.decodeFails w p
    | some figs => s.passDone w p figs errs

/-- Complete a re-weave or an arbiter pass. -/
def State.completeSample (s : State) (w : Nat) (kind : PassKind) (errs : List WordFlip) : State :=
  match s.passOf w kind with
  | none => s
  | some p =>
    s.sampleDone w p ((s.decodeAt p.pos p.len).map fun figs =>
      s.signature p { figs := figs, weights := s.weights, errs := errs })

/-- A pass fails by an error of its weaver or for lack of progress (R83). -/
def State.weaverFails (s : State) (w counter : Nat) : State :=
  if (s.weaver w).pass.isNone then s
  else (((s.giveBack w [8 + w]).bump counter).suspectUp w).raise .wvrErr

/-! Meanings. -/

/-- WEAVER_TAKE_PASS (R78). -/
def execWeaverTakePass (w : Nat) (s : State) : Host.Outcome State Fault Refusal :=
  finish s (if s.weaves then s.takePass w else s)

/-- DENSITY_PASS_DONE (R74). -/
def execDensityPassDone (w : Nat) (errs : List WordFlip) (s : State) : Host.Outcome State Fault Refusal :=
  finish s (s.completePass w .density errs)

/-- PIXEL_PASS_DONE (R72). -/
def execPixelPassDone (w : Nat) (errs : List WordFlip) (s : State) : Host.Outcome State Fault Refusal :=
  finish s (s.completePass w .pixel errs)

/-- REWEAVE_DONE (R89). -/
def execReweaveDone (w : Nat) (errs : List WordFlip) (s : State) : Host.Outcome State Fault Refusal :=
  finish s (s.completeSample w .reweave errs)

/-- ARBITER_DONE (R89). -/
def execArbiterDone (w : Nat) (errs : List WordFlip) (s : State) : Host.Outcome State Fault Refusal :=
  finish s (s.completeSample w .arbiter errs)

/-- The samples whose time to find a re-weaver or an arbiter is over (R88, R89). -/
def State.expireSamples (s : State) : State :=
  s.wvr.samples.foldl (fun s x =>
    match x.doneAt with
    | none => s
    | some d =>
      if s.time < d + msTu (s.field Reg.WVR_RW_CFG 31 16) then s
      else if x.rw.isNone then s.voidSample x.id
      else if x.sigR.isSome && x.arb.isNone then s.settleSample x none
      else s) s

/-- REWEAVE_HOLD_EXPIRY (R88). -/
def execReweaveHoldExpiry (t : Nat) (s : State) : Host.Outcome State Fault Refusal :=
  finish s (s.at_ t).expireSamples

/-- WEAVER_UE (R83). -/
def execWeaverUe (w : Nat) (s : State) : Host.Outcome State Fault Refusal :=
  finish s (s.weaverFails w (Reg.WVR_UE_COUNT (w % 136)))

/-- WEAVER_WATCHDOG (R83). -/
def execWeaverWatchdog (w : Nat) (s : State) : Host.Outcome State Fault Refusal :=
  finish s (s.weaverFails w (Reg.WVR_WDOG_COUNT (w % 136)))

/-- WEAVER_RETIRE (R84, R85). -/
def execWeaverRetire (w : Nat) (s : State) : Host.Outcome State Fault Refusal :=
  finish s (if w < 136 then s.command (Reg.WVR_CMD w) 1 fun s => s.retireWeaver w else s)

end Sys2Proof.Machine
end

