-- ==== Sys2Proof/Machine/Correction.lean ====
section
/-! DEFINITION. The correction block: slices, bindings and halts (04_dose_correction.md, R93 to R119). -/

namespace Sys2Proof.Machine

/-- The live work of a stripe. -/
def State.liveOf (s : State) (stripe : Nat) : Option Work := s.liveWorks.find? fun k => k.stripe = stripe

/-- The pixel of a written tile at tile-local (x, y). -/
def Work.pixel (k : Work) (t c : Int) (x y : Int) : Pixel :=
  match (k.tile t c).out with
  | some o => Pixel.ofWord (o.word (!k.down) x y)
  | none => Pixel.ofWord 0

/-- The effective class of line `x` of job slice `y` (R96). -/
def Work.lineClass (k : Work) (y x : Nat) : Nat :=
  effClass (k.pixel (k.rowOf (k.wOf y)) ((x / 4096 : Nat) : Int)) ((x % 4096 : Nat) : Int) ((y % 4096 : Nat) : Int)

/-- A line takes a correction whose enable is bit `i` of its class entry (Table 4.2). -/
def Work.lineHas (k : Work) (pg : Page) (i y x : Nat) : Bool := bitOf (pageClass pg (k.lineClass y x)) i

/-- The lines of a stripe. -/
def stripeLines : List Nat := List.range 65536

/-- The lower of the two cells between whose centres a job pixel lies, for cells `2 * half` wide (R102, R108). -/
def lowCell (half : Nat) (p : Nat) : Int := floorDiv (2 * (p : Int) + 1 - 2 * (half : Int)) (4 * (half : Int))

/-- The job pixel of a line. -/
def jobX (stripe x : Nat) : Nat := 65280 * stripe + x

/-- The fog map is in use (R108). -/
def fogOn (pg : Page) : Bool := bitOf (pg 0x108) 0

/-- The four map entries of a line (R108). -/
def fogCells (pg : Page) (stripe y x : Nat) : List Nat :=
  let u := lowCell 10000 (jobX stripe x)
  let v := lowCell 10000 y
  [fogAddr pg u v, fogAddr pg (u + 1) v, fogAddr pg u (v + 1), fogAddr pg (u + 1) (v + 1)]

/-- A slice would use a poisoned word of the fog map (R118). -/
def State.fogPoison (s : State) (k : Work) (pg : Page) (y : Nat) : Bool :=
  fogOn pg && stripeLines.any fun x =>
    (fogCells pg k.stripe y x).any (fun a => s.poisonIn a 2) && k.lineHas pg 18 y x

/-- Some pixel of a slice reads backscatter (R103). -/
def Work.readsDensity (k : Work) (pg : Page) (y : Nat) : Bool :=
  decide (0 < pageNGauss pg) && stripeLines.any fun x => k.lineHas pg 16 y x

/-- The two cell rows whose B a slice reads (R102). -/
def bRows (y : Nat) : List Int := [lowCell 100 y, lowCell 100 y + 1]

/-- The cell columns whose B a stripe's lines read. -/
def bCols (stripe : Nat) : List Int :=
  let a := lowCell 100 (jobX stripe 0)
  intsFrom a (lowCell 100 (jobX stripe 65535) + 2 - a).toNat

/-- Make the density map ready for a slice: rows no longer held are rebuilt (R106), so is the row of a poisoned entry (R118),
and B is computed where it can be. -/
def State.prepareDensity (s : State) (k : Work) (y : Nat) : State :=
  if (bRows y).any fun v => !s.rowHeld k v then
    s.rebuildRows k.id (k.rowOf (k.wOf y))
      ((intsFrom (floorDiv (y : Int) 200 - 33) 67).filter fun v => !s.rowHeld k v)
  else
    match (bRows y).find? fun v => (bCols k.stripe).any fun u => s.poisonIn (s.cellAddr k u v) 8 with
    | some v => s.dmapPoison k.id (k.rowOf (k.wOf y)) v
    | none => s.fillB k.id (bCols k.stripe) (bRows y)

/-- Every cell that a slice reads has its B. -/
def State.densityReady (s : State) (k : Work) (y : Nat) : Bool :=
  (bRows y).all fun v => (bCols k.stripe).all fun u => bitOf (s.cellEntry k u v) 48

/-- The corrected pixels of a slice, in ascending line (R93, R111). -/
def State.correctLines (s : State) (k : Work) (pg : Page) (y : Nat) : List Corrected :=
  let t := k.rowOf (k.wOf y)
  let count := (s.fig.job.map (·.2)).getD 0
  stripeLines.map fun x =>
    correctPixel pg (k.pixel t ((x / 4096 : Nat) : Int)) ((x % 4096 : Nat) : Int) ((y % 4096 : Nat) : Int)
      (jobX k.stripe x) y count k.stripe x
      (fun u v => bitsOf (s.cellEntry k u v) 47 32) (fun u v => leNat (s.bytesAt (fogAddr pg u v) 2))

/-- Correction halts before a slice (R118). -/
def State.corHalt (s : State) (reason : Nat) (k : Work) (w : Nat) : State :=
  let s : State := { s with cor := { s.cor with halt := some (reason, k.stripe, w) } }
  s.corLog reason (k.set.getD false) true k.stripe (k.sliceOf w)

/-- What the reads of a slice's correction do besides delivering data. -/
def State.corTouch (s : State) (k : Work) (pg : Page) (y : Nat) (density : Bool) : State :=
  let s := if density then
      (bRows y).foldl (fun s v => s.touch .pipe (s.cellAddr k ((bCols k.stripe).headD 0) v) (8 * (bCols k.stripe).length)) s
    else s
  if fogOn pg then
    let us := lowCell 10000 (jobX k.stripe 0)
    let n := (lowCell 10000 (jobX k.stripe 65535) + 2 - us).toNat
    [lowCell 10000 y, lowCell 10000 y + 1].foldl (fun s v =>
      s.touch .pipe (fogAddr pg us v) (fogAddr pg (us + n - 1) v + 2 - fogAddr pg us v)) s
  else s

/-- ΣEV of a slice's containers in the two line halves (R407). -/
def evHalves (l : List Nat) : Nat × Nat :=
  (((l.take 32768).map (· % 4096)).sum, ((l.drop 32768).map (· % 4096)).sum)

/-- A slice of a group has been corrected: the group moves on, and its sums are kept once it is whole (R407). -/
def State.correctedSlice (s : State) (k : Work) (w : Nat) (l : List Nat) : State :=
  let t := k.rowOf w
  let g := k.group t
  let h := evHalves l
  let ev := (g.ev.1 + h.1, g.ev.2 + h.2)
  let s := s.modWork k.id fun k => k.modGroup t fun g => { g with corrected := g.corrected + 1, ev := ev }
  match k.span t with
  | some (a, b) =>
    if w = b then
      { s with cor := { s.cor with
          evRows := (s.cor.evRows.filter fun r => r.work ≠ k.id || r.trow ≠ t)
            ++ [{ work := k.id, trow := t, sums := ev, slices := b + 1 - a }] } }
    else s
  | none => s

/-- Correct the next slice of a slice group and hand it to the codec (R93, R94, R106, R118). -/
def State.correctSlice (s : State) (k : Work) (b : Bool) (w : Nat) : State :=
  let pg := s.page b 0
  let y := k.sliceOf w
  if s.sets.marks.any fun m => m.setB == b && decide (m.word < 512) then s.corHalt 0x02 k w
  else if s.fogPoison k pg y then s.corHalt 0x01 k w
  else
    let dens := k.readsDensity pg y
    let s := if dens then s.prepareDensity k y else s
    if dens && !s.densityReady k y then s
    else
      let px := s.correctLines k pg y
      let s := s.corTouch k pg y dens
      let s := ((s.bumpBy Reg.COR_X_SAT (px.filter (·.xSat)).length).bumpBy Reg.COR_F_SAT
        (px.filter (·.fSat)).length).bumpBy Reg.COR_EV_SAT (px.filter (·.evSat)).length
      let s := if s.cor.cur = some k.id then s.setReg Reg.COR_SLICE (y % 2 ^ 25) else s
      let s := s.correctedSlice k w (px.map (·.container))
      let x : SliceOut := { work := k.id, w := w, epoch := s.cor.epoch, containers := px.map (·.container) }
      { s with cor := { s.cor with slices := s.cor.slices ++ [x] } }

/-- A slice is the next of its group and its row is woven (R94, R104). -/
def State.slicedue (s : State) (k : Work) (w : Nat) : Bool :=
  match k.span (k.rowOf w) with
  | none => false
  | some (a, b) => w == a + (k.group (k.rowOf w)).corrected && decide (w ≤ b) && k.pixDone (k.rowOf w)
      && s.cor.halt.isNone && s.pathRuns Reg.COR_CTRL

/-- CORRECT_SLICE (R93). -/
def execCorrectSlice (stripe w : Nat) (s : State) : Host.Outcome State Fault Refusal :=
  finish s (match s.liveOf stripe with
    | none => s
    | some k =>
      match k.set with
      | none => s
      | some b => if s.slicedue k w then s.correctSlice k b w else s)

/-- BIND_NEXT_STRIPE (R113). -/
def execBindNextStripe (s : State) : Host.Outcome State Fault Refusal := finish s s.bindNext

/-- BIND_ACTIVE (R115). -/
def execBindActive (s : State) : Host.Outcome State Fault Refusal :=
  finish s (s.command Reg.COR_CMD 1 fun s =>
    if s.cor.waitBind then { s with cor := { s.cor with bindActive := true } }.bindNext else s)

/-- COR_RESUME (R118). -/
def execCorResume (s : State) : Host.Outcome State Fault Refusal :=
  finish s (s.command Reg.COR_CMD 2 fun s => { s with cor := { s.cor with halt := none } })

end Sys2Proof.Machine
end

