-- ==== Sys2Proof/Machine/Osier.lean ====
section
/-! DEFINITION. The Osier bitstream: coding and decoding of a block of 2,048 containers (05_staging.md, R125 to R132). -/

namespace Sys2Proof.Machine

/-- The flag nibble of a container (R127). -/
def evFlags (v : Nat) : Nat := v / 4096 % 16
/-- The EV of a container (R127). -/
def evLevel (v : Nat) : Nat := v % 4096

/-- The predicted flags of a pixel from its neighbours (R128). -/
def predFlags (a b c : Nat) : Nat := if evFlags a = evFlags c then evFlags b else evFlags a

/-- The predicted EV of a pixel: the median edge detector, its tests in the order written (R129). -/
def predEv (a b c : Nat) : Int :=
  let ea := evLevel a
  let eb := evLevel b
  let ec := evLevel c
  if max ea eb ≤ ec then (min ea eb : Nat)
  else if ec ≤ min ea eb then (max ea eb : Nat)
  else (ea : Int) + eb - ec

/-- The code number of an EV against its prediction (R129). -/
def evCode (ev : Nat) (pred : Int) : Nat :=
  let r := (((ev : Int) - pred) % 4096).toNat
  if r < 2048 then 2 * r else 2 * (4096 - r) - 1

/-- The EV that a code number gives against its prediction (R129). -/
def evOfCode (u : Nat) (pred : Int) : Nat :=
  let e : Int := if u % 2 = 0 then (u / 2 : Nat) else -(((u + 1) / 2 : Nat) : Int)
  ((pred + e) % 4096).toNat

/-- `n` bits of a number, most significant first. -/
def msbOf (n v : Nat) : List Bool := (List.range n).map fun i => v.testBit (n - 1 - i)

/-- The unsigned code of order `k` (R128). -/
def putUint (k n : Nat) : List Bool :=
  let v := n + 2 ^ k
  let m := Nat.log2 v + 1
  List.replicate (m - k - 1) false ++ msbOf m v

/-- The flag section: `xs` pairs each pixel's flags with their prediction; `run` is the run so far (R128). The section ends
when the last pixel is taken; a run that reaches the end is emitted. -/
def putFlags : Nat → List (Nat × Nat) → List Bool
  | run, [] => putUint 2 run
  | run, (f, p) :: t =>
    if f = p then putFlags (run + 1) t
    else putUint 2 run ++ msbOf 4 f ++ (if t.isEmpty then [] else putFlags 0 t)

/-- The Rice order from the adaptive state (R130). -/
def riceOrder (acc cnt : Nat) : Nat :=
  ((List.range 11).find? fun k => decide (acc ≤ cnt * 2 ^ k)).getD 11

/-- The adaptive state after a code number (R130). -/
def riceNext (acc cnt u : Nat) : Nat × Nat :=
  if cnt + 1 = 64 then ((acc + u) / 2, 32) else (acc + u, cnt + 1)

/-- One code number of the EV section (R130). -/
def putRice (k u : Nat) : List Bool :=
  let q := u / 2 ^ k
  if 24 ≤ q then List.replicate 24 true ++ msbOf 12 u
  else List.replicate q true ++ [false] ++ msbOf k (u % 2 ^ k)

/-- The EV section of a list of code numbers (R130). -/
def putEvs : Nat → Nat → List Nat → List Bool
  | _, _, [] => []
  | acc, cnt, u :: t =>
    let n := riceNext acc cnt u
    putRice (riceOrder acc cnt) u ++ putEvs n.1 n.2 t

/-- The neighbours (a, b, c) of each pixel of a block, with the pixel; the first pixel has a = c = b (R127). -/
def withNeighbours (cur prev : List Nat) : List (Nat × Nat × Nat × Nat) :=
  let b0 := prev.getD 0 0
  let as := b0 :: cur
  let cs := b0 :: prev
  List.zip cur (List.zip as (List.zip prev cs))

/-- The payload of a CODED block at order `k0` (R128 to R131). -/
def codedPayload (k0 : Nat) (cur prev : List Nat) : List Byte :=
  let ns := withNeighbours cur prev
  let flags := putFlags 0 (ns.map fun p => (evFlags p.1, predFlags p.2.1 p.2.2.1 p.2.2.2))
  let us := ns.map fun p => evCode (evLevel p.1) (predEv p.2.1 p.2.2.1 p.2.2.2)
  bytesOfMsb (flags ++ putEvs (2 ^ k0) 1 us)

/-- The best order: the shortest payload, the lower order where two are equal (R126). -/
def bestK0 (cur prev : List Nat) : Nat :=
  ((List.range 12).foldl (fun (best : Nat × Nat) k =>
    let n := (codedPayload k cur prev).length
    if n < best.2 then (k, n) else best) (0, (codedPayload 0 cur prev).length)).1

/-- How a block is stored (Table 5.1). -/
inductive OsierMode where
  | coded | raw | zero
  deriving DecidableEq, Repr

/-- The mode the encoder chooses (R126). -/
def osierMode (cur prev : List Nat) : OsierMode :=
  if cur.all (· = 0) then .zero
  else if (codedPayload (bestK0 cur prev) cur prev).length < 4096 then .coded
  else .raw

/-- The stored bytes of a block (R126, Table 5.1). In a key slice `prev` is all zero (R127). -/
def encodeBlock (cur prev : List Nat) : List Byte :=
  match osierMode cur prev with
  | .zero => [0x80]
  | .raw => 0x40 :: cur.flatMap (leBytes 2)
  | .coded =>
    let k := bestK0 cur prev
    BitVec.ofNat 8 (4 * k) :: codedPayload k cur prev

/-- Read `n` bits, most significant first; none past the end. -/
def takeBits : Nat → Nat → List Bool → Option (Nat × List Bool)
  | 0, acc, bs => some (acc, bs)
  | _ + 1, _, [] => none
  | n + 1, acc, b :: t => takeBits n (2 * acc + b2n b) t

/-- The prefix zeros of decode_uint, at most 12 (R128). -/
def takeZeros : Nat → List Bool → Option (Nat × List Bool)
  | _, [] => none
  | z, true :: t => some (z, t)
  | z, false :: t => if 12 < z + 1 then none else takeZeros (z + 1) t

/-- decode_uint of order `k` (R128). -/
def takeUint (k : Nat) (bs : List Bool) : Option (Nat × List Bool) := do
  let (z, bs) ← takeZeros 0 bs
  let (n, bs) ← takeBits (z + k) 1 bs
  some (n - 2 ^ k, bs)

/-- The flags of a block, decoded: `prev` the flags of the earlier slice from the present place, `a` and `c` the flags
of the neighbours on the left, `run` the predicted pixels still to take; newest first in `done` (R128). -/
def takeFlags : Nat → Option Nat → Nat → Nat → List Nat → List Nat → List Bool → Option (List Nat × List Bool)
  | 0, _, _, _, _, _, _ => none
  | _ + 1, run, _, _, done, [], bs =>
    match run with
    | none => some (done.reverse, bs)
    | some 0 => some (done.reverse, bs)
    | some _ => none
  | fuel + 1, run, a, c, done, b :: prev, bs =>
    let p := if a = c then b else a
    match run with
    | none => do
      let (n, bs) ← takeUint 2 bs
      takeFlags fuel (some n) a c done (b :: prev) bs
    | some 0 => do
      let (l, bs) ← takeBits 4 0 bs
      if l = p then none else takeFlags fuel none l b (l :: done) prev bs
    | some (n + 1) => takeFlags fuel (some n) p b (p :: done) prev bs

/-- The one-bits before a zero, at most 24 (R130). -/
def takeOnes : Nat → Nat → List Bool → Option (Nat × List Bool)
  | 0, q, bs => some (q, bs)
  | _ + 1, _, [] => none
  | _ + 1, q, false :: t => some (q, t)
  | n + 1, q, true :: t => takeOnes n (q + 1) t

/-- The containers of a block from its flags and its EV section (R129, R130); newest first in `done`. -/
def takeEvs : Nat → Nat → Nat → Nat → List Nat → List Nat → List Nat → List Bool → Option (List Nat × List Bool)
  | _, _, _, _, done, [], _, bs => some (done.reverse, bs)
  | acc, cnt, a, c, done, f :: fs, prev, bs => do
    let b := prev.headD 0
    let k := riceOrder acc cnt
    let (q, bs) ← takeOnes 24 0 bs
    let (u, bs) ← if q = 24 then takeBits 12 0 bs
                  else do let (l, bs) ← takeBits k 0 bs; some (q * 2 ^ k + l, bs)
    if 4095 < u then none
    else
      let v := 4096 * f + evOfCode u (predEv a b c)
      let n := riceNext acc cnt u
      takeEvs n.1 n.2 v b (v :: done) fs prev.tail bs

/-- Decode a stored block against block h of the slice before; none for a malformed block (R131). -/
def decodeBlock (prev : List Nat) (bs : List Byte) : Option (List Nat) :=
  match bs with
  | [] => none
  | flag :: payload =>
    let fb := flag.toNat
    let k0 := bitsOf fb 5 2
    if fb % 4 ≠ 0 ∨ 11 < k0 then none
    else
      match fb / 64 with
      | 0 => do
        let b0 := prev.getD 0 0
        let fl := prev.map evFlags
        let (fs, rest) ← takeFlags 6200 none (evFlags b0) (evFlags b0) [] fl (msbBits payload)
        let (vs, rest) ← takeEvs (2 ^ k0) 1 b0 b0 [] fs prev rest
        if 7 < rest.length ∨ rest.any id then none else some vs
      | 1 => if k0 ≠ 0 ∨ payload.length ≠ 4096 then none
        else some ((List.range 2048).map fun i => fieldLE payload (2 * i) 2)
      | 2 => if k0 ≠ 0 ∨ payload ≠ [] then none else some (List.replicate 2048 0)
      | _ => none

end Sys2Proof.Machine
end

