-- ==== Sys2Proof/Machine/Staging.lean ====
section
/-! DEFINITION. The Osier codec and the staging and footprint rings: coding, waiting, expanding, poison, lead, replay and the
speed hint (05_staging.md, R124 to R150). -/

namespace Sys2Proof.Machine

/-! Addresses (R133, R134, R137). -/

/-- The address of a slice's staging slot. -/
def State.slotAddr (s : State) (n : Nat) : Nat := s.stgBase + n % s.stgSlots * s.stgAllot
/-- The address of an overflow chunk. -/
def State.chunkAddr (s : State) (c : Nat) : Nat := s.stgBase + s.stgSlots * s.stgAllot + 4096 * c
/-- The address of a slice's footprint slot. -/
def State.fpAddr (s : State) (n : Nat) : Nat := s.fpBase + n % s.fpSlots * 131072

/-- Staging, coding and expansion run (Table 5.8, R133). -/
def State.stages (s : State) : Bool := s.pathRuns Reg.STG_CTRL && !s.stg.cfgErr

/-- Slice w is the first of its slice group (R125). -/
def Work.keySlice (k : Work) (w : Nat) : Bool := match k.span (k.rowOf w) with | some (a, _) => w == a | none => true

/-- The containers of block h. -/
def blockOf (l : List Nat) (h : Nat) : List Nat := (l.drop (2048 * h)).take 2048

/-- A slice of zeros, before a key slice (R127). -/
def zeroSlice : List Nat := List.replicate 65536 0

/-- The chunks of a slice in order of use (R135). -/
def State.chunksOf (s : State) (n : Nat) : List Nat := (s.stg.chunks.filter fun c => c.2 = n).map (·.1)

/-! Lead, replay and the hint (R142 to R145). -/

/-- LEAD_MIN. -/
def State.leadMin (s : State) : Nat := s.field Reg.STG_LEAD_MIN 23 0

/-- Store HINT, shown in STG_HINT and, with ASSERTED, in TRK_SPEED_HINT (R144). -/
def State.setHint (s : State) (v : Nat) : State :=
  (s.setReg Reg.STG_HINT v).setReg Reg.TRK_SPEED_HINT (v + 65536 * b2n s.stg.hint)

/-- The hint is released (R145). -/
def State.releaseHint (s : State) : State :=
  if s.stg.hint then ({ s with stg := { s.stg with hint := false } }.setHint 1024).raise .stgHint else s

/-- The replay window moves on (R143): slices more than STG_REPLAY_MIN behind the exposure point are released, never one that
is not yet drained. -/
def State.releaseReplay (s : State) : State :=
  match s.curWork, s.run, s.exposure with
  | some k, some r, some e =>
    match k.nb with
    | some nb =>
      let behind := ((nb : Int) + e - (s.field Reg.STG_REPLAY_MIN 23 0 : Nat) - 1).toNat
      s.releaseTo (min behind (nb + k.wStart + (r.launched - 130944)))
    | none => s
  | _, _, _ => s

/-- The oldest slice held, when it lies in the replay window and is drained (R143). -/
def State.oldestReplay (s : State) : Option Nat :=
  match (s.stg.slices.map (·.1)).min? with
  | none => none
  | some n =>
    match s.workOfN n with
    | none => some n
    | some (k, w) =>
      let past := match s.exposureOf k with
        | some e => decide ((w : Int) ≤ e)
        | none => !s.isLive k.id
      if past && s.drainedSlice k w then some n else none

/-- The encoder can go on with slice n: its slot is not held, and a chunk is free if it needs one (R136). -/
def State.slotFree (s : State) (n : Nat) : Bool := !(s.stg.slices.any fun p => p.1 ≠ n && p.1 % s.stgSlots == n % s.stgSlots)

/-- What the encoder waits for is there. -/
def State.supplied (s : State) : Bool :=
  match s.stg.wait with
  | none => true
  | some (.slot, id, w) => match (s.workAt id).bind (·.nb) with | some nb => s.slotFree (nb + w) | none => true
  | some (.chunk, _, _) => decide (s.stg.chunks.length < s.stgChunks)

/-- Replay slices are released early while the encoder waits below LEAD_MIN (R143). -/
def State.yieldReplay : Nat → State → State
  | 0, s => s
  | fuel + 1, s =>
    if s.supplied || !s.bit Reg.STG_CTRL 1 || s.exposure.isNone || decide (s.leadMin ≤ s.lead) || s.leadDone.2 then s
    else
      match s.oldestReplay with
      | some n => State.yieldReplay fuel ((s.releaseTo (n + 1)).bump Reg.STG_REPLAY_SHORT)
      | none => s

/-- Release early as far as it is called for. -/
def State.yields (s : State) : State := State.yieldReplay (s.stg.slices.length + 1) s

/-! The encoder (R134 to R136). -/

/-- Take a chunk for slice n: ascending from the cursor, which wraps (R135). -/
def State.takeChunk : Nat → State → Nat → State
  | 0, s, _ => s
  | fuel + 1, s, n =>
    let c := s.stg.cursor
    let s := { s with stg := { s.stg with cursor := if c + 1 < s.stgChunks then c + 1 else 0 } }
    if s.stg.chunks.any fun p => p.1 = c then State.takeChunk fuel s n
    else
      let s := { s with stg := { s.stg with chunks := s.stg.chunks ++ [(c, n)] } }
      s.memWrite64 (s.reg64 Reg.STG_CMAP_BASE_LO Reg.STG_CMAP_BASE_HI + 8 * c) (n % 2 ^ 48 + 2 ^ 63)

/-- Take chunks for slice n until it holds `want` or the pool is empty. -/
def State.takeChunks : Nat → State → Nat → State
  | 0, s, _ => s
  | want + 1, s, n =>
    if (s.chunksOf n).length < want + 1 then
      let s := State.takeChunks want s n
      if s.stg.chunks.length < s.stgChunks then State.takeChunk (s.stg.chunks.length + 1) s n else s
    else s

/-- The slice header (Table 5.3). -/
def State.sliceHeader (s : State) (k : Work) (x : SliceOut) (n : Nat) (ends chunks : List Nat) : List Byte :=
  leBytes 4 (x.w % 2 ^ 25)
    ++ leBytes 4 (k.stripe % 65536 + 2 ^ 16 * b2n (k.set.getD false) + 2 ^ 17 * ((s.rowGen k.stripe (k.rowOf x.w)).getD 0 % 16)
        + 2 ^ 21 * b2n (k.keySlice x.w))
    ++ leBytes 4 (x.epoch % 65536) ++ leBytes 4 n ++ leBytes 4 (n / 2 ^ 32 % 65536)
    ++ leBytes 4 (ends.getLastD 0 + 2 ^ 18 * chunks.length)
    ++ List.replicate 104 0 ++ ends.flatMap (leBytes 4)
    ++ ((List.range 32).map fun i => chunks.getD i 0xFFFFFFFF).flatMap (leBytes 4)

/-- Write a data sequence behind its header and into its chunks (R134). -/
def State.writeData (s : State) (n : Nat) (data : List Byte) (chunks : List Nat) : State :=
  let d0 := s.stgAllot - 384
  let s := s.memWrite (s.slotAddr n + 384) (data.take d0)
  chunks.zipIdx.foldl (fun s c => s.memWrite (s.chunkAddr c.1) ((data.drop (d0 + 4096 * c.2)).take 4096)) s

/-- Instants of the last 16.384 ms (R144). -/
def lately (now : Nat) (l : List Nat) : List Nat := l.filter fun t => decide (now < t + usTu 16384)

/-- A slice has been coded: its group moves on, and a group regenerated whole is counted (R147). -/
def State.groupCoded (s : State) (k : Work) (x : SliceOut) : State :=
  let t := k.rowOf x.w
  let fin := match k.span t with | some (_, b) => x.w == b | none => false
  let regen := (k.group t).regen
  let s := s.modWork k.id fun k => k.modGroup t fun g =>
    { g with coded := g.coded + 1, prev := x.containers, regen := g.regen && !fin }
  let s := if fin then s.modWork k.id fun k => (List.range 16).foldl (fun k (c : Nat) => k.modTile t (c : Int) fun y =>
      { y with regen := false }) k else s
  if fin && regen then s.bump Reg.STG_REGEN_ROWS else s

/-- Code a slice into its slot, or wait for a slot or a chunk (R126, R134 to R136). A slice already released is not stored
again. -/
def State.codeSlice (s : State) (k : Work) (nb : Nat) (x : SliceOut) : State :=
  let n := nb + x.w
  let prev := if k.keySlice x.w then zeroSlice else (k.group (k.rowOf x.w)).prev
  let taken := { s.cor with slices := s.cor.slices.filter fun y => y ≠ x }
  if s.releasedSlice k x.w then ({ s with cor := taken, stg := { s.stg with wait := none } }).groupCoded k x
  else
    let blocks := (List.range 32).map fun h => encodeBlock (blockOf x.containers h) (blockOf prev h)
    let modes := (List.range 32).map fun h => osierMode (blockOf x.containers h) (blockOf prev h)
    let data := blocks.flatMap id
    let ends := (List.range 32).map fun h => ((blocks.take (h + 1)).map List.length).sum
    let want := (data.length - (s.stgAllot - 384) + 4095) / 4096
    if !s.slotFree n then { s with stg := { s.stg with wait := some (.slot, k.id, x.w) } }.yields
    else
      let s := State.takeChunks want s n
      if (s.chunksOf n).length < want then
        let s := if s.stg.wait.any fun y => y.1 == .chunk then s else s.bump Reg.STG_POOL_WAITS
        { s with stg := { s.stg with wait := some (.chunk, k.id, x.w) } }.yields
      else
        let chunks := s.chunksOf n
        let s := (s.writeData n data chunks).memWrite (s.slotAddr n) (s.sliceHeader k x n ends chunks)
        let s := (s.bumpBy Reg.OSR_CODED (modes.count .coded)).bumpBy Reg.OSR_RAW (modes.count .raw)
        let s := s.bumpBy Reg.OSR_ZERO (modes.count .zero)
        let s := { s with
          cor := taken,
          stg := { s.stg with
            wait := none,
            slices := (n, { work := k.id, w := x.w }) :: s.stg.slices.filter fun p => p.1 ≠ n,
            doneTimes := lately s.time s.stg.doneTimes ++ [s.time],
            sizes := (s.stg.sizes ++ [data.length]).drop (s.stg.sizes.length + 1 - 4096) } }
        let late := (k.group (k.rowOf x.w)).regen && (match s.exposureOf k with
          | some e => decide ((x.w : Int) ≤ e)
          | none => false)
        let s := s.groupCoded k x
        let s := if late then (s.bump Reg.STG_REGEN_LATE).stgLog 0x05 0 k.stripe x.w else s
        if s.leadDone.2 then s.releaseHint else s

/-- The encoder takes a slice that the correction block has handed over: the first of its group, and the slice it waits with
while it waits. -/
def State.encode (s : State) (id w : Nat) : State :=
  match s.workAt id with
  | none => s
  | some k =>
    match k.nb, s.cor.slices.find? fun x => x.work = id ∧ k.rowOf x.w = k.rowOf w with
    | some nb, some x =>
      if x.w = w ∧ s.stages = true ∧ (s.stg.wait.all fun y => y.2 == (id, w)) = true then s.codeSlice k nb x else s
    | _, _ => s

/-! The decompressor (R137, R138). -/

/-- The containers of a slice in its footprint slot (R137). -/
def State.fpContainers (s : State) (n : Nat) : List Nat :=
  (List.range 65536).map fun x => leNat (s.bytesAt (s.fpAddr n + 1024 * (x % 128) + 2 * (x / 128)) 2)

/-- The bytes of a footprint slot that holds a slice (R137). -/
def fpBytes (l : List Nat) : List Byte :=
  (List.range 128).flatMap fun r => (List.range 512).flatMap fun c => leBytes 2 (l.getD (128 * c + r) 0)

/-- The parts of local memory that a staged slice lies in: address and length. -/
def State.stagedParts (s : State) (n : Nat) : List (Nat × Nat) :=
  let len := leNat (s.bytesAt (s.slotAddr n + 0x14) 4) % 2 ^ 18
  let d0 := s.stgAllot - 384
  (s.slotAddr n, 384 + min len d0) :: (s.chunksOf n).zipIdx.map fun c => (s.chunkAddr c.1, min 4096 (len - d0 - 4096 * c.2))

/-- Some part of a staged slice is delivered with poison. -/
def State.stagedPoison (s : State) (n : Nat) : Bool := (s.stagedParts n).any fun p => s.poisonIn p.1 p.2

/-- The header of a staged slice is what its slot expects, and its lists are consistent (R138). -/
def State.headerOk (s : State) (k : Work) (n w : Nat) : Bool :=
  let h := s.bytesAt (s.slotAddr n) 384
  let len := fieldLE h 0x14 4 % 2 ^ 18
  let count := bitsOf (fieldLE h 0x14 4) 23 18
  let ends := (List.range 32).map fun i => fieldLE h (0x80 + 4 * i) 4
  let list := (List.range 32).map fun i => fieldLE h (0x100 + 4 * i) 4
  fieldLE h 0 4 % 2 ^ 25 == w && fieldLE h 4 2 == k.stripe && fieldLE h 0xC 4 + 2 ^ 32 * fieldLE h 0x10 2 == n
    && ends.getLastD 0 == len && (List.zip (0 :: ends) ends).all (fun p => decide (p.1 < p.2))
    && count == (len - (s.stgAllot - 384) + 4095) / 4096
    && (list.take count).all (fun c => decide (c < s.stgChunks)) && (list.drop count).all (· == 0xFFFFFFFF)

/-- The data sequence of a staged slice, by its header's CHUNK list (R134). -/
def State.stagedData (s : State) (n : Nat) : List Byte :=
  let h := s.bytesAt (s.slotAddr n) 384
  let len := fieldLE h 0x14 4 % 2 ^ 18
  let d0 := s.stgAllot - 384
  let count := bitsOf (fieldLE h 0x14 4) 23 18
  let chunks := (List.range count).map fun i => fieldLE h (0x100 + 4 * i) 4
  s.bytesAt (s.slotAddr n + 384) (min len d0)
    ++ chunks.zipIdx.flatMap fun c => s.bytesAt (s.chunkAddr c.1) (min 4096 (len - d0 - 4096 * c.2))

/-- Decode the blocks of a staged slice against the slice before it; none for a malformed block (R131, R138). -/
def State.decodeSlice (s : State) (n : Nat) (prev : List Nat) : Option (List Nat) :=
  let h := s.bytesAt (s.slotAddr n) 384
  let data := s.stagedData n
  let ends := 0 :: (List.range 32).map fun i => fieldLE h (0x80 + 4 * i) 4
  ((List.range 32).mapM fun i =>
    let a := ends.getD i 0
    decodeBlock (blockOf prev i) (slice data a (ends.getD (i + 1) 0 - a))).map List.flatten

/-- The containers of slice w of a work as the decompressor has them: the footprint's where it is valid, else decoded from
staging, back to the key slice. -/
def State.decoded : Nat → State → Work → Nat → Nat → Option (List Nat)
  | 0, _, _, _, _ => none
  | fuel + 1, s, k, nb, w =>
    if s.stg.fp.contains ((nb + w) % s.fpSlots, nb + w) then some (s.fpContainers (nb + w))
    else
      match if k.keySlice w then some zeroSlice else State.decoded fuel s k nb (w - 1) with
      | none => none
      | some prev => s.decodeSlice (nb + w) prev

/-! Poisoned data in the rings (Table 5.5). -/

/-- Change the record of a staged slice. -/
def State.modStaged (s : State) (n : Nat) (f : Staged → Staged) : State :=
  { s with stg := { s.stg with slices := s.stg.slices.map fun p => if p.1 = n then (p.1, f p.2) else p } }

/-- Data of slice n is poisoned, or fails a check of R138, in its staging slot or a chunk (Table 5.5). -/
def State.stagingPoison (s : State) (n : Nat) (check : Bool) : State :=
  match s.stg.slices.find? fun p => p.1 = n, s.workOfN n with
  | some (_, x), some (k, w) =>
    let status := if check then Stat.internal else 0
    let s := if check then (s.bump Reg.OSR_DEC_ERRS).raise .osrErr else s
    if x.expanded then
      (s.modStaged n fun x => { x with lost := true }).stgLog (if check then 0x04 else 0x02) status k.stripe w
    else s.invalidateRows k.id [k.rowOf w] (if check then 0x04 else 0x01) status
  | _, _ => s

/-- Data of slice n is poisoned in its footprint slot (Table 5.5). -/
def State.fpPoison (s : State) (n : Nat) : State :=
  match s.workOfN n with
  | none => s
  | some (k, w) =>
    if s.drainedSlice k w then s
    else
      match s.stg.slices.find? fun p => p.1 = n with
      | some (_, x) =>
        if x.lost then s.invalidateRows k.id [k.rowOf w] 0x03 0
        else
          let s := s.modStaged n fun x => { x with expanded := false }
          let s := { s with stg := { s.stg with fp := s.stg.fp.filter fun p => p.2 ≠ n } }
          s.stgLog 0x03 0 k.stripe w
      | none => s.invalidateRows k.id [k.rowOf w] 0x03 0

/-- The footprint slot of slice n is free: empty, or the slice it holds is drained (R139). -/
def State.fpFree (s : State) (n : Nat) : Bool :=
  s.stg.fp.all fun p => p.1 ≠ n % s.fpSlots || (match s.workOfN p.2 with
    | some (k, w) => s.drainedSlice k w
    | none => true)

/-- Slices are expanded in ascending n (R138): every earlier slice of a live work has been expanded, or is drained, released or
under regeneration. -/
def State.expandTurn (s : State) (n : Nat) : Bool :=
  s.liveWorks.all fun k => match k.nb with
    | none => true
    | some nb => (List.range (min k.len (n - nb))).all fun w =>
        decide (w < k.wStart) || s.releasedSlice k w || s.drainedSlice k w || (k.group (k.rowOf w)).regen
          || s.stg.slices.any fun p => p.1 == nb + w && p.2.expanded

/-- Expand slice n (R138). -/
def State.expand (s : State) (n : Nat) : State :=
  match s.stg.slices.find? fun p => p.1 = n, s.workOfN n with
  | some (_, x), some (k, w) =>
    if x.expanded || x.lost || !s.stages || !s.fpFree n || !s.expandTurn n then s
    else
      let bad := s.stagedPoison n
      let out := if s.headerOk k n w then State.decoded 4097 s k (n - w) w else none
      let s := (s.stagedParts n).foldl (fun s p => s.touch .fill p.1 p.2) s
      if bad then s.stagingPoison n false
      else
        match out with
        | none => s.stagingPoison n true
        | some l =>
          let s := (s.memWrite (s.fpAddr n) (fpBytes l)).modStaged n fun x => { x with expanded := true }
          { s with stg := { s.stg with
            fp := (n % s.fpSlots, n) :: s.stg.fp.filter fun p => p.1 ≠ n % s.fpSlots } }
  | _, _ => s

/-! The speed hint (R144, R145). -/

/-- One projection: the rates, and the hint asserted, updated or released. -/
def State.projectHint (s : State) : State :=
  let done := lately s.time s.stg.doneTimes
  let ticks := lately s.time s.stg.tickTimes
  let rho := done.length * 1000 / 16384
  let rate := ticks.length * 1000 / 16384
  let s := { s with stg := { s.stg with doneTimes := done, tickTimes := ticks } }
  let s := s.setReg Reg.STG_RATE (min rho 65535 + 65536 * min rate 65535)
  let h : Int := clampNat 1 1000 (s.field Reg.STG_HINT_CFG 15 0)
  let lead : Int := s.lead
  let lo : Int := s.leadMin
  let hint : Nat := min 1023 (floorDiv (1024 * ((rho : Int) * h + lead - lo)) (1000 * h)).toNat
  if s.exposure.isNone || s.leadDone.2 then s.releaseHint
  else if s.stg.hint then
    if lo + 1000 * (s.field Reg.STG_HINT_CFG 31 16 : Nat) ≤ lead ∧ lo ≤ lead + ((rho : Int) - 1000) * h then s.releaseHint
    else s.setHint hint
  else if lead < lo ∨ lead + ((rho : Int) - rate) * h < lo then
    (({ s with stg := { s.stg with hint := true } }.setHint hint).bump Reg.STG_HINTS).raise .stgHint
  else s

/-! Meanings. -/

/-- SLICE_CODED (R134). -/
def execSliceCoded (stripe w : Nat) (s : State) : Host.Outcome State Fault Refusal :=
  finish s (match s.liveOf stripe with
    | some k => s.encode k.id w
    | none => s)

/-- ENCODER_RESUME (R136). -/
def execEncoderResume (s : State) : Host.Outcome State Fault Refusal :=
  finish s (match s.stg.wait with
    | some (_, id, w) => s.encode id w
    | none => s)

/-- EXPAND_SLICE (R138). -/
def execExpandSlice (n : Nat) (s : State) : Host.Outcome State Fault Refusal := finish s (s.expand n)

/-- HINT_PROJECTION (R144). -/
def execHintProjection (t : Nat) (s : State) : Host.Outcome State Fault Refusal := finish s (s.at_ t).projectHint

end Sys2Proof.Machine
end

