-- ==== Sys2Proof/Machine/Run.lean ====
section
/-! DEFINITION. What a bound run meets: holes and the shot ledger (R159, R160, R174 to R177), truncation, abandonment and the
end of a run (R405, R406, R222), lane faults and lost frames (R221 to R224, R239 to R242). -/

namespace Sys2Proof.Machine

/-! Logs (R183, R209, R249). -/

/-- Write the BMF error log and raise BMF_ERR (Table 6.17). -/
def State.bmfLog (s : State) (reason quad tick : Nat) : State :=
  ((s.bump Reg.BMF_ERR_COUNT).setRegs (Reg.BMF_ERR_LOG_0 0)
    [reason + 256 * quad, s.stripeNow, tick % 2 ^ 26]).raise .bmfErr

/-- Write the TRK event log (Table 7.11). -/
def State.trkLog (s : State) (code : Nat) (stop : Bool) : State :=
  s.setRegs (Reg.TRK_EVT_LOG_0 0) [code + 256 * b2n stop, s.stripeNow, s.stickNow % 2 ^ 26]

/-- Write the LNK error log (Table 8.13). -/
def State.lnkLog (s : State) (code lane llane : Nat) : State :=
  (s.bump Reg.LNK_ERR_COUNT).setRegs (Reg.LNK_ERR_LOG_0 0)
    [code + 2 ^ 8 * lane + 2 ^ 15 * llane, s.stripeNow, s.stickNow % 2 ^ 26]

/-! The beam feed's view of a run (R158, R160, R166). -/

/-- Row i is marked as a hole at tick k. -/
def State.marked (s : State) (i k : Nat) : Bool :=
  s.bmf.holes.any fun m => decide (m.row0 ≤ i ∧ i ≤ m.row1 ∧ m.k0 ≤ k ∧ k ≤ m.k1)

/-- YTRIM of a beam in the beam store. -/
def Bmf.trim (f : Bmf) (b : Nat) : Nat := slathTrim (f.store.num (f.store.base + 8 * b) 8)

/-- The run as the share plan sees it. -/
def State.view (s : State) (r : Run) : RunView :=
  { down := r.down, wStart := r.wStart, len := r.len, dry := r.dry, heal := s.bit Reg.BMF_CTRL 1,
    dead := fun b => s.bmf.dead.contains b, trim := s.bmf.trim, hole := s.marked }

/-- The beams of a row. -/
def rowBeams (i : Nat) : List Nat := (List.range 512).map (512 * i + ·)

/-- Some shot of tick k carries dose (R159). -/
def RunView.carriesDose (v : RunView) (k : Nat) : Bool :=
  (List.range 512).any fun i => (rowBeams i).any fun b => !v.dead b && (v.windex b k).isSome

/-- The largest YTRIM of the row with q = 511 (R177). -/
def State.yLast (s : State) (r : Run) : Nat :=
  (rowBeams (if r.down then 511 else 0)).foldl (fun a b => max a (s.bmf.trim b)) 0

/-! The shot ledger (R174, R175). -/

/-- BMF_LEDGER_SLOTS. -/
def State.ledgerSlots (s : State) : Nat := clampNat 4 1024 (s.field Reg.BMF_LEDGER_SLOTS 10 0)

/-- The address of a ledger slot. -/
def State.ledgerAddr (s : State) (slot : Nat) : Nat :=
  s.reg64 Reg.BMF_LEDGER_BASE_LO Reg.BMF_LEDGER_BASE_HI + 0x200000 * slot

/-- The last tick of a run (R190). -/
def Run.lastTick (r : Run) : Nat := runTicks r.wStart r.len - 1

/-- The descriptor of a run (Table 6.10); a negative TRUNC_TICK is written in two's complement. -/
def State.descOf (s : State) (r : Run) (ending resumeW : Nat) : LedgerDesc :=
  { jobId := s.fig.jobId, serial := r.serial, stripe := r.stripe, down := r.down, kind := r.kind, depth := r.depth,
    dry := r.dry, bank := r.bank, ending := ending, heal := s.bit Reg.BMF_CTRL 1, wStart := r.wStart, len := r.len,
    predSlot := r.predSlot, predValid := decide (0 < r.depth), predSerial := r.predSerial,
    truncTick := match r.trunc with | some (t, _) => unsignedOf 32 t | none => 0,
    resumeW := resumeW, entries := r.entries.length, shortPixels := r.shortPixels, holeShots := r.holeShots,
    truncCause := match r.trunc with | some (_, c) => c | none => 0 }

/-- Write the last hole entry of the run into its slot (Table 6.9). -/
def State.writeEntry (s : State) (r : Run) (es : List HoleEntry) : State :=
  match es.getLast? with
  | some e => (s.memWrite (s.ledgerAddr r.slot + 0x30000 + 16 * (es.length - 1)) e.bytes).setReg Reg.BMF_LEDGER_USED es.length
  | none => s

/-- Count short pixels (R163). -/
def State.addShort (s : State) (n : Nat) : State :=
  if n = 0 then s
  else
    ((s.bumpBy Reg.BMF_SHORT_PIXELS n).modRun fun r => { r with shortPixels := min (r.shortPixels + n) 0xFFFFFFFF }).once
      .short fun s => s.raise .bmfShort

/-- Count shots marked as holes (R159). -/
def State.addShots (s : State) (n : Nat) : State :=
  if n = 0 then s
  else
    ((s.bumpBy Reg.BMF_HOLE_SHOTS n).modRun fun r => { r with holeShots := min (r.holeShots + n) 0xFFFFFFFF }).once
      .hole fun s => s.raise .bmfHole

/-- The pixels that a mark makes short (R163): those kept for the rows and frames that it covers. -/
def State.takeShorts (s : State) (m : HoleMark) : State :=
  let hit := fun (x : RowShort) => decide (m.row0 ≤ x.row ∧ x.row ≤ m.row1 ∧ m.k0 ≤ x.k ∧ x.k ≤ m.k1)
  let n := ((s.bmf.shorts.filter hit).map (·.count)).sum
  ({ s with bmf := { s.bmf with shorts := s.bmf.shorts.filter fun x => !hit x } } : State).addShort n

/-- Mark rows r0 to r1 at tick k as holes of a cause, with its ledger entry (R159, R160, R175). -/
def State.holeRaw (s : State) (c : HoleCause) (k r0 r1 : Nat) : State :=
  match s.run with
  | none => s
  | some r =>
    let fresh := ((List.range (r1 + 1 - r0)).filter fun i => !s.marked (r0 + i) k).length
    let m : HoleMark := { row0 := r0, row1 := r1, k0 := k, k1 := k }
    let s := s.takeShorts m
    let s := { s with bmf := { s.bmf with holes := s.bmf.holes ++ [m] } }
    let s := s.addShots (512 * fresh)
    let es := addHole r.entries c k r0 r1
    if ledgerCapacity < es.length then s
    else (s.modRun fun r => { r with entries := es }).writeEntry r es

/-! Truncation and abandonment (R177, R405, R406). -/

/-- Control blocks of an event: what each lane sent. -/
def State.sendBlocks (s : State) (bs : List (Nat × Nat)) : State := { s with lnk := { s.lnk with sentBlocks := bs } }

/-- The assigned physical lanes with their logical lanes, in ascending logical lane. -/
def State.assigned (s : State) : List (Nat × Nat) :=
  (List.range 64).filterMap fun l => (s.carrier l).map fun p => (l, p)

/-- LAST_FIRED of a run (R218). -/
def Run.lastFired (r : Run) : Int := if r.noTicks then (r.issued : Int) - 3 else r.lastFrame

/-- Send the END blocks of a run whose last frame has left (R218). -/
def State.sendEnd (s : State) : State :=
  match s.run with
  | none => s
  | some r =>
    if r.endBlock || r.launched ≤ r.lastFrame then s
    else
      let b := endBlock (unsignedOf 26 r.lastFired) r.serial
      let s := { s with lnk := { s.lnk with lastEnd := b } }
      (s.sendBlocks (s.assigned.map fun x => (x.2, b))).modRun fun r => { r with endBlock := true }

/-- A run ends or is abandoned: what waits for that, and what the end leaves (R145, R268, Table 13.3). -/
def State.closeRun (s : State) (r : Run) (ending : Nat) : State :=
  let s := { s with run := none, runEnded := some { serial := r.serial, ending := ending, slot := r.slot },
                    glb := { s.glb with planAt := none },
                    lnk := { s.lnk with idleSince := s.time, noSpare := false },
                    trk := { s.trk with simNext := none, depth := 0 } }
  let s := s.releaseHint
  (s.trigger 0x42 r.serial).tellRunEnd r.serial ending r.slot

/-- A run is abandoned before stripe tick 0 (R406): its slot stays unwritten. GLB_TRUNC_LOG has no t to record: that field is
a free value. -/
def State.abandonRun (s : State) (r : Run) (src : Nat) : State :=
  let s := ((s.bump Reg.GLB_TRUNCS).setRegs (Reg.GLB_TRUNC_LOG_0 0) [src, r.stripe, s.drawn % 2 ^ 26]).next
  let s := match s.cor.cur with | some id => s.abandonWork id | none => s
  s.closeRun r 3

/-- The ticks of rows 0 to 511 from `first` to `last` that no mark covers yet, counted with their rows. -/
def State.unmarked (s : State) (first last : Nat) : Nat :=
  let pairs := (s.bmf.holes.flatMap fun m =>
    (List.range (min m.k1 last + 1 - max m.k0 first)).flatMap fun d =>
      (List.range (m.row1 + 1 - m.row0)).map fun i => (max m.k0 first + d, m.row0 + i)).eraseDups
  512 * (last + 1 - first) - pairs.length

/-- The run is truncated at tick t (R177, R405): no frame after t + 2, all rows marked from there to the run's end. `stop` is
the end without further ticks of R195. -/
def State.truncateAt (s : State) (r : Run) (src : Nat) (t : Int) (stop : Bool) : State :=
  let last := if stop then min r.lastFrame (r.issued - 1) else min r.lastFrame (t + 2).toNat
  let first := (t + 2).toNat
  let s := (s.bump Reg.GLB_TRUNCS).setRegs (Reg.GLB_TRUNC_LOG_0 0) [src + 256, r.stripe, unsignedOf 26 t]
  let s := s.modRun fun r => { r with trunc := some (t, src), lastFrame := last, noTicks := stop }
  let s : State := { s with glb := { s.glb with planAt := none } }
  let s := if first ≤ r.lastTick then
      let m : HoleMark := { row0 := 0, row1 := 511, k0 := first, k1 := r.lastTick }
      let n := 512 * s.unmarked first r.lastTick
      let s := s.takeShorts m
      ({ s with bmf := { s.bmf with holes := s.bmf.holes ++ [m] } } : State).addShots n
    else s
  s.sendEnd

/-- A truncation of a source of Table 14.6 is decided, with its t: the run ends once only, and a source has no effect when every
frame's tick has been issued (R405, R406). -/
def State.truncate (s : State) (src : Nat) (t : Run → Int) (stop : Bool) : State :=
  match s.run with
  | none => s
  | some r =>
    if r.trunc.isSome then s
    else if r.issued = 0 then s.abandonRun r src
    else if !stop && decide (r.lastTick < r.issued) then s
    else s.truncateAt r src (t r) stop

/-- A truncation at the last tick issued. -/
def State.truncateNow (s : State) (src : Nat) : State := s.truncate src (fun r => (r.issued : Int) - 1) false

/-- A hole, and the end of the run when fewer than 16 entries remain free (R176). -/
def State.hole (s : State) (c : HoleCause) (k r0 r1 : Nat) : State :=
  let s := s.holeRaw c k r0 r1
  match s.run with
  | some r =>
    if ledgerCapacity < r.entries.length + 16 then
      s.once .ledger fun s => ((s.bmfLog 0x06 0 s.stickNow).raise .bmfLedger).truncateNow 0x0A
    else s
  | none => s

/-- The end of a run (R174, R177, R222): the TRUNCATE or ABORT entry, the descriptor, and the work's end. -/
def State.endRun (s : State) : State :=
  match s.run with
  | none => s
  | some r0 =>
    let s := match r0.trunc with
      | some (t, src) =>
        let first := (t + 2).toNat
        if first ≤ r0.lastTick ∧ r0.entries.length < ledgerCapacity then
          let e : HoleEntry := { cause := if src = 0x0C then .abort else .truncate, kFirst := first, rowFirst := 0,
                                 rowLast := 511 }
          let es := r0.entries ++ [e]
          (s.modRun fun r => { r with entries := es }).writeEntry r0 es
        else s
      | none => s
    match s.run with
    | none => s
    | some r =>
      let resumeW := match r.trunc with
        | some (t, _) => min (r.wStart + (t - 130942 - (s.yLast r : Int)).toNat) r.len
        | none => 0
      let ending := if r.trunc.isSome then 2 else 1
      let s := s.memWrite (s.ledgerAddr r.slot) (s.descOf r ending resumeW).bytes
      let e := s.exposure
      let s := match s.cor.cur with
        | some id =>
          let s := s.modWork id fun k =>
            { k with lastE := e, slot := none, groups := k.groups.map fun (g : Group) => { g with regen := false } }
          let s : State := { s with cor := { s.cor with cur := none, slices := s.cor.slices.filter fun x => x.work ≠ id },
                                    stg := { s.stg with wait := s.stg.wait.filter fun x => x.2.1 ≠ id } }
          s.keepPasses fun i => i ≠ id
        | none => s
      let s : State := { s with
        bmf := { s.bmf with frameK := none, frame := [], shorts := [], loading := false },
        lnk := { s.lnk with out := [], lanes := s.lnk.lanes.map fun (l : Lane) =>
                          if l.state = .active ∧ r.launched ≤ l.carryFrom ∧ 0 < l.carryFrom then
                            { l with carryFrom := 0, swapDue := true } else { l with carryFrom := 0 } } }
      (s.closeRun r ending).sweepWorks

/-! Lost frames and lane faults (R221 to R224, R239 to R242). -/

/-- CRC_LIMIT, FAULT_ACKS and PFAULT_LANES (LNK_ACK_CFG; "0 is read and used as the lower limit"). -/
def State.crcLimit (s : State) : Nat := atLeast1 (s.field Reg.LNK_ACK_CFG 11 4)
/-- FAULT_ACKS. -/
def State.faultAcks (s : State) : Nat := atLeast1 (s.field Reg.LNK_ACK_CFG 3 0)
/-- PFAULT_LANES. -/
def State.pfaultLanes (s : State) : Nat := clampNat 2 8 (s.field Reg.LNK_ACK_CFG 15 12)

/-- A frame of logical lane l is declared lost on some of its rows (R221, R222). -/
def State.frameLost (s : State) (l k : Nat) (rows : List (Nat × Nat)) : State :=
  let s : State := { s with lnk := { s.lnk with out := s.lnk.out.filter fun x => x ≠ (l, k) } }
  let s := s.bump Reg.LNK_LOST_FRAMES
  let s := rows.foldl (fun s x => s.hole .linkLost k x.1 x.2) s
  s.once .lost fun s => s.raise .lnkLost

/-- Count a frame lost on a physical lane over its life (R387, bins 219 to 290). -/
def State.laneLost (s : State) (p : Nat) : State := s.histBump (219 + p) 1

/-- Count a frame lost under R221 on a physical lane. -/
def State.nakCount (s : State) (p : Nat) : State := ((s.bump Reg.LNK_NAK_COUNT).bump (Reg.LNK_LN_NAK (p % 72))).laneLost p

/-- Add the outcome of a frame to a lane's last 1,024 (R223, NAK_RATE). -/
def Lane.outcome (x : Lane) (lost : Bool) : Lane := { x with hist := (lost :: x.hist).take 1024 }

/-- Every outstanding frame of a logical lane is lost for all eight rows (R239). -/
def State.loseAll (s : State) (l p : Nat) : State :=
  (s.lnk.out.filter fun x => x.1 = l).foldl (fun s x => (s.nakCount p).frameLost l x.2 [laneRows l]) s

/-- The lowest SPARE lane in P0, or in P1 with SPARE_P1 = 1 when none is in P0 (R239). -/
def State.spareLane (s : State) : Option Nat :=
  let at_ := fun (tx : Nat) => (List.range 72).find? fun p => (s.lane p).state = .spare ∧ (s.lane p).tx = tx
  match at_ 0 with
  | some p => some p
  | none => if s.bit Reg.LNK_CTRL 1 then at_ 1 else none

/-- A lane leaves service (R240, R242, R246). -/
def State.failLane (s : State) (p code : Nat) (st : LaneState) : State :=
  (s.modLane p fun x => { x with state := st, lastFault := code, tx := 3, rx := 3, llane := 0, carryFrom := 0, hist := [],
                                 lateRun := 0, fresh := false, swapDue := false, relockDue := false }).setReg
    (Reg.LNK_LN_INJ (p % 72)) 0

/-- Retire a lane: it is recorded in the withy pool (R242). -/
def State.retireLane (s : State) (p : Nat) : State :=
  (s.modLane p fun x => { x with state := .retired, tx := 3, rx := 3 }).withyChange 1 2 p 0

/-- Count a swap-out of a lane's life; LANE_RETIRE of them retire it (R242). -/
def State.swapOut (s : State) (p : Nat) : State :=
  let n := smGet (fun _ => 0) s.rcr.live.swapouts p + 1
  let s := s.withyChange 1 4 p n
  if atLeast1 (s.field Reg.LNK_RECAL 19 16) ≤ n then s.retireLane p else s

/-- Logical lane l is DOWN (R241). -/
def State.laneDown (s : State) (l p : Nat) : State :=
  ({ s with lnk := { s.lnk with down := ssAdd l s.lnk.down } } : State).lnkLog 0x23 p l

/-- Give logical lane l to spare sp (R239): with a run bound a SWAP block names the first frame on it. -/
def State.giveSpare (s : State) (l p sp : Nat) : State :=
  let p1 := (s.lane sp).tx ≠ 0
  let from_ := match s.run with
    | some r => r.issued + (if p1 then 2 else 1)
    | none => 0
  let s := s.modLane sp fun x => { x with state := .active, llane := l, tx := 0, rx := 0, fresh := true,
                                          carryFrom := from_, swapDue := s.run.isNone, hist := [], lateRun := 0,
                                          lastRet := s.time }
  let s := match s.run with
    | some r => s.sendBlocks [(sp, swapBlock l from_ r.serial)]
    | none => s
  ((s.bump Reg.LNK_SWAPS).swapOut p).raise .lnkSwap

/-- A lane fault (R223, R224, R239 to R241). -/
def State.laneFault (s : State) (p code : Nat) : State :=
  let x := s.lane p
  match x.state with
  | .active =>
    let l := x.llane
    let recent := (s.lnk.faults.filter fun t => decide (s.time < t + msTu 1)) ++ [s.time]
    let s : State := { s with lnk := { s.lnk with faults := if s.run.isSome then recent else s.lnk.faults } }
    let s := s.failLane p code .failed
    let s := s.loseAll l p
    let partner := s.run.isSome && !s.lnk.noSpare && decide (s.pfaultLanes ≤ recent.length)
    let s := if partner then
        let s : State := { s with lnk := { s.lnk with noSpare := true, partner := 3, downHeld := ssAdd l s.lnk.downHeld } }
        ((s.laneDown l p).lnkLog 0x20 0x7F l).raise .lnkPartner
      else if s.lnk.noSpare then
        ({ s with lnk := { s.lnk with downHeld := ssAdd l s.lnk.downHeld } } : State).laneDown l p
      else
        match s.spareLane with
        | some sp => s.giveSpare l p sp
        | none => s.laneDown l p
    let s := s.lnkLog code p l
    if partner then s.truncateNow 0x07 else s
  | .spare => (s.failLane p code .failed).lnkLog code p 0
  | .spareCal => (s.failLane p code .failed).lnkLog code p 0
  | _ => s

/-- A frame of logical lane l is lost under R221, and NAK_RATE is checked (R223). -/
def State.frameNak (s : State) (l k : Nat) (rows : List (Nat × Nat)) : State :=
  match s.carrier l with
  | none => s.frameLost l k rows
  | some p =>
    let s := (s.nakCount p).frameLost l k rows
    let s := s.modLane p fun x => x.outcome true
    if s.crcLimit < ((s.lane p).hist.filter id).length then s.laneFault p 0x04 else s

/-- The frames of tick k that no acknowledgement has settled are late (R222, R223 ACK_LATE). -/
def State.lateFrames (s : State) (k : Nat) : State :=
  ((s.lnk.out.filter fun x => x.2 = k).map (·.1)).foldl (fun s l =>
    if (l, k) ∉ s.lnk.out then s
    else
      let s := (s.bump Reg.LNK_ACK_LATE).frameLost l k [laneRows l]
      match s.carrier l with
      | none => s
      | some p =>
        let s := (s.laneLost p).modLane p fun x =>
          { (x.outcome false) with lateRun := if x.lateNext = k then x.lateRun + 1 else 1, lateNext := k + 1 }
        if s.faultAcks ≤ (s.lane p).lateRun then s.laneFault p 0x03 else s) s

/-! Tracking conditions (R195, R203). -/

/-- The interrupt of a condition (Table 7.2). -/
def conditionSource (code : Nat) : Src :=
  if code = 1 then .trkReversal else if code = 2 then .trkOverspeed else if code = 6 then .trkPoschk else .trkInput

/-- A condition of Table 7.2 arises in a run with SOURCE = 0: it is logged and raises its interrupt, and REVERSAL or an enabled
guard ends the run without further ticks, with t = m - 3, unless its end is already decided (R195, R203, R406). `same`: it
arises in the clock of another condition of the same tick (R204). -/
def State.condition (s : State) (code : Nat) (same : Bool := false) : State :=
  match s.run with
  | none => s
  | some r =>
    if s.bit Reg.TRK_CTRL 1 || (r.noTicks && !same) then s
    else
      let stop := (code == 1 || s.bit Reg.TRK_GUARD (code - 2)) && r.trunc.isNone
      let s := (s.trkLog code (stop || (same && r.noTicks))).raise (conditionSource code)
      if !stop then s
      else
        let s := if 0 < r.issued then s.setReg64 Reg.TRK_REV_AT_LO Reg.TRK_REV_AT_HI s.tickTotal else s
        let s := s.truncate (if code = 1 then 0x08 else 0x09) (fun r => (r.issued : Int) - 4) true
        s.modRun fun r => { r with noTicks := true, lastDrainAt := some s.time }

end Sys2Proof.Machine
end

