-- ==== Sys2Proof/Machine/Channels.lean ====
section
/-! DEFINITION. The DRAM controller and the ECC block: refresh, power-down, training, fences, page retirement, scrubbing and the
handling of words found uncorrectable (10_memory_integrity.md, R285 to R324). -/

namespace Sys2Proof.Machine

/-- The memory runs: PD_MEM is on, its clock too, and an Upsett has set it up. -/
def State.memRuns (s : State) : Bool := s.domOn 6 && !s.pllOff 3 && s.dram.usable

/-- A physical channel that is trained and refreshed: active, spare or fencing (R287). -/
def Chan.inUse (c : Chan) : Bool := decide (c.state = .active ∨ c.state = .spare ∨ c.state = .fencing)

/-- The logical channel, as 15 s + k, that a physical channel carries. -/
def State.carried (s : State) (p : Nat) : Option Nat :=
  let c := s.chan p
  if (c.state = .active ∨ c.state = .fencing) ∧ c.logical < 15 then some (15 * (p / 16) + c.logical) else none

/-- The spare of a stack. -/
def State.spareChan (s : State) (stack : Nat) : Option Nat :=
  ((List.range 16).map (16 * stack + ·)).find? fun p => (s.chan p).state = .spare

/-! Refresh and power-down (R295, R297, R300). -/

/-- Set one of a pair by pseudo-channel. -/
def setPair {α : Type} (x : α × α) (pc : Nat) (v : α) : α × α := if pc = 0 then (v, x.2) else (x.1, v)
/-- One of a pair by pseudo-channel. -/
def getPair {α : Type} (x : α × α) (pc : Nat) : α := if pc = 0 then x.1 else x.2

/-- POSTPONE_MAX. -/
def State.postponeMax (s : State) : Nat := clampNat 1 8 (s.field Reg.MEM_REFRESH 3 0)

/-- A refresh falls due (R297): postponed while real-time requests wait or PANIC is up, forced at the limit; otherwise it is
issued, and one postponed refresh with it is repaid. -/
def State.refreshDue (s : State) (p pc : Nat) (busy : Bool) : State :=
  let c := s.chan p
  let owed := getPair c.owed pc
  if busy || c.panic then
    if owed < s.postponeMax then s.modChan p fun c => { c with owed := setPair c.owed pc (owed + 1), pd := setPair c.pd pc false }
    else (s.bump Reg.MEM_FORCED_REF).modChan p fun c => { c with pd := setPair c.pd pc false }
  else s.modChan p fun c => { c with owed := setPair c.owed pc (owed - 1), pd := setPair c.pd pc false }

/-- REFRESH_DUE (R297). -/
def execRefreshDue (p pc : Nat) (busy : Bool) (s : State) : Host.Outcome State Fault Refusal :=
  finish s (if s.memRuns && (s.chan p).inUse then s.refreshDue p pc busy else s)

/-- AGE_PROMOTION (R295): the highest ageing class is promoted no further. -/
def execAgePromotion (cls : DramClass) (s : State) : Host.Outcome State Fault Refusal :=
  finish s (if s.memRuns && decide (cls = .ingest ∨ cls = .background) then s.bump Reg.MEM_AGED else s)

/-- DRAM_POWER_DOWN (R300). -/
def execDramPowerDown (p pc : Nat) (s : State) : Host.Outcome State Fault Refusal :=
  finish s (
    if s.memRuns && (s.chan p).inUse && s.bit Reg.MEM_CTRL 4 && decide (0 < s.field Reg.MEM_PD 15 0) && !(s.chan p).panic then
      s.modChan p fun c => { c with pd := setPair c.pd pc true }
    else s)

/-! Page retirement (R314 to R317). -/

/-- A fence copy or a rebuild sweep is in progress. -/
def State.memBusy (s : State) : Bool := !s.dram.copies.isEmpty || !s.dram.sweeps.isEmpty

/-- A UE in free space retires its page without a command (R317), under the checks of R314. -/
def State.autoRetire (s : State) (n : Nat) : State :=
  let page := n / 8192
  if !s.bit Reg.ECC_CTRL 2 || s.memBusy || (s.rcr.live.pages.any fun p => p.1 = page) then s
  else
    match s.freeReplacement with
    | none => s
    | some i => ((s.takeReplacement page i).eccLog 0x06 (s.regionCode n) 5 (s.physOf n) 0 (8 * n)).bump Reg.ECC_AUTO_RETIRED

/-! A word found uncorrectable by the scrubber, by region and use (Table 10.7). -/

/-- A range of bytes meets word n. -/
def meetsWord (a len n : Nat) : Bool := decide (a < 8 * n + 8 ∧ 8 * n < a + len)

/-- The staging slices whose slot or chunk holds the word. -/
def State.stagedAt (s : State) (n : Nat) : List Nat :=
  (s.stg.slices.map (·.1)).filter fun k =>
    meetsWord (s.slotAddr k) s.stgAllot n || (s.chunksOf k).any fun c => meetsWord (s.chunkAddr c) 4096 n

/-- FIGURE: the tiles of the held bins that the word touches are unwritable, and ECC_REFETCH_AT names their rows. -/
def State.figureUe (s : State) (n : Nat) : State :=
  let hit := s.fig.held.filter fun b => (s.figParts b.pos b.len).any fun p => meetsWord p.1 p.2 n
  match hit.head? with
  | none => s
  | some b =>
    let rows := (hit.filter fun x => x.tile.stripe = b.tile.stripe).map (·.tile.trow)
    let s := hit.foldl (fun s x => s.refetchTile x.tile) s
    s.setRegs Reg.ECC_REFETCH_AT_0 [b.tile.stripe, unsignedOf 24 (rows.min?.getD 0), unsignedOf 24 (rows.max?.getD 0)]

/-- CORRMAP: a cell row of an assigned density slot is rebuilt (R106). -/
def State.corrmapUe (s : State) (n : Nat) : State :=
  s.cor.works.foldl (fun s k =>
    match k.slot with
    | none => s
    | some _ =>
      match k.cellRows.find? fun p => meetsWord (s.rowAddr k p.2) 4096 n with
      | some (_, v) => (s.dmapPoison k.id (floorDiv (200 * v) 4096) v).raise .corErr
      | none => s) s

/-- JOB: the chunk map entry is rebuilt, the sticky histogram entry rewritten as zero; other words keep their mark. -/
def State.jobUe (s : State) (n : Nat) : State :=
  let cmap := s.reg64 Reg.STG_CMAP_BASE_LO Reg.STG_CMAP_BASE_HI
  let hist := s.reg64 Reg.ECC_HIST_BASE_LO Reg.ECC_HIST_BASE_HI
  if cmap ≤ 8 * n ∧ 8 * n < cmap + 8 * s.stgChunks then
    let c := (8 * n - cmap) / 8
    s.memWrite64 (cmap + 8 * c) (match s.stg.chunks.find? fun p => p.1 = c with
      | some p => p.2 % 2 ^ 48 + 2 ^ 63
      | none => 0)
  else if hist ≤ 8 * n ∧ 8 * n < hist + 0x600000 then s.memWrite64 (8 * n) 0
  else s

/-- What Table 10.7 does with word n. -/
def State.ueByRegion (s : State) (n : Nat) : State :=
  match s.regionAt (8 * n) with
  | .staging => match s.stagedAt n with
    | [] => s.autoRetire n
    | l => l.foldl (fun s k => s.stagingPoison k false) s
  | .footprint => match s.stg.fp.find? fun p => meetsWord (s.fpAddr p.2) 131072 n with
    | some p =>
      match s.workOfN p.2 with
      | some (k, w) => if s.drainedSlice k w then s.autoRetire n else s.fpPoison p.2
      | none => s.autoRetire n
    | none => s.autoRetire n
  | .figure => s.figureUe n
  | .corrmap => s.corrmapUe n
  | .tables => s
  | .job => s.jobUe n
  | .telemetry => s
  | .reserve => s
  | _ => s.autoRetire n

/-! Fences (R319 to R322). -/

/-- Count a fence of a physical channel over its life (R322). -/
def State.countFence (s : State) (p : Nat) : State :=
  s.withyChange 2 4 p (smGet (fun _ => 0) s.rcr.live.fences p + 1)

/-- A channel becomes FAILED. -/
def State.failChan (s : State) (p : Nat) : State :=
  (s.modChan p fun c => { c with state := .failed, logical := 15 }).withyChange 2 1 p 4

/-- A logical channel is left without a channel (R322). -/
def State.unback (s : State) (p l cause : Nat) : State :=
  let s := s.failChan p
  let s : State := { s with dram := { s.dram with
      unbacked := ssAdd l s.dram.unbacked,
      sweeps := s.dram.sweeps.filter (fun w => w.lch ≠ l),
      copies := s.dram.copies.filter fun c => c.stack ≠ l / 15 } }
  (((s.eccLog 0x0A 0 5 p cause 0).raise .memErr).raise .memFence).truncateNow 0x06

/-- The spare takes the logical channel (R320, R321). -/
def State.moveTo (s : State) (p sp l : Nat) : State :=
  let s := s.failChan p
  let s := s.modChan sp fun c => { c with state := .active, logical := l % 15, pd := (false, false) }
  { s with dram := { s.dram with
      fenced := (l / 15, l % 15) :: (s.dram.fenced.filter fun f => f.1 ≠ l / 15),
      copies := s.dram.copies.filter fun c => c.stack ≠ l / 15 } }

/-- A hard fence (R321): the move at once, every beat of the spare void, and a rebuild bitmap if one of the two is free. -/
def State.hardFence (s : State) (p cause : Nat) : State :=
  match s.carried p with
  | none => s
  | some l =>
    let s := (s.modChan p fun c => { c with fault := cause }).countFence p
    let s := s.eccLog 0x09 0 5 p cause 0
    match s.spareChan (p / 16) with
    | none => s.unback p l cause
    | some sp =>
      let s := (s.moveTo p sp l).raise .memFence
      let rest := s.dram.sweeps.filter fun w => w.lch ≠ l
      let w : Sweep := { lch := l, spare := sp, bitmap := decide ((rest.filter (·.bitmap)).length < 2), valid := [] }
      { s with dram := { s.dram with sweeps := rest ++ [w] } }

/-- A planned fence (R320): the copy begins. One that finds another fence of its stack in progress is logged only. -/
def State.plannedFence (s : State) (p cause : Nat) : State :=
  match s.carried p with
  | none => s
  | some l =>
    let st := p / 16
    if (s.dram.copies.any fun c => c.stack = st) || (s.dram.sweeps.any fun w => w.lch / 15 = st) then
      (s.eccLog 0x08 0 5 p cause 0).raise .memErr
    else
      let s := (s.modChan p fun c => { c with fault := cause }).countFence p
      let s := s.eccLog 0x08 0 5 p cause 0
      match s.spareChan st with
      | none => s.unback p l cause
      | some sp =>
        let s := s.modChan p fun c => { c with state := .fencing }
        ({ s with dram := { s.dram with
            copies := s.dram.copies ++ [{ stack := st, chan := p, spare := sp, cause := cause }] } } : State).raise .memFence

/-- A planned cause (R319): without AUTO_FENCE it is logged and raises MEM_ERR. -/
def State.plannedCause (s : State) (p cause : Nat) : State :=
  if s.bit Reg.MEM_CTRL 5 then s.plannedFence p cause else (s.eccLog 0x08 0 5 p cause 0).raise .memErr

/-- UE_BURST or more UEs in distinct beats within 10 µs (R319). -/
def State.burst (s : State) (p : Nat) : State :=
  let n := (((s.chan p).ueTimes.filter fun u => decide (s.time ≤ u.1 + usTu 10)).map (·.2)).eraseDups.length
  if atLeast1 (s.field Reg.MEM_FENCE_CFG 7 0) ≤ n then s.hardFence p 0x04 else s

/-- CAPAR (R319): fewer errors than the threshold raise MEM_ERR. -/
def execCapar (p n : Nat) (s : State) : Host.Outcome State Fault Refusal :=
  finish s (
    if !s.memRuns || !(s.chan p).inUse || n == 0 then s
    else
      let s := s.bumpBy (Reg.MEM_CH_CAPAR (p % 64)) n
      if atLeast1 (s.field Reg.MEM_FENCE_CFG 15 8) ≤ n ∧ (s.carried p).isSome = true then s.hardFence p 0x02
      else s.raise .memErr)

/-- READ_TIMEOUT (R319). -/
def execReadTimeout (p : Nat) (s : State) : Host.Outcome State Fault Refusal :=
  finish s (if s.memRuns then s.hardFence p 0x03 else s)

/-- CE_RATE (R319): the rate is errors per second, averaged over 10 s. -/
def execCeRate (p rate : Nat) (s : State) : Host.Outcome State Fault Refusal :=
  finish s (if s.memRuns && decide (atLeast1 (s.field Reg.MEM_FENCE_CFG 31 16) < rate) && (s.carried p).isSome then
      s.plannedCause p 0x05 else s)

/-- MEM_CH_FENCE (R319). -/
def execMemChFence (p : Nat) (s : State) : Host.Outcome State Fault Refusal :=
  finish s (s.command (Reg.MEM_CH_CMD p) 1 fun s =>
    s.onlyIn [.ready, .expose, .dryrun, .service] (Reg.MEM_CH_CMD p) fun s => if s.memRuns then s.plannedFence p 0x07 else s)

/-- The words of a channel that are struck by errors: those a copy with correction meets (R320). -/
def State.struckOn (s : State) (l : Nat) : List Nat :=
  (s.dram.flips.map (·.1)).filter fun n => s.dram.chanOfWord n = l

/-- FENCE_COPY_DONE (R320): words found uncorrectable are marked on the spare and handled under Table 10.7, and the logical
channel moves. -/
def execFenceCopyDone (stack : Nat) (s : State) : Host.Outcome State Fault Refusal :=
  finish s (
    match s.dram.copies.find? fun c => c.stack = stack with
    | none => s
    | some c =>
      match s.carried c.chan with
      | none => s
      | some l =>
        let found := s.struckOn l
        let bad := found.filter fun n => s.dram.wordClass n = .ue
        let s := found.foldl (fun s n => if s.dram.wordClass n = .ue then s.ueFound n else s.cleanWord n) s
        let s := s.moveTo c.chan c.spare l
        bad.foldl (fun s n =>
          ((s.eccLog 0x03 (s.regionCode n) 5 c.chan 0 (8 * n)).raise .eccUe).ueByRegion n) s)

/-- A beat that the sweep of a channel finds void (R321): marked zeros, counted, and handed to Table 10.7. -/
def State.sweepBeat (s : State) (b : Nat) : State :=
  let s := ((List.range 8).map (8 * b + ·)).foldl State.zeroWord s
  let s := (s.bump Reg.ECC_UE_COUNT).bump (Reg.MEM_CH_UE (s.physOf (8 * b) % 64))
  s.ueByRegion (8 * b)

/-- REBUILD_SWEEP_DONE (R321): every beat still void is written; a bitmap that frees goes to a channel that waits for one. -/
def execRebuildSweepDone (l : Nat) (s : State) : Host.Outcome State Fault Refusal :=
  finish s (
    match s.dram.sweeps.find? fun w => w.lch = l ∧ w.bitmap = true with
    | none => s
    | some w =>
      let beats := (List.range (channelSpan s.dram.order l / 64)).map fun i => addrOfOffset s.dram.order l (64 * i) / 64
      let s := (beats.filter fun b => !w.valid.contains b).foldl (fun s b => s.sweepBeat b) s
      let rest := s.dram.sweeps.filter fun x => x.lch ≠ l
      let sweeps := match rest.findIdx? fun x => !x.bitmap with
        | some i => rest.modify i fun x => { x with bitmap := true }
        | none => rest
      ({ s with dram := { s.dram with sweeps := sweeps } } : State).raise .eccUe)

/-! Training (R301, R302, R322). -/

/-- MIN_WIDTH. -/
def State.minWidth (s : State) : Nat := s.field Reg.MEM_TRAIN_CFG 7 0
/-- MIN_HEIGHT. -/
def State.minHeight (s : State) : Nat := s.field Reg.MEM_TRAIN_CFG 15 8

/-- The step of Table 10.5 that a channel fails, if any. -/
def State.failedStep (s : State) (x : ChanTraining) : Option Nat :=
  if !x.impedanceOk then some 0x11
  else if x.caWidth < s.minWidth then some 0x12
  else if !x.strobeOk then some 0x13
  else if x.readWidth < s.minWidth then some 0x14
  else if x.writeWidth < s.minWidth ∨ x.height < s.minHeight then some 0x15
  else none

/-- MEM_CH_EYE (Table 10.10). -/
def eyeWord (read write height ca : Nat) : Nat := read % 256 + write % 256 * 2 ^ 8 + height % 256 * 2 ^ 16 + ca % 256 * 2 ^ 24

/-- One channel is trained (R301, R322). -/
def State.trainChan (s : State) (x : ChanTraining) : State :=
  let p := x.chan
  let st := (s.chan p).state
  let s := s.modChan p fun c => { c with eye := eyeWord x.readWidth x.writeWidth x.height x.caWidth }
  match s.failedStep x with
  | some code =>
    let s := s.eccLog 0x0B 0 5 p code 0
    let s := match st with
      | .active => s.hardFence p 0x01
      | .fencing => s.hardFence p 0x01
      | .failed => s
      | .retired => s
      | _ => s.failChan p
    s.modChan p fun c => { c with fault := code }
  | none =>
    match st with
    | .failed =>
      let state := if (s.spareChan (p / 16)).isNone then ChanState.spare else ChanState.off
      (s.modChan p fun c => { c with state := state, logical := 15 }).withyChange 2 1 p state.code
    | _ => s

/-- Training of the usable channels that were observed: all but the RETIRED ones (R301, R322). -/
def State.trainAll (s : State) (r : List ChanTraining) : State :=
  let s := (r.filter fun x => decide (x.chan < 64 ∧ (s.chan x.chan).state ≠ .retired)).foldl (fun s x => s.trainChan x) s
  ({ s with dram := { s.dram with trained := s.dram.unbacked.isEmpty } } : State).raise .memTrain

/-- MEM_CH_RETRAIN (R322). -/
def execMemChRetrain (p : Nat) (r : ChanTraining) (s : State) : Host.Outcome State Fault Refusal :=
  finish s (s.command (Reg.MEM_CH_CMD p) 2 fun s => s.onlyIn [.service] (Reg.MEM_CH_CMD p) fun s =>
    if s.memRuns then s.trainAll [{ r with chan := p }] else s)

/-- MEM_CH_RETIRE (R322). -/
def execMemChRetire (p : Nat) (s : State) : Host.Outcome State Fault Refusal :=
  finish s (s.command (Reg.MEM_CH_CMD p) 4 fun s => s.onlyIn [.service] (Reg.MEM_CH_CMD p) fun s =>
    if (s.chan p).state = .failed ∨ (s.chan p).state = .off then
      (s.modChan p fun c => { c with state := .retired }).withyChange 2 2 p 5
    else s.violation 4 (Reg.MEM_CH_CMD p) true)

/-- Recalibration of one channel (R302): the margins, and the fence cause MARGIN. -/
def State.recalChan (s : State) (m : ChanMargins) : State :=
  let p := m.chan
  let s := s.modChan p fun c => { c with eye := eyeWord m.readWidth m.writeWidth m.height (c.eye / 2 ^ 24) }
  if m.readWidth < s.minWidth ∨ m.writeWidth < s.minWidth ∨ m.height < s.minHeight then s.plannedCause p 0x06 else s

/-- The channels a recalibration takes: active and spare (R302). -/
def State.recals (s : State) (p : Nat) : Bool := decide (p < 64 ∧ ((s.chan p).state = .active ∨ (s.chan p).state = .spare))

/-- DRAM_RECAL_PERIODIC (R302). -/
def execDramRecalPeriodic (p : Nat) (m : ChanMargins) (s : State) : Host.Outcome State Fault Refusal :=
  finish s (if s.memRuns && s.bit Reg.MEM_CTRL 6 && s.recals p && !(s.chan p).panic then s.recalChan { m with chan := p } else s)

/-! Scrubbing (R307 to R310). -/

/-- Errors strike words of a beat. -/
def Dram.strike (d : Dram) (b : Nat) (flips : List WordFlip) : Dram :=
  { d with flips := flips.foldl (fun m f =>
      let n := 8 * b + f.index % 8
      let o := smGet (fun _ => (0, 0)) m n
      smPut (fun _ => (0, 0)) n (o.1 ^^^ f.data.toNat, o.2 ^^^ f.check.toNat) m) d.flips }

/-- The beat a scrub read serves: a replacement page in use stands for the page it replaces, a retired page's own cells hold
nothing. -/
def State.scrubTarget (s : State) (a : Nat) : Option Nat :=
  let page := a / 65536
  if s.regionAt a = .reserve then
    let first := (s.regions.find? fun r => r.type = .reserve).map (·.first)
    match s.rcr.live.pages.find? fun p => p.2 + first.getD 0 = page with
    | some p => some (65536 * p.1 + a % 65536)
    | none => some a
  else if s.rcr.live.pages.any fun p => p.1 = page then none
  else some a

/-- A word met by the scrubber (R308, R310). -/
def State.scrubWord (s : State) (n : Nat) : State :=
  let f := smGet (fun _ => (0, 0)) s.dram.flips n
  let sy := eccSyndrome (s.dram.marks.contains n) f.1 f.2
  match s.dram.wordClass n with
  | .clean => s
  | .marked => s
  | .ue =>
    let p := s.physOf n
    let s := ((s.ueFound n).eccLog 0x03 (s.regionCode n) 4 p sy (8 * n)).raise .eccUe
    let s := if s.regionAt (8 * n) = .reserve then
        let first := ((s.regions.find? fun r => r.type = .reserve).map (·.first)).getD 0
        let i := n / 8192 - first
        if s.rcr.live.badRepl.contains i then s
        else (s.withyChange 3 3 i 0).eccLog 0x0D 8 4 p sy (8 * n)
      else s.ueByRegion n
    s.burst p
  | _ =>
    let sticky := (s.dram.watchOf (s.dram.chanOfWord n)).any fun e => e.addr = n
    let s := s.ceFound n sy 4
    if sticky then s else s.writeBack n

/-- The scrub pointer has passed a beat (R309): the watched words in it that were not written back just now have a pass less
to go. -/
def State.passWatch (s : State) (l b : Nat) (before : List Watch) : State :=
  let w := (s.dram.watchOf l).filterMap fun e =>
    if e.addr / 8 = b ∧ before.contains e = true then
      (if e.left ≤ 1 then none else some { e with left := e.left - 1 })
    else some e
  { s with dram := { s.dram with watch := smPut (fun _ => []) l w s.dram.watch } }

/-- The pointer of a channel moves on by a beat; a wrap completes a pass (R307). -/
def State.advanceScrub (s : State) (l : Nat) : State :=
  let o := smGet (fun _ => 0) s.dram.scrub l + 64
  let d := s.dram
  if o < channelSpan d.order l then { s with dram := { d with scrub := smPut (fun _ => 0) l o d.scrub } }
  else { s with dram := { d with
      scrub := smPut (fun _ => 0) l 0 d.scrub,
      passes := smPut (fun _ => 0) l (smGet (fun _ => 0) d.passes l + 1) d.passes,
      passAt := smPut (fun _ => 0) l s.time d.passAt } }

/-- Scrub promotion (R307): logged at each promotion; it ends when the lag is zero. -/
def State.promoteScrub (s : State) (l : Nat) : State :=
  let lag := s.scrubLag l
  let panic := match s.chanOf l with | some p => (s.chan p).panic | none => false
  if s.dram.promoted.contains l then
    if lag = 0 then { s with dram := { s.dram with promoted := ssDel l s.dram.promoted } } else s
  else if !panic && decide (s.field Reg.ECC_SCRUB_CFG 15 8 * 60000 * msTu 1 < lag) then
    ({ s with dram := { s.dram with promoted := ssAdd l s.dram.promoted } } : State).eccLog 0x0C 0 4 ((s.chanOf l).getD 0xFF) 0 0
  else s

/-- The scrubber has a request on a channel (R307): scrubbing is on, and the pointer lies behind the schedule. -/
def State.scrubDue (s : State) (l : Nat) : Bool :=
  s.memRuns && s.bit Reg.ECC_CTRL 0 && (s.chanOf l).isSome
    && decide (smGet (fun _ => 0) s.dram.scrub l * s.scrubPeriod
        < (s.time - smGet (fun _ => 0) s.dram.passAt l) * channelSpan s.dram.order l)

/-- SCRUB_READ (R308). -/
def execScrubRead (l : Nat) (flips : List WordFlip) (t : Nat) (s0 : State) : Host.Outcome State Fault Refusal :=
  let s := s0.at_ t
  finish s0 (
    if !s.scrubDue l then s
    else
      let s := s.promoteScrub l
      let a := addrOfOffset s.dram.order l (smGet (fun _ => 0) s.dram.scrub l)
      let s := match s.scrubTarget a with
        | none => s
        | some a =>
          let b := a / 64
          let s : State := { s with dram := s.dram.strike b flips }
          let before := s.dram.watchOf l
          let s := ((List.range 8).map (8 * b + ·)).foldl (fun (s : State) n => s.scrubWord n) s
          s.passWatch l b before
      (s.advanceScrub l).promoteScrub l)

/-- DEMAND_READ_ERROR (R312): the word is struck, and the read meets it; a density entry met is rebuilt (R106). -/
def execDemandReadError (a : Nat) (cls : DramClass) (dx : Dword) (cx : Byte) (t : Nat) (s0 : State) :
    Host.Outcome State Fault Refusal :=
  let s := s0.at_ t
  finish s0 (
    if !s.memRuns || decide (localTop ≤ a) then s
    else
      let n := a / 8
      let s : State := { s with dram := s.dram.strike (n / 8) [{ index := n % 8, data := dx, check := cx }] }
      let ue := s.dram.wordClass n = .ue
      let s := s.touch cls (8 * n) 8
      if ue then
        let s := if cls = .pipe ∧ s.regionAt (8 * n) = .corrmap then s.corrmapUe n else s
        s.burst (s.physOf n)
      else s)

/-- WRITEBACK_QUEUE (R308): the oldest queued word of a channel; one that a write has mended meanwhile is left. -/
def execWritebackQueue (p : Nat) (s : State) : Host.Outcome State Fault Refusal :=
  finish s (
    if !s.memRuns then s
    else
      match s.dram.wbq.find? fun n => s.physOf n = p with
      | none => s
      | some n =>
        let s : State := { s with dram := { s.dram with wbq := s.dram.wbq.erase n } }
        match s.dram.wordClass n with
        | .clean => s
        | .marked => s
        | .ue => s
        | _ => s.writeBack n)

/-! Post-package repair (R318). -/

/-- PPR_GO (R318). -/
def execPprGo (v : Word) (s : State) : Host.Outcome State Fault Refusal :=
  finish s (s.command Reg.MEM_PPR_CMD v.toNat fun s =>
    if !v.getLsbD 0 then s
    else if s.dram.ppr.isSome then s.violation 4 Reg.MEM_PPR_CMD true
    else ({ s with dram := { s.dram with ppr := some (s.reg Reg.MEM_PPR_ADDR) } } : State).setReg Reg.MEM_PPR_STAT 1)

/-- PPR_DONE (R318): code 0 OK, 1 NO_RESOURCE, 2 VERIFY_FAIL. -/
def execPprDone (code : Nat) (s : State) : Host.Outcome State Fault Refusal :=
  finish s (
    match s.dram.ppr with
    | none => s
    | some row =>
      let s : State := { s with dram := { s.dram with ppr := none } }
      if code = 0 then (s.setReg Reg.MEM_PPR_STAT 2).withyChange 4 0 row 0
      else s.setReg Reg.MEM_PPR_STAT (3 + 16 * (code % 4)))

/-! The flip mask and the integrity log (R306, R323). -/

/-- ECC_FLIP_ARM (R306): ARM = 1 is honoured in SERVICE and DRYRUN. -/
def execEccFlipArm (v : Word) (s : State) : Host.Outcome State Fault Refusal :=
  finish s (s.command Reg.ECC_FLIP_CTRL v.toNat fun s =>
    if v.getLsbD 0 then s.onlyIn [.service, .dryrun] Reg.ECC_FLIP_CTRL fun s => s.setReg Reg.ECC_FLIP_CTRL v.toNat
    else s.setReg Reg.ECC_FLIP_CTRL v.toNat)

/-- ECC_LOG_POP (R323). -/
def execEccLogPop (v : Word) (s : State) : Host.Outcome State Fault Refusal :=
  finish s (s.command Reg.ECC_LOG_POP v.toNat fun s =>
    if v.getLsbD 0 then { s with dram := { s.dram with log := s.dram.log.tail } } else s)

end Sys2Proof.Machine
end

