-- ==== Sys2Proof/Machine/Recorder.lean ====
section
/-! DEFINITION. The event recorder: records, commits, the NOR die's sectors, the inventory, the cursor window and the lifetime
histograms (13_recorder_lifetime.md, R370 to R389). -/

namespace Sys2Proof.Machine

/-! Records in bytes (R371). -/

/-- A snapshot pair in bytes. -/
def RecPair.bytes (p : RecPair) : List Byte := leBytes 4 (p.off % 2 ^ 24 + b2n p.silent * 2 ^ 24) ++ leBytes 4 p.value.toNat

/-- Bytes 0 to 251 of a record (Table 13.2). -/
def Record.head (r : Record) : List Byte :=
  let flags := b2n r.logmem + 2 * b2n r.lifetime + 4 * b2n r.priorLost + 8 * b2n r.aonSnap
  let fixed := leBytes 4 0x4B524543 ++ leBytes 6 r.seq ++ leBytes 2 r.trigger ++ leBytes 1 flags
    ++ leBytes 1 (min 24 r.pairs.length) ++ leBytes 2 0 ++ leBytes 4 r.opSeconds ++ leBytes 4 r.powerCycles
    ++ leBytes 8 r.ticks ++ leBytes 6 r.ptpSec ++ leBytes 2 0 ++ leBytes 4 (r.ptpNs % 2 ^ 30)
    ++ leBytes 1 (r.mode % 8 + 16 * (r.power % 8)) ++ leBytes 1 0 ++ leBytes 2 r.stripe ++ leBytes 4 (r.stick % 2 ^ 26)
    ++ leBytes 4 r.detail
  slice (fixed ++ (r.pairs.take 24).flatMap RecPair.bytes) 0 252

/-- The 256 bytes of a record. -/
def Record.bytes (r : Record) : List Byte := r.head ++ leBytes 4 (crc32c r.head)

/-! Sectors (R370, R380). -/

/-- The recorder and the NOR interface run, and the die is mounted (R388). -/
def State.recorderOn (s : State) : Bool := !s.accessOff Reg.REC_CTRL && s.rcr.mounted

/-- The recorder may program the die: it is not in RAM-ONLY, and there is no brown-out (R383, R386). -/
def State.canProgram (s : State) : Bool := s.recorderOn && !s.rcr.ramOnly && !s.pwr.brown

/-- Store a sector. -/
def Rec.putSector (r : Rec) (n : Nat) (x : Sector) : Rec := { r with sectors := smPut Sector.fresh n x r.sectors }

/-- A sector after an erase. -/
def Sector.erased (x : Sector) : Sector :=
  { x with state := .erased, erases := x.erases + 1, progAge := 0, copyOf := none, used := 0, records := [] }

/-- ERASE_LIMIT. -/
def State.eraseLimit (s : State) : Nat := atLeast1 (s.field Reg.REC_WEAR 16 0)

/-- Records of a sector stand in its slots in ascending SEQ; the lowest. -/
def Sector.oldest (x : Sector) : Option Nat := (x.records.map (·.2.seq)).min?

/-- The sector of a region that holds the oldest records. -/
def Rec.oldestSector (r : Rec) (g : NorRegion) : Option Nat :=
  ((r.regionSectors g).foldl (fun (best : Option (Nat × Nat)) p =>
    match p.2.oldest, best with
    | some q, some b => if q < b.2 then some (p.1, q) else best
    | some q, none => some (p.1, q)
    | none, _ => best) none).map (·.1)

/-! The inventory (R389). -/

/-- The inventory takes `n` entries; its open half is compacted at 75 %. -/
def State.inventoryGrow (s : State) (n : Nat) : State :=
  let used := s.rcr.invUsed + n
  if used < 24480 then { s with rcr := { s.rcr with invUsed := used } }
  else
    let w := s.rcr.live
    let pool := w.weavers.length + w.suspects.length + w.lanes.length + w.swapouts.length + w.chanFailed.length
      + w.chanRetired.length + w.fences.length + w.pages.length + w.badRepl.length + w.rows.length + w.sramRows.length
      + w.phases.length + w.sectors
    let half := ((s.rcr.regionSectors .inventory).filter fun p => decide (32 ≤ p.2.logical) == s.rcr.invHalf)
    let r := half.foldl (fun (r : Rec) p => r.putSector p.1 { p.2.erased with state := .opened }) s.rcr
    { s with rcr := { r with saved := w, savedHist := r.hist, invHalf := !r.invHalf, invUsed := 38 + pool } }

/-- Append an entry to the inventory. -/
def State.inventoryPut (s : State) (e : InvEntry) : State :=
  let s : State := { s with rcr := { s.rcr with
    saved := s.rcr.saved.apply e, savedSeconds := max s.rcr.savedSeconds e.opSeconds, savedCycles := s.rcr.powerCycles } }
  s.inventoryGrow 1

/-- Commit every pending inventory entry. -/
def State.inventoryAll (s : State) : State :=
  let es := s.rcr.invPending
  es.foldl (fun s e => s.inventoryPut e) ({ s with rcr := { s.rcr with invPending := [] } } : State)

/-- The sector that takes the next inventory entry. -/
def Rec.inventorySector (r : Rec) : Option Nat :=
  let i := (if r.invHalf then 32 else 0) + min 31 (r.invUsed / 1020)
  ((r.regionSectors .inventory).find? fun p => p.2.logical = i).map (·.1)

/-! Sector faults and wear (R380, R382, R383). -/

/-- A spare takes the role, the logical index and the contents of a sector; none without an erased spare. -/
def State.replaceSector (s : State) (n : Nat) : Option (State × Nat) :=
  match s.rcr.spares with
  | [] => none
  | sp :: _ =>
    let x := s.rcr.sector n
    let y := s.rcr.sector sp
    let r := s.rcr.putSector n { x with state := .bad }
    let r := r.putSector sp { x with state := (if x.state = .bad then .opened else x.state), erases := y.erases,
                                     progAge := s.rcr.opSeconds }
    some ((({ s with rcr := r } : State).withyChange 7 0 n sp).inventoryAll, sp)

/-- A sector fault (R382): the replacement, or RAM-ONLY without a spare (R383). -/
def State.sectorFault (s : State) (n : Nat) : State × Option Nat :=
  let s : State := { s with rcr := { s.rcr with faulted := true } }
  let s := (s.setReg Reg.REC_LOGMEM_AT n).raise .recLogmem
  match s.replaceSector n with
  | some (s, sp) => (s, some sp)
  | none =>
    let r := s.rcr.putSector n { s.rcr.sector n with state := .bad }
    ({ s with rcr := { r with ramOnly := true, invPending := [] } }, none)

/-- Erase a sector; one at ERASE_LIMIT is replaced by a spare first, which fires SECTOR_WORN (R380). -/
def State.eraseSector (s : State) (n : Nat) : State :=
  let x := s.rcr.sector n
  if s.eraseLimit ≤ x.erases then
    match s.replaceSector n with
    | some (s, sp) =>
      let s := s.trigger 0x47 n
      { s with rcr := s.rcr.putSector sp { s.rcr.sector sp with state := .erased, used := 0, records := [], progAge := 0 } }
    | none => { s with rcr := s.rcr.putSector n x.erased }
  else { s with rcr := s.rcr.putSector n x.erased }

/-! Commits (R376 to R378). -/

/-- The next sector of ROLLING to open: the erased one that follows the newest records in logical order. -/
def Rec.nextRolling (r : Rec) : Option Nat :=
  let all := r.regionSectors .rolling
  let newest := all.foldl (fun (b : Nat × Nat) p =>
    let q := (p.2.records.map (·.2.seq + 1)).max?.getD 0
    if b.1 < q then (q, p.2.logical + 1) else b) (0, 0)
  let free := all.filter fun p => p.2.state = .erased
  match free.find? fun p => decide (newest.2 ≤ p.2.logical) with
  | some p => some p.1
  | none => free.head?.map (·.1)

/-- The sector with the next free slot for a record. -/
def Rec.slotFor (r : Rec) (life : Bool) : Option Nat :=
  if life && !r.lifeFull then ((r.regionSectors .lifetime).find? fun p => decide (p.2.used < 255)).map (·.1)
  else
    match (r.regionSectors .rolling).find? fun p => p.2.state = .opened ∧ p.2.used < 255 with
    | some p => some p.1
    | none => r.nextRolling

/-- Program a record into the next slot of a sector. -/
def Rec.program (r : Rec) (n : Nat) (x : Record) : Rec :=
  let sec := r.sector n
  let used := sec.used + 1
  r.putSector n { sec with state := if 255 ≤ used then .full else .opened, used := used,
                           records := sec.records ++ [(sec.used, x)],
                           progAge := if sec.used = 0 then r.opSeconds else sec.progAge,
                           marginAt := if sec.used = 0 then r.opSeconds else sec.marginAt }

/-- ROLLING keeps an erased sector ready before the open one fills (R378). -/
def State.rollingRoom (s : State) : State :=
  let all := s.rcr.regionSectors .rolling
  if all.any fun p => p.2.state = .erased then s
  else if all.any fun p => p.2.state = .opened ∧ p.2.used < 254 then s
  else
    match s.rcr.oldestSector .rolling with
    | some n => s.eraseSector n
    | none => s

/-- The uncommitted entry with the lowest SEQ. -/
def Rec.nextEntry (r : Rec) : Option ShadowEntry :=
  (r.shadow.filter fun e => !e.committed).foldl (fun (b : Option ShadowEntry) e =>
    match b with
    | some x => if e.record.seq < x.record.seq then some e else b
    | none => some e) none

/-- An entry is committed with the record as it was programmed. -/
def Rec.markCommitted (r : Rec) (x : Record) : Rec :=
  { r with
    shadow := r.shadow.map (fun e =>
      if e.record.seq = x.seq then { record := x, committed := true } else e),
    lost := false, tokens := if x.lifetime then r.tokens else r.tokens - 1 }

/-- A record is programmed into a sector and counts as committed (R376). -/
def State.commitTo (s : State) (n : Nat) (x : Record) : State :=
  ((({ s with rcr := (s.rcr.program n x).markCommitted x } : State).raise .recSnap).rollingRoom)

/-- Commit the next shadow entry (R376, R382). -/
def State.commitNext (s : State) (progOk : Bool) : State :=
  match s.rcr.nextEntry with
  | none => s
  | some e =>
    let x : Record := { e.record with priorLost := s.rcr.lost }
    match s.rcr.slotFor x.lifetime with
    | none => s
    | some n =>
      if progOk then s.commitTo n x
      else
        match s.sectorFault n with
        | (s, some sp) => s.commitTo sp { x with logmem := true }
        | (s, none) => s

/-- Commit what the shadow holds, oldest first, `n` entries at most. -/
def State.commitAll (s : State) : Nat → State
  | 0 => s
  | n + 1 => if s.canProgram && s.rcr.nextEntry.isSome then (s.inventoryAll.commitNext true).commitAll n else s

/-- RECORD_COMMIT (R376): pending inventory entries come before any record. -/
def execRecordCommit (progOk : Bool) (s : State) : Host.Outcome State Fault Refusal :=
  finish s (if s.canProgram && s.rcr.invPending.isEmpty then s.commitNext progOk else s)

/-- INVENTORY_COMMIT (R389): a failed program is a sector fault, after which the entry is written to the spare. -/
def execInventoryCommit (progOk : Bool) (s : State) : Host.Outcome State Fault Refusal :=
  finish s (
    match s.rcr.invPending with
    | [] => s
    | e :: rest =>
      if !s.canProgram then s
      else
        let take := fun (s : State) => ({ s with rcr := { s.rcr with invPending := rest } } : State).inventoryPut e
        if progOk then take s
        else
          match s.rcr.inventorySector with
          | none => s
          | some n => (s.sectorFault n).1)

/-! Time (R372, R374, R377, R387). -/

/-- The bin of a temperature: steps of 5 °C from `low` °C, `n` bins. -/
def tempBin (low : Int) (n : Nat) (t : Int) : Nat := clampNat 0 (n - 1) (floorDiv (t - low * 256) 1280).toNat

/-- Seconds that accumulate in the lifetime histograms (Table 13.5). -/
def State.histSecond (s : State) (power : Nat) : State :=
  let st := s.pwr.state
  let s := (s.histBump (tempBin (-20) 32 s.hottest.2) 1).histBump (32 + min 31 (power / 125)) 1
  let s := (s.histBump (144 + min 4 st) 1).histBump (149 + s.modeCode) 1
  if 1 < st then s
  else
    let s := (List.range 4).foldl (fun (s : State) k => s.histBump (64 + 16 * k + tempBin 20 16 (s.temp (24 + k))) 1) s
    if s.running then s.histBump (128 + min 15 ((s.stg.tickTimes.filter fun t => decide (s.time < t + usTu 16384)).length / 1024)) 1
    else s

/-- OPERATING_SECOND (R372): `power` is the input power of the last millisecond in units of 0.1 W (PWR_POWER). -/
def execOperatingSecond (power : Nat) (s : State) : Host.Outcome State Fault Refusal :=
  finish s (
    if s.pwr.state = 4 then s
    else
      let burst := atLeast1 (s.field Reg.REC_CTRL 31 16)
      let budget := atLeast1 (s.field Reg.REC_CTRL 15 8)
      let s := s.setReg Reg.PWR_POWER (power % 65536)
      let s : State := { s with rcr := { s.rcr with
        opSeconds := min 0xFFFFFFFF (s.rcr.opSeconds + 1), tokens := min burst (s.rcr.tokens + budget),
        sinceAge := if s.pwr.state < 2 then s.rcr.sinceAge + 1 else s.rcr.sinceAge,
        sinceCheckpoint := s.rcr.sinceCheckpoint + 1 } }
      s.histSecond (power % 65536))

/-- AGE_TRIGGER (R374). -/
def execAgeTrigger (s : State) : Host.Outcome State Fault Refusal :=
  finish s (
    if s.pwr.state < 2 ∧ 86400 ≤ s.rcr.sinceAge then
      ({ s with rcr := { s.rcr with sinceAge := s.rcr.sinceAge - 86400 } } : State).trigger 0x44 0
    else s)

/-- A checkpoint of all histogram bins is committed to INVENTORY (R387): 291 bins, eight to an entry. -/
def State.checkpoint (s : State) : State :=
  let s : State := { s with rcr := { s.rcr with
    savedHist := s.rcr.hist, savedSeconds := s.rcr.opSeconds, savedCycles := s.rcr.powerCycles, sinceCheckpoint := 0 } }
  s.inventoryGrow 37

/-- HISTOGRAM_CHECKPOINT (R387). -/
def execHistogramCheckpoint (s : State) : Host.Outcome State Fault Refusal :=
  finish s (if s.canProgram && decide (86400 ≤ s.rcr.sinceCheckpoint) then s.checkpoint else s)

/-! Retention and shrinking (R381, R385). -/

/-- A refresh of a sector through BUFFER (R381). -/
def State.refreshSector (s : State) (n : Nat) (verifyOk : Bool) : State :=
  let x := s.rcr.sector n
  let buf := s.rcr.sector 2047
  if s.eraseLimit ≤ x.erases then
    match s.replaceSector n with
    | some (s, _) => (s.trigger 0x47 n).trigger 0x48 n
    | none => s
  else
    let r := s.rcr.putSector n { x with erases := x.erases + 1, progAge := s.rcr.opSeconds, marginAt := s.rcr.opSeconds }
    let r := r.putSector 2047 { buf with erases := buf.erases + 1 }
    let s : State := { s with rcr := r }
    let s := if verifyOk then s else (s.sectorFault n).1
    s.trigger 0x48 n

/-- RETENTION_CHECK (R381): once every MARGIN_DAYS of operating time a written sector is read at margin. -/
def execRetentionCheck (sector : Nat) (marginOk verifyOk : Bool) (s : State) : Host.Outcome State Fault Refusal :=
  let x := s.rcr.sector sector
  let days := atLeast1 (s.field Reg.REC_WEAR_DAYS 7 0)
  let years := atLeast1 (s.field Reg.REC_WEAR 27 24)
  finish s (
    if s.canProgram && s.bit Reg.REC_CTRL 2
        && decide (sector < 2047 ∧ x.region ≠ .buffer ∧ x.state ≠ .erased ∧ x.state ≠ .bad
          ∧ 86400 * days ≤ s.rcr.opSeconds - x.marginAt) then
      if !marginOk || decide (31557600 * years ≤ s.rcr.opSeconds - x.progAge) then s.refreshSector sector verifyOk
      else { s with rcr := s.rcr.putSector sector { x with marginAt := s.rcr.opSeconds } }
    else s)

/-- SNAP (R375). -/
def execSnap (s : State) : Host.Outcome State Fault Refusal :=
  finish s (s.command Reg.REC_CMD 1 fun s => s.trigger 0x46 0)

/-- A bad sector that no spare has replaced yet (R383). -/
def Rec.missing (r : Rec) : Option Nat :=
  (r.allSectors.find? fun p => p.2.state = .bad ∧
    (r.allSectors.any fun q => q.1 ≠ p.1 ∧ q.2.state ≠ .bad ∧ q.2.region = p.2.region ∧ q.2.logical = p.2.logical) = false).map
    (·.1)

/-- The ROLLING sector that holds the oldest records becomes a SPARE; in RAM-ONLY it replaces the missing sector (R385). -/
def State.shrink (s : State) : State :=
  let all := s.rcr.regionSectors .rolling
  match (s.rcr.oldestSector .rolling).orElse fun _ => all.head?.map (·.1) with
  | none => s
  | some n =>
    let x := s.rcr.sector n
    let s : State := { s with rcr := s.rcr.putSector n { x.erased with region := .spare } }
    if !s.rcr.ramOnly then s
    else
      match s.rcr.missing with
      | none => s
      | some m =>
        let s : State := { s with rcr := { s.rcr with ramOnly := false } }
        match s.replaceSector m with
        | some (s, _) => s.commitAll 32
        | none => s

/-- SHRINK (R385): below 64 ROLLING sectors the command is ignored and counted. -/
def execShrink (s : State) : Host.Outcome State Fault Refusal :=
  finish s (s.command Reg.REC_CMD 2 fun s => s.onlyIn [.service] Reg.REC_CMD fun s =>
    if (s.rcr.regionSectors .rolling).length < 64 then s.violation 4 Reg.REC_CMD true else s.shrink)

/-! The cursor window (R379). -/

/-- The records of a region of the cursor: 0 ROLLING, 1 LIFETIME, 2 shadow; 3 is used as 0. -/
def State.cursorRecords (s : State) (region : Nat) : List Record :=
  match region with
  | 1 => if s.rcr.mounted then s.rcr.recordsIn .lifetime else []
  | 2 => s.rcr.shadow.map (·.record)
  | _ => if s.rcr.mounted then s.rcr.recordsIn .rolling else []

/-- A fetch starts. -/
def State.startFetch (s : State) (region seq : Nat) : State :=
  { s with rcr := { s.rcr with cursor := some (region, seq), window := none, notFound := false, crcBad := false } }

/-- CURSOR_FETCH (R379). -/
def execCursorFetch (v : Word) (s : State) : Host.Outcome State Fault Refusal :=
  finish s (s.command Reg.REC_CURSOR_SEQ_LO v.toNat fun s =>
    let s := s.setReg Reg.REC_CURSOR_SEQ_LO v.toNat
    s.startFetch (s.field Reg.REC_CURSOR_CTL 1 0) (v.toNat + 2 ^ 32 * s.field Reg.REC_CURSOR_SEQ_HI 15 0))

/-- CURSOR_FETCH_DONE (R379). -/
def execCursorFetchDone (s : State) : Host.Outcome State Fault Refusal :=
  finish s (
    match s.rcr.cursor with
    | none => s
    | some (region, seq) =>
      if s.accessOff Reg.REC_CTRL then s
      else
        match (s.cursorRecords region).find? fun r => r.seq = seq with
        | some r => { s with rcr := { s.rcr with cursor := none, window := some r.bytes, winSeq := seq } }
        | none => { s with rcr := { s.rcr with cursor := none, notFound := true, winSeq := seq } })

/-- With AUTO_INC a read of REC_WIN_63 starts the fetch of the next higher SEQ held in the region. -/
def State.autoNext (s : State) : State :=
  if !s.bit Reg.REC_CURSOR_CTL 2 then s
  else
    let region := s.field Reg.REC_CURSOR_CTL 1 0
    let above := ((s.cursorRecords region).map (·.seq)).filter fun q => decide (s.rcr.winSeq < q)
    s.startFetch region (above.min?.getD (s.rcr.winSeq + 1))

/-- AUTO_INC (R379): the read of REC_WIN_63. -/
def execAutoInc (s : State) : Host.Outcome State Fault Refusal :=
  finish s (
    if s.accessOff (Reg.REC_WIN_n 63) then ({ s with readData := 0 } : State).offAccess (Reg.REC_WIN_n 63) false
    else ({ s with readData := BitVec.ofNat 32 (s.readReg (Reg.REC_WIN_n 63)) } : State).autoNext)

end Sys2Proof.Machine
end

