-- ==== Sys2Proof/Machine/Keys.lean ====
section
/-! DEFINITION. The wrapped key block of a job or of a partner (R37, R236, Table 2.3). -/

namespace Sys2Proof.Machine

/-- Unwrap a key block: KWK_ID and BLOCK_TYPE must match, and the tag must verify (R37). -/
def unwrapBlock (kwk : List Byte) (kwkId type : Nat) (blk : List Byte) : Option (List Byte) :=
  if blk.length = 88 ∧ fieldLE blk 0 4 = type ∧ fieldLE blk 8 8 = kwkId then
    gcmOpen kwk (slice blk 28 12) (slice blk 0 40) (slice blk 40 32) (slice blk 72 16)
  else none

end Sys2Proof.Machine
end

