-- ==== Sys2Proof/Machine/Ticks.lean ====
section
/-! DEFINITION. Stage tracking and tick generation (07_stage_tracking.md, R184 to R209): encoder and position-word inputs, the run
position, ticks with all that they bring, simulated ticks, and the TICK outputs. -/

namespace Sys2Proof.Machine

/-! Positions (R188 to R190). -/

/-- The tracking loop counts: PD_LNK is on and TRK_CTRL.ENABLE is 1. -/
def State.tracks (s : State) : Bool := !s.accessOff Reg.TRK_CTRL && s.bit Reg.TRK_CTRL 0

/-- VWIN and INTERP_MAX. -/
def State.interpCfg (s : State) : Nat × Nat := (s.field Reg.TRK_INPUT_CFG 10 8, s.field Reg.TRK_INPUT_CFG 23 12)

/-- RATIO_S. -/
def State.ratioS (s : State) : Nat := s.reg64 Reg.TRK_S_RATIO_LO Reg.TRK_S_RATIO_HI
/-- RATIO_C. -/
def State.ratioC (s : State) : Nat := s.reg64 Reg.TRK_C_RATIO_LO Reg.TRK_C_RATIO_HI

/-- σ_raw at a clock, in 2^-32 pixel (R188). -/
def State.sigmaRaw (s : State) (c : Nat) : Int :=
  let (vw, im) := s.interpCfg
  rawPos (s.bit Reg.TRK_INPUT_CFG 24) (s.trk.s.extended vw im (s.trk.depth = 0) c) s.ratioS

/-- u of a run at a clock, in 2^-32 pixel (R190). -/
def State.runPosAt (s : State) (r : Run) (c : Nat) : Int :=
  runPos r.down (s.sigmaRaw c + offQ32 r.yoff.toNat) (sigmaStart r.down r.s0 r.len r.wStart)

/-- CXW at a stage edge and whether it was held at ±2,000 (R199); `dt` is the last interval, both in 1/64 clock. -/
def State.correctionWord (s : State) (r : Run) (t64 dt : Nat) : Int × Bool :=
  if !s.bit Reg.TRK_CTRL 2 then (0, false)
  else
    let (vw, im) := s.interpCfg
    let c := t64 / 64
    let neg := s.bit Reg.TRK_INPUT_CFG 25
    let xi := rawPos neg (s.trk.c.extended vw im true c) s.ratioC + offQ32 r.xoff.toNat
    let vel := (s.trk.c.interp vw im c).map fun x =>
      (signOf neg * x.1 * ((s.ratioC * 2 ^ min vw 6 : Nat) : Int), x.2.1 - x.2.2)
    let w := cxwRaw (xi - 65280 * (r.stripe : Int) * 2 ^ 32) vel
      (cxDelta dt (s.field Reg.TRK_CX_CFG 15 0) (s.field Reg.TRK_CX_CFG 31 16))
    (clampInt (-2000) 2000 w, decide (w < -2000 ∨ 2000 < w))

/-- D_L in CK_TRK clocks (R202). -/
def State.launchDelay (s : State) : Nat :=
  max (clampNat 40 156 (s.field Reg.TRK_LAUNCH 7 0)) (27 + s.field Reg.TRK_INPUT_CFG 3 0)

/-! Captures (R339). -/

/-- The PTP time at an instant between clocks, on a grid of `g` tu. -/
def State.ptpFine (s : State) (t g : Nat) : Int :=
  s.ptpTime t + (((t - s.ptp.onAt) % 147456 / g * g * s.ptp.period / 147456 : Nat) : Int)

/-- The grid of pulses and captures, 320 ps (R338, R339). -/
def ptpGrid : Nat := 18432

/-- The source of capture unit n; 3 is used as 0. -/
def State.capSource (s : State) (n : Nat) : Nat := s.field Reg.PTP_CTRL (2 + 2 * n) (1 + 2 * n) % 3

/-- An event of capture unit n at an instant: an entry in its FIFO, or a drop. -/
def State.capture (s : State) (n t : Nat) : State :=
  let fifo := s.ptp.caps.getD n []
  if 16 ≤ fifo.length then (s.bump (Reg.PTP_CAPn_DROP (n % 2))).raise .ptpErr
  else
    let e : CapEntry := (stampWords true (s.ptpFine t ptpGrid) ++ [s.tickTotal]).map fun w => BitVec.ofNat 32 w
    ({ s with ptp := { s.ptp with caps := s.ptp.caps.set n (fifo ++ [e]) } } : State).raise .ptpCap

/-- The capture units whose source is `src` take an event while PD_NET is on. -/
def State.captureAll (s : State) (src t : Nat) : State :=
  if !s.domOn 8 then s
  else [0, 1].foldl (fun s n => if s.capSource n = src then s.capture n t else s) s

/-! Configuration sets at stripe tick 0 (R281). -/

/-- The two sets exchange roles (R281 to R283). -/
def State.swapRoles (s : State) : State :=
  let s := { s with sets := { s.sets with active := !s.sets.active, sealed := false, swappedAt := some s.time },
                    cor := { s.cor with epoch := s.cor.epoch + 1 } }
  ((s.setReg Reg.SET_SWAP_COUNT (s.reg Reg.SET_SWAP_COUNT + 1)).raise .setSwapped).captureAll 2 s.time

/-- Read the offsets of a run from the tracking page of a set (R192). -/
def State.readOffsets (s : State) (b : Bool) : State :=
  let pg := s.page b 2
  s.modRun fun r => { r with yoff := BitVec.ofNat 32 (pg (if r.down then 4 else 0)),
                             xoff := BitVec.ofNat 32 (pg (if r.down then 12 else 8)) }

/-! Stripe tick 0 (R166, R167, R174, R179, R181). -/

/-- A beam's table words: the slath entry is invalid, some word is poisoned, and the bit of the dead map (R167). -/
def State.tableFaults (s : State) (m : MemCopy) (b : Nat) : Bool × Bool × Bool :=
  let a := m.base
  let poison := s.poisonIn (a + 8 * b) 8 || s.poisonIn (a + 0x600000 + 4 * (b / 32)) 4
    || (List.range 4).any fun j => s.poisonIn (a + 0x200000 + 0x100000 * j + 4 * b) 4
  (!slathOk b (m.num (a + 8 * b) 8), poison, bitOf (m.num (a + 0x600000 + 4 * (b / 32)) 4) (b % 32))

/-- The beam store is loaded from the bank of the active set: dead beams, their counts and logs (R166, R167). -/
def State.loadStore (s : State) : State :=
  let base := s.bankBase (feedBank (s.page s.sets.active 1))
  let m := s.dram.copyOf base 0x608000
  let fs := (List.range beamCount).map fun b => (b, s.tableFaults m b)
  let bad := (fs.filter fun x => x.2.1 || x.2.2.1).length
  let dead := (fs.filter fun x => x.2.1 || x.2.2.1 || x.2.2.2).map (·.1)
  let s := s.touch .feed base 0x608000
  let s := { s with bmf := { s.bmf with store := m, dead := dead, loading := true, table := none } }
  let s := (s.setReg Reg.BMF_DEAD_BEAMS dead.length).bumpBy Reg.BMF_TABLE_FAULTS bad
  let s := if fs.any (fun x => x.2.1) then s.bmfLog 0x02 0 0 else s
  if fs.any (fun x => x.2.2.1) then s.bmfLog 0x01 0 0 else s

/-- The earlier ledgers are read with the beam-store load; a poisoned word ends the run at tick 0 (R179, Table 6.12). -/
def State.loadChain (s : State) : State :=
  let parts := s.bmf.chain.flatMap fun p => [(p.base, 56), (p.base + 0x1000, 0x28000)]
  let poisoned := parts.any fun x => s.poisonIn x.1 x.2
  let chain := s.bmf.chain.map fun p =>
    { p with desc := LedgerDesc.ofBytes (s.bytesAt p.base 56), copies := s.dram.copyOf (p.base + 0x1000) 0x28000 }
  let s : State := { s with bmf := { s.bmf with chain := chain } }
  let s := parts.foldl (fun s x => s.touch .feed x.1 x.2) s
  if poisoned then s.once .priorPoison fun s => (s.bmfLog 0x07 0 0).truncateNow 0x0B else s

/-- What happens at stripe tick 0 of the bound run. -/
def State.beginRun (s : State) : State :=
  let s := if s.sets.sealed then s.swapRoles else s
  let s := match s.cor.cur with | some id => s.setChanged id s.sets.active | none => s
  let pg := s.page s.sets.active 1
  let words := ((List.range 1024).map fun i => (4 * i, BitVec.ofNat 32 (pg (4 * i)))).filter fun x => x.2 ≠ 0
  let s : State := { s with
    bmf := { s.bmf with page := words, holes := [], heat := [], shorts := [], frame := [], frameK := some 0 },
    stg := { s.stg with window := [] },
    lnk := { s.lnk with lanes := s.lnk.lanes.map fun l => { l with lateRun := 0, lateNext := 0 } } }
  let s := s.modRun fun r => { r with bank := feedBank pg, waitStart := false }
  let s := s.readOffsets s.sets.active
  match s.run with
  | none => s
  | some r =>
    let f := (if r.down then -1 else 1) * signOf (s.bit Reg.TRK_INPUT_CFG 24) * s.trk.s.count
    let s := { s with trk := { s.trk with fmax := f, depth := 0 },
                      bmf := { s.bmf with turn := (r.slot + 1) % s.ledgerSlots } }
    let s := s.setRegs Reg.BMF_RUN_0 [r.stripe + r.kind * 2 ^ 16 + r.depth * 2 ^ 18 + b2n r.dry * 2 ^ 20 + r.slot * 2 ^ 21,
      r.wStart, r.serial, 0]
    let s := s.memWrite (s.ledgerAddr r.slot) (s.descOf r 0 0).bytes
    (s.loadStore).loadChain

/-! A tick (R191, R197, R198). -/

/-- TICK pulses at a stage edge: output, rise and fall in tu (R197). -/
def State.pulsesAt (s : State) (t64 : Nat) : List (Nat × Nat × Nat) :=
  ((List.range 4).filter fun q => bitOf s.trk.enables q).map fun q =>
    let rise := subTu * t64 + nsTu 40 + subTu * s.trk.taps.getD q 0
    (q, rise, rise + clkTu * s.trk.width)

/-- What every tick does, with a run or without: the total, the period, the taps and the pulses. -/
def State.countTick (s : State) (t64 : Nat) (dt : Option Nat) : State :=
  let s := s.setReg64 Reg.TRK_TICK_TOTAL_LO Reg.TRK_TICK_TOTAL_HI (s.tickTotal + 1)
  let s := match dt with | some d => s.setReg Reg.TRK_PERIOD (min d 0xFFFFFFFF) | none => s
  let s := { s with trk := { s.trk with
    taps := (List.range 4).map fun q => tapStep (s.trk.taps.getD q 0) (s.trk.target.getD q 0), ticked := true } }
  { s with trk := { s.trk with pulses := s.pulsesAt t64 } }

/-- Least interval of a tick that is not overspeed, in 1/64 clock (R201). -/
def ovsInterval : Nat := 792 * 64

/-- 16 CK_LNK clocks and a frame of 389 blocks on the wire, in tu (R202, R212). -/
def wireGap : Nat := 1048576
/-- A frame on the wire. -/
def wireFrame : Nat := 52580352

/-- When the wire is free for a frame scheduled at `sched`, and whether it then leaves more than 400 ns late (R201, R202). -/
def State.wireReady (s : State) (sched : Nat) : Nat × Bool :=
  let ready := max sched (s.lnk.wire + wireGap)
  (ready, decide (sched + nsTu 400 < ready))

/-- A tick is overspeed (R159, R201): counted, its rows marked, the first of a run announced. -/
def State.overspeed (s : State) (k : Nat) : State :=
  let s := (s.bump Reg.TRK_OVS_COUNT).hole .overspeed k 0 511
  let s := s.once .overspeed fun s => s.raise .trkOverspeed
  s.modRun fun r => { r with ovsRun := r.ovsRun + 1 }

/-- What a tick issued at `t64` does before its frame is spoken of: it is counted, tick 0 begins the run (R190), and a frame
four ticks behind that has not left yet is late (R191). -/
def State.takeTick (s : State) (t64 k : Nat) (dt : Option Nat) : State :=
  let s := s.countTick t64 dt
  let s := (s.setReg Reg.TRK_STRIPE_TICK (k % 2 ^ 26)).modRun fun r => { r with issued := k + 1, hwmAt := t64 }
  let s := if k = 0 then (s.captureAll 1 (subTu * t64)).beginRun else s
  if 4 ≤ k then s.lateFrames (k - 4) else s

/-- The conditions that stop a run at tick `k` (R195, R203): a saturated correction, too many overspeeds, the plate's plan. -/
def State.tickStops (s : State) (r : Run) (k : Nat) (ovs sat : Bool) : State :=
  let range := sat && decide (65536 ≤ k ∧ k ≤ r.lastTick)
  let s := if range then s.condition 8 else s
  let s := if ovs && decide (r.ovsRun + 1 = atLeast1 (s.field Reg.TRK_GUARD 15 8)) then s.condition 2 range else s
  let s := if s.glb.planAt = some k then s.truncateNow 0x02 else s
  s.modRun fun r => if k = r.lastFrame + 2 then { r with lastDrainAt := some s.time } else r

/-- Tick `k`, `dt` after the one before it: overspeed, its record for the frame, the replay and what may stop the run. -/
def State.markTick (s : State) (r : Run) (k t64 dt : Nat) (cxw : Int) (sat : Bool) : State :=
  let frame := decide (k ≤ r.lastFrame)
  let wire := s.wireReady (subTu * (t64 + 64 * s.launchDelay))
  let ovs := frame && decide (1 ≤ k) && (decide (dt < ovsInterval) || wire.2)
  let s : State := if frame then { s with lnk := { s.lnk with wire := wire.1 + wireFrame } } else s
  let s := if ovs then s.overspeed k else if frame then s.modRun fun r => { r with ovsRun := 0 } else s
  let s := if frame then
      s.modRun fun r => { r with ticks := r.ticks ++ [{ k := k, at64 := t64, ovs := ovs, cxw := unsignedOf 16 cxw }] }
    else s
  let s : State := { s with stg := { s.stg with tickTimes := lately s.time s.stg.tickTimes ++ [s.time] } }
  let s := (s.releaseReplay).yields
  let s := if sat && frame then s.bump Reg.TRK_CX_SAT else s
  s.tickStops r k ovs sat

/-- Tick k of the bound run is issued with its stage edge and its correction word (R191 to R203, R222). -/
def State.issueTick (s : State) (t64 : Nat) (cx : Nat → Int × Bool) : State :=
  match s.run with
  | none => s
  | some r =>
    let dt := if r.issued = 0 then 792 * 64 else t64 - r.hwmAt
    let s := s.takeTick t64 r.issued (if r.issued = 0 then none else some dt)
    match s.run with
    | none => s
    | some r' => s.markTick r' r.issued t64 dt (cx dt).1 (cx dt).2

/-- The run still takes ticks: up to the two drain ticks after the last frame (R190, R196). -/
def Run.ticksOn (r : Run) : Bool := !r.noTicks && decide (r.issued ≤ r.lastFrame + 2)

/-- TICK_ISSUE (R191). -/
def execTickIssue (t : Nat) (s0 : State) : Host.Outcome State Fault Refusal :=
  let s := s0.at_ t
  finish s0 (match s.run with
    | none => s
    | some r =>
      if !s.tracks || s.bit Reg.TRK_CTRL 1 || !r.ticksOn then s
      else
        let c := t / clkTu
        let u0 := s.runPosAt r (c - 1)
        let u1 := s.runPosAt r c
        let below := r.below || decide (u0 < 0)
        let t64 := tickInstant c r.issued u0 u1 (if r.issued = 0 then none else some r.hwmAt)
        if (r.issued : Int) * 2 ^ 32 ≤ u1 ∧ (0 < r.issued ∨ below = true) ∧ t64 ≤ 64 * c then
          s.issueTick t64 fun dt => s.correctionWord r t64 dt
        else s.modRun fun r => { r with below := below })

/-- SIM_TICK (R205). -/
def execSimTick (t : Nat) (s0 : State) : Host.Outcome State Fault Refusal :=
  let s := s0.at_ t
  finish s0 (match s.run, s.trk.simNext with
    | some r, some n =>
      if !s.tracks || !s.bit Reg.TRK_CTRL 1 || !r.ticksOn || decide (t < subTu * n) then s
      else
        let s := { s with trk := { s.trk with simNext := some (n + max 64 (s.reg Reg.TRK_SIM_PERIOD)) } }
        s.issueTick n fun _ => (0, false)
    | _, _ => s)

/-- SIM_FREE_TICK (R206). -/
def execSimFreeTick (t : Nat) (s0 : State) : Host.Outcome State Fault Refusal :=
  let s := s0.at_ t
  finish s0 (match s.trk.simFree with
    | none => s
    | some n =>
      if t < subTu * n then s
      else
        let dt := s.trk.last64.map fun p => n - p
        let s := s.countTick n dt
        let s := match dt with | some d => if d < ovsInterval then s.bump Reg.TRK_OVS_COUNT else s | none => s
        { s with trk := { s.trk with last64 := some n, simFree := some (n + max 64 (s.reg Reg.TRK_SIM_PERIOD)) } })

/-- SIM_RUN (R206). -/
def execSimRun (t : Nat) (s0 : State) : Host.Outcome State Fault Refusal :=
  finish s0 ((s0.at_ t).command Reg.TRK_CMD 0x20 fun s =>
    if s.glb.mode ≠ .service || !s.bit Reg.TRK_CTRL 1 then s.violation 4 Reg.TRK_CMD true
    else if !s.bit Reg.TRK_CTRL 0 || s.trk.simFree.isSome then s
    else { s with trk := { s.trk with simFree := some ((t + subTu - 1) / subTu + 64 * 64), last64 := none } })

/-- The free-running simulator stops (R206). -/
def State.stopFree (s : State) : State := { s with trk := { s.trk with simFree := none } }

/-- SIM_STOP (R206). -/
def execSimStop (s : State) : Host.Outcome State Fault Refusal := finish s (s.command Reg.TRK_CMD 0x40 State.stopFree)

/-! Counting (R184, R185, R194). -/

/-- Change an axis. -/
def State.modAxis (s : State) (x : AxisName) (f : Axis → Axis) : State :=
  match x with
  | .scan => { s with trk := { s.trk with s := f s.trk.s } }
  | .cross => { s with trk := { s.trk with c := f s.trk.c } }

/-- An axis. -/
def State.axis (s : State) : AxisName → Axis
  | .scan => s.trk.s
  | .cross => s.trk.c

/-- TRK_x_PRESET as the signed 48-bit count. -/
def State.preset (s : State) : AxisName → Int
  | .scan => signedOf 48 (s.reg64 Reg.TRK_S_PRESET_LO Reg.TRK_S_PRESET_HI)
  | .cross => signedOf 48 (s.reg64 Reg.TRK_C_PRESET_LO Reg.TRK_C_PRESET_HI)

/-- Load a count and anchor the axis. -/
def Axis.anchor (x : Axis) (now : Nat) (v : Int) : Axis :=
  { x with count := v, anchored := true, recs := pruneRecs now ({ clk := now, dir := 0, count := v } :: x.recs) }

/-- Count an edge (48 bits, wrapping). -/
def Axis.edge (x : Axis) (now : Nat) (d : Int) : Axis :=
  let v := signedOf 48 (unsignedOf 48 (x.count + d))
  { x with count := v, recs := pruneRecs now ({ clk := now, dir := d, count := v } :: x.recs) }

/-- The depth of R194 after a scan edge: absorbed excursions, the largest depth, and REVERSAL (R195). -/
def State.depthAfter (s : State) : State :=
  match s.run with
  | none => s
  | some r =>
    if r.issued = 0 ∨ s.bit Reg.TRK_CTRL 1 = true then s
    else
      let f := (if r.down then -1 else 1) * signOf (s.bit Reg.TRK_INPUT_CFG 24) * s.trk.s.count
      let fmax := max s.trk.fmax f
      let d := (fmax - f).toNat
      let was := s.trk.depth
      let s := { s with trk := { s.trk with fmax := fmax, depth := d } }
      let s := if was = 0 ∧ 0 < d then s.bump Reg.TRK_REV_ABSORB else s
      let s := s.setReg Reg.TRK_REV_DEPTH (max (s.reg Reg.TRK_REV_DEPTH) (min d 65535))
      if atLeast1 (s.field Reg.TRK_REV_TOL 15 0) < d then s.condition 1 else s

/-- u has been below 0 since the arm (R191). -/
def State.noteBelow (s : State) (c : Nat) : State :=
  match s.run with
  | some r => if r.issued = 0 ∧ s.runPosAt r c < 0 then s.modRun fun r => { r with below := true } else s
  | none => s

/-- ENCODER_EDGE (R184). -/
def execEncoderEdge (axis : AxisName) (a b : Bool) (t : Nat) (s0 : State) : Host.Outcome State Fault Refusal :=
  let s := s0.at_ t
  let c := t / clkTu
  let x := s.axis axis
  let step := quadStep x.levelA x.levelB a b
  let s := s.modAxis axis fun x => { x with levelA := a, levelB := b }
  finish s0 (if !s.tracks then s
    else
      match step with
      | some 0 => s
      | some d =>
        let s := s.modAxis axis fun x => x.edge c d
        if axis = .scan then (s.depthAfter).noteBelow c else s
      | none =>
        let s := s.modAxis axis fun x => { x with anchored := false }
        match axis with
        | .scan => (s.bump Reg.TRK_QERR_S).condition 3
        | .cross => if s.bit Reg.TRK_CTRL 2 then (s.bump Reg.TRK_QERR_C).condition 4 else s.bump Reg.TRK_QERR_C)

/-- The axis of a pair. -/
def pairAxis : EncoderPair → AxisName
  | .qaS => .scan | .qbS => .scan | .qiS => .scan | .qaC => .cross | .qbC => .cross | .qiC => .cross

/-- A pair is used (R184). -/
def State.pairUsed (s : State) : EncoderPair → Bool
  | .qaS => s.tracks
  | .qbS => s.tracks
  | .qaC => s.tracks && s.bit Reg.TRK_CTRL 2
  | .qbC => s.tracks && s.bit Reg.TRK_CTRL 2
  | .qiS => s.tracks && s.trk.s.idxPreset
  | .qiC => s.tracks && s.trk.c.idxPreset

/-- ENCODER_LOS (R184). -/
def execEncoderLos (pair : EncoderPair) (t : Nat) (s0 : State) : Host.Outcome State Fault Refusal :=
  let s := s0.at_ t
  finish s0 (if !s.pairUsed pair then s
    else
      let s := (s.bump Reg.TRK_LOS_COUNT).modAxis (pairAxis pair) fun x => { x with anchored := false }
      s.condition 5)

/-- INDEX_EDGE (R185). -/
def execIndexEdge (axis : AxisName) (t : Nat) (s0 : State) : Host.Outcome State Fault Refusal :=
  let s := s0.at_ t
  finish s0 (if !s.tracks then s
    else
      let s := if (s.axis axis).idxPreset then
          s.modAxis axis fun x => { (x.anchor (t / clkTu) (s.preset axis)) with idxPreset := false }
        else s
      let v := unsignedOf 64 (s.axis axis).count
      match axis with
      | .scan => (s.setReg64 Reg.TRK_S_IDXCAP_LO Reg.TRK_S_IDXCAP_HI v).setField Reg.TRK_STATUS 3 3 1
      | .cross => (s.setReg64 Reg.TRK_C_IDXCAP_LO Reg.TRK_C_IDXCAP_HI v).setField Reg.TRK_STATUS 4 4 1)

/-- An anchor bit of TRK_CMD: honoured only while no run is in progress (R185). -/
def State.anchorCommand (s : State) (v : Nat) (f : State → State) : State :=
  s.command Reg.TRK_CMD v fun s => if s.run.isSome then s.violation 4 Reg.TRK_CMD true else f s

/-- Load a preset at once. -/
def State.presetNow (s : State) (axis : AxisName) : State :=
  s.modAxis axis fun x => x.anchor (s.time / clkTu) (s.preset axis)

/-- Arm a preset for the next index edge. -/
def State.presetIdx (s : State) (axis : AxisName) : State := s.modAxis axis fun x => { x with idxPreset := true }

/-- PRESET_S_NOW (R185). -/
def execPresetSNow (s : State) : Host.Outcome State Fault Refusal := finish s (s.anchorCommand 1 fun s => s.presetNow .scan)

/-- PRESET_S_IDX (R185). -/
def execPresetSIdx (s : State) : Host.Outcome State Fault Refusal := finish s (s.anchorCommand 2 fun s => s.presetIdx .scan)

/-- PRESET_C_NOW (R185). -/
def execPresetCNow (s : State) : Host.Outcome State Fault Refusal := finish s (s.anchorCommand 4 fun s => s.presetNow .cross)

/-- PRESET_C_IDX (R185). -/
def execPresetCIdx (s : State) : Host.Outcome State Fault Refusal := finish s (s.anchorCommand 8 fun s => s.presetIdx .cross)

/-- ANCHOR_PW (R187). -/
def execAnchorPw (s : State) : Host.Outcome State Fault Refusal :=
  finish s (s.anchorCommand 16 fun s => { s with trk := { s.trk with anchorPw := true } })

/-! Position words (R186, R187). -/

/-- SGN_W × (POS - PW_ZERO). -/
def State.pwDelta (s : State) (pos : Nat) : Int :=
  signOf (s.bit Reg.TRK_INPUT_CFG 26)
    * (signedOf 40 pos - signedOf 40 (s.reg64 Reg.TRK_PW_ZERO_LO Reg.TRK_PW_ZERO_HI))

/-- A condition of the position word: in a run tracked from the encoder it is a condition of Table 7.2, else it only raises its
interrupt (R187, R203). -/
def State.pwCondition (s : State) (code : Nat) : State :=
  if s.run.isSome && !s.bit Reg.TRK_CTRL 1 then s.condition code else s.raise (conditionSource code)

/-- A valid word with PW_EN = 1 (R187). -/
def State.checkWord (s : State) (d : Int) (t : Nat) : State :=
  let at_ := (t - nsTu (s.field Reg.TRK_PW_TIME 15 0)) / clkTu
  let miss := if pwMismatch d (s.sigmaRaw at_) (s.field Reg.TRK_PW_CFG 31 16) then s.trk.pwMiss + 1 else 0
  let s := { s with trk := { s.trk with pwMiss := miss } }
  let s := if atLeast1 (s.field Reg.TRK_PW_CFG 7 4) ≤ miss then
      (({ s with trk := { s.trk with pwMiss := 0 } } : State).bump Reg.TRK_PW_MISMATCH).pwCondition 6
    else s
  if s.trk.anchorPw then
    let s := s.modAxis .scan fun x => x.anchor (t / clkTu) (pwAnchor (s.bit Reg.TRK_INPUT_CFG 24) d s.ratioS)
    { s with trk := { s.trk with anchorPw := false } }
  else s

/-- POSITION_WORD (R187). -/
def execPositionWord (bits : List Bool) (t : Nat) (s0 : State) : Host.Outcome State Fault Refusal :=
  let s := s0.at_ t
  finish s0 (if s.accessOff Reg.TRK_CTRL then s
    else
      match posWord bits with
      | none => s.bump Reg.TRK_PW_CRC_ERR
      | some pos =>
        let s := s.setReg64 Reg.TRK_PW_LAST_LO Reg.TRK_PW_LAST_HI pos
        if s.bit Reg.TRK_PW_CFG 0 then s.checkWord (s.pwDelta pos) t else s)

/-- POSITION_WORD_LOSS (R187). -/
def execPositionWordLoss (t : Nat) (s0 : State) : Host.Outcome State Fault Refusal :=
  let s := s0.at_ t
  finish s0 (if !s.accessOff Reg.TRK_CTRL && s.bit Reg.TRK_PW_CFG 0 then s.pwCondition 7 else s)

/-! The TICK outputs (R197, R198). -/

/-- The tap target of an output (R198); with TRIM_T_LO not below TRIM_T_HI the trim is a free value. -/
def State.tapTarget (s : State) (q : Nat) : Nat :=
  let lo := signedOf 16 (s.field Reg.TRK_TICK_TEMP 15 0)
  let hi := signedOf 16 (s.field Reg.TRK_TICK_TEMP 31 16)
  let base := s.field (Reg.TRK_TICKq_DLY q) 11 0
  if hi ≤ lo then tickTaps base (signedOf 16 s.drawn)
  else tickTaps base (tickTrim (signedOf 16 (s.field (Reg.TRK_TICKq_TRIM q) 15 0))
    (signedOf 16 (s.field (Reg.TRK_TICKq_TRIM q) 31 16)) lo hi (s.temp 14))

/-- TICK_TRIM_UPDATE (R198). -/
def execTickTrimUpdate (s : State) : Host.Outcome State Fault Refusal :=
  finish s (if s.accessOff Reg.TRK_CTRL then s
    else
      let target := (List.range 4).map s.tapTarget
      let s' := { s with trk := { s.trk with
        target := target, taps := if s.trk.ticked then s.trk.taps else target, ticked := false,
        width := clampNat 8 32 (s.field Reg.TRK_TICK_CFG 13 8), enables := s.field Reg.TRK_TICK_CFG 3 0 } }
      if signedOf 16 (s.field Reg.TRK_TICK_TEMP 31 16) ≤ signedOf 16 (s.field Reg.TRK_TICK_TEMP 15 0) then s'.next else s')

end Sys2Proof.Machine
end

