-- ==== Sys2Proof/Machine/Launch.lean ====
section
/-! DEFINITION. The beam feed at work: the footprint read, the assembly of a frame, its launch, working tables, thermal decay
(R140, R141, R156 to R173, R179, R202, R430). -/

namespace Sys2Proof.Machine

/-- The beam-feed page of the run (R181). -/
def State.runPage (s : State) : Page := fun o => (smGet (fun _ => 0) s.bmf.page o).toNat

/-! The footprint read (R140, R141). -/

/-- The writing index whose strand row i fetches for frame k, if the run writes it (R140, R178). -/
def Run.fetchIndex (r : Run) (i k : Nat) : Option Nat :=
  let base := 65536 + 128 * rowQ r.down i
  if base ≤ k ∧ r.wStart + (k - base) < r.len then some (r.wStart + (k - base)) else none

/-- The 512 containers of a strand: row i's columns of slice n in its footprint slot (R137). -/
def State.readStrand (s : State) (n i : Nat) : List Nat :=
  let bs := s.bytesAt (s.fpAddr n + 1024 * (i % 128)) 1024
  (List.range 512).map fun c => fieldLE bs (2 * c) 2

/-- A strand of pixel row w could not be had: counted and announced (R141). -/
def State.strandLate (s : State) (w : Nat) : State :=
  ((s.bump Reg.STG_LATE_STRANDS).setReg Reg.STG_LATE_AT (w % 2 ^ 25)).raise .stgLate

/-- Row i fetches pixel row w of the work's strands, of which `nb` is the first (R141). -/
def State.fetchStrand (s : State) (k : Work) (nb w i : Nat) : State × Strand :=
  let n := nb + w
  let a := s.fpAddr n + 1024 * (i % 128)
  if s.stg.fp.contains (n % s.fpSlots, n) && k.set.isSome then
    if s.poisonIn a 1024 then (((s.touch .feed a 1024).fpPoison n).strandLate w, none)
    else (s.touch .feed a 1024, some (s.readStrand n i))
  else (s.strandLate w, none)

/-- Row i fetches its strand for frame `tick`; before its first and after its last pixel row it has none to fetch (R141). -/
def State.fetchRow (s : State) (r : Run) (tick i : Nat) : State × Strand :=
  match r.fetchIndex i tick with
  | none => (s, some [])
  | some w =>
    match s.curWork with
    | some k => s.fetchStrand k (k.nb.getD 0) w i
    | none => (s.strandLate w, none)

/-- The strands of frame `tick` enter the window, which keeps the last eight (R140). -/
def State.fetchStrands (s : State) (r : Run) (tick : Nat) : State :=
  let x := (List.range 512).foldl (fun (a : State × List Strand) i =>
    let y := a.1.fetchRow r tick i
    (y.1, a.2 ++ [y.2])) (s, [])
  { x.1 with stg := { x.1.stg with window := ((tick, x.2) :: x.1.stg.window).take 8 } }

/-- The strand that row i fetched for frame k, while the window holds it. -/
def State.strandAt (s : State) (i k : Nat) : Strand :=
  match s.stg.window.find? fun x => x.1 = k with
  | some x => x.2.getD i (some [])
  | none => some []

/-- The rows with a missing strand among those that their beams take their EV from at tick k (Table 6.2, MISSING). -/
def State.missingRows (s : State) (k : Nat) : List Nat :=
  (List.range 512).filter fun i =>
    (List.range 8).any fun y => decide (y ≤ k) && (s.strandAt i (k - y)).isNone && (rowBeams i).any fun b => s.bmf.trim b = y

/-! Earlier runs (R179). -/

/-- The place of hole entry n of an earlier run. -/
def Prior.entryAt (p : Prior) (n : Nat) : Nat := p.base + 0x30000 + 16 * n

/-- The last tick of an earlier run. -/
def Prior.lastTick (p : Prior) : Nat := runTicks p.desc.wStart p.desc.len - 1

/-- An earlier run as the playback sees it: its geometry, copies, hole entries and HEAL_EN. -/
def State.priorView (s : State) (p : Prior) : RunView :=
  { down := p.desc.down, wStart := p.desc.wStart, len := p.desc.len, dry := p.desc.dry, heal := p.desc.heal,
    dead := fun b => bitOf (p.copies.num (p.base + 0x1000 + 4 * (b / 32)) 4) (b % 32),
    trim := fun b => p.copies.num (p.base + 0x9000 + 4 * (b / 8)) 4 / 2 ^ (4 * (b % 8)) % 8,
    hole := fun i k => (List.range (min p.desc.entries ledgerCapacity)).any fun n =>
      entryCovers (s.bytesAt (p.entryAt n) 16) p.lastTick i k }

/-- The ticks of an earlier run that the pixels of frame k need: first and last. -/
def Prior.needed (p : Prior) (r : Run) (k : Nat) : Option (Nat × Nat) :=
  if k < 65536 then none
  else
    let hi := min (r.wStart + (k - 65536)) (r.len - 1)
    let lo := max r.wStart (r.wStart + (k - 65536) - 65415)
    if hi < lo then none
    else
      let a := if p.desc.down = r.down then lo else r.len - 1 - hi
      let b := if p.desc.down = r.down then hi else r.len - 1 - lo
      some (65536 + (a - p.desc.wStart), 65536 + 65408 + 7 + (b - p.desc.wStart))

/-- A hole entry met for frame k is poisoned (Table 6.12). -/
def State.priorPoison (s : State) (r : Run) (k : Nat) : Bool :=
  s.bmf.chain.any fun p =>
    match p.needed r k with
    | none => false
    | some (a, b) => (List.range (min p.desc.entries ledgerCapacity)).any fun n =>
        s.poisonIn (p.entryAt n) 16
          && (let w0 := leNat (s.bytesAt (p.entryAt n) 4)
              let c := bitsOf w0 29 26
              let last := if c = 7 ∨ c = 8 then p.lastTick else w0 % 2 ^ 26 + leNat (s.bytesAt (p.entryAt n + 4) 2)
              decide (w0 % 2 ^ 26 ≤ b ∧ a ≤ last))

/-! One shot (Table 6.1). -/

/-- GAIN and OFFSET of a beam in the working table in use (R168). -/
def State.beamCal (s : State) (pg : Page) (b : Nat) : Int × Int :=
  let place := calPlace pg ((s.bmf.table.getD []).getD (beamQuad b) 0)
  let e := fun (j : Nat) => s.bmf.store.num (s.bmf.store.base + 0x200000 + 0x100000 * j + 4 * b) 4
  (calInterp (calGain (e place.1)) (calGain (e (place.1 + 1))) place.2,
    calInterp (calOffset (e place.1)) (calOffset (e (place.1 + 1))) place.2)

/-- The thermal cell of pixel (x, w) (R164). -/
def Run.cell (r : Run) (v : RunView) (x w : Nat) : Nat := (r.s0 + v.slice w) / 800 * 82 + x / 800

/-- What a live beam with a slice and an EV makes at tick k. -/
structure Shot where
  beam : Nat
  out : LevelOut
  last : Option (Nat × Bool)
deriving DecidableEq, Repr

/-- The shot of beam b at tick k (R156): none when the beam is dead, has no slice or no EV. -/
def State.shotOf (s : State) (r : Run) (v : RunView) (chain : List RunView) (pg : Page) (k b : Nat) : Option Shot :=
  if v.dead b then none
  else
    match v.windex b k, s.strandAt (b / 512) (k - v.trim b) with
    | some w, some l =>
      let c := l.getD (b % 512) 0
      let x := beamLine b
      let p := rowQ r.down (b / 512) / 128
      let t := targetDose (c % 4096) (feedN0 pg)
      let d := if r.kind = 0 then t else remainingDose chain x (v.slice w) t
      let g := s.beamCal pg b
      let theta := smGet (fun _ => 0) s.bmf.heat (r.cell v x w)
      some { beam := b, out := v.level pg (bitsOf c 13 12) theta g.1 g.2 x w d p, last := v.lastPass x w d p }
    | _, _ => none

/-- SHORT_TOL (R163). -/
def State.shortTol (s : State) : Nat := s.field Reg.BMF_CFG 15 0

/-- The shot finishes a pixel that is short (R163). -/
def Shot.short (x : Shot) (tol : Nat) : Bool := match x.last with | some (f, _) => decide (tol < f) | none => false

/-- The shot finishes a pixel that was healed. -/
def Shot.healed (x : Shot) (tol : Nat) : Bool := match x.last with | some (f, h) => decide (f ≤ tol) && h | none => false

/-- The shot finishes a pixel that its own loss would make short. -/
def Shot.atStake (x : Shot) (tol : Nat) : Bool := x.last.isSome && !x.short tol && decide (tol < x.out.share)

/-! Assembly (R156, R160, R163, R166). -/

/-- Levels and counts of a frame whose tables are loaded. -/
def State.assembleLevels (s : State) (r : Run) (k : Nat) : State :=
  let v := s.view r
  let pg := s.runPage
  let chain := s.bmf.chain.map s.priorView
  let tol := s.shortTol
  let shots := (List.range beamCount).filterMap fun b => s.shotOf r v chain pg k b
  let lost := fun (x : Shot) => s.marked (x.beam / 512) k
  let sent := shots.filter fun x => !lost x
  let s := s.bumpBy Reg.BMF_LEVEL_CLIP ((sent.map (·.out.clips)).sum)
  let s := s.bumpBy Reg.BMF_HEALED_PIXELS (sent.filter fun x => x.healed tol).length
  let s := s.addShort ((sent.filter fun x => x.short tol).length
    + (shots.filter fun x => lost x && (x.short tol || x.atStake tol)).length)
  let rows : List RowShort := (List.range 512).filterMap fun i =>
    let n := (sent.filter fun x => x.beam / 512 = i ∧ x.atStake tol = true).length
    if n = 0 then none else some { k := k, row := i, count := n }
  { s with bmf := { s.bmf with
      frame := if r.dry then [] else (sent.filter fun x => x.out.level ≠ 0).map fun x => (x.beam, x.out.level),
      shorts := (s.bmf.shorts.filter fun x => decide (k < x.k + 8)) ++ rows } }

/-- Assemble frame k (R30, R156): its strands are fetched, and its levels made unless the feed is off, the tables are not
loaded, or the run is truncated before it. -/
def State.assemble (s : State) (k : Nat) : State :=
  match s.run with
  | none => s
  | some r =>
    let s := s.fetchStrands r k
    let s := (s.missingRows k).foldl (fun s i => s.hole .missing k i i) s
    let s := if r.kind ≠ 0 ∧ s.priorPoison r k = true then
        s.once .priorPoison fun s => (s.bmfLog 0x07 0 k).truncateNow 0x0B
      else s
    let s := { s with bmf := { s.bmf with frame := [], frameK := some k,
                                          holes := s.bmf.holes.filter fun m => decide (k + 8 < m.k1 + 65536) } }
    match s.run with
    | none => s
    | some r =>
      if r.trunc.any fun x => decide (x.1 + 2 ≤ (k : Int)) then s
      else if !s.bit Reg.BMF_CTRL 0 then s
      else if s.bmf.loading then
        if (s.view r).carriesDose k then
          (s.hole .loadLate k 0 511).once .loadLate fun s => s.bmfLog 0x03 0 k
        else s
      else s.assembleLevels r k

/-! Launch (R173, R200, R202, R212, R430). -/

/-- Contiguous ranges of rows. -/
def rowRanges (rows : List Nat) : List (Nat × Nat) :=
  (List.range 512).foldl (fun a i =>
    if i ∈ rows then
      match a.getLast? with
      | some (x, y) => if y + 1 = i then a.dropLast ++ [(x, i)] else a ++ [(i, i)]
      | none => [(i, i)]
    else a) []

/-- Rows that were not assembled by the launch (R32, R173, R430). -/
def State.deadlines (s : State) (r : Run) (k : Nat) (missed : List Nat) : State :=
  if !s.bit Reg.BMF_CTRL 0 then
    if (s.view r).carriesDose k then
      ((s.bump Reg.BMF_DEADLINE_MISS).hole .deadline k 0 511).once .deadline fun s => s.bmfLog 0x04 0 k
    else s
  else if missed = [] then s
  else
    let s := (s.bump Reg.BMF_DEADLINE_MISS).bmfLog 0x04 0 k
    (rowRanges missed).foldl (fun s x => s.hole .deadline k x.1 x.2) s

/-- The levels that a frame carries are added to its thermal cells (R164). -/
def State.deposit (s : State) (r : Run) (k : Nat) (levels : List (Nat × Nat)) : State :=
  let v := s.view r
  let heat := levels.foldl (fun h x =>
    match v.windex x.1 k with
    | some w =>
      let c := r.cell v (beamLine x.1) w
      smPut (fun _ => 0) c (min 0xFFFFFFFF (smGet (fun _ => 0) h c + x.2)) h
    | none => h) s.bmf.heat
  { s with bmf := { s.bmf with heat := heat } }

/-- PHASE of a frame (R200): a free value when the stage has fallen back behind its tick. -/
def State.phase (s : State) (r : Run) (x : TickRec) : State × Nat :=
  if s.bit Reg.TRK_CTRL 1 then (s, 0)
  else
    let u := s.runPosAt r ((x.at64 + 64 * s.launchDelay) / 64)
    if u < (x.k : Int) * 2 ^ 32 then (s.next, s.drawn % 4096) else (s, (phaseOf u x.k).toNat)

/-- One injection of a lane is used (R245): COUNT falls, and the register reads zero when it is complete. -/
def State.useInjection (s : State) (p : Nat) : State :=
  let v := s.reg (Reg.LNK_LN_INJ p)
  let n := bitsOf v 15 8
  if n ≤ 1 then s.setReg (Reg.LNK_LN_INJ (p % 72)) 0 else s.setReg (Reg.LNK_LN_INJ (p % 72)) (v - 256)

/-- Logical lane l sends frame k, or its rows are lost (R28, R239, R241). -/
def State.sendFrame (s : State) (k l : Nat) : State :=
  if l ∈ s.lnk.down then s.frameLost l k [laneRows l]
  else
    match s.carrier l with
    | none => s
    | some p =>
      if k < (s.lane p).carryFrom then s.hole .laneSwap k (laneRows l).1 (laneRows l).2
      else
        let s : State := { s with lnk := { s.lnk with out := s.lnk.out ++ [(l, k)] } }
        let m := s.field (Reg.LNK_LN_INJ p) 2 0
        if 3 ≤ m ∧ m ≤ 6 then s.useInjection p else s

/-- Every beam of tick x's frame has level zero: overspeed, a dry run, or a frame beyond the truncation (R159, R177, R195). -/
def Run.zeroFrame (r : Run) (x : TickRec) : Bool :=
  x.ovs || r.dry || r.trunc.any fun y => decide (y.1 + 2 ≤ (x.k : Int))

/-- Tick x's frame head is formed, with its phase (R212). -/
def State.headFrame (s : State) (r : Run) (x : TickRec) (levels : List (Nat × Nat)) : State :=
  let y := s.phase r x
  let head : FrameHead := { stick := x.k, runser := r.serial, dry := r.dry, blank := r.zeroFrame x || decide (x.k < 65536),
                            ovs := x.ovs, last := decide (x.k = r.lastFrame), cxw := x.cxw, phase := y.2 }
  ({ y.1 with lnk := { y.1.lnk with head := some head, levels := levels } } : State).setReg Reg.TRK_CXW (x.cxw + 65536 * y.2)

/-- Tick x's frame leaves on its lanes, and the next is assembled (R202, R212). -/
def State.launchTick (s : State) (r : Run) (x : TickRec) (rest : List TickRec) (missed : List Nat) : State :=
  let s := s.deadlines r x.k missed
  let levels := if r.zeroFrame x || decide (s.bmf.frameK ≠ some x.k) then []
    else s.bmf.frame.filter fun y => y.1 / 512 ∉ missed
  let s := (s.deposit r x.k levels).headFrame r x levels
  let s := s.modRun fun r => { r with launched := x.k + 1, ticks := rest }
  let s := ((List.range 64).foldl (fun s l => s.sendFrame x.k l) s).sendEnd
  if x.k < (s.run.elim 0 (·.lastFrame)) then s.assemble (x.k + 1) else s

/-- The next frame leaves (R202). -/
def State.launch (s : State) (missed : List Nat) : State :=
  match s.run with
  | none => s
  | some r =>
    match r.ticks with
    | [] => s
    | x :: rest => s.launchTick r x rest missed

/-- FRAME_LAUNCH (R202). -/
def execFrameLaunch (t : Nat) (missed : List Nat) (s0 : State) : Host.Outcome State Fault Refusal :=
  let s := s0.at_ t
  finish s0 (match s.run with
    | none => s
    | some r =>
      match r.ticks with
      | [] => s
      | x :: _ =>
        if t < subTu * (x.at64 + 64 * s.launchDelay) ∨ r.lastFrame < x.k then s
        else ({ s with lnk := { s.lnk with wire := max s.lnk.wire (t + wireFrame) } } : State).launch missed)

/-! Working tables (R166, R168, R169). -/

/-- The latest accepted temperature of a quadrant is more than 1 s old. -/
def State.tempOld (s : State) (q : Nat) : Bool :=
  match s.lnk.accepted.getD q none with
  | some x => decide (x.2 + msTu 1000 < s.time)
  | none => false

/-- Form a working table and take it into use (R168, R169). -/
def State.formTable (s : State) : State :=
  let pg := s.runPage
  let taus := (List.range 4).map fun q =>
    clampInt (feedCalT pg 0) (feedCalT pg 3) (match s.lnk.accepted.getD q none with
      | some x => x.1
      | none => feedCalT pg 1)
  let s := (List.range 4).foldl (fun s q =>
    let tau := taus.getD q 0
    let stale := s.tempOld q || (s.lnk.accepted.getD q none).isNone
    s.setReg (Reg.BMF_TEMP_0 (q % 4)) (unsignedOf 16 tau + (calPlace pg tau).1 * 2 ^ 16 + b2n stale * 2 ^ 18)) s
  { s with bmf := { s.bmf with table := some taus } }

/-- The dead-map copy of a ledger slot (Table 6.9). -/
def deadBytes (dead : List Nat) : List Byte :=
  (List.range 32768).map fun i =>
    BitVec.ofNat 8 ((List.range 8).foldl (fun a j => a + b2n (dead.contains (8 * i + j)) * 2 ^ j) 0)

/-- The YTRIM copy of a ledger slot (Table 6.9). -/
def Bmf.trimBytes (f : Bmf) : List Byte :=
  (List.range 131072).map fun i => BitVec.ofNat 8 (f.trim (2 * i) + 16 * f.trim (2 * i + 1))

/-- BEAM_STORE_LOAD_DONE (R166). -/
def execBeamStoreLoadDone (s : State) : Host.Outcome State Fault Refusal :=
  finish s (match s.run with
    | some r =>
      if !s.bmf.loading then s
      else
        let a := s.ledgerAddr r.slot
        let s := (s.memWrite (a + 0x1000) (deadBytes s.bmf.dead)).memWrite (a + 0x9000) s.bmf.trimBytes
        ({ s with bmf := { s.bmf with loading := false } } : State).formTable
    | none => s)

/-- WORKING_TABLE_UPDATE (R168). -/
def execWorkingTableUpdate (s : State) : Host.Outcome State Fault Refusal :=
  finish s (if s.running && !s.bmf.loading then s.formTable else s)

/-- THERMAL_DECAY (R164). -/
def execThermalDecay (s : State) : Host.Outcome State Fault Refusal :=
  let kappa := s.runPage 0xC % 2 ^ 24
  finish s { s with bmf := { s.bmf with
    heat := (s.bmf.heat.map fun c => (c.1, heatDecay kappa c.2)).filter fun c => c.2 ≠ 0 } }

/-- TEMP_STALE (R169). -/
def execTempStale (q t : Nat) (s0 : State) : Host.Outcome State Fault Refusal :=
  let s := s0.at_ t
  finish s0 (if q < 4 ∧ s.tempOld q = true then
      (s.setField (Reg.BMF_TEMP_0 (q % 4)) 18 18 1).once .staleLog fun s => s.bmfLog 0x05 q s.stickNow
    else s)

end Sys2Proof.Machine
end

