-- ==== Sys2Proof/Machine/Plate.lean ====
section
/-! DEFINITION. The plate temperature: warning, forecast, planned truncation and limit (R407 to R409). -/

namespace Sys2Proof.Machine

/-- WARN, LIMIT, PLATE_B and T_SINK in signed Q8.8. -/
def State.plateWarnAt (s : State) : Int := signedOf 16 (s.field Reg.GLB_PLATE_LIM 15 0)
/-- LIMIT. -/
def State.plateLimit (s : State) : Int := signedOf 16 (s.field Reg.GLB_PLATE_LIM 31 16)

/-- The latest accepted plate temperatures, with their quadrants. -/
def State.plateTemps (s : State) : List (Nat × Int) :=
  (List.range 4).filterMap fun q => (s.lnk.accepted.getD q none).map fun x => (q, x.1)

/-- The plate is watched: EXPOSE, from stripe tick 0 to the end of a run (R407). -/
def State.plateWatch (s : State) : Bool := decide (s.glb.mode = .expose) && s.running

/-- New plate temperatures were accepted (R407, R409). -/
def State.plateSample (s : State) : State :=
  let ts := s.plateTemps
  let warn := ts.any fun x => decide (s.plateWarnAt ≤ x.2)
  let s :=
    if s.plateWatch && warn && !s.glb.plateWarn then
      (({ s with glb := { s.glb with plateWarn := true } } : State).setField Reg.GLB_PLATE_STAT 0 0 1).raise .thmWarn
    else if s.glb.plateWarn && ts.all fun x => decide (x.2 < s.plateWarnAt - 128) then
      ({ s with glb := { s.glb with plateWarn := false } } : State).setField Reg.GLB_PLATE_STAT 0 0 0
    else s
  if s.plateWatch && ts.any fun x => decide (s.plateLimit ≤ x.2) then
    ((s.setField Reg.GLB_PLATE_STAT 1 1 1).raise .thmCrit).truncateNow 0x01
  else s

/-! The forecast (R407). -/

/-- ΣEV of m slices of a tile row in a line half: its own sums when it is corrected, otherwise the mean of the last 16 rows
corrected (R407). -/
def State.rowEv (s : State) (work : Nat) (t : Int) (half m : Nat) : Nat :=
  let part := fun (p : Nat × Nat) => if half = 0 then p.1 else p.2
  match s.cor.evRows.find? fun r => r.work = work ∧ r.trow = t with
  | some r => part r.sums * m / atLeast1 r.slices
  | none =>
    let last := s.cor.evRows.reverse.take 16
    (last.map fun r => part r.sums).sum * m / atLeast1 (last.map (·.slices)).sum

/-- ΣEV of a quadrant over the ticks from a to b - 1: its half of the lines in the slices that its row writes then. -/
def State.quadEv (s : State) (r : Run) (k : Work) (q a b : Nat) : Nat :=
  let base := 65536 + 128 * rowQ r.down (if q < 2 then 128 else 384)
  let lo := min (r.wStart + (a - base)) r.len
  let hi := min (r.wStart + (b - base)) r.len
  (k.rows.map fun t =>
    match k.span t with
    | some (x, y) => s.rowEv k.id t (q % 2) (min hi (y + 1) - max lo x)
    | none => 0).sum

/-- The temperatures of a quadrant over the steps of a forecast, the present one first. -/
def State.forecastFrom (s : State) (r : Run) (k : Work) (q step : Nat) : Nat → Nat → Int → List Int
  | 0, _, th => [th]
  | n + 1, a, th =>
    let e := feedN0 s.runPage * s.quadEv r k q a (min (a + step) (r.lastTick + 1)) / 256
    let sink := signedOf 16 (s.field Reg.GLB_PLATE_B 31 16)
    let th' := th + (e * s.reg Reg.GLB_PLATE_A / 2 ^ 40 : Nat)
      - floorDiv ((th - sink) * (s.field Reg.GLB_PLATE_B 15 0 : Int)) (2 ^ 16)
    th :: s.forecastFrom r k q step n (a + step) th'

/-- The peak of a forecast and its quadrant. -/
def State.forecastPeak (s : State) (r : Run) (k : Work) : Option (Int × Nat) :=
  let step := 10 * (s.stg.tickTimes.length * 1000) / 16384
  let steps := if step = 0 then 0 else (r.lastTick + 1 - r.issued + step - 1) / step
  (s.plateTemps.flatMap fun x => (s.forecastFrom r k x.1 step steps r.issued x.2).map fun th => (th, x.1)).foldl
    (fun (best : Option (Int × Nat)) x =>
      match best with
      | some y => if y.1 < x.1 then some x else best
      | none => some x) none

/-- The tick t_p of a planned truncation (R408): at the lowest key slice not below the present resume point. -/
def State.planTick (s : State) (r : Run) (k : Work) : Option Nat :=
  let base := 130942 + s.yLast r
  let resume := min (r.wStart + (r.issued - 1 - base)) r.len
  ((k.rows.filterMap fun t => (k.span t).map (·.1)).filter fun w => decide (resume ≤ w)).min?.map fun w => w - r.wStart + base

/-- Show and carry out, or take back, the plan that a peak asks for (R408). -/
def State.planTruncation (s : State) (r : Run) (k : Work) (peak : Int) : State :=
  let plan := if s.plateLimit ≤ peak ∧ r.trunc.isNone = true then s.planTick r k else none
  let s := (s.setField Reg.GLB_PLATE_STAT 3 3 (b2n plan.isSome)).setReg Reg.GLB_PLATE_TRUNC_AT (plan.getD 0 % 2 ^ 26)
  let s : State := { s with glb := { s.glb with planAt := if s.bit Reg.GLB_CTRL 0 then plan else none } }
  match s.glb.planAt with
  | some p => if p < r.issued then s.truncateNow 0x02 else s
  | none => s

/-- PLATE_FORECAST (R407). -/
def execPlateForecast (t : Nat) (s0 : State) : Host.Outcome State Fault Refusal :=
  let s := s0.at_ t
  finish s0 (
    match s.run, s.curWork with
    | some r, some k =>
      if !(s.plateWatch && s.glb.plateWarn) then s
      else
        let s : State := { s with stg := { s.stg with tickTimes := lately s.time s.stg.tickTimes } }
        match s.forecastPeak r k with
        | none => s
        | some (peak, q) =>
          let s := s.setField Reg.GLB_PLATE_STAT 31 16 (unsignedOf 16 (clampInt (-32768) 32767 peak))
          let s := (s.setField Reg.GLB_PLATE_STAT 5 4 q).setField Reg.GLB_PLATE_STAT 2 2 (b2n (decide (peak < s.plateLimit)))
          s.planTruncation r k peak
    | _, _ => s)

end Sys2Proof.Machine
end

