-- ==== Sys2Proof/Machine/RimTrain.lean ====
section
/-! DEFINITION. Training of the Rim link, the partner's identity, retraining and re-calibration of lanes (R230 to R238, R242,
R243). -/

namespace Sys2Proof.Machine

/-! Medians. -/

/-- Insert into a sorted list. -/
def insertInt (x : Int) : List Int → List Int
  | [] => [x]
  | y :: t => if x ≤ y then x :: y :: t else y :: insertInt x t

/-- Sort in ascending order. -/
def sortInts (l : List Int) : List Int := l.foldr insertInt []

/-- The median; with an even count the lower of the two middle values. -/
def medianOf (l : List Int) : Int := (sortInts l).getD ((l.length - 1) / 2) 0

/-! Step 4 (R233). -/

/-- Every tap of a run. -/
def tapList (x : LaneTaps) : List Int := [x.pre, x.main, x.post, x.ctle] ++ (List.range 5).map fun i => x.dfe.getD i 0

/-- The median of each tap. -/
def medianTaps (rs : List LaneTaps) : LaneTaps :=
  { pre := medianOf (rs.map (·.pre)), main := medianOf (rs.map (·.main)), post := medianOf (rs.map (·.post)),
    ctle := medianOf (rs.map (·.ctle)), dfe := (List.range 5).map fun i => medianOf (rs.map fun r => r.dfe.getD i 0) }

/-- Runs agree when every tap lies within a tolerance of its median. -/
def tapsAgree (tol : Nat) (rs : List LaneTaps) : Bool :=
  rs.all fun r => ((tapList r).zip (tapList (medianTaps rs))).all fun p => decide ((p.1 - p.2).natAbs ≤ tol)

/-- The taps of the first agreement of the last n runs within `tries` runs. -/
def equalise (n tol tries : Nat) (runs : List LaneTaps) : Option LaneTaps :=
  ((List.range (min tries runs.length + 1)).drop n).findSome? fun i =>
    let last := (runs.take i).drop (i - n)
    if tapsAgree tol last then some (medianTaps last) else none

/-- AGREE_N. -/
def State.agreeN (s : State) : Nat := clampNat 2 8 (s.field Reg.LNK_TRAIN_CFG 3 0)

/-- Step 4 on a lane's runs. -/
def State.equalised (s : State) (runs : List LaneTaps) : Option LaneTaps :=
  equalise s.agreeN (s.field Reg.LNK_TRAIN_CFG 7 4) (clampNat s.agreeN 15 (s.field Reg.LNK_TRAIN_CFG 11 8)) runs

/-- Step 5: the error counts of both directions are within BER_MAX. -/
def State.verified (s : State) (a b : Nat) : Bool := decide (max a b ≤ s.field Reg.LNK_TRAIN_CFG 31 16)

/-! Steps 1 to 6 on a lane (Table 8.6). -/

/-- The lane is paired: both namings give one module lane (R232). -/
def pairingOf (x : LaneTraining) : Option Nat :=
  match x.laneSeen with
  | some p => if p < 72 ∧ x.laneReported = some p then some p else none
  | none => none

/-- The fail code of the first step that a lane fails, or its taps. `unique`: no other lane gives the same report. -/
def State.laneSteps (s : State) (unique : Bool) (x : LaneTraining) : Except Nat LaneTaps :=
  if !x.present then .error 0x10
  else if !x.locked then .error 0x11
  else if !unique || (pairingOf x).isNone then .error 0x12
  else
    match s.equalised x.runs with
    | none => .error 0x13
    | some t =>
      if !s.verified x.errsIn x.errsOut then .error 0x14
      else if 511 < x.lateness then .error 0x15
      else .ok t

/-- Train one lane through steps 1 to 6: it stays TRAINING on a pass and becomes FAILED otherwise (R230 to R234). -/
def State.trainLane (s : State) (p : Nat) (x : LaneTraining) (r : Except Nat LaneTaps) : State :=
  let s := s.modLane p fun l => { l with state := .training, rxInv := x.present && x.locked && x.inverted, pair := 0x7F }
  match r with
  | .ok t => s.modLane p fun l => { l with taps := t, skew := 511 - x.lateness, pair := (pairingOf x).getD 0x7F, tx := 0, rx := 0 }
  | .error c =>
    let s := if 0x12 < c then s.modLane p fun l => { l with pair := (pairingOf x).getD 0x7F } else s
    s.failLane p c .failed

/-- What a lane showed that no observation names. -/
def silentLane : LaneTraining :=
  { present := false, locked := false, inverted := false, laneSeen := none, laneReported := none, runs := [], errsIn := 0,
    errsOut := 0, lateness := 0 }

/-- The lanes of a training with what they showed and their outcome. -/
def State.laneResults (s : State) (xs : List (Nat × LaneTraining)) : List (Nat × LaneTraining × Except Nat LaneTaps) :=
  let reports := xs.filterMap fun y => if y.2.present && y.2.locked then y.2.laneReported else none
  xs.map fun y => (y.1, y.2, s.laneSteps (match y.2.laneReported with
    | some q => (reports.filter fun z => z = q).length == 1
    | none => false) y.2)

/-- The fail code of an outcome. -/
def failCode (r : Except Nat LaneTaps) : Nat := match r with | .ok _ => 0 | .error c => c

/-! Steps 8 and 9 (R235). -/

/-- The lanes that have passed steps 1 to 6 and wait for their assignment. -/
def State.passing (s : State) : List Nat := (List.range 72).filter fun p => (s.lane p).state = .training

/-- The assignment of logical lanes to passing lanes, as (logical, physical). -/
def assignLanes (passing : List Nat) (keep : List (Nat × Nat)) : List (Nat × Nat) :=
  let kept := (keep.filter fun x => passing.contains x.1).map fun x => (x.2, x.1)
  (List.range 64).foldl (fun (m : List (Nat × Nat)) l =>
    let free := fun (p : Nat) => passing.contains p && !m.any fun x => x.2 == p
    if m.any fun x => x.1 == l then m
    else if free l then m ++ [(l, l)]
    else
      match ((List.range 8).map (64 + ·)).find? free with
      | some p => m ++ [(l, p)]
      | none => m) kept

/-- Steps 8 and 9: lanes are assigned, the rest become SPARE, and the link is up. -/
def State.linkUpNow (s : State) : State :=
  let ps := s.passing
  let m := assignLanes ps s.lnk.keep
  let s := ps.foldl (fun s p => s.modLane p fun l =>
    let l := { l with tx := 0, rx := 0, hist := [], lateRun := 0, fresh := false, carryFrom := 0, swapDue := false,
                      relockDue := false, lastRet := s.time }
    match m.find? fun x => x.2 = p with
    | some x => { l with state := .active, llane := x.1 }
    | none => { l with state := .spare, llane := 0 }) s
  ({ s with lnk := { s.lnk with linkUp := true, lanesOk := decide (m.length = 64), partner := 2, challenge := none, keep := [],
                                idleSince := s.time } } : State).raise .lnkTrain

/-! Step 7 (R236, R237). -/

/-- The partner key block. -/
def State.pkb (s : State) : List Byte := (List.range 22).flatMap fun n => leBytes 4 (s.reg (Reg.LNK_PKB_0 n))

/-- The partner key, when the block unwraps (R236 item 1). -/
def State.partnerKey (s : State) : Option (List Byte) :=
  if fieldLE s.pkb 24 4 = 0 then unwrapBlock s.glb.kwk s.glb.kwkId.toNat 2 s.pkb else none

/-- Check an IDENT answer to the challenge N_M; on success MAC_M (R236 items 3 and 4). -/
def State.checkIdent (s : State) (nm : Nat) (x : Ident) : Option (List Byte) :=
  match s.partnerKey with
  | none => none
  | some key =>
    let mid := beBytes 8 s.glb.kwkId.toNat
    let pid := beBytes 8 x.partnerId
    if fieldLE s.pkb 16 8 = x.partnerId ∧ cmac key (1 :: (beBytes 16 nm ++ beBytes 16 x.np ++ pid ++ mid)) = beBytes 16 x.mac then
      some (cmac key (2 :: (beBytes 16 x.np ++ beBytes 16 nm ++ mid ++ pid)))
    else none

/-- Step 7 fails: no lane fails with it (R230, R236). -/
def State.identFails (s : State) (exchange : Bool) : State :=
  let s : State := { s with lnk := { s.lnk with trainFail := 0x21 } }
  let s := if exchange then
      let s := s.bump Reg.LNK_ID_FAILS
      if atLeast1 (s.field Reg.LNK_RECAL 23 20) ≤ s.reg Reg.LNK_ID_FAILS then { s with lnk := { s.lnk with idLocked := true } } else s
    else s
  (s.lnkLog 0x21 0x7F 0).raise .lnkPartner

/-- Step 7 passes: PARTNER_OK is set and MAC_M sent. -/
def State.identPasses (s : State) (pid : Nat) (mac : List Byte) : State :=
  let s := s.setReg64 Reg.LNK_PARTNER_ID_LO Reg.LNK_PARTNER_ID_HI pid
  let s : State := { s with lnk := { s.lnk with partnerOk := true } }
  s.sendBlocks (match s.passing.head? with
    | some p => (chalBlocks true mac).map fun b => (p, b)
    | none => [])

/-- Send the challenge on the lowest-numbered passing lane (R236 item 2). -/
def State.sendChallenge (s : State) (nm : Nat) : State :=
  s.sendBlocks (match s.passing.head? with
    | some p => (chalBlocks false (beBytes 16 nm ++ beBytes 8 s.glb.kwkId.toNat)).map fun b => (p, b)
    | none => [])

/-- The partner's IDENT record settles step 7 (R231 to R234). -/
def State.identAnswer (s : State) (nm : Nat) (x : Ident) : State :=
  match s.checkIdent nm x with
  | some mac => (s.identPasses x.partnerId mac).linkUpNow
  | none => (s.identFails true).linkUpNow

/-- Step 7, then steps 8 and 9; with `wait` an answer still to come leaves the step in progress. -/
def State.identify (s : State) (nm : Nat) (ident : Option Ident) (wait : Bool) : State :=
  if s.lnk.idLocked then (s.identFails false).linkUpNow
  else if s.partnerKey.isNone || s.passing.isEmpty then (s.identFails true).linkUpNow
  else
    let s := s.sendChallenge nm
    match ident with
    | some x => s.identAnswer nm x
    | none =>
      if wait then { s with lnk := { s.lnk with challenge := some (nm, s.time, s.time) } }
      else (s.identFails true).linkUpNow

/-- Train the link (R230): all lanes that are not RETIRED. Failed lanes are logged in the order of the steps; an
absent partner before them, so that the lower code of the clock stands in the log (R249). -/
def State.trainLink (s : State) (r : RimTraining) (wait : Bool) : State :=
  let planes := (List.range 72).filter fun p => (s.lane p).state ≠ .retired
  let keep := planes.filterMap fun p => if (s.lane p).state = .active then some (p, (s.lane p).llane) else none
  let xs := s.laneResults (planes.map fun p => (p, r.lanes.getD p silentLane))
  let codes := xs.map fun x => failCode x.2.2
  let s : State := { s with lnk := { s.lnk with
    keep := keep, down := [], downHeld := [], out := [], faults := [], noSpare := false, linkUp := false, lanesOk := false,
    partnerOk := false, trainFail := codes.foldl max 0 } }
  let s := xs.foldl (fun s x => s.trainLane x.1 x.2.1 x.2.2) s
  let absent := codes.all fun c => c == 0x10
  let s := if absent then s.lnkLog 0x22 0x7F 0 else s
  let s := [0x10, 0x11, 0x12, 0x13, 0x14, 0x15].foldl (fun s c =>
    (xs.filter fun x => failCode x.2.2 = c).foldl (fun s x => s.lnkLog c x.1 0) s) s
  if absent then ({ s with lnk := { s.lnk with partner := 1, keep := [] } } : State).raise .lnkTrain
  else s.identify r.nm r.ident wait

/-! Retraining (R241, R242). -/

/-- A logical lane that is DOWN, and not held down by a partner fault, is assigned to a spare (R224, R241). -/
def State.reviveDown (s : State) : State :=
  s.lnk.down.foldl (fun s l =>
    match (List.range 72).find? fun p => (s.lane p).state = .spare with
    | some sp =>
      if s.lnk.downHeld.contains l then s
      else
        let s := s.modLane sp fun x => { x with state := .active, llane := l, fresh := true, swapDue := true, hist := [],
                                                lateRun := 0, lastRet := s.time }
        { s with lnk := { s.lnk with down := ssDel l s.lnk.down } }
    | none => s) s

/-- Retrain a FAILED lane through steps 2 to 6: SPARE on a pass, FAILED otherwise. -/
def State.retrainLane (s : State) (p : Nat) (r : LaneTraining) : State :=
  match s.laneResults [(p, r)] with
  | x :: _ =>
    let res : Except Nat LaneTaps := match x.2.2 with
      | .error c => .error (max 0x11 c)
      | .ok t => .ok t
    let s := s.trainLane p r res
    match res with
    | .ok _ => (s.modLane p fun l => { l with state := .spare, lastRet := s.time }).reviveDown
    | .error c => s.lnkLog c p 0
  | [] => s

/-! Re-calibration (R243). -/

/-- The outcome of a re-calibration: the new taps are applied, or the previous settings stay; none when step 5 fails with
those too. -/
def State.recalOutcome (s : State) (r : LaneRecal) (old : LaneTaps) : Option LaneTaps :=
  match s.equalised r.runs with
  | some t => if s.verified r.errsIn r.errsOut then some t else if s.verified r.prevIn r.prevOut then some old else none
  | none => if s.verified r.prevIn r.prevOut then some old else none

/-- Re-calibrate a lane: answers whether it became FAILED. -/
def State.recalLane (s : State) (r : LaneRecal) : State × Bool :=
  let p := r.lane
  match s.recalOutcome r (s.lane p).taps with
  | some t => (s.modLane p fun l => { l with taps := t, lastRet := s.time }, false)
  | none => (s.laneFault p 0x14, true)

end Sys2Proof.Machine
end

