-- ==== Sys2Proof/Machine/Rings.lean ====
section
/-! DEFINITION. Doorbells, entry fetches, ring control, the resets of the host port, and the writes of the interrupt registers
(R252 to R259, R341 to R343). -/

namespace Sys2Proof.Machine

/-! Doorbells (R253, R256). -/

/-- The ring runs: it is enabled, and for a network ring PD_NET is on. -/
def State.ringRuns (s : State) (r : Nat) : Bool := (s.ring r).enabled && (decide (r < 192) || s.domOn 8)

/-- The ring's tail takes the index of a doorbell: the advance is at least 1 and leaves no more than SIZE entries (R256). -/
def State.tailFits (s : State) (r slot : Nat) (phase : Bool) : Bool :=
  let n := s.ringSize r
  let x := s.ring r
  let adv := (ringPos n slot phase + 2 * n - ringPos n x.tailSlot x.tailPhase) % (2 * n)
  decide (slot < n ∧ 1 ≤ adv ∧ s.ringHeld r + adv ≤ n)

/-- A doorbell of a ring (R256). -/
def State.ringBell (s : State) (r v : Nat) : State :=
  let x := s.ring r
  let slot := v % 65536
  let phase := bitOf v 16
  if v < 131072 ∧ slot = x.tailSlot ∧ phase = x.tailPhase then s
  else if v < 131072 ∧ s.ringRuns r = true ∧ s.tailFits r slot phase = true then
    s.setRing r { x with tailSlot := slot, tailPhase := phase }
  else (s.bump Reg.HST_DB_BAD).setReg Reg.HST_DB_BAD_AT r

/-- What a write into BAR2 does (R253, R256, R358). -/
def State.bar2Write (s : State) (page off be v : Nat) : State :=
  if !s.domOn 1 then s
  else if !ringOk page || decide (off ≠ 0) then s.violation 0 (4096 * page + off) true true
  else if be ≠ 15 then s.violation 5 (4096 * page + off) true true
  else s.ringBell page v

/-- What a read at a page offset of a ring's doorbell page returns (R256). -/
def State.bar2Read (s : State) (page off : Nat) : Nat :=
  if ringOk page && off == 0 then
    let x := s.ring page
    x.headSlot + b2n x.headPhase * 65536 + b2n x.halted * 2 ^ 31
  else 0

/-- DOORBELL (R256). -/
def execDoorbell (page off be : Nat) (v : Word) (s : State) : Host.Outcome State Fault Refusal :=
  finish s (s.bar2Write page off be v.toNat)

/-! Receive buffers of the network port (R327, R330). -/

/-- The check of a receive entry (R330), in the order of R273. -/
def State.rxCheck (s : State) (e : CurEntry) : Option (Nat × Nat) :=
  let w := ringReg 193 0
  let hbase := s.reg64 (w + 0x20) (w + 0x24)
  let hlim := s.reg64 (w + 0x28) (w + 0x2C)
  let buf := fieldLE e.bytes 8 8
  let len := fieldLE e.bytes 16 2
  if fieldLE e.bytes 0 1 ≠ 0x11 then some (Stat.format, 0x01)
  else if bitsOf (fieldLE e.bytes 0 4) 30 9 ≠ 0 ∨ fieldLE e.bytes 18 14 ≠ 0 then some (Stat.format, 0x02)
  else if len < 1536 then some (Stat.format, 0x03)
  else if buf < hbase ∨ hlim < buf + len - 1 then some (Stat.bounds, 0x10)
  else none

/-- A frame that waits goes into the receive buffer of the entry in progress (R330, R337). -/
def State.rxServe (s : State) : State :=
  match (s.ring 193).cur, s.net.rxWait with
  | some e, (frame, stamp) :: rest =>
    if !s.linkReady || e.held.isSome then s
    else
      let s : State := { s with net := { s.net with rxWait := rest } }
      let s := s.hostWrite (fieldLE e.bytes 8 8) frame
      let s := s.hostWrite (s.headAddr 193 + 32) (stamp.flatMap fun w => leBytes 4 w.toNat)
      s.answer 193 Stat.ok 0 frame.length
  | _, _ => s

/-! Fetching entries (R257, R270). -/

/-- DMA pauses: the DRAM is not on, or an entry to SLEEP, DEEP or OFF is in progress (R347, R351). -/
def State.dmaPaused (s : State) : Bool :=
  !s.domOn 6 || (match s.pwr.trans with | some x => decide (2 ≤ x.req.target ∧ x.req.target ≤ 4) | none => false)

/-- The ring can fetch: it runs, is not halted, no reset waits, it holds an entry and none is in progress, and the link takes
requests. -/
def State.canFetch (s : State) (r : Nat) : Bool :=
  let x := s.ring r
  ringOk r && s.ringRuns r && !(isDmaRing r && s.dmaPaused) && !x.halted && !x.resetDue && x.cur.isNone && decide (0 < s.ringHeld r) && s.linkReady

/-- No channel of engine e has a descriptor in progress. -/
def State.engineFree (s : State) (e : Nat) : Bool := (List.range 16).all fun c => (s.ring (16 * e + c)).cur.isNone

/-- The channel that engine e takes next (R270): round-robin from the channel after the one last served. -/
def State.engineTurn (s : State) (e : Nat) : Option Nat :=
  ((List.range 16).map fun i => 16 * e + (s.hst.lastChan.getD e 15 + 1 + i) % 16).find? fun r =>
    let x := s.ring r
    s.ringRuns r && !x.halted && !x.resetDue && decide (x.tries = 0 ∧ 0 < s.ringHeld r)

/-- The engine or command unit takes the entry. -/
def State.takeEntry (s : State) (r : Nat) (b : List Byte) : State :=
  let s := s.setRing r { s.ring r with cur := some { bytes := b, order := s.hst.nextOrder }, tries := 0 }
  let s : State := { s with hst := { s.hst with
      nextOrder := s.hst.nextOrder + 1,
      lastChan := if isDmaRing r then s.hst.lastChan.set (r / 16) (r % 16) else s.hst.lastChan } }
  if isCmdRing r then s.rejectMalformed r
  else if isDmaRing r then
    let k := fieldLE b 0 1
    if k = 0 ∨ 4 < k then s.refuse r Stat.format 0x01 else s
  else if r = 193 then
    match (s.ring 193).cur with
    | some e =>
      match s.rxCheck e with
      | some (st, d) => s.refuse r st d
      | none => s.rxServe
    | none => s
  else s

/-- What a fetch of the head entry brings (R257). -/
def State.fetched (s : State) (r : Nat) (e : EntryRead) : State :=
  let x := s.ring r
  match e with
  | .failed => ((s.setRing r { x with tries := 0 }).haltRing r 2).settleBarriers
  | .bytes b =>
    if bitOf (fieldLE b 0 4) 31 = x.headPhase then s.takeEntry r b
    else if 3 ≤ x.tries then ((s.setRing r { x with tries := 0 }).haltRing r 1).settleBarriers
    else s.setRing r { x with tries := x.tries + 1 }

/-- ENTRY_FETCH (R257). -/
def execEntryFetch (ring : Nat) (e : EntryRead) (s : State) : Host.Outcome State Fault Refusal :=
  finish s (
    if s.canFetch ring && (s.ring ring).tries == 0
        && (!isDmaRing ring || (s.engineFree (ring / 16) && s.engineTurn (ring / 16) == some ring)) then s.fetched ring e
    else s)

/-- PHASE_REFETCH (R257). -/
def execPhaseRefetch (ring : Nat) (e : EntryRead) (s : State) : Host.Outcome State Fault Refusal :=
  finish s (
    if s.canFetch ring && decide (0 < (s.ring ring).tries) && (!isDmaRing ring || s.engineFree (ring / 16)) then
      s.fetched ring e
    else s)

/-! Ring control (R254, R255, R259). -/

/-- Barriers stop waiting for the entries that a reset abandons: `left` of the ring's entries still complete (R259, R268). -/
def State.abandonEntries (s : State) (r left : Nat) : State :=
  { s with hst := { s.hst with waits := s.hst.waits.map fun w =>
      match w.2 with
      | .barrier rest named => (w.1, .barrier (rest.map fun p => if p.1 = r then (p.1, min p.2 left) else p) named)
      | _ => w } }

/-- The fetched entry of a ring has started: a command that its FENCE holds and a network buffer have not. -/
def State.started (s : State) (r : Nat) : Bool :=
  match (s.ring r).cur with
  | none => false
  | some e => !(decide (192 ≤ r) && e.held.isNone) && !(isCmdRing r && s.fenced r e && (s.waitOf r).isNone && e.held.isNone)

/-- Frames accepted that no entry of the receive ring takes any more are dropped (R330). -/
def State.rxTrim (s : State) : State :=
  let n := if s.ringRuns 193 then s.ringHeld 193 else 0
  let over_ := s.net.rxWait.length - n
  ({ s with net := { s.net with rxWait := s.net.rxWait.take n } } : State).bumpBy Reg.NET_RX_NOBUF over_

/-- RESET of a ring (R259). -/
def State.resetRing (s : State) (r : Nat) : State :=
  let x := s.ring r
  let s :=
    if s.started r then (s.setRing r { x with resetDue := true }).abandonEntries r 1
    else ((s.setRing r { x with cur := none }).doReset r).abandonEntries r 0
  let s := if r = 192 then { s with net := { s.net with txHeld := none } } else s
  (if r = 193 then s.rxTrim else s).settleBarriers

/-- RESUME of a ring (R259). -/
def State.resumeRing (s : State) (r : Nat) : State := s.setRing r { s.ring r with halted := false }

/-- RING_RESET (R259): RING_CMD with RESET, alone or with RESUME. -/
def execRingReset (ring : Nat) (s : State) : Host.Outcome State Fault Refusal :=
  finish s (if ringOk ring then s.command (ringReg ring 0x0C) 1 fun s => s.resetRing ring else s)

/-- RING_RESUME (R259). -/
def execRingResume (ring : Nat) (s : State) : Host.Outcome State Fault Refusal :=
  finish s (if ringOk ring then s.command (ringReg ring 0x0C) 2 fun s => s.resumeRing ring else s)

/-- The geometry of an enable is valid (R254): LOG2_SIZE from 4 to 16, and a DMA ring's local window within the 96 GiB. -/
def State.geometryOk (s : State) (r log2 : Nat) : Bool :=
  let base := s.reg64 (ringReg r 0x30) (ringReg r 0x34)
  let limit := s.reg64 (ringReg r 0x38) (ringReg r 0x3C)
  decide (4 ≤ log2 ∧ log2 ≤ 16) && !(isDmaRing r && decide (base ≤ limit ∧ 0x17FFFFFFFF < limit))

/-- A write of RING_CFG with ENABLE = 1 (R254). -/
def State.enableRing (s : State) (r v : Nat) : State :=
  let x := s.ring r
  let off := ringReg r 8
  if x.enabled then
    let s := if v % 32 = s.reg off % 32 then s else s.violation 4 off true
    s.setField off 8 8 1
  else if s.geometryOk r (v % 32) then
    let s := s.setReg off (256 + v % 32)
    s.setRing r { cur := none, enabled := true }
  else s.setRing r { x with cfgErr := true }

/-- A write of RING_CFG with ENABLE = 0 (R259): a RESET, after which the ring is disabled. -/
def State.disableRing (s : State) (r v : Nat) : State :=
  let off := ringReg r 8
  if (s.ring r).enabled then
    let s := if v % 32 = s.reg off % 32 then s else s.violation 4 off true
    (s.setField off 8 8 0).resetRing r
  else s.setReg off (v % 32)

/-- A write of RING_CFG: ENABLE as it is written. -/
def State.writeRingCfg (s : State) (r v : Nat) : State := if bitOf v 8 then s.enableRing r v else s.disableRing r v

/-- RING_ENABLE (R254). -/
def execRingEnable (ring : Nat) (v : Word) (s : State) : Host.Outcome State Fault Refusal :=
  finish s (
    if ringOk ring && v.getLsbD 8 then s.command (ringReg ring 8) v.toNat fun s => s.writeRingCfg ring v.toNat else s)

/-- RING_DISABLE (R259). -/
def execRingDisable (ring : Nat) (v : Word) (s : State) : Host.Outcome State Fault Refusal :=
  finish s (
    if ringOk ring && !v.getLsbD 8 then s.command (ringReg ring 8) v.toNat fun s => s.writeRingCfg ring v.toNat else s)

/-! Resets of the port (R252). -/

/-- Every HST and DMA register returns to its reset value, but for the bytes moved since cold reset (Table 9.11). -/
def resetHostRegs (m : List (Nat × Word)) : List (Nat × Word) :=
  m.filter fun p => !decide (0x100000 ≤ p.1 ∧ p.1 < 0x200000)
    || decide (0x100100 ≤ p.1 ∧ p.1 < 0x100180 ∧ 8 ≤ p.1 % 16)

/-- Function Level Reset, hot reset and link-down (R252): the HST and DMA blocks alone are reset. The function's MSI-X state
follows PCIe 5.0 (R344). -/
def State.portReset (s : State) (kind : PortReset) : State :=
  let nets := s.hst.rings.filter fun p => decide (192 ≤ p.1)
  let fresh : Hst := { mem := s.hst.mem, poisoned := s.hst.poisoned, nextOrder := s.hst.nextOrder, owed := s.hst.owed,
                       lastMsg := s.hst.lastMsg, rings := nets, width := if kind = .linkDown then 0 else s.hst.width,
                       rate := if kind = .linkDown then 0 else s.hst.rate }
  { s with hst := fresh, regs := resetHostRegs s.regs }

/-- HOST_PORT_RESET (R252). -/
def execHostPortReset (kind : PortReset) (s : State) : Host.Outcome State Fault Refusal := finish s (s.portReset kind)

/-- Completions held while the link took no request are written (R252). -/
def State.releaseHeld (s : State) : State :=
  (s.hst.rings.map (·.1)).foldl (fun s r =>
    match (s.ring r).cur with
    | some e =>
      match e.held with
      | some (st, d, res) => s.answer r st d res
      | none => s
    | none => s) s

/-- BUS_MASTER_ENABLE (R252): a configuration write, so the link is up. -/
def execBusMasterEnable (on : Bool) (s : State) : Host.Outcome State Fault Refusal :=
  finish s (
    if !s.domOn 1 || !s.clk.refclk then s
    else
      let s : State := { s with hst := { s.hst with
        bme := on
        width := if s.hst.width = 0 then 16 else s.hst.width
        rate := if s.hst.width = 0 then 5 else s.hst.rate } }
      if on then s.releaseHeld.rxServe else s)

/-! Interrupt registers (R341 to R343). -/

/-- IRQ_MESSAGE_SEND (R343): the owed message of vector v is sent when nothing holds it. -/
def execIrqMessageSend (v : Word) (s : State) : Host.Outcome State Fault Refusal :=
  finish s (
    let n := v.toNat
    if decide (n < 64) && s.hst.owed.getLsbD n && s.hst.msixEnable && !s.vectorMasked n && s.linkReady then
      let s := (s.unowe n).bump Reg.IRQ_SENT
      { s with hst := { s.hst with lastMsg := some n } }
    else s)

/-- The source numbers of the bits set in a word of half `hi`. -/
def bitsSet (hi : Bool) (v : Nat) : List Nat :=
  ((List.range 32).filter fun i => bitOf v i).map fun i => i + (if hi then 32 else 0)

/-- A write of IRQ_PEND (R342): a level source clears only while its condition is false; a cleared bit owes nothing (R343). -/
def State.pendClear (s : State) (hi : Bool) (v : Nat) : State :=
  (bitsSet hi v).foldl (fun s n =>
    if s.level n then s else (s.setField (pendReg n) (n % 32) (n % 32) 0).unowe n) s

/-- A write of IRQ_ENABLE (R343): a source enabled while pending owes its message, one disabled owes none. -/
def State.enableWrite (s : State) (hi : Bool) (v : Nat) : State :=
  let off := if hi then Reg.IRQ_ENABLE_HI else Reg.IRQ_ENABLE_LO
  let old := s.reg off
  let s := s.setReg off v
  let s := ((bitsSet hi v).filter fun n => !bitOf old (n % 32)).foldl (fun s n => if s.pending? n then s.owe n else s) s
  ((bitsSet hi old).filter fun n => !bitOf v (n % 32)).foldl (fun s n => s.unowe n) s

/-- A write of IRQ_SET (R341). -/
def State.setSources (s : State) (hi : Bool) (v : Nat) : State := (bitsSet hi v).foldl (fun s n => s.raiseN n) s

/-- IRQ_PEND_CLEAR (R342). -/
def execIrqPendClear (hi : Bool) (v : Word) (s : State) : Host.Outcome State Fault Refusal :=
  finish s (s.command (if hi then Reg.IRQ_PEND_HI else Reg.IRQ_PEND_LO) v.toNat fun s => s.pendClear hi v.toNat)

/-- IRQ_ENABLE_WRITE (R343). -/
def execIrqEnableWrite (hi : Bool) (v : Word) (s : State) : Host.Outcome State Fault Refusal :=
  finish s (s.command (if hi then Reg.IRQ_ENABLE_HI else Reg.IRQ_ENABLE_LO) v.toNat fun s => s.enableWrite hi v.toNat)

/-- IRQ_SET (R341). -/
def execIrqSet (hi : Bool) (v : Word) (s : State) : Host.Outcome State Fault Refusal :=
  finish s (s.command (if hi then Reg.IRQ_SET_HI else Reg.IRQ_SET_LO) v.toNat fun s => s.setSources hi v.toNat)

end Sys2Proof.Machine
end

