-- ==== Sys2Proof/Machine/Resets.lean ====
section
/-! DEFINITION. Mode changes and resets: what entry to a mode clears, cold and warm reset, the loss of the rails, and the start
from power (R38, R392 to R396, R402, R412, R418). -/

namespace Sys2Proof.Machine

/-! Job state and modes. -/

/-- Entry to DORMANT and a successful LOAD_JOB_KEY both clear the job's state (R38, R70, R80, R122, R152, R154, R182): the key, the
decoder and its tiles, the data path, the hole map, the thermal state and the run serial. The stream's marks stay. -/
def State.clearJob (s : State) : State :=
  let s := s.resetPath
  let f := s.fig
  { s with
    fig := { pos := f.pos, delivered := f.delivered, released := f.released, ranges := f.ranges, errlog := f.errlog },
    bmf := { s.bmf with serial := 0, holes := [], heat := [] } }

/-- A mode in which a PRBS setting of any lane is honoured (R244). -/
def Mode.prbs (m : Mode) : Bool := decide (m = .service ∨ m = .ready)

/-- A mode in which injections and the flip mask are honoured (R245, R306). -/
def Mode.injects (m : Mode) : Bool := decide (m = .service ∨ m = .dryrun)

/-- Clear a register of every lane. -/
def State.clearLanes (s : State) (reg : Nat → Nat) : State := (List.range 72).foldl (fun s p => s.setReg (reg p) 0) s

/-- Entry to a mode cancels the test settings that it does not honour (R402). -/
def State.cancelTests (s : State) (m : Mode) : State :=
  let s := if m.prbs then s else s.clearLanes Reg.LNK_LN_PRBS
  let s := if m.injects then s else (s.clearLanes Reg.LNK_LN_INJ).setField Reg.ECC_FLIP_CTRL 0 0 0
  if m = .service then s else { s with trk := { s.trk with simFree := none } }

/-- The mode changes (R401, R402): entry to DORMANT clears the job and a seal (R283). -/
def State.enterMode (s : State) (m : Mode) : State :=
  let s := if m = .dormant then
      let s := s.clearJob
      { s with sets := { s.sets with sealed := false } }
    else s
  let s : State := { s with glb := { s.glb with mode := m, autoDue := false } }
  (s.cancelTests m).raise .hstMode

/-! Residency (R356). -/

/-- The index of a power state among the residency counters. -/
def residencyOf (state : Nat) : Nat := if state = 5 then 4 else state

/-- Close the present stay: its time goes to the counter of the state. OFF is not counted. -/
def State.closeStay (s : State) : State :=
  let i := residencyOf s.pwr.state
  if s.pwr.state = 4 then { s with pwr := { s.pwr with since := s.time } }
  else
    { s with pwr := { s.pwr with res := s.pwr.res.modify i (· + (s.time - s.pwr.since)), since := s.time } }

/-! Resets. -/

/-- A register that a warm reset keeps (R279, R393): both configuration sets, TRK_TICK_TOTAL, LNK_ID_FAILS, and what VAUX holds
(R384). The manual's registers have no RWS field. -/
def warmKeeps (off : Nat) : Bool :=
  decide ((0xE00000 ≤ off ∧ off < 0xE03000) ∨ (0xE10000 ≤ off ∧ off < 0xE13000))
    || [Reg.TRK_TICK_TOTAL_LO, Reg.TRK_TICK_TOTAL_HI, Reg.LNK_ID_FAILS, Reg.REC_UNCOMMITTED].contains off

/-- The PCIe side after a reset: rings, messages and waiting commands are gone; with `link` the link and configuration space
stay (R393). -/
def Hst.afterReset (h : Hst) (link : Bool) : Hst :=
  let fresh : Hst := { mem := h.mem, poisoned := h.poisoned }
  if link then { fresh with width := h.width, rate := h.rate, bme := h.bme, msixEnable := h.msixEnable, funcMask := h.funcMask }
  else { fresh with width := 0, rate := 0 }

/-- All domains of a module in reset. -/
def domsOff : List Nat := List.replicate 10 2

/-- A warm reset (R393): every block at its cold state, but for what is kept. What is in flight is dropped; a bound run ends
without a frame, an END block or a ledger descriptor (R394). The withy pool is out of sight until the next mount (R395), and the
DRAM and its channels stay as they are until the next Upsett (R290). -/
def State.warmReset (s : State) (code : Nat) (link : Bool) : State :=
  let s := (s.trigger 0x41 0).closeStay
  let d := s.dram
  { s with
    regs := smPut Reg.resetWord Reg.GLB_RESET_CAUSE (BitVec.ofNat 32 code) (s.regs.filter fun p => warmKeeps p.1)
    readData := 0
    glb := { s.glb with mode := .dormant, autoDue := false, planAt := none, plateWarn := false }
    hst := s.hst.afterReset link
    sets := { active := s.sets.active, marks := s.sets.marks }
    run := none
    runEnded := none
    fig := {}
    wvr := {}
    cor := {}
    stg := {}
    bmf := {}
    trk := {}
    lnk := { idLocked := s.lnk.idLocked, idleSince := s.time }
    dram := { d with
      copies := [], log := [], ppr := none, cfgErr := false, initDone := false, trained := false,
      chans := d.chans.map fun (c : Chan) => { state := c.state, logical := c.logical } }
    net := {}
    ptp := { onAt := s.time }
    pwr := { s.pwr with state := 0, trans := none, slot := none, results := [], lp := false, grace := none, deepAt := 0 }
    thm := {}
    rcr := { s.rcr with mounted := false, cursor := none, window := none, notFound := false, crcBad := false } }

/-- The largest of a quantity over the newest record of each region (R372). -/
def Rec.newest (r : Rec) (f : Record → Nat) : Nat :=
  ([NorRegion.lifetime, .rolling].map fun g =>
    match (r.recordsIn g).foldl (fun (b : Option Record) x =>
      match b with
      | some y => if y.seq < x.seq then some x else b
      | none => some x) none with
    | some x => f x
    | none => 0).foldl max 0

/-- The recorder once the rails are gone: what the NOR die holds (R376, R384, R387). -/
def Rec.norOnly (r : Rec) : Rec :=
  { sectors := r.sectors, invUsed := r.invUsed, invHalf := r.invHalf, invValid := r.invValid,
    savedSeconds := r.savedSeconds, savedCycles := r.savedCycles, savedHist := r.savedHist, saved := r.saved,
    powerCycles := r.savedCycles, opSeconds := r.savedSeconds, hist := r.savedHist, live := r.saved }

/-- Every rail is removed (R355, R364, R366): the registers and memories lose what they hold. Shadow entries still uncommitted add
to REC_UNCOMMITTED, which VAUX holds (R384). -/
def State.powerOff (s : State) : State :=
  let lost := (s.rcr.shadow.filter fun e => !e.committed).length
  let n := if s.pwr.vaux = 0 then 0 else min (s.reg Reg.REC_UNCOMMITTED + lost) 0xFFFFFFFF
  { s with
    regs := smPut Reg.resetWord Reg.REC_UNCOMMITTED (BitVec.ofNat 32 n) []
    readData := 0
    glb := { s.glb with mode := .dormant, autoDue := false, planAt := none, plateWarn := false, firstUpsett := true }
    hst := s.hst.afterReset false
    sets := {}
    run := none
    runEnded := none
    fig := {}
    wvr := {}
    cor := {}
    stg := {}
    bmf := {}
    trk := {}
    lnk := {}
    dram := {}
    sram := {}
    net := {}
    ptp := {}
    pwr := { state := 4, doms := domsOff, wakeN := s.pwr.wakeN, vin := s.pwr.vin, vaux := s.pwr.vaux,
             tripped := s.pwr.tripped, since := s.time }
    clk := { lock := List.replicate 7 false, ref156 := s.clk.ref156, refclk := s.clk.refclk, aonLocked := false }
    thm := {}
    rcr := s.rcr.norOnly }

/-- VAUX lies in its operating range (Table 15.5). -/
def State.vauxGood (s : State) : Bool := decide (3135 ≤ s.pwr.vaux ∧ s.pwr.vaux ≤ 3465)

/-- The rails as the withy pool leaves them: a spare phase drawn is gone (Tables 12.9, 13.6). -/
def Withy.rails (w : Withy) : List Rail :=
  ({} : Pwr).rails.zipIdx.map fun x =>
    { x.1 with spares := x.1.spares - (w.phases.filter fun p => p.1 = x.2).length }

/-- Steps 3 and 4 of R395: the straps are sampled, every domain comes ON in RUN, and the module is in DORMANT. A PLL locks on its
reference; the PCIe link trains once REFCLK is there. -/
def State.boot (s : State) : State :=
  let r := s.clk.ref156
  let up := s.hst.width != 0
  { s with
    glb := { s.glb with autoDue := s.glb.strapAuto },
    hst := if up then s.hst else { s.hst with width := if s.clk.refclk then 16 else 0, rate := if s.clk.refclk then 5 else 0 },
    pwr := { s.pwr with doms := List.replicate 10 0 },
    ptp := { onAt := s.time },
    clk := { s.clk with lock := s.clk.refclk :: List.replicate 6 r, aonLocked := r,
                        lostAt := if r then none else s.clk.lostAt } }

/-- A cold start from OFF (R372, R392, R395): a power cycle is counted, counts and SEQ resume from what the NOR die holds. With
RESET_N low it stays at step 2 (R419). -/
def State.coldStart (s : State) (code : Nat) : State :=
  let r := s.rcr
  let secs := max r.savedSeconds (r.newest (·.opSeconds))
  let cycles := min 0xFFFFFFFF (max r.savedCycles (r.newest (·.powerCycles)) + 1)
  let seq := (([NorRegion.lifetime, .rolling].flatMap r.recordsIn).map (·.seq + 1)).foldl max 0
  let s : State := { s with
    glb := { s.glb with waitVaux := false, brownOff := false, firstUpsett := true },
    pwr := { s.pwr with state := 0, trippedLast := s.pwr.tripped, tripped := false, since := s.time, rails := r.live.rails },
    lnk := { s.lnk with idleSince := s.time },
    rcr := { r with opSeconds := secs, powerCycles := cycles, seqNext := seq % 2 ^ 48 } }
  let s := s.setReg Reg.GLB_RESET_CAUSE (code + 256 * b2n s.pwr.trippedLast)
  if s.glb.resetNLow then s else s.boot

/-- RESET_N (R393, R394): the pin has been low for 1 µs. In OFF only its level counts (R419). -/
def execResetN (t : Nat) (s0 : State) : Host.Outcome State Fault Refusal :=
  let s := s0.at_ t
  finish s0 (
    if s.glb.resetNLow then s
    else
      let s : State := if s.pwr.state = 4 then s else s.warmReset 0x08 false
      { s with glb := { s.glb with resetNLow := true }, pwr := { s.pwr with doms := domsOff } })

/-- RESET_N_RISING (R395): the straps are sampled, and the module reaches DORMANT. -/
def execResetNRising (auto img : Bool) (s : State) : Host.Outcome State Fault Refusal :=
  finish s (
    if !s.glb.resetNLow then s
    else
      let s : State := { s with glb := { s.glb with resetNLow := false, strapAuto := auto, strapImg := img } }
      if s.pwr.state = 4 then s else s.boot)

/-- An action of GLB_CMD: honoured in the named modes while no run is bound (R394, R396). -/
def State.glbCmd (s : State) (v : Nat) (modes : List Mode) (f : State → State) : State :=
  s.command Reg.GLB_CMD v fun s =>
    if s.glb.mode ∈ modes ∧ s.run = none then f s else s.violation 4 Reg.GLB_CMD true

/-- WARM_RESET (R394). -/
def execWarmReset (t : Nat) (s0 : State) : Host.Outcome State Fault Refusal :=
  finish s0 ((s0.at_ t).glbCmd 1 [.dormant, .ready, .service] fun s => (s.warmReset 0x09 true).boot)

/-- What an entry to OFF commits, in the order of R386. -/
def State.commitOff (s : State) : State :=
  let s := if s.canProgram then s.inventoryAll.checkpoint else s
  (s.trigger 0x43 0).commitAll 40

/-- COLD_RESET (R392, R394): the OFF entry, then an immediate cold start. -/
def execColdReset (t : Nat) (s0 : State) : Host.Outcome State Fault Refusal :=
  finish s0 ((s0.at_ t).glbCmd 2 [.dormant, .ready, .service] fun s => s.commitOff.powerOff.coldStart 0x03)

/-- FW_COMMIT (R396): the fused minimum never decreases. -/
def execFwCommit (s : State) : Host.Outcome State Fault Refusal :=
  finish s (s.command Reg.GLB_CMD 4 fun s => s.onlyIn [.service] Reg.GLB_CMD fun s =>
    { s with glb := { s.glb with fwMin := max s.glb.fwMin (s.field Reg.GLB_FW 13 8) } })

/-- COLD_START (R395, R418): VIN rises to `mv` while the module is off. The start waits for VAUX; after a lasting brown-out VIN has to
lie above VIN_LOW (R364). -/
def execColdStart (mv : Nat) (s : State) : Host.Outcome State Fault Refusal :=
  if 14000 < mv then .fault .beyondRatings
  else
    finish s (
      let low := clampNat 9000 11500 (s.field Reg.PWR_VIN_LIM 15 0)
      if s.pwr.state ≠ 4 ∨ mv < 9000 ∨ (s.glb.brownOff = true ∧ mv ≤ low) then s
      else
        let s : State := { s with pwr := { s.pwr with vin := mv } }
        if s.vauxGood then s.coldStart 0x01 else { s with glb := { s.glb with waitVaux := true } })

/-- VAUX_LOSS (R418): what VAUX holds is cleared. -/
def execVauxLoss (s : State) : Host.Outcome State Fault Refusal :=
  finish s (({ s with pwr := { s.pwr with vaux := 0, tripped := false } } : State).setReg Reg.REC_UNCOMMITTED 0)

/-- VAUX_RETURN (R418): a cold start that waited for VAUX proceeds. -/
def execVauxReturn (mv : Nat) (s : State) : Host.Outcome State Fault Refusal :=
  if 3800 < mv then .fault .beyondRatings
  else
    finish s (
      let s : State := { s with pwr := { s.pwr with vaux := mv } }
      if s.vauxGood && s.glb.waitVaux && decide (s.pwr.state = 4) then s.coldStart 0x01 else s)

/-- MGT_WATCHDOG (R412): the core restarts; commands in progress on it complete INTERNAL. An identity step in progress ends without
its answer. -/
def execMgtWatchdog (s : State) : Host.Outcome State Fault Refusal :=
  finish s (
    if s.accessOff Reg.REC_CTRL then s
    else
      let s := s.bump Reg.GLB_MGT_RESTARTS
      let s := if s.lnk.challenge.isSome then (s.identFails true).linkUpNow else s
      s.hst.waits.foldl (fun s w => (s.dropWait w.1).completeCmd w.1 Stat.internal 0 0) s)

end Sys2Proof.Machine
end

