-- ==== Sys2Proof/Machine/Power.lean ====
section
/-! DEFINITION. Power states, requests and their results (12_power_clocks.md, R345 to R356). -/

namespace Sys2Proof.Machine

/-! Results (R348). -/

/-- Put an entry into the result FIFO and raise PWR_DONE. -/
def State.pushResult (s : State) (x : PwrResult) : State :=
  let s := if s.pwr.results.length < 4 then { s with pwr := { s.pwr with results := s.pwr.results ++ [x] } }
    else s.bump Reg.PWR_RESULT_LOST
  s.raise .pwrDone

/-- The result of a request as it stands now. -/
def State.resultOf (s : State) (q : PwrReq) (status : Nat) : PwrResult :=
  { status := status, target := q.target, reached := s.pwr.state, refuser := 7, superseded := false, nochange := false,
    auto := false, seq := q.seq, mode := s.modeCode }

/-- The pending slot is cleared: its request completes BUSY with SUPERSEDED (R352, R353). -/
def State.dropSlot (s : State) : State :=
  match s.pwr.slot with
  | none => s
  | some q =>
    ({ s with pwr := { s.pwr with slot := none } } : State).pushResult { s.resultOf q Stat.busy with superseded := true }

/-! Domains (R345, R346, Table 12.2). -/

/-- The code of a domain in PWR_DOM_TGT. -/
def domCode (doms d : Nat) : Nat := bitsOf doms (2 * d + 1) (2 * d)

/-- The domains of a state (Table 12.2). -/
def domsOf (target doms : Nat) : List Nat :=
  match target with
  | 2 => [0, 0, 1, 1, 1, 1, 1, 1, 1, 1]
  | 3 => [0, 1, 1, 1, 1, 1, 1, 1, 1, 1]
  | 5 => (List.range 10).map (domCode doms)
  | _ => List.replicate 10 0

/-- The domain that holds an SRAM store of Table 10.8; the sets' words are kept in RET. -/
def storeDomain (store : Nat) : Nat :=
  match store with
  | 0x01 => 3 | 0x02 => 2 | 0x09 => 0 | 0x0A => 7 | 0x0B => 1 | 0x0C => 6 | 0x0D => 9 | _ => 5

/-- The lanes go to P3 (R246): the link is down, and what was not FAILED or RETIRED waits for training. -/
def State.lanesOff (s : State) : State :=
  { s with lnk := { s.lnk with
      linkUp := false, lanesOk := false, partnerOk := false, challenge := none, keep := [], down := [], downHeld := [], out := [],
      lanes := s.lnk.lanes.map fun (l : Lane) =>
        { l with tx := 3, rx := 3, llane := 0, swapDue := false, relockDue := false,
                 state := if l.state = .failed ∨ l.state = .retired then l.state else .off } } }

/-- A domain leaves ON (R38, R185, R246, R346, R350). -/
def State.leaveOn (s : State) (d : Nat) : State :=
  match d with
  | 2 => { s with fig := { s.fig with key := none, jobId := 0, salt := 0 } }
  | 7 => ({ s with trk := { s.trk with s := { s.trk.s with anchored := false }, c := { s.trk.c with anchored := false },
                                       simFree := none, anchorPw := false } } : State).lanesOff
  | 8 => { s with net := { s.net with up := false, rxWait := [], txHeld := none } }
  | _ => s

/-- The registers of a domain take their cold values (R346). -/
def State.coldDomain (s : State) (d : Nat) : State :=
  let s : State := { s with regs := s.regs.filter fun p => domainOf p.1 ≠ d }
  match d with
  | 2 => { s with fig := {} }
  | 3 => { s with wvr := { s.wvr with weavers := s.wvr.weavers.map fun (w : Weaver) => { w with pass := none } } }
  | 4 => { s with wvr := { s.wvr with weavers := s.wvr.weavers.map fun (w : Weaver) => { w with pass := none } } }
  | 5 => { s with cor := {}, stg := {}, bmf := {} }
  | 6 => { s with dram := {} }
  | 7 => { s with trk := {}, lnk := { idleSince := s.time } }
  | 8 => { s with net := {} }
  | _ => s

/-- A domain returns to ON (R333, R346). -/
def State.enterOn (s : State) (d old : Nat) : State :=
  let s := if old = 2 then s.coldDomain d else s
  let s : State := { s with sram := {
    marks := s.sram.marks.filter fun w => storeDomain w.1 ≠ d, watch := s.sram.watch.filter fun w => storeDomain w.1.1 ≠ d } }
  if d = 8 then
    { s with ptp := { s.ptp with onAt := s.time, tRef := 0, fRef := 0, slew := 0, locked := false, level := false,
                                 period := clampNat 10984121161 11006111394 (s.reg64 Reg.PTP_PERIOD_LO Reg.PTP_PERIOD_HI) } }
  else s

/-- A domain takes a state. -/
def State.setDomain (s : State) (d code : Nat) : State :=
  let old := s.pwr.doms.getD d 0
  let s := if old = 0 ∧ code ≠ 0 then s.leaveOn d else s
  let s := if code = 2 ∧ old ≠ 2 ∧ d = 6 then { s with dram := {} } else s
  let s := if code = 0 ∧ old ≠ 0 then s.enterOn d old else s
  { s with pwr := { s.pwr with doms := s.pwr.doms.set d code } }

/-- Every domain takes its state. -/
def State.setDomains (s : State) (codes : List Nat) : State :=
  (List.range 10).foldl (fun s d => s.setDomain d (codes.getD d 0)) s

/-- The PLLs that run on CLK156, in a state (R351, Table 12.8). -/
def State.setPlls (s : State) (target : Nat) : State :=
  let on := decide (target ≠ 2 ∧ target ≠ 3)
  { s with clk := { s.clk with lock := s.clk.lock.headD true :: (s.clk.lock.tail.map fun b =>
      if on then (b || s.clk.ref156) else false) } }

/-- The module is in a power state (R347, R356): the time of the transition counts to the state left. -/
def State.enterPower (s : State) (target doms : Nat) : State :=
  let s := s.closeStay
  let s := if target = s.pwr.state ∨ target = 0 ∨ s.pwr.state = 0 then s else s.setDomains (domsOf 0 0)
  let s := if s.pwr.state = 2 ∨ s.pwr.state = 3 ∨ target = 2 ∨ target = 3 then s.setPlls target else s
  let s := s.setDomains (domsOf target doms)
  { s with pwr := { s.pwr with state := target, lp := decide (target = 3) } }

/-! Requests (R349, R352). -/

/-- The states a mode allows (Table 0.4); code 5 is the per-domain model (R4). -/
def Mode.allows (m : Mode) (target : Nat) : Bool :=
  match m with
  | .dormant => true
  | .ready => decide (target ≤ 1)
  | .service => decide (target ≤ 1)
  | _ => decide (target = 0)

/-- The low-power regulator mode is engaged in a target (R350, R361). -/
def engagesLp (target doms : Nat) : Bool :=
  target == 3 || (target == 5 && (List.range 9).all fun d => domCode doms (d + 1) ≠ 0)

/-- The first check of Table 12.3 that a request fails: status and refuser. -/
def State.requestFails (s : State) (q : PwrReq) : Option (Nat × Nat) :=
  let code := domCode q.doms
  let dom := decide (q.target = 5)
  if 5 < q.target ∨ (dom = true ∧ (List.range 10).any (fun d => code d == 3) = true) then some (Stat.format, 7)
  else if !s.glb.mode.allows q.target then some (Stat.state, 0)
  else if dom && decide (code 0 ≠ 0 ∨ code 1 ≠ 0 ∨ code 9 = 2) then some (Stat.format, 1)
  else if dom && decide (code 3 = 0 ∨ code 4 = 0 ∨ code 5 = 0 ∨ code 7 = 0) && decide (code 2 ≠ 0 ∨ code 6 ≠ 0) then
    some (Stat.format, 2)
  else if engagesLp q.target q.doms && decide (signedOf 16 (s.field Reg.PWR_LP_TMAX 15 0) < s.hottest.2) then
    some (Stat.state, 3)
  else if decide (q.target = 3 ∨ q.target = 4) && !s.pwr.wakeN then some (Stat.state, 4)
  else none

/-- The target is the present state. -/
def State.isThere (s : State) (q : PwrReq) : Bool :=
  decide (q.target = s.pwr.state) && (decide (q.target ≠ 5) || s.pwr.doms == domsOf 5 q.doms)

/-- A request is taken up (R349). -/
def State.takeUp (s : State) (q : PwrReq) : State :=
  match s.requestFails q with
  | some (st, refuser) =>
    let s := if refuser < 5 then s.bump (Reg.PWR_CB_REFUSE_n (refuser % 5)) else s
    s.pushResult { s.resultOf q st with refuser := refuser }
  | none =>
    if s.isThere q then s.pushResult { s.resultOf q Stat.ok with nochange := true }
    else { s with pwr := { s.pwr with trans := some { req := q, fromState := s.pwr.state, auto := false } } }

/-- A new request (R348, R352): it takes the next SEQ, and waits in the slot during a transition. -/
def State.request (s : State) (target : Nat) : State :=
  let seq := (s.reg Reg.PWR_REQ_SEQ + 1) % 65536
  let s := s.setReg Reg.PWR_REQ_SEQ seq
  let q : PwrReq := { target := target, doms := s.reg Reg.PWR_DOM_TGT, seq := seq }
  if s.pwr.trans.isSome then
    let s := s.dropSlot
    { s with pwr := { s.pwr with slot := some q } }
  else s.takeUp q

/-- POWER_REQUEST (R348): PWR_REQ. -/
def execPowerRequest (v : Word) (t : Nat) (s0 : State) : Host.Outcome State Fault Refusal :=
  finish s0 ((s0.at_ t).command Reg.PWR_REQ v.toNat fun s => s.request (bitsOf v.toNat 2 0))

/-- The pending request is taken up when a transition has ended (R352). -/
def State.nextRequest (s : State) : State :=
  match s.pwr.slot with
  | none => s
  | some q => ({ s with pwr := { s.pwr with slot := none } } : State).takeUp q

/-- A DMA descriptor is in progress, whose end an entry to SLEEP, DEEP or OFF waits for (R351). -/
def State.dmaBusy (s : State) : Bool :=
  s.hst.rings.any fun p => decide (p.1 < 128) && (match p.2.cur with | some e => e.moved.isSome | none => false)

/-- The channels are recalibrated after self-refresh (R302, Table 12.4). -/
def State.recalAfterRest (s : State) (r : List ChanMargins) : State :=
  if s.memRuns then (r.filter fun m => s.recals m.chan).foldl (fun s m => s.recalChan m) s else s

/-- The PCIe link is there again after DEEP; configuration space was kept (R354). -/
def State.linkBack (s : State) : State :=
  if s.clk.refclk then ({ s with hst := { s.hst with width := 16, rate := 5 } } : State).releaseHeld else s

/-- POWER_TRANSITION_END (R351, R352). Entries to DEEP and OFF write their result here and go on with DEEP_GRACE_EXPIRY. -/
def execPowerTransitionEnd (t : Nat) (r : List ChanMargins) (s0 : State) : Host.Outcome State Fault Refusal :=
  let s := s0.at_ t
  finish s0 (
    match s.pwr.trans with
    | none => s
    | some x =>
      let q := x.req
      if s.pwr.grace.isSome || (decide (2 ≤ q.target ∧ q.target ≤ 4) && s.dmaBusy) then s
      else if q.target = 3 ∨ q.target = 4 then
        let s := if s.pwr.state = 0 then s else s.setDomains (domsOf 0 0)
        let s := if q.target = 4 then s.commitOff else s.setDomains ((domsOf 3 0).set 1 0)
        let s := s.pushResult { s.resultOf q Stat.ok with reached := q.target }
        { s with pwr := { s.pwr with grace := some s.time } }
      else
        let rest := decide (s.pwr.state = 2 ∨ s.pwr.state = 3)
        let deep := decide (s.pwr.state = 3)
        let s := s.enterPower q.target q.doms
        let s := if rest then s.recalAfterRest r else s
        let s := if deep then s.linkBack else s
        let s : State := { s with pwr := { s.pwr with trans := none } }
        let s := s.pushResult { s.resultOf q Stat.ok with auto := x.auto }
        s.nextRequest)

/-- PWR_RESULT_POP (R348). -/
def execPwrResultPop (v : Word) (s : State) : Host.Outcome State Fault Refusal :=
  finish s (s.command Reg.PWR_RESULT_POP v.toNat fun s =>
    if v.getLsbD 0 then { s with pwr := { s.pwr with results := s.pwr.results.tail } } else s)

/-- PWR_DEEP_GRACE in µs. -/
def State.deepGrace (s : State) : Nat := atLeast1 (s.field Reg.PWR_DEEP_GRACE 15 0)

/-- DEEP_GRACE_EXPIRY (R354, R355): PD_HOST enters RET and the link goes down, or the rails go. A request that waits is taken up
then; from OFF that is a cold start (Table 12.4). -/
def execDeepGraceExpiry (t : Nat) (s0 : State) : Host.Outcome State Fault Refusal :=
  let s := s0.at_ t
  finish s0 (
    match s.pwr.trans, s.pwr.grace with
    | some x, some g =>
      if t < g + usTu s.deepGrace then s
      else if x.req.target = 3 then
        let s := (s.closeStay.setPlls 3).setDomain 1 1
        let s : State := { s with hst := { s.hst with width := 0, rate := 0 },
                                  pwr := { s.pwr with state := 3, lp := true, trans := none, grace := none, deepAt := s.time } }
        s.nextRequest
      else
        let back := match s.pwr.slot with | some q => decide (q.target ≠ 4) | none => false
        let s := s.powerOff
        if back then s.coldStart 0x02 else s
    | _, _ => s)

/-- The wake out of DEEP (R354): an automatic transition to RUN. -/
def State.wake (s : State) : State :=
  let q : PwrReq := { target := 0, doms := 0, seq := s.reg Reg.PWR_REQ_SEQ }
  { s with pwr := { s.pwr with trans := some { req := q, fromState := s.pwr.state, auto := true } } }

/-- WAKE_PIN (R354, R355): `low` when WAKE_N has been low for 1 µs, false when it is high again. Without VAUX it is not sensed
(R418). -/
def execWakePin (low : Bool) (t : Nat) (s0 : State) : Host.Outcome State Fault Refusal :=
  let s := s0.at_ t
  finish s0 (
    if s.pwr.vaux = 0 then s
    else
      let was := s.pwr.wakeN
      let s : State := { s with pwr := { s.pwr with wakeN := !low } }
      if !low then s
      else
        match s.pwr.trans with
        | some x => if was && decide (x.req.target = 3 ∨ x.req.target = 4) then s.request 0 else s
        | none =>
          if s.pwr.state = 3 ∧ was = true then s.wake
          else if s.pwr.state = 4 ∧ 9000 ≤ s.pwr.vin ∧ s.glb.brownOff = false then s.coldStart 0x02
          else s)

/-- WAKE_TIMER (R354). -/
def execWakeTimer (t : Nat) (s0 : State) : Host.Outcome State Fault Refusal :=
  let s := s0.at_ t
  finish s0 (
    if s.pwr.state = 3 ∧ s.pwr.trans = none ∧ s.bit Reg.PWR_CTRL 0 = true
        ∧ s.pwr.deepAt + msTu (s.reg Reg.PWR_WAKE_TIMER) ≤ t then s.wake
    else s)

/-- The automatic transition to RUN that a command needs (R5, R353), with its AUTO entry. -/
def State.autoRun (s : State) : State :=
  if s.pwr.state = 0 then s
  else
    let deep := decide (s.pwr.state = 3)
    let s := s.dropSlot.enterPower 0 0
    let s := if deep then s.linkBack else s
    let q : PwrReq := { target := 0, doms := 0, seq := s.reg Reg.PWR_REQ_SEQ }
    s.pushResult { s.resultOf q Stat.ok with auto := true }

/-- A command that needs the core clock, in READY or SERVICE while the module is in IDLE, wakes it first (R5); it waits for a
power transition in progress to end. -/
def State.awake (s : State) (f : State → State) : State :=
  if s.pwr.state = 1 ∧ (s.glb.mode = .ready ∨ s.glb.mode = .service) then
    (if s.pwr.trans.isSome then s else f s.autoRun)
  else f s

end Sys2Proof.Machine
end

