-- ==== Sys2Proof/Machine/Rim.lean ====
section
/-! DEFINITION. The events and commands of the Rim link: return frames and their telemetry, the end of a run, control blocks, lane
faults, lane commands, power states and the mailbox (R211, R219 to R229, R236 to R247). -/

namespace Sys2Proof.Machine

/-- The link's block is on and clocked. -/
def State.linkOn (s : State) : Bool := !s.accessOff Reg.LNK_CTRL

/-- A lane whose receiver hears its pair. -/
def State.hears (s : State) (p : Nat) : Bool :=
  let x := s.lane p
  s.linkOn && decide (p < 72 ∧ x.rx ≤ 1)
    && decide (x.state = .active ∨ x.state = .spare ∨ x.state = .spareCal ∨ x.state = .training)

/-! Acknowledgements (R221). -/

/-- The rows of the CRC fields that an acknowledgement reports bad. -/
def badRows (l : Nat) (f : RetFrame) : List (Nat × Nat) :=
  if !f.hdrOk then [laneRows l]
  else (List.range 4).filterMap fun i =>
    if f.fldOk i then none else some ((laneRows l).1 + 2 * i, (laneRows l).1 + 2 * i + 1)

/-- An acknowledgement settles the outstanding frame it names. -/
def State.acknowledge (s : State) (p l : Nat) (f : RetFrame) : State :=
  match s.lnk.out.find? fun x => x.1 = l ∧ x.2 % 65536 = f.ackSeq with
  | none => s.bump Reg.LNK_ACK_SPUR
  | some (_, k) =>
    match badRows l f with
    | [] =>
      let s : State := { s with lnk := { s.lnk with out := s.lnk.out.filter fun x => x ≠ (l, k) } }
      s.modLane p fun x => x.outcome false
    | rows => s.frameNak l k rows

/-! Plate temperatures (R227). -/

/-- TEMP_QUORUM. -/
def State.tempQuorum (s : State) : Nat := clampNat 2 4 (s.field Reg.LNK_TEL_CFG 11 8)
/-- TEMP_AGREE. -/
def State.tempAgree (s : State) : Nat := s.field Reg.LNK_TEMP_CHK 15 0

/-- A value lies in TEMP_LO to TEMP_HI. -/
def State.tempInRange (s : State) (v : Int) : Bool :=
  decide (signedOf 16 (s.field Reg.LNK_TEMP_LIM 15 0) ≤ v ∧ v ≤ signedOf 16 (s.field Reg.LNK_TEMP_LIM 31 16))

/-- A value differs too much from the previous accepted value of its quadrant. -/
def State.tempSlewed (s : State) (q : Nat) (v : Int) : Bool :=
  match s.lnk.accepted.getD q none with
  | none => false
  | some (w, t) =>
    decide (s.field Reg.LNK_TEMP_CHK 31 16 * (s.time - t) + s.tempAgree * msTu 1000 < (v - w).natAbs * msTu 1000)

/-- The medians of a sample are taken or discarded, quadrant by quadrant; accepted ones are checked as plate temperatures. -/
def State.takeTemps (s : State) (meds : List Int) : State :=
  let slewed := (List.range 4).filter fun q => s.tempSlewed q (meds.getD q 0)
  let good := (List.range 4).filter fun q => !slewed.contains q
  let acc := (List.range 4).map fun q => if good.contains q then some (meds.getD q 0, s.time) else s.lnk.accepted.getD q none
  let s := s.bumpBy Reg.LNK_TEL_RATE slewed.length
  let s := if slewed = [] then s else s.raise .lnkTel
  if good = [] then s
  else
    let s : State := { s with lnk := { s.lnk with accepted := acc } }
    let v := fun (q : Nat) => unsignedOf 16 (((acc.getD q none).map (·.1)).getD 0)
    let s := (s.setReg Reg.LNK_TEMP_01 (v 0 + 65536 * v 1)).setReg Reg.LNK_TEMP_23 (v 2 + 65536 * v 3)
    let s := good.foldl (fun (s : State) q => s.setField (Reg.BMF_TEMP_0 (q % 4)) 18 18 0) s
    s.plateSample

/-- A sample has reached its quorum: it is accepted when every report passes the range and agreement tests. -/
def State.settleTemps (s : State) (rs : List TempReport) : State :=
  let meds := (List.range 4).map fun q => medianOf (rs.map fun r => r.vals.getD q 0)
  let bad := rs.filter fun r => !(List.range 4).all fun q =>
    let v := r.vals.getD q 0
    s.tempInRange v && decide ((v - meds.getD q 0).natAbs ≤ s.tempAgree)
  if bad = [] then s.takeTemps meds else (s.bumpBy Reg.LNK_TEL_RANGE bad.length).raise .lnkTel

/-- Samples whose 100 µs are over leave; one without quorum is counted once. -/
def State.expireTemps (s : State) (slack : Nat) : State :=
  let old := ((s.lnk.temps.filter fun x => decide (x.at_ + usTu 100 + slack ≤ s.time)).map (·.sample)).eraseDups
  old.foldl (fun s n =>
    let rs := s.lnk.temps.filter fun x => x.sample = n
    let s : State := { s with lnk := { s.lnk with temps := s.lnk.temps.filter fun x => x.sample ≠ n } }
    if rs.length < s.tempQuorum then (s.bump Reg.LNK_TEL_RANGE).raise .lnkTel else s) s

/-- A logical lane reports a sample. The instant kept is that of the sample's first report. -/
def State.tempReport (s : State) (l sample : Nat) (vals : List Int) : State :=
  let s := s.expireTemps 1
  let rs := s.lnk.temps.filter fun x => x.sample = sample
  let at_ := match rs.head? with | some r => r.at_ | none => s.time
  let rs' := (rs.filter fun x => x.llane ≠ l) ++ [{ sample := sample, llane := l, vals := vals, at_ := at_ }]
  let s : State := { s with lnk := { s.lnk with temps := (s.lnk.temps.filter fun x => x.sample ≠ sample) ++ rs' } }
  if rs'.length = s.tempQuorum ∧ rs.length < rs'.length then s.settleTemps rs' else s

/-! Telemetry (R225 to R229). -/

/-- LNK_MBX_ENTRIES. -/
def State.mbxEntries (s : State) : Nat := clampNat 1024 16777216 (s.field Reg.LNK_MBX_ENTRIES 24 0)

/-- Write a record into the telemetry mailbox (R229). -/
def State.mailbox (s : State) (p : Nat) (words : List Nat) (bad : Bool) : State :=
  let wr := s.reg Reg.LNK_MBX_WR
  if !s.bit Reg.LNK_CTRL 4 then s
  else if (wr + 1) % s.mbxEntries = s.reg Reg.LNK_MBX_RD % s.mbxEntries then s.bump Reg.LNK_MBX_DROP
  else
    let last := s.tickTotal % 2 ^ 48 + p * 2 ^ 48 + b2n bad * 2 ^ 55
    let s := s.memWrite (s.reg64 Reg.LNK_MBX_BASE_LO Reg.LNK_MBX_BASE_HI + 64 * wr)
      ((words.take 7 ++ [last]).flatMap (leBytes 8))
    let s := s.setReg Reg.LNK_MBX_WR ((wr + 1) % s.mbxEntries)
    { s with net := { s.net with arrivals := s.net.arrivals ++ [s.time] } }

/-- A record that failed its check (R228). -/
def State.badRecord (s : State) (off : Nat) : State × Bool := ((s.bump off).raise .lnkTel, true)

/-- TRAIN of the Rim link has ended: it completes (R230, Table 9.6). -/
def State.trainDone (s : State) : State :=
  s.hst.waits.foldl (fun s w =>
    match w.2 with
    | .identity => (s.dropWait w.1).completeCmd w.1 Stat.ok 0 (s.readReg Reg.LNK_STATUS)
    | _ => s) s

/-- An IDENT record (R228, R236): in the identity step a valid one ends the step. -/
def State.identRecord (s : State) (f : RetFrame) : State × Bool :=
  match s.lnk.challenge with
  | none => s.badRecord Reg.LNK_RET_SPOOF
  | some (nm, _, _) =>
    let x : Ident := { partnerId := f.word 1, np := f.word 2 + f.word 3 * 2 ^ 64, mac := f.word 4 + f.word 5 * 2 ^ 64 }
    match s.checkIdent nm x with
    | some mac => (((s.identPasses x.partnerId mac).linkUpNow).trainDone, false)
    | none => (s, true)

/-- What a record does beside its mailbox entry, and whether it fails its checks. -/
def State.record (s : State) (p : Nat) (f : RetFrame) : State × Bool :=
  let x := s.lane p
  match f.ttype with
  | 1 =>
    let vals := (List.range 4).map fun q => signedOf 16 (bitsOf (f.word 1) (16 * q + 15) (16 * q))
    (if x.state = .active then s.tempReport x.llane (f.word 2 % 65536) vals else s, vals.any fun v => !s.tempInRange v)
  | 2 => if f.bcmOk beamLane (s.field Reg.LNK_TEL_CFG 31 16) then (s, false) else s.badRecord Reg.LNK_TEL_RANGE
  | 3 => if f.recordClean then (s.setReg Reg.LNK_PSTAT (f.word 1 % 2 ^ 32), false) else s.badRecord Reg.LNK_TEL_RANGE
  | 5 => s.identRecord f
  | _ => (s, false)

/-- The telemetry record of a valid frame, within the lane's allowance (R226). -/
def State.telemetry (s : State) (p : Nat) (f : RetFrame) (words : List Nat) : State :=
  if f.ttype = 0 then s
  else
    let key := if (s.lane p).state = .active then (s.lane p).llane else 64 + p
    let n := smGet (fun _ => 0) s.lnk.telCount key
    if s.field Reg.LNK_TEL_CFG 7 0 ≤ n then s.bump Reg.LNK_TEL_FLOOD
    else
      let s : State := { s with lnk := { s.lnk with telCount := smPut (fun _ => 0) key (n + 1) s.lnk.telCount } }
      let (s, bad) := s.record p f
      s.mailbox p words bad

/-! Return frames (R219, R220). -/

/-- LLANE is the logical lane assigned to the arrival lane; a spare has 0x7F, and so may one just assigned. -/
def Lane.accepts (x : Lane) (l : Nat) : Bool :=
  if x.state = .active then l == x.llane || (x.fresh && l == 0x7F) else l == 0x7F

/-- A frame of a lane that is not flooded: its checks, its acknowledgement and its record. -/
def State.checkedFrame (s : State) (p : Nat) (words : List Nat) : State :=
  let f := retFrame words
  let x := s.lane p
  if bitsOf (s.reg (Reg.LNK_LN_INJ p)) 2 0 = 7 then (s.useInjection p).bump Reg.LNK_RET_BAD
  else if !f.formed then s.bump Reg.LNK_RET_BAD
  else if !x.accepts f.llane || (f.ackv && decide (x.state ≠ .active)) then s.bump Reg.LNK_RET_SPOOF
  else
    let s := s.modLane p fun x => { x with fresh := x.fresh && f.llane == 0x7F, relockDue := false, lastRet := s.time }
    let s := if f.ackv then s.acknowledge p x.llane f else s
    s.telemetry p f words

/-- RETURN_FRAME (R220): more than 8 frames of a lane in 1 µs are dropped. -/
def execReturnFrame (lane : Nat) (words : List Nat) (t : Nat) (s0 : State) : Host.Outcome State Fault Refusal :=
  let s := s0.at_ t
  finish s0 (
    if !s.hears lane then s
    else
      let recent := (s.lane lane).retTimes.filter fun x => decide (s.time < x + usTu 1)
      if 8 ≤ recent.length then (s.modLane lane fun x => { x with retTimes := recent }).bump Reg.LNK_TEL_FLOOD
      else (s.modLane lane fun x => { x with retTimes := recent ++ [s.time] }).checkedFrame lane words)

/-- TEMP_QUORUM_TIMEOUT (R227). -/
def execTempQuorumTimeout (t : Nat) (s0 : State) : Host.Outcome State Fault Refusal :=
  finish s0 ((s0.at_ t).expireTemps 0)

/-- TEL_RATE_WINDOW (R226). -/
def execTelRateWindow (s : State) : Host.Outcome State Fault Refusal :=
  finish s { s with lnk := { s.lnk with telCount := [] } }

/-! The end of a run (R222). -/

/-- The run takes no more ticks: its drain ticks are issued, or it ended without (R195, R196). -/
def Run.drained (r : Run) : Bool := r.noTicks || decide (r.lastFrame + 2 < r.issued)

/-- Frames that will be fired and are not settled. -/
def State.unsettled (s : State) (r : Run) : List (Nat × Nat) := s.lnk.out.filter fun x => decide ((x.2 : Int) ≤ r.lastFired)

/-- ACK_DRAIN_TIMEOUT (R222). -/
def execAckDrainTimeout (t : Nat) (s0 : State) : Host.Outcome State Fault Refusal :=
  let s := s0.at_ t
  finish s0 (
    match s.run with
    | none => s
    | some r =>
      if r.drained && decide (r.lastDrainAt.getD (subTu * r.hwmAt) + usTu 10 ≤ s.time) then
        (s.unsettled r).foldl (fun s x =>
          let s := match s.carrier x.1 with | some p => s.laneLost p | none => s
          s.frameLost x.1 x.2 [laneRows x.1]) s
      else s)

/-- RUN_END (R222). -/
def execRunEnd (t : Nat) (s0 : State) : Host.Outcome State Fault Refusal :=
  let s := s0.at_ t
  finish s0 (
    match s.run with
    | none => s
    | some r => if r.drained && decide (r.lastFrame < r.launched) && (s.unsettled r).isEmpty then s.endRun else s)

/-! Control blocks and power states (R211, R246, R247). -/

/-- A state of Table 8.8 that a transmitter may take now. -/
def State.powerAllowed (s : State) (x : Lane) (st : Nat) : Bool :=
  let calm := s.run.isNone && decide (s.glb.mode = .dormant ∨ s.glb.mode = .ready ∨ s.glb.mode = .service)
  match st with
  | 0 => decide (x.tx < 3)
  | 1 => decide (x.tx < 3) && (s.run.isNone || (decide (x.state = .spare) && s.bit Reg.LNK_CTRL 1))
  | 2 => decide (x.tx < 3) && calm
  | _ => decide (s.glb.mode = .dormant)

/-- A received LPREQ puts the facing transmitter in the requested state (R246). -/
def State.lpreq (s : State) (p st : Nat) : State :=
  let x := s.lane p
  if decide (x.state = .active ∨ x.state = .spare) && s.powerAllowed x st then s.modLane p fun x => { x with tx := st } else s

/-- LPREQ (R246). -/
def execLpreq (lane st : Nat) (s : State) : Host.Outcome State Fault Refusal :=
  finish s (if s.hears lane then s.lpreq lane (st % 4) else s)

/-- CONTROL_BLOCK_RX (R211): the only block with an effect outside training is LPREQ. -/
def execControlBlockRx (lane block : Nat) (s : State) : Host.Outcome State Fault Refusal :=
  finish s (
    if !s.hears lane then s
    else if !controlBlockOk block then s.bump Reg.LNK_RET_BAD
    else if block % 256 = 0x66 then s.lpreq lane (bitsOf block 9 8)
    else s)

/-- The idle target of a direction: P2 only in the modes that allow it. -/
def State.idleTarget (s : State) (hi lo : Nat) : Nat :=
  let v := min 2 (s.field Reg.LNK_LP hi lo)
  if v = 2 ∧ ¬ (s.glb.mode = .dormant ∨ s.glb.mode = .ready ∨ s.glb.mode = .service) then 1 else v

/-- LANE_LP_IDLE (R246). -/
def execLaneLpIdle (t : Nat) (s0 : State) : Host.Outcome State Fault Refusal :=
  let s := s0.at_ t
  finish s0 (
    if s.linkOn && s.run.isNone && decide (s.lnk.idleSince + usTu (s.field Reg.LNK_LP 31 16) ≤ s.time) then
      let tx := s.idleTarget 1 0
      let rx := s.idleTarget 3 2
      let idle := (List.range 72).filter fun p =>
        let x := s.lane p
        decide ((x.state = .active ∨ x.state = .spare) ∧ x.tx < 3 ∧ x.rx < 3)
      let s := if rx = 0 then s else s.sendBlocks (idle.map fun p => (p, lpreqBlock rx))
      idle.foldl (fun s p => s.modLane p fun x => { x with tx := tx, rx := rx }) s
    else s)

/-- LANE_RELOCK_TIMEOUT (R247): the lane is spared before the arm completes, so the spare carries its logical lane from frame 0. -/
def execLaneRelockTimeout (lane t : Nat) (s0 : State) : Host.Outcome State Fault Refusal :=
  let s := s0.at_ t
  finish s0 (
    match s.run with
    | none => s
    | some r =>
      let x := s.lane lane
      if !x.relockDue || r.issued ≠ 0 then s
      else
        let s := ({ s with run := none } : State).laneFault lane 0x02
        let due := (List.range 72).filter fun p => (s.lane p).swapDue
        let s := s.sendBlocks (due.map fun p => (p, swapBlock (s.lane p).llane 0 r.serial))
        let s := due.foldl (fun s p => s.modLane p fun x => { x with swapDue := false }) s
        { s with run := some r })

/-! Lane faults and lane commands (R223, R242 to R245). -/

/-- A lane that is watched for faults: assigned or spare, with its receiver in P0. -/
def State.watched (s : State) (p : Nat) : Bool :=
  s.hears p && decide ((s.lane p).rx = 0 ∧ (s.lane p).state ≠ .training)

/-- LANE_LOS (R223). -/
def execLaneLos (lane t : Nat) (s0 : State) : Host.Outcome State Fault Refusal :=
  let s := s0.at_ t
  finish s0 (if s.watched lane then s.laneFault lane 0x01 else s)

/-- LANE_LOCK (R223). -/
def execLaneLock (lane t : Nat) (s0 : State) : Host.Outcome State Fault Refusal :=
  let s := s0.at_ t
  finish s0 (if s.watched lane then s.laneFault lane 0x02 else s)

/-- RET_SILENT (R223). -/
def execRetSilent (lane t : Nat) (s0 : State) : Host.Outcome State Fault Refusal :=
  let s := s0.at_ t
  let tmo := max 10 (s.field Reg.LNK_ACK_CFG 31 16)
  finish s0 (if s.watched lane && decide ((s.lane lane).lastRet + usTu tmo ≤ s.time) then s.laneFault lane 0x05 else s)

/-- LANE_RETIRE (R242): a lane fault on an assigned lane. -/
def execLaneRetire (lane t : Nat) (s0 : State) : Host.Outcome State Fault Refusal :=
  let s := s0.at_ t
  finish s0 (s.command (Reg.LNK_LN_CMD lane) 1 fun s =>
    if 72 ≤ lane ∨ (s.lane lane).state = .retired then s
    else
      let s := if (s.lane lane).state = .active then s.laneFault lane 0x06 else s
      if (s.lane lane).state = .retired then s else s.retireLane lane)

/-- LANE_RETRAIN (R242). -/
def execLaneRetrain (lane : Nat) (r : LaneTraining) (s : State) : Host.Outcome State Fault Refusal :=
  finish s (s.command (Reg.LNK_LN_CMD lane) 2 fun s =>
    if (s.lane lane).state = .failed ∧ s.run.isNone = true then s.retrainLane lane r else s)

/-- LANE_INJECT (R245): an injection into the next block, or without a mode or a count, is complete at once. -/
def execLaneInject (lane : Nat) (v : Word) (s : State) : Host.Outcome State Fault Refusal :=
  finish s (s.command (Reg.LNK_LN_INJ lane) v.toNat fun s =>
    s.onlyIn [.service, .dryrun] (Reg.LNK_LN_INJ lane) fun s =>
      let m := bitsOf v.toNat 2 0
      s.setReg (Reg.LNK_LN_INJ (lane % 72)) (if m < 3 ∨ bitsOf v.toNat 15 8 = 0 then 0 else v.toNat))

/-- A PRBS setting may be written now (R244). -/
def State.prbsAllowed (s : State) (p : Nat) : Bool :=
  let st := (s.lane p).state
  decide (st = .training ∨ st = .spareCal) || decide (s.glb.mode = .service)
    || (decide (s.glb.mode = .ready) && s.run.isNone)

/-- LANE_PRBS (R244). What the checker finds in the stream that comes in is a free value. -/
def execLanePrbs (lane : Nat) (v : Word) (s : State) : Host.Outcome State Fault Refusal :=
  finish s (s.command (Reg.LNK_LN_PRBS lane) v.toNat fun s =>
    if !s.prbsAllowed lane then s.violation 4 (Reg.LNK_LN_PRBS lane) true
    else if bitsOf v.toNat 6 4 = 0 then s.setReg (Reg.LNK_LN_PRBS (lane % 72)) (bitsOf v.toNat 2 0)
    else
      let w := s.drawn
      let s := s.next.setReg (Reg.LNK_LN_PRBS (lane % 72)) (v.toNat % 128 + b2n (bitOf w 0) * 2 ^ 15)
      if bitOf w 0 then s.bumpBy (Reg.LNK_LN_PRBS_ERR (lane % 72)) (bitsOf w 32 1) else s)

/-- CHALLENGE_RESEND (R236, R237). -/
def execChallengeResend (t : Nat) (s0 : State) : Host.Outcome State Fault Refusal :=
  let s := s0.at_ t
  finish s0 (
    match s.lnk.challenge with
    | none => s
    | some (nm, start, last) =>
      if start + msTu 50 ≤ s.time then ((s.identFails true).linkUpNow).trainDone
      else if last + msTu 1 ≤ s.time then
        ({ s with lnk := { s.lnk with challenge := some (nm, start, s.time) } } : State).sendChallenge nm
      else s)

/-- SPARE_RECAL (R243). -/
def execSpareRecal (lane : Nat) (r : LaneRecal) (s : State) : Host.Outcome State Fault Refusal :=
  finish s (
    if s.linkOn && s.run.isSome && s.bit Reg.LNK_CTRL 3 && decide ((s.lane lane).state = .spare)
        && (List.range 72).any (fun p => decide (p ≠ lane ∧ (s.lane p).state = .spare)) then
      (s.recalLane { r with lane := lane }).1
    else s)

/-- LNK_MBX_RD passes the mirror's pointer: the mirror moves to it, and the entries passed over are counted (R340). -/
def State.mirrorFollow (s : State) : State :=
  let n := s.mbxEntries
  let wr := s.reg Reg.LNK_MBX_WR
  let unsent := (wr + n - s.reg Reg.NET_MIR_RD % n) % n
  let held := (wr + n - s.reg Reg.LNK_MBX_RD % n) % n
  if held < unsent then
    let s := (s.setReg Reg.NET_MIR_RD (s.reg Reg.LNK_MBX_RD)).bumpBy Reg.NET_MIR_SKIP (unsent - held)
    { s with net := { s.net with skipped := min (s.net.skipped + (unsent - held)) 0xFFFFFFFF,
                                 arrivals := s.net.arrivals.drop (unsent - held) } }
  else s

/-- MAILBOX_READ_ADVANCE (R229). -/
def execMailboxReadAdvance (v : Word) (s : State) : Host.Outcome State Fault Refusal :=
  finish s (s.command Reg.LNK_MBX_RD v.toNat fun s => (s.setReg Reg.LNK_MBX_RD (v.toNat % 2 ^ 24)).mirrorFollow)

end Sys2Proof.Machine
end

