-- ==== Sys2Proof/Machine/Sensors.lean ====
section
/-! DEFINITION. The temperature and ageing sensors (12_power_clocks.md, R366, R367). -/

namespace Sys2Proof.Machine

/-- The die sensors that have converted (Table 12.11: numbers 0 to 23). -/
def State.dieTemps (s : State) : List Int :=
  ((List.range 24).filter fun n => (s.thm.conv.getD n []) ≠ []).map s.temp

/-- THM_LIM.WARN. -/
def State.warnLimit (s : State) : Int := signedOf 16 (s.field Reg.THM_LIM 15 0)
/-- THM_LIM.CRIT. -/
def State.critLimit (s : State) : Int := signedOf 16 (s.field Reg.THM_LIM 31 16)

/-- A condition of R366: it rises when any reading reaches the limit and falls when every one is below the limit less the
hysteresis. -/
def thermalNow (temps : List Int) (limit hyst : Int) (now : Bool) : Bool :=
  if now then !(temps.all fun t => decide (t < limit - hyst)) else temps.any fun t => decide (limit ≤ t)

/-- The thresholds on the readings as they stand (R366). -/
def State.thermal (s : State) : State :=
  let hyst : Int := s.field Reg.THM_HYST 15 0
  let w := thermalNow s.dieTemps s.warnLimit hyst s.thm.warn
  let c := thermalNow s.dieTemps s.critLimit hyst s.thm.crit
  let w0 := s.thm.warn
  let c0 := s.thm.crit
  let s : State := { s with thm := { s.thm with warn := w, crit := c } }
  let s := if w && !w0 then s.raise .thmWarn else s
  let s := if c && !c0 then s.raise .thmCrit else s
  if c then s.truncateNow 0x03 else s

/-- A conversion of a sensor comes in. -/
def State.convert (s : State) (n : Nat) (raw : Int) : State :=
  { s with thm := { s.thm with conv := s.thm.conv.modify n fun l => (raw :: l).take 4 } }

/-- 125 °C or above on the last two conversions of a die sensor (R366). -/
def State.trips (s : State) (n : Nat) : Bool :=
  match s.thm.conv.getD n [] with
  | a :: b :: _ => decide (n < 24 ∧ 32000 ≤ a ∧ 32000 ≤ b)
  | _ => false

/-- SENSOR_CONVERSION (R366): `raw` in Q8.8 °C. -/
def execSensorConversion (n : Nat) (raw : Int) (t : Nat) (s0 : State) : Host.Outcome State Fault Refusal :=
  let s := s0.at_ t
  finish s0 (
    if s.pwr.state = 4 ∨ 28 ≤ n then s
    else
      let s := s.convert n raw
      if s.trips n then ({ s with pwr := { s.pwr with tripped := decide (0 < s.pwr.vaux) } } : State).powerOff
      else if n < 24 then s.thermal else s)

/-- An ageing measurement of every domain, in 0.001 % (R367). -/
def State.measureAge (s : State) (counts : List Nat) : State :=
  (List.range 10).foldl (fun s d =>
    let v := counts.getD d 0 % 65536
    let s := s.setReg (Reg.THM_AGE_d (d % 10)) v
    if s.field Reg.THM_AGE_WARN 15 0 ≤ v ∧ d ∉ s.thm.aged then
      ((({ s with thm := { s.thm with aged := d :: s.thm.aged } } : State).raise .thmWarn).trigger 0x44 0)
    else s) s

/-- AGEING_MEASURE (R367). -/
def execAgeingMeasure (counts : List Nat) (s : State) : Host.Outcome State Fault Refusal :=
  finish s (if s.bit Reg.THM_CTRL 0 && decide (s.pwr.state < 2) then s.measureAge counts else s)

end Sys2Proof.Machine
end

