-- ==== Sys2Proof/Machine/Bringup.lean ====
section
/-! DEFINITION. Upsett, SET_MODE, TRAIN and CALIBRATE (14_startup_faults.md, R396 to R404). -/

namespace Sys2Proof.Machine

/-! Steps of Upsett (Table 14.2). Each answers the state and whether it failed. -/

/-- An image is valid (R396). -/
def State.fwValid (s : State) (x : FwImage) : Bool :=
  x.magicOk && decide (x.length ≤ 0xFFF000 ∧ x.rollback ≤ 63 ∧ s.glb.fwMin ≤ x.rollback) && x.keyOk && x.sigOk

/-- The valid image that Upsett loads: true for B (R396). -/
def State.fwPick (s : State) : Option (Bool × FwImage) :=
  let a := s.glb.fwA
  let b := s.glb.fwB
  match s.fwValid a, s.fwValid b with
  | false, false => none
  | true, false => some (false, a)
  | false, true => some (true, b)
  | true, true =>
    let b? := if a.rollback = b.rollback then (if a.version = b.version then s.glb.strapImg else decide (a.version < b.version))
      else decide (a.rollback < b.rollback)
    some (b?, if b? then b else a)

/-- 0x01 FW_AUTH. -/
def State.stepFw (s : State) : State × Bool :=
  match s.fwPick with
  | none => (s, true)
  | some (b, x) => ((s.setReg Reg.GLB_FW (b2n b + 256 * x.rollback)).setReg Reg.GLB_FW_VER (x.version % 2 ^ 32), false)

/-- 0x02 NOR_MOUNT (R388): the withy pool comes into sight; the first mount after a cold start looks for sectors that no spare
replaced (R383), and the first Upsett records the start. -/
def State.stepNor (s : State) : State × Bool :=
  if !s.rcr.invValid then ({ s with rcr := { s.rcr with invFault := true, mounted := false } }, true)
  else
    let first := s.glb.firstUpsett
    let s : State := { s with
      glb := { s.glb with firstUpsett := false },
      rcr := { s.rcr with mounted := true, invFault := false,
                          ramOnly := if first then s.rcr.missing.isSome else s.rcr.ramOnly } }
    (if first then s.trigger 0x40 (b2n s.pwr.trippedLast) else s, false)

/-- 0x03 SRAM: words are initialised; the sets keep what was written to them (R279). -/
def State.stepSram (s : State) (u : UpsettInput) : State × Bool := ({ s with sram := {} }, u.sramFail)

/-- The structures of Table 10.19: code, type of region, base, size. -/
def State.placed (s : State) : List (Nat × RegionType × Nat × Nat) :=
  [(0x01, .staging, s.stgBase, s.stgSlots * s.stgAllot + s.stgChunks * 4096),
   (0x02, .footprint, s.fpBase, s.fpSlots * 131072),
   (0x03, .figure, s.reg64 Reg.FIG_RING_BASE_LO Reg.FIG_RING_BASE_HI, s.figSize),
   (0x04, .corrmap, s.reg64 Reg.COR_DMAP_BASE_LO Reg.COR_DMAP_BASE_HI, 2 * s.dmapRows * 4096),
   (0x05, .tables, s.bankBase false, 0x800000),
   (0x06, .tables, s.bankBase true, 0x800000),
   (0x07, .job, s.reg64 Reg.STG_CMAP_BASE_LO Reg.STG_CMAP_BASE_HI, 8 * s.stgChunks),
   (0x08, .job, s.reg64 Reg.BMF_LEDGER_BASE_LO Reg.BMF_LEDGER_BASE_HI, s.ledgerSlots * 0x200000),
   (0x09, .job, s.reg64 Reg.ECC_HIST_BASE_LO Reg.ECC_HIST_BASE_HI, 0x600000),
   (0x0A, .telemetry, s.reg64 Reg.LNK_MBX_BASE_LO Reg.LNK_MBX_BASE_HI, 64 * s.mbxEntries)]

/-- The codes of the structures that fail the placement check (R293). -/
def State.misplaced (s : State) : List Nat :=
  let rs := s.regions
  let all := s.placed
  (all.filter fun x =>
    !placedOk rs x.2.1 x.2.2.1 x.2.2.2 || all.any fun y =>
      y.1 != x.1 && decide (x.2.2.1 < y.2.2.1 + y.2.2.2 ∧ y.2.2.1 < x.2.2.1 + x.2.2.2)).map (·.1)

/-- The physical channels as an Upsett assigns them (R286). -/
def Withy.channels (w : Withy) : List Chan :=
  (List.range 64).map fun p =>
    let st := p / 16
    let usable := fun (q : Nat) => !w.chanFailed.contains q && !w.chanRetired.contains q
    let k := ((List.range (p % 16)).filter fun i => usable (16 * st + i)).length
    if w.chanRetired.contains p then { state := .retired }
    else if w.chanFailed.contains p then { state := .failed }
    else if k < 15 then { state := .active, logical := k }
    else if k = 15 then { state := .spare }
    else {}

/-- The logical channels that no channel carries. -/
def State.orphans (s : State) : List Nat := (List.range 60).filter fun l => (s.chanOf l).isNone

/-- A number that counts as 0 at time 0 stands in no sparse list. -/
def stampAll (t : Nat) : List (Nat × Nat) := if t = 0 then [] else (List.range 60).map fun l => (l, t)

/-- 0x04 DRAM (R286, R290, R291, R293, R301): checks, assignment, training, and zeros in every mapped beat. -/
def State.stepDram (s : State) (u : UpsettInput) : State × Bool :=
  let bad := s.misplaced
  if !regionsOk s.regions || bad ≠ [] then
    let s : State := { s with dram := { s.dram with cfgErr := true } }
    (if regionsOk s.regions then bad.foldl (fun s c => s.eccLog 0x11 0 0 0xFF c 0) s else s, true)
  else
    let ord := s.field Reg.MEM_CTRL 1 0
    let s : State := { s with dram := {
      order := if ord = 3 then 0 else ord, chans := s.rcr.live.channels, passes := s.dram.passes, passAt := stampAll s.time,
      log := s.dram.log, hot := s.dram.hot, usable := true } }
    let un := s.orphans
    let s := un.foldl (fun s l =>
      ((({ s with dram := { s.dram with unbacked := ssAdd l s.dram.unbacked } } : State).eccLog 0x0A 0 5 0xFF 0 0).raise .memErr)) s
    let s := s.trainAll u.dram
    ({ s with dram := { s.dram with fills := [], cells := [], marks := [], flips := [], copies := [], sweeps := [],
                                    initDone := true } }, false)

/-- The states of the weavers by the withy pool (R59). -/
def State.weaverStates (s : State) : State :=
  let gone := s.rcr.live.weavers
  { s with wvr := { s.wvr with weavers := s.wvr.weavers.zipIdx.map fun (x : Weaver × Nat) =>
      let k := x.2 / 17
      let before := ((List.range (x.2 % 17)).filter fun i => !gone.contains (17 * k + i)).length
      { x.1 with st := if gone.contains x.2 then .retired else if before < 16 then .working else .spare,
                 suspect := smGet (fun _ => 0) s.rcr.live.suspects x.2 } } }

/-- 0x05 WEAVERS: a weaver whose test differs is retired. -/
def State.stepWeavers (s : State) (u : UpsettInput) : State × Bool :=
  let s := s.weaverStates
  let s := u.weaverDiff.foldl (fun s w => if w < 136 then s.retireWeaver w else s) s
  (s, !(s.wvr.weavers.any fun w => w.st == .working))

/-- The re-weave draw is seeded (R87, R91). -/
def State.seedDraw (s : State) : State :=
  let x := s.reg Reg.WVR_RW_SEED
  { s with wvr := { s.wvr with lfsr := BitVec.ofNat 32 (if x = 0 then 1 else x) } }

/-- 0x06 RIM (R230): lanes that the pool records as retired take no part. -/
def State.stepRim (s : State) (u : UpsettInput) : State × Bool :=
  let gone := s.rcr.live.lanes
  let s : State := { s with lnk := { s.lnk with lanes := s.lnk.lanes.zipIdx.map fun (x : Lane × Nat) =>
    if (gone.contains x.2) then { x.1 with state := .retired } else x.1 } }
  (if s.bit Reg.LNK_CTRL 0 then s.trainLink u.rim false else s, false)

/-- 0x07 SENSORS (R366, R367). -/
def State.stepSensors (s : State) (u : UpsettInput) : State × Bool :=
  let s : State := { s with
    thm := { s.thm with conv := (List.range 28).map fun n => [u.temps.getD n 0] }, clk := { s.clk with aonLocked := s.clk.ref156 } }
  let s := (s.thermal).measureAge u.age
  (s, s.thm.crit)

/-- 0x08 PATH: both slath banks (R26) and the test stripe. -/
def State.stepPath (s : State) (u : UpsettInput) : State × Bool :=
  ({ s with dram := { s.dram with cells := [], fills := [(s.bankBase false, 0x200000, true), (s.bankBase true, 0x200000, true)] } },
    u.pathDiff)

/-- Upsett's step n (Table 14.2), and whether it fails. -/
def State.upsettStep (u : UpsettInput) (n : Nat) (s : State) : State × Bool :=
  match n with
  | 1 => s.stepFw
  | 2 => s.stepNor
  | 3 => s.stepSram u
  | 4 => s.stepDram u
  | 5 => s.seedDraw.stepWeavers u
  | 6 => s.stepRim u
  | 7 => s.stepSensors u
  | _ => s.stepPath u

/-- Run steps until one fails: its code, or 0 (R397, R398). -/
def State.runSteps (u : UpsettInput) : List Nat → State → State × Nat
  | [], s => (s, 0)
  | n :: rest, s =>
    let r := (s.setField Reg.GLB_UPSETT_STAT 7 0 n).upsettStep u n
    let s := r.1.setReg (Reg.GLB_UPSETT_MS_1 ((n - 1) % 16)) (u.ms.getD (n - 1) 0 % 2 ^ 32)
    if r.2 then (s.setField Reg.GLB_UPSETT_STAT 15 8 n, n) else State.runSteps u rest s

/-- Upsett (R397 to R399): work in READY or SERVICE is abandoned as on entry to DORMANT, and no plate temperature counts as
accepted any more (R169). -/
def State.upsett (s : State) (u : UpsettInput) (auto : Bool) : State × Nat :=
  let s := if s.glb.mode = .dormant then s else { s.clearJob with sets := { s.sets with sealed := false } }
  let s := s.enterMode .upsett
  let s : State := { s with lnk := { s.lnk with accepted := [none, none, none, none], temps := [] } }
  let s := s.setReg Reg.GLB_UPSETT_STAT (b2n auto * 2 ^ 17)
  match s.runSteps u [1, 2, 3, 4, 5, 6, 7, 8] with
  | (s, 0) => ((s.setField Reg.GLB_UPSETT_STAT 16 16 1).enterMode .ready, 0)
  | (s, n + 1) => (s.enterMode .dormant, n + 1)

/-- UPSETT_AUTO_START (R399). -/
def execUpsettAutoStart (t : Nat) (u : UpsettInput) (s0 : State) : Host.Outcome State Fault Refusal :=
  let s := s0.at_ t
  finish s0 (if s.glb.autoDue && s.glb.mode == .dormant && s.domOn 9 then (s.autoRun.upsett u true).1 else s)

/-! SET_MODE (R401, Table 14.3). -/

/-- A move of Table 14.3; none is STATE, true a move that a bound run forbids. -/
def modeMove (m n : Mode) : Option Bool :=
  if m = n then some false
  else
    match m, n with
    | .dormant, .upsett => some false
    | .ready, _ => some false
    | .expose, .dormant => some true
    | .expose, .ready => some true
    | .dryrun, .dormant => some true
    | .dryrun, .ready => some true
    | .service, .dormant => some false
    | .service, .upsett => some false
    | .service, .ready => some false
    | _, _ => none

/-- What refuses a move into EXPOSE or DRYRUN (R238, Table 14.5): status and detail. -/
def State.moveRefused (s : State) (n : Mode) : Option (Nat × Nat) :=
  let expose := decide (n = .expose)
  if expose && !s.lnk.partnerOk && s.lnk.partner == 2 then some (Stat.auth, 0)
  else if expose && (!s.lnk.linkUp || !s.lnk.lanesOk || s.lnk.partner != 2) then some (Stat.state, 0)
  else if decide (n = .expose ∨ n = .dryrun) && !s.dram.unbacked.isEmpty then some (Stat.state, 0x42)
  else if expose && s.thm.crit then some (Stat.state, 0x41)
  else none

/-- The checks of step 2 for SET_MODE. -/
def State.setModeState (s : State) (n : Mode) : Option (Nat × Nat) :=
  match modeMove s.glb.mode n with
  | none => some (Stat.state, 0)
  | some _ => if s.glb.mode = n then none else s.moveRefused n

/-- The format of SET_MODE (Table 9.6). -/
def setModeFormat (e : CurEntry) : Option Nat :=
  if 8 ≤ fieldLE e.bytes 8 1 ∨ !zeroBytes e 9 39 then some 0x02
  else if 5 < fieldLE e.bytes 8 1 then some 0x03
  else none

/-- All modes. -/
def Mode.all : List Mode := [.dormant, .upsett, .ready, .expose, .dryrun, .service]

/-- SET_MODE once its checks have passed (R401, R353). -/
def State.setMode (s : State) (r : Nat) (n : Mode) (u : UpsettInput) : State :=
  let s := if !n.allows s.pwr.state || s.pwr.state == 5 then s.autoRun else s
  if s.glb.mode = n then s.answer r Stat.ok 0 0
  else if n = .upsett then
    match s.upsett u false with
    | (s, 0) => s.answer r Stat.ok 0 0
    | (s, k + 1) => s.answer r Stat.internal 0 (k + 1)
  else (s.enterMode n).answer r Stat.ok 0 0

/-- SET_MODE (R401): it waits for a post-package repair in progress (R402). -/
def execSetMode (ring : Nat) (t : Nat) (u : UpsettInput) (s0 : State) : Host.Outcome State Fault Refusal :=
  let s := s0.at_ t
  finish s0 (
    match s.command? ring 0x02 none with
    | none => s
    | some e =>
      let n := (Mode.ofCode (fieldLE e.bytes 8 1 % 8)).getD .dormant
      s.checked ring e (setModeFormat e) Mode.all true (fun s =>
        if s.pwr.trans.isSome then s.refuse ring Stat.busy 0
        else if s.dram.ppr.isSome && decide (s.glb.mode ≠ n) then s
        else s.setMode ring n u)
        (bound := if modeMove s.glb.mode n = some true then Mode.all else []) (also := s.setModeState n))

/-! TRAIN and CALIBRATE (R230, R301, R302, R400). -/

/-- The format of TRAIN and CALIBRATE: the target alone is given. -/
def targetFormat (e : CurEntry) : Option Nat := if zeroBytes e 9 39 then none else some 0x02

/-- TRAIN RIM (R230, R237): an answer to the challenge that is still to come is waited for. -/
def execTrainRim (ring : Nat) (r : RimTraining) (s : State) : Host.Outcome State Fault Refusal :=
  finish s (
    match s.command? ring 0x06 (some (8, 0)) with
    | none => s
    | some e =>
      s.checked ring e (targetFormat e) [.ready, .service] true fun s => s.awake fun s =>
        let s := s.trainLink r true
        if s.lnk.challenge.isSome then s.setWait ring .identity
        else s.answer ring Stat.ok 0 (s.readReg Reg.LNK_STATUS))

/-- TRAIN DRAM (R301): RESULT counts the channels that passed and those that failed. -/
def execTrainDram (ring : Nat) (r : List ChanTraining) (s : State) : Host.Outcome State Fault Refusal :=
  finish s (
    match s.command? ring 0x06 (some (8, 1)) with
    | none => s
    | some e =>
      s.checked ring e (targetFormat e) [.service] true fun s => s.awake fun s =>
        let xs := r.filter fun x => decide (x.chan < 64 ∧ (s.chan x.chan).state ≠ .retired)
        let failed := (xs.filter fun x => (s.failedStep x).isSome).length
        let s := s.trainAll r
        s.answer ring Stat.ok 0
          ((xs.length - failed) % 128 + 2 ^ 8 * (failed % 128) + 2 ^ 16 * b2n (!s.dram.unbacked.isEmpty)))

/-- CALIBRATE UPSETT_SET (R400): the weavers, the sensors and the test stripe, which leaves the slath banks alone. -/
def execCalibrateUpsettSet (ring : Nat) (u : UpsettInput) (s : State) : Host.Outcome State Fault Refusal :=
  finish s (
    match s.command? ring 0x07 (some (8, 0)) with
    | none => s
    | some e =>
      s.checked ring e (targetFormat e) [.ready, .service] true fun s => s.awake fun s =>
        match s.stepWeavers u with
        | (s, true) => s.answer ring Stat.ok 0 5
        | (s, false) =>
          match s.stepSensors u with
          | (s, true) => s.answer ring Stat.ok 0 7
          | (s, false) => s.answer ring Stat.ok 0 (if u.pathDiff then 8 else 0))

/-- The lanes that a re-calibration takes: ACTIVE and SPARE (R243). -/
def State.laneRecals (s : State) (p : Nat) : Bool :=
  decide (p < 72 ∧ ((s.lane p).state = .active ∨ (s.lane p).state = .spare))

/-- CALIBRATE RIM_RECAL (R243, R400): RESULT counts the lanes re-calibrated and those made FAILED. -/
def execCalibrateRimRecal (ring : Nat) (r : List LaneRecal) (s : State) : Host.Outcome State Fault Refusal :=
  finish s (
    match s.command? ring 0x07 (some (8, 1)) with
    | none => s
    | some e =>
      s.checked ring e (targetFormat e) [.ready, .expose, .dryrun, .service] true (fun s => s.awake fun s =>
        let out := (r.filter fun x => s.laneRecals x.lane).foldl (fun (a : State × Nat × Nat) x =>
          match a.1.recalLane x with
          | (s, true) => (s, a.2.1, a.2.2 + 1)
          | (s, false) => (s, a.2.1 + 1, a.2.2)) (s, 0, 0)
        out.1.answer ring Stat.ok 0 (out.2.1 % 128 + 2 ^ 8 * (out.2.2 % 128)))
        (bound := [.expose, .dryrun]))

/-- CALIBRATE SENSORS (R400): RESULT is the hottest die reading. -/
def execCalibrateSensors (ring : Nat) (temps : List Int) (age : List Nat) (s : State) : Host.Outcome State Fault Refusal :=
  finish s (
    match s.command? ring 0x07 (some (8, 2)) with
    | none => s
    | some e =>
      s.checked ring e (targetFormat e) [.dormant, .ready, .expose, .dryrun, .service] true fun s => s.awake fun s =>
        let s : State := { s with thm := { s.thm with conv := (List.range 28).map fun n =>
          match temps[n]? with | some v => [v] | none => s.thm.conv.getD n [] } }
        let s := s.thermal.measureAge age
        s.answer ring Stat.ok 0 (unsignedOf 16 s.hottest.2))

/-- CALIBRATE DRAM_RECAL (R302): RESULT counts the channels recalibrated. -/
def execCalibrateDramRecal (ring : Nat) (r : List ChanMargins) (s : State) : Host.Outcome State Fault Refusal :=
  finish s (
    match s.command? ring 0x07 (some (8, 3)) with
    | none => s
    | some e =>
      s.checked ring e (targetFormat e) [.ready, .expose, .dryrun, .service] true fun s => s.awake fun s =>
        let xs := r.filter fun m => s.recals m.chan
        (xs.foldl (fun s m => s.recalChan m) s).answer ring Stat.ok 0 (xs.length % 128))

end Sys2Proof.Machine
end

