-- ==== Sys2Proof/Machine/JobKey.lean ====
section
/-! DEFINITION. LOAD_JOB_KEY (R37, R38, R275). -/

namespace Sys2Proof.Machine

/-- The format of LOAD_JOB_KEY (Table 9.6). -/
def loadKeyFormat (e : CurEntry) : Option Nat :=
  if !zeroBytes e 16 32 then some 0x02 else if fieldLE e.bytes 8 8 % 8 ≠ 0 then some 0x06 else none

/-- The H2F descriptor in flight of a ring: accepted and not complete (R275). -/
def Ring.h2f (x : Ring) : Option CurEntry := x.cur.filter fun e => fieldLE e.bytes 0 1 == 4 && e.held.isNone
  && (e.waiting || e.moved.isSome)

/-- H2F descriptors are in flight (R275). -/
def State.h2fFlying (s : State) : Bool := s.hst.rings.any fun p => isDmaRing p.1 && p.2.h2f.isSome

/-- A successful LOAD_JOB_KEY (R38, R70, R80, R122, R152, R154, R182, R275, R283): `key` is the job key it unwrapped from the block. -/
def State.installKey (s : State) (blk key : List Byte) : State :=
  let s := s.clearJob
  let s : State := { s with fig := { key := some key, jobId := fieldLE blk 16 8, salt := fieldLE blk 24 4,
                                     errlog := s.fig.errlog } }
  s.setReg Reg.SET_SWAP_COUNT 0

/-- The checks of the fetched block and what follows them (R37). H2F descriptors in flight complete first (R275). -/
def State.useKeyBlock (s : State) (r : Nat) (blk : HostRead) : State :=
  match blk with
  | .fail _ _ => s.refuse r Stat.internal 0x20
  | .data b =>
    match unwrapBlock s.glb.kwk s.glb.kwkId.toNat 1 b with
    | none => s.refuse r Stat.auth 0
    | some key => if s.h2fFlying then s.setWait r (.loadKey blk) else (s.installKey b key).answer r Stat.ok 0 0

/-- The answer to the fetch of the key block has the block's 88 bytes, or failed. -/
def keyBlockFits (blk : HostRead) : Bool :=
  match blk with | .data b => b.length == 88 | .fail _ _ => true

/-- LOAD_JOB_KEY (R37). -/
def execLoadJobKey (ring : Nat) (blk : HostRead) (s : State) : Host.Outcome State Fault Refusal :=
  finish s (
    match s.command? ring 0x01 none with
    | none => s
    | some e =>
      s.checked ring e (loadKeyFormat e) [.ready] true fun s =>
        if keyBlockFits blk then s.awake fun s => s.useKeyBlock ring blk else s)

/-- A LOAD_JOB_KEY that waits for the last H2F descriptor in flight goes on (R275). -/
def State.resumeLoadKey (s : State) : State :=
  s.hst.waits.foldl (fun s w =>
    match w.2 with
    | .loadKey blk => if s.h2fFlying then s else (s.dropWait w.1).useKeyBlock w.1 blk
    | _ => s) s

end Sys2Proof.Machine
end

