-- ==== Sys2Proof/Machine/Dma.lean ====
section
/-! DEFINITION. The DMA engines and the figure ring's ingest (R270 to R278). A descriptor's command checks it and moves its bytes;
its completion waits for DESCRIPTOR_COMPLETE. -/

namespace Sys2Proof.Machine

/-- The fields of a descriptor (Table 9.8). -/
structure Desc where
  kind : Nat
  src : Nat
  dst : Nat
  rowBytes : Nat
  rows : Nat
  srcStride : Nat
  dstStride : Nat
deriving DecidableEq, Repr

/-- KIND of H2L. -/
abbrev kindH2L : Nat := 1
/-- KIND of L2H. -/
abbrev kindL2H : Nat := 2
/-- KIND of L2L. -/
abbrev kindL2L : Nat := 3
/-- KIND of H2F. -/
abbrev kindH2F : Nat := 4

/-- The descriptor that an entry holds. -/
def CurEntry.desc (e : CurEntry) : Desc where
  kind := fieldLE e.bytes 0 1
  src := fieldLE e.bytes 8 8
  dst := fieldLE e.bytes 16 8
  rowBytes := fieldLE e.bytes 24 4
  rows := fieldLE e.bytes 28 3
  srcStride := fieldLE e.bytes 32 6
  dstStride := fieldLE e.bytes 40 6

/-- The bytes that a descriptor moves. -/
def Desc.total (d : Desc) : Nat := d.rowBytes * d.rows

/-- The last byte of an extent (R273). -/
def Desc.last (d : Desc) (a stride : Nat) : Nat := a + (d.rows - 1) * stride + d.rowBytes - 1

/-- The source of a kind is local. -/
def Desc.fromLocal (d : Desc) : Bool := decide (d.kind = kindL2H ∨ d.kind = kindL2L)

/-- The destination of a kind is a local address. -/
def Desc.toLocal (d : Desc) : Bool := decide (d.kind = kindH2L ∨ d.kind = kindL2L)

/-- A reserved field of the entry is not zero (Table 9.8). -/
def CurEntry.descReserved (e : CurEntry) : Bool :=
  let d := e.desc
  decide (bitsOf (fieldLE e.bytes 0 4) 30 9 ≠ 0 ∨ fieldLE e.bytes 31 1 ≠ 0 ∨ fieldLE e.bytes 38 2 ≠ 0
      ∨ fieldLE e.bytes 46 2 ≠ 0)
    || (d.fromLocal && decide (2 ^ 40 ≤ d.src)) || (d.toLocal && decide (2 ^ 40 ≤ d.dst))
    || decide (d.kind = kindH2F ∧ 2 ^ 48 ≤ d.dst)

/-- Source and destination extents of an L2L overlap (R273). -/
def Desc.overlaps (d : Desc) : Bool := decide (d.src ≤ d.last d.dst d.dstStride ∧ d.dst ≤ d.last d.src d.srcStride)

/-- An extent lies in a window; one whose limit is below its base is empty (R273). -/
def inWindow (base limit a last : Nat) : Bool := decide (base ≤ a ∧ last ≤ limit)

/-- The range of stream offsets of an H2F descriptor: first, and past the last. -/
def Desc.stream (d : Desc) : Nat × Nat := (d.dst, d.dst + d.total)

/-- The ranges held above D: written, and in flight (R274). -/
def State.figRanges (s : State) : List (Nat × Nat) :=
  s.fig.ranges ++ s.hst.rings.filterMap fun p => if isDmaRing p.1 then p.2.h2f.map fun e => e.desc.stream else none

/-- The checks of an H2F range (R275). -/
def State.streamCheck (s : State) (d : Desc) : Option (Nat × Nat) :=
  let lo := d.stream.1
  let hi := d.stream.2
  if 2 ^ 48 < hi ∨ lo < s.fig.released then some (Stat.bounds, 0x12)
  else if decide (lo < s.fig.delivered) || s.figRanges.any (fun p => decide (p.1 < hi ∧ lo < p.2)) then
    some (Stat.bounds, 0x05)
  else if 64 ≤ s.figRanges.length then some (Stat.bounds, 0x12)
  else none

/-- The checks of a descriptor, in their order (R273, R275). -/
def State.descCheck (s : State) (r : Nat) (e : CurEntry) : Option (Nat × Nat) :=
  let d := e.desc
  let win := fun (o : Nat) => s.reg64 (ringReg r o) (ringReg r (o + 4))
  let host := fun (a stride : Nat) => inWindow (win 0x20) (win 0x28) a (d.last a stride)
  let local_ := fun (a stride : Nat) => inWindow (win 0x30) (win 0x38) a (d.last a stride)
  if e.descReserved then some (Stat.format, 0x02)
  else if d.rowBytes = 0 ∨ d.rows = 0 then some (Stat.format, 0x04)
  else if d.kind = kindH2F ∧ d.dstStride ≠ 0 then some (Stat.format, 0x03)
  else if decide (d.kind = kindL2L) && d.overlaps then some (Stat.format, 0x05)
  else if (!d.fromLocal && !host d.src d.srcStride) || (decide (d.kind = kindL2H) && !host d.dst d.dstStride) then
    some (Stat.bounds, 0x10)
  else if (d.fromLocal && !local_ d.src d.srcStride) || (d.toLocal && !local_ d.dst d.dstStride) then
    some (Stat.bounds, 0x11)
  else if d.kind = kindH2F then s.streamCheck d
  else none

/-! Where transfer bytes lie (R272, R274). -/

/-- The source address of a transfer offset. -/
def Desc.srcAt (d : Desc) (o : Nat) : Nat := d.src + o / d.rowBytes * d.srcStride + o % d.rowBytes

/-- The destination address of a transfer offset, local or host; a local address of the figure ring for H2F. -/
def State.dstAt (s : State) (d : Desc) (o : Nat) : Nat :=
  if d.kind = kindH2F then s.figAddr (d.dst + o) else d.dst + o / d.rowBytes * d.dstStride + o % d.rowBytes

/-- Bytes of a row from transfer offset `o` on that lie together at their destination: `n` of them at most. -/
def State.runAt (s : State) (d : Desc) (o n : Nat) : Nat :=
  let row := min n (d.rowBytes - o % d.rowBytes)
  if d.kind = kindH2F then min row (s.figSize - (d.dst + o) % s.figSize) else row

/-- Write transfer bytes from offset `o` on to local memory, in transfer order; `fuel` bounds the pieces. -/
def State.placeLocal : Nat → State → Desc → Nat → List Byte → State
  | 0, s, _, _, _ => s
  | fuel + 1, s, d, o, bs =>
    if bs = [] then s
    else
      let k := max 1 (s.runAt d o bs.length)
      State.placeLocal fuel (s.memWrite (s.dstAt d o) (bs.take k)) d (o + k) (bs.drop k)

/-! Data from the host (H2L, H2F). -/

/-- The answer to the reads of host memory has the descriptor's bytes, or fails below them. -/
def Desc.fits (d : Desc) (data : HostRead) : Bool :=
  match data with
  | .data bs => bs.length == d.total
  | .fail below above =>
    decide (below.length < d.total) && above.all fun p => decide (below.length ≤ p.1 ∧ p.1 < d.total)

/-- Add to the bytes moved by an engine (DMA_ENGe_BYTES). -/
def State.countBytes (s : State) (r n : Nat) : State :=
  let lo := Reg.DMA_ENGe_BYTES_LO (r / 16 % 8)
  let hi := Reg.DMA_ENGe_BYTES_HI (r / 16 % 8)
  s.setReg64 lo hi (s.reg64 lo hi + n)

/-- The descriptor in progress of a ring has moved its data, and waits for its responses (R277). -/
def State.setMoved (s : State) (r : Nat) (e : CurEntry) (m : Moved) : State :=
  (s.countBytes r m.bytes).setRing r { s.ring r with cur := some { e with waiting := false, moved := some m } }

/-- Bytes read from host memory go to local memory (R272, R277 item 1). -/
def State.moveIn (s : State) (r : Nat) (e : CurEntry) (data : HostRead) : State :=
  let d := e.desc
  match data with
  | .data bs =>
    let s := State.placeLocal bs.length s d 0 bs
    s.setMoved r e { status := Stat.ok, detail := 0, result := d.total, bytes := d.total, toLocal := true }
  | .fail below above =>
    let s := State.placeLocal below.length s d 0 below
    let s := above.foldl (fun s p => s.memWrite (s.dstAt d p.1) [p.2]) s
    s.setMoved r e { status := Stat.internal, detail := 0x20, result := below.length, bytes := below.length,
                     toLocal := true }

/-! Data from local memory (L2H, L2L). -/

/-- The first poisoned beat of a row at `a` of `n` bytes: the offset of its first byte that the row carries (R277 item 4). -/
def State.poisonBeat (s : State) (a n : Nat) : Option Nat :=
  ((wordsOf a n).find? fun w => (s.wordAt w).poison).map fun w => w / 8 * 64 - a

/-- The bytes of a row that come from poisoned words. -/
def State.poisonBytes (s : State) (a n : Nat) : List Nat := (List.range n).filter fun i => (s.wordAt ((a + i) / 8)).poison

/-- Poison is carried into the local words that take poisoned bytes (R304). -/
def State.carryPoison (s : State) (ws : List Nat) : State :=
  ws.foldl (fun s w =>
    if s.regionAt (8 * w) = .reserve ∨ s.dram.lostWord w = true then s else s.markWord w) s

/-- One row from local memory: it is read in class INGEST, and written with its poison (R272, R277 item 4). -/
def State.moveRow (s : State) (d : Desc) (row : Nat) : State :=
  let a := d.src + row * d.srcStride
  let b := d.dst + row * d.dstStride
  let bs := s.bytesAt a d.rowBytes
  let bad := s.poisonBytes a d.rowBytes
  let s := s.touch .ingest a d.rowBytes
  if d.kind = kindL2H then
    let s := s.hostWrite b bs
    { s with hst := { s.hst with poisoned := bad.foldl (fun l i => ssAdd (b + i) l) s.hst.poisoned } }
  else (s.memWrite b bs).carryPoison ((bad.map fun i => (b + i) / 8).eraseDups)

/-- The transfer offset of the first poisoned beat of the source. -/
def State.firstPoison (s : State) (d : Desc) : Option Nat :=
  (List.range d.rows).findSome? fun row => (s.poisonBeat (d.src + row * d.srcStride) d.rowBytes).map (row * d.rowBytes + ·)

/-- Bytes of local memory go to the host or to another place (R272). -/
def State.moveOut (s : State) (r : Nat) (e : CurEntry) : State :=
  let d := e.desc
  let bad := s.firstPoison d
  let s := (List.range d.rows).foldl (fun s row => s.moveRow d row) s
  let m : Moved :=
    match bad with
    | some o => { status := Stat.internal, detail := 0x21, result := o }
    | none => { status := Stat.ok, detail := 0, result := d.total }
  s.setMoved r e { m with bytes := d.total, toHost := decide (d.kind = kindL2H), toLocal := decide (d.kind = kindL2L) }

/-! The commands. -/

/-- The descriptor of a kind at the front of a DMA ring that has not started; DMA runs (R252, R347). -/
def State.descriptor? (s : State) (r kind : Nat) : Option CurEntry :=
  if isDmaRing r && s.linkReady && !s.dmaPaused then
    (s.ring r).cur.filter fun e => e.desc.kind == kind && e.moved.isNone && !e.waiting && e.held.isNone
  else none

/-- Check a descriptor and carry it out (R273: a refused descriptor moves nothing). -/
def State.startDesc (s : State) (r kind : Nat) (f : CurEntry → State) : State :=
  match s.descriptor? r kind with
  | none => s
  | some e =>
    match s.descCheck r e with
    | some (st, d) => s.refuse r st d
    | none => f e

/-- DMA_H2L (R272). -/
def execDmaH2L (ring : Nat) (data : HostRead) (s : State) : Host.Outcome State Fault Refusal :=
  finish s (s.startDesc ring kindH2L fun e => if e.desc.fits data then s.moveIn ring e data else s)

/-- DMA_L2H (R272). -/
def execDmaL2H (ring : Nat) (s : State) : Host.Outcome State Fault Refusal :=
  finish s (s.startDesc ring kindL2H fun e => s.moveOut ring e)

/-- DMA_L2L (R272). -/
def execDmaL2L (ring : Nat) (s : State) : Host.Outcome State Fault Refusal :=
  finish s (s.startDesc ring kindL2L fun e => s.moveOut ring e)

/-- The range of an H2F descriptor reaches the release point plus the ring size (R275). -/
def State.figFull (s : State) (d : Desc) : Bool := decide (s.fig.released + s.figSize < d.stream.2)

/-- DMA_H2F (R274): a range beyond the ring's room waits (R275). -/
def execDmaH2F (ring : Nat) (data : HostRead) (s : State) : Host.Outcome State Fault Refusal :=
  finish s (s.startDesc ring kindH2F fun e =>
    if s.figFull e.desc then s.setRing ring { s.ring ring with cur := some { e with waiting := true } }
    else if e.desc.fits data then s.moveIn ring e data
    else s)

/-- FIG_WAIT (R275): a waiting descriptor goes on. -/
def execFigWait (ring : Nat) (data : HostRead) (s : State) : Host.Outcome State Fault Refusal :=
  finish s (
    match (s.ring ring).cur with
    | none => s
    | some e =>
      if isDmaRing ring && e.waiting && s.linkReady && !s.dmaPaused && !s.figFull e.desc && e.desc.fits data then
        s.moveIn ring e data
      else s)

/-! Completion (R277). -/

/-- A possible report of a transfer: offset, precedence, status and detail. -/
structure Report where
  off : Nat
  rank : Nat
  status : Nat
  detail : Nat
deriving DecidableEq, Repr

/-- A report goes before another: the lower offset; at equal offsets INTERNAL before ERR_WRITE before ERR_FLUSH. -/
def Report.before (a b : Report) : Bool := decide (a.off < b.off ∨ (a.off = b.off ∧ a.rank ≤ b.rank))

/-- The report that is made. -/
def pickReport : List Report → Option Report
  | [] => none
  | a :: l =>
    match pickReport l with
    | none => some a
    | some b => if a.before b then some a else some b

/-- What a transfer can report once its responses are in (R277). -/
def Moved.reports (m : Moved) (errs : XferErrors) : List Report :=
  (if m.status = Stat.ok then [] else [⟨m.result, 0, m.status, m.detail⟩])
    ++ (match errs.writeErr with
      | some o => if m.toLocal then [⟨o, 1, Stat.errWrite, 0⟩] else []
      | none => [])
    ++ (if errs.flushErr && m.toHost then [⟨m.bytes - 1, 2, Stat.errFlush, 0⟩] else [])

/-- `n` bytes that nothing constrains. -/
def freeBytes (k n : Nat) : List Byte :=
  ((List.range ((n + 7) / 8)).flatMap fun i => leBytes 8 (Config.freeWord (k + i)).toNat).take n

/-- The bytes that a beat answered with an error holds are not stated: they become free values (R277 item 2). -/
def State.spoilBeat (s : State) (d : Desc) (o : Nat) : State :=
  let a := s.dstAt d o
  let n := min (64 - a % 64) (s.runAt d o (d.total - o))
  let bs := freeBytes s.free n
  let s : State := { s with free := s.free + 8 }
  s.memWrite a bs

/-- The delivered mark takes in the written ranges that join it (R274); `fuel` bounds them. -/
def joinRanges : Nat → Nat → List (Nat × Nat) → Nat × List (Nat × Nat)
  | 0, d, l => (d, l)
  | fuel + 1, d, l =>
    match l.find? fun p => decide (p.1 ≤ d) with
    | none => (d, l)
    | some p => joinRanges fuel (max d p.2) (l.filter fun q => q ≠ p)

/-- The first `n` bytes of an H2F range are written (R274, R277). -/
def State.deliver (s : State) (lo n : Nat) : State :=
  let l := if n = 0 then s.fig.ranges else s.fig.ranges ++ [(lo, lo + n)]
  let j := joinRanges l.length s.fig.delivered l
  ({ s with fig := { s.fig with delivered := j.1, ranges := j.2 } } : State).freeRing

/-- The offset of a write error lies in what was written. -/
def Moved.errFits (m : Moved) (errs : XferErrors) : Bool :=
  match errs.writeErr with
  | some o => decide (o < m.bytes)
  | none => true

/-- DESCRIPTOR_COMPLETE (R277). -/
def execDescriptorComplete (ring : Nat) (errs : XferErrors) (s : State) : Host.Outcome State Fault Refusal :=
  finish s (
    match (s.ring ring).cur with
    | none => s
    | some e =>
      match e.moved with
      | none => s
      | some m =>
        if !isDmaRing ring || e.held.isSome || !m.errFits errs then s
        else
          let d := e.desc
          let s := match errs.writeErr with
            | some o => if m.toLocal then s.spoilBeat d o else s
            | none => s
          let rep := (pickReport (m.reports errs)).getD ⟨d.total, 3, Stat.ok, 0⟩
          let s := s.answer ring rep.status rep.detail rep.off
          if d.kind = kindH2F then (s.deliver d.dst rep.off).resumeLoadKey else s)

end Sys2Proof.Machine
end

