-- ==== Sys2Proof/Machine/Commands.lean ====
section
/-! DEFINITION. The commands on runs, sets, pages, counters and barriers: ARM_STRIPE, ABORT, SWAP_SET, RETIRE_PAGE, READ_COUNTERS
and SYNC (R263 to R269, R281, R282, R314). -/

namespace Sys2Proof.Machine

/-! ARM_STRIPE (R266, Table 9.7). -/

/-- The parameters of ARM_STRIPE (Table 9.7). -/
structure ArmParams where
  stripe : Nat
  kind : Nat
  down : Bool
  auto : Bool
  s0 : Nat
  len : Nat
  wStart : Nat
  predSlot : Nat
  predSerial : Nat
deriving DecidableEq, Repr

/-- The parameters that an entry carries. -/
def CurEntry.arm (e : CurEntry) : ArmParams :=
  let b := fieldLE e.bytes 10 1
  { stripe := fieldLE e.bytes 8 2, kind := b % 4, down := bitOf b 2, auto := bitOf b 3,
    s0 := fieldLE e.bytes 12 4 % 2 ^ 25, len := fieldLE e.bytes 16 4 % 2 ^ 26, wStart := fieldLE e.bytes 20 4 % 2 ^ 25,
    predSlot := fieldLE e.bytes 24 2 % 2 ^ 10, predSerial := fieldLE e.bytes 28 4 }

/-- A reserved byte or bit of ARM_STRIPE is not zero. -/
def armReserved (e : CurEntry) : Bool :=
  decide (16 ≤ fieldLE e.bytes 10 1 ∨ fieldLE e.bytes 11 1 ≠ 0 ∨ 2 ^ 25 ≤ fieldLE e.bytes 12 4 ∨ 2 ^ 26 ≤ fieldLE e.bytes 16 4
    ∨ 2 ^ 25 ≤ fieldLE e.bytes 20 4 ∨ 2 ^ 10 ≤ fieldLE e.bytes 24 2 ∨ fieldLE e.bytes 26 2 ≠ 0)
    || !zeroBytes e 32 16

/-- The ranges of the first part of Table 9.7. -/
def ArmParams.inRange (p : ArmParams) : Bool :=
  decide (p.stripe ≤ 511 ∧ p.kind ≠ 3 ∧ 1 ≤ p.len ∧ p.len ≤ 2 ^ 25 ∧ p.s0 + p.len ≤ 2 ^ 25
    ∧ (p.kind ≠ 2 → p.wStart = 0) ∧ (p.kind = 0 → p.predSlot = 0 ∧ p.predSerial = 0))

/-- The format of ARM_STRIPE. -/
def armFormat (e : CurEntry) : Option Nat :=
  if armReserved e then some 0x02 else if e.arm.inRange then none else some 0x03

/-- The conditions of Table 14.5 for ARM_STRIPE. -/
def State.armState (s : State) : Option (Nat × Nat) :=
  let expose := decide (s.glb.mode = .expose)
  if !s.dram.unbacked.isEmpty then some (Stat.state, 0x42)
  else if expose && s.thm.crit then some (Stat.state, 0x41)
  else if expose && s.plateTemps.any fun x => decide (signedOf 16 (s.field Reg.GLB_PLATE_ARM 15 0) ≤ x.2) then
    some (Stat.state, 0x40)
  else none

/-! The chain of earlier runs (Table 6.12). -/

/-- The descriptor in a ledger slot. -/
def State.slotDesc (s : State) (slot : Nat) : LedgerDesc := LedgerDesc.ofBytes (s.bytesAt (s.ledgerAddr slot) 56)

/-- The chain that a slot and a serial name, oldest first; none when a slot does not match (Table 6.12 row 2). `need` is the
depth that the later run's descriptor calls for. -/
def State.walkChain (s : State) (p : ArmParams) : Nat → Nat → Nat → Option Nat → Option (List (Nat × LedgerDesc))
  | 0, _, _, _ => none
  | fuel + 1, slot, serial, need =>
    let d := s.slotDesc slot
    if s.ledgerSlots ≤ slot then none
    else if d.jobId ≠ s.fig.jobId ∨ d.stripe ≠ p.stripe ∨ d.len ≠ p.len ∨ d.serial ≠ serial
        ∨ d.predValid ≠ decide (0 < d.depth) ∨ need.getD d.depth ≠ d.depth then none
    else if d.depth = 0 then some [(slot, d)]
    else (s.walkChain p fuel d.predSlot d.predSerial (some (d.depth - 1))).map fun l => l ++ [(slot, d)]

/-- The ticks that entry n of a slot covers: first and last (R175, R179). -/
def State.entrySpan (s : State) (slot : Nat) (d : LedgerDesc) (n : Nat) : Nat × Nat :=
  let bs := s.bytesAt (s.ledgerAddr slot + 0x30000 + 16 * n) 16
  let w0 := fieldLE bs 0 4
  let first := w0 % 2 ^ 26
  let cause := bitsOf w0 29 26
  (first, if cause = 7 ∨ cause = 8 then runTicks d.wStart d.len - 1 else first + fieldLE bs 4 2)

/-- Some 65,536 consecutive ticks of a run are covered, in any part, by more than 4,096 of its entries (R179). The windows
that begin at the last tick of an entry suffice. -/
def State.crowded (s : State) (slot : Nat) (d : LedgerDesc) : Bool :=
  let spans := (List.range (min d.entries ledgerCapacity)).map fun n => s.entrySpan slot d n
  spans.any fun x => decide (4096 < (spans.filter fun y => decide (y.1 ≤ x.2 + 65535 ∧ x.2 ≤ y.2)).length)

/-- Table 6.12 in its order: a refusal, or the chain. -/
def State.chainCheck (s : State) (p : ArmParams) : Except Nat (List (Nat × LedgerDesc)) :=
  if p.kind = 0 then .ok []
  else if s.ledgerSlots ≤ p.predSlot then .error Stat.bounds
  else
    match s.walkChain p 4 p.predSlot p.predSerial none with
    | none => .error Stat.integrity
    | some chain =>
      let prev := s.slotDesc p.predSlot
      if chain.any fun x => decide (x.2.ending = 0) || s.poisonIn (s.ledgerAddr x.1) 0x200000 then .error Stat.integrity
      else if p.kind = 1 ∧ (prev.ending ≠ 2 ∨ prev.resumeW = p.len) then .error Stat.state
      else if 3 ≤ prev.depth then .error Stat.bounds
      else if chain.any fun x => s.crowded x.1 x.2 then .error Stat.bounds
      else if p.kind = 2 ∧ p.len ≤ p.wStart then .error Stat.bounds
      else .ok chain

/-! The checks of the second part of Table 9.7. -/

/-- The set that a run will use (R266). -/
def State.armSet (s : State) (auto : Bool) : Bool := if s.sets.sealed || auto then s.shadow else s.sets.active

/-- A CLASS_ID of the job differs from the set's (R41). -/
def State.classDiffers (s : State) (b : Bool) : Bool :=
  (List.range 16).any fun c =>
    let id := s.fig.classes.getD c 0
    id != 0 && id != s.page b 0 (0x10 * c)

/-- The slath bank of a set fails (R27, R311). -/
def State.bankBad (s : State) (b : Bool) : Bool :=
  let base := s.bankBase (feedBank (s.page b 1))
  let m := s.narrowed base 0x200000
  s.poisonIn base 0x200000 || s.dram.marks.any (fun w => decide (base ≤ 8 * w ∧ 8 * w < base + 0x800000))
    || !(List.range beamCount).all fun i => slathOk i (m.wordAt (base / 8 + i)).data

/-- The checks of Table 9.7 from order 2 to 12; order 1 is the BUSY check of R263. -/
def State.armCheck (s : State) (p : ArmParams) : Except (Nat × Nat) (List (Nat × LedgerDesc)) :=
  let b := s.armSet p.auto
  let expose := decide (s.glb.mode = .expose)
  match s.stripeRec p.stripe with
  | none => .error (Stat.busy, 0x30)
  | some r =>
    if r.down ≠ p.down ∨ r.s0 ≠ p.s0 ∨ r.len ≠ p.len then .error (Stat.format, 0x31)
    else if expose && !s.lnk.down.isEmpty then .error (Stat.state, 0x32)
    else if (!s.bit Reg.TRK_CTRL 1 && !s.trk.s.anchored) || (expose && s.bit Reg.TRK_CTRL 1) then .error (Stat.state, 0x33)
    else if bitOf (s.readReg Reg.TRK_STATUS) 7 || !trackPageOk (s.page b 2) then .error (Stat.integrity, 0x34)
    else if !feedPageOk (s.page b 1) then .error (Stat.integrity, 0x35)
    else if s.pageBad b || s.rampBad b then .error (Stat.integrity, 0x36)
    else if s.classDiffers b then .error (Stat.integrity, 0x37)
    else if s.bankBad b then .error (Stat.integrity, 0x38)
    else
      match s.chainCheck p with
      | .error st => .error (st, 0x39)
      | .ok chain => if s.sets.marks.any fun m => m.setB == b then .error (Stat.integrity, 0x3A) else .ok chain

/-! What an arm does (R266). -/

/-- The set of the stripes to come has changed (R114, R192): the next stripe and an armed run that has not begun. -/
def State.setsChanged (s : State) : State :=
  let s := match s.cor.next with | some id => s.setChanged id s.nextSet | none => s
  if s.run.isSome && !s.running then
    let s := match s.cor.cur with | some id => s.setChanged id s.nextSet | none => s
    s.readOffsets s.nextSet
  else s

/-- Seal the shadow (R281). -/
def State.sealShadow (s : State) : State :=
  if s.sets.sealed then s else ({ s with sets := { s.sets with sealed := true } } : State).setsChanged

/-- The work of an armed run (R112, R116): the next stripe's for a NORMAL run of it; otherwise a new one, bound at the arm to
the set that the run will use. -/
def State.armWork (s : State) (p : ArmParams) (rec_ : StripeRec) (w : Nat) (b : Bool) : State :=
  let s := s.ensureNext
  let expect := s.nextStripe.map (·.stripe)
  let s :=
    if expect ≠ some p.stripe then
      let who := (s.nextStripe.getD rec_)
      let set := match s.nextWork with | some k => k.set.getD b | none => b
      (s.corLog 0x06 set false who.stripe who.s0).abandonNext
    else s
  let s :=
    if p.kind ≠ 0 ∨ expect ≠ some p.stripe then
      let s := s.abandonNext
      let (s, id) := s.newWork rec_ w
      let s : State := { s with cor := { s.cor with cur := some id } }
      s.bindTo id b
    else
      match s.cor.next with
      | some id =>
        let s : State := { s with cor := { s.cor with cur := some id, next := none } }
        s.setChanged id b
      | none => s
  { s with cor := { s.cor with lastBound := some p.stripe } }

/-- Wake the lanes (R246, R247): ACTIVE and SPARE lanes out of P0 return to it, and spares that took over between runs are
named by SWAP blocks (R239). -/
def State.wakeLanes (s : State) (serial : Nat) : State :=
  let wakes := fun (x : Lane) => decide (x.state = .active) || (decide (x.state = .spare) && !s.bit Reg.LNK_CTRL 1)
  let asleep := (List.range 72).filter fun p =>
    let x := s.lane p
    wakes x && decide ((x.tx = 1 ∨ x.tx = 2 ∨ x.rx = 1 ∨ x.rx = 2) ∧ x.tx < 3 ∧ x.rx < 3)
  let due := (List.range 72).filter fun p => (s.lane p).swapDue
  let s := s.sendBlocks ((asleep.map fun p => (p, lpreqBlock 0)) ++ due.map fun p => (p, swapBlock (s.lane p).llane 0 serial))
  let s := asleep.foldl (fun s p => s.modLane p fun x => { x with tx := 0, rx := 0, relockDue := true }) s
  { s with lnk := { s.lnk with lanes := s.lnk.lanes.map fun (x : Lane) => { x with swapDue := false, lastRet := s.time } } }

/-- The run that an arm binds. -/
def State.newRun (s : State) (p : ArmParams) (w depth : Nat) : Run where
  stripe := p.stripe
  kind := p.kind
  down := p.down
  s0 := p.s0
  len := p.len
  wStart := w
  serial := (s.bmf.serial + 1) % 2 ^ 32
  slot := s.bmf.turn % s.ledgerSlots
  depth := depth
  predSlot := p.predSlot
  predSerial := p.predSerial
  dry := decide (s.glb.mode = .dryrun)
  lastFrame := runTicks w p.len - 1

/-- Bind the run to the tracking loop (R190 to R192, R205). -/
def State.bindRun (s : State) (r : Run) (chain : List (Nat × LedgerDesc)) (b : Bool) : State :=
  let s : State := { s with
    run := some r,
    bmf := { s.bmf with serial := r.serial,
                        chain := chain.map fun x => { desc := x.2, base := s.ledgerAddr x.1, copies := {} } },
    trk := { s.trk with depth := 0,
                        simNext := if s.bit Reg.TRK_CTRL 1 then some ((s.time + subTu - 1) / subTu + 4096) else none } }
  let s := s.readOffsets b
  match s.run with
  | some r =>
    let below := decide (s.runPosAt r (s.time / clkTu) < 0)
    { s with run := some { r with below := below, waitStart := !below } }
  | none => s

/-- A run is armed, in the order of R266: seal, serial and slot, binding, lanes, completion. -/
def State.arm (s : State) (ring : Nat) (p : ArmParams) (rec_ : StripeRec) (chain : List (Nat × LedgerDesc)) : State :=
  let s := if p.auto then s.sealShadow else s
  let b := s.nextSet
  let prev := s.slotDesc p.predSlot
  let w := if p.kind = 1 then prev.resumeW else p.wStart
  let r := s.newRun p w (if p.kind = 0 then 0 else prev.depth + 1)
  let s := s.armWork p rec_ w b
  let s := s.bindRun r chain b
  let s := s.wakeLanes r.serial
  (s.tellBound r.serial).answer ring Stat.ok 0 (r.serial + r.slot * 2 ^ 32)

/-- ARM_STRIPE (R266). -/
def execArmStripe (ring : Nat) (t : Nat) (s0 : State) : Host.Outcome State Fault Refusal :=
  let s := s0.at_ t
  finish s0 (
    match s.command? ring 0x03 none with
    | none => s
    | some e =>
      s.checked ring e (armFormat e) [.expose, .dryrun] false (fun s =>
        match s.armCheck e.arm with
        | .error (st, d) => s.refuse ring st d
        | .ok chain =>
          match s.stripeRec e.arm.stripe with
          | some r => s.arm ring e.arm r chain
          | none => s)
        (bound := [.expose, .dryrun]) (also := s.armState))

/-! ABORT (R267, R405, R406). -/

/-- ABORT (R267): before stripe tick 0 the run is unbound; from there on it is truncated one tick below its last frame sent, and
the command waits for the end. -/
def execAbort (ring : Nat) (t : Nat) (s0 : State) : Host.Outcome State Fault Refusal :=
  let s := s0.at_ t
  finish s0 (
    match s.command? ring 0x04 none with
    | none => s
    | some e =>
      s.checked ring e (if zeroBytes e 8 40 then none else some 0x02) Mode.all false fun s =>
        match s.run with
        | none => s.answer ring Stat.ok 0 0
        | some r =>
          let s := s.setWait ring (.abort r.serial)
          s.truncate 0x0C (fun r => (r.launched : Int) - 2) false)

/-! SWAP_SET (R281, R282). -/

/-- The format of SWAP_SET: the action alone is given. -/
def swapFormat (e : CurEntry) : Option Nat := if zeroBytes e 9 39 then none else some 0x02

/-- RESULT of SWAP_SET after the action (Table 9.6): SWAPPED when the roles changed in this clock. -/
def State.swapResult (s : State) : Nat :=
  b2n s.sets.sealed + 2 * b2n (decide (s.sets.swappedAt = some s.time)) + 4 * b2n s.sets.active

/-- SWAP_SET SEAL (R281). -/
def execSwapSetSeal (ring : Nat) (s : State) : Host.Outcome State Fault Refusal :=
  finish s (
    match s.command? ring 0x05 (some (8, 0)) with
    | none => s
    | some e =>
      s.checked ring e (swapFormat e) [.ready, .expose, .dryrun] false fun s =>
        let s := s.sealShadow
        s.answer ring Stat.ok 0 s.swapResult)

/-- SWAP_SET CANCEL (R282). -/
def execSwapSetCancel (ring : Nat) (s : State) : Host.Outcome State Fault Refusal :=
  finish s (
    match s.command? ring 0x05 (some (8, 1)) with
    | none => s
    | some e =>
      s.checked ring e (swapFormat e) [.ready, .expose, .dryrun] false fun s =>
        let s := if s.sets.sealed then ({ s with sets := { s.sets with sealed := false } } : State).setsChanged else s
        s.answer ring Stat.ok 0 s.swapResult)

/-- SWAP_SET NOW (R282). -/
def execSwapSetNow (ring : Nat) (t : Nat) (s0 : State) : Host.Outcome State Fault Refusal :=
  let s := s0.at_ t
  finish s0 (
    match s.command? ring 0x05 (some (8, 2)) with
    | none => s
    | some e =>
      s.checked ring e (swapFormat e) [.dormant, .ready, .expose, .dryrun, .service] false (fun s =>
        let s := s.swapRoles.setsChanged
        s.answer ring Stat.ok 0 s.swapResult)
        (bound := [.expose, .dryrun]))

/-! RETIRE_PAGE (R314). -/

/-- The replacement of a retired page. -/
def State.replacementOf (s : State) (page : Nat) : Option Nat := (s.rcr.live.pages.find? fun p => p.1 = page).map (·.2)

/-- RESULT of RETIRE_PAGE (R314). -/
def State.retireResult (s : State) (idx : Nat) (already : Bool) : Nat :=
  idx % 65536 + b2n already * 2 ^ 16 + s.replFree * 2 ^ 32

/-- The checks of R314 and the retirement. -/
def State.retirePage (s : State) (ring a : Nat) (writeErr : Bool) : State :=
  let page := a / 65536
  if 0x1800000000 ≤ a then s.refuse ring Stat.format 0x03
  else if s.regionAt a = .reserve then s.refuse ring Stat.bounds 0x03
  else
    match s.freeReplacement with
    | none => s.refuse ring Stat.bounds 0x03
    | some idx =>
      if !s.dram.copies.isEmpty || !s.dram.sweeps.isEmpty then s.refuse ring Stat.busy 0
      else
        match s.replacementOf page with
        | some old => s.answer ring Stat.ok 0 (s.retireResult old true)
        | none =>
          if writeErr then s.refuse ring Stat.internal 0
          else
            let s := s.takeReplacement page idx
            s.answer ring Stat.ok 0 (s.retireResult idx false)

/-- RETIRE_PAGE (R314). -/
def execRetirePage (ring : Nat) (writeErr : Bool) (s : State) : Host.Outcome State Fault Refusal :=
  finish s (
    match s.command? ring 0x08 none with
    | none => s
    | some e =>
      s.checked ring e (if zeroBytes e 13 35 then none else some 0x02) [.ready, .expose, .dryrun, .service] true fun s =>
        s.awake fun s => s.retirePage ring (fieldLE e.bytes 8 5) writeErr)

/-! READ_COUNTERS (R269). -/

/-- Insert into an ascending list. -/
def insertNat (x : Nat) : List Nat → List Nat
  | [] => [x]
  | y :: l => if x ≤ y then x :: y :: l else y :: insertNat x l

/-- The offsets of a line of a register map. -/
def RegRow.offsets (r : RegRow) : List Nat :=
  (List.range r.count).flatMap fun i => (List.range r.count2).map fun j => r.base + r.step * i + r.step2 * j

/-- The RC registers of a block in ascending offset. -/
def rcOffsets (n : Nat) : List Nat :=
  ((regRows.filter fun r => decide (r.access = .rc ∧ r.base / 0x100000 = n)).flatMap RegRow.offsets).foldr insertNat []

/-- What a read of a register returns: zero while it is off or clock-off (R357). -/
def State.shown (s : State) (off : Nat) : Nat := if s.accessOff off then 0 else s.readReg off

/-- The blocks that a mask selects. -/
def maskBlocks (mask : Nat) : List Nat := (List.range 16).filter fun n => bitOf mask n

/-- The snapshot of the blocks of a mask (R269). -/
def State.counterSnapshot (s : State) (mask : Nat) : List Nat :=
  let body := (maskBlocks mask).flatMap fun n =>
    let offs := rcOffsets n
    (n + 256 * offs.length) :: offs.map s.shown
  let stamp := stampWords false (s.ptpTime s.time)
  let head := [s.tickTotal % 2 ^ 32, s.tickTotal / 2 ^ 32, stamp.getD 1 0, stamp.getD 2 0 % 65536, stamp.getD 0 0, mask]
  head ++ [4 * (8 + body.length), 0] ++ body

/-- A read clears an RC register that is not off (R11). -/
def State.clearRc (s : State) (off : Nat) : State := if s.accessOff off then s else s.setReg off 0

/-- The format of READ_COUNTERS (Table 9.6). -/
def countersFormat (e : CurEntry) : Option Nat :=
  if 2 ≤ fieldLE e.bytes 22 1 ∨ !zeroBytes e 23 25 then some 0x02
  else if fieldLE e.bytes 8 8 % 4 ≠ 0 then some 0x06
  else if fieldLE e.bytes 16 4 = 0 then some 0x04
  else none

/-- The snapshot is taken, written and, with CLEAR, cleared (R269, R277). -/
def State.readCounters (s : State) (ring : Nat) (e : CurEntry) (resp : WriteResp) : State :=
  let mask := fieldLE e.bytes 20 2
  let words := s.counterSnapshot mask
  let n := 4 * words.length
  if fieldLE e.bytes 16 4 < n then s.refuse ring Stat.bounds 0
  else
    let s := s.hostWrite (fieldLE e.bytes 8 8) (words.flatMap fun w => leBytes 4 w)
    let s := if bitOf (fieldLE e.bytes 22 1) 0 then ((maskBlocks mask).flatMap rcOffsets).foldl State.clearRc s else s
    match resp with
    | .ok => s.answer ring Stat.ok 0 n
    | .flushFailed => s.answer ring Stat.errFlush 0 (n - 1)

/-- READ_COUNTERS (R269). -/
def execReadCounters (ring : Nat) (t : Nat) (resp : WriteResp) (s0 : State) : Host.Outcome State Fault Refusal :=
  let s := s0.at_ t
  finish s0 (
    match s.command? ring 0x09 none with
    | none => s
    | some e =>
      s.checked ring e (countersFormat e) Mode.all false fun s => s.awake fun s => s.readCounters ring e resp)

/-! SYNC (R268, R54). -/

/-- SYNC BARRIER (R268): the descriptors owned now in the rings named. -/
def execSyncBarrier (ring : Nat) (s : State) : Host.Outcome State Fault Refusal :=
  finish s (
    match s.command? ring 0x0A (some (8, 0)) with
    | none => s
    | some e =>
      s.checked ring e (if zeroBytes e 9 7 && zeroBytes e 32 16 then none else some 0x02) Mode.all false fun s =>
        let named := (List.range 128).filter fun r => bitOf (fieldLE e.bytes 16 16) r
        (s.setWait ring (.barrier (named.map fun r => (r, s.ringHeld r)) named)).settleBarriers)

/-- The verify pass restarts at an offset (R54). -/
def State.restartFigure (s : State) (off : Nat) : State :=
  { s with fig := { s.fig with halted := false, pos := off, expect := .sync, sending := none, row := none } }

/-- SYNC FIGURE (R54, R268). -/
def execSyncFigure (ring : Nat) (s : State) : Host.Outcome State Fault Refusal :=
  finish s (
    match s.command? ring 0x0A (some (8, 1)) with
    | none => s
    | some e =>
      let off := fieldLE e.bytes 16 8
      s.checked ring e (if zeroBytes e 9 7 && zeroBytes e 24 24 then none else some 0x02) [.ready, .expose, .dryrun] false
        fun s => s.awake fun s =>
          if !s.fig.halted then s.refuse ring Stat.state 0
          else if off < s.fig.released ∨ 2 ^ 48 ≤ off then s.refuse ring Stat.bounds 0x12
          else (s.restartFigure off).answer ring Stat.ok 0 off)

/-- SYNC RUN_END (R268): it waits for the bound run, or the next one. -/
def execSyncRunEnd (ring : Nat) (s : State) : Host.Outcome State Fault Refusal :=
  finish s (
    match s.command? ring 0x0A (some (8, 2)) with
    | none => s
    | some e =>
      s.checked ring e (if zeroBytes e 9 7 && zeroBytes e 16 32 then none else some 0x02) [.expose, .dryrun] false fun s =>
        s.setWait ring (.runEnd (s.run.map (·.serial))))

end Sys2Proof.Machine
end

