-- ==== Sys2Proof/Machine/Net.lean ====
section
/-! DEFINITION. The network port, the PTP clock, its pulses and captures, and the telemetry mirror (11_time_and_interrupts.md, R325 to
R340). -/

namespace Sys2Proof.Machine

/-- PD_NET is on: the network and time blocks run. -/
def State.netOn (s : State) : Bool := !s.accessOff Reg.NET_CTRL

/-! Frames (R329, R331). Octets of a frame stand in the order of the wire; numbers in them are big-endian. -/

/-- The Ethernet frame check sequence of a frame (IEEE 802.3), as its four octets. -/
def etherFcs (bs : List Byte) : List Byte :=
  leBytes 4 (reflectBits 32 (crcBits 32 0x04C11DB7 0xFFFFFFFF (lsbBits bs)) ^^^ 0xFFFFFFFF)

/-- A big-endian field of a frame. -/
def fieldBE (bs : List Byte) (off n : Nat) : Nat := beNat (slice bs off n)

/-- Put octets into a frame from a place on. -/
def putBytesAt (bs : List Byte) (off : Nat) (new : List Byte) : List Byte := bs.take off ++ new ++ bs.drop (off + new.length)

/-- The frame carries an 802.1Q tag. -/
def tagged (bs : List Byte) : Bool := fieldBE bs 12 2 == 0x8100

/-- Where the EtherType of a frame stands. -/
def typeAt (bs : List Byte) : Nat := if tagged bs then 16 else 12

/-- The internet checksum over octets; one that is right sums to zero. -/
def inetSum (bs : List Byte) : Nat :=
  let n := (List.range ((bs.length + 1) / 2)).foldl (fun a i => a + (bs.getD (2 * i) 0).toNat * 256 + (bs.getD (2 * i + 1) 0).toNat) 0
  let fold := fun (x : Nat) => x % 65536 + x / 65536
  65535 - fold (fold (fold n))

/-- The pseudo header of a UDP datagram. -/
def udpPseudo (ip : List Byte) (len : Nat) : List Byte := slice ip 12 8 ++ [0, 17] ++ beBytes 2 len

/-- The transport of PTP messages: true for UDP/IPv4 (NET_PTP_CFG). -/
def State.udp (s : State) : Bool := s.bit Reg.NET_PTP_CFG 1

/-- The station address, NET_MAC. -/
def State.mac (s : State) : Nat := s.reg64 Reg.NET_MAC_LO Reg.NET_MAC_HI % 2 ^ 48

/-- Where the PTP message of a frame stands in a transport. -/
def ptpAt (udp : Bool) (bs : List Byte) : Nat := typeAt bs + 2 + (if udp then 28 else 0)

/-- The frame holds a PTP message of a transport, for sending: its EtherType, or UDP to port 319 or 320. -/
def isPtp (udp : Bool) (bs : List Byte) : Bool :=
  let e := typeAt bs
  if udp then
    fieldBE bs e 2 == 0x0800 && fieldBE bs (e + 2) 1 == 0x45 && fieldBE bs (e + 11) 1 == 17
      && decide (fieldBE bs (e + 24) 2 = 319 ∨ fieldBE bs (e + 24) 2 = 320) && decide (ptpAt true bs + 34 ≤ bs.length)
  else fieldBE bs e 2 == 0x88F7 && decide (ptpAt false bs + 34 ≤ bs.length)

/-- messageType of the PTP message. -/
def msgType (udp : Bool) (bs : List Byte) : Nat := fieldBE bs (ptpAt udp bs) 1 % 16

/-! Timestamps (R337). -/

/-- The mode of Table 11.7 for the latencies: 25G without FEC, Clause 74, Clause 108, 10G without FEC, Clause 74. -/
def State.latMode (s : State) : Nat :=
  let fec := s.field Reg.NET_CTRL 5 4 % 3
  if s.net.speed10 then (if fec = 0 then 3 else 4) else fec

/-- The PTP time at which the message point of a frame found at an instant crosses the pins (R337). -/
def State.frameTime (s : State) (t : Nat) (send : Bool) : Int :=
  let lat := if send then s.field (Reg.NET_LAT_m_TX s.latMode) 19 0 else s.field (Reg.NET_LAT_m_RX s.latMode) 19 0
  s.ptpFine t 1 + (if send then 1 else -1) * ((lat * 2 ^ 26 : Nat) : Int)

/-! Sending (R328, R329). -/

/-- ONESTEP is allowed on the frame: a Sync or Delay_Req of the selected transport with twoStepFlag 0 (R329). -/
def State.oneStepOk (s : State) (bs : List Byte) : Bool :=
  isPtp s.udp bs && decide (msgType s.udp bs ≤ 1) && !bitOf (fieldBE bs (ptpAt s.udp bs + 6) 1) 1
    && decide (ptpAt s.udp bs + 44 ≤ bs.length)

/-- The changes of a one-step frame (R329): originTimestamp, correctionField and the UDP checksum. -/
def oneStep (udp : Bool) (bs : List Byte) (time : Int) : List Byte :=
  let p := ptpAt udp bs
  let w := stampWords false time
  let sec := w.getD 1 0 + w.getD 2 0 % 65536 * 2 ^ 32
  let sub := w.getD 2 0 / 65536
  let bs := putBytesAt bs (p + 34) (beBytes 6 sec ++ beBytes 4 (w.getD 0 0))
  let bs := putBytesAt bs (p + 8) (beBytes 8 ((fieldBE bs (p + 8) 8 + sub) % 2 ^ 64))
  if udp then putBytesAt bs (p - 2) [0, 0] else bs

/-- A frame as it leaves: the tag of NET_VLAN, padding to 60 octets, and the FCS (R328). -/
def State.wireFrameOf (s : State) (bs : List Byte) : List Byte :=
  let bs :=
    if s.bit Reg.NET_VLAN 16 then bs.take 12 ++ [0x81, 0] ++ beBytes 2 (s.field Reg.NET_VLAN 14 12 * 2 ^ 13
      + s.field Reg.NET_VLAN 11 0) ++ bs.drop 12
    else bs
  let bs := bs ++ List.replicate (60 - bs.length) 0
  bs ++ etherFcs bs

/-- The frame of the transmit entry in progress is sent at an instant (R328, R329, R337). -/
def State.transmit (s : State) (e : CurEntry) (frame : List Byte) (t : Nat) : State :=
  let w0 := fieldLE e.bytes 0 4
  let time := s.frameTime t true
  let one := bitOf w0 10
  let event := [false, true].any fun u => isPtp u frame && decide (msgType u frame ≤ 3)
  let valid := one || (bitOf w0 9 && event)
  let out := s.wireFrameOf (if one then oneStep s.udp frame time else frame)
  let area := if valid then stampWords true time ++ [0] else [0, 0, 0, 0]
  let s := s.hostWrite (s.headAddr 192 + 32) (area.flatMap fun w => leBytes 4 w)
  let s : State := { s with net := { s.net with txLast := out, txHeld := none } }
  (s.bump Reg.NET_TX_FRAMES).answer 192 Stat.ok 0 out.length

/-- The checks of a transmit entry that its frame does not enter (R328). -/
def State.txCheck (s : State) (e : CurEntry) : Option (Nat × Nat) :=
  let w := ringReg 192 0
  let buf := fieldLE e.bytes 8 8
  let len := fieldLE e.bytes 16 2
  if fieldLE e.bytes 0 1 ≠ 0x10 then some (Stat.format, 0x01)
  else if bitsOf (fieldLE e.bytes 0 4) 30 11 ≠ 0 ∨ fieldLE e.bytes 18 14 ≠ 0 then some (Stat.format, 0x02)
  else if len = 0 then some (Stat.format, 0x04)
  else if len < 14 ∨ 1518 < len then some (Stat.format, 0x03)
  else if buf < s.reg64 (w + 0x20) (w + 0x24) ∨ s.reg64 (w + 0x28) (w + 0x2C) < buf + len - 1 then some (Stat.bounds, 0x10)
  else none

/-- A transmit entry whose frame has been read is sent, or waits for the link (R328). -/
def State.takeFrame (s : State) (e : CurEntry) (frame : List Byte) (t : Nat) : State :=
  if (1514 < frame.length ∧ tagged frame = false) ∨ (bitOf (fieldLE e.bytes 0 4) 10 = true ∧ s.oneStepOk frame = false) then
    s.refuse 192 Stat.format 0x03
  else if s.net.up then s.transmit e frame t
  else { s with net := { s.net with txHeld := some frame } }

/-- NET_TX_ENTRY (R328). -/
def execNetTxEntry (frame : HostRead) (t : Nat) (s0 : State) : Host.Outcome State Fault Refusal :=
  let s := s0.at_ t
  finish s0 (
    match (s.ring 192).cur with
    | none => s
    | some e =>
      if e.held.isSome || !s.linkReady || !s.netOn then s
      else if s.net.txHeld.isSome then (if s.net.up then s.transmit e (s.net.txHeld.getD []) t else s)
      else
        match s.txCheck e with
        | some (st, d) => s.refuse 192 st d
        | none =>
          match frame with
          | .fail _ _ => s.refuse 192 Stat.internal 0x20
          | .data bs => if bs.length = fieldLE e.bytes 16 2 then s.takeFrame e bs t else s)

/-! The link (R325, R326). -/

/-- The link state changes (R326); a frame that waited is sent (R328). -/
def State.setLink (s : State) (up : Bool) : State :=
  if up = s.net.up then s
  else
    let s := ({ s with net := { s.net with up := up } } : State).raise .netLink
    let s := if up then s else s.bump Reg.NET_LINK_DOWNS
    match up, s.net.txHeld, (s.ring 192).cur with
    | true, some frame, some e => if s.linkReady then s.transmit e frame s.time else s
    | _, _, _ => s

/-- NET_LINK (R326): the port runs while PD_NET is on and NET_CTRL.ENABLE is 1. -/
def execNetLink (up : Bool) (s : State) : Host.Outcome State Fault Refusal :=
  finish s (if s.netOn && s.bit Reg.NET_CTRL 0 then s.setLink up else s)

/-- NET_CTRL.SPEED is AUTO; 3 is used as 0. -/
def State.autoSpeed (s : State) : Bool := decide (s.field Reg.NET_CTRL 2 1 % 3 = 0)

/-- SPEED_SEEK (R325). -/
def execSpeedSeek (s : State) : Host.Outcome State Fault Refusal :=
  finish s (
    if s.netOn && s.bit Reg.NET_CTRL 0 && s.autoSpeed && !s.net.up then
      { s with net := { s.net with speed10 := !s.net.speed10 } }
    else s)

/-- A write of NET_CTRL: a port that is disabled loses its link; a fixed speed is taken at once, and a search begins at 25G. -/
def State.netCtrlWritten (s : State) (old : Nat) : State :=
  let on := s.bit Reg.NET_CTRL 0
  let s := if on then s else s.setLink false
  if old % 8 = s.reg Reg.NET_CTRL % 8 then s
  else { s with net := { s.net with speed10 := decide (s.field Reg.NET_CTRL 2 1 = 2) } }

/-! Receiving (R331, R332). -/

/-- The octets that a message of a type needs (IEEE 1588-2019). -/
def minLength (type : Nat) : Nat :=
  match type with
  | 0 => 44 | 1 => 44 | 2 => 54 | 3 => 54 | 8 => 44 | 9 => 54 | 10 => 54 | 11 => 64 | 12 => 44 | 13 => 48 | _ => 34

/-- Check 1 of Table 11.4 fails. -/
def frameBad (bs : List Byte) : Bool :=
  let n := bs.length
  decide (n < 64) || decide ((if tagged bs then 1522 else 1518) < n) || (tagged bs && fieldBE bs 16 2 == 0x8100)
    || etherFcs (bs.take (n - 4)) != bs.drop (n - 4)

/-- The frame is a PTP message of the selected transport to the module (check 2 of Table 11.4). -/
def State.forModule (s : State) (bs : List Byte) : Bool :=
  let e := typeAt bs
  if s.udp then
    fieldBE bs e 2 == 0x0800 && fieldBE bs (e + 11) 1 == 17
      && decide (fieldBE bs (e + 24) 2 = 319 ∨ fieldBE bs (e + 24) 2 = 320)
      && decide (fieldBE bs (e + 18) 4 = 0xE0000181 ∨ fieldBE bs (e + 18) 4 = s.reg Reg.NET_IP)
  else fieldBE bs e 2 == 0x88F7 && decide (fieldBE bs 0 6 = 0x011B19000000 ∨ fieldBE bs 0 6 = s.mac)

/-- Check 3 of Table 11.4 fails. -/
def ipBad (bs : List Byte) : Bool :=
  let ip := bs.drop (typeAt bs + 2)
  let total := fieldBE ip 2 2
  let udp := (ip.take total).drop 20
  let len := fieldBE udp 4 2
  fieldBE ip 0 1 != 0x45 || decide (total < 28) || decide (ip.length < total + 4) || inetSum (ip.take 20) != 0
    || decide (fieldBE ip 6 2 % 2 ^ 14 ≠ 0) || len != udp.length
    || (fieldBE udp 6 2 != 0 && inetSum (udpPseudo ip len ++ udp) != 0)

/-- The octets of the PTP message: to the end of the datagram, or of the frame without its FCS. -/
def State.ptpMessage (s : State) (bs : List Byte) : List Byte :=
  if s.udp then ((bs.drop (typeAt bs + 2)).take (fieldBE bs (typeAt bs + 4) 2)).drop 28
  else (bs.take (bs.length - 4)).drop (typeAt bs + 2)

/-- Check 4 of Table 11.4 fails. -/
def messageBad (m : List Byte) : Bool :=
  let len := fieldBE m 2 2
  decide (m.length < 34) || decide (m.length < len) || decide (len < minLength (fieldBE m 0 1 % 16))
    || fieldBE m 1 1 % 16 != 2 || decide (1 < fieldBE m 1 1 / 16)
    || (fieldBE m 6 1 &&& 0x98) != 0 || (fieldBE m 7 1 &&& 0x80) != 0

/-- The place of a message type among the limits of R332, when the role accepts it (check 6). -/
def acceptedType (master : Bool) (type : Nat) : Option Nat :=
  if master then (if type = 1 then some 4 else none)
  else match type with
    | 0 => some 0 | 8 => some 1 | 9 => some 2 | 11 => some 3 | _ => none

/-- Check 7 of Table 11.4 fails. -/
def State.wrongClock (s : State) (m : List Byte) : Bool :=
  let gm := s.reg64 Reg.NET_GM_ID_LO Reg.NET_GM_ID_HI
  let type := fieldBE m 0 1 % 16
  !s.bit Reg.NET_PTP_CFG 0
    && (fieldBE m 20 8 != gm || (type == 11 && fieldBE m 53 8 != gm)
      || (type == 9 && (fieldBE m 44 8 != s.reg64 Reg.NET_PORT_ID_LO Reg.NET_PORT_ID_HI || fieldBE m 52 2 != 1)))

/-- The limit of a type in a window (NET_RATE). -/
def State.rateLimit (s : State) (i : Nat) : Nat :=
  if i = 4 then s.field Reg.NET_RATE_1 7 0 else s.field Reg.NET_RATE_0 (8 * i + 7) (8 * i)

/-- Where a received frame fails Table 11.4: the order and the counter; otherwise the place of its type. -/
def State.receiveCheck (s : State) (bs : List Byte) : Except (Nat × Nat) Nat :=
  let m := s.ptpMessage bs
  if frameBad bs then .error (1, Reg.NET_RX_MALFORMED)
  else if !s.forModule bs then .error (2, Reg.NET_RX_OTHER)
  else if s.udp && ipBad bs then .error (3, Reg.NET_RX_MALFORMED)
  else if messageBad m then .error (4, Reg.NET_RX_MALFORMED)
  else if fieldBE m 0 1 / 16 ≠ s.field Reg.NET_PTP_CFG 19 16 ∨ fieldBE m 4 1 ≠ s.field Reg.NET_PTP_CFG 15 8 then
    .error (5, Reg.NET_RX_FILTERED)
  else
    match acceptedType (s.bit Reg.NET_PTP_CFG 0) (fieldBE m 0 1 % 16) with
    | none => .error (6, Reg.NET_RX_FILTERED)
    | some i =>
      if s.wrongClock m then .error (7, Reg.NET_RX_FILTERED)
      else if s.rateLimit i ≤ s.net.counts.getD i 0 then .error (8, Reg.NET_RX_RATE)
      else .ok i

/-- The first drop under checks 4 to 8 in a second raises PTP_ERR (R332). -/
def State.dropNote (s : State) (order : Nat) : State :=
  let sec := s.time / nsTu 1000000000
  if order < 4 ∨ s.net.errSecond = some sec then s
  else ({ s with net := { s.net with errSecond := some sec } } : State).raise .ptpErr

/-- A received frame (R330 to R332, R337). -/
def State.receive (s : State) (bs : List Byte) (t : Nat) : State :=
  match s.receiveCheck bs with
  | .error (order, counter) => (s.bump counter).dropNote order
  | .ok i =>
    let s := s.bump Reg.NET_RX_FRAMES
    let s : State := { s with net := { s.net with counts := s.net.counts.modify i (· + 1) } }
    if s.ringRuns 193 && decide (s.net.rxWait.length < s.ringHeld 193) then
      let last := msgType s.udp bs + 16 * b2n (tagged bs)
      let stamp := (stampWords true (s.frameTime t false) ++ [last]).map fun w => BitVec.ofNat 32 w
      ({ s with net := { s.net with rxWait := s.net.rxWait ++ [(bs.take (bs.length - 4), stamp)] } } : State).rxServe
    else s.bump Reg.NET_RX_NOBUF

/-- NET_RX_FRAME (R331): a frame with its FCS. -/
def execNetRxFrame (bytes : List Byte) (t : Nat) (s0 : State) : Host.Outcome State Fault Refusal :=
  let s := s0.at_ t
  finish s0 (if s.netOn && s.net.up then s.receive bytes t else s)

/-- NET_RATE_WINDOW (R332). -/
def execNetRateWindow (t : Nat) (s0 : State) : Host.Outcome State Fault Refusal :=
  let s := s0.at_ t
  finish s0 { s with net := { s.net with counts := [0, 0, 0, 0, 0] } }

/-! The PTP clock (R333 to R336). -/

/-- Re-anchor the clock at the count of an instant: the part of a slew that is done goes into T_REF (R333, R335). -/
def State.anchorPtp (s : State) (t : Nat) : State :=
  let f := s.ptp.count t
  { s with ptp := { s.ptp with tRef := s.ptpTime t, fRef := f, slew := s.ptp.left s.slewStepNow f } }

/-- Δ of PTP_ADJ in 2^-32 ns (R335). -/
def State.ptpDelta (s : State) : Int :=
  signedOf 64 (s.reg64 Reg.PTP_ADJ_0 Reg.PTP_ADJ_1) * 2 ^ 32 + ((s.field Reg.PTP_ADJ_2 15 0 * 2 ^ 16 : Nat) : Int)

/-- STEP_LIMIT in 2^-32 ns. -/
def State.stepLimit (s : State) : Nat := atLeast1 (s.field Reg.PTP_SLEW_CFG 31 16) * 1000 * 2 ^ 32

/-! Pulses (R338). -/

/-- START in 2^-32 ns. -/
def State.pulseStart (s : State) : Nat :=
  let hi := s.reg Reg.PTP_PULSE_START_2
  ((s.reg Reg.PTP_PULSE_START_1 + hi % 65536 * 2 ^ 32) * 1000000000 + s.reg Reg.PTP_PULSE_START_0 % 2 ^ 30) * 2 ^ 32
    + hi / 65536 * 2 ^ 16

/-- PERIOD in ns. -/
def State.pulsePeriod (s : State) : Nat := clampNat 100 4000000000 (s.reg Reg.PTP_PULSE_PERIOD)

/-- WIDTH in ns. -/
def State.pulseWidth (s : State) : Nat := clampNat 10 (s.pulsePeriod - 10) (s.reg Reg.PTP_PULSE_WIDTH)

/-- The number of scheduled instants at or before a time. -/
def State.pulsesBy (s : State) (time : Int) : Nat :=
  let d := time - (s.pulseStart : Int)
  if d < 0 then 0 else d.toNat / (s.pulsePeriod * 2 ^ 32) + 1

/-- When the pulse that is high ends. -/
def State.pulseEnd (s : State) : Int :=
  ((s.pulseStart + (s.ptp.pulseN * s.pulsePeriod + s.pulseWidth) * 2 ^ 32 : Nat) : Int)

/-- A pulse that is high ends once its width has passed. -/
def State.endPulse (s : State) (time : Int) : State :=
  if s.ptp.level && decide (s.pulseEnd ≤ time) then { s with ptp := { s.ptp with level := false } } else s

/-- PULSE_EN. -/
def State.pulsing (s : State) : Bool := s.bit Reg.PTP_CTRL 0

/-- PPS_PULSE (R338): PPS_OUT falls, and rises at a scheduled instant. -/
def execPpsPulse (t : Nat) (s0 : State) : Host.Outcome State Fault Refusal :=
  let s := s0.at_ t
  finish s0 (
    if !s.netOn || !s.pulsing then s
    else
      let time := s.ptpFine t ptpGrid
      let s := s.endPulse time
      let n := s.pulsesBy time
      if s.pulsesBy (time - (s.ptp.period / 8 : Nat)) < n then
        { s with ptp := { s.ptp with level := true, pulseN := n - 1 } }
      else s)

/-- Time jumps forward or back by a step: pulses jumped over are counted, and one that is high may end (R338). -/
def State.stepPulses (s : State) (old new : Int) : State :=
  if !s.pulsing then s
  else
    let n := s.pulsesBy new - s.pulsesBy old
    let s := if 0 < n then (s.bumpBy Reg.PTP_PULSE_SKIP n).raise .ptpErr else s
    s.endPulse new

/-- APPLY at an instant (R335). -/
def State.applyDelta (s : State) (t : Nat) : State :=
  let d := s.ptpDelta
  let s := s.anchorPtp t
  if s.ptp.locked then
    let r := s.ptp.slew + d
    if (s.stepLimit : Int) < r.natAbs then (s.bump Reg.PTP_STEP_REFUSED).raise .ptpErr
    else { s with ptp := { s.ptp with slew := r } }
  else
    let old := s.ptpFine t ptpGrid
    ({ s with ptp := { s.ptp with tRef := s.ptp.tRef + d, slew := 0, locked := true } } : State).stepPulses old (old + d)

/-- UNLOCK at an instant (R335). -/
def State.unlockPtp (s : State) (t : Nat) : State :=
  let s := s.anchorPtp t
  { s with ptp := { s.ptp with locked := false, slew := 0 } }

/-- APPLY (R335). -/
def execApply (t : Nat) (s0 : State) : Host.Outcome State Fault Refusal :=
  let s := s0.at_ t
  finish s0 (s.command Reg.PTP_CMD 1 fun s => s.applyDelta s.time)

/-- UNLOCK (R335). -/
def execUnlock (t : Nat) (s0 : State) : Host.Outcome State Fault Refusal :=
  let s := s0.at_ t
  finish s0 (s.command Reg.PTP_CMD 2 fun s => s.unlockPtp s.time)

/-- A write of half of PTP_PERIOD (R334): the clock is re-anchored at the nearest period in range. -/
def State.writePeriod (s : State) (hi : Bool) (v t : Nat) : State :=
  let s := (s.anchorPtp t).setReg (if hi then Reg.PTP_PERIOD_HI else Reg.PTP_PERIOD_LO) v
  { s with ptp := { s.ptp with
      period := clampNat 10984121161 11006111394 (s.reg64 Reg.PTP_PERIOD_LO Reg.PTP_PERIOD_HI) } }

/-- PTP_PERIOD_WRITE (R334). -/
def execPtpPeriodWrite (hi : Bool) (v : Word) (t : Nat) (s0 : State) : Host.Outcome State Fault Refusal :=
  let s := s0.at_ t
  finish s0 (s.command (if hi then Reg.PTP_PERIOD_HI else Reg.PTP_PERIOD_LO) v.toNat fun s => s.writePeriod hi v.toNat s.time)

/-- SLEW_END (R335): a remainder that has come to zero leaves nothing to absorb. -/
def execSlewEnd (t : Nat) (s0 : State) : Host.Outcome State Fault Refusal :=
  let s := s0.at_ t
  finish s0 (if s.netOn && s.ptp.left s.slewStepNow (s.ptp.count s.time) == 0 then s.anchorPtp s.time else s)

/-- A write of PTP_SLEW_CFG changes the rate of a slew from then on (R335). -/
def State.slewCfgWritten (s : State) (old : Nat) : State :=
  let new := s.reg Reg.PTP_SLEW_CFG
  ((s.setReg Reg.PTP_SLEW_CFG old).anchorPtp s.time).setReg Reg.PTP_SLEW_CFG new

/-- A write of PTP_CTRL: PPS_OUT is held low while PULSE_EN is 0 (R338). -/
def State.ptpCtrlWritten (s : State) : State := if s.pulsing then s else { s with ptp := { s.ptp with level := false } }

/-! Captures (R339). -/

/-- CAPTURE_EVENT (R339): an edge of CAP_IN[n] that has held for 4 clocks, by the instant of its first sample. Stripe tick 0 and
set swaps take their own captures. -/
def execCaptureEvent (n t : Nat) (s0 : State) : Host.Outcome State Fault Refusal :=
  let s := s0.at_ t
  finish s0 (
    if !s.netOn || decide (2 ≤ n) || s.capSource n != 0 then s
    else
      let close := match s.ptp.lastCap.getD n none with | some x => decide (t < x + nsTu 100) | none => false
      let s : State := { s with ptp := { s.ptp with lastCap := s.ptp.lastCap.set n (some t) } }
      if close then (s.bump (Reg.PTP_CAPn_DROP (n % 2))).raise .ptpErr else s.capture n t)

/-- The head entry of a capture FIFO goes. -/
def State.popCapture (s : State) (n : Nat) : State := { s with ptp := { s.ptp with caps := s.ptp.caps.modify n List.tail } }

/-- CAP_POP (R339). -/
def execCapPop (n : Nat) (s : State) : Host.Outcome State Fault Refusal :=
  finish s (if n < 2 then s.command Reg.PTP_CMD (4 * 2 ^ n) fun s => s.popCapture n else s)

/-! The telemetry mirror (R340). -/

/-- BATCH and FLUSH_US. -/
def State.mirrorBatch (s : State) : Nat := clampNat 1 20 (s.field Reg.NET_MIR_CFG 4 0)
/-- FLUSH_US. -/
def State.mirrorFlush (s : State) : Nat := atLeast1 (s.field Reg.NET_MIR_CFG 31 16)

/-- Mailbox entries that the mirror has not sent. -/
def State.mirrorUnsent (s : State) : Nat :=
  let n := s.mbxEntries
  (s.reg Reg.LNK_MBX_WR + n - s.reg Reg.NET_MIR_RD % n) % n

/-- The mirror's payload (Table 11.5) for the entries it carries. -/
def State.mirrorPayload (s : State) (entries : List (List Byte)) : List Byte :=
  let w := stampWords false (s.ptpTime s.time)
  leBytes 4 0x4F56544D ++ leBytes 4 (s.reg Reg.NET_MIR_SEQ) ++ leBytes 2 entries.length ++ [0, 0] ++ leBytes 4 s.net.skipped
    ++ leBytes 6 (w.getD 1 0 + w.getD 2 0 % 65536 * 2 ^ 32) ++ [0, 0] ++ leBytes 4 (w.getD 0 0) ++ leBytes 4 0 ++ entries.flatten

/-- A mirror frame without tag and FCS (R340). The identification and the don't-fragment flag are free values. -/
def State.mirrorFrame (s : State) (payload : List Byte) : List Byte :=
  let ports := s.reg Reg.NET_MIR_PORT
  let head := [0x45, 0] ++ beBytes 2 (28 + payload.length) ++ beBytes 2 (s.drawn % 65536)
    ++ beBytes 2 (s.drawn / 65536 % 2 * 2 ^ 14) ++ [64, 17]
  let addrs := beBytes 4 (s.reg Reg.NET_IP) ++ beBytes 4 (s.reg Reg.NET_MIR_DST_IP)
  let ip := head ++ beBytes 2 (inetSum (head ++ [0, 0] ++ addrs)) ++ addrs
  let len := 8 + payload.length
  let udp := beBytes 2 (ports / 65536) ++ beBytes 2 (ports % 65536) ++ beBytes 2 len
  let sum := inetSum (udpPseudo ip len ++ udp ++ [0, 0] ++ payload)
  beBytes 6 (s.reg64 Reg.NET_MIR_DST_MAC_LO Reg.NET_MIR_DST_MAC_HI % 2 ^ 48) ++ beBytes 6 s.mac ++ [0x08, 0] ++ ip ++ udp
    ++ beBytes 2 (if sum = 0 then 65535 else sum) ++ payload

/-- The mirror sends the entries that wait, BATCH at most; poisoned ones are skipped (R340). -/
def State.mirror (s : State) : State :=
  let n := min s.mirrorUnsent s.mirrorBatch
  let at_ := fun (i : Nat) => s.reg64 Reg.LNK_MBX_BASE_LO Reg.LNK_MBX_BASE_HI
    + 64 * ((s.reg Reg.NET_MIR_RD + i) % s.mbxEntries)
  let good := (List.range n).filter fun i => !s.poisonIn (at_ i) 64
  let entries := good.map fun i => s.bytesAt (at_ i) 64
  let bad := n - good.length
  let addrs := (List.range n).map at_
  let s := addrs.foldl (fun s a => s.touch .background a 64) s
  let s := s.bumpBy Reg.NET_MIR_SKIP bad
  let s : State := { s with net := { s.net with skipped := min (s.net.skipped + bad) 0xFFFFFFFF,
                                                arrivals := s.net.arrivals.drop n } }
  let s := s.setReg Reg.NET_MIR_RD ((s.reg Reg.NET_MIR_RD + n) % s.mbxEntries)
  if entries.isEmpty then s
  else
    let out := s.wireFrameOf (s.mirrorFrame (s.mirrorPayload entries))
    let s := ((s.next).setReg Reg.NET_MIR_SEQ (s.reg Reg.NET_MIR_SEQ + 1)).bump Reg.NET_MIR_FRAMES
    { s with net := { s.net with txLast := out, skipped := 0 } }

/-- The oldest unsent entry has waited FLUSH_US. -/
def State.mirrorDue (s : State) : Bool :=
  decide (s.mirrorBatch ≤ s.mirrorUnsent)
    || (decide (0 < s.mirrorUnsent) && (match s.net.arrivals.head? with
      | some x => decide (x + usTu s.mirrorFlush ≤ s.time)
      | none => true))

/-- MIRROR_SEND (R340). -/
def execMirrorSend (t : Nat) (s0 : State) : Host.Outcome State Fault Refusal :=
  let s := s0.at_ t
  finish s0 (if s.netOn && s.net.up && s.bit Reg.NET_CTRL 6 && s.mirrorDue then s.mirror else s)

end Sys2Proof.Machine
end

