-- ==== Sys2Proof/Machine/RegWrite.lean ====
section
/-! DEFINITION. Reads and writes of BAR0 (R8 to R11, R251, R280, R356 to R358): reads with their side effects, writes of the
configuration sets, and plain register writes. -/

namespace Sys2Proof.Machine

/-! Reads. -/

/-- What a read of a defined register does beside returning it: an RC register clears (R11), PTP_NOW_0, PTP_FRC_LO and the
residency _LO words latch (R334, R356), and REC_WIN_63 may start the next fetch (R379). -/
def State.readEffect (s : State) (off : Nat) : State :=
  if ((Reg.row? off).map (·.access)) = some .rc then s.setReg off 0
  else if off = Reg.PTP_NOW_0 0 then
    let w := stampWords false (s.ptpTime s.time)
    ((s.setReg (Reg.PTP_NOW_0 1) (w.getD 1 0)).setReg (Reg.PTP_NOW_0 2) (w.getD 2 0)).setReg (Reg.PTP_NOW_0 3)
      (s.ptp.count s.time % 2 ^ 32)
  else if off = Reg.PTP_FRC_LO then s.setReg Reg.PTP_FRC_HI (s.ptp.count s.time / 2 ^ 32 % 2 ^ 32)
  else if Reg.PWR_RES_s_LO 0 ≤ off ∧ off < Reg.PWR_RES_s_LO 5 ∧ off % 8 = 0 then
    s.setReg (off + 4) (s.residency ((off - Reg.PWR_RES_s_LO 0) / 8) s.time / 2 ^ 32 % 2 ^ 32)
  else if off = Reg.REC_WIN_n 63 then s.autoNext
  else s

/-- A read of BAR0: zero and a count from an offset that is off (R357) or undefined (R358, kind 0), else the register. -/
def State.readOff (s : State) (off : Nat) : State :=
  let blank : State := { s with readData := 0 }
  if s.accessOff off then blank.offAccess off false
  else if !offsetDefined off then blank.violation 0 off false
  else ({ s with readData := BitVec.ofNat 32 (s.readReg off) } : State).readEffect off

/-- A read of BAR2 (R253, R256, R358): anything but a ring's doorbell is an undefined access. -/
def State.readBar2 (s : State) (off : Nat) : State :=
  let blank : State := { s with readData := 0 }
  if !s.domOn 1 then blank
  else if !ringOk (off / 4096) || off % 4096 != 0 then blank.violation 0 off false true
  else { s with readData := BitVec.ofNat 32 (s.bar2Read (off / 4096) (off % 4096)) }

/-- RC_READ (R11): a read of the host's windows. Addresses below 2^24 are BAR0 offsets, those above are BAR2 offsets (log
entry 9). -/
def execRcRead (addr : Nat) (s : State) : Host.Outcome State Fault Refusal :=
  finish s (if addr < 2 ^ 24 then s.readOff addr else s.readBar2 (addr - 2 ^ 24))

/-- PTP_NOW_READ (R334). -/
def execPtpNowRead (t : Nat) (s : State) : Host.Outcome State Fault Refusal := finish s ((s.at_ t).readOff (Reg.PTP_NOW_0 0))

/-- PTP_FRC_READ (R334). -/
def execPtpFrcRead (t : Nat) (s : State) : Host.Outcome State Fault Refusal := finish s ((s.at_ t).readOff Reg.PTP_FRC_LO)

/-- RESIDENCY_READ (R356): the five counters are RUN, IDLE, SLEEP, DEEP and DOMAIN. -/
def execResidencyRead (i t : Nat) (s : State) : Host.Outcome State Fault Refusal :=
  finish s (if i < 5 then (s.at_ t).readOff (Reg.PWR_RES_s_LO i) else s)

/-! Writes of the configuration sets (R280). -/

/-- An offset of a set window. -/
def inSetWindow (off : Nat) : Bool := decide (0xE00000 ≤ off ∧ off < 0xE20000)

/-- The set a window offset belongs to: false A, true B. -/
def setOf (off : Nat) : Bool := decide (0xE10000 ≤ off)

/-- A word of a set takes a write; the mark of its 64-bit word clears once both registers have been written. -/
def State.setWord (s : State) (off v : Nat) : State :=
  let b := setOf off
  let n := off % 0x10000 / 8
  let s := s.setReg off v
  match s.sets.marks.find? fun m => m.setB == b && m.word == n with
  | none => s
  | some m =>
    let m' : SetMark := { m with lo := m.lo || off % 8 == 0, hi := m.hi || off % 8 == 4 }
    let others := s.sets.marks.filter fun x => !(x.setB == b && x.word == n)
    { s with sets := { s.sets with marks := if m'.lo && m'.hi then others else m' :: others } }

/-- The word of a set offset is marked. -/
def State.setMarked (s : State) (off : Nat) : Bool :=
  s.sets.marks.any fun m => m.setB == setOf off && m.word == off % 0x10000 / 8

/-- A write of a set window that R357 and R358 let through: accepted, locked or late. -/
def State.setAccept (s : State) (off v : Nat) : State :=
  if s.setMarked off || decide (s.glb.mode = .dormant) then s.setWord off v
  else if setOf off = s.sets.active then s.violation 3 off true
  else if s.sets.sealed then (s.bump Reg.SET_LATE_WRITES).setReg Reg.SET_LATE_AT (off % 2 ^ 24)
  else s.setWord off v

/-- A write of a set window. -/
def State.setWrite (s : State) (off be v : Nat) : State := s.guardWrite off be v fun s _ => s.setAccept off v

/-- CONFIG_SET_WRITE (R280). -/
def execConfigSetWrite (addr be : Nat) (v : Word) (s : State) : Host.Outcome State Fault Refusal :=
  finish s (if inSetWindow addr then s.setWrite addr be v.toNat else s)

/-! Fields that are read and used as another value. -/

/-- Replace a field of a word. -/
def putField (v hi lo x : Nat) : Nat := v - bitsOf v hi lo * 2 ^ lo + x * 2 ^ lo

/-- A field held within limits. -/
def limited (v hi lo a b : Nat) : Nat := putField v hi lo (clampNat a b (bitsOf v hi lo))

/-- A field whose 0 is read and used as another value. -/
def zeroAs (v hi lo x : Nat) : Nat := if bitsOf v hi lo = 0 then putField v hi lo x else v

/-- A field whose value `a` is read and used as `b`. -/
def readAs (v hi lo a b : Nat) : Nat := if bitsOf v hi lo = a then putField v hi lo b else v

/-- The word a plain register holds after a write of `v`: fields "read and used as" another value read so (the field tables
of the register maps). -/
def normalised (off v : Nat) : Nat :=
  if off = Reg.WVR_AHEAD then limited (limited v 20 16 1 16) 7 0 3 255
  else if off = Reg.WVR_LIMITS then zeroAs v 7 0 1
  else if off = Reg.STG_ALLOT then limited v 4 0 1 16
  else if off = Reg.STG_HINT_CFG then limited v 15 0 1 1000
  else if off = Reg.BMF_LEDGER_SLOTS then limited v 10 0 4 1024
  else if off = Reg.BMF_CFG then zeroAs v 31 16 1
  else if off = Reg.TRK_REV_TOL then zeroAs v 15 0 1
  else if off = Reg.TRK_GUARD then zeroAs v 15 8 1
  else if off = Reg.TRK_PW_TIME then zeroAs v 31 16 1
  else if off = Reg.TRK_INPUT_CFG then readAs v 10 8 7 6
  else if off = Reg.TRK_PW_CFG then zeroAs v 7 4 1
  else if off = Reg.LNK_ACK_CFG then zeroAs (zeroAs (zeroAs (zeroAs v 3 0 1) 11 4 1) 15 12 2) 31 16 10
  else if off = Reg.MEM_CTRL then readAs v 1 0 3 0
  else if off = Reg.MEM_TRAIN_CFG then zeroAs v 31 16 1
  else if off = Reg.MEM_AGE then zeroAs v 15 0 1
  else if off = Reg.MEM_FENCE_CFG then zeroAs (zeroAs (zeroAs v 7 0 1) 15 8 1) 31 16 1
  else if off = Reg.ECC_SCRUB_CFG then zeroAs (zeroAs v 7 0 1) 31 16 1
  else if off = Reg.NET_MIR_CFG then zeroAs v 31 16 1
  else if off = Reg.PTP_SLEW_CFG then zeroAs v 31 16 1
  else if off = Reg.PTP_CTRL then readAs (readAs v 2 1 3 0) 4 3 3 0
  else if off = Reg.PWR_DEEP_GRACE then zeroAs v 15 0 1
  else if off = Reg.REC_CTRL then zeroAs (zeroAs v 15 8 1) 31 16 1
  else if off = Reg.REC_WEAR then zeroAs (zeroAs v 16 0 1) 27 24 1
  else if off = Reg.REC_WEAR_DAYS then zeroAs v 7 0 1
  else v

/-! Plain writes (R10, R358). -/

/-- STG_STATUS.CFG_ERR as the geometry stands (R133). -/
def State.stgGeometryBad (s : State) : Bool :=
  !placedOk s.regions .staging s.stgBase (s.stgSlots * s.stgAllot + s.stgChunks * 4096)
    || decide (s.stgSlots ≤ s.field Reg.STG_REPLAY_MIN 23 0 + 65536)

/-- What follows a plain write of a register that held `old`. -/
def State.written (s : State) (off old : Nat) : State :=
  if off = Reg.STG_CTRL then
    (if s.stg.cfgErr && !bitOf old 0 then s.setField Reg.STG_CTRL 0 0 0 else s)
  else if (Reg.STG_BASE_LO ≤ off ∧ off ≤ Reg.STG_CHUNKS) ∨ off = Reg.STG_REPLAY_MIN
      ∨ (Reg.MEM_REGION_n_0 0 ≤ off ∧ off < Reg.MEM_REGION_n_0 16) then
    { s with stg := { s.stg with cfgErr := s.stgGeometryBad } }
  else if off = Reg.TRK_CTRL then (if s.bit Reg.TRK_CTRL 1 then s else s.stopFree)
  else if off = Reg.REC_CURSOR_CTL ∨ off = Reg.REC_CURSOR_SEQ_HI then { s with rcr := { s.rcr with cursor := none } }
  else if off = Reg.NET_CTRL then s.netCtrlWritten old
  else if off = Reg.PTP_SLEW_CFG then s.slewCfgWritten old
  else if off = Reg.PTP_CTRL then s.ptpCtrlWritten
  else s

/-- A write that R357 and R358 let through, on the bits of `mask`. -/
def State.plainWrite (s : State) (off v mask : Nat) : State :=
  match Reg.row? off with
  | none => { s with hst := { s.hst with msix := smPut msixDefault (off - 0xF10000) (BitVec.ofNat 32 v) s.hst.msix } }
  | some r =>
    let old := s.reg off
    if r.access = .w1c then s.setReg off (bitsBeyond old (v &&& mask))
    else (s.setReg off (normalised off (mergeWord old v mask))).written off old

/-! Registers whose writes are commands of their own. -/

/-- Run several actions one after the other while each answers a next state. -/
def inTurn : List (State → Host.Outcome State Fault Refusal) → State → Host.Outcome State Fault Refusal
  | [], s => .next s
  | f :: fs, s =>
    match f s with
    | .next s' => inTurn fs s'
    | o => o

/-- The actions of the bits set in a command word, by bit. -/
def chosen (v : Nat) (fs : List (Nat × (State → Host.Outcome State Fault Refusal))) :
    List (State → Host.Outcome State Fault Refusal) :=
  (fs.filter fun f => bitOf v f.1).map (·.2)

/-- The actions of a command register, one or more bits of which are set. RESET and RESUME together act as RESET (R259),
RETRAIN of a lane or a channel needs the line's answers and is a command alone, and UNLOCK comes before APPLY (R336). -/
def cmdBits (off v : Nat) (t : Nat) : List (State → Host.Outcome State Fault Refusal) :=
  if 0x101000 ≤ off ∧ off < 0x101000 + 0x40 * 130 ∨ 0xB01000 ≤ off ∧ off < 0xB01080 then
    let r := if off < 0xB01000 then (off - 0x101000) / 0x40 else 192 + (off - 0xB01000) / 0x40
    if bitOf v 0 then [execRingReset r] else if bitOf v 1 then [execRingResume r] else []
  else if off = Reg.TRK_CMD then
    chosen v [(0, execPresetSNow), (1, execPresetSIdx), (2, execPresetCNow), (3, execPresetCIdx), (4, execAnchorPw),
      (5, execSimRun t), (6, execSimStop)]
  else if off = Reg.COR_CMD then chosen v [(0, execBindActive), (1, execCorResume)]
  else if off = Reg.REC_CMD then chosen v [(0, execSnap), (1, execShrink)]
  else if off = Reg.PTP_CMD then
    chosen v [(1, execUnlock t), (0, execApply t), (2, execCapPop 0), (3, execCapPop 1)]
  else if off = Reg.GLB_CMD then chosen v [(2, execFwCommit), (0, execWarmReset t), (1, execColdReset t)]
  else if Reg.WVR_CMD 0 ≤ off ∧ off < Reg.WVR_CMD 136 then chosen v [(0, execWeaverRetire ((off - Reg.WVR_CMD 0) / 0x1000))]
  else if Reg.LNK_LN_CMD 0 ≤ off ∧ off < Reg.LNK_LN_CMD 72 then
    chosen v [(0, execLaneRetire ((off - Reg.LNK_LN_CMD 0) / 0x40) t)]
  else
    let p := (off - Reg.MEM_CH_CMD 0) / 0x40
    chosen v [(0, execMemChFence p), (1, fun s => finish s (s.onlyIn [.service] off fun s => s)), (2, execMemChRetire p)]

/-- A command register: its word sets bits that each act. -/
def isCmd (off : Nat) : Bool :=
  off == Reg.TRK_CMD || off == Reg.COR_CMD || off == Reg.REC_CMD || off == Reg.PTP_CMD || off == Reg.GLB_CMD
    || (decide (0x101000 ≤ off ∧ off < 0x101000 + 0x40 * 130) && off % 0x40 == 0x0C)
    || (decide (0xB01000 ≤ off ∧ off < 0xB01080) && off % 0x40 == 0x0C)
    || (decide (Reg.WVR_CMD 0 ≤ off ∧ off < Reg.WVR_CMD 136) && off % 0x1000 == 0x24)
    || (decide (Reg.LNK_LN_CMD 0 ≤ off ∧ off < Reg.LNK_LN_CMD 72) && off % 0x40 == 0x24)
    || (decide (Reg.MEM_CH_CMD 0 ≤ off ∧ off < Reg.MEM_CH_CMD 64) && off % 0x40 == 0x08)

/-- One access is counted once (R358): what several actions of one write counted beyond the first is taken back. -/
def countedOnce (s : State) : Host.Outcome State Fault Refusal → Host.Outcome State Fault Refusal
  | .next s' => .next (if s.reg Reg.PWR_VIOL + 1 < s'.reg Reg.PWR_VIOL then s'.setReg Reg.PWR_VIOL (s.reg Reg.PWR_VIOL + 1) else s')
  | o => o

/-- The command that a full-word write of a register with one value-taking command is. -/
def valueCommand (off : Nat) (v : Word) (t : Nat) : Option (State → Host.Outcome State Fault Refusal) :=
  if off = Reg.IRQ_PEND_LO then some (execIrqPendClear false v)
  else if off = Reg.IRQ_PEND_HI then some (execIrqPendClear true v)
  else if off = Reg.IRQ_ENABLE_LO then some (execIrqEnableWrite false v)
  else if off = Reg.IRQ_ENABLE_HI then some (execIrqEnableWrite true v)
  else if off = Reg.IRQ_SET_LO then some (execIrqSet false v)
  else if off = Reg.IRQ_SET_HI then some (execIrqSet true v)
  else if off = Reg.ECC_LOG_POP then some (execEccLogPop v)
  else if off = Reg.FIG_ERRLOG_POP then some (execFigErrlogPop v)
  else if off = Reg.PWR_RESULT_POP then some (execPwrResultPop v)
  else if off = Reg.ECC_FLIP_CTRL then some (execEccFlipArm v)
  else if off = Reg.LNK_MBX_RD then some (execMailboxReadAdvance v)
  else if off = Reg.REC_CURSOR_SEQ_LO then some (execCursorFetch v)
  else if off = Reg.PTP_PERIOD_LO then some (execPtpPeriodWrite false v t)
  else if off = Reg.PTP_PERIOD_HI then some (execPtpPeriodWrite true v t)
  else if off = Reg.MEM_PPR_CMD then some (execPprGo v)
  else if off = Reg.PWR_REQ then some (execPowerRequest v t)
  else if Reg.LNK_LN_INJ 0 ≤ off ∧ off < Reg.LNK_LN_INJ 72 ∧ off % 0x40 = 0x18 then
    some (execLaneInject ((off - Reg.LNK_LN_INJ 0) / 0x40) v)
  else if Reg.LNK_LN_PRBS 0 ≤ off ∧ off < Reg.LNK_LN_PRBS 72 ∧ off % 0x40 = 0x10 then
    some (execLanePrbs ((off - Reg.LNK_LN_PRBS 0) / 0x40) v)
  else if (0x101000 ≤ off ∧ off < 0x101000 + 0x40 * 130 ∨ 0xB01000 ≤ off ∧ off < 0xB01080) ∧ off % 0x40 = 8 then
    let r := if off < 0xB01000 then (off - 0x101000) / 0x40 else 192 + (off - 0xB01000) / 0x40
    some (if v.getLsbD 8 then execRingEnable r v else execRingDisable r v)
  else if inSetWindow off then some (execConfigSetWrite off 15 v)
  else none

/-- REGISTER_WRITE (R10, R251, R358). A write of a register whose writes are commands of their own is that command, or the
commands of the bits it sets, at the instant of the latest event. -/
def execRegisterWrite (addr be : Nat) (v : Word) (s : State) : Host.Outcome State Fault Refusal :=
  match s.writeVerdict addr be v.toNat with
  | .ok _ _ =>
    match valueCommand addr v s.time with
    | some f => f s
    | none =>
      if isCmd addr then countedOnce s (inTurn (cmdBits addr v.toNat s.time) s)
      else finish s (s.guardWrite addr be v.toNat fun s mask => s.plainWrite addr v.toNat mask)
  | _ => finish s (s.guardWrite addr be v.toNat fun s _ => s)

end Sys2Proof.Machine
end

