-- ==== Sys2Proof/Machine/SramScrub.lean ====
section
/-! DEFINITION. SRAM words found correctable or uncorrectable, and what an uncorrectable word does in its store (R313,
Table 10.8). Where a store's layout is not given, a free value says which pass, group, strand or cell the word belongs to
(log entry 42). -/

namespace Sys2Proof.Machine

/-- Rows that read a word of the beam store or of a frame buffer in the frame in hand are not assembled (Table 10.8). -/
def State.rowsUnread (s : State) (r0 r1 : Nat) : State :=
  match s.run with
  | some r => if r.issued = 0 ∨ r.lastFrame < r.launched then s else s.hole .deadline r.launched r0 r1
  | none => s

/-- A slice group of a live work that the word belongs to is withdrawn and regenerated. -/
def State.withdrawGroup (s : State) : State :=
  let all := s.liveWorks.flatMap fun k => k.rows.map fun t => (k.id, t)
  match all[s.drawn % all.length]? with
  | some (id, t) => (s.invalidateRows id [t] 0x07 0).next
  | none => s

/-- What an uncorrectable word does in its store (Table 10.8). -/
def State.sramUe (s : State) (store word : Nat) : State :=
  match store with
  | 0x01 => (s.weaverFails (s.drawn % 136) (Reg.WVR_UE_COUNT (s.drawn % 136))).next
  | 0x02 =>
    let w := s.drawn % 136
    let s' := s.next
    if s'.drawn % 2 = 0 then (s'.weaverFails w (Reg.WVR_UE_COUNT (w % 136))).next
    else match (s'.weaver w).pass with
      | some p => (s'.decodeFails w p).next
      | none => s'.next
  | 0x03 => s.withdrawGroup
  | 0x04 =>
    let s' := s.next
    if s.drawn % 2 = 0 then s'.withdrawGroup
    else
      let held := (s'.stg.slices.filter fun p => p.2.expanded && !p.2.lost).map (·.1)
      match held[s'.drawn % held.length]? with
      | some n => (s'.fpPoison n).next
      | none => s'
  | 0x05 =>
    let s' := s.next
    match s.stg.window[s.drawn % s.stg.window.length]? with
    | some (tick, l) =>
      let l' := l.set (s'.drawn % l.length) none
      { s' with stg := { s'.stg with window := s'.stg.window.map fun (x : Nat × List Strand) => if x.1 = tick then (tick, l') else x } }.next
    | none => s'
  | 0x06 => if word < 262144 then s.rowsUnread (word / 512) (word / 512) else s.rowsUnread 0 511
  | 0x07 => { s with bmf := { s.bmf with holes := s.bmf.holes.eraseIdx (s.drawn % (s.bmf.holes.length + 1)) } }.next
  | 0x08 => { s with bmf := { s.bmf with heat := s.bmf.heat.eraseIdx (s.drawn % (s.bmf.heat.length + 1)) } }.next
  | 0x09 => { s with sets := { s.sets with
      marks := { setB := decide (0x10000 ≤ 8 * word), word := 8 * word % 0x10000 / 8, lo := false, hi := false }
        :: s.sets.marks.filter fun m => !(m.setB == decide (0x10000 ≤ 8 * word) && m.word == 8 * word % 0x10000 / 8) } }
  | 0x0A => s.rowsUnread (8 * (s.drawn % 64)) (8 * (s.drawn % 64) + 7) |>.next
  | 0x0B =>
    let busy := (List.range 128).filter fun r => match (s.ring r).cur with
      | some e => e.held.isNone
      | none => false
    match busy[s.drawn % busy.length]? with
    | some r =>
      match (s.ring r).cur with
      | some e =>
        let s' := s.next
        (s'.setRing r { s'.ring r with cur := some { e with
          moved := some { status := Stat.internal, detail := 0x21, result := s'.drawn % 2 ^ 32 } } }).next
      | none => s
    | none => s.next
  | _ => s

/-- Errors strike a word of a store, and its checker meets it (R313): corrected, sticky under the rule of R309, or marked. -/
def State.sramError (s : State) (store word dx cx : Nat) : State :=
  let key := (store, word)
  let watched := s.sram.watch.any fun e => e.1 == key
  let marked := s.sram.marks.contains key
  let sy := eccSyndrome marked dx cx
  match eccClass sy with
  | .clean =>
    let w := s.sram.watch.filterMap fun e =>
      if e.1 = key then (if e.2 ≤ 1 then none else some (e.1, e.2 - 1)) else some e
    { s with sram := { s.sram with watch := w } }
  | .marked => s
  | .ue =>
    let s := (s.bump Reg.ECC_SRAM_UE).eccLog 0x0F 0 4 0xFF sy (word % 2 ^ 32 + store * 2 ^ 32)
    let s : State := { s with sram := { s.sram with marks := if marked then s.sram.marks else key :: s.sram.marks } }
    s.sramUe store word
  | _ =>
    let s := s.bump Reg.ECC_SRAM_CE
    let s := if watched then
        let s := (s.eccLog 0x05 0 4 0xFF sy (word % 2 ^ 32 + store * 2 ^ 32)).bump Reg.ECC_STICKY_COUNT
        (s.raise .eccSticky).withyChange 5 0 (store + 65536 * word) 0
      else s
    { s with sram := { s.sram with watch := (key, 3) :: s.sram.watch.filter fun e => e.1 ≠ key } }

/-- SRAM_SCRUB (R313). -/
def execSramScrub (store word : Nat) (dx : Dword) (cx : Byte) (s : State) : Host.Outcome State Fault Refusal :=
  finish s (if s.bit Reg.ECC_CTRL 1 && s.domOn 6 then s.sramError store word dx.toNat cx.toNat else s)

end Sys2Proof.Machine
end

