-- ==== Sys2Proof/Machine/Supply.lean ====
section
/-! DEFINITION. Clock and supply faults (12_power_clocks.md, R359 to R364, R369; R419). -/

namespace Sys2Proof.Machine

/-- A PWR_FAULT event (R369, Table 12.10): the log is written whole, and the source raised. `sub` is the rail or the PLL. -/
def State.pwrFault (s : State) (code sub phase value : Nat) : State :=
  ((s.bump Reg.PWR_FAULT_COUNT).setRegs (Reg.PWR_FAULT_LOG_0 0)
    [code + 2 ^ 8 * (sub % 16) + 2 ^ 12 * (phase % 32), value, s.tickTotal % 2 ^ 32]).raise .pwrFault

/-- The module has its rails. -/
def State.powered (s : State) : Bool := decide (s.pwr.state ≠ 4)

/-! Clocks (R360). -/

/-- REF_LOST (R360): the PLLs of CLK156 hold their last frequency. -/
def execRefLost (t : Nat) (s0 : State) : Host.Outcome State Fault Refusal :=
  let s := s0.at_ t
  finish s0 (
    if !s.clk.ref156 then s
    else
      let s : State := { s with clk := { s.clk with
        ref156 := false, aonLocked := false, lostAt := some s.time,
        lock := s.clk.lock.headD true :: List.replicate 6 false } }
      if s.powered then (s.bump Reg.CLK_LOSS_COUNT).pwrFault 0x06 0 0 0 else s)

/-- REFERENCE_RETURN (R360): the hold-over ends as the PLLs relock. -/
def execReferenceReturn (t : Nat) (s0 : State) : Host.Outcome State Fault Refusal :=
  let s := s0.at_ t
  finish s0 (if s.clk.ref156 then s else { s with clk := { s.clk with ref156 := true, aonLocked := s.powered } })

/-- HOLDOVER_EXPIRY (R360): 10 ms after the loss, unless the reference is back and every PLL has relocked. -/
def execHoldoverExpiry (t : Nat) (s0 : State) : Host.Outcome State Fault Refusal :=
  let s := s0.at_ t
  finish s0 (
    match s.clk.lostAt with
    | some t0 => if t0 + msTu 10 ≤ t then s.truncateNow 0x05 else s
    | none => s)

/-- A run's data path uses the clock of a PLL: F, W, M, L and T (Table 12.8). -/
def pllFeedsRun (i : Nat) : Bool := decide (1 ≤ i ∧ i ≤ 5)

/-- PLL_UNLOCK (R360), with the reference present; PLL_H hangs on REFCLK, the others on CLK156. -/
def execPllUnlock (i ppm : Nat) (t : Nat) (s0 : State) : Host.Outcome State Fault Refusal :=
  let s := s0.at_ t
  finish s0 (
    let ref := if i = 0 then s.clk.refclk else s.clk.ref156 && s.clk.lostAt.isNone
    if i < 7 ∧ ref = true ∧ s.clk.lock.getD i false = true ∧ s.powered = true then
      let s : State := { s with clk := { s.clk with lock := s.clk.lock.set i false } }
      let s := (s.bump Reg.CLK_LOSS_COUNT).pwrFault 0x07 i 0 ppm
      if pllFeedsRun i then s.truncateNow 0x05 else s
    else s)

/-- The domains on a PLL's clock (Tables 12.1, 12.8). -/
def pllDomains (i : Nat) : List Nat := (List.range 10).filter fun d => (domainPlls d).contains i

/-- PLL_RELOCK (R360): after a loss of lock with the reference present the domains pass through RET to ON; the hold-over ends
when every PLL has relocked. PLL_H locks once REFCLK is there again. -/
def execPllRelock (i : Nat) (t : Nat) (s0 : State) : Host.Outcome State Fault Refusal :=
  let s := s0.at_ t
  finish s0 (
    if 7 ≤ i ∨ s.clk.lock.getD i true = true ∨ s.powered = false ∨ (i ≠ 0 ∧ s.clk.ref156 = false) then s
    else
      let off := s.pllOff i
      let back := decide (i = 0) && !s.clk.refclk
      let s : State := { s with clk := { s.clk with
        lock := s.clk.lock.set i true, refclk := s.clk.refclk || decide (i = 0) } }
      let s : State := if (s.clk.lock.tail).all id then { s with clk := { s.clk with lostAt := none } } else s
      let s : State := if back then { s with hst := { s.hst with width := 16, rate := 5 } } else s
      if off then
        (pllDomains i).foldl (fun s d => if s.domOn d && d != 1 then (s.setDomain d 1).setDomain d 0 else s) s
      else s)

/-- REFCLK_LOSS (R360): PLL_H stops and the link goes down (R252). -/
def execRefclkLoss (s : State) : Host.Outcome State Fault Refusal :=
  finish s (
    if !s.clk.refclk then s
    else
      let s : State := { s with clk := { s.clk with refclk := false, lock := s.clk.lock.set 0 false } }
      if s.powered then (s.bump Reg.CLK_LOSS_COUNT).portReset .linkDown else s)

/-! Supplies (R361 to R364). -/

/-- PHASE_FAULT (R362): the phase is removed; a spare comes in, or the rail goes on with those that remain. -/
def execPhaseFault (rail phase ma : Nat) (s : State) : Host.Outcome State Fault Refusal :=
  finish s (
    match s.pwr.rails[rail]? with
    | none => s
    | some r =>
      if !s.powered then s
      else if 0 < r.spares then
        let s : State := { s with pwr := { s.pwr with rails := s.pwr.rails.set rail { r with spares := r.spares - 1 } } }
        (s.withyChange 6 0 (rail + 256 * phase) (r.spares - 1)).pwrFault 0x01 rail phase ma
      else
        let s : State := { s with pwr := { s.pwr with rails := s.pwr.rails.set rail { r with working := r.working - 1 } } }
        s.pwrFault 0x02 rail phase ma)

/-- LP_OVER (R363). -/
def execLpOver (ma : Nat) (s : State) : Host.Outcome State Fault Refusal :=
  finish s (
    if s.pwr.lp then
      (({ s with pwr := { s.pwr with lp := false } } : State).bump Reg.PWR_LP_OVER).pwrFault 0x05 1 0 ma
    else s)

/-- VIN_LOW (R364): VIN has been below the limit for 10 µs. -/
def execVinLow (mv : Nat) (s : State) : Host.Outcome State Fault Refusal :=
  finish s (
    if s.powered && decide (mv < clampNat 9000 11500 (s.field Reg.PWR_VIN_LIM 15 0)) then
      ({ s with pwr := { s.pwr with vin := mv } } : State).pwrFault 0x04 0 0 mv
    else s)

/-- A transition is abandoned by a brown-out (R419): the pending request completes BUSY with SUPERSEDED. The abandoned request
completes too (R348); the status of its entry is a free value. -/
def State.abandonTransition (s : State) : State :=
  match s.pwr.trans with
  | none => s
  | some x =>
    let s := s.dropSlot
    let st := s.drawn % 256
    let done := s.pwr.grace.isSome
    let s := if done && x.req.target == 3 then s.setDomains (domsOf s.pwr.state (s.reg Reg.PWR_DOM_TGT)) else s
    let s := ({ s with pwr := { s.pwr with trans := none, grace := none } } : State).next
    if done then s else s.pushResult { s.resultOf x.req st with auto := x.auto }

/-- BROWNOUT (R364, R419). -/
def execBrownout (rail mv : Nat) (t : Nat) (s0 : State) : Host.Outcome State Fault Refusal :=
  let s := s0.at_ t
  finish s0 (
    if !s.powered || s.pwr.brown then s
    else
      let s : State := { s with pwr := { s.pwr with brown := true } }
      ((s.pwrFault 0x03 rail 0 mv).truncateNow 0x04).abandonTransition)

/-- BROWNOUT_LASTING (R364): the rails are removed as in OFF. -/
def execBrownoutLasting (s : State) : Host.Outcome State Fault Refusal :=
  finish s (if s.powered then { s.powerOff with glb := { s.powerOff.glb with brownOff := true } } else s)

/-- BROWNOUT_CLEAR (R386): the shadow is committed. -/
def execBrownoutClear (s : State) : Host.Outcome State Fault Refusal :=
  finish s (if s.pwr.brown then ({ s with pwr := { s.pwr with brown := false } } : State).commitAll 40 else s)

end Sys2Proof.Machine
end

