-- ==== Sys2Proof/Machine/Dispatch.lean ====
section
/-! DEFINITION. The meaning of each command: one arm for each row of the opcode table. -/

namespace Sys2Proof.Machine

/-- The effect of a command on everything but the queue. -/
def exec (i : Instr) (s : State) : Host.Outcome State Fault Refusal :=
  match i with
  | .loadJobKey ring blk => Sys2Proof.Machine.execLoadJobKey ring blk s
  | .setMode ring t u => Sys2Proof.Machine.execSetMode ring t u s
  | .armStripe ring t => Sys2Proof.Machine.execArmStripe ring t s
  | .abort ring t => Sys2Proof.Machine.execAbort ring t s
  | .swapSetSeal ring => Sys2Proof.Machine.execSwapSetSeal ring s
  | .swapSetCancel ring => Sys2Proof.Machine.execSwapSetCancel ring s
  | .swapSetNow ring t => Sys2Proof.Machine.execSwapSetNow ring t s
  | .trainRim ring r => Sys2Proof.Machine.execTrainRim ring r s
  | .trainDram ring r => Sys2Proof.Machine.execTrainDram ring r s
  | .calibrateUpsettSet ring u => Sys2Proof.Machine.execCalibrateUpsettSet ring u s
  | .calibrateRimRecal ring r => Sys2Proof.Machine.execCalibrateRimRecal ring r s
  | .calibrateSensors ring temps age => Sys2Proof.Machine.execCalibrateSensors ring temps age s
  | .calibrateDramRecal ring r => Sys2Proof.Machine.execCalibrateDramRecal ring r s
  | .retirePage ring writeErr => Sys2Proof.Machine.execRetirePage ring writeErr s
  | .readCounters ring t resp => Sys2Proof.Machine.execReadCounters ring t resp s
  | .syncBarrier ring => Sys2Proof.Machine.execSyncBarrier ring s
  | .syncFigure ring => Sys2Proof.Machine.execSyncFigure ring s
  | .syncRunEnd ring => Sys2Proof.Machine.execSyncRunEnd ring s
  | .doorbell page off be v => Sys2Proof.Machine.execDoorbell page off be v s
  | .entryFetch ring e => Sys2Proof.Machine.execEntryFetch ring e s
  | .phaseRefetch ring e => Sys2Proof.Machine.execPhaseRefetch ring e s
  | .ringReset ring => Sys2Proof.Machine.execRingReset ring s
  | .ringResume ring => Sys2Proof.Machine.execRingResume ring s
  | .ringEnable ring v => Sys2Proof.Machine.execRingEnable ring v s
  | .ringDisable ring v => Sys2Proof.Machine.execRingDisable ring v s
  | .dmaH2L ring data => Sys2Proof.Machine.execDmaH2L ring data s
  | .dmaL2H ring => Sys2Proof.Machine.execDmaL2H ring s
  | .dmaL2L ring => Sys2Proof.Machine.execDmaL2L ring s
  | .dmaH2F ring data => Sys2Proof.Machine.execDmaH2F ring data s
  | .figWait ring data => Sys2Proof.Machine.execFigWait ring data s
  | .descriptorComplete ring errs => Sys2Proof.Machine.execDescriptorComplete ring errs s
  | .hostPortReset kind => Sys2Proof.Machine.execHostPortReset kind s
  | .busMasterEnable on => Sys2Proof.Machine.execBusMasterEnable on s
  | .irqMessageSend v => Sys2Proof.Machine.execIrqMessageSend v s
  | .irqPendClear hi v => Sys2Proof.Machine.execIrqPendClear hi v s
  | .irqEnableWrite hi v => Sys2Proof.Machine.execIrqEnableWrite hi v s
  | .irqSet hi v => Sys2Proof.Machine.execIrqSet hi v s
  | .rcRead addr => Sys2Proof.Machine.execRcRead addr s
  | .registerWrite addr be v => Sys2Proof.Machine.execRegisterWrite addr be v s
  | .ptpNowRead t => Sys2Proof.Machine.execPtpNowRead t s
  | .ptpFrcRead t => Sys2Proof.Machine.execPtpFrcRead t s
  | .residencyRead n t => Sys2Proof.Machine.execResidencyRead n t s
  | .configSetWrite addr be v => Sys2Proof.Machine.execConfigSetWrite addr be v s
  | .verifyJobHeader => Sys2Proof.Machine.execVerifyJobHeader s
  | .verifyClassTable => Sys2Proof.Machine.execVerifyClassTable s
  | .verifyStripe => Sys2Proof.Machine.execVerifyStripe s
  | .verifyTileRow => Sys2Proof.Machine.execVerifyTileRow s
  | .verifyTileBin => Sys2Proof.Machine.execVerifyTileBin s
  | .verifyJobEnd => Sys2Proof.Machine.execVerifyJobEnd s
  | .figErrlogPop v => Sys2Proof.Machine.execFigErrlogPop v s
  | .weaverTakePass w => Sys2Proof.Machine.execWeaverTakePass w s
  | .densityPassDone w errs => Sys2Proof.Machine.execDensityPassDone w errs s
  | .pixelPassDone w errs => Sys2Proof.Machine.execPixelPassDone w errs s
  | .reweaveDone w errs => Sys2Proof.Machine.execReweaveDone w errs s
  | .arbiterDone w errs => Sys2Proof.Machine.execArbiterDone w errs s
  | .reweaveHoldExpiry t => Sys2Proof.Machine.execReweaveHoldExpiry t s
  | .weaverUe w => Sys2Proof.Machine.execWeaverUe w s
  | .weaverWatchdog w => Sys2Proof.Machine.execWeaverWatchdog w s
  | .weaverRetire w => Sys2Proof.Machine.execWeaverRetire w s
  | .correctSlice stripe w => Sys2Proof.Machine.execCorrectSlice stripe w s
  | .bindNextStripe => Sys2Proof.Machine.execBindNextStripe s
  | .bindActive => Sys2Proof.Machine.execBindActive s
  | .corResume => Sys2Proof.Machine.execCorResume s
  | .sliceCoded stripe w => Sys2Proof.Machine.execSliceCoded stripe w s
  | .encoderResume => Sys2Proof.Machine.execEncoderResume s
  | .expandSlice n => Sys2Proof.Machine.execExpandSlice n s
  | .hintProjection t => Sys2Proof.Machine.execHintProjection t s
  | .tickIssue t => Sys2Proof.Machine.execTickIssue t s
  | .beamStoreLoadDone => Sys2Proof.Machine.execBeamStoreLoadDone s
  | .workingTableUpdate => Sys2Proof.Machine.execWorkingTableUpdate s
  | .thermalDecay => Sys2Proof.Machine.execThermalDecay s
  | .tempStale q t => Sys2Proof.Machine.execTempStale q t s
  | .frameLaunch t missed => Sys2Proof.Machine.execFrameLaunch t missed s
  | .encoderEdge axis a b t => Sys2Proof.Machine.execEncoderEdge axis a b t s
  | .encoderLos pair t => Sys2Proof.Machine.execEncoderLos pair t s
  | .indexEdge axis t => Sys2Proof.Machine.execIndexEdge axis t s
  | .presetSNow => Sys2Proof.Machine.execPresetSNow s
  | .presetSIdx => Sys2Proof.Machine.execPresetSIdx s
  | .presetCNow => Sys2Proof.Machine.execPresetCNow s
  | .presetCIdx => Sys2Proof.Machine.execPresetCIdx s
  | .anchorPw => Sys2Proof.Machine.execAnchorPw s
  | .positionWord bits t => Sys2Proof.Machine.execPositionWord bits t s
  | .positionWordLoss t => Sys2Proof.Machine.execPositionWordLoss t s
  | .tickTrimUpdate => Sys2Proof.Machine.execTickTrimUpdate s
  | .simRun t => Sys2Proof.Machine.execSimRun t s
  | .simStop => Sys2Proof.Machine.execSimStop s
  | .simTick t => Sys2Proof.Machine.execSimTick t s
  | .simFreeTick t => Sys2Proof.Machine.execSimFreeTick t s
  | .returnFrame lane words t => Sys2Proof.Machine.execReturnFrame lane words t s
  | .tempQuorumTimeout t => Sys2Proof.Machine.execTempQuorumTimeout t s
  | .telRateWindow => Sys2Proof.Machine.execTelRateWindow s
  | .ackDrainTimeout t => Sys2Proof.Machine.execAckDrainTimeout t s
  | .runEnd t => Sys2Proof.Machine.execRunEnd t s
  | .controlBlockRx lane block => Sys2Proof.Machine.execControlBlockRx lane block s
  | .lpreq lane state => Sys2Proof.Machine.execLpreq lane state s
  | .laneLos lane t => Sys2Proof.Machine.execLaneLos lane t s
  | .laneLock lane t => Sys2Proof.Machine.execLaneLock lane t s
  | .retSilent lane t => Sys2Proof.Machine.execRetSilent lane t s
  | .laneRetire lane t => Sys2Proof.Machine.execLaneRetire lane t s
  | .laneRetrain lane r => Sys2Proof.Machine.execLaneRetrain lane r s
  | .laneInject lane v => Sys2Proof.Machine.execLaneInject lane v s
  | .lanePrbs lane v => Sys2Proof.Machine.execLanePrbs lane v s
  | .challengeResend t => Sys2Proof.Machine.execChallengeResend t s
  | .spareRecal lane r => Sys2Proof.Machine.execSpareRecal lane r s
  | .laneLpIdle t => Sys2Proof.Machine.execLaneLpIdle t s
  | .laneRelockTimeout lane t => Sys2Proof.Machine.execLaneRelockTimeout lane t s
  | .mailboxReadAdvance v => Sys2Proof.Machine.execMailboxReadAdvance v s
  | .refreshDue p pc busy => Sys2Proof.Machine.execRefreshDue p pc busy s
  | .agePromotion cls => Sys2Proof.Machine.execAgePromotion cls s
  | .dramPowerDown p pc => Sys2Proof.Machine.execDramPowerDown p pc s
  | .dramRecalPeriodic p m => Sys2Proof.Machine.execDramRecalPeriodic p m s
  | .scrubRead l flips t => Sys2Proof.Machine.execScrubRead l flips t s
  | .demandReadError a cls dx cx t => Sys2Proof.Machine.execDemandReadError a cls dx cx t s
  | .writebackQueue p => Sys2Proof.Machine.execWritebackQueue p s
  | .sramScrub store word dx cx => Sys2Proof.Machine.execSramScrub store word dx cx s
  | .capar p n => Sys2Proof.Machine.execCapar p n s
  | .readTimeout p => Sys2Proof.Machine.execReadTimeout p s
  | .ceRate p rate => Sys2Proof.Machine.execCeRate p rate s
  | .memChFence p => Sys2Proof.Machine.execMemChFence p s
  | .fenceCopyDone stack => Sys2Proof.Machine.execFenceCopyDone stack s
  | .rebuildSweepDone l => Sys2Proof.Machine.execRebuildSweepDone l s
  | .memChRetrain p r => Sys2Proof.Machine.execMemChRetrain p r s
  | .memChRetire p => Sys2Proof.Machine.execMemChRetire p s
  | .pprGo v => Sys2Proof.Machine.execPprGo v s
  | .pprDone code => Sys2Proof.Machine.execPprDone code s
  | .eccFlipArm v => Sys2Proof.Machine.execEccFlipArm v s
  | .eccLogPop v => Sys2Proof.Machine.execEccLogPop v s
  | .netRxFrame bytes t => Sys2Proof.Machine.execNetRxFrame bytes t s
  | .netTxEntry frame t => Sys2Proof.Machine.execNetTxEntry frame t s
  | .netLink up => Sys2Proof.Machine.execNetLink up s
  | .speedSeek => Sys2Proof.Machine.execSpeedSeek s
  | .netRateWindow t => Sys2Proof.Machine.execNetRateWindow t s
  | .apply t => Sys2Proof.Machine.execApply t s
  | .unlock t => Sys2Proof.Machine.execUnlock t s
  | .ptpPeriodWrite hi v t => Sys2Proof.Machine.execPtpPeriodWrite hi v t s
  | .slewEnd t => Sys2Proof.Machine.execSlewEnd t s
  | .ppsPulse t => Sys2Proof.Machine.execPpsPulse t s
  | .captureEvent n t => Sys2Proof.Machine.execCaptureEvent n t s
  | .capPop n => Sys2Proof.Machine.execCapPop n s
  | .mirrorSend t => Sys2Proof.Machine.execMirrorSend t s
  | .powerRequest v t => Sys2Proof.Machine.execPowerRequest v t s
  | .powerTransitionEnd t r => Sys2Proof.Machine.execPowerTransitionEnd t r s
  | .pwrResultPop v => Sys2Proof.Machine.execPwrResultPop v s
  | .deepGraceExpiry t => Sys2Proof.Machine.execDeepGraceExpiry t s
  | .wakePin low t => Sys2Proof.Machine.execWakePin low t s
  | .wakeTimer t => Sys2Proof.Machine.execWakeTimer t s
  | .refLost t => Sys2Proof.Machine.execRefLost t s
  | .holdoverExpiry t => Sys2Proof.Machine.execHoldoverExpiry t s
  | .pllUnlock n ppm t => Sys2Proof.Machine.execPllUnlock n ppm t s
  | .pllRelock n t => Sys2Proof.Machine.execPllRelock n t s
  | .refclkLoss => Sys2Proof.Machine.execRefclkLoss s
  | .phaseFault rail phase ma => Sys2Proof.Machine.execPhaseFault rail phase ma s
  | .lpOver ma => Sys2Proof.Machine.execLpOver ma s
  | .vinLow mv => Sys2Proof.Machine.execVinLow mv s
  | .brownout rail mv t => Sys2Proof.Machine.execBrownout rail mv t s
  | .brownoutLasting => Sys2Proof.Machine.execBrownoutLasting s
  | .brownoutClear => Sys2Proof.Machine.execBrownoutClear s
  | .sensorConversion n raw t => Sys2Proof.Machine.execSensorConversion n raw t s
  | .ageingMeasure counts => Sys2Proof.Machine.execAgeingMeasure counts s
  | .vauxLoss => Sys2Proof.Machine.execVauxLoss s
  | .coldStart mv => Sys2Proof.Machine.execColdStart mv s
  | .resetN t => Sys2Proof.Machine.execResetN t s
  | .warmReset t => Sys2Proof.Machine.execWarmReset t s
  | .coldReset t => Sys2Proof.Machine.execColdReset t s
  | .fwCommit => Sys2Proof.Machine.execFwCommit s
  | .upsettAutoStart t u => Sys2Proof.Machine.execUpsettAutoStart t u s
  | .mgtWatchdog => Sys2Proof.Machine.execMgtWatchdog s
  | .plateForecast t => Sys2Proof.Machine.execPlateForecast t s
  | .recordCommit progOk => Sys2Proof.Machine.execRecordCommit progOk s
  | .inventoryCommit progOk => Sys2Proof.Machine.execInventoryCommit progOk s
  | .operatingSecond power => Sys2Proof.Machine.execOperatingSecond power s
  | .ageTrigger => Sys2Proof.Machine.execAgeTrigger s
  | .histogramCheckpoint => Sys2Proof.Machine.execHistogramCheckpoint s
  | .retentionCheck sector marginOk verifyOk => Sys2Proof.Machine.execRetentionCheck sector marginOk verifyOk s
  | .snap => Sys2Proof.Machine.execSnap s
  | .shrink => Sys2Proof.Machine.execShrink s
  | .cursorFetch v => Sys2Proof.Machine.execCursorFetch v s
  | .cursorFetchDone => Sys2Proof.Machine.execCursorFetchDone s
  | .autoInc => Sys2Proof.Machine.execAutoInc s
  | .referenceReturn t => Sys2Proof.Machine.execReferenceReturn t s
  | .resetNRising auto img => Sys2Proof.Machine.execResetNRising auto img s
  | .vauxReturn mv => Sys2Proof.Machine.execVauxReturn mv s

end Sys2Proof.Machine
end

