-- ==== Sys2Proof/Safety.lean ====
section
/-! DEFINITION. What a safe state is: the sparse maps of the state stand in their canonical form, so that equal contents are
equal data (MEMORY in 00_scope.md's address spaces; R290, R393). -/

namespace Sys2Proof.Machine

/-- The register store is in canonical form: offsets strictly rising, no entry at its cold-reset value. -/
def State.regsWf (s : State) : Bool := smWf Reg.resetWord s.regs

/-- The host memory that the module has written is in canonical form. -/
def State.hostWf (s : State) : Bool := smWf hostDefault s.hst.mem

/-- The ring table is in canonical form: ring numbers strictly rising, no ring listed that is as after reset. -/
def State.ringsWf (s : State) : Bool := smWf (fun _ => ({} : Ring)) s.hst.rings

/-- The registers, local memory, host memory and the ring table are in canonical form. -/
def State.canon (s : State) : Bool := s.regsWf && s.dram.memWf && s.hostWf && s.ringsWf

end Sys2Proof.Machine
end

