-- ==== Sys2Proof/Certificates/Slice0/Obligations.lean ====
section
/-! DEFINITION. What is claimed of the machine, from the numbered rules of the spec: for each command where it completes and with
what result, what each family of commands leaves as it was, and the rules that hold of every step. -/

namespace Sys2Proof.Claims

open Sys2Proof Sys2Proof.Machine

/-- The registers that raising an interrupt source or logging an event may write (R341 to R343, R374). -/
abbrev interruptRegs : List Nat :=
  [Reg.IRQ_PEND_LO, Reg.IRQ_PEND_HI, Reg.IRQ_COALESCED, Reg.REC_UNCOMMITTED, Reg.REC_THROTTLED]

/-- Command `op` (and selector) stands ready at the front of command ring `r` as entry `e`, with its reserved bits clear, and no
exclusive command runs on the other ring. -/
abbrev front (s : State) (r op : Nat) (sel : Option (Nat × Nat)) (e : CurEntry) : Prop :=
  s.command? r op sel = some e ∧ headClean e = true ∧ s.exclusiveBusy r = false

/-- Register `off` is one event of `n` higher in `t` than in `s`, saturating (R11). -/
abbrev counted (s t : State) (off n : Nat) : Prop := t.reg off = min (s.reg off + n) 0xFFFFFFFF

/-- A full-word write of `v` to the command register `off` meets no rule that drops it (R357, R358). -/
abbrev taken (s : State) (off v : Nat) : Prop := ∃ m, s.writeVerdict off 15 v = .ok m false

/-- The command is not one that finds the module in IDLE and wakes it (R5). -/
abbrev awakeNow (s : State) : Prop := s.pwr.state ≠ 1 ∨ (s.glb.mode ≠ .ready ∧ s.glb.mode ≠ .service)

/-- The entry of a descriptor that has moved its data and waits for its responses, with what it will report (R277). -/
abbrev moved (e : CurEntry) (m : Moved) : Option CurEntry := some { e with waiting := false, moved := some m }

/-- What a descriptor from the host reports when all its bytes came: OK, and they all went to local memory. -/
abbrev whole (d : Desc) : Moved := { status := Stat.ok, detail := 0, result := d.total, bytes := d.total, toLocal := true }

/-- What a descriptor from local memory reports: INTERNAL at its first poisoned beat, OK without one (R277 item 4). -/
abbrev sent (s : State) (d : Desc) (toHost : Bool) : Moved :=
  { (match s.firstPoison d with
      | some o => { status := Stat.internal, detail := 0x21, result := o }
      | none => { status := Stat.ok, detail := 0, result := d.total } : Moved) with
    bytes := d.total, toHost := toHost, toLocal := !toHost }

/-- The body of the structural record at FIG_POS under header `h`. -/
abbrev figBody (s : State) (h : KfsHeader) : List Byte := slice (s.figBytes s.fig.pos (32 + h.bodyLen)) 16 h.bodyLen

/-- The stripe that a STRIPE record with header `h` and body `b` gives (Table 2.6). -/
abbrev stripeOf (h : KfsHeader) (b : List Byte) : StripeRec :=
  { stripe := h.stripe, gen := h.gen, down := decide (fieldLE b 0 1 = 1), s0 := fieldLE b 4 4, len := fieldLE b 8 4 }

/-- The verify pass runs, stands between records, and the record at FIG_POS has header `h`, all its bytes are delivered, no limit
makes it wait, and none of its checks fails (R35, R49, R429). -/
abbrev genuine (s : State) (h : KfsHeader) : Prop :=
  s.figRuns = true ∧ s.fig.row = none ∧ h = kfsHeader (s.figBytes s.fig.pos 16) ∧
    s.fig.pos + 32 + h.bodyLen ≤ s.fig.delivered ∧ s.headerReason h = none ∧
    (h.type = 4 → h.replace = false → s.fig.rows.length ≤ s.rowsTaken + s.field Reg.FIG_CTRL 31 16) ∧
    s.figPoison s.fig.pos (32 + h.bodyLen) = false ∧ s.bodyReason h (figBody s h) = none ∧
    ∃ key, s.fig.key = some key ∧
      (gcmOpen key (kfsNonce s.fig.salt h) (slice (s.figBytes s.fig.pos (32 + h.bodyLen)) 0 (16 + h.bodyLen)) []
        (slice (s.figBytes s.fig.pos (32 + h.bodyLen)) (16 + h.bodyLen) 16)).isSome = true

/-- Weaver `w` is one of the 136, and weaves or re-weaves pass `p` (R60, R79). -/
abbrev weaving (s : State) (w : Nat) (kind : PassKind) (p : Pass) : Prop :=
  w < 136 ∧ w < s.wvr.weavers.length ∧ s.passOf w kind = some p

/-- The state in which a slice is corrected: with its density map made ready where some pixel reads it (R103). -/
abbrev ready (s : State) (k : Work) (b : Bool) (w : Nat) : State :=
  if k.readsDensity (s.page b 0) (k.sliceOf w) then s.prepareDensity k (k.sliceOf w) else s

/-- The slice that correcting slice `w` of work `k` with page `pg` gives (R93, R111). -/
abbrev corrected (d : State) (k : Work) (w : Nat) (pg : Page) : SliceOut :=
  { work := k.id, w := w, epoch := d.cor.epoch, containers := (d.correctLines k pg (k.sliceOf w)).map (·.container) }

/-- BIND_ACTIVE has been asked for (R115). -/
abbrev asked (s : State) : State := { s with cor := { s.cor with bindActive := true } }

/-- Work `k` is the one to be bound next, the correction waits for no seal (R113, R115), and the page of its set passes the checks
of Table 4.4. -/
abbrev binds (s : State) (k : Work) : Prop :=
  s.pathRuns Reg.COR_CTRL = true ∧
    s.ensureNext.liveWorks.find? (fun k => k.set.isNone && s.ensureNext.cor.bindFailed != some (k.stripe, s.ensureNext.setFor k)) = some k ∧
    s.ensureNext.workAt k.id = some k ∧ s.ensureNext.pageBad (s.ensureNext.setFor k) = false ∧
    s.ensureNext.rampBad (s.ensureNext.setFor k) = false ∧
    ((s.ensureNext.running && s.ensureNext.cor.cur == some k.id) = true ∨
      (s.ensureNext.bit Reg.COR_CTRL 1 && !s.ensureNext.sets.sealed && !s.ensureNext.cor.bindActive) = false)

/-- The bytes that slice `x` codes to, against the slice before it (R126, R134). -/
abbrev code (k : Work) (x : SliceOut) : List Byte :=
  (List.range 32).flatMap fun h => encodeBlock (blockOf x.containers h)
    (blockOf (if k.keySlice x.w then zeroSlice else (k.group (k.rowOf x.w)).prev) h)

/-- Slice `x` is the one the codec takes next, its slot is free, and the pool has the chunks it needs (R134 to R136). -/
abbrev codes (s : State) (k : Work) (nb : Nat) (x : SliceOut) : Prop :=
  s.workAt k.id = some k ∧ k.nb = some nb ∧
    s.cor.slices.find? (fun y => y.work = k.id ∧ k.rowOf y.w = k.rowOf x.w) = some x ∧ s.stages = true ∧
    s.releasedSlice k x.w = false ∧ s.slotFree (nb + x.w) = true ∧
    ((code k x).length - (s.stgAllot - 384) + 4095) / 4096 ≤
      ((State.takeChunks (((code k x).length - (s.stgAllot - 384) + 4095) / 4096) s (nb + x.w)).chunksOf (nb + x.w)).length

/-- The parts of the state that a frame names: its fields, the bytes of local memory, the host memory that the module has written,
the rings, the link's width and bus master enable, and what the command rings wait for. -/
inductive Part where
| time | free | readData | hostMem | glb | sets | run | runEnded | fig | wvr | cor | stg | bmf | trk | lnk | dram |
  bytes | sram | net | ptp | pwr | clk | thm | rings | linkConfig | waits
deriving DecidableEq, Repr

/-- A part reads in `t` as in `s`. -/
def Part.same (p : Part) (s t : State) : Prop :=
  match p with
  | .time => t.time = s.time
  | .free => t.free = s.free
  | .readData => t.readData = s.readData
  | .hostMem => t.hst.mem = s.hst.mem
  | .glb => t.glb = s.glb
  | .sets => t.sets = s.sets
  | .run => t.run = s.run
  | .runEnded => t.runEnded = s.runEnded
  | .fig => t.fig = s.fig
  | .wvr => t.wvr = s.wvr
  | .cor => t.cor = s.cor
  | .stg => t.stg = s.stg
  | .bmf => t.bmf = s.bmf
  | .trk => t.trk = s.trk
  | .lnk => t.lnk = s.lnk
  | .dram => t.dram = s.dram
  | .bytes => ∀ a, t.dram.byte a = s.dram.byte a
  | .sram => t.sram = s.sram
  | .net => t.net = s.net
  | .ptp => t.ptp = s.ptp
  | .pwr => t.pwr = s.pwr
  | .clk => t.clk = s.clk
  | .thm => t.thm = s.thm
  | .rings => t.hst.rings = s.hst.rings
  | .linkConfig => t.hst.width = s.hst.width ∧ t.hst.bme = s.hst.bme
  | .waits => t.hst.waits = s.hst.waits

/-- Every part that is not named is as it was. -/
abbrev leaves (named : List Part) (s t : State) : Prop := ∀ p, p ∉ named → p.same s t

/-- Every part that is not named is as it was, and every register of a block that is not named. -/
abbrev onlyTouches (named : List Part) (blocks : List Nat) (s t : State) : Prop :=
  leaves named s t ∧ ∀ off, off / 2 ^ 20 ∉ blocks → t.reg off = s.reg off

end Sys2Proof.Claims

open Sys2Proof Sys2Proof.Machine

/-- SET_MODE whose move Table 14.3 allows and nothing refuses enters the mode and completes (R401); Upsett ends in READY or in
DORMANT (R397, R398). -/
def Obligations.SetModeCompletes : Prop :=
  ∀ (s : State) (ring t : Nat) (u : UpsettInput) (e : CurEntry) (n : Mode) (b : Bool), s.ringsWf = true →
    Claims.front s ring 0x02 none e → setModeFormat e = none → Mode.ofCode (fieldLE e.bytes 8 1 % 8) = some n →
    modeMove s.glb.mode n = some b → (b = true → s.run = none) → s.setModeState n = none →
    s.pwr.trans = none → s.dram.ppr = none →
    ∃ t', exec (.setMode ring t u) s = .next t' ∧ (n ≠ .upsett → t'.glb.mode = n) ∧
      (n = .upsett → s.glb.mode ≠ .upsett → t'.glb.mode = .ready ∨ t'.glb.mode = .dormant) ∧
      (n ≠ .upsett → n.allows s.pwr.state = true → s.pwr.state ≠ 5 → (t'.ring ring).cur = none)

/-- TRAIN in READY or SERVICE: the Rim link is trained and the command completes, or waits while an answer to its challenge is
still to come (R230, R237); a DRAM channel that passes every step of Table 10.5 completes TRAIN DRAM (R301). -/
def Obligations.TrainCompletes : Prop :=
  ∀ (s : State) (ring : Nat) (e : CurEntry), s.ringsWf = true → targetFormat e = none → Claims.awakeNow s →
    (∀ r, Claims.front s ring 0x06 (some (8, 0)) e → s.glb.mode = .ready ∨ s.glb.mode = .service →
      ∃ t, exec (.trainRim ring r) s = .next t ∧ t.lnk = (s.trainLink r true).lnk ∧
        (t.lnk.challenge = none → (t.ring ring).cur = none) ∧
        (t.lnk.challenge ≠ none → t.waitOf ring = some .identity)) ∧
    (∀ x, Claims.front s ring 0x06 (some (8, 1)) e → s.glb.mode = .service → x.chan < 64 → (s.chan x.chan).state = .active →
      s.failedStep x = none →
      ∃ t, exec (.trainDram ring [x]) s = .next t ∧ (t.ring ring).cur = none ∧ (t.chan x.chan).state = .active ∧
        (t.chan x.chan).eye = eyeWord x.readWidth x.writeWidth x.height x.caWidth ∧ t.dram.trained = s.dram.unbacked.isEmpty)

/-- CALIBRATE completes: the sensors show the temperatures measured (R400), and a re-calibrated lane or channel has its new taps
or its new eye (R243, R302). -/
def Obligations.CalibrateCompletes : Prop :=
  ∀ (s : State) (ring : Nat) (e : CurEntry), s.ringsWf = true → targetFormat e = none → Claims.awakeNow s →
    (∀ u, Claims.front s ring 0x07 (some (8, 0)) e → s.glb.mode = .ready ∨ s.glb.mode = .service → (s.stepWeavers u).2 = false →
      ∃ t, exec (.calibrateUpsettSet ring u) s = .next t ∧ t.thm.conv = (List.range 28).map (fun n => [u.temps.getD n 0])) ∧
    (∀ x taps, Claims.front s ring 0x07 (some (8, 1)) e → s.glb.mode = .ready ∨ s.glb.mode = .service → x.lane < s.lnk.lanes.length →
      s.laneRecals x.lane = true → s.recalOutcome x (s.lane x.lane).taps = some taps →
      ∃ t, exec (.calibrateRimRecal ring [x]) s = .next t ∧ (t.ring ring).cur = none ∧ (t.lane x.lane).taps = taps ∧
        (t.lane x.lane).state = (s.lane x.lane).state) ∧
    (∀ temps age, Claims.front s ring 0x07 (some (8, 2)) e → s.glb.mode ≠ .upsett →
      ∃ t, exec (.calibrateSensors ring temps age) s = .next t ∧
        t.thm.conv = (List.range 28).map (fun n => match temps[n]? with | some v => [v] | none => s.thm.conv.getD n [])) ∧
    (∀ m, Claims.front s ring 0x07 (some (8, 3)) e → s.glb.mode = .ready ∨ s.glb.mode = .service → s.recals m.chan = true →
      s.minWidth ≤ m.readWidth → s.minWidth ≤ m.writeWidth → s.minHeight ≤ m.height →
      ∃ t, exec (.calibrateDramRecal ring [m]) s = .next t ∧ (t.ring ring).cur = none ∧
        (t.chan m.chan).eye = eyeWord m.readWidth m.writeWidth m.height ((s.chan m.chan).eye / 2 ^ 24))

/-- ARM_STRIPE that passes the checks of Table 9.7 binds a run with the next serial, and seals the shadow when AUTO is given
(R266). -/
def Obligations.ArmStripeCompletes : Prop :=
  ∀ (s : State) (ring t : Nat) (e : CurEntry) (r : StripeRec) (chain : List (Nat × LedgerDesc)),
    Claims.front s ring 0x03 none e → armFormat e = none → s.glb.mode = .expose ∨ s.glb.mode = .dryrun → s.run = none →
    (s.at_ t).armState = none → (s.at_ t).armCheck e.arm = .ok chain → (s.at_ t).stripeRec e.arm.stripe = some r →
    ∃ t' q, exec (.armStripe ring t) s = .next t' ∧ t'.run = some q ∧ q.stripe = e.arm.stripe ∧ q.kind = e.arm.kind ∧
      q.down = e.arm.down ∧ q.s0 = e.arm.s0 ∧ q.len = e.arm.len ∧ q.serial = (s.bmf.serial + 1) % 2 ^ 32 ∧
      q.dry = decide (s.glb.mode = .dryrun) ∧ q.issued = 0 ∧ t'.sets.sealed = (s.sets.sealed || e.arm.auto) ∧
      t'.sets.active = s.sets.active ∧ t'.bmf.serial = q.serial

/-- ABORT without a run completes at once; before stripe tick 0 it unbinds the run, which ends ABANDONED; from there on it
truncates the run one tick below its last frame sent (R267, R406). -/
def Obligations.AbortCompletes : Prop :=
  ∀ (s : State) (ring t : Nat) (e : CurEntry), s.ringsWf = true → Claims.front s ring 0x04 none e → zeroBytes e 8 40 = true →
    (s.run = none → ∃ t', exec (.abort ring t) s = .next t' ∧ t'.run = none ∧ (t'.ring ring).cur = none) ∧
    (∀ r, s.run = some r → r.trunc = none → r.issued = 0 →
      ∃ t', exec (.abort ring t) s = .next t' ∧ t'.run = none ∧
        t'.runEnded = some { serial := r.serial, ending := 3, slot := r.slot }) ∧
    (∀ r, s.run = some r → r.trunc = none → r.issued ≠ 0 → r.issued ≤ r.lastTick →
      ∃ t' q, exec (.abort ring t) s = .next t' ∧ t'.run = some q ∧ q.trunc = some ((r.launched : Int) - 2, 0x0C) ∧
        t'.waitOf ring = some (.abort r.serial))

/-- SWAP_SET SEAL, CANCEL and NOW change the roles of the sets as R281 and R282 say, in any state that allows them, and
complete. -/
def Obligations.SwapSetCompletes : Prop :=
  ∀ (s : State) (ring : Nat) (e : CurEntry), s.ringsWf = true → swapFormat e = none →
    (Claims.front s ring 0x05 (some (8, 0)) e → s.glb.mode ∈ [.ready, .expose, .dryrun] →
      ∃ t, exec (.swapSetSeal ring) s = .next t ∧ t.sets = { s.sets with sealed := true } ∧ (t.ring ring).cur = none) ∧
    (Claims.front s ring 0x05 (some (8, 1)) e → s.glb.mode ∈ [.ready, .expose, .dryrun] →
      ∃ t, exec (.swapSetCancel ring) s = .next t ∧ t.sets = { s.sets with sealed := false } ∧ (t.ring ring).cur = none) ∧
    (∀ t, Claims.front s ring 0x05 (some (8, 2)) e → s.glb.mode ≠ .upsett →
      (s.glb.mode = .expose ∨ s.glb.mode = .dryrun → s.run = none) →
      ∃ t', exec (.swapSetNow ring t) s = .next t' ∧ (t'.ring ring).cur = none ∧
        t'.sets = { s.sets with active := !s.sets.active, sealed := false, swappedAt := some (max s.time t) })

/-- LOAD_JOB_KEY whose key block unwraps installs the job key, its JOB_ID and its salt, restarts the decoder and completes (R37,
R38); while an H2F descriptor is in flight it waits (R275). -/
def Obligations.LoadJobKeyCompletes : Prop :=
  ∀ (s : State) (ring : Nat) (e : CurEntry) (b key : List Byte), s.regsWf = true → s.ringsWf = true →
    Claims.front s ring 0x01 none e → loadKeyFormat e = none → s.glb.mode = .ready → Claims.awakeNow s → b.length = 88 →
    unwrapBlock s.glb.kwk s.glb.kwkId.toNat 1 b = some key →
    (s.h2fFlying = false →
      ∃ t, exec (.loadJobKey ring (.data b)) s = .next t ∧ t.fig.key = some key ∧ t.fig.jobId = fieldLE b 16 8 ∧
        t.fig.salt = fieldLE b 24 4 ∧ t.fig.pos = 0 ∧ t.fig.job = none ∧ (t.ring ring).cur = none) ∧
    (s.h2fFlying = true →
      ∃ t, exec (.loadJobKey ring (.data b)) s = .next t ∧ t.fig = s.fig ∧ t.waitOf ring = some (.loadKey (.data b)))

/-- RETIRE_PAGE of a page that no rule protects takes the lowest free replacement page and completes (R314). -/
def Obligations.RetirePageCompletes : Prop :=
  ∀ (s : State) (ring : Nat) (e : CurEntry) (idx : Nat), s.ringsWf = true → Claims.front s ring 0x08 none e →
    zeroBytes e 13 35 = true → s.glb.mode ∈ [.ready, .expose, .dryrun, .service] → Claims.awakeNow s →
    fieldLE e.bytes 8 5 < 0x1800000000 → s.regionAt (fieldLE e.bytes 8 5) ≠ .reserve → s.freeReplacement = some idx →
    s.dram.copies = [] → s.dram.sweeps = [] → s.replacementOf (fieldLE e.bytes 8 5 / 65536) = none →
    ∃ t, exec (.retirePage ring false) s = .next t ∧ (t.ring ring).cur = none ∧
      t.rcr.live.pages = smPut (fun _ => 65536) (fieldLE e.bytes 8 5 / 65536) idx s.rcr.live.pages

/-- READ_COUNTERS with a buffer long enough completes (R269); without CLEAR, host memory then holds its snapshot, but for the bytes
that its completion record takes. -/
def Obligations.ReadCountersCompletes : Prop :=
  ∀ (s : State) (ring t : Nat) (e : CurEntry), s.hostWf = true → s.ringsWf = true → Claims.front s ring 0x09 none e →
    countersFormat e = none → Claims.awakeNow s → (s.ring (otherRing ring)).cur = none →
    4 * ((s.at_ t).counterSnapshot (fieldLE e.bytes 20 2)).length ≤ fieldLE e.bytes 16 4 →
    ∃ t', exec (.readCounters ring t .ok) s = .next t' ∧ (t'.ring ring).cur = none ∧
      ∀ x, bitOf (fieldLE e.bytes 22 1) 0 = false → fieldLE e.bytes 8 8 ≤ x → x < fieldLE e.bytes 8 8 + 4 * ((s.at_ t).counterSnapshot (fieldLE e.bytes 20 2)).length →
        ¬(s.headAddr ring + 48 ≤ x ∧ x < s.headAddr ring + 64) →
        smGet hostDefault t'.hst.mem x =
          (((s.at_ t).counterSnapshot (fieldLE e.bytes 20 2)).flatMap fun w => leBytes 4 w).getD (x - fieldLE e.bytes 8 8) 0

/-- SYNC BARRIER completes at once when every ring it names is empty or drained, and waits otherwise (R268); SYNC FIGURE restarts
a halted verify pass at its offset (R54, R268); SYNC RUN_END waits for the bound run, or for the next one (R268). -/
def Obligations.SyncCompletes : Prop :=
  ∀ (s : State) (ring : Nat) (e : CurEntry), s.ringsWf = true → s.hst.waits = [] →
    (Claims.front s ring 0x0A (some (8, 0)) e → zeroBytes e 9 7 = true → zeroBytes e 32 16 = true →
      ((∀ r, r < 128 → bitOf (fieldLE e.bytes 16 16) r = true → s.ringHeld r = 0 ∨ s.drained r = true) →
        ∃ t, exec (.syncBarrier ring) s = .next t ∧ (t.ring ring).cur = none) ∧
      ((∃ r, r < 128 ∧ bitOf (fieldLE e.bytes 16 16) r = true ∧ s.ringHeld r ≠ 0 ∧ s.drained r = false) →
        ∃ t left named, exec (.syncBarrier ring) s = .next t ∧ t.waitOf ring = some (.barrier left named))) ∧
    (Claims.front s ring 0x0A (some (8, 1)) e → zeroBytes e 9 7 = true → zeroBytes e 24 24 = true →
      s.glb.mode ∈ [.ready, .expose, .dryrun] → Claims.awakeNow s → s.fig.halted = true →
      s.fig.released ≤ fieldLE e.bytes 16 8 → fieldLE e.bytes 16 8 < 2 ^ 48 →
      ∃ t, exec (.syncFigure ring) s = .next t ∧ t.fig.halted = false ∧ t.fig.pos = fieldLE e.bytes 16 8 ∧
        (t.ring ring).cur = none) ∧
    (Claims.front s ring 0x0A (some (8, 2)) e → zeroBytes e 9 7 = true → zeroBytes e 16 32 = true →
      s.glb.mode = .expose ∨ s.glb.mode = .dryrun →
      ∃ t, exec (.syncRunEnd ring) s = .next t ∧ t.waitOf ring = some (.runEnd (s.run.map (·.serial))))

/-- A doorbell that advances the tail by at least one entry and by no more than the ring has room for is taken; any other word is
counted in HST_DB_BAD with the ring in HST_DB_BAD_AT, and the ring stays (R256). -/
def Obligations.DoorbellCompletes : Prop :=
  ∀ (s : State) (r : Nat) (v : Word), s.regsWf = true → s.ringsWf = true → s.domOn 1 = true → ringOk r = true →
    ¬(v.toNat % 65536 = (s.ring r).tailSlot ∧ bitOf v.toNat 16 = (s.ring r).tailPhase) →
    (v.toNat < 131072 → s.ringRuns r = true → s.tailFits r (v.toNat % 65536) (bitOf v.toNat 16) = true →
      ∃ t, exec (.doorbell r 0 15 v) s = .next t ∧
        t.ring r = { s.ring r with tailSlot := v.toNat % 65536, tailPhase := bitOf v.toNat 16 } ∧
        (∀ q, q ≠ r → t.ring q = s.ring q)) ∧
    (131072 ≤ v.toNat ∨ s.ringRuns r = false ∨ s.tailFits r (v.toNat % 65536) (bitOf v.toNat 16) = false →
      ∃ t, exec (.doorbell r 0 15 v) s = .next t ∧ Claims.counted s t Reg.HST_DB_BAD 1 ∧ t.reg Reg.HST_DB_BAD_AT = r ∧
        ∀ q, t.ring q = s.ring q)

/-- A fetch takes an entry whose phase is the head's; a DMA ring fetches when its engine is free and the ring's turn has come
(R257, R270). An entry of the other phase is fetched again, and after three tries more the ring halts with reason 1; a read that
fails halts it with reason 2 (R257). -/
def Obligations.EntryFetchCompletes : Prop :=
  ∀ (s : State) (r : Nat), s.ringsWf = true → s.hst.waits = [] → s.canFetch r = true →
    (∀ b, (isCmdRing r = true ∧ malformed? { bytes := b, order := s.hst.nextOrder } = none) ∨
        (isDmaRing r = true ∧ 1 ≤ fieldLE b 0 1 ∧ fieldLE b 0 1 ≤ 4 ∧ s.engineFree (r / 16) = true) →
      bitOf (fieldLE b 0 4) 31 = (s.ring r).headPhase →
      ((s.ring r).tries = 0 → (isDmaRing r = true → s.engineTurn (r / 16) = some r) →
        ∃ t, exec (.entryFetch r (.bytes b)) s = .next t ∧ (t.ring r).cur = some { bytes := b, order := s.hst.nextOrder }) ∧
      (0 < (s.ring r).tries →
        ∃ t, exec (.phaseRefetch r (.bytes b)) s = .next t ∧ (t.ring r).cur = some { bytes := b, order := s.hst.nextOrder })) ∧
    (∀ b, isCmdRing r = true → bitOf (fieldLE b 0 4) 31 ≠ (s.ring r).headPhase →
      ((s.ring r).tries = 0 →
        ∃ t, exec (.entryFetch r (.bytes b)) s = .next t ∧ t.ring r = { s.ring r with tries := 1 }) ∧
      (0 < (s.ring r).tries → (s.ring r).tries < 3 →
        ∃ t, exec (.phaseRefetch r (.bytes b)) s = .next t ∧ t.ring r = { s.ring r with tries := (s.ring r).tries + 1 }) ∧
      (3 ≤ (s.ring r).tries →
        ∃ t, exec (.phaseRefetch r (.bytes b)) s = .next t ∧ t.ring r = { s.ring r with tries := 0, halted := true, reason := 1 })) ∧
    (isCmdRing r = true → (s.ring r).tries = 0 →
      ∃ t, exec (.entryFetch r .failed) s = .next t ∧ t.ring r = { s.ring r with halted := true, reason := 2 })

/-- RESET with no entry started returns head and tail to slot 0, phase 1 (R255, R259); RESUME clears HALTED (R259); a write of
ENABLE = 1 with a valid geometry starts an empty ring, and one of ENABLE = 0 resets and disables it (R254, R259). -/
def Obligations.RingControlCompletes : Prop :=
  ∀ (s : State) (r : Nat), s.regsWf = true → s.ringsWf = true → s.hst.waits = [] → isCmdRing r = true →
    (Claims.taken s (ringReg r 0x0C) 1 → (s.ring r).cur = none →
      ∃ t, exec (.ringReset r) s = .next t ∧ (t.ring r).headSlot = 0 ∧ (t.ring r).headPhase = true ∧ (t.ring r).tailSlot = 0 ∧
        (t.ring r).tailPhase = true ∧ (t.ring r).cur = none) ∧
    (Claims.taken s (ringReg r 0x0C) 2 →
      ∃ t, exec (.ringResume r) s = .next t ∧ t.ring r = { s.ring r with halted := false }) ∧
    (∀ v, Claims.taken s (ringReg r 8) v.toNat → v.getLsbD 8 = true → (s.ring r).enabled = false →
      4 ≤ v.toNat % 32 → v.toNat % 32 ≤ 16 →
      ∃ t, exec (.ringEnable r v) s = .next t ∧ t.ring r = { enabled := true } ∧ t.reg (ringReg r 8) = 256 + v.toNat % 32) ∧
    (∀ v, Claims.taken s (ringReg r 8) v.toNat → v.getLsbD 8 = false → (s.ring r).enabled = true → (s.ring r).cur = none →
      ∃ t, exec (.ringDisable r v) s = .next t ∧ (t.ring r).enabled = false ∧ (t.ring r).headSlot = 0 ∧ (t.ring r).tailSlot = 0)

/-- A descriptor that passes its checks moves its bytes, and the entry then waits for the responses with what it will report
(R272, R273, R277): OK over all bytes from the host, INTERNAL at the first poisoned beat of a local source. -/
def Obligations.TransfersComplete : Prop :=
  ∀ (s : State) (r : Nat) (e : CurEntry), s.ringsWf = true →
    (∀ bs, s.descriptor? r kindH2L = some e → s.descCheck r e = none → bs.length = e.desc.total →
      ∃ t, exec (.dmaH2L r (.data bs)) s = .next t ∧ (t.ring r).cur = Claims.moved e (Claims.whole e.desc)) ∧
    (s.descriptor? r kindL2H = some e → s.descCheck r e = none →
      ∃ t, exec (.dmaL2H r) s = .next t ∧ (t.ring r).cur = Claims.moved e (Claims.sent s e.desc true)) ∧
    (s.descriptor? r kindL2L = some e → s.descCheck r e = none →
      ∃ t, exec (.dmaL2L r) s = .next t ∧ (t.ring r).cur = Claims.moved e (Claims.sent s e.desc false))

/-- An H2F descriptor within the room of the figure ring moves its bytes, one beyond it waits (R274, R275), and goes on once there
is room (R275). -/
def Obligations.FigureTransfersComplete : Prop :=
  ∀ (s : State) (r : Nat) (e : CurEntry) (bs : List Byte), s.ringsWf = true → bs.length = e.desc.total →
    (s.descriptor? r kindH2F = some e → s.descCheck r e = none → s.figFull e.desc = false →
      ∃ t, exec (.dmaH2F r (.data bs)) s = .next t ∧ (t.ring r).cur = Claims.moved e (Claims.whole e.desc)) ∧
    (s.descriptor? r kindH2F = some e → s.descCheck r e = none → s.figFull e.desc = true →
      ∃ t, exec (.dmaH2F r (.data bs)) s = .next t ∧ (t.ring r).cur = some { e with waiting := true } ∧ t.dram = s.dram) ∧
    (isDmaRing r = true → (s.ring r).cur = some e → e.waiting = true → s.linkReady = true → s.dmaPaused = false →
      s.figFull e.desc = false →
      ∃ t, exec (.figWait r (.data bs)) s = .next t ∧ (t.ring r).cur = Claims.moved e (Claims.whole e.desc))

/-- Once its responses are in without an error, a descriptor's completion is written and its ring holds no entry in progress
(R277); the bytes of an H2F descriptor then count as delivered (R274). A host port reset leaves no ring of the host as it was, the
bus master disabled and local memory alone (R252); the bus master enable is what the configuration write says (R252). -/
def Obligations.DescriptorAndPortComplete : Prop :=
  ∀ (s : State) (r : Nat), s.ringsWf = true →
    (∀ e m, s.hst.waits = [] → s.linkReady = true → isDmaRing r = true → (s.ring r).cur = some e → e.moved = some m →
      e.held = none → m.status = Stat.ok → e.desc.kind ≠ kindH2F →
      ∃ t, exec (.descriptorComplete r { writeErr := none, flushErr := false }) s = .next t ∧ (t.ring r).cur = none ∧
        t.dram = s.dram) ∧
    (∀ kind, ∃ t, exec (.hostPortReset kind) s = .next t ∧ (∀ q, q < 192 → t.ring q = {}) ∧
      (∀ q, 192 ≤ q → t.ring q = s.ring q) ∧ t.hst.bme = false ∧ t.hst.waits = [] ∧ t.dram = s.dram ∧ t.hst.mem = s.hst.mem) ∧
    (∀ on, s.domOn 1 = true → s.clk.refclk = true →
      ∃ t, exec (.busMasterEnable on) s = .next t ∧ t.hst.bme = on ∧
        t.hst.width = if s.hst.width = 0 then 16 else s.hst.width)

/-- An owed message that nothing masks is sent (R343); a write of IRQ_PEND clears each source it names whose level is false, with
its message (R342, R343); one of IRQ_ENABLE is held as written (R343); one of IRQ_SET leaves each source it names pending
(R341). -/
def Obligations.InterruptCommandsComplete : Prop :=
  ∀ (s : State), s.regsWf = true →
    (∀ v : Word, v.toNat < 64 → s.hst.owed.getLsbD v.toNat = true → s.hst.msixEnable = true → s.vectorMasked v.toNat = false →
      s.linkReady = true →
      ∃ t, exec (.irqMessageSend v) s = .next t ∧ t.hst.owed.getLsbD v.toNat = false ∧ t.hst.lastMsg = some v.toNat ∧
        Claims.counted s t Reg.IRQ_SENT 1) ∧
    (∀ (hi : Bool) (v : Word), Claims.taken s (if hi then Reg.IRQ_PEND_HI else Reg.IRQ_PEND_LO) v.toNat →
      ∃ t, exec (.irqPendClear hi v) s = .next t ∧
        (∀ n, n ∈ bitsSet hi v.toNat → s.level n = false → t.pending? n = false ∧ t.hst.owed.getLsbD n = false) ∧
        (∀ n, n < 64 → n ∉ bitsSet hi v.toNat → t.pending? n = s.pending? n)) ∧
    (∀ (hi : Bool) (v : Word), Claims.taken s (if hi then Reg.IRQ_ENABLE_HI else Reg.IRQ_ENABLE_LO) v.toNat →
      ∃ t, exec (.irqEnableWrite hi v) s = .next t ∧ t.reg (if hi then Reg.IRQ_ENABLE_HI else Reg.IRQ_ENABLE_LO) = v.toNat ∧
        ∀ n, n < 64 → t.pending? n = s.pending? n) ∧
    (∀ (hi : Bool) (v : Word), Claims.taken s (if hi then Reg.IRQ_SET_HI else Reg.IRQ_SET_LO) v.toNat →
      ∃ t, exec (.irqSet hi v) s = .next t ∧ ∀ n, n ∈ bitsSet hi v.toNat → t.pending? n = true)

/-- A read returns the register's word, and an RC register is 0 after it (R11). -/
def Obligations.RegisterReadCompletes : Prop :=
  ∀ (s : State) (off : Nat), s.regsWf = true → off < 2 ^ 24 → s.accessOff off = false → offsetDefined off = true →
    ∃ t, exec (.rcRead off) s = .next t ∧ t.readData = BitVec.ofNat 32 (s.readReg off) ∧
      ((Reg.row? off).map (·.access) = some .rc → off ∉ Claims.interruptRegs → t.reg off = 0)

/-- A read of PTP_NOW_0, of PTP_FRC_LO or of a residency _LO word returns its part of the time at that instant and latches the
rest (R334, R356). -/
def Obligations.TimeReadsComplete : Prop :=
  ∀ (s : State) (t : Nat), s.regsWf = true →
    ((s.at_ t).accessOff (Reg.PTP_NOW_0 0) = false →
      ∃ u, exec (.ptpNowRead t) s = .next u ∧
        u.readData = BitVec.ofNat 32 ((stampWords false (s.ptpTime (max s.time t))).headD 0) ∧
        u.reg (Reg.PTP_NOW_0 1) = (stampWords false (s.ptpTime (max s.time t))).getD 1 0 % 2 ^ 32 ∧
        u.reg (Reg.PTP_NOW_0 2) = (stampWords false (s.ptpTime (max s.time t))).getD 2 0 % 2 ^ 32 ∧
        u.reg (Reg.PTP_NOW_0 3) = s.ptp.count (max s.time t) % 2 ^ 32) ∧
    ((s.at_ t).accessOff Reg.PTP_FRC_LO = false →
      ∃ u, exec (.ptpFrcRead t) s = .next u ∧ u.readData = BitVec.ofNat 32 (s.ptp.count (max s.time t)) ∧
        u.reg Reg.PTP_FRC_HI = s.ptp.count (max s.time t) / 2 ^ 32 % 2 ^ 32) ∧
    (∀ i, i < 5 → (s.at_ t).accessOff (Reg.PWR_RES_s_LO i) = false →
      ∃ u, exec (.residencyRead i t) s = .next u ∧ u.readData = BitVec.ofNat 32 (s.residency i (max s.time t)) ∧
        u.reg (Reg.PWR_RES_s_LO i + 4) = s.residency i (max s.time t) / 2 ^ 32 % 2 ^ 32)

/-- A write of a word of a set is held when the set is the unsealed shadow, counts as an access violation when it is the active
set, and as a late write when the shadow is sealed (R280). -/
def Obligations.ConfigSetWriteCompletes : Prop :=
  ∀ (s : State) (off : Nat) (v : Word) (m : Nat), s.regsWf = true → inSetWindow off = true →
    s.writeVerdict off 15 v.toNat = .ok m false → s.setMarked off = false → s.glb.mode ≠ .dormant →
    (setOf off ≠ s.sets.active → s.sets.sealed = false →
      ∃ t, exec (.configSetWrite off 15 v) s = .next t ∧ t.reg off = v.toNat ∧
        ∀ o, o ∉ Claims.interruptRegs → o ≠ off → t.reg o = s.reg o) ∧
    (setOf off = s.sets.active →
      ∃ t, exec (.configSetWrite off 15 v) s = .next t ∧ Claims.counted s t Reg.PWR_VIOL 1 ∧ t.reg off = s.reg off) ∧
    (setOf off ≠ s.sets.active → s.sets.sealed = true →
      ∃ t, exec (.configSetWrite off 15 v) s = .next t ∧ Claims.counted s t Reg.SET_LATE_WRITES 1 ∧
        t.reg Reg.SET_LATE_AT = off ∧ t.reg off = s.reg off)

/-- A write of a plain read-write register is held as the field tables read its word, and no other register but those of the
interrupts changes (R10). -/
def Obligations.RegisterWriteCompletes : Prop :=
  ∀ (s : State) (off be : Nat) (v : Word) (m : Nat) (r : RegRow), s.regsWf = true →
    s.writeVerdict off be v.toNat = .ok m false → valueCommand off v s.time = none → isCmd off = false →
    Reg.row? off = some r → r.access ≠ .w1c →
    off ∉ [Reg.STG_CTRL, Reg.TRK_CTRL, Reg.NET_CTRL, Reg.PTP_SLEW_CFG, Reg.PTP_CTRL] →
    ∃ t, exec (.registerWrite off be v) s = .next t ∧
      (off ∉ Claims.interruptRegs → t.reg off = normalised off (mergeWord (s.reg off) v.toNat m) % 2 ^ 32) ∧
      (∀ o, o ∉ Claims.interruptRegs → o ≠ off → t.reg o = s.reg o)

/-- The verify pass takes a genuine JOB_HEADER, CLASS_TABLE, STRIPE of a new generation or JOB_END record: FIG_POS passes it, and
what it gives is held: JOB_SLICES and STRIPE_COUNT, the sixteen CLASS_ID, the stripe with the rows that must follow it, the end
of the job (R34 to R36, R48, R56). -/
def Obligations.JobRecordsComplete : Prop :=
  ∀ (s : State) (h : KfsHeader), Claims.genuine s h →
    (h.type = 1 → ∃ t, exec .verifyJobHeader s = .next t ∧ t.fig.pos = s.fig.pos + 32 + h.bodyLen ∧ t.fig.expect = .classes ∧
      t.fig.job = some (fieldLE (Claims.figBody s h) 16 4, fieldLE (Claims.figBody s h) 20 2)) ∧
    (h.type = 2 → ∃ t, exec .verifyClassTable s = .next t ∧ t.fig.pos = s.fig.pos + 32 + h.bodyLen ∧ t.fig.expect = .body ∧
      ∀ c, c < 16 → t.fig.classes[c]? = some (fieldLE (Claims.figBody s h) (8 * c) 4)) ∧
    (h.type = 3 → staleGen h.gen ((s.stripeRec h.stripe).map (·.gen)) = false →
      ∃ t, exec .verifyStripe s = .next t ∧ t.fig.pos = s.fig.pos + 32 + h.bodyLen ∧ t.fig.expect = .row ∧
        t.stripeRec h.stripe = some (Claims.stripeOf h (Claims.figBody s h)) ∧
        t.fig.sending = some { desc := Claims.stripeOf h (Claims.figBody s h),
                               rows := (Claims.stripeOf h (Claims.figBody s h)).rowList, stale := false }) ∧
    (h.type = 6 → ∃ t, exec .verifyJobEnd s = .next t ∧ t.fig.pos = s.fig.pos + 32 + h.bodyLen ∧ t.fig.ended = true)

/-- The verify pass takes a genuine TILE_ROW of a new generation: its row and generation are remembered, and the bins that its
directory names follow at once (R36, R56). In a row it takes the next bin, once all of it is delivered and no check fails, into
the tile queue, where its tile is writable and counts its bytes in the figure ring (R48). -/
def Obligations.TileRecordsComplete : Prop :=
  ∀ (s : State),
    (∀ h : KfsHeader, Claims.genuine s h → h.type = 4 → staleGen h.gen (s.rowGen h.stripe h.trow) = false → h.replace = false →
      s.fig.sending.any (·.stale) = false → (∃ k, k < 20 ∧ fieldLE (Claims.figBody s h) (4 * k) 4 ≠ 0) →
      ∃ t, exec .verifyTileRow s = .next t ∧ t.fig.pos = s.fig.pos + 112 ∧ t.rowGen h.stripe h.trow = some h.gen ∧
        ∃ c, t.fig.row = some c ∧ c.stripe = h.stripe ∧ c.trow = h.trow ∧ c.gen = h.gen ∧
          ∀ (k : Nat) (n : Nat), k < 20 → n ≠ 0 → (((k : Int) - 2, n) ∈ c.bins ↔ fieldLE (Claims.figBody s h) (4 * k) 4 = n)) ∧
    (∀ (c : RowCtx) (col : Int) (n : Nat) (rest : List (Int × Nat)), s.figRuns = true → s.fig.row = some c →
      c.bins = (col, n) :: rest → s.fig.pos + n ≤ s.fig.delivered → s.binReason c col n s.fig.pos = none → c.replace = false →
      ∃ t, exec .verifyTileBin s = .next t ∧ t.fig.pos = s.fig.pos + n ∧
        (∃ x, t.tile? { stripe := c.stripe, trow := c.trow, tcol := col } = some x ∧ x.gen = c.gen ∧ x.pos = s.fig.pos ∧
          x.len = n ∧ x.writable = true) ∧
        ({ tile := { stripe := c.stripe, trow := c.trow, tcol := col }, gen := c.gen, pos := s.fig.pos, len := n } : HeldBin)
          ∈ t.fig.held)

/-- A write of FIG_ERRLOG_POP drops the oldest entry of the FIG error log (R58). -/
def Obligations.FigErrlogPopCompletes : Prop :=
  ∀ (s : State) (v : Word), Claims.taken s Reg.FIG_ERRLOG_POP v.toNat → v.getLsbD 0 = true →
    ∃ t, exec (.figErrlogPop v) s = .next t ∧ t.fig = { s.fig with errlog := s.fig.errlog.tail }

/-- A structural record with a failing header check halts the decoder: HALT_REASON names the reason, FIG_POS stays at the record,
the log takes one entry when it has room, and the counter of the reason's status rises by one (R53, R54, R429). -/
def Obligations.RejectedRecordHalts : Prop :=
  ∀ (s : State) (h : KfsHeader) (r : FigReason), s.regsWf = true → s.figRuns = true → s.fig.row = none →
    s.fig.pos + 16 ≤ s.fig.delivered → h = kfsHeader (s.figBytes s.fig.pos 16) → s.fig.key ≠ none → s.headerReason h = some r →
    1 ≤ h.type → h.type ≤ 6 → h.type ≠ 5 →
    ∃ t, exec (match h.type with
        | 1 => .verifyJobHeader | 2 => .verifyClassTable | 3 => .verifyStripe | 4 => .verifyTileRow | _ => .verifyJobEnd) s
          = .next t ∧
      t.fig.halted = true ∧ t.fig.reason = r.code ∧ t.fig.pos = s.fig.pos ∧ t.fig.delivered = s.fig.delivered ∧
      t.fig.tiles = s.fig.tiles ∧ Claims.counted s t (figCounter r.status) 1 ∧
      (s.fig.errlog.length < 64 → t.fig.errlog.length = s.fig.errlog.length + 1)

/-- A bin that fails a check leaves its tile unwritable and never halts the decoder, which goes on with the next bin of the row
(R53, R55). -/
def Obligations.RejectedBinIsUnwritable : Prop :=
  ∀ (s : State) (c : RowCtx) (col : Int) (n : Nat) (rest : List (Int × Nat)) (r : FigReason), s.regsWf = true →
    s.figRuns = true → s.fig.row = some c → c.bins = (col, n) :: rest → s.fig.pos + n ≤ s.fig.delivered →
    s.binReason c col n s.fig.pos = some r → c.replace = false →
    ∃ t, exec .verifyTileBin s = .next t ∧ t.fig.halted = false ∧ t.fig.pos = s.fig.pos + n ∧
      (∃ x, t.tile? { stripe := c.stripe, trow := c.trow, tcol := col } = some x ∧ x.writable = false) ∧
      Claims.counted s t Reg.FIG_UNWRITABLE_COUNT 1 ∧ Claims.counted s t (figCounter r.status) 1

/-- A free WORKING weaver takes the pass that its dispatcher finds, and the draw of R87 moves on (R70, R78, R87). A density or pixel
pass whose bin decodes ends with the weaver free and WVR_PASSES one up; a pixel pass leaves its tile woven with what came out, a
pass with a sample leaves its signature (R72, R74, R86). A re-weave that agrees counts in both weavers' WVR_RW_AGREE and its sample
is done with; an arbiter settles its sample, and WVR_MM_LOG names its tile (R89). -/
def Obligations.WeaverPassesComplete : Prop :=
  ∀ (s : State) (w : Nat), s.regsWf = true →
    (∀ s1 f, s.weaves = true → (s.weaver w).st = .working → (s.weaver w).pass = none → s.ensureNext.seekWork w = (s1, some f) →
      w < s.ensureNext.wvr.weavers.length →
      ∃ t p, exec (.weaverTakePass w) s = .next t ∧ (t.weaver w).pass = some p ∧ p.kind = (if f.pixel then .pixel else .density) ∧
        p.work = f.work ∧ p.tile.trow = f.trow ∧ p.tile.tcol = f.tcol ∧ p.pos = f.tile.pos ∧ p.len = f.tile.len ∧
        t.wvr.lfsr = lfsrDraw s1.wvr.lfsr ∧ t.wvr.wtLock = true) ∧
    (∀ p figs errs, Claims.weaving s w .density p → s.decodeAt p.pos p.len = some figs → p.pixel = false →
      ∃ t, exec (.densityPassDone w errs) s = .next t ∧ (t.weaver w).pass = none ∧ Claims.counted s t (Reg.WVR_PASSES w) 1) ∧
    (∀ p figs errs k, Claims.weaving s w .pixel p → s.decodeAt p.pos p.len = some figs → p.pixel = true → s.workAt p.work = some k →
      ∃ t k', exec (.pixelPassDone w errs) s = .next t ∧ (t.weaver w).pass = none ∧ Claims.counted s t (Reg.WVR_PASSES w) 1 ∧
        t.workAt p.work = some k' ∧ (k'.tile p.tile.trow p.tile.tcol).pix = .done ∧
        (k'.tile p.tile.trow p.tile.tcol).out = some { figs := figs, weights := s.weights, errs := errs }) ∧
    (∀ p figs errs i x, Claims.weaving s w .reweave p → s.decodeAt p.pos p.len = some figs → p.sample = some i →
      s.sample? i = some x → s.signature p { figs := figs, weights := s.weights, errs := errs } = x.sigW → x.working < 136 →
      x.working ≠ w →
      ∃ t, exec (.reweaveDone w errs) s = .next t ∧ (t.weaver w).pass = none ∧ t.sample? x.id = none ∧
        Claims.counted s t (Reg.WVR_RW_AGREE w) 1 ∧ Claims.counted s t (Reg.WVR_RW_AGREE x.working) 1 ∧
        Claims.counted s t (Reg.WVR_PASSES w) 1) ∧
    (∀ p figs errs i x, Claims.weaving s w .arbiter p → s.decodeAt p.pos p.len = some figs → p.sample = some i →
      s.sample? i = some x →
      ∃ t, exec (.arbiterDone w errs) s = .next t ∧
        t.reg (Reg.WVR_MM_LOG_0 1) = x.tile.stripe % 65536 + 65536 * unsignedOf 8 x.tile.tcol ∧
        t.reg (Reg.WVR_MM_LOG_0 2) = unsignedOf 24 x.tile.trow)

/-- A sample that finds no re-weaver in its time is void and counted (R88). An error of a weaver or its watchdog takes the pass from
it, counts, and its suspect count rises by one, below SUSPECT_LIMIT (R83, R84). A weaver written with RETIRE is RETIRED and the
spare of its skein WORKING (R84, R85). -/
def Obligations.WeaverFaultsComplete : Prop :=
  ∀ (s : State) (w : Nat), s.regsWf = true → s.wvr.weavers.length = 136 → w < 136 →
    (∀ t0 x d, s.wvr.samples = [x] → x.doneAt = some d → d + msTu (s.field Reg.WVR_RW_CFG 31 16) ≤ max s.time t0 → x.rw = none →
      ∃ t, exec (.reweaveHoldExpiry t0) s = .next t ∧ t.wvr.samples = [] ∧ Claims.counted s t Reg.WVR_RW_VOID 1) ∧
    (∀ p, (s.weaver w).pass = some p → (s.weaver w).suspect + 1 < atLeast1 (s.field Reg.WVR_LIMITS 7 0) →
      (∃ t, exec (.weaverUe w) s = .next t ∧ (t.weaver w).pass = none ∧ (t.weaver w).suspect = min 255 ((s.weaver w).suspect + 1) ∧
        Claims.counted s t (Reg.WVR_UE_COUNT w) 1) ∧
      (∃ t, exec (.weaverWatchdog w) s = .next t ∧ (t.weaver w).pass = none ∧
        (t.weaver w).suspect = min 255 ((s.weaver w).suspect + 1) ∧ Claims.counted s t (Reg.WVR_WDOG_COUNT w) 1)) ∧
    (∀ x, Claims.taken s (Reg.WVR_CMD w) 1 → (s.weaver w).st = .working → s.spareOf (w / 17) = some x → (s.weaver x).pass = none →
      ∃ t, exec (.weaverRetire w) s = .next t ∧ (t.weaver w).st = .retired ∧ (t.weaver x).st = .working)

/-- A due slice is corrected with its bound set and handed to the codec (R93, R94, R111). A next stripe whose set passes Table 4.4
is bound to it, at once or by BIND_ACTIVE (R113, R115); RESUME ends a halt (R118). The codec stores a slice in its slot (R134),
and goes on with one that it waited with (R136). A staged slice of its turn is expanded into its footprint slot (R137, R138). A
projection shows the rates, asserts the hint below LEAD_MIN and releases it when the stripe is done (R144, R145). -/
def Obligations.CorrectionAndStagingComplete : Prop :=
  ∀ (s : State), s.regsWf = true →
    (∀ k b stripe w, s.liveOf stripe = some k → k.set = some b → s.slicedue k w = true →
      (∀ m ∈ s.sets.marks, m.setB ≠ b ∨ 512 ≤ m.word) → s.fogPoison k (s.page b 0) (k.sliceOf w) = false →
      (k.readsDensity (s.page b 0) (k.sliceOf w) = true → (Claims.ready s k b w).densityReady k (k.sliceOf w) = true) →
      ∃ t, exec (.correctSlice stripe w) s = .next t ∧
        t.cor.slices = (Claims.ready s k b w).cor.slices ++ [Claims.corrected (Claims.ready s k b w) k w (s.page b 0)]) ∧
    (∀ k, Claims.binds s k → ∃ t, exec .bindNextStripe s = .next t ∧ t.cor.waitBind = false ∧ t.cor.bindActive = false ∧
        ∃ k' ∈ t.cor.works, k'.id = k.id ∧ k'.set = some (s.ensureNext.setFor k)) ∧
    (∀ k, Claims.taken s Reg.COR_CMD 1 → s.cor.waitBind = true → Claims.binds (Claims.asked s) k →
      ∃ t, exec .bindActive s = .next t ∧ t.cor.waitBind = false ∧ t.cor.bindActive = false ∧
        ∃ k' ∈ t.cor.works, k'.id = k.id ∧ k'.set = some ((Claims.asked s).ensureNext.setFor k)) ∧
    (Claims.taken s Reg.COR_CMD 2 → ∃ t, exec .corResume s = .next t ∧ t.cor = { s.cor with halt := none }) ∧
    (∀ k nb x stripe, Claims.codes s k nb x →
      (s.liveOf stripe = some k → s.stg.wait = none →
        ∃ t, exec (.sliceCoded stripe x.w) s = .next t ∧ x ∉ t.cor.slices ∧
          t.stg.slices.head? = some (nb + x.w, { work := k.id, w := x.w }) ∧ t.stg.wait = none) ∧
      (∀ y, s.stg.wait = some (y, k.id, x.w) →
        ∃ t, exec .encoderResume s = .next t ∧ x ∉ t.cor.slices ∧
          t.stg.slices.head? = some (nb + x.w, { work := k.id, w := x.w }) ∧ t.stg.wait = none)) ∧
    (∀ n x k w l, s.stg.slices.find? (fun p => p.1 = n) = some (n, x) → s.workOfN n = some (k, w) → x.expanded = false →
      x.lost = false → s.stages = true → s.fpFree n = true → s.expandTurn n = true → s.stagedPoison n = false →
      s.headerOk k n w = true → State.decoded 4097 s k (n - w) w = some l →
      ∃ t, exec (.expandSlice n) s = .next t ∧ t.stg.fp.head? = some (n % s.fpSlots, n) ∧
        t.stg.slices.find? (fun p => p.1 = n) = some (n, { x with expanded := true })) ∧
    (∀ t0, ∃ t, exec (.hintProjection t0) s = .next t ∧
      t.reg Reg.STG_RATE = min ((lately (max s.time t0) s.stg.doneTimes).length * 1000 / 16384) 65535 +
        65536 * min ((lately (max s.time t0) s.stg.tickTimes).length * 1000 / 16384) 65535 ∧
      (s.exposure = none ∨ s.leadDone.2 = true → t.stg.hint = false) ∧
      (s.exposure ≠ none → s.leadDone.2 = false → s.stg.hint = false → s.lead < s.leadMin →
        t.stg.hint = true ∧ Claims.counted s t Reg.STG_HINTS 1))

/-- A refresh that falls due is issued and repays one postponed refresh, or is postponed while real-time requests wait or PANIC
is up, or is forced at POSTPONE_MAX (R297); a quiet channel goes into power-down when MEM_CTRL and MEM_PD say so (R300). Either
way the bytes of memory and the other channels stay. -/
def Obligations.RefreshAndPowerDownComplete : Prop :=
  ∀ (s : State) (p pc : Nat), s.regsWf = true → s.memRuns = true → (s.chan p).inUse = true →
    (∀ busy, (busy || (s.chan p).panic) = false →
      ∃ t, exec (.refreshDue p pc busy) s = .next t ∧ getPair (t.chan p).owed pc = getPair (s.chan p).owed pc - 1
        ∧ getPair (t.chan p).pd pc = false ∧ (∀ q, q ≠ p → t.chan q = s.chan q) ∧ t.dram.cells = s.dram.cells) ∧
    (∀ busy, (busy || (s.chan p).panic) = true → getPair (s.chan p).owed pc < s.postponeMax →
      ∃ t, exec (.refreshDue p pc busy) s = .next t ∧ getPair (t.chan p).owed pc = getPair (s.chan p).owed pc + 1
        ∧ getPair (t.chan p).pd pc = false ∧ (∀ q, q ≠ p → t.chan q = s.chan q) ∧ t.dram.cells = s.dram.cells) ∧
    (∀ busy, (busy || (s.chan p).panic) = true → s.postponeMax ≤ getPair (s.chan p).owed pc →
      ∃ t, exec (.refreshDue p pc busy) s = .next t ∧ (t.chan p).owed = (s.chan p).owed
        ∧ getPair (t.chan p).pd pc = false ∧ Claims.counted s t Reg.MEM_FORCED_REF 1 ∧ t.dram.cells = s.dram.cells) ∧
    (s.bit Reg.MEM_CTRL 4 = true → 0 < s.field Reg.MEM_PD 15 0 → (s.chan p).panic = false →
      ∃ t, exec (.dramPowerDown p pc) s = .next t ∧ getPair (t.chan p).pd pc = true
        ∧ (∀ q, q ≠ p → t.chan q = s.chan q) ∧ t.dram.cells = s.dram.cells)

/-- A request of one of the two ageing classes that is promoted is counted in MEM_AGED (R295), and a channel that takes its
periodic recalibration with margins that pass shows them in MEM_CH_EYE and stays in its state (R302). -/
def Obligations.AgeingAndRecalibrationComplete : Prop :=
  ∀ (s : State), s.regsWf = true → s.memRuns = true →
    (∀ cls, cls = .ingest ∨ cls = .background →
      ∃ t, exec (.agePromotion cls) s = .next t ∧ Claims.counted s t Reg.MEM_AGED 1 ∧ t.dram = s.dram) ∧
    (∀ p m, s.bit Reg.MEM_CTRL 6 = true → s.recals p = true → (s.chan p).panic = false → s.minWidth ≤ m.readWidth →
      s.minWidth ≤ m.writeWidth → s.minHeight ≤ m.height →
      ∃ t, exec (.dramRecalPeriodic p m) s = .next t
        ∧ (t.chan p).eye = eyeWord m.readWidth m.writeWidth m.height ((s.chan p).eye / 2 ^ 24)
        ∧ (t.chan p).state = (s.chan p).state ∧ ∀ q, q ≠ p → t.chan q = s.chan q)

/-- A hard cause (CAPAR at or above its threshold, a read that times out) moves the logical channel to the spare of its stack at
once (R319, R321); fewer CAPAR errors are counted in MEM_CH_CAPAR and no channel changes. -/
def Obligations.HardFenceCompletes : Prop :=
  ∀ (s : State) (p l sp : Nat), p < 64 → s.regsWf = true → s.memRuns = true → s.carried p = some l →
    s.spareChan (p / 16) = some sp →
    (∀ n, atLeast1 (s.field Reg.MEM_FENCE_CFG 15 8) ≤ n →
      ∃ t, exec (.capar p n) s = .next t ∧ (t.chan p).state = .failed ∧ (t.chan p).fault = 2
        ∧ (t.chan sp).state = .active ∧ (t.chan sp).logical = l % 15 ∧ ∀ q, q ≠ p → q ≠ sp → t.chan q = s.chan q) ∧
    (∀ n, 0 < n → n < atLeast1 (s.field Reg.MEM_FENCE_CFG 15 8) →
      ∃ t, exec (.capar p n) s = .next t ∧ Claims.counted s t (Reg.MEM_CH_CAPAR p) n ∧ t.dram = s.dram) ∧
    (∃ t, exec (.readTimeout p) s = .next t ∧ (t.chan p).state = .failed ∧ (t.chan p).fault = 3
        ∧ (t.chan sp).state = .active ∧ (t.chan sp).logical = l % 15 ∧ ∀ q, q ≠ p → q ≠ sp → t.chan q = s.chan q)

/-- A planned cause (too high a rate of correctable errors with AUTO_FENCE, or a write of FENCE to MEM_CH_CMD) starts the copy of
the channel to its spare (R319, R320); when the copy is done the spare carries the logical channel (R320); without AUTO_FENCE the
cause is only logged (R319). -/
def Obligations.PlannedFenceCompletes : Prop :=
  ∀ (s : State) (p l sp : Nat), s.memRuns = true → s.carried p = some l →
    (∀ rate, atLeast1 (s.field Reg.MEM_FENCE_CFG 31 16) < rate → s.bit Reg.MEM_CTRL 5 = true →
      s.spareChan (p / 16) = some sp → (∀ c ∈ s.dram.copies, c.stack ≠ p / 16) → (∀ w ∈ s.dram.sweeps, w.lch / 15 ≠ p / 16) →
      ∃ t, exec (.ceRate p rate) s = .next t ∧ (t.chan p).state = .fencing ∧ (t.chan p).fault = 5
        ∧ t.dram.copies = s.dram.copies ++ [{ stack := p / 16, chan := p, spare := sp, cause := 5 }]) ∧
    (∀ rate, atLeast1 (s.field Reg.MEM_FENCE_CFG 31 16) < rate → s.bit Reg.MEM_CTRL 5 = false →
      ∃ t, exec (.ceRate p rate) s = .next t ∧ t.dram.chans = s.dram.chans ∧ t.dram.copies = s.dram.copies) ∧
    (Claims.taken s (Reg.MEM_CH_CMD p) 1 → s.glb.mode ∈ [.ready, .expose, .dryrun, .service] →
      s.spareChan (p / 16) = some sp → (∀ c ∈ s.dram.copies, c.stack ≠ p / 16) → (∀ w ∈ s.dram.sweeps, w.lch / 15 ≠ p / 16) →
      ∃ t, exec (.memChFence p) s = .next t ∧ (t.chan p).state = .fencing ∧ (t.chan p).fault = 7
        ∧ t.dram.copies = s.dram.copies ++ [{ stack := p / 16, chan := p, spare := sp, cause := 7 }]) ∧
    (∀ c, s.dram.copies.find? (fun c => c.stack = p / 16) = some c → c.chan = p → c.spare = sp → (s.chan sp).inUse = true →
      sp ≠ p → s.dram.flips = [] →
      ∃ t, exec (.fenceCopyDone (p / 16)) s = .next t ∧ (t.chan p).state = .failed ∧ (t.chan sp).state = .active
        ∧ (t.chan sp).logical = l % 15 ∧ (∀ c ∈ t.dram.copies, c.stack ≠ l / 15) ∧ t.dram.cells = s.dram.cells)

/-- A sweep that is done is taken from the list of rebuilds (R321); a FAILED channel retrained in SERVICE with margins that pass
becomes SPARE, or OFF beside a spare, and its eye is shown (R322); a FAILED or OFF channel can be retired for good (R322). -/
def Obligations.SweepAndChannelCommandsComplete : Prop :=
  ∀ (s : State),
    (∀ l w, s.dram.sweeps.find? (fun w => w.lch = l ∧ w.bitmap = true) = some w →
      ∃ t, exec (.rebuildSweepDone l) s = .next t ∧ ∀ x ∈ t.dram.sweeps, x.lch ≠ l) ∧
    (∀ p r, Claims.taken s (Reg.MEM_CH_CMD p) 2 → s.glb.mode = .service → s.memRuns = true → p < 64 →
      (s.chan p).state = .failed → s.failedStep r = none →
      ∃ t, exec (.memChRetrain p r) s = .next t
        ∧ (t.chan p).state = (if (s.spareChan (p / 16)).isNone then .spare else .off)
        ∧ (t.chan p).eye = eyeWord r.readWidth r.writeWidth r.height r.caWidth ∧ ∀ q, q ≠ p → t.chan q = s.chan q) ∧
    (∀ p, Claims.taken s (Reg.MEM_CH_CMD p) 4 → s.glb.mode = .service → p < s.dram.chans.length →
      (s.chan p).state = .failed ∨ (s.chan p).state = .off →
      ∃ t, exec (.memChRetire p) s = .next t ∧ (t.chan p).state = .retired ∧ ∀ q, q ≠ p → t.chan q = s.chan q)

/-- The scrubber's request moves its pointer on by one beat, and back to 0 at the end of its channel with a pass completed (R307);
words without an error are left as they are (R308). A queued write-back stores its word clean and enters it in the watch list
(R308, R309). -/
def Obligations.ScrubAndWritebackComplete : Prop :=
  (∀ (s : State) (l t : Nat), (s.at_ t).scrubDue l = true → s.dram.flips = [] →
    ∃ u, exec (.scrubRead l [] t) s = .next u ∧ u.dram.cells = s.dram.cells ∧ u.dram.marks = s.dram.marks ∧
      (smGet (fun _ => 0) s.dram.scrub l + 64 < channelSpan s.dram.order l →
        u.dram.scrub = smPut (fun _ => 0) l (smGet (fun _ => 0) s.dram.scrub l + 64) s.dram.scrub ∧ u.dram.passes = s.dram.passes) ∧
      (channelSpan s.dram.order l ≤ smGet (fun _ => 0) s.dram.scrub l + 64 →
        u.dram.scrub = smPut (fun _ => 0) l 0 s.dram.scrub ∧
        u.dram.passes = smPut (fun _ => 0) l (smGet (fun _ => 0) s.dram.passes l + 1) s.dram.passes)) ∧
  (∀ (s : State) (p n : Nat), s.regsWf = true → s.memRuns = true → s.dram.wbq.find? (fun n => s.physOf n = p) = some n →
    s.dram.wordClass n ≠ .clean → s.dram.wordClass n ≠ .marked → s.dram.wordClass n ≠ .ue →
    ∃ t, exec (.writebackQueue p) s = .next t ∧ t.dram.wbq = s.dram.wbq.erase n ∧ Claims.counted s t Reg.ECC_WB_COUNT 1 ∧
      t.dram.flips = smPut (fun _ => (0, 0)) n (0, 0) s.dram.flips ∧ t.dram.marks = s.dram.marks)

/-- A read that meets a correctable error in a word that is not watched counts it (R308, R312), and the word waits for its
write-back in the queue of its channel while there is room. -/
def Obligations.DemandReadErrorCompletes : Prop :=
  ∀ (s : State) (a t : Nat) (cls : DramClass) (dx : Dword) (cx : Byte), s.regsWf = true → (s.at_ t).memRuns = true →
    a < localTop → s.dram.flips = [] → s.dram.marks.contains (a / 8) = false → s.dram.lostWord (a / 8) = false →
    s.regionAt (8 * (a / 8)) ≠ .reserve → s.meetsReserve (8 * (a / 8)) 8 = false →
    (∀ e ∈ s.dram.watchOf (s.dram.chanOfWord (a / 8)), e.addr ≠ a / 8) →
    (eccClass (eccSyndrome false dx.toNat cx.toNat) = .check ∨ ∃ b, eccClass (eccSyndrome false dx.toNat cx.toNat) = .data b) →
    (dx.toNat, cx.toNat) ≠ (0, 0) →
    ∃ u, exec (.demandReadError a cls dx cx t) s = .next u ∧ Claims.counted s u Reg.ECC_CE_COUNT 1 ∧
      u.dram.cells = s.dram.cells ∧ u.dram.marks = s.dram.marks ∧
      (s.dram.wbq = [] → u.dram.wbq = [a / 8])

/-- An error of one bit in an SRAM word is corrected and counted, and the word is watched for three passes; an uncorrectable
word of a configuration set is counted and marked in that set (R313, Table 10.8). -/
def Obligations.SramScrubCompletes : Prop :=
  ∀ (s : State) (store word : Nat) (dx : Dword) (cx : Byte), s.regsWf = true → s.bit Reg.ECC_CTRL 1 = true → s.domOn 6 = true →
    (s.sram.watch = [] → (store, word) ∉ s.sram.marks → eccClass (eccSyndrome false dx.toNat cx.toNat) = .check →
      ∃ t, exec (.sramScrub store word dx cx) s = .next t ∧ Claims.counted s t Reg.ECC_SRAM_CE 1 ∧
        t.sram = { s.sram with watch := [((store, word), 3)] } ∧ t.sets = s.sets) ∧
    (store = 0x09 → (store, word) ∉ s.sram.marks → s.sets.marks = [] → eccClass (eccSyndrome false dx.toNat cx.toNat) = .ue →
      ∃ t, exec (.sramScrub store word dx cx) s = .next t ∧ Claims.counted s t Reg.ECC_SRAM_UE 1 ∧
        t.sram.marks = (store, word) :: s.sram.marks ∧
        t.sets.marks = [{ setB := decide (0x10000 ≤ 8 * word), word := 8 * word % 0x10000 / 8, lo := false, hi := false }])

/-- GO starts the post-package repair of the row in MEM_PPR_ADDR, and its end is shown in MEM_PPR_STAT (R318); a write of
ECC_FLIP_CTRL that arms needs SERVICE or DRYRUN (R306); a write of POP takes the oldest entry from the integrity log (R323). -/
def Obligations.RepairFlipAndLogComplete : Prop :=
  ∀ (s : State) (v : Word), s.regsWf = true →
    (Claims.taken s Reg.MEM_PPR_CMD v.toNat → v.getLsbD 0 = true → s.dram.ppr = none →
      ∃ t, exec (.pprGo v) s = .next t ∧ t.dram.ppr = some (s.reg Reg.MEM_PPR_ADDR) ∧ t.reg Reg.MEM_PPR_STAT = 1) ∧
    (∀ row code, s.dram.ppr = some row →
      ∃ t, exec (.pprDone code) s = .next t ∧ t.dram.ppr = none ∧
        t.reg Reg.MEM_PPR_STAT = (if code = 0 then 2 else 3 + 16 * (code % 4))) ∧
    (Claims.taken s Reg.ECC_FLIP_CTRL v.toNat → (v.getLsbD 0 = true → s.glb.mode = .service ∨ s.glb.mode = .dryrun) →
      ∃ t, exec (.eccFlipArm v) s = .next t ∧ t.reg Reg.ECC_FLIP_CTRL = v.toNat ∧ t.dram = s.dram) ∧
    (Claims.taken s Reg.ECC_LOG_POP v.toNat → v.getLsbD 0 = true →
      ∃ t, exec (.eccLogPop v) s = .next t ∧ t.dram = { s.dram with log := s.dram.log.tail })

/-- A read of a register whose block the silent access policy blocks (R357) returns zero and clears nothing: the register holds
what it held (R11). -/
def Obligations.BlockedReadClearsNothing : Prop :=
  ∀ (s : State) (off : Nat), s.regsWf = true → s.domOn 0 = true → off < 2 ^ 24 → s.accessOff off = true →
    ∃ t, exec (.rcRead off) s = .next t ∧ t.readData = 0 ∧ t.reg off = s.reg off

/-- A command completed with status STATE reports the mode in MODE of its record, which lies in host memory, counts in
HST_STATE_REFUSED and leaves its opcode and the mode in HST_LAST_REFUSED (R264), whichever check gave the status: every refusal
writes its record through this one operation. -/
def Obligations.StateRefusalIsReported : Prop :=
  ∀ (s : State) (r detail : Nat) (e : CurEntry), s.regsWf = true → s.ringsWf = true → s.hostWf = true → isCmdRing r = true →
    detail < 256 → s.linkReady = true → (s.ring r).cur = some e → (s.ring (otherRing r)).cur = none →
    (s.refuse r Stat.state detail).reg Reg.HST_LAST_REFUSED = fieldLE e.bytes 0 1 + 256 * s.modeCode ∧
      Claims.counted s (s.refuse r Stat.state detail) Reg.HST_STATE_REFUSED 1 ∧
      smGet hostDefault (s.refuse r Stat.state detail).hst.mem (s.headAddr r + 50) = BitVec.ofNat 8 s.modeCode

/-- What the host commands leave as it was. Each clause names the parts of the state that its commands may change and
the blocks of BAR0 (by their offset in MiB, R8) whose registers they may write: block 0xF for the interrupts and 0xD
for the recorder stand there because a command that raises a source or logs an event writes them; every other part,
every byte of local memory where bytes are not named, and every other register read as before. A clause that names no
blocks speaks of the parts only. -/
def Obligations.HostCommandFrame : Prop :=
  ∀ (s : State), s.regsWf = true →
    (∀ s', (∃ ring blk, exec (.loadJobKey ring blk) s = .next s') ∨ (∃ ring r, exec (.trainRim ring r) s = .next s') ∨
      (∃ ring writeErr, exec (.retirePage ring writeErr) s = .next s') ∨ (∃ ring, exec (.syncFigure ring) s =
      .next s') →
      Claims.leaves [.hostMem, .fig, .wvr, .cor, .stg, .bmf, .trk, .lnk, .dram, .bytes, .sram, .net, .ptp, .pwr, .clk,
        .rings, .linkConfig, .waits] s s') ∧
    (∀ s', (∃ ring t u, exec (.setMode ring t u) s = .next s') →
      Claims.leaves [.time, .free, .hostMem, .glb, .sets, .run, .runEnded, .fig, .wvr, .cor, .stg, .bmf, .trk, .lnk,
        .dram, .bytes, .sram, .net, .ptp, .pwr, .clk, .thm, .rings, .linkConfig, .waits] s s') ∧
    (∀ s', (∃ ring t, exec (.armStripe ring t) s = .next s') →
      Claims.onlyTouches [.time, .hostMem, .sets, .run, .fig, .wvr, .cor, .stg, .bmf, .trk, .lnk, .dram, .bytes,
        .rings, .waits] [0x1, 0x3, 0x4, 0x5, 0x9, 0xA, 0xB, 0xD, 0xF] s s') ∧
    (∀ s', (∃ ring t, exec (.abort ring t) s = .next s') →
      Claims.onlyTouches [.time, .free, .hostMem, .glb, .run, .runEnded, .wvr, .cor, .stg, .bmf, .trk, .lnk, .dram,
        .bytes, .rings, .waits] [0x0, 0x1, 0x5, 0x6, 0x7, 0x9, 0xA, 0xB, 0xD, 0xF] s s') ∧
    (∀ s', (∃ ring, exec (.swapSetSeal ring) s = .next s') ∨ (∃ ring, exec (.swapSetCancel ring) s = .next s') →
      Claims.onlyTouches [.hostMem, .sets, .run, .cor, .stg, .dram, .bytes, .rings, .waits] [0x1, 0x4, 0x5, 0x9, 0xA,
        0xB, 0xD, 0xF] s s') ∧
    (∀ s', (∃ ring t, exec (.swapSetNow ring t) s = .next s') →
      Claims.onlyTouches [.time, .hostMem, .sets, .run, .cor, .stg, .dram, .bytes, .ptp, .rings, .waits] [0x1, 0x4,
        0x5, 0x9, 0xA, 0xB, 0xD, 0xE, 0xF] s s') ∧
    (∀ s', (∃ ring r, exec (.trainDram ring r) s = .next s') ∨ (∃ ring r, exec (.calibrateRimRecal ring r) s = .next
      s') ∨ (∃ ring r, exec (.calibrateDramRecal ring r) s = .next s') →
      Claims.leaves [.free, .hostMem, .glb, .run, .runEnded, .fig, .wvr, .cor, .stg, .bmf, .trk, .lnk, .dram, .bytes,
        .sram, .net, .ptp, .pwr, .clk, .rings, .linkConfig, .waits] s s') ∧
    (∀ s', (∃ ring u, exec (.calibrateUpsettSet ring u) s = .next s') ∨ (∃ ring temps age, exec (.calibrateSensors
      ring temps age) s = .next s') →
      Claims.leaves [.free, .hostMem, .glb, .run, .runEnded, .fig, .wvr, .cor, .stg, .bmf, .trk, .lnk, .dram, .bytes,
        .sram, .net, .ptp, .pwr, .clk, .thm, .rings, .linkConfig, .waits] s s') ∧
    (∀ s', (∃ ring t resp, exec (.readCounters ring t resp) s = .next s') →
      Claims.leaves [.time, .hostMem, .fig, .wvr, .cor, .stg, .bmf, .trk, .lnk, .dram, .bytes, .sram, .net, .ptp,
        .pwr, .clk, .rings, .linkConfig, .waits] s s') ∧
    (∀ s', (∃ ring, exec (.syncBarrier ring) s = .next s') ∨ (∃ ring, exec (.syncRunEnd ring) s = .next s') →
      Claims.onlyTouches [.hostMem, .rings, .waits] [0x1, 0xB, 0xD, 0xF] s s')

/-- What the ring, DMA, interrupt and register commands leave as it was. Each clause names the parts of the state that
its commands may change and the blocks of BAR0 (by their offset in MiB, R8) whose registers they may write: block 0xF
for the interrupts and 0xD for the recorder stand there because a command that raises a source or logs an event writes
them; every other part, every byte of local memory where bytes are not named, and every other register read as before.
A clause that names no blocks speaks of the parts only. -/
def Obligations.RingAndRegisterFrame : Prop :=
  ∀ (s : State), s.regsWf = true →
    (∀ s', (∃ page off be v, exec (.doorbell page off be v) s = .next s') →
      Claims.onlyTouches [.rings] [0x1, 0xC, 0xD, 0xF] s s') ∧
    (∀ s', (∃ ring e, exec (.entryFetch ring e) s = .next s') ∨ (∃ ring e, exec (.phaseRefetch ring e) s = .next s') →
      Claims.onlyTouches [.hostMem, .net, .rings, .waits] [0x1, 0xB, 0xD, 0xF] s s') ∧
    (∀ s', (∃ ring, exec (.ringReset ring) s = .next s') ∨ (∃ ring v, exec (.ringEnable ring v) s = .next s') ∨ (∃
      ring v, exec (.ringDisable ring v) s = .next s') →
      Claims.onlyTouches [.hostMem, .net, .rings, .waits] [0x1, 0xB, 0xC, 0xD, 0xF] s s') ∧
    (∀ s', (∃ ring, exec (.ringResume ring) s = .next s') →
      Claims.onlyTouches [.rings] [0xC, 0xD, 0xF] s s') ∧
    (∀ s', (∃ ring data, exec (.dmaH2L ring data) s = .next s') ∨ (∃ ring, exec (.dmaL2H ring) s = .next s') ∨ (∃
      ring, exec (.dmaL2L ring) s = .next s') ∨ (∃ ring data, exec (.dmaH2F ring data) s = .next s') →
      Claims.onlyTouches [.hostMem, .dram, .bytes, .rings, .waits] [0x1, 0x9, 0xA, 0xB, 0xD, 0xF] s s') ∧
    (∀ s', (∃ ring data, exec (.figWait ring data) s = .next s') →
      Claims.onlyTouches [.dram, .bytes, .rings] [0x1, 0x9, 0xA, 0xD, 0xF] s s') ∧
    (∀ s', (∃ ring errs, exec (.descriptorComplete ring errs) s = .next s') →
      Claims.onlyTouches [.free, .hostMem, .fig, .wvr, .cor, .stg, .bmf, .dram, .bytes, .rings, .waits] [0x1, 0x5,
        0x7, 0x9, 0xA, 0xB, 0xD, 0xE, 0xF] s s') ∧
    (∀ s', (∃ kind, exec (.hostPortReset kind) s = .next s') →
      Claims.onlyTouches [.rings, .linkConfig, .waits] [0x1, 0xD, 0xF] s s') ∧
    (∀ s', (∃ on, exec (.busMasterEnable on) s = .next s') →
      Claims.onlyTouches [.hostMem, .net, .rings, .linkConfig, .waits] [0x1, 0xB, 0xD, 0xF] s s') ∧
    (∀ s', (∃ v, exec (.irqMessageSend v) s = .next s') →
      Claims.onlyTouches [] [0xD, 0xF] s s') ∧
    (∀ s', (∃ hi v, exec (.irqPendClear hi v) s = .next s') ∨ (∃ hi v, exec (.irqEnableWrite hi v) s = .next s') ∨ (∃
      hi v, exec (.irqSet hi v) s = .next s') →
      Claims.onlyTouches [] [0xC, 0xD, 0xF] s s') ∧
    (∀ s', (∃ addr, exec (.rcRead addr) s = .next s') →
      Claims.leaves [.readData] s s') ∧
    (∀ s', (∃ t, exec (.ptpNowRead t) s = .next s') ∨ (∃ t, exec (.ptpFrcRead t) s = .next s') ∨ (∃ n t, exec
      (.residencyRead n t) s = .next s') →
      Claims.leaves [.time, .readData] s s') ∧
    (∀ s', (∃ addr be v, exec (.configSetWrite addr be v) s = .next s') →
      Claims.leaves [.sets] s s')

/-- What the commands of the figure decoder, the weavers, the correction and the staging leave as it was. Each clause
names the parts of the state that its commands may change and the blocks of BAR0 (by their offset in MiB, R8) whose
registers they may write: block 0xF for the interrupts and 0xD for the recorder stand there because a command that
raises a source or logs an event writes them; every other part, every byte of local memory where bytes are not named,
and every other register read as before. -/
def Obligations.PatternPathFrame : Prop :=
  ∀ (s : State), s.regsWf = true →
    (∀ s', exec .verifyJobHeader s = .next s' ∨ exec .verifyClassTable s = .next s' ∨ exec .verifyStripe s = .next s'
      ∨ exec .verifyTileRow s = .next s' ∨ exec .verifyTileBin s = .next s' ∨ exec .verifyJobEnd s = .next s' →
      Claims.onlyTouches [.fig, .dram, .bytes] [0x2, 0x9, 0xA, 0xD, 0xF] s s') ∧
    (∀ s', (∃ v, exec (.figErrlogPop v) s = .next s') →
      Claims.onlyTouches [.fig] [0xC, 0xD, 0xF] s s') ∧
    (∀ s', (∃ w, exec (.weaverTakePass w) s = .next s') →
      Claims.onlyTouches [.fig, .wvr, .cor, .stg, .dram, .bytes] [0x2, 0x3, 0x4, 0x5, 0x9, 0xA, 0xD, 0xF] s s') ∧
    (∀ s', (∃ w errs, exec (.densityPassDone w errs) s = .next s') ∨ (∃ w errs, exec (.pixelPassDone w errs) s = .next
      s') →
      Claims.onlyTouches [.fig, .wvr, .cor, .dram, .bytes] [0x2, 0x3, 0x4, 0x9, 0xA, 0xD, 0xF] s s') ∧
    (∀ s', (∃ w errs, exec (.reweaveDone w errs) s = .next s') ∨ (∃ w errs, exec (.arbiterDone w errs) s = .next s') →
      Claims.onlyTouches [.wvr, .cor, .stg, .dram, .bytes] [0x3, 0x4, 0x5, 0x9, 0xA, 0xD, 0xF] s s') ∧
    (∀ s', (∃ t, exec (.reweaveHoldExpiry t) s = .next s') →
      Claims.onlyTouches [.time, .wvr, .cor, .stg, .dram, .bytes] [0x3, 0x4, 0x5, 0x9, 0xA, 0xD, 0xF] s s') ∧
    (∀ s', (∃ w, exec (.weaverUe w) s = .next s') ∨ (∃ w, exec (.weaverWatchdog w) s = .next s') →
      Claims.onlyTouches [.wvr, .cor] [0x3, 0xD, 0xF] s s') ∧
    (∀ s', (∃ w, exec (.weaverRetire w) s = .next s') →
      Claims.onlyTouches [.wvr, .cor] [0x3, 0xC, 0xD, 0xF] s s') ∧
    (∀ s', (∃ stripe w, exec (.correctSlice stripe w) s = .next s') →
      Claims.onlyTouches [.cor, .dram, .bytes] [0x4, 0x9, 0xA, 0xD, 0xF] s s') ∧
    (∀ s', exec .bindNextStripe s = .next s' →
      Claims.onlyTouches [.wvr, .cor, .stg, .dram, .bytes] [0x4, 0x9, 0xA, 0xD, 0xF] s s') ∧
    (∀ s', exec .bindActive s = .next s' →
      Claims.onlyTouches [.wvr, .cor, .stg, .dram, .bytes] [0x4, 0x9, 0xA, 0xC, 0xD, 0xF] s s') ∧
    (∀ s', exec .corResume s = .next s' →
      Claims.onlyTouches [.cor] [0xC, 0xD, 0xF] s s') ∧
    (∀ s', (∃ stripe w, exec (.sliceCoded stripe w) s = .next s') ∨ exec .encoderResume s = .next s' →
      Claims.onlyTouches [.fig, .wvr, .cor, .stg, .dram, .bytes] [0x3, 0x5, 0x7, 0x9, 0xA, 0xD, 0xF] s s') ∧
    (∀ s', (∃ n, exec (.expandSlice n) s = .next s') →
      Claims.onlyTouches [.cor, .stg, .dram, .bytes] [0x5, 0x9, 0xA, 0xD, 0xF] s s') ∧
    (∀ s', (∃ t, exec (.hintProjection t) s = .next s') →
      Claims.onlyTouches [.time, .stg] [0x5, 0x7, 0xD, 0xF] s s')

/-- What the commands of the beam feed, the stage tracking and the Rim link leave as it was. Each clause names the
parts of the state that its commands may change and the blocks of BAR0 (by their offset in MiB, R8) whose registers
they may write: block 0xF for the interrupts and 0xD for the recorder stand there because a command that raises a
source or logs an event writes them; every other part, every byte of local memory where bytes are not named, and every
other register read as before. -/
def Obligations.ExposureFrame : Prop :=
  ∀ (s : State), s.regsWf = true →
    (∀ s', (∃ t, exec (.tickIssue t) s = .next s') ∨ (∃ t, exec (.simTick t) s = .next s') →
      Claims.onlyTouches [.time, .free, .hostMem, .glb, .sets, .run, .runEnded, .fig, .wvr, .cor, .stg, .bmf, .trk,
        .lnk, .dram, .bytes, .ptp, .rings, .waits] [0x0, 0x1, 0x3, 0x4, 0x5, 0x6, 0x7, 0x8, 0x9, 0xA, 0xB, 0xD,
        0xE, 0xF] s s') ∧
    (∀ s', exec .beamStoreLoadDone s = .next s' →
      Claims.onlyTouches [.bmf, .dram, .bytes] [0x6, 0x9, 0xA, 0xD, 0xF] s s') ∧
    (∀ s', exec .workingTableUpdate s = .next s' →
      Claims.onlyTouches [.bmf] [0x6, 0xD, 0xF] s s') ∧
    (∀ s', exec .thermalDecay s = .next s' →
      Claims.onlyTouches [.bmf] [0xD, 0xF] s s') ∧
    (∀ s', (∃ q t, exec (.tempStale q t) s = .next s') →
      Claims.onlyTouches [.time, .run] [0x6, 0xD, 0xF] s s') ∧
    (∀ s', (∃ t missed, exec (.frameLaunch t missed) s = .next s') ∨ (∃ t, exec (.ackDrainTimeout t) s = .next s') ∨
      (∃ lane t, exec (.laneLos lane t) s = .next s') ∨ (∃ lane t, exec (.laneLock lane t) s = .next s') ∨ (∃ lane
      t, exec (.retSilent lane t) s = .next s') ∨ (∃ lane t, exec (.laneRelockTimeout lane t) s = .next s') →
      Claims.onlyTouches [.time, .free, .hostMem, .glb, .run, .runEnded, .wvr, .cor, .stg, .bmf, .trk, .lnk, .dram,
        .bytes, .rings, .waits] [0x0, 0x1, 0x5, 0x6, 0x7, 0x8, 0x9, 0xA, 0xB, 0xD, 0xF] s s') ∧
    (∀ s', (∃ axis a b t, exec (.encoderEdge axis a b t) s = .next s') ∨ (∃ pair t, exec (.encoderLos pair t) s =
      .next s') ∨ (∃ bits t, exec (.positionWord bits t) s = .next s') ∨ (∃ t, exec (.positionWordLoss t) s =
      .next s') ∨ (∃ t, exec (.plateForecast t) s = .next s') →
      Claims.onlyTouches [.time, .free, .hostMem, .glb, .run, .runEnded, .wvr, .cor, .stg, .bmf, .trk, .lnk, .dram,
        .bytes, .rings, .waits] [0x0, 0x1, 0x5, 0x6, 0x7, 0x9, 0xA, 0xB, 0xD, 0xF] s s') ∧
    (∀ s', (∃ axis t, exec (.indexEdge axis t) s = .next s') ∨ (∃ t, exec (.simFreeTick t) s = .next s') →
      Claims.onlyTouches [.time, .trk] [0x7, 0xD, 0xF] s s') ∧
    (∀ s', exec .presetSNow s = .next s' ∨ exec .presetSIdx s = .next s' ∨ exec .presetCNow s = .next s' ∨ exec
      .presetCIdx s = .next s' ∨ exec .anchorPw s = .next s' ∨ exec .simStop s = .next s' →
      Claims.onlyTouches [.trk] [0xC, 0xD, 0xF] s s') ∧
    (∀ s', exec .tickTrimUpdate s = .next s' →
      Claims.onlyTouches [.free, .trk] [0xD, 0xF] s s') ∧
    (∀ s', (∃ t, exec (.simRun t) s = .next s') →
      Claims.onlyTouches [.time, .trk] [0xC, 0xD, 0xF] s s') ∧
    (∀ s', (∃ lane words t, exec (.returnFrame lane words t) s = .next s') →
      Claims.onlyTouches [.time, .free, .hostMem, .glb, .run, .runEnded, .wvr, .cor, .stg, .bmf, .trk, .lnk, .dram,
        .bytes, .net, .rings, .waits] [0x0, 0x1, 0x5, 0x6, 0x7, 0x8, 0x9, 0xA, 0xB, 0xD, 0xF] s s') ∧
    (∀ s', (∃ t, exec (.tempQuorumTimeout t) s = .next s') →
      Claims.onlyTouches [.time, .lnk] [0x8, 0xD, 0xF] s s') ∧
    (∀ s', exec .telRateWindow s = .next s' ∨ (∃ lane state, exec (.lpreq lane state) s = .next s') →
      Claims.onlyTouches [.lnk] [0xD, 0xF] s s') ∧
    (∀ s', (∃ t, exec (.runEnd t) s = .next s') →
      Claims.onlyTouches [.time, .hostMem, .glb, .run, .runEnded, .wvr, .cor, .stg, .bmf, .trk, .lnk, .dram, .bytes,
        .rings, .waits] [0x1, 0x5, 0x6, 0x7, 0x9, 0xA, 0xB, 0xD, 0xF] s s') ∧
    (∀ s', (∃ lane block, exec (.controlBlockRx lane block) s = .next s') →
      Claims.onlyTouches [.lnk] [0x8, 0xD, 0xF] s s') ∧
    (∀ s', (∃ lane t, exec (.laneRetire lane t) s = .next s') →
      Claims.onlyTouches [.time, .free, .hostMem, .glb, .run, .runEnded, .wvr, .cor, .stg, .bmf, .trk, .lnk, .dram,
        .bytes, .rings, .waits] [0x0, 0x1, 0x5, 0x6, 0x7, 0x8, 0x9, 0xA, 0xB, 0xC, 0xD, 0xF] s s') ∧
    (∀ s', (∃ lane r, exec (.laneRetrain lane r) s = .next s') →
      Claims.onlyTouches [.lnk] [0x8, 0xC, 0xD, 0xF] s s') ∧
    (∀ s', (∃ lane v, exec (.laneInject lane v) s = .next s') →
      Claims.onlyTouches [] [0x8, 0xC, 0xD, 0xF] s s') ∧
    (∀ s', (∃ lane v, exec (.lanePrbs lane v) s = .next s') →
      Claims.onlyTouches [.free] [0x8, 0xC, 0xD, 0xF] s s') ∧
    (∀ s', (∃ t, exec (.challengeResend t) s = .next s') →
      Claims.onlyTouches [.time, .hostMem, .lnk, .rings, .waits] [0x1, 0x8, 0xB, 0xD, 0xF] s s') ∧
    (∀ s', (∃ lane r, exec (.spareRecal lane r) s = .next s') →
      Claims.onlyTouches [.free, .hostMem, .glb, .run, .runEnded, .wvr, .cor, .stg, .bmf, .trk, .lnk, .dram, .bytes,
        .rings, .waits] [0x0, 0x1, 0x5, 0x6, 0x7, 0x8, 0x9, 0xA, 0xB, 0xD, 0xF] s s') ∧
    (∀ s', (∃ t, exec (.laneLpIdle t) s = .next s') →
      Claims.onlyTouches [.time, .lnk] [0xD, 0xF] s s') ∧
    (∀ s', (∃ v, exec (.mailboxReadAdvance v) s = .next s') →
      Claims.onlyTouches [.net] [0x8, 0xB, 0xC, 0xD, 0xF] s s')

/-- What the commands of local memory and its error logs leave as it was. Each clause names the parts of the state
that its commands may change and the blocks of BAR0 (by their offset in MiB, R8) whose registers they may write: block
0xF for the interrupts and 0xD for the recorder stand there because a command that raises a source or logs an event
writes them; every other part, every byte of local memory where bytes are not named, and every other register read as
before. -/
def Obligations.MemoryFrame : Prop :=
  ∀ (s : State), s.regsWf = true →
    (∀ s', (∃ p pc busy, exec (.refreshDue p pc busy) s = .next s') ∨ (∃ code, exec (.pprDone code) s = .next s') →
      Claims.onlyTouches [.dram] [0x9, 0xD, 0xF] s s') ∧
    (∀ s', (∃ cls, exec (.agePromotion cls) s = .next s') →
      Claims.onlyTouches [] [0x9, 0xD, 0xF] s s') ∧
    (∀ s', (∃ p pc, exec (.dramPowerDown p pc) s = .next s') →
      Claims.onlyTouches [.dram] [0xD, 0xF] s s') ∧
    (∀ s', (∃ p m, exec (.dramRecalPeriodic p m) s = .next s') ∨ (∃ p n, exec (.capar p n) s = .next s') ∨ (∃ p, exec
      (.readTimeout p) s = .next s') ∨ (∃ p rate, exec (.ceRate p rate) s = .next s') →
      Claims.onlyTouches [.free, .hostMem, .glb, .run, .runEnded, .wvr, .cor, .stg, .bmf, .trk, .lnk, .dram, .bytes,
        .rings, .waits] [0x0, 0x1, 0x5, 0x6, 0x7, 0x9, 0xA, 0xB, 0xD, 0xF] s s') ∧
    (∀ s', (∃ l flips t, exec (.scrubRead l flips t) s = .next s') →
      Claims.onlyTouches [.time, .free, .hostMem, .glb, .run, .runEnded, .fig, .wvr, .cor, .stg, .bmf, .trk, .lnk,
        .dram, .bytes, .rings, .waits] [0x0, 0x1, 0x2, 0x4, 0x5, 0x6, 0x7, 0x9, 0xA, 0xB, 0xD, 0xF] s s') ∧
    (∀ s', (∃ a cls dx cx t, exec (.demandReadError a cls dx cx t) s = .next s') →
      Claims.onlyTouches [.time, .free, .hostMem, .glb, .run, .runEnded, .wvr, .cor, .stg, .bmf, .trk, .lnk, .dram,
        .bytes, .rings, .waits] [0x0, 0x1, 0x4, 0x5, 0x6, 0x7, 0x9, 0xA, 0xB, 0xD, 0xF] s s') ∧
    (∀ s', (∃ p, exec (.writebackQueue p) s = .next s') →
      Claims.onlyTouches [.dram, .bytes] [0xA, 0xD, 0xF] s s') ∧
    (∀ s', (∃ store word dx cx, exec (.sramScrub store word dx cx) s = .next s') →
      Claims.onlyTouches [.free, .hostMem, .glb, .sets, .run, .runEnded, .fig, .wvr, .cor, .stg, .bmf, .trk, .lnk,
        .dram, .bytes, .sram, .rings, .waits] [0x0, 0x1, 0x2, 0x3, 0x5, 0x6, 0x7, 0x9, 0xA, 0xB, 0xD, 0xF] s s')
        ∧
    (∀ s', (∃ p, exec (.memChFence p) s = .next s') ∨ (∃ p r, exec (.memChRetrain p r) s = .next s') →
      Claims.onlyTouches [.free, .hostMem, .glb, .run, .runEnded, .wvr, .cor, .stg, .bmf, .trk, .lnk, .dram, .bytes,
        .rings, .waits] [0x0, 0x1, 0x5, 0x6, 0x7, 0x9, 0xA, 0xB, 0xC, 0xD, 0xF] s s') ∧
    (∀ s', (∃ stack, exec (.fenceCopyDone stack) s = .next s') ∨ (∃ l, exec (.rebuildSweepDone l) s = .next s') →
      Claims.onlyTouches [.fig, .cor, .stg, .dram, .bytes] [0x2, 0x4, 0x5, 0x9, 0xA, 0xD, 0xF] s s') ∧
    (∀ s', (∃ p, exec (.memChRetire p) s = .next s') ∨ (∃ v, exec (.eccLogPop v) s = .next s') →
      Claims.onlyTouches [.dram] [0xC, 0xD, 0xF] s s') ∧
    (∀ s', (∃ v, exec (.pprGo v) s = .next s') →
      Claims.onlyTouches [.dram] [0x9, 0xC, 0xD, 0xF] s s') ∧
    (∀ s', (∃ v, exec (.eccFlipArm v) s = .next s') →
      Claims.onlyTouches [] [0xA, 0xC, 0xD, 0xF] s s')

/-- What the commands of the network port, the clock, the power, the sensors, the resets and the recorder leave as it
was. Each clause names the parts of the state that its commands may change and the blocks of BAR0 (by their offset in
MiB, R8) whose registers they may write: block 0xF for the interrupts and 0xD for the recorder stand there because a
command that raises a source or logs an event writes them; every other part, every byte of local memory where bytes
are not named, and every other register read as before. A clause that names no blocks speaks of the parts only. -/
def Obligations.SupportFrame : Prop :=
  ∀ (s : State), s.regsWf = true →
    (∀ s', (∃ bytes t, exec (.netRxFrame bytes t) s = .next s') ∨ (∃ frame t, exec (.netTxEntry frame t) s = .next s')
      →
      Claims.onlyTouches [.time, .hostMem, .net, .rings, .waits] [0x1, 0xB, 0xD, 0xF] s s') ∧
    (∀ s', (∃ up, exec (.netLink up) s = .next s') →
      Claims.onlyTouches [.hostMem, .net, .rings, .waits] [0x1, 0xB, 0xD, 0xF] s s') ∧
    (∀ s', exec .speedSeek s = .next s' →
      Claims.onlyTouches [.net] [0xD, 0xF] s s') ∧
    (∀ s', (∃ t, exec (.netRateWindow t) s = .next s') →
      Claims.onlyTouches [.time, .net] [0xD, 0xF] s s') ∧
    (∀ s', (∃ t, exec (.apply t) s = .next s') ∨ (∃ hi v t, exec (.ptpPeriodWrite hi v t) s = .next s') →
      Claims.onlyTouches [.time, .ptp] [0xB, 0xC, 0xD, 0xF] s s') ∧
    (∀ s', (∃ t, exec (.unlock t) s = .next s') →
      Claims.onlyTouches [.time, .ptp] [0xC, 0xD, 0xF] s s') ∧
    (∀ s', (∃ t, exec (.slewEnd t) s = .next s') ∨ (∃ t, exec (.ppsPulse t) s = .next s') →
      Claims.onlyTouches [.time, .ptp] [0xD, 0xF] s s') ∧
    (∀ s', (∃ n t, exec (.captureEvent n t) s = .next s') →
      Claims.onlyTouches [.time, .ptp] [0xB, 0xD, 0xF] s s') ∧
    (∀ s', (∃ n, exec (.capPop n) s = .next s') →
      Claims.onlyTouches [.ptp] [0xC, 0xD, 0xF] s s') ∧
    (∀ s', (∃ t, exec (.mirrorSend t) s = .next s') →
      Claims.onlyTouches [.time, .free, .dram, .bytes, .net] [0x9, 0xA, 0xB, 0xD, 0xF] s s') ∧
    (∀ s', (∃ v t, exec (.powerRequest v t) s = .next s') →
      Claims.onlyTouches [.time, .pwr] [0xC, 0xD, 0xF] s s') ∧
    (∀ s', (∃ t r, exec (.powerTransitionEnd t r) s = .next s') →
      Claims.leaves [.time, .free, .hostMem, .glb, .run, .runEnded, .fig, .wvr, .cor, .stg, .bmf, .trk, .lnk, .dram,
        .bytes, .sram, .net, .ptp, .pwr, .clk, .rings, .linkConfig, .waits] s s') ∧
    (∀ s', (∃ v, exec (.pwrResultPop v) s = .next s') ∨ (∃ rail phase ma, exec (.phaseFault rail phase ma) s = .next
      s') ∨ (∃ ma, exec (.lpOver ma) s = .next s') ∨ (∃ mv, exec (.vinLow mv) s = .next s') →
      Claims.onlyTouches [.pwr] [0xC, 0xD, 0xF] s s') ∧
    (∀ s', (∃ t, exec (.deepGraceExpiry t) s = .next s') ∨ (∃ t, exec (.coldReset t) s = .next s') →
      Claims.leaves [.time, .readData, .glb, .sets, .run, .runEnded, .fig, .wvr, .cor, .stg, .bmf, .trk, .lnk, .dram,
        .bytes, .sram, .net, .ptp, .pwr, .clk, .thm, .rings, .linkConfig, .waits] s s') ∧
    (∀ s', (∃ low t, exec (.wakePin low t) s = .next s') →
      Claims.onlyTouches [.time, .glb, .lnk, .ptp, .pwr, .clk, .linkConfig] [0x0, 0xC, 0xD, 0xF] s s') ∧
    (∀ s', (∃ t, exec (.wakeTimer t) s = .next s') →
      Claims.onlyTouches [.time, .pwr] [0xD, 0xF] s s') ∧
    (∀ s', (∃ t, exec (.refLost t) s = .next s') →
      Claims.onlyTouches [.time, .clk] [0xC, 0xD, 0xF] s s') ∧
    (∀ s', (∃ t, exec (.holdoverExpiry t) s = .next s') →
      Claims.onlyTouches [.time, .free, .hostMem, .glb, .run, .runEnded, .wvr, .cor, .stg, .bmf, .trk, .lnk, .dram,
        .bytes, .rings, .waits] [0x0, 0x1, 0x5, 0x6, 0x7, 0x9, 0xA, 0xB, 0xD, 0xF] s s') ∧
    (∀ s', (∃ n ppm t, exec (.pllUnlock n ppm t) s = .next s') →
      Claims.onlyTouches [.time, .free, .hostMem, .glb, .run, .runEnded, .wvr, .cor, .stg, .bmf, .trk, .lnk, .dram,
        .bytes, .clk, .rings, .waits] [0x0, 0x1, 0x5, 0x6, 0x7, 0x9, 0xA, 0xB, 0xC, 0xD, 0xF] s s') ∧
    (∀ s', (∃ n t, exec (.pllRelock n t) s = .next s') →
      Claims.leaves [.time, .fig, .wvr, .cor, .stg, .bmf, .trk, .lnk, .dram, .bytes, .sram, .net, .ptp, .pwr, .clk,
        .linkConfig] s s') ∧
    (∀ s', exec .refclkLoss s = .next s' →
      Claims.onlyTouches [.clk, .rings, .linkConfig, .waits] [0x1, 0xC, 0xD, 0xF] s s') ∧
    (∀ s', (∃ rail mv t, exec (.brownout rail mv t) s = .next s') →
      Claims.leaves [.time, .free, .hostMem, .glb, .run, .runEnded, .fig, .wvr, .cor, .stg, .bmf, .trk, .lnk, .dram,
        .bytes, .sram, .net, .ptp, .pwr, .rings, .waits] s s') ∧
    (∀ s', exec .brownoutLasting s = .next s' →
      Claims.leaves [.readData, .glb, .sets, .run, .runEnded, .fig, .wvr, .cor, .stg, .bmf, .trk, .lnk, .dram, .bytes,
        .sram, .net, .ptp, .pwr, .clk, .thm, .rings, .linkConfig, .waits] s s') ∧
    (∀ s', exec .brownoutClear s = .next s' ∨ exec .vauxLoss s = .next s' →
      Claims.onlyTouches [.pwr] [0xD, 0xF] s s') ∧
    (∀ s', (∃ n raw t, exec (.sensorConversion n raw t) s = .next s') →
      Claims.leaves [.time, .free, .readData, .hostMem, .glb, .sets, .run, .runEnded, .fig, .wvr, .cor, .stg, .bmf,
        .trk, .lnk, .dram, .bytes, .sram, .net, .ptp, .pwr, .clk, .thm, .rings, .linkConfig, .waits] s s') ∧
    (∀ s', (∃ counts, exec (.ageingMeasure counts) s = .next s') →
      Claims.onlyTouches [.thm] [0xC, 0xD, 0xF] s s') ∧
    (∀ s', (∃ mv, exec (.coldStart mv) s = .next s') ∨ (∃ mv, exec (.vauxReturn mv) s = .next s') →
      Claims.onlyTouches [.glb, .lnk, .ptp, .pwr, .clk, .linkConfig] [0x0, 0xD, 0xF] s s') ∧
    (∀ s', (∃ t, exec (.resetN t) s = .next s') →
      Claims.leaves [.time, .readData, .glb, .sets, .run, .runEnded, .fig, .wvr, .cor, .stg, .bmf, .trk, .lnk, .dram,
        .net, .ptp, .pwr, .thm, .rings, .linkConfig, .waits] s s') ∧
    (∀ s', (∃ t, exec (.warmReset t) s = .next s') →
      Claims.leaves [.time, .readData, .glb, .sets, .run, .runEnded, .fig, .wvr, .cor, .stg, .bmf, .trk, .lnk, .dram,
        .net, .ptp, .pwr, .clk, .thm, .rings, .linkConfig, .waits] s s') ∧
    (∀ s', exec .fwCommit s = .next s' →
      Claims.onlyTouches [.glb] [0xC, 0xD, 0xF] s s') ∧
    (∀ s', (∃ t u, exec (.upsettAutoStart t u) s = .next s') →
      Claims.leaves [.time, .free, .hostMem, .glb, .sets, .run, .runEnded, .fig, .wvr, .cor, .stg, .bmf, .trk, .lnk,
        .dram, .bytes, .sram, .net, .ptp, .pwr, .clk, .thm, .rings, .linkConfig, .waits] s s') ∧
    (∀ s', exec .mgtWatchdog s = .next s' →
      Claims.onlyTouches [.hostMem, .lnk, .rings, .waits] [0x0, 0x1, 0x8, 0xB, 0xD, 0xF] s s') ∧
    (∀ s', (∃ progOk, exec (.recordCommit progOk) s = .next s') ∨ (∃ progOk, exec (.inventoryCommit progOk) s = .next
      s') ∨ exec .ageTrigger s = .next s' ∨ exec .histogramCheckpoint s = .next s' ∨ (∃ sector marginOk verifyOk,
      exec (.retentionCheck sector marginOk verifyOk) s = .next s') ∨ exec .cursorFetchDone s = .next s' →
      Claims.onlyTouches [] [0xD, 0xF] s s') ∧
    (∀ s', (∃ power, exec (.operatingSecond power) s = .next s') ∨ exec .snap s = .next s' ∨ exec .shrink s = .next s'
      ∨ (∃ v, exec (.cursorFetch v) s = .next s') →
      Claims.onlyTouches [] [0xC, 0xD, 0xF] s s') ∧
    (∀ s', exec .autoInc s = .next s' →
      Claims.onlyTouches [.readData] [0xC, 0xD, 0xF] s s') ∧
    (∀ s', (∃ t, exec (.referenceReturn t) s = .next s') →
      Claims.onlyTouches [.time, .clk] [0xD, 0xF] s s') ∧
    (∀ s', (∃ auto img, exec (.resetNRising auto img) s = .next s') →
      Claims.onlyTouches [.glb, .ptp, .pwr, .clk, .linkConfig] [0xD, 0xF] s s')

/-- A step takes the command at the front of the queue and runs it on the state with the queue's rest; on an empty queue the
block idles (log entry 8). -/
def Obligations.StepRunsFrontCommand : Prop :=
  ∀ (s : State), (∀ (c : Instr) (rest : List Instr), s.pending = c :: rest → step s = exec c { s with pending := rest }) ∧
    (s.pending = [] → step s = .next s)

/-- After reset the maps of the state stand in canonical form and no command waits (model choice: log entries 7 and 8). -/
def Obligations.ResetIsCanonical : Prop := State.reset.canon = true ∧ State.reset.pending = []

/-- From every state whose registers, local memory, host memory and ring table are in canonical form, each step of any command
leads to such a state, with the queue shorter by the command taken (the form is the model's: log entry 7). -/
def Obligations.StepKeepsCanonical : Prop :=
  ∀ (s t : State), s.canon = true → step s = .next t → t.canon = true ∧ t.pending = s.pending.tail
end

