-- ==== Sys2Proof/Laws/Maps.lean ====
section
/-! SUPPORT. The laws of the sparse maps: what a read after a write answers, and that writes and filters keep the canonical
form. -/

namespace Sys2Proof.Laws

open Sys2Proof.Machine

variable {α : Type} [DecidableEq α] {d : Nat → α}

theorem smWfFrom_mono {m : List (Nat × α)} {lo lo' : Nat} (h : smWfFrom d lo m = true) (hl : lo' ≤ lo) :
    smWfFrom d lo' m = true := by
  cases m with
  | nil => rfl
  | cons p t =>
    simp only [smWfFrom, Bool.and_eq_true, decide_eq_true_eq] at h ⊢
    exact ⟨⟨by omega, h.1.2⟩, h.2⟩

theorem smWfFrom_cons {k lo : Nat} {v : α} {t : List (Nat × α)} :
    smWfFrom d lo ((k, v) :: t) = true ↔ lo ≤ k ∧ v ≠ d k ∧ smWfFrom d (k + 1) t = true := by
  simp [smWfFrom, and_assoc]

theorem smWfFrom_put {m : List (Nat × α)} {lo a : Nat} {v : α} (h : smWfFrom d lo m = true) (ha : lo ≤ a) :
    smWfFrom d lo (smPut d a v m) = true := by
  induction m generalizing lo with
  | nil => by_cases hv : v = d a <;> simp [smPut, hv, smWfFrom, ha]
  | cons p t ih =>
    obtain ⟨k, w⟩ := p
    obtain ⟨h1, h2, h3⟩ := smWfFrom_cons.1 h
    unfold smPut
    by_cases hk : a < k
    · by_cases hv : v = d a
      · simp [hk, hv, smWfFrom_cons, h1, h2, h3]
      · simp only [hk, hv, if_true, if_false, smWfFrom_cons]
        exact ⟨ha, hv, by omega, h2, h3⟩
    · by_cases he : a = k
      · rw [if_neg hk, if_pos he]
        by_cases hv : v = d a
        · rw [if_pos hv]
          exact smWfFrom_mono h3 (by omega)
        · rw [if_neg hv, smWfFrom_cons]
          exact ⟨ha, hv, by rw [he]; exact h3⟩
      · simp only [hk, if_false, if_neg he, smWfFrom_cons]
        exact ⟨h1, h2, ih h3 (by omega)⟩

/-- A write keeps the canonical form. -/
theorem smWf_put {m : List (Nat × α)} {a : Nat} {v : α} (h : smWf d m = true) : smWf d (smPut d a v m) = true :=
  smWfFrom_put h (Nat.zero_le a)

theorem smWfFrom_filter {m : List (Nat × α)} {lo : Nat} (f : Nat × α → Bool) (h : smWfFrom d lo m = true) :
    smWfFrom d lo (m.filter f) = true := by
  induction m generalizing lo with
  | nil => rfl
  | cons p t ih =>
    obtain ⟨k, w⟩ := p
    obtain ⟨h1, h2, h3⟩ := smWfFrom_cons.1 h
    by_cases hf : f (k, w)
    · simp only [List.filter, hf, smWfFrom_cons]; exact ⟨h1, h2, ih h3⟩
    · simp only [List.filter, hf]; exact smWfFrom_mono (ih h3) (by omega)

/-- Taking entries out keeps the canonical form. -/
theorem smWf_filter {m : List (Nat × α)} (f : Nat × α → Bool) (h : smWf d m = true) : smWf d (m.filter f) = true :=
  smWfFrom_filter f h

theorem smGet_below {m : List (Nat × α)} {lo a : Nat} (h : smWfFrom d lo m = true) (ha : a < lo) : smGet d m a = d a := by
  cases m with
  | nil => rfl
  | cons p t =>
    obtain ⟨k, w⟩ := p
    obtain ⟨h1, _, _⟩ := smWfFrom_cons.1 h
    simp only [smGet]
    rw [if_neg (by omega), if_pos (by omega)]

theorem smGet_putFrom {m : List (Nat × α)} {lo a b : Nat} {v : α} (h : smWfFrom d lo m = true) :
    smGet d (smPut d a v m) b = if b = a then v else smGet d m b := by
  induction m generalizing lo with
  | nil =>
    by_cases hv : v = d a
    · by_cases hb : b = a <;> simp [smPut, smGet, hv, hb]
    · by_cases hb : b = a <;> simp [smPut, smGet, hv, hb]
  | cons p t ih =>
    obtain ⟨k, w⟩ := p
    obtain ⟨h1, h2, h3⟩ := smWfFrom_cons.1 h
    unfold smPut
    by_cases hk : a < k
    · by_cases hv : v = d a
      · by_cases hb : b = a
        · subst hb; simp [hk, hv, smGet]; omega
        · simp [hk, hv, hb]
      · by_cases hb : b = a
        · subst hb; simp [hk, hv, smGet]
        · by_cases hl : b < a
          · have hbk : b < k := by omega
            have hne : b ≠ k := by omega
            simp [hk, hv, smGet, hb, hl, hbk, hne]
          · simp [hk, hv, smGet, hb, hl]
    · by_cases he : a = k
      · subst he
        by_cases hv : v = d a
        · by_cases hb : b = a
          · subst hb; simp [hv, smGet_below h3]
          · by_cases hl : b < a
            · simp [hv, smGet, hb, hl, smGet_below h3 (show b < a + 1 by omega)]
            · simp [hv, smGet, hb, hl]
        · by_cases hb : b = a
          · subst hb; simp [hv, smGet]
          · simp [hv, smGet, hb]
      · simp only [hk, if_false, if_neg he, smGet, ih h3]
        by_cases hb : b = k
        · have : k ≠ a := fun e => he e.symm
          simp [hb, this]
        · by_cases hl : b < k
          · have : b ≠ a := by omega
            simp [hb, hl, this]
          · simp [hb, hl]

/-- A read after a write: the value written at its key, and what stood there at every other. -/
theorem smGet_put {m : List (Nat × α)} {a b : Nat} {v : α} (h : smWf d m = true) :
    smGet d (smPut d a v m) b = if b = a then v else smGet d m b := smGet_putFrom h

/-- Keys of a list of entries, all below a bound. -/
theorem smWfFrom_append {l r : List (Nat × α)} {lo hi : Nat} (hl : smWfFrom d lo l = true) (hb : ∀ p ∈ l, p.1 < hi)
    (hr : smWfFrom d hi r = true) (h : lo ≤ hi) : smWfFrom d lo (l ++ r) = true := by
  induction l generalizing lo with
  | nil => exact smWfFrom_mono hr h
  | cons p t ih =>
    obtain ⟨k, w⟩ := p
    obtain ⟨h1, h2, h3⟩ := smWfFrom_cons.1 hl
    simp only [List.cons_append, smWfFrom_cons]
    exact ⟨h1, h2, ih h3 (fun q hq => hb q (List.mem_cons_of_mem _ hq)) (hb (k, w) (List.mem_cons_self ..))⟩

theorem smWfFrom_raise {m : List (Nat × α)} {lo hi : Nat} (h : smWfFrom d lo m = true) (hm : ∀ p ∈ m, hi ≤ p.1) :
    smWfFrom d hi m = true := by
  cases m with
  | nil => rfl
  | cons p t =>
    obtain ⟨k, w⟩ := p
    obtain ⟨_, h2, h3⟩ := smWfFrom_cons.1 h
    exact smWfFrom_cons.2 ⟨hm (k, w) (List.mem_cons_self ..), h2, h3⟩

theorem cellsFrom_wf {f : Nat → Byte} (bs : List Byte) (a : Nat) :
    smWfFrom f a (cellsFrom f a bs) = true ∧ ∀ p ∈ cellsFrom f a bs, p.1 < a + bs.length := by
  induction bs generalizing a with
  | nil => exact ⟨rfl, by simp [cellsFrom]⟩
  | cons b t ih =>
    obtain ⟨h1, h2⟩ := ih (a + 1)
    unfold cellsFrom
    by_cases hb : b = f a
    · rw [if_pos hb]
      refine ⟨smWfFrom_mono h1 (by omega), fun p hp => ?_⟩
      have := h2 p hp
      simp only [List.length_cons]; omega
    · rw [if_neg hb]
      refine ⟨smWfFrom_cons.2 ⟨Nat.le_refl a, hb, h1⟩, fun p hp => ?_⟩
      simp only [List.length_cons]
      rcases List.mem_cons.1 hp with rfl | hp
      · simp only; omega
      · have := h2 p hp; omega

end Sys2Proof.Laws
end

