-- ==== Sys2Proof/Laws/Kept.lean ====
section
/-! SUPPORT. What every operation of the machine keeps: the queue of waiting commands, and the canonical form of the registers,
of local memory and of host memory. The files KeptOps and after hold one lemma for each operation. -/

namespace Sys2Proof.Laws

open Sys2Proof.Machine

/-- The queue is `q`, and the sparse maps are in canonical form. -/
structure Kept (q : List Instr) (s : State) : Prop where
  queue : s.pending = q
  regs : smWf Reg.resetWord s.regs = true
  cells : smWf (fillByte s.dram.fills) s.dram.cells = true
  host : smWf hostDefault s.hst.mem = true
  rings : smWf (fun _ => ({} : Ring)) s.hst.rings = true

/-- Whatever next state an outcome holds is kept. -/
structure KeptO (q : List Instr) (o : Host.Outcome State Fault Refusal) : Prop where
  kept : ∀ t, o = .next t → Kept q t

variable {q : List Instr}

theorem Kept.of {s : State} {pending time free readData regs glb hst sets run runEnded fig wvr cor stg bmf trk lnk dram sram
    net ptp pwr clk thm rcr} (h : Kept q s) (h1 : pending = s.pending) (h2 : regs = s.regs)
    (h3 : dram.cells = s.dram.cells) (h4 : dram.fills = s.dram.fills) (h5 : hst.mem = s.hst.mem)
    (h6 : hst.rings = s.hst.rings) :
    Kept q (State.mk pending time free readData regs glb hst sets run runEnded fig wvr cor stg bmf trk lnk dram sram net ptp pwr
      clk thm rcr) :=
  ⟨h1.trans h.queue, by simpa [h2] using h.regs, by simpa [h3, h4] using h.cells, by simpa [h5] using h.host, by
    simpa [h6] using h.rings⟩

/-- The same where a map is written anew: each map's form is shown for itself. -/
theorem Kept.ofMaps {s : State} {pending time free readData regs glb hst sets run runEnded fig wvr cor stg bmf trk lnk dram sram
    net ptp pwr clk thm rcr} (h : Kept q s) (h1 : pending = s.pending) (h2 : smWf Reg.resetWord regs = true)
    (h3 : smWf (fillByte dram.fills) dram.cells = true) (h5 : smWf hostDefault hst.mem = true)
    (h6 : smWf (fun _ => ({} : Ring)) hst.rings = true) :
    Kept q (State.mk pending time free readData regs glb hst sets run runEnded fig wvr cor stg bmf trk lnk dram sram net ptp pwr
      clk thm rcr) :=
  ⟨h1.trans h.queue, h2, h3, h5, h6⟩

/-- Prove a value kept before going on with it. -/
theorem Kept.cut {x b : State} (h : Kept q x) (k : Kept q x → Kept q b) : Kept q b := k h

theorem Kept.ite {c : Prop} [Decidable c] {a b : State} (ha : c → Kept q a) (hb : ¬c → Kept q b) :
    Kept q (if c then a else b) := by
  split
  · exact ha ‹_›
  · exact hb ‹_›

theorem Kept.ite₂ {α : Type} {c : Prop} [Decidable c] {a b : State × α} (ha : c → Kept q a.1) (hb : ¬c → Kept q b.1) :
    Kept q (if c then a else b).1 := by
  split
  · exact ha ‹_›
  · exact hb ‹_›

theorem KeptO.cut {x : State} {o : Host.Outcome State Fault Refusal} (h : Kept q x) (k : Kept q x → KeptO q o) : KeptO q o := k h

theorem KeptO.ite {c : Prop} [Decidable c] {a b : Host.Outcome State Fault Refusal} (ha : c → KeptO q a) (hb : ¬c → KeptO q b) :
    KeptO q (if c then a else b) := by
  split
  · exact ha ‹_›
  · exact hb ‹_›

theorem Kept.foldl {α : Type} {f : State → α → State} {l : List α} {s : State} (h : Kept q s)
    (hf : ∀ s x, Kept q s → Kept q (f s x)) : Kept q (l.foldl f s) := by
  induction l generalizing s with
  | nil => exact h
  | cons x t ih => exact ih (hf s x h)

/-- A fold that carries a second value beside the state. -/
theorem Kept.foldl₂ {α β : Type} {f : State × β → α → State × β} {l : List α} {a : State × β} (h : Kept q a.1)
    (hf : ∀ a x, Kept q a.1 → Kept q (f a x).1) : Kept q (l.foldl f a).1 := by
  induction l generalizing a with
  | nil => exact h
  | cons x t ih => exact ih (hf a x h)

theorem Kept.foldl₂_eq {α β : Type} {f : State × β → α → State × β} {l : List α} {a : State × β} {s' : State} {x' : β}
    (h : Kept q a.1) (hf : ∀ a x, Kept q a.1 → Kept q (f a x).1) (e : l.foldl f a = (s', x')) : Kept q s' := by
  have := Kept.foldl₂ (l := l) h hf
  rw [e] at this
  exact this

theorem Kept.of_pair {α : Type} {a s' : State} {b x' : α} (h : Kept q a) (e : (a, b) = (s', x')) : Kept q s' := by
  cases e
  exact h

theorem Kept.of_some {α : Type} {a s' : State} {b x' : α} (h : Kept q a) (e : some (a, b) = some (s', x')) : Kept q s' := by
  cases e
  exact h

theorem Kept.of_eq {α : Type} {p : State × α} (h : ∀ s' x', p = (s', x') → Kept q s') : Kept q p.1 := h p.1 p.2 rfl

/-- Prove of a local function that what it answers is kept, before going on with it. -/
theorem Kept.cutF {f : State → State} {b : State} (h : ∀ x, Kept q x → Kept q (f x))
    (k : (∀ x, Kept q x → Kept q (f x)) → Kept q b) : Kept q b := k h

theorem Kept.cutF₂ {α : Type} {f : State → α → State} {b : State} (h : ∀ x y, Kept q x → Kept q (f x y))
    (k : (∀ x y, Kept q x → Kept q (f x y)) → Kept q b) : Kept q b := k h

theorem Kept.cutP {α : Type} {x : State × α} {b : State} (h : Kept q x.1) (k : Kept q x.1 → Kept q b) : Kept q b := k h

theorem KeptO.next {s : State} (h : Kept q s) : KeptO q (.next s) := ⟨fun _ e => by cases e; exact h⟩

theorem KeptO.fault {f : Fault} : KeptO q (.fault f) := ⟨fun _ e => by cases e⟩

theorem KeptO.refused {f : Refusal} : KeptO q (.refused f) := ⟨fun _ e => by cases e⟩

/-! The operations that write a map. -/

theorem kept_setReg {s : State} {off v : Nat} (h : Kept q s) : Kept q (s.setReg off v) :=
  ⟨h.queue, smWf_put h.regs, h.cells, h.host, h.rings⟩

theorem kept_setRing {s : State} {r : Nat} {x : Ring} (h : Kept q s) : Kept q (s.setRing r x) :=
  ⟨h.queue, h.regs, h.cells, h.host, smWf_put h.rings⟩

theorem smWf_nil {α : Type} [DecidableEq α] {d : Nat → α} : smWf d [] = true := rfl

theorem smWf_resetHostRegs {m : List (Nat × Word)} (h : smWf Reg.resetWord m = true) :
    smWf Reg.resetWord (resetHostRegs m) = true := smWf_filter _ h

theorem kept_hostWrite {s : State} {addr : Nat} {bs : List Byte} (h : Kept q s) : Kept q (s.hostWrite addr bs) := by
  refine ⟨h.queue, h.regs, h.cells, ?_, h.rings⟩
  have : ∀ (l : List (Byte × Nat)) m, smWf hostDefault m = true →
      smWf hostDefault (l.foldl (fun m p => smPut hostDefault (addr + p.2) p.1 m) m) = true := by
    intro l
    induction l with
    | nil => exact fun _ h => h
    | cons x t ih => exact fun _ h => ih _ (smWf_put h)
  exact this _ _ h.host

/-- Storing a byte keeps local memory's canonical form. -/
theorem memWf_putByte {d : Dram} {a : Nat} {b : Byte} (h : d.memWf = true) : (d.putByte a b).memWf = true := smWf_put h

/-- Storing bytes keeps local memory's canonical form. -/
theorem memWf_putBytes {d : Dram} {a : Nat} {bs : List Byte} (h : d.memWf = true) : (d.putBytes a bs).memWf = true := by
  obtain ⟨h1, h2⟩ := cellsFrom_wf (f := fillByte d.fills) bs a
  refine smWfFrom_append (hi := a + bs.length) (smWfFrom_append (hi := a) (smWf_filter _ h) ?_ h1 (Nat.zero_le a)) ?_ ?_
    (Nat.zero_le _)
  · intro p hp
    have := (List.mem_filter.1 hp).2
    simpa using this
  · intro p hp
    rcases List.mem_append.1 hp with hp | hp
    · have := (List.mem_filter.1 hp).2
      have : p.1 < a := by simpa using this
      omega
    · exact h2 p hp
  · refine smWfFrom_raise (smWf_filter _ h) fun p hp => ?_
    have := (List.mem_filter.1 hp).2
    simpa using this

theorem kept_putWord {s : State} {n data : Nat} {mark : Bool} (h : Kept q s) : Kept q (s.putWord n data mark) := by
  have hw : (s.dram.putBytes (8 * n) (leBytes 8 data)).memWf = true := memWf_putBytes h.cells
  unfold State.putWord
  extract_lets +onlyGivenNames d d' s1
  have h1 : Kept q s1 := ⟨h.queue, h.regs, hw, h.host, h.rings⟩
  split
  · extract_lets +onlyGivenNames dx cx e s2
    have h2 : Kept q s2 := ⟨h1.queue, h1.regs, h1.cells, h1.host, h1.rings⟩
    split
    · exact h2
    · exact kept_setReg h2
  · exact h1

theorem kept_markWord {s : State} {n : Nat} (h : Kept q s) : Kept q (s.markWord n) :=
  ⟨h.queue, h.regs, memWf_putBytes h.cells, h.host, h.rings⟩

theorem kept_zeroWord {s : State} {n : Nat} (h : Kept q s) : Kept q (s.zeroWord n) :=
  ⟨h.queue, h.regs, memWf_putBytes h.cells, h.host, h.rings⟩

theorem kept_cleanWord {s : State} {n : Nat} (h : Kept q s) : Kept q (s.cleanWord n) :=
  ⟨h.queue, h.regs, memWf_putBytes h.cells, h.host, h.rings⟩

/-- The host memory is no part of what a reset touches. -/
theorem afterReset_mem (h : Hst) (link : Bool) : (h.afterReset link).mem = h.mem := by
  unfold Hst.afterReset
  cases link <;> rfl

theorem afterReset_rings (h : Hst) (link : Bool) : (h.afterReset link).rings = [] := by
  unfold Hst.afterReset
  cases link <;> rfl

end Sys2Proof.Laws
end

