-- ==== Sys2Proof/Laws/KeptBase.lean ====
section
/-! SUPPORT. What the named operations, registers, local memory, interrupts and the host side keep: one lemma for each operation and each command (see Kept). -/

namespace Sys2Proof.Laws

open Sys2Proof.Machine

/-! Ops. -/

theorem kept_modLane {q : List Instr} {s : State} {p : Nat} {f : Lane → Lane} (hs : Kept q s) :
    Kept q (State.modLane s p f) := by
  unfold State.modLane
  repeat' first
    | (extract_lets +onlyGivenNames z; clear_value z; revert z; intro _)
    | ((with_reducible apply Kept.of); rotate_left; (iterate 6 (with_reducible exact rfl)); with_reducible assumption)

theorem kept_at_ {q : List Instr} {s : State} {t : Nat} (hs : Kept q s) :
    Kept q (State.at_ s t) := by
  unfold State.at_
  repeat' ((with_reducible apply Kept.of); rotate_left; (iterate 6 (with_reducible exact rfl)); with_reducible assumption)

theorem kept_once {q : List Instr} {s : State} {o : Once} {f : State → State} (hs : Kept q s) (hf : ∀ (x0 : State), Kept q x0 → Kept q (f x0)) :
    Kept q (State.once s o f) := by
  unfold State.once
  repeat' first
    | intro _
    | with_reducible assumption
    | with_reducible apply hf
    | with_reducible apply Kept.ite
    | ((with_reducible apply Kept.of); rotate_left; (iterate 6 (with_reducible exact rfl)); with_reducible assumption)
    | split

theorem kept_next {q : List Instr} {s : State} (hs : Kept q s) :
    Kept q (State.next s) := by
  unfold State.next
  repeat' ((with_reducible apply Kept.of); rotate_left; (iterate 6 (with_reducible exact rfl)); with_reducible assumption)

theorem kept_modChan {q : List Instr} {s : State} {p : Nat} {f : Chan → Chan} (hs : Kept q s) :
    Kept q (State.modChan s p f) := by
  unfold State.modChan
  repeat' first
    | (extract_lets +onlyGivenNames z; guard_hyp z : Dram := _; revert z; intro _)
    | ((with_reducible apply Kept.of); rotate_left; (iterate 6 (with_reducible exact rfl)); with_reducible assumption)

theorem kept_modRun {q : List Instr} {s : State} {f : Run → Run} (hs : Kept q s) :
    Kept q (State.modRun s f) := by
  unfold State.modRun
  repeat' ((with_reducible apply Kept.of); rotate_left; (iterate 6 (with_reducible exact rfl)); with_reducible assumption)

theorem kept_setRegs {q : List Instr} {s : State} {off : Nat} {vs : List Nat} (hs : Kept q s) :
    Kept q (State.setRegs s off vs) := by
  unfold State.setRegs
  repeat' first
    | intro _
    | with_reducible assumption
    | with_reducible apply kept_setReg
    | with_reducible apply Kept.foldl

theorem kept_setField {q : List Instr} {s : State} {off : Nat} {hi : Nat} {lo : Nat} {v : Nat} (hs : Kept q s) :
    Kept q (State.setField s off hi lo v) := by
  unfold State.setField
  repeat' first
    | with_reducible assumption
    | (extract_lets +onlyGivenNames z; clear_value z; revert z; intro _)
    | with_reducible apply kept_setReg

theorem kept_setReg64 {q : List Instr} {s : State} {lo : Nat} {hi : Nat} {v : Nat} (hs : Kept q s) :
    Kept q (State.setReg64 s lo hi v) := by
  unfold State.setReg64
  repeat' first
    | with_reducible assumption
    | with_reducible apply kept_setReg

theorem kept_bumpBy {q : List Instr} {s : State} {off : Nat} {n : Nat} (hs : Kept q s) :
    Kept q (State.bumpBy s off n) := by
  unfold State.bumpBy
  repeat' first
    | intro _
    | with_reducible assumption
    | with_reducible apply kept_setReg
    | with_reducible apply Kept.ite

theorem kept_bump {q : List Instr} {s : State} {off : Nat} (hs : Kept q s) :
    Kept q (State.bump s off) := by
  unfold State.bump
  repeat' first
    | with_reducible assumption
    | with_reducible apply kept_bumpBy

/-! ReadPath. -/

theorem kept_modWork {q : List Instr} {s : State} {id : Nat} {f : Work → Work} (hs : Kept q s) :
    Kept q (State.modWork s id f) := by
  unfold State.modWork
  repeat' first
    | (extract_lets +onlyGivenNames z; clear_value z; revert z; intro _)
    | ((with_reducible apply Kept.of); rotate_left; (iterate 6 (with_reducible exact rfl)); with_reducible assumption)

/-! Irq. -/

theorem kept_owe {q : List Instr} {s : State} {v : Nat} (hs : Kept q s) :
    Kept q (State.owe s v) := by
  unfold State.owe
  repeat' first
    | (extract_lets +onlyGivenNames z; guard_hyp z : Hst := _; revert z; intro _)
    | ((with_reducible apply Kept.of); rotate_left; (iterate 6 (with_reducible exact rfl)); with_reducible assumption)

theorem kept_unowe {q : List Instr} {s : State} {v : Nat} (hs : Kept q s) :
    Kept q (State.unowe s v) := by
  unfold State.unowe
  repeat' first
    | (extract_lets +onlyGivenNames z; guard_hyp z : Hst := _; revert z; intro _)
    | ((with_reducible apply Kept.of); rotate_left; (iterate 6 (with_reducible exact rfl)); with_reducible assumption)

theorem kept_shadowPut {q : List Instr} {s : State} {e : ShadowEntry} (hs : Kept q s) :
    Kept q (State.shadowPut s e) := by
  unfold State.shadowPut
  repeat' first
    | intro _
    | (extract_lets +onlyGivenNames z; clear_value z; revert z; intro _)
    | with_reducible apply kept_bump
    | with_reducible apply Kept.ite
    | ((with_reducible apply Kept.of); rotate_left; (iterate 6 (with_reducible exact rfl)); with_reducible assumption)
    | split

theorem kept_trigger {q : List Instr} {s : State} {code : Nat} {detail : Nat} (hs : Kept q s) :
    Kept q (State.trigger s code detail) := by
  unfold State.trigger
  repeat' first
    | intro _
    | with_reducible assumption
    | (extract_lets +onlyGivenNames z; guard_hyp z : State := _; refine Kept.cut (x := z) ?_ (fun _ => ?_); rotate_left; clear_value z; revert z; intro _ _; rotate_left; unfold z; clear z)
    | (extract_lets +onlyGivenNames z; clear_value z; revert z; intro _)
    | with_reducible apply kept_shadowPut
    | with_reducible apply kept_bump
    | with_reducible apply Kept.ite
    | ((with_reducible apply Kept.of); rotate_left; (iterate 6 (with_reducible exact rfl)); with_reducible assumption)

theorem kept_withyChange {q : List Instr} {s : State} {kind : Nat} {action : Nat} {subject : Nat} {value : Nat} (hs : Kept q s) :
    Kept q (State.withyChange s kind action subject value) := by
  unfold State.withyChange
  repeat' first
    | intro _
    | with_reducible assumption
    | (extract_lets +onlyGivenNames z; guard_hyp z : State := _; refine Kept.cut (x := z) ?_ (fun _ => ?_); rotate_left; clear_value z; revert z; intro _ _; rotate_left; unfold z; clear z)
    | (extract_lets +onlyGivenNames z; clear_value z; revert z; intro _)
    | with_reducible apply kept_trigger
    | with_reducible apply Kept.ite
    | ((with_reducible apply Kept.of); rotate_left; (iterate 6 (with_reducible exact rfl)); with_reducible assumption)

theorem kept_raiseN {q : List Instr} {s : State} {v : Nat} (hs : Kept q s) :
    Kept q (State.raiseN s v) := by
  unfold State.raiseN
  repeat' first
    | intro _
    | with_reducible assumption
    | (extract_lets +onlyGivenNames z; guard_hyp z : State := _; refine Kept.cut (x := z) ?_ (fun _ => ?_); rotate_left; clear_value z; revert z; intro _ _; rotate_left; unfold z; clear z)
    | with_reducible apply kept_bump
    | with_reducible apply kept_setField
    | with_reducible apply kept_owe
    | with_reducible apply kept_trigger
    | with_reducible apply Kept.ite

theorem kept_raise {q : List Instr} {s : State} {x1 : Src} (hs : Kept q s) :
    Kept q (State.raise s x1) := by
  unfold State.raise
  repeat' first
    | with_reducible assumption
    | with_reducible apply kept_raiseN

theorem kept_settle {q : List Instr} {s'0 : State} {s : State} (hs'0 : Kept q s'0) (hs : Kept q s) :
    Kept q (State.settle s'0 s) := by
  unfold State.settle
  repeat' first
    | intro _
    | with_reducible assumption
    | with_reducible apply kept_raiseN
    | with_reducible apply Kept.ite
    | with_reducible apply Kept.foldl

theorem kept_finish {q : List Instr} {s : State} {s'1 : State} (hs : Kept q s) (hs'1 : Kept q s'1) :
    KeptO q (finish s s'1) := by
  unfold finish
  repeat' first
    | with_reducible assumption
    | with_reducible apply kept_settle
    | with_reducible apply KeptO.next

/-! Access. -/

theorem kept_violation {q : List Instr} {s : State} {kind : Nat} {off : Nat} {write : Bool} {bar2 : optParam Bool Bool.false} (hs : Kept q s) :
    Kept q (State.violation s kind off write bar2) := by
  unfold State.violation
  repeat' first
    | with_reducible assumption
    | with_reducible apply kept_setReg
    | with_reducible apply kept_bump

theorem kept_offAccess {q : List Instr} {s : State} {off : Nat} {write : Bool} (hs : Kept q s) :
    Kept q (State.offAccess s off write) := by
  unfold State.offAccess
  repeat' first
    | with_reducible assumption
    | with_reducible apply kept_setReg
    | with_reducible apply kept_bump

theorem kept_onlyIn {q : List Instr} {s : State} {modes : List Mode} {off : Nat} {f : State → State} (hs : Kept q s) (hf : ∀ (x0 : State), Kept q x0 → Kept q (f x0)) :
    Kept q (State.onlyIn s modes off f) := by
  unfold State.onlyIn
  repeat' first
    | intro _
    | with_reducible assumption
    | with_reducible apply hf
    | with_reducible apply kept_violation
    | with_reducible apply Kept.ite

theorem kept_guardWrite {q : List Instr} {s : State} {off : Nat} {be : Nat} {v : Nat} {f : State → Nat → State} (hs : Kept q s) (hf : ∀ (x0 : State) (x1 : Nat), Kept q x0 → Kept q (f x0 x1)) :
    Kept q (State.guardWrite s off be v f) := by
  unfold State.guardWrite
  repeat' first
    | intro _
    | with_reducible assumption
    | with_reducible apply hf
    | with_reducible apply kept_offAccess
    | with_reducible apply kept_violation
    | with_reducible apply Kept.ite
    | split

theorem kept_command {q : List Instr} {s : State} {off : Nat} {v : Nat} {f : State → State} (hs : Kept q s) (hf : ∀ (x0 : State), Kept q x0 → Kept q (f x0)) :
    Kept q (State.command s off v f) := by
  unfold State.command
  repeat' first
    | intro _
    | with_reducible assumption
    | with_reducible apply hf
    | with_reducible apply kept_guardWrite

/-! Mem. -/

theorem kept_histBump {q : List Instr} {s : State} {bin : Nat} {n : Nat} (hs : Kept q s) :
    Kept q (State.histBump s bin n) := by
  unfold State.histBump
  repeat' first
    | (extract_lets +onlyGivenNames z; clear_value z; revert z; intro _)
    | ((with_reducible apply Kept.of); rotate_left; (iterate 6 (with_reducible exact rfl)); with_reducible assumption)

theorem kept_eccLog {q : List Instr} {s : State} {event : Nat} {region : Nat} {cls : Nat} {chan : Nat} {detail : Nat} {addr : Nat} (hs : Kept q s) :
    Kept q (State.eccLog s event region cls chan detail addr) := by
  unfold State.eccLog
  repeat' first
    | intro _
    | with_reducible assumption
    | (extract_lets +onlyGivenNames z; guard_hyp z : Dram := _; revert z; intro _)
    | (extract_lets +onlyGivenNames z; clear_value z; revert z; intro _)
    | with_reducible apply kept_bump
    | with_reducible apply Kept.ite
    | ((with_reducible apply Kept.of); rotate_left; (iterate 6 (with_reducible exact rfl)); with_reducible assumption)

theorem kept_watchAdd {q : List Instr} {s : State} {n : Nat} (hs : Kept q s) :
    Kept q (State.watchAdd s n) := by
  unfold State.watchAdd
  repeat' first
    | intro _
    | with_reducible assumption
    | (extract_lets +onlyGivenNames z; guard_hyp z : State := _; refine Kept.cut (x := z) ?_ (fun _ => ?_); rotate_left; clear_value z; revert z; intro _ _; rotate_left; unfold z; clear z)
    | (extract_lets +onlyGivenNames z; guard_hyp z : Dram := _; revert z; intro _)
    | (extract_lets +onlyGivenNames z; clear_value z; revert z; intro _)
    | with_reducible apply kept_bump
    | with_reducible apply Kept.ite
    | ((with_reducible apply Kept.of); rotate_left; (iterate 6 (with_reducible exact rfl)); with_reducible assumption)

theorem kept_mergeBytes {q : List Instr} {s : State} {n : Nat} {i : Nat} {bs : List Sys2Proof.Byte} (hs : Kept q s) :
    Kept q (State.mergeBytes s n i bs) := by
  unfold State.mergeBytes
  repeat' first
    | intro _
    | with_reducible assumption
    | (extract_lets +onlyGivenNames z; guard_hyp z : State := _; refine Kept.cut (x := z) ?_ (fun _ => ?_); rotate_left; clear_value z; revert z; intro _ _; rotate_left; unfold z; clear z)
    | (extract_lets +onlyGivenNames z; clear_value z; revert z; intro _)
    | with_reducible apply kept_putWord
    | with_reducible apply kept_bump
    | with_reducible apply Kept.ite

theorem kept_writeBack {q : List Instr} {s : State} {n : Nat} (hs : Kept q s) :
    Kept q (State.writeBack s n) := by
  unfold State.writeBack
  repeat' first
    | with_reducible assumption
    | with_reducible apply kept_watchAdd
    | with_reducible apply kept_bump
    | with_reducible apply kept_cleanWord

theorem kept_writeWords {q : List Instr} {a : Nat} {a1 : State} {a2 : Nat} {a3 : List Sys2Proof.Byte} (ha1 : Kept q a1) :
    Kept q (State.writeWords a a1 a2 a3) := by
  induction a generalizing a1 a2 a3 with
  | zero =>
    unfold State.writeWords
    repeat' (with_reducible assumption)
  | succ n ih =>
    unfold State.writeWords
    repeat' first
      | intro _
      | with_reducible assumption
      | (extract_lets +onlyGivenNames z; clear_value z; revert z; intro _)
      | with_reducible apply ih
      | with_reducible apply kept_mergeBytes
      | with_reducible apply Kept.ite

theorem kept_memWrite {q : List Instr} {s : State} {a : Nat} {bs : List Sys2Proof.Byte} (hs : Kept q s) :
    Kept q (State.memWrite s a bs) := by
  unfold State.memWrite
  repeat' first
    | intro _
    | with_reducible assumption
    | (extract_lets +onlyGivenNames z; guard_hyp z : State := _; refine Kept.cut (x := z) ?_ (fun _ => ?_); rotate_left; clear_value z; revert z; intro _ _; rotate_left; unfold z; clear z)
    | with_reducible apply kept_bump
    | with_reducible apply kept_writeWords
    | with_reducible apply Kept.ite
    | ((with_reducible apply Kept.of); rotate_left; (iterate 2 (with_reducible exact rfl)); (iterate 4 (first | with_reducible exact rfl | exact rfl)); with_reducible assumption)

theorem kept_takeReplacement {q : List Instr} {s : State} {page : Nat} {idx : Nat} (hs : Kept q s) :
    Kept q (State.takeReplacement s page idx) := by
  unfold State.takeReplacement
  repeat' first
    | intro _
    | with_reducible assumption
    | (extract_lets +onlyGivenNames z; guard_hyp z : State := _; refine Kept.cut (x := z) ?_ (fun _ => ?_); rotate_left; clear_value z; revert z; intro _ _; rotate_left; unfold z; clear z)
    | (extract_lets +onlyGivenNames z; clear_value z; revert z; intro _)
    | with_reducible apply kept_markWord
    | with_reducible apply kept_cleanWord
    | with_reducible apply kept_withyChange
    | with_reducible apply kept_eccLog
    | with_reducible apply Kept.ite
    | with_reducible apply Kept.foldl
    | split

theorem kept_memWrite64 {q : List Instr} {s : State} {a : Nat} {v : Nat} (hs : Kept q s) :
    Kept q (State.memWrite64 s a v) := by
  unfold State.memWrite64
  repeat' first
    | with_reducible assumption
    | with_reducible apply kept_memWrite

theorem kept_histAdd {q : List Instr} {s : State} {n : Nat} (hs : Kept q s) :
    Kept q (State.histAdd s n) := by
  unfold State.histAdd
  repeat' first
    | with_reducible assumption
    | (extract_lets +onlyGivenNames z; clear_value z; revert z; intro _)
    | with_reducible apply kept_memWrite

theorem kept_replaceAgain {q : List Instr} {s : State} {n : Nat} (hs : Kept q s) :
    Kept q (State.replaceAgain s n) := by
  unfold State.replaceAgain
  repeat' first
    | with_reducible assumption
    | (extract_lets +onlyGivenNames z; clear_value z; revert z; intro _)
    | with_reducible apply kept_takeReplacement
    | with_reducible apply kept_withyChange
    | split

theorem kept_ceFound {q : List Instr} {s : State} {n : Nat} {synd : Nat} {cls : Nat} (hs : Kept q s) :
    Kept q (State.ceFound s n synd cls) := by
  unfold State.ceFound
  repeat' first
    | intro _
    | with_reducible assumption
    | (extract_lets +onlyGivenNames z; guard_hyp z : State := _; refine Kept.cut (x := z) ?_ (fun _ => ?_); rotate_left; clear_value z; revert z; intro _ _; rotate_left; unfold z; clear z)
    | (extract_lets +onlyGivenNames z; clear_value z; revert z; intro _)
    | with_reducible apply kept_bump
    | with_reducible apply kept_histBump
    | with_reducible apply kept_eccLog
    | with_reducible apply kept_histAdd
    | with_reducible apply kept_replaceAgain
    | with_reducible apply kept_writeBack
    | with_reducible apply kept_raise
    | with_reducible apply Kept.ite

theorem kept_ueFound {q : List Instr} {s : State} {n : Nat} (hs : Kept q s) :
    Kept q (State.ueFound s n) := by
  unfold State.ueFound
  repeat' first
    | with_reducible assumption
    | (extract_lets +onlyGivenNames z; guard_hyp z : State := _; refine Kept.cut (x := z) ?_ (fun _ => ?_); rotate_left; clear_value z; revert z; intro _ _; rotate_left; unfold z; clear z)
    | (extract_lets +onlyGivenNames z; clear_value z; revert z; intro _)
    | with_reducible apply kept_bump
    | with_reducible apply kept_markWord
    | with_reducible apply kept_modChan
    | with_reducible apply kept_replaceAgain

theorem kept_touch {q : List Instr} {s : State} {cls : Sys2Proof.DramClass} {a : Nat} {n : Nat} (hs : Kept q s) :
    Kept q (State.touch s cls a n) := by
  unfold State.touch
  repeat' first
    | intro _
    | with_reducible assumption
    | (extract_lets +onlyGivenNames z; guard_hyp z : State := _; refine Kept.cut (x := z) ?_ (fun _ => ?_); rotate_left; clear_value z; revert z; intro _ _; rotate_left; unfold z; clear z)
    | (extract_lets +onlyGivenNames z; guard_hyp z : Dram := _; revert z; intro _)
    | (extract_lets +onlyGivenNames z; clear_value z; revert z; intro _)
    | with_reducible apply kept_bump
    | with_reducible apply kept_raise
    | with_reducible apply kept_eccLog
    | with_reducible apply kept_ueFound
    | with_reducible apply kept_ceFound
    | with_reducible apply Kept.ite
    | with_reducible apply Kept.foldl
    | ((with_reducible apply Kept.of); rotate_left; (iterate 6 (with_reducible exact rfl)); with_reducible assumption)
    | split

/-! HostOps. -/

theorem kept_dropWait {q : List Instr} {s : State} {r : Nat} (hs : Kept q s) :
    Kept q (State.dropWait s r) := by
  unfold State.dropWait
  repeat' first
    | (extract_lets +onlyGivenNames z; guard_hyp z : Hst := _; revert z; intro _)
    | ((with_reducible apply Kept.of); rotate_left; (iterate 6 (with_reducible exact rfl)); with_reducible assumption)

theorem kept_countBarriers {q : List Instr} {s : State} {r : Nat} (hs : Kept q s) :
    Kept q (State.countBarriers s r) := by
  unfold State.countBarriers
  repeat' first
    | (extract_lets +onlyGivenNames z; guard_hyp z : Hst := _; revert z; intro _)
    | ((with_reducible apply Kept.of); rotate_left; (iterate 6 (with_reducible exact rfl)); with_reducible assumption)

theorem kept_tellBound {q : List Instr} {s : State} {serial : Nat} (hs : Kept q s) :
    Kept q (State.tellBound s serial) := by
  unfold State.tellBound
  repeat' first
    | (extract_lets +onlyGivenNames z; guard_hyp z : Hst := _; revert z; intro _)
    | ((with_reducible apply Kept.of); rotate_left; (iterate 6 (with_reducible exact rfl)); with_reducible assumption)

theorem kept_doReset {q : List Instr} {s : State} {r : Nat} (hs : Kept q s) :
    Kept q (State.doReset s r) := by
  unfold State.doReset
  repeat' first
    | with_reducible assumption
    | (extract_lets +onlyGivenNames z; clear_value z; revert z; intro _)
    | with_reducible apply kept_setRing

theorem kept_setWait {q : List Instr} {s : State} {r : Nat} {w : WaitFor} (hs : Kept q s) :
    Kept q (State.setWait s r w) := by
  unfold State.setWait
  repeat' first
    | with_reducible assumption
    | (extract_lets +onlyGivenNames z; guard_hyp z : State := _; refine Kept.cut (x := z) ?_ (fun _ => ?_); rotate_left; clear_value z; revert z; intro _ _; rotate_left; unfold z; clear z)
    | (extract_lets +onlyGivenNames z; guard_hyp z : Hst := _; revert z; intro _)
    | with_reducible apply kept_dropWait
    | ((with_reducible apply Kept.of); rotate_left; (iterate 6 (with_reducible exact rfl)); with_reducible assumption)

theorem kept_advanceHead {q : List Instr} {s : State} {r : Nat} (hs : Kept q s) :
    Kept q (State.advanceHead s r) := by
  unfold State.advanceHead
  repeat' first
    | intro _
    | with_reducible assumption
    | (extract_lets +onlyGivenNames z; guard_hyp z : State := _; refine Kept.cut (x := z) ?_ (fun _ => ?_); rotate_left; clear_value z; revert z; intro _ _; rotate_left; unfold z; clear z)
    | (extract_lets +onlyGivenNames z; clear_value z; revert z; intro _)
    | with_reducible apply kept_setRing
    | with_reducible apply kept_bump
    | with_reducible apply kept_doReset
    | with_reducible apply Kept.ite

theorem kept_haltRing {q : List Instr} {s : State} {r : Nat} {reason : Nat} (hs : Kept q s) :
    Kept q (State.haltRing s r reason) := by
  unfold State.haltRing
  repeat' first
    | with_reducible assumption
    | (extract_lets +onlyGivenNames z; clear_value z; revert z; intro _)
    | with_reducible apply kept_raise
    | with_reducible apply kept_setRing

theorem kept_writeCompletion {q : List Instr} {s : State} {r : Nat} {status : Nat} {detail : Nat} {result : Nat} (hs : Kept q s) :
    Kept q (State.writeCompletion s r status detail result) := by
  unfold State.writeCompletion
  repeat' first
    | intro _
    | with_reducible assumption
    | (extract_lets +onlyGivenNames z; guard_hyp z : State := _; refine Kept.cut (x := z) ?_ (fun _ => ?_); rotate_left; clear_value z; revert z; intro _ _; rotate_left; unfold z; clear z)
    | with_reducible apply kept_hostWrite
    | with_reducible apply kept_setReg
    | with_reducible apply kept_bump
    | with_reducible apply kept_advanceHead
    | with_reducible apply kept_raise
    | with_reducible apply kept_haltRing
    | with_reducible apply Kept.ite
    | split

theorem kept_completeRing {q : List Instr} {s : State} {r : Nat} {status : Nat} {detail : Nat} {result : Nat} (hs : Kept q s) :
    Kept q (State.completeRing s r status detail result) := by
  unfold State.completeRing
  repeat' first
    | intro _
    | with_reducible assumption
    | (extract_lets +onlyGivenNames z; clear_value z; revert z; intro _)
    | with_reducible apply kept_writeCompletion
    | with_reducible apply kept_setRing
    | with_reducible apply Kept.ite
    | split

theorem kept_rejectMalformed {q : List Instr} {s : State} {r : Nat} (hs : Kept q s) :
    Kept q (State.rejectMalformed s r) := by
  unfold State.rejectMalformed
  repeat' first
    | intro _
    | with_reducible assumption
    | with_reducible apply kept_completeRing
    | with_reducible apply Kept.ite
    | split

theorem kept_completeCmd {q : List Instr} {s : State} {r : Nat} {status : Nat} {detail : Nat} {result : Nat} (hs : Kept q s) :
    Kept q (State.completeCmd s r status detail result) := by
  unfold State.completeCmd
  repeat' first
    | intro _
    | with_reducible assumption
    | (extract_lets +onlyGivenNames z; guard_hyp z : State := _; refine Kept.cut (x := z) ?_ (fun _ => ?_); rotate_left; clear_value z; revert z; intro _ _; rotate_left; unfold z; clear z)
    | (extract_lets +onlyGivenNames z; clear_value z; revert z; intro _)
    | with_reducible apply kept_completeRing
    | with_reducible apply kept_rejectMalformed
    | with_reducible apply Kept.ite

theorem kept_settleBarriers {q : List Instr} {s : State} (hs : Kept q s) :
    Kept q (State.settleBarriers s) := by
  unfold State.settleBarriers
  repeat' first
    | intro _
    | with_reducible assumption
    | with_reducible apply kept_completeCmd
    | with_reducible apply kept_dropWait
    | with_reducible apply Kept.ite
    | with_reducible apply Kept.foldl
    | split

theorem kept_tellRunEnd {q : List Instr} {s : State} {serial : Nat} {ending : Nat} {slot : Nat} (hs : Kept q s) :
    Kept q (State.tellRunEnd s serial ending slot) := by
  unfold State.tellRunEnd
  repeat' first
    | intro _
    | with_reducible assumption
    | with_reducible apply kept_completeCmd
    | with_reducible apply kept_dropWait
    | with_reducible apply Kept.ite
    | with_reducible apply Kept.foldl
    | split

theorem kept_answer {q : List Instr} {s : State} {r : Nat} {status : Nat} {detail : Nat} {result : Nat} (hs : Kept q s) :
    Kept q (State.answer s r status detail result) := by
  unfold State.answer
  repeat' first
    | intro _
    | with_reducible assumption
    | (extract_lets +onlyGivenNames z; guard_hyp z : State := _; refine Kept.cut (x := z) ?_ (fun _ => ?_); rotate_left; clear_value z; revert z; intro _ _; rotate_left; unfold z; clear z)
    | (extract_lets +onlyGivenNames z; clear_value z; revert z; intro _)
    | with_reducible apply kept_completeCmd
    | with_reducible apply kept_completeRing
    | with_reducible apply kept_settleBarriers
    | with_reducible apply kept_countBarriers
    | with_reducible apply Kept.ite

theorem kept_refuse {q : List Instr} {s : State} {r : Nat} {status : Nat} {detail : Nat} (hs : Kept q s) :
    Kept q (State.refuse s r status detail) := by
  unfold State.refuse
  repeat' first
    | with_reducible assumption
    | with_reducible apply kept_answer

theorem kept_checked {q : List Instr} {s : State} {r : Nat} {e : CurEntry} {format : Option Nat} {legal : List Mode} {exclusive : Bool} {f : State → State} {bound : optParam (List Mode) []} {also : optParam (Option (Nat × Nat)) Option.none} (hs : Kept q s) (hf : ∀ (x0 : State), Kept q x0 → Kept q (f x0)) :
    Kept q (State.checked s r e format legal exclusive f bound also) := by
  unfold State.checked
  repeat' first
    | intro _
    | with_reducible assumption
    | with_reducible apply hf
    | with_reducible apply kept_refuse
    | with_reducible apply Kept.ite
    | split

end Sys2Proof.Laws
end

