-- ==== Sys2Proof/Laws/Frame.lean ====
section
/-! SUPPORT. Frames: which parts of the state an operation leaves as they were. A number `W` names parts by its bits; `Fr W s0 s`
says that `s` has every part that `W` does not name as `s0` has it. The files FrameBase and after hold one lemma for each
operation. The registers, the recorder and what the host side waits for are no parts here: almost every event may raise a
source and so write them. -/

namespace Sys2Proof.Laws

open Sys2Proof.Machine

/-- `s` has every part that `W` does not name as `s0` has it. -/
structure Fr (W : Nat) (s0 s : State) : Prop where
  time : W.testBit 0 = true ∨ s.time = s0.time
  free : W.testBit 1 = true ∨ s.free = s0.free
  readData : W.testBit 2 = true ∨ s.readData = s0.readData
  hmem : W.testBit 3 = true ∨ s.hst.mem = s0.hst.mem
  glb : W.testBit 4 = true ∨ s.glb = s0.glb
  sets : W.testBit 5 = true ∨ s.sets = s0.sets
  run : W.testBit 6 = true ∨ s.run = s0.run
  runEnded : W.testBit 7 = true ∨ s.runEnded = s0.runEnded
  fig : W.testBit 8 = true ∨ s.fig = s0.fig
  wvr : W.testBit 9 = true ∨ s.wvr = s0.wvr
  cor : W.testBit 10 = true ∨ s.cor = s0.cor
  stg : W.testBit 11 = true ∨ s.stg = s0.stg
  bmf : W.testBit 12 = true ∨ s.bmf = s0.bmf
  trk : W.testBit 13 = true ∨ s.trk = s0.trk
  lnk : W.testBit 14 = true ∨ s.lnk = s0.lnk
  dram : W.testBit 15 = true ∨ s.dram = s0.dram
  mem : W.testBit 16 = true ∨ (s.dram.cells = s0.dram.cells ∧ s.dram.fills = s0.dram.fills)
  sram : W.testBit 17 = true ∨ s.sram = s0.sram
  net : W.testBit 18 = true ∨ s.net = s0.net
  ptp : W.testBit 19 = true ∨ s.ptp = s0.ptp
  pwr : W.testBit 20 = true ∨ s.pwr = s0.pwr
  clk : W.testBit 21 = true ∨ s.clk = s0.clk
  thm : W.testBit 22 = true ∨ s.thm = s0.thm
  rings : W.testBit 23 = true ∨ s.hst.rings = s0.hst.rings
  conf : W.testBit 24 = true ∨ (s.hst.width = s0.hst.width ∧ s.hst.bme = s0.hst.bme)
  waits : W.testBit 25 = true ∨ s.hst.waits = s0.hst.waits

/-- The same of whatever next state an outcome holds. -/
structure FrO (W : Nat) (s0 : State) (o : Host.Outcome State Fault Refusal) : Prop where
  kept : ∀ t, o = .next t → Fr W s0 t

variable {W V U : Nat} {s0 : State}

theorem Fr.refl {s : State} : Fr W s s :=
  ⟨Or.inr rfl, Or.inr rfl, Or.inr rfl, Or.inr rfl, Or.inr rfl, Or.inr rfl, Or.inr rfl, Or.inr rfl, Or.inr rfl, Or.inr rfl, Or.inr rfl, Or.inr rfl, Or.inr rfl, Or.inr rfl, Or.inr rfl, Or.inr rfl, Or.inr ⟨rfl, rfl⟩, Or.inr rfl, Or.inr rfl, Or.inr rfl, Or.inr rfl, Or.inr rfl, Or.inr rfl, Or.inr rfl, Or.inr ⟨rfl, rfl⟩, Or.inr rfl⟩

theorem Fr.trans_or {c : Bool} {α : Type} {a b d : α} (h : c = true ∨ a = b) (g : c = true ∨ b = d) : c = true ∨ a = d := by
  rcases h with h | h
  · exact Or.inl h
  · rcases g with g | g
    · exact Or.inl g
    · exact Or.inr (h.trans g)

/-- A set of parts that contains another's names each of its parts. -/
theorem Fr.bit {i : Nat} (hw : V ||| W = W) (h : V.testBit i = true) : W.testBit i = true := by
  rw [← hw, Nat.testBit_or, h, Bool.true_or]

theorem Fr.sub (h : U ||| V = V) (hw : V ||| W = W) : U ||| W = W := by
  rw [← hw, ← Nat.or_assoc, h]

theorem Fr.of {s : State} {pending time free readData regs glb hst sets run runEnded fig wvr cor stg bmf trk lnk dram sram net ptp pwr clk thm rcr} (h : Fr W s0 s)
    (k0 : W.testBit 0 = true ∨ time = s.time) (k1 : W.testBit 1 = true ∨ free = s.free)
    (k2 : W.testBit 2 = true ∨ readData = s.readData) (k3 : W.testBit 3 = true ∨ hst.mem = s.hst.mem)
    (k4 : W.testBit 4 = true ∨ glb = s.glb) (k5 : W.testBit 5 = true ∨ sets = s.sets)
    (k6 : W.testBit 6 = true ∨ run = s.run) (k7 : W.testBit 7 = true ∨ runEnded = s.runEnded)
    (k8 : W.testBit 8 = true ∨ fig = s.fig) (k9 : W.testBit 9 = true ∨ wvr = s.wvr)
    (k10 : W.testBit 10 = true ∨ cor = s.cor) (k11 : W.testBit 11 = true ∨ stg = s.stg)
    (k12 : W.testBit 12 = true ∨ bmf = s.bmf) (k13 : W.testBit 13 = true ∨ trk = s.trk)
    (k14 : W.testBit 14 = true ∨ lnk = s.lnk) (k15 : W.testBit 15 = true ∨ dram = s.dram)
    (k16 : W.testBit 16 = true ∨ (dram.cells = s.dram.cells ∧ dram.fills = s.dram.fills))
    (k17 : W.testBit 17 = true ∨ sram = s.sram) (k18 : W.testBit 18 = true ∨ net = s.net)
    (k19 : W.testBit 19 = true ∨ ptp = s.ptp) (k20 : W.testBit 20 = true ∨ pwr = s.pwr)
    (k21 : W.testBit 21 = true ∨ clk = s.clk) (k22 : W.testBit 22 = true ∨ thm = s.thm)
    (k23 : W.testBit 23 = true ∨ hst.rings = s.hst.rings)
    (k24 : W.testBit 24 = true ∨ (hst.width = s.hst.width ∧ hst.bme = s.hst.bme))
    (k25 : W.testBit 25 = true ∨ hst.waits = s.hst.waits) :
    Fr W s0 (State.mk pending time free readData regs glb hst sets run runEnded fig wvr cor stg bmf trk lnk dram sram net ptp pwr clk thm rcr) where
  time := Fr.trans_or k0 h.time
  free := Fr.trans_or k1 h.free
  readData := Fr.trans_or k2 h.readData
  hmem := Fr.trans_or k3 h.hmem
  glb := Fr.trans_or k4 h.glb
  sets := Fr.trans_or k5 h.sets
  run := Fr.trans_or k6 h.run
  runEnded := Fr.trans_or k7 h.runEnded
  fig := Fr.trans_or k8 h.fig
  wvr := Fr.trans_or k9 h.wvr
  cor := Fr.trans_or k10 h.cor
  stg := Fr.trans_or k11 h.stg
  bmf := Fr.trans_or k12 h.bmf
  trk := Fr.trans_or k13 h.trk
  lnk := Fr.trans_or k14 h.lnk
  dram := Fr.trans_or k15 h.dram
  mem := by
    rcases k16 with k | ⟨k, l⟩
    · exact Or.inl k
    · rcases h.mem with g | ⟨g, e⟩
      · exact Or.inl g
      · exact Or.inr ⟨k.trans g, l.trans e⟩
  sram := Fr.trans_or k17 h.sram
  net := Fr.trans_or k18 h.net
  ptp := Fr.trans_or k19 h.ptp
  pwr := Fr.trans_or k20 h.pwr
  clk := Fr.trans_or k21 h.clk
  thm := Fr.trans_or k22 h.thm
  rings := Fr.trans_or k23 h.rings
  conf := by
    rcases k24 with k | ⟨k, l⟩
    · exact Or.inl k
    · rcases h.conf with g | ⟨g, e⟩
      · exact Or.inl g
      · exact Or.inr ⟨k.trans g, l.trans e⟩
  waits := Fr.trans_or k25 h.waits

theorem Fr.cut {x b : State} (h : Fr W s0 x) (k : Fr W s0 x → Fr W s0 b) : Fr W s0 b := k h

theorem Fr.ite {c : Prop} [Decidable c] {a b : State} (ha : c → Fr W s0 a) (hb : ¬c → Fr W s0 b) :
    Fr W s0 (if c then a else b) := by
  split
  · exact ha ‹_›
  · exact hb ‹_›

theorem Fr.ite₂ {α : Type} {c : Prop} [Decidable c] {a b : State × α} (ha : c → Fr W s0 a.1) (hb : ¬c → Fr W s0 b.1) :
    Fr W s0 (if c then a else b).1 := by
  split
  · exact ha ‹_›
  · exact hb ‹_›

theorem FrO.cut {x : State} {o : Host.Outcome State Fault Refusal} (h : Fr W s0 x) (k : Fr W s0 x → FrO W s0 o) : FrO W s0 o :=
  k h

theorem FrO.ite {c : Prop} [Decidable c] {a b : Host.Outcome State Fault Refusal} (ha : c → FrO W s0 a) (hb : ¬c → FrO W s0 b) :
    FrO W s0 (if c then a else b) := by
  split
  · exact ha ‹_›
  · exact hb ‹_›

theorem Fr.foldl {α : Type} {f : State → α → State} {l : List α} {s : State} (h : Fr W s0 s)
    (hf : ∀ s x, Fr W s0 s → Fr W s0 (f s x)) : Fr W s0 (l.foldl f s) := by
  induction l generalizing s with
  | nil => exact h
  | cons x t ih => exact ih (hf s x h)

theorem Fr.foldl₂ {α β : Type} {f : State × β → α → State × β} {l : List α} {a : State × β} (h : Fr W s0 a.1)
    (hf : ∀ a x, Fr W s0 a.1 → Fr W s0 (f a x).1) : Fr W s0 (l.foldl f a).1 := by
  induction l generalizing a with
  | nil => exact h
  | cons x t ih => exact ih (hf a x h)

theorem Fr.foldl₂_eq {α β : Type} {f : State × β → α → State × β} {l : List α} {a : State × β} {s' : State} {x' : β}
    (h : Fr W s0 a.1) (hf : ∀ a x, Fr W s0 a.1 → Fr W s0 (f a x).1) (e : l.foldl f a = (s', x')) : Fr W s0 s' := by
  have := Fr.foldl₂ (l := l) h hf
  rw [e] at this
  exact this

theorem Fr.of_pair {α : Type} {a s' : State} {b x' : α} (h : Fr W s0 a) (e : (a, b) = (s', x')) : Fr W s0 s' := by
  cases e
  exact h

theorem Fr.of_some {α : Type} {a s' : State} {b x' : α} (h : Fr W s0 a) (e : some (a, b) = some (s', x')) : Fr W s0 s' := by
  cases e
  exact h

theorem Fr.of_eq {α : Type} {p : State × α} (h : ∀ s' x', p = (s', x') → Fr W s0 s') : Fr W s0 p.1 := h p.1 p.2 rfl

theorem Fr.cutF {f : State → State} {b : State} (h : ∀ x, Fr W s0 x → Fr W s0 (f x))
    (k : (∀ x, Fr W s0 x → Fr W s0 (f x)) → Fr W s0 b) : Fr W s0 b := k h

theorem Fr.cutF₂ {α : Type} {f : State → α → State} {b : State} (h : ∀ x y, Fr W s0 x → Fr W s0 (f x y))
    (k : (∀ x y, Fr W s0 x → Fr W s0 (f x y)) → Fr W s0 b) : Fr W s0 b := k h

theorem FrO.next {s : State} (h : Fr W s0 s) : FrO W s0 (.next s) := ⟨fun _ e => by cases e; exact h⟩

theorem FrO.fault {f : Fault} : FrO W s0 (.fault f) := ⟨fun _ e => by cases e⟩

theorem FrO.refused {f : Refusal} : FrO W s0 (.refused f) := ⟨fun _ e => by cases e⟩

/-! The operations that write a map. -/

theorem fr_setReg {s : State} {off v : Nat} (hs : Fr W s0 s) : Fr W s0 (s.setReg off v) := ⟨hs.time, hs.free, hs.readData, hs.hmem, hs.glb, hs.sets, hs.run, hs.runEnded, hs.fig, hs.wvr, hs.cor, hs.stg, hs.bmf, hs.trk, hs.lnk, hs.dram, hs.mem, hs.sram, hs.net, hs.ptp, hs.pwr, hs.clk, hs.thm, hs.rings, hs.conf, hs.waits⟩

theorem fr_hostWrite {s : State} {addr : Nat} {bs : List Byte} (hw : 8 ||| W = W) (hs : Fr W s0 s) :
    Fr W s0 (s.hostWrite addr bs) :=
  { hs with hmem := Or.inl (Fr.bit hw rfl) }

/-- An update of local memory. -/
theorem fr_dram {s : State} {d : Dram} (hw : 98304 ||| W = W) (hs : Fr W s0 s) : Fr W s0 { s with dram := d } :=
  { hs with dram := Or.inl (Fr.bit hw rfl), mem := Or.inl (Fr.bit hw rfl) }

theorem fr_markWord {s : State} {n : Nat} (hw : 98304 ||| W = W) (hs : Fr W s0 s) : Fr W s0 (s.markWord n) := fr_dram hw hs

theorem fr_zeroWord {s : State} {n : Nat} (hw : 98304 ||| W = W) (hs : Fr W s0 s) : Fr W s0 (s.zeroWord n) := fr_dram hw hs

theorem fr_cleanWord {s : State} {n : Nat} (hw : 98304 ||| W = W) (hs : Fr W s0 s) : Fr W s0 (s.cleanWord n) := fr_dram hw hs

theorem fr_putWord {s : State} {n data : Nat} {mark : Bool} (hw : 98304 ||| W = W) (hs : Fr W s0 s) :
    Fr W s0 (s.putWord n data mark) := by
  unfold State.putWord
  extract_lets d d' s1
  have h1 : Fr W s0 s1 := fr_dram hw hs
  split
  · split
    · exact fr_dram hw h1
    · exact fr_setReg (fr_dram hw h1)
  · exact h1

end Sys2Proof.Laws
end

