-- ==== Sys2Proof/Laws/FrameBase.lean ====
section
/-! SUPPORT. What the named operations, registers, local memory, interrupts and the host side leave as it was: one lemma for each operation and each command (see Frame). -/

namespace Sys2Proof.Laws

open Sys2Proof.Machine

/-! Ops. -/

theorem fr_modLane {W : Nat} {s0 : State} {s : State} {p : Nat} {f : Lane → Lane} (hw : 16384 ||| W = W) (hs : Fr W s0 s) :
    Fr W s0 (State.modLane s p f) := by
  unfold State.modLane
  repeat' first
    | (extract_lets +onlyGivenNames z; clear_value z; revert z; intro _)
    | ((with_reducible apply Fr.of); rotate_left 23; (with_reducible exact Or.inr rfl); rotate_left 3; with_reducible assumption; (iterate 25 (first | with_reducible exact Or.inr rfl | with_reducible exact Or.inr ⟨rfl, rfl⟩ | exact Or.inl (Fr.bit hw rfl))))

theorem fr_at_ {W : Nat} {s0 : State} {s : State} {t : Nat} (hw : 1 ||| W = W) (hs : Fr W s0 s) :
    Fr W s0 (State.at_ s t) := by
  unfold State.at_
  repeat' ((with_reducible apply Fr.of); rotate_left 23; (with_reducible exact Or.inr rfl); rotate_left 3; with_reducible assumption; (iterate 25 (first | with_reducible exact Or.inr rfl | with_reducible exact Or.inr ⟨rfl, rfl⟩ | exact Or.inl (Fr.bit hw rfl))))

theorem fr_once {W : Nat} {s0 : State} {s : State} {o : Once} {f : State → State} (hw : 64 ||| W = W) (hs : Fr W s0 s) (hf : ∀ (x0 : State), Fr W s0 x0 → Fr W s0 (f x0)) :
    Fr W s0 (State.once s o f) := by
  unfold State.once
  repeat' first
    | intro _
    | with_reducible assumption
    | with_reducible apply hf
    | with_reducible apply Fr.ite
    | ((with_reducible apply Fr.of); rotate_left 23; (with_reducible exact Or.inr rfl); rotate_left 3; with_reducible assumption; (iterate 25 (first | with_reducible exact Or.inr rfl | with_reducible exact Or.inr ⟨rfl, rfl⟩ | exact Or.inl (Fr.bit hw rfl))))
    | split

theorem fr_next {W : Nat} {s0 : State} {s : State} (hw : 2 ||| W = W) (hs : Fr W s0 s) :
    Fr W s0 (State.next s) := by
  unfold State.next
  repeat' ((with_reducible apply Fr.of); rotate_left 23; (with_reducible exact Or.inr rfl); rotate_left 3; with_reducible assumption; (iterate 25 (first | with_reducible exact Or.inr rfl | with_reducible exact Or.inr ⟨rfl, rfl⟩ | exact Or.inl (Fr.bit hw rfl))))

theorem fr_modChan {W : Nat} {s0 : State} {s : State} {p : Nat} {f : Chan → Chan} (hw : 32768 ||| W = W) (hs : Fr W s0 s) :
    Fr W s0 (State.modChan s p f) := by
  unfold State.modChan
  repeat' first
    | (extract_lets +onlyGivenNames z; guard_hyp z : Dram := _; revert z; intro _)
    | ((with_reducible apply Fr.of); rotate_left 23; (with_reducible exact Or.inr rfl); rotate_left 3; with_reducible assumption; (iterate 25 (first | with_reducible exact Or.inr rfl | with_reducible exact Or.inr ⟨rfl, rfl⟩ | exact Or.inl (Fr.bit hw rfl))))

theorem fr_setRing {W : Nat} {s0 : State} {s : State} {r : Nat} {x2 : Ring} (hw : 8388608 ||| W = W) (hs : Fr W s0 s) :
    Fr W s0 (State.setRing s r x2) := by
  unfold State.setRing
  repeat' first
    | (extract_lets +onlyGivenNames z; guard_hyp z : Hst := _; revert z; intro _)
    | ((with_reducible apply Fr.of); rotate_left 23; (with_reducible exact Or.inr rfl); rotate_left 3; with_reducible assumption; (iterate 25 (first | with_reducible exact Or.inr rfl | with_reducible exact Or.inr ⟨rfl, rfl⟩ | exact Or.inl (Fr.bit hw rfl))))

theorem fr_modRun {W : Nat} {s0 : State} {s : State} {f : Run → Run} (hw : 64 ||| W = W) (hs : Fr W s0 s) :
    Fr W s0 (State.modRun s f) := by
  unfold State.modRun
  repeat' ((with_reducible apply Fr.of); rotate_left 23; (with_reducible exact Or.inr rfl); rotate_left 3; with_reducible assumption; (iterate 25 (first | with_reducible exact Or.inr rfl | with_reducible exact Or.inr ⟨rfl, rfl⟩ | exact Or.inl (Fr.bit hw rfl))))

theorem fr_setRegs {W : Nat} {s0 : State} {s : State} {off : Nat} {vs : List Nat} (hs : Fr W s0 s) :
    Fr W s0 (State.setRegs s off vs) := by
  unfold State.setRegs
  repeat' first
    | intro _
    | with_reducible assumption
    | with_reducible refine fr_setReg ?_
    | with_reducible apply Fr.foldl

theorem fr_setField {W : Nat} {s0 : State} {s : State} {off : Nat} {hi : Nat} {lo : Nat} {v : Nat} (hs : Fr W s0 s) :
    Fr W s0 (State.setField s off hi lo v) := by
  unfold State.setField
  repeat' first
    | with_reducible assumption
    | (extract_lets +onlyGivenNames z; clear_value z; revert z; intro _)
    | with_reducible refine fr_setReg ?_

theorem fr_setReg64 {W : Nat} {s0 : State} {s : State} {lo : Nat} {hi : Nat} {v : Nat} (hs : Fr W s0 s) :
    Fr W s0 (State.setReg64 s lo hi v) := by
  unfold State.setReg64
  repeat' first
    | with_reducible assumption
    | with_reducible refine fr_setReg ?_

theorem fr_bumpBy {W : Nat} {s0 : State} {s : State} {off : Nat} {n : Nat} (hs : Fr W s0 s) :
    Fr W s0 (State.bumpBy s off n) := by
  unfold State.bumpBy
  repeat' first
    | intro _
    | with_reducible assumption
    | with_reducible refine fr_setReg ?_
    | with_reducible apply Fr.ite

theorem fr_bump {W : Nat} {s0 : State} {s : State} {off : Nat} (hs : Fr W s0 s) :
    Fr W s0 (State.bump s off) := by
  unfold State.bump
  repeat' first
    | with_reducible assumption
    | with_reducible refine fr_bumpBy ?_

/-! ReadPath. -/

theorem fr_modWork {W : Nat} {s0 : State} {s : State} {id : Nat} {f : Work → Work} (hw : 1024 ||| W = W) (hs : Fr W s0 s) :
    Fr W s0 (State.modWork s id f) := by
  unfold State.modWork
  repeat' first
    | (extract_lets +onlyGivenNames z; clear_value z; revert z; intro _)
    | ((with_reducible apply Fr.of); rotate_left 23; (with_reducible exact Or.inr rfl); rotate_left 3; with_reducible assumption; (iterate 25 (first | with_reducible exact Or.inr rfl | with_reducible exact Or.inr ⟨rfl, rfl⟩ | exact Or.inl (Fr.bit hw rfl))))

/-! Irq. -/

theorem fr_owe {W : Nat} {s0 : State} {s : State} {v : Nat} (hs : Fr W s0 s) :
    Fr W s0 (State.owe s v) := by
  unfold State.owe
  repeat' first
    | (extract_lets +onlyGivenNames z; guard_hyp z : Hst := _; revert z; intro _)
    | ((with_reducible apply Fr.of); rotate_left 23; (with_reducible exact Or.inr rfl); rotate_left 3; with_reducible assumption; (iterate 25 (first | with_reducible exact Or.inr rfl | with_reducible exact Or.inr ⟨rfl, rfl⟩)))

theorem fr_unowe {W : Nat} {s0 : State} {s : State} {v : Nat} (hs : Fr W s0 s) :
    Fr W s0 (State.unowe s v) := by
  unfold State.unowe
  repeat' first
    | (extract_lets +onlyGivenNames z; guard_hyp z : Hst := _; revert z; intro _)
    | ((with_reducible apply Fr.of); rotate_left 23; (with_reducible exact Or.inr rfl); rotate_left 3; with_reducible assumption; (iterate 25 (first | with_reducible exact Or.inr rfl | with_reducible exact Or.inr ⟨rfl, rfl⟩)))

theorem fr_shadowPut {W : Nat} {s0 : State} {s : State} {e : ShadowEntry} (hs : Fr W s0 s) :
    Fr W s0 (State.shadowPut s e) := by
  unfold State.shadowPut
  repeat' first
    | intro _
    | (extract_lets +onlyGivenNames z; clear_value z; revert z; intro _)
    | with_reducible refine fr_bump ?_
    | with_reducible apply Fr.ite
    | ((with_reducible apply Fr.of); rotate_left 23; (with_reducible exact Or.inr rfl); rotate_left 3; with_reducible assumption; (iterate 25 (first | with_reducible exact Or.inr rfl | with_reducible exact Or.inr ⟨rfl, rfl⟩)))
    | split

theorem fr_trigger {W : Nat} {s0 : State} {s : State} {code : Nat} {detail : Nat} (hs : Fr W s0 s) :
    Fr W s0 (State.trigger s code detail) := by
  unfold State.trigger
  repeat' first
    | intro _
    | with_reducible assumption
    | (extract_lets +onlyGivenNames z; guard_hyp z : State := _; refine Fr.cut (x := z) ?_ (fun _ => ?_); rotate_left; clear_value z; revert z; intro _ _; rotate_left; unfold z; clear z)
    | (extract_lets +onlyGivenNames z; clear_value z; revert z; intro _)
    | with_reducible refine fr_shadowPut ?_
    | with_reducible refine fr_bump ?_
    | with_reducible apply Fr.ite
    | ((with_reducible apply Fr.of); rotate_left 23; (with_reducible exact Or.inr rfl); rotate_left 3; with_reducible assumption; (iterate 25 (first | with_reducible exact Or.inr rfl | with_reducible exact Or.inr ⟨rfl, rfl⟩)))

theorem fr_withyChange {W : Nat} {s0 : State} {s : State} {kind : Nat} {action : Nat} {subject : Nat} {value : Nat} (hs : Fr W s0 s) :
    Fr W s0 (State.withyChange s kind action subject value) := by
  unfold State.withyChange
  repeat' first
    | intro _
    | with_reducible assumption
    | (extract_lets +onlyGivenNames z; guard_hyp z : State := _; refine Fr.cut (x := z) ?_ (fun _ => ?_); rotate_left; clear_value z; revert z; intro _ _; rotate_left; unfold z; clear z)
    | (extract_lets +onlyGivenNames z; clear_value z; revert z; intro _)
    | with_reducible refine fr_trigger ?_
    | with_reducible apply Fr.ite
    | ((with_reducible apply Fr.of); rotate_left 23; (with_reducible exact Or.inr rfl); rotate_left 3; with_reducible assumption; (iterate 25 (first | with_reducible exact Or.inr rfl | with_reducible exact Or.inr ⟨rfl, rfl⟩)))

theorem fr_raiseN {W : Nat} {s0 : State} {s : State} {v : Nat} (hs : Fr W s0 s) :
    Fr W s0 (State.raiseN s v) := by
  unfold State.raiseN
  repeat' first
    | intro _
    | with_reducible assumption
    | (extract_lets +onlyGivenNames z; guard_hyp z : State := _; refine Fr.cut (x := z) ?_ (fun _ => ?_); rotate_left; clear_value z; revert z; intro _ _; rotate_left; unfold z; clear z)
    | with_reducible refine fr_bump ?_
    | with_reducible refine fr_setField ?_
    | with_reducible refine fr_owe ?_
    | with_reducible refine fr_trigger ?_
    | with_reducible apply Fr.ite

theorem fr_raise {W : Nat} {s0 : State} {s : State} {x1 : Src} (hs : Fr W s0 s) :
    Fr W s0 (State.raise s x1) := by
  unfold State.raise
  repeat' first
    | with_reducible assumption
    | with_reducible refine fr_raiseN ?_

theorem fr_settle {W : Nat} {s0 : State} {s'0 : State} {s : State} (hs'0 : Fr W s0 s'0) (hs : Fr W s0 s) :
    Fr W s0 (State.settle s'0 s) := by
  unfold State.settle
  repeat' first
    | intro _
    | with_reducible assumption
    | with_reducible refine fr_raiseN ?_
    | with_reducible apply Fr.ite
    | with_reducible apply Fr.foldl

theorem fr_finish {W : Nat} {s0 : State} {s : State} {s'1 : State} (hs : Fr W s0 s) (hs'1 : Fr W s0 s'1) :
    FrO W s0 (finish s s'1) := by
  unfold finish
  repeat' first
    | with_reducible assumption
    | with_reducible refine fr_settle ?_ ?_
    | with_reducible apply FrO.next

/-! Access. -/

theorem fr_violation {W : Nat} {s0 : State} {s : State} {kind : Nat} {off : Nat} {write : Bool} {bar2 : optParam Bool Bool.false} (hs : Fr W s0 s) :
    Fr W s0 (State.violation s kind off write bar2) := by
  unfold State.violation
  repeat' first
    | with_reducible assumption
    | with_reducible refine fr_setReg ?_
    | with_reducible refine fr_bump ?_

theorem fr_offAccess {W : Nat} {s0 : State} {s : State} {off : Nat} {write : Bool} (hs : Fr W s0 s) :
    Fr W s0 (State.offAccess s off write) := by
  unfold State.offAccess
  repeat' first
    | with_reducible assumption
    | with_reducible refine fr_setReg ?_
    | with_reducible refine fr_bump ?_

theorem fr_onlyIn {W : Nat} {s0 : State} {s : State} {modes : List Mode} {off : Nat} {f : State → State} (hs : Fr W s0 s) (hf : ∀ (x0 : State), Fr W s0 x0 → Fr W s0 (f x0)) :
    Fr W s0 (State.onlyIn s modes off f) := by
  unfold State.onlyIn
  repeat' first
    | intro _
    | with_reducible assumption
    | with_reducible apply hf
    | with_reducible refine fr_violation ?_
    | with_reducible apply Fr.ite

theorem fr_guardWrite {W : Nat} {s0 : State} {s : State} {off : Nat} {be : Nat} {v : Nat} {f : State → Nat → State} (hs : Fr W s0 s) (hf : ∀ (x0 : State) (x1 : Nat), Fr W s0 x0 → Fr W s0 (f x0 x1)) :
    Fr W s0 (State.guardWrite s off be v f) := by
  unfold State.guardWrite
  repeat' first
    | intro _
    | with_reducible assumption
    | with_reducible apply hf
    | with_reducible refine fr_offAccess ?_
    | with_reducible refine fr_violation ?_
    | with_reducible apply Fr.ite
    | split

theorem fr_command {W : Nat} {s0 : State} {s : State} {off : Nat} {v : Nat} {f : State → State} (hs : Fr W s0 s) (hf : ∀ (x0 : State), Fr W s0 x0 → Fr W s0 (f x0)) :
    Fr W s0 (State.command s off v f) := by
  unfold State.command
  repeat' first
    | intro _
    | with_reducible assumption
    | with_reducible apply hf
    | with_reducible refine fr_guardWrite ?_ ?_

/-! Mem. -/

theorem fr_histBump {W : Nat} {s0 : State} {s : State} {bin : Nat} {n : Nat} (hs : Fr W s0 s) :
    Fr W s0 (State.histBump s bin n) := by
  unfold State.histBump
  repeat' first
    | (extract_lets +onlyGivenNames z; clear_value z; revert z; intro _)
    | ((with_reducible apply Fr.of); rotate_left 23; (with_reducible exact Or.inr rfl); rotate_left 3; with_reducible assumption; (iterate 25 (first | with_reducible exact Or.inr rfl | with_reducible exact Or.inr ⟨rfl, rfl⟩)))

theorem fr_eccLog {W : Nat} {s0 : State} {s : State} {event : Nat} {region : Nat} {cls : Nat} {chan : Nat} {detail : Nat} {addr : Nat} (hw : 32768 ||| W = W) (hs : Fr W s0 s) :
    Fr W s0 (State.eccLog s event region cls chan detail addr) := by
  unfold State.eccLog
  repeat' first
    | intro _
    | with_reducible assumption
    | (extract_lets +onlyGivenNames z; guard_hyp z : Dram := _; revert z; intro _)
    | (extract_lets +onlyGivenNames z; clear_value z; revert z; intro _)
    | with_reducible refine fr_bump ?_
    | with_reducible apply Fr.ite
    | ((with_reducible apply Fr.of); rotate_left 23; (with_reducible exact Or.inr rfl); rotate_left 3; with_reducible assumption; (iterate 25 (first | with_reducible exact Or.inr rfl | with_reducible exact Or.inr ⟨rfl, rfl⟩ | exact Or.inl (Fr.bit hw rfl))))

theorem fr_watchAdd {W : Nat} {s0 : State} {s : State} {n : Nat} (hw : 32768 ||| W = W) (hs : Fr W s0 s) :
    Fr W s0 (State.watchAdd s n) := by
  unfold State.watchAdd
  repeat' first
    | intro _
    | with_reducible assumption
    | (extract_lets +onlyGivenNames z; guard_hyp z : State := _; refine Fr.cut (x := z) ?_ (fun _ => ?_); rotate_left; clear_value z; revert z; intro _ _; rotate_left; unfold z; clear z)
    | (extract_lets +onlyGivenNames z; guard_hyp z : Dram := _; revert z; intro _)
    | (extract_lets +onlyGivenNames z; clear_value z; revert z; intro _)
    | with_reducible refine fr_bump ?_
    | with_reducible apply Fr.ite
    | ((with_reducible apply Fr.of); rotate_left 23; (with_reducible exact Or.inr rfl); rotate_left 3; with_reducible assumption; (iterate 25 (first | with_reducible exact Or.inr rfl | with_reducible exact Or.inr ⟨rfl, rfl⟩ | exact Or.inl (Fr.bit hw rfl))))

theorem fr_mergeBytes {W : Nat} {s0 : State} {s : State} {n : Nat} {i : Nat} {bs : List Sys2Proof.Byte} (hw : 98304 ||| W = W) (hs : Fr W s0 s) :
    Fr W s0 (State.mergeBytes s n i bs) := by
  unfold State.mergeBytes
  repeat' first
    | intro _
    | with_reducible assumption
    | (extract_lets +onlyGivenNames z; guard_hyp z : State := _; refine Fr.cut (x := z) ?_ (fun _ => ?_); rotate_left; clear_value z; revert z; intro _ _; rotate_left; unfold z; clear z)
    | (extract_lets +onlyGivenNames z; clear_value z; revert z; intro _)
    | with_reducible refine fr_putWord hw ?_
    | with_reducible refine fr_bump ?_
    | with_reducible apply Fr.ite

theorem fr_writeBack {W : Nat} {s0 : State} {s : State} {n : Nat} (hw : 98304 ||| W = W) (hs : Fr W s0 s) :
    Fr W s0 (State.writeBack s n) := by
  unfold State.writeBack
  repeat' first
    | with_reducible assumption
    | with_reducible refine fr_watchAdd (Fr.sub (V := 98304) rfl hw) ?_
    | with_reducible refine fr_bump ?_
    | with_reducible refine fr_cleanWord hw ?_

theorem fr_writeWords {W : Nat} {s0 : State} {a : Nat} {a1 : State} {a2 : Nat} {a3 : List Sys2Proof.Byte} (hw : 98304 ||| W = W) (ha1 : Fr W s0 a1) :
    Fr W s0 (State.writeWords a a1 a2 a3) := by
  induction a generalizing a1 a2 a3 with
  | zero =>
    unfold State.writeWords
    repeat' (with_reducible assumption)
  | succ n ih =>
    unfold State.writeWords
    repeat' first
      | intro _
      | with_reducible assumption
      | (extract_lets +onlyGivenNames z; clear_value z; revert z; intro _)
      | with_reducible apply ih
      | with_reducible refine fr_mergeBytes hw ?_
      | with_reducible apply Fr.ite

theorem fr_memWrite {W : Nat} {s0 : State} {s : State} {a : Nat} {bs : List Sys2Proof.Byte} (hw : 98304 ||| W = W) (hs : Fr W s0 s) :
    Fr W s0 (State.memWrite s a bs) := by
  unfold State.memWrite
  repeat' first
    | intro _
    | with_reducible assumption
    | (extract_lets +onlyGivenNames z; guard_hyp z : State := _; refine Fr.cut (x := z) ?_ (fun _ => ?_); rotate_left; clear_value z; revert z; intro _ _; rotate_left; unfold z; clear z)
    | with_reducible refine fr_bump ?_
    | with_reducible refine fr_writeWords hw ?_
    | with_reducible apply Fr.ite
    | ((with_reducible apply Fr.of); rotate_left 23; (with_reducible exact Or.inr rfl); rotate_left 3; with_reducible assumption; (iterate 25 (first | with_reducible exact Or.inr rfl | with_reducible exact Or.inr ⟨rfl, rfl⟩ | exact Or.inl (Fr.bit hw rfl) | exact Or.inr rfl | exact Or.inr ⟨rfl, rfl⟩)))

theorem fr_takeReplacement {W : Nat} {s0 : State} {s : State} {page : Nat} {idx : Nat} (hw : 98304 ||| W = W) (hs : Fr W s0 s) :
    Fr W s0 (State.takeReplacement s page idx) := by
  unfold State.takeReplacement
  repeat' first
    | intro _
    | with_reducible assumption
    | (extract_lets +onlyGivenNames z; guard_hyp z : State := _; refine Fr.cut (x := z) ?_ (fun _ => ?_); rotate_left; clear_value z; revert z; intro _ _; rotate_left; unfold z; clear z)
    | (extract_lets +onlyGivenNames z; clear_value z; revert z; intro _)
    | with_reducible refine fr_markWord hw ?_
    | with_reducible refine fr_cleanWord hw ?_
    | with_reducible refine fr_withyChange ?_
    | with_reducible refine fr_eccLog (Fr.sub (V := 98304) rfl hw) ?_
    | with_reducible apply Fr.ite
    | with_reducible apply Fr.foldl
    | split

theorem fr_memWrite64 {W : Nat} {s0 : State} {s : State} {a : Nat} {v : Nat} (hw : 98304 ||| W = W) (hs : Fr W s0 s) :
    Fr W s0 (State.memWrite64 s a v) := by
  unfold State.memWrite64
  repeat' first
    | with_reducible assumption
    | with_reducible refine fr_memWrite hw ?_

theorem fr_histAdd {W : Nat} {s0 : State} {s : State} {n : Nat} (hw : 98304 ||| W = W) (hs : Fr W s0 s) :
    Fr W s0 (State.histAdd s n) := by
  unfold State.histAdd
  repeat' first
    | with_reducible assumption
    | (extract_lets +onlyGivenNames z; clear_value z; revert z; intro _)
    | with_reducible refine fr_memWrite hw ?_

theorem fr_replaceAgain {W : Nat} {s0 : State} {s : State} {n : Nat} (hw : 98304 ||| W = W) (hs : Fr W s0 s) :
    Fr W s0 (State.replaceAgain s n) := by
  unfold State.replaceAgain
  repeat' first
    | with_reducible assumption
    | (extract_lets +onlyGivenNames z; clear_value z; revert z; intro _)
    | with_reducible refine fr_takeReplacement hw ?_
    | with_reducible refine fr_withyChange ?_
    | split

theorem fr_ceFound {W : Nat} {s0 : State} {s : State} {n : Nat} {synd : Nat} {cls : Nat} (hw : 98304 ||| W = W) (hs : Fr W s0 s) :
    Fr W s0 (State.ceFound s n synd cls) := by
  unfold State.ceFound
  repeat' first
    | intro _
    | with_reducible assumption
    | (extract_lets +onlyGivenNames z; guard_hyp z : State := _; refine Fr.cut (x := z) ?_ (fun _ => ?_); rotate_left; clear_value z; revert z; intro _ _; rotate_left; unfold z; clear z)
    | (extract_lets +onlyGivenNames z; clear_value z; revert z; intro _)
    | with_reducible refine fr_bump ?_
    | with_reducible refine fr_histBump ?_
    | with_reducible refine fr_eccLog (Fr.sub (V := 98304) rfl hw) ?_
    | with_reducible refine fr_histAdd hw ?_
    | with_reducible refine fr_replaceAgain hw ?_
    | with_reducible refine fr_writeBack hw ?_
    | with_reducible refine fr_raise ?_
    | with_reducible apply Fr.ite

theorem fr_ueFound {W : Nat} {s0 : State} {s : State} {n : Nat} (hw : 98304 ||| W = W) (hs : Fr W s0 s) :
    Fr W s0 (State.ueFound s n) := by
  unfold State.ueFound
  repeat' first
    | with_reducible assumption
    | (extract_lets +onlyGivenNames z; guard_hyp z : State := _; refine Fr.cut (x := z) ?_ (fun _ => ?_); rotate_left; clear_value z; revert z; intro _ _; rotate_left; unfold z; clear z)
    | (extract_lets +onlyGivenNames z; clear_value z; revert z; intro _)
    | with_reducible refine fr_bump ?_
    | with_reducible refine fr_markWord hw ?_
    | with_reducible refine fr_modChan (Fr.sub (V := 98304) rfl hw) ?_
    | with_reducible refine fr_replaceAgain hw ?_

theorem fr_touch {W : Nat} {s0 : State} {s : State} {cls : Sys2Proof.DramClass} {a : Nat} {n : Nat} (hw : 98304 ||| W = W) (hs : Fr W s0 s) :
    Fr W s0 (State.touch s cls a n) := by
  unfold State.touch
  repeat' first
    | intro _
    | with_reducible assumption
    | (extract_lets +onlyGivenNames z; guard_hyp z : State := _; refine Fr.cut (x := z) ?_ (fun _ => ?_); rotate_left; clear_value z; revert z; intro _ _; rotate_left; unfold z; clear z)
    | (extract_lets +onlyGivenNames z; guard_hyp z : Dram := _; revert z; intro _)
    | (extract_lets +onlyGivenNames z; clear_value z; revert z; intro _)
    | with_reducible refine fr_bump ?_
    | with_reducible refine fr_raise ?_
    | with_reducible refine fr_eccLog (Fr.sub (V := 98304) rfl hw) ?_
    | with_reducible refine fr_ueFound hw ?_
    | with_reducible refine fr_ceFound hw ?_
    | with_reducible apply Fr.ite
    | with_reducible apply Fr.foldl
    | ((with_reducible apply Fr.of); rotate_left 23; (with_reducible exact Or.inr rfl); rotate_left 3; with_reducible assumption; (iterate 25 (first | with_reducible exact Or.inr rfl | with_reducible exact Or.inr ⟨rfl, rfl⟩ | exact Or.inl (Fr.bit hw rfl))))
    | split

/-! HostOps. -/

theorem fr_dropWait {W : Nat} {s0 : State} {s : State} {r : Nat} (hw : 33554432 ||| W = W) (hs : Fr W s0 s) :
    Fr W s0 (State.dropWait s r) := by
  unfold State.dropWait
  repeat' first
    | (extract_lets +onlyGivenNames z; guard_hyp z : Hst := _; revert z; intro _)
    | ((with_reducible apply Fr.of); rotate_left 23; (with_reducible exact Or.inr rfl); rotate_left 3; with_reducible assumption; (iterate 25 (first | with_reducible exact Or.inr rfl | with_reducible exact Or.inr ⟨rfl, rfl⟩ | exact Or.inl (Fr.bit hw rfl))))

theorem fr_countBarriers {W : Nat} {s0 : State} {s : State} {r : Nat} (hw : 33554432 ||| W = W) (hs : Fr W s0 s) :
    Fr W s0 (State.countBarriers s r) := by
  unfold State.countBarriers
  repeat' first
    | (extract_lets +onlyGivenNames z; guard_hyp z : Hst := _; revert z; intro _)
    | ((with_reducible apply Fr.of); rotate_left 23; (with_reducible exact Or.inr rfl); rotate_left 3; with_reducible assumption; (iterate 25 (first | with_reducible exact Or.inr rfl | with_reducible exact Or.inr ⟨rfl, rfl⟩ | exact Or.inl (Fr.bit hw rfl))))

theorem fr_tellBound {W : Nat} {s0 : State} {s : State} {serial : Nat} (hw : 33554432 ||| W = W) (hs : Fr W s0 s) :
    Fr W s0 (State.tellBound s serial) := by
  unfold State.tellBound
  repeat' first
    | (extract_lets +onlyGivenNames z; guard_hyp z : Hst := _; revert z; intro _)
    | ((with_reducible apply Fr.of); rotate_left 23; (with_reducible exact Or.inr rfl); rotate_left 3; with_reducible assumption; (iterate 25 (first | with_reducible exact Or.inr rfl | with_reducible exact Or.inr ⟨rfl, rfl⟩ | exact Or.inl (Fr.bit hw rfl))))

theorem fr_doReset {W : Nat} {s0 : State} {s : State} {r : Nat} (hw : 8388608 ||| W = W) (hs : Fr W s0 s) :
    Fr W s0 (State.doReset s r) := by
  unfold State.doReset
  repeat' first
    | with_reducible assumption
    | (extract_lets +onlyGivenNames z; clear_value z; revert z; intro _)
    | with_reducible refine fr_setRing hw ?_

theorem fr_setWait {W : Nat} {s0 : State} {s : State} {r : Nat} {w : WaitFor} (hw : 33554432 ||| W = W) (hs : Fr W s0 s) :
    Fr W s0 (State.setWait s r w) := by
  unfold State.setWait
  repeat' first
    | with_reducible assumption
    | (extract_lets +onlyGivenNames z; guard_hyp z : State := _; refine Fr.cut (x := z) ?_ (fun _ => ?_); rotate_left; clear_value z; revert z; intro _ _; rotate_left; unfold z; clear z)
    | (extract_lets +onlyGivenNames z; guard_hyp z : Hst := _; revert z; intro _)
    | with_reducible refine fr_dropWait hw ?_
    | ((with_reducible apply Fr.of); rotate_left 23; (with_reducible exact Or.inr rfl); rotate_left 3; with_reducible assumption; (iterate 25 (first | with_reducible exact Or.inr rfl | with_reducible exact Or.inr ⟨rfl, rfl⟩ | exact Or.inl (Fr.bit hw rfl))))

theorem fr_advanceHead {W : Nat} {s0 : State} {s : State} {r : Nat} (hw : 8388608 ||| W = W) (hs : Fr W s0 s) :
    Fr W s0 (State.advanceHead s r) := by
  unfold State.advanceHead
  repeat' first
    | intro _
    | with_reducible assumption
    | (extract_lets +onlyGivenNames z; guard_hyp z : State := _; refine Fr.cut (x := z) ?_ (fun _ => ?_); rotate_left; clear_value z; revert z; intro _ _; rotate_left; unfold z; clear z)
    | (extract_lets +onlyGivenNames z; clear_value z; revert z; intro _)
    | with_reducible refine fr_setRing hw ?_
    | with_reducible refine fr_bump ?_
    | with_reducible refine fr_doReset hw ?_
    | with_reducible apply Fr.ite

theorem fr_haltRing {W : Nat} {s0 : State} {s : State} {r : Nat} {reason : Nat} (hw : 8388608 ||| W = W) (hs : Fr W s0 s) :
    Fr W s0 (State.haltRing s r reason) := by
  unfold State.haltRing
  repeat' first
    | with_reducible assumption
    | (extract_lets +onlyGivenNames z; clear_value z; revert z; intro _)
    | with_reducible refine fr_raise ?_
    | with_reducible refine fr_setRing hw ?_

theorem fr_writeCompletion {W : Nat} {s0 : State} {s : State} {r : Nat} {status : Nat} {detail : Nat} {result : Nat} (hw : 8388616 ||| W = W) (hs : Fr W s0 s) :
    Fr W s0 (State.writeCompletion s r status detail result) := by
  unfold State.writeCompletion
  repeat' first
    | intro _
    | with_reducible assumption
    | (extract_lets +onlyGivenNames z; guard_hyp z : State := _; refine Fr.cut (x := z) ?_ (fun _ => ?_); rotate_left; clear_value z; revert z; intro _ _; rotate_left; unfold z; clear z)
    | with_reducible refine fr_hostWrite (Fr.sub (V := 8388616) rfl hw) ?_
    | with_reducible refine fr_setReg ?_
    | with_reducible refine fr_bump ?_
    | with_reducible refine fr_advanceHead (Fr.sub (V := 8388616) rfl hw) ?_
    | with_reducible refine fr_raise ?_
    | with_reducible refine fr_haltRing (Fr.sub (V := 8388616) rfl hw) ?_
    | with_reducible apply Fr.ite
    | split

theorem fr_completeRing {W : Nat} {s0 : State} {s : State} {r : Nat} {status : Nat} {detail : Nat} {result : Nat} (hw : 8388616 ||| W = W) (hs : Fr W s0 s) :
    Fr W s0 (State.completeRing s r status detail result) := by
  unfold State.completeRing
  repeat' first
    | intro _
    | with_reducible assumption
    | (extract_lets +onlyGivenNames z; clear_value z; revert z; intro _)
    | with_reducible refine fr_writeCompletion hw ?_
    | with_reducible refine fr_setRing (Fr.sub (V := 8388616) rfl hw) ?_
    | with_reducible apply Fr.ite
    | split

theorem fr_rejectMalformed {W : Nat} {s0 : State} {s : State} {r : Nat} (hw : 8388616 ||| W = W) (hs : Fr W s0 s) :
    Fr W s0 (State.rejectMalformed s r) := by
  unfold State.rejectMalformed
  repeat' first
    | intro _
    | with_reducible assumption
    | with_reducible refine fr_completeRing hw ?_
    | with_reducible apply Fr.ite
    | split

theorem fr_completeCmd {W : Nat} {s0 : State} {s : State} {r : Nat} {status : Nat} {detail : Nat} {result : Nat} (hw : 8388616 ||| W = W) (hs : Fr W s0 s) :
    Fr W s0 (State.completeCmd s r status detail result) := by
  unfold State.completeCmd
  repeat' first
    | intro _
    | with_reducible assumption
    | (extract_lets +onlyGivenNames z; guard_hyp z : State := _; refine Fr.cut (x := z) ?_ (fun _ => ?_); rotate_left; clear_value z; revert z; intro _ _; rotate_left; unfold z; clear z)
    | (extract_lets +onlyGivenNames z; clear_value z; revert z; intro _)
    | with_reducible refine fr_completeRing hw ?_
    | with_reducible refine fr_rejectMalformed hw ?_
    | with_reducible apply Fr.ite

theorem fr_settleBarriers {W : Nat} {s0 : State} {s : State} (hw : 41943048 ||| W = W) (hs : Fr W s0 s) :
    Fr W s0 (State.settleBarriers s) := by
  unfold State.settleBarriers
  repeat' first
    | intro _
    | with_reducible assumption
    | with_reducible refine fr_completeCmd (Fr.sub (V := 41943048) rfl hw) ?_
    | with_reducible refine fr_dropWait (Fr.sub (V := 41943048) rfl hw) ?_
    | with_reducible apply Fr.ite
    | with_reducible apply Fr.foldl
    | split

theorem fr_tellRunEnd {W : Nat} {s0 : State} {s : State} {serial : Nat} {ending : Nat} {slot : Nat} (hw : 41943048 ||| W = W) (hs : Fr W s0 s) :
    Fr W s0 (State.tellRunEnd s serial ending slot) := by
  unfold State.tellRunEnd
  repeat' first
    | intro _
    | with_reducible assumption
    | with_reducible refine fr_completeCmd (Fr.sub (V := 41943048) rfl hw) ?_
    | with_reducible refine fr_dropWait (Fr.sub (V := 41943048) rfl hw) ?_
    | with_reducible apply Fr.ite
    | with_reducible apply Fr.foldl
    | split

theorem fr_answer {W : Nat} {s0 : State} {s : State} {r : Nat} {status : Nat} {detail : Nat} {result : Nat} (hw : 41943048 ||| W = W) (hs : Fr W s0 s) :
    Fr W s0 (State.answer s r status detail result) := by
  unfold State.answer
  repeat' first
    | intro _
    | with_reducible assumption
    | (extract_lets +onlyGivenNames z; guard_hyp z : State := _; refine Fr.cut (x := z) ?_ (fun _ => ?_); rotate_left; clear_value z; revert z; intro _ _; rotate_left; unfold z; clear z)
    | (extract_lets +onlyGivenNames z; clear_value z; revert z; intro _)
    | with_reducible refine fr_completeCmd (Fr.sub (V := 41943048) rfl hw) ?_
    | with_reducible refine fr_completeRing (Fr.sub (V := 41943048) rfl hw) ?_
    | with_reducible refine fr_settleBarriers hw ?_
    | with_reducible refine fr_countBarriers (Fr.sub (V := 41943048) rfl hw) ?_
    | with_reducible apply Fr.ite

theorem fr_refuse {W : Nat} {s0 : State} {s : State} {r : Nat} {status : Nat} {detail : Nat} (hw : 41943048 ||| W = W) (hs : Fr W s0 s) :
    Fr W s0 (State.refuse s r status detail) := by
  unfold State.refuse
  repeat' first
    | with_reducible assumption
    | with_reducible refine fr_answer hw ?_

theorem fr_checked {W : Nat} {s0 : State} {s : State} {r : Nat} {e : CurEntry} {format : Option Nat} {legal : List Mode} {exclusive : Bool} {f : State → State} {bound : optParam (List Mode) []} {also : optParam (Option (Nat × Nat)) Option.none} (hw : 41943048 ||| W = W) (hs : Fr W s0 s) (hf : ∀ (x0 : State), Fr W s0 x0 → Fr W s0 (f x0)) :
    Fr W s0 (State.checked s r e format legal exclusive f bound also) := by
  unfold State.checked
  repeat' first
    | intro _
    | with_reducible assumption
    | with_reducible apply hf
    | with_reducible refine fr_refuse hw ?_
    | with_reducible apply Fr.ite
    | split

end Sys2Proof.Laws
end

