-- ==== Sys2Proof/Laws/State.lean ====
section
/-! SUPPORT. One lemma per field per named update, and what a read after a write answers: no later proof unfolds a record
update. -/

namespace Sys2Proof.Laws

open Sys2Proof.Machine

variable (s : State)

/-! `setReg`. -/

@[simp] theorem setReg_pending (off v : Nat) : (s.setReg off v).pending = s.pending := rfl
@[simp] theorem setReg_time (off v : Nat) : (s.setReg off v).time = s.time := rfl
@[simp] theorem setReg_free (off v : Nat) : (s.setReg off v).free = s.free := rfl
@[simp] theorem setReg_readData (off v : Nat) : (s.setReg off v).readData = s.readData := rfl
@[simp] theorem setReg_glb (off v : Nat) : (s.setReg off v).glb = s.glb := rfl
@[simp] theorem setReg_hst (off v : Nat) : (s.setReg off v).hst = s.hst := rfl
@[simp] theorem setReg_sets (off v : Nat) : (s.setReg off v).sets = s.sets := rfl
@[simp] theorem setReg_run (off v : Nat) : (s.setReg off v).run = s.run := rfl
@[simp] theorem setReg_runEnded (off v : Nat) : (s.setReg off v).runEnded = s.runEnded := rfl
@[simp] theorem setReg_fig (off v : Nat) : (s.setReg off v).fig = s.fig := rfl
@[simp] theorem setReg_wvr (off v : Nat) : (s.setReg off v).wvr = s.wvr := rfl
@[simp] theorem setReg_cor (off v : Nat) : (s.setReg off v).cor = s.cor := rfl
@[simp] theorem setReg_stg (off v : Nat) : (s.setReg off v).stg = s.stg := rfl
@[simp] theorem setReg_bmf (off v : Nat) : (s.setReg off v).bmf = s.bmf := rfl
@[simp] theorem setReg_trk (off v : Nat) : (s.setReg off v).trk = s.trk := rfl
@[simp] theorem setReg_lnk (off v : Nat) : (s.setReg off v).lnk = s.lnk := rfl
@[simp] theorem setReg_dram (off v : Nat) : (s.setReg off v).dram = s.dram := rfl
@[simp] theorem setReg_sram (off v : Nat) : (s.setReg off v).sram = s.sram := rfl
@[simp] theorem setReg_net (off v : Nat) : (s.setReg off v).net = s.net := rfl
@[simp] theorem setReg_ptp (off v : Nat) : (s.setReg off v).ptp = s.ptp := rfl
@[simp] theorem setReg_pwr (off v : Nat) : (s.setReg off v).pwr = s.pwr := rfl
@[simp] theorem setReg_clk (off v : Nat) : (s.setReg off v).clk = s.clk := rfl
@[simp] theorem setReg_thm (off v : Nat) : (s.setReg off v).thm = s.thm := rfl
@[simp] theorem setReg_rcr (off v : Nat) : (s.setReg off v).rcr = s.rcr := rfl

/-! `at_`. -/

@[simp] theorem at_pending (t : Nat) : (s.at_ t).pending = s.pending := rfl
@[simp] theorem at_free (t : Nat) : (s.at_ t).free = s.free := rfl
@[simp] theorem at_readData (t : Nat) : (s.at_ t).readData = s.readData := rfl
@[simp] theorem at_regs (t : Nat) : (s.at_ t).regs = s.regs := rfl
@[simp] theorem at_glb (t : Nat) : (s.at_ t).glb = s.glb := rfl
@[simp] theorem at_hst (t : Nat) : (s.at_ t).hst = s.hst := rfl
@[simp] theorem at_sets (t : Nat) : (s.at_ t).sets = s.sets := rfl
@[simp] theorem at_run (t : Nat) : (s.at_ t).run = s.run := rfl
@[simp] theorem at_runEnded (t : Nat) : (s.at_ t).runEnded = s.runEnded := rfl
@[simp] theorem at_fig (t : Nat) : (s.at_ t).fig = s.fig := rfl
@[simp] theorem at_wvr (t : Nat) : (s.at_ t).wvr = s.wvr := rfl
@[simp] theorem at_cor (t : Nat) : (s.at_ t).cor = s.cor := rfl
@[simp] theorem at_stg (t : Nat) : (s.at_ t).stg = s.stg := rfl
@[simp] theorem at_bmf (t : Nat) : (s.at_ t).bmf = s.bmf := rfl
@[simp] theorem at_trk (t : Nat) : (s.at_ t).trk = s.trk := rfl
@[simp] theorem at_lnk (t : Nat) : (s.at_ t).lnk = s.lnk := rfl
@[simp] theorem at_dram (t : Nat) : (s.at_ t).dram = s.dram := rfl
@[simp] theorem at_sram (t : Nat) : (s.at_ t).sram = s.sram := rfl
@[simp] theorem at_net (t : Nat) : (s.at_ t).net = s.net := rfl
@[simp] theorem at_ptp (t : Nat) : (s.at_ t).ptp = s.ptp := rfl
@[simp] theorem at_pwr (t : Nat) : (s.at_ t).pwr = s.pwr := rfl
@[simp] theorem at_clk (t : Nat) : (s.at_ t).clk = s.clk := rfl
@[simp] theorem at_thm (t : Nat) : (s.at_ t).thm = s.thm := rfl
@[simp] theorem at_rcr (t : Nat) : (s.at_ t).rcr = s.rcr := rfl

/-! `next`. -/

@[simp] theorem next_pending  : (s.next).pending = s.pending := rfl
@[simp] theorem next_time  : (s.next).time = s.time := rfl
@[simp] theorem next_readData  : (s.next).readData = s.readData := rfl
@[simp] theorem next_regs  : (s.next).regs = s.regs := rfl
@[simp] theorem next_glb  : (s.next).glb = s.glb := rfl
@[simp] theorem next_hst  : (s.next).hst = s.hst := rfl
@[simp] theorem next_sets  : (s.next).sets = s.sets := rfl
@[simp] theorem next_run  : (s.next).run = s.run := rfl
@[simp] theorem next_runEnded  : (s.next).runEnded = s.runEnded := rfl
@[simp] theorem next_fig  : (s.next).fig = s.fig := rfl
@[simp] theorem next_wvr  : (s.next).wvr = s.wvr := rfl
@[simp] theorem next_cor  : (s.next).cor = s.cor := rfl
@[simp] theorem next_stg  : (s.next).stg = s.stg := rfl
@[simp] theorem next_bmf  : (s.next).bmf = s.bmf := rfl
@[simp] theorem next_trk  : (s.next).trk = s.trk := rfl
@[simp] theorem next_lnk  : (s.next).lnk = s.lnk := rfl
@[simp] theorem next_dram  : (s.next).dram = s.dram := rfl
@[simp] theorem next_sram  : (s.next).sram = s.sram := rfl
@[simp] theorem next_net  : (s.next).net = s.net := rfl
@[simp] theorem next_ptp  : (s.next).ptp = s.ptp := rfl
@[simp] theorem next_pwr  : (s.next).pwr = s.pwr := rfl
@[simp] theorem next_clk  : (s.next).clk = s.clk := rfl
@[simp] theorem next_thm  : (s.next).thm = s.thm := rfl
@[simp] theorem next_rcr  : (s.next).rcr = s.rcr := rfl

/-! `setRing`. -/

@[simp] theorem setRing_pending (r : Nat) (x : Ring) : (s.setRing r x).pending = s.pending := rfl
@[simp] theorem setRing_time (r : Nat) (x : Ring) : (s.setRing r x).time = s.time := rfl
@[simp] theorem setRing_free (r : Nat) (x : Ring) : (s.setRing r x).free = s.free := rfl
@[simp] theorem setRing_readData (r : Nat) (x : Ring) : (s.setRing r x).readData = s.readData := rfl
@[simp] theorem setRing_regs (r : Nat) (x : Ring) : (s.setRing r x).regs = s.regs := rfl
@[simp] theorem setRing_glb (r : Nat) (x : Ring) : (s.setRing r x).glb = s.glb := rfl
@[simp] theorem setRing_sets (r : Nat) (x : Ring) : (s.setRing r x).sets = s.sets := rfl
@[simp] theorem setRing_run (r : Nat) (x : Ring) : (s.setRing r x).run = s.run := rfl
@[simp] theorem setRing_runEnded (r : Nat) (x : Ring) : (s.setRing r x).runEnded = s.runEnded := rfl
@[simp] theorem setRing_fig (r : Nat) (x : Ring) : (s.setRing r x).fig = s.fig := rfl
@[simp] theorem setRing_wvr (r : Nat) (x : Ring) : (s.setRing r x).wvr = s.wvr := rfl
@[simp] theorem setRing_cor (r : Nat) (x : Ring) : (s.setRing r x).cor = s.cor := rfl
@[simp] theorem setRing_stg (r : Nat) (x : Ring) : (s.setRing r x).stg = s.stg := rfl
@[simp] theorem setRing_bmf (r : Nat) (x : Ring) : (s.setRing r x).bmf = s.bmf := rfl
@[simp] theorem setRing_trk (r : Nat) (x : Ring) : (s.setRing r x).trk = s.trk := rfl
@[simp] theorem setRing_lnk (r : Nat) (x : Ring) : (s.setRing r x).lnk = s.lnk := rfl
@[simp] theorem setRing_dram (r : Nat) (x : Ring) : (s.setRing r x).dram = s.dram := rfl
@[simp] theorem setRing_sram (r : Nat) (x : Ring) : (s.setRing r x).sram = s.sram := rfl
@[simp] theorem setRing_net (r : Nat) (x : Ring) : (s.setRing r x).net = s.net := rfl
@[simp] theorem setRing_ptp (r : Nat) (x : Ring) : (s.setRing r x).ptp = s.ptp := rfl
@[simp] theorem setRing_pwr (r : Nat) (x : Ring) : (s.setRing r x).pwr = s.pwr := rfl
@[simp] theorem setRing_clk (r : Nat) (x : Ring) : (s.setRing r x).clk = s.clk := rfl
@[simp] theorem setRing_thm (r : Nat) (x : Ring) : (s.setRing r x).thm = s.thm := rfl
@[simp] theorem setRing_rcr (r : Nat) (x : Ring) : (s.setRing r x).rcr = s.rcr := rfl

/-! `modRun`. -/

@[simp] theorem modRun_pending (f : Run → Run) : (s.modRun f).pending = s.pending := rfl
@[simp] theorem modRun_time (f : Run → Run) : (s.modRun f).time = s.time := rfl
@[simp] theorem modRun_free (f : Run → Run) : (s.modRun f).free = s.free := rfl
@[simp] theorem modRun_readData (f : Run → Run) : (s.modRun f).readData = s.readData := rfl
@[simp] theorem modRun_regs (f : Run → Run) : (s.modRun f).regs = s.regs := rfl
@[simp] theorem modRun_glb (f : Run → Run) : (s.modRun f).glb = s.glb := rfl
@[simp] theorem modRun_hst (f : Run → Run) : (s.modRun f).hst = s.hst := rfl
@[simp] theorem modRun_sets (f : Run → Run) : (s.modRun f).sets = s.sets := rfl
@[simp] theorem modRun_runEnded (f : Run → Run) : (s.modRun f).runEnded = s.runEnded := rfl
@[simp] theorem modRun_fig (f : Run → Run) : (s.modRun f).fig = s.fig := rfl
@[simp] theorem modRun_wvr (f : Run → Run) : (s.modRun f).wvr = s.wvr := rfl
@[simp] theorem modRun_cor (f : Run → Run) : (s.modRun f).cor = s.cor := rfl
@[simp] theorem modRun_stg (f : Run → Run) : (s.modRun f).stg = s.stg := rfl
@[simp] theorem modRun_bmf (f : Run → Run) : (s.modRun f).bmf = s.bmf := rfl
@[simp] theorem modRun_trk (f : Run → Run) : (s.modRun f).trk = s.trk := rfl
@[simp] theorem modRun_lnk (f : Run → Run) : (s.modRun f).lnk = s.lnk := rfl
@[simp] theorem modRun_dram (f : Run → Run) : (s.modRun f).dram = s.dram := rfl
@[simp] theorem modRun_sram (f : Run → Run) : (s.modRun f).sram = s.sram := rfl
@[simp] theorem modRun_net (f : Run → Run) : (s.modRun f).net = s.net := rfl
@[simp] theorem modRun_ptp (f : Run → Run) : (s.modRun f).ptp = s.ptp := rfl
@[simp] theorem modRun_pwr (f : Run → Run) : (s.modRun f).pwr = s.pwr := rfl
@[simp] theorem modRun_clk (f : Run → Run) : (s.modRun f).clk = s.clk := rfl
@[simp] theorem modRun_thm (f : Run → Run) : (s.modRun f).thm = s.thm := rfl
@[simp] theorem modRun_rcr (f : Run → Run) : (s.modRun f).rcr = s.rcr := rfl

/-! `modLane`. -/

@[simp] theorem modLane_pending (p : Nat) (f : Lane → Lane) : (s.modLane p f).pending = s.pending := rfl
@[simp] theorem modLane_time (p : Nat) (f : Lane → Lane) : (s.modLane p f).time = s.time := rfl
@[simp] theorem modLane_free (p : Nat) (f : Lane → Lane) : (s.modLane p f).free = s.free := rfl
@[simp] theorem modLane_readData (p : Nat) (f : Lane → Lane) : (s.modLane p f).readData = s.readData := rfl
@[simp] theorem modLane_regs (p : Nat) (f : Lane → Lane) : (s.modLane p f).regs = s.regs := rfl
@[simp] theorem modLane_glb (p : Nat) (f : Lane → Lane) : (s.modLane p f).glb = s.glb := rfl
@[simp] theorem modLane_hst (p : Nat) (f : Lane → Lane) : (s.modLane p f).hst = s.hst := rfl
@[simp] theorem modLane_sets (p : Nat) (f : Lane → Lane) : (s.modLane p f).sets = s.sets := rfl
@[simp] theorem modLane_run (p : Nat) (f : Lane → Lane) : (s.modLane p f).run = s.run := rfl
@[simp] theorem modLane_runEnded (p : Nat) (f : Lane → Lane) : (s.modLane p f).runEnded = s.runEnded := rfl
@[simp] theorem modLane_fig (p : Nat) (f : Lane → Lane) : (s.modLane p f).fig = s.fig := rfl
@[simp] theorem modLane_wvr (p : Nat) (f : Lane → Lane) : (s.modLane p f).wvr = s.wvr := rfl
@[simp] theorem modLane_cor (p : Nat) (f : Lane → Lane) : (s.modLane p f).cor = s.cor := rfl
@[simp] theorem modLane_stg (p : Nat) (f : Lane → Lane) : (s.modLane p f).stg = s.stg := rfl
@[simp] theorem modLane_bmf (p : Nat) (f : Lane → Lane) : (s.modLane p f).bmf = s.bmf := rfl
@[simp] theorem modLane_trk (p : Nat) (f : Lane → Lane) : (s.modLane p f).trk = s.trk := rfl
@[simp] theorem modLane_dram (p : Nat) (f : Lane → Lane) : (s.modLane p f).dram = s.dram := rfl
@[simp] theorem modLane_sram (p : Nat) (f : Lane → Lane) : (s.modLane p f).sram = s.sram := rfl
@[simp] theorem modLane_net (p : Nat) (f : Lane → Lane) : (s.modLane p f).net = s.net := rfl
@[simp] theorem modLane_ptp (p : Nat) (f : Lane → Lane) : (s.modLane p f).ptp = s.ptp := rfl
@[simp] theorem modLane_pwr (p : Nat) (f : Lane → Lane) : (s.modLane p f).pwr = s.pwr := rfl
@[simp] theorem modLane_clk (p : Nat) (f : Lane → Lane) : (s.modLane p f).clk = s.clk := rfl
@[simp] theorem modLane_thm (p : Nat) (f : Lane → Lane) : (s.modLane p f).thm = s.thm := rfl
@[simp] theorem modLane_rcr (p : Nat) (f : Lane → Lane) : (s.modLane p f).rcr = s.rcr := rfl

/-! `modChan`. -/

@[simp] theorem modChan_pending (p : Nat) (f : Chan → Chan) : (s.modChan p f).pending = s.pending := rfl
@[simp] theorem modChan_time (p : Nat) (f : Chan → Chan) : (s.modChan p f).time = s.time := rfl
@[simp] theorem modChan_free (p : Nat) (f : Chan → Chan) : (s.modChan p f).free = s.free := rfl
@[simp] theorem modChan_readData (p : Nat) (f : Chan → Chan) : (s.modChan p f).readData = s.readData := rfl
@[simp] theorem modChan_regs (p : Nat) (f : Chan → Chan) : (s.modChan p f).regs = s.regs := rfl
@[simp] theorem modChan_glb (p : Nat) (f : Chan → Chan) : (s.modChan p f).glb = s.glb := rfl
@[simp] theorem modChan_hst (p : Nat) (f : Chan → Chan) : (s.modChan p f).hst = s.hst := rfl
@[simp] theorem modChan_sets (p : Nat) (f : Chan → Chan) : (s.modChan p f).sets = s.sets := rfl
@[simp] theorem modChan_run (p : Nat) (f : Chan → Chan) : (s.modChan p f).run = s.run := rfl
@[simp] theorem modChan_runEnded (p : Nat) (f : Chan → Chan) : (s.modChan p f).runEnded = s.runEnded := rfl
@[simp] theorem modChan_fig (p : Nat) (f : Chan → Chan) : (s.modChan p f).fig = s.fig := rfl
@[simp] theorem modChan_wvr (p : Nat) (f : Chan → Chan) : (s.modChan p f).wvr = s.wvr := rfl
@[simp] theorem modChan_cor (p : Nat) (f : Chan → Chan) : (s.modChan p f).cor = s.cor := rfl
@[simp] theorem modChan_stg (p : Nat) (f : Chan → Chan) : (s.modChan p f).stg = s.stg := rfl
@[simp] theorem modChan_bmf (p : Nat) (f : Chan → Chan) : (s.modChan p f).bmf = s.bmf := rfl
@[simp] theorem modChan_trk (p : Nat) (f : Chan → Chan) : (s.modChan p f).trk = s.trk := rfl
@[simp] theorem modChan_lnk (p : Nat) (f : Chan → Chan) : (s.modChan p f).lnk = s.lnk := rfl
@[simp] theorem modChan_sram (p : Nat) (f : Chan → Chan) : (s.modChan p f).sram = s.sram := rfl
@[simp] theorem modChan_net (p : Nat) (f : Chan → Chan) : (s.modChan p f).net = s.net := rfl
@[simp] theorem modChan_ptp (p : Nat) (f : Chan → Chan) : (s.modChan p f).ptp = s.ptp := rfl
@[simp] theorem modChan_pwr (p : Nat) (f : Chan → Chan) : (s.modChan p f).pwr = s.pwr := rfl
@[simp] theorem modChan_clk (p : Nat) (f : Chan → Chan) : (s.modChan p f).clk = s.clk := rfl
@[simp] theorem modChan_thm (p : Nat) (f : Chan → Chan) : (s.modChan p f).thm = s.thm := rfl
@[simp] theorem modChan_rcr (p : Nat) (f : Chan → Chan) : (s.modChan p f).rcr = s.rcr := rfl

/-! `hostWrite`. -/

@[simp] theorem hostWrite_pending (a : Nat) (bs : List Byte) : (s.hostWrite a bs).pending = s.pending := rfl
@[simp] theorem hostWrite_time (a : Nat) (bs : List Byte) : (s.hostWrite a bs).time = s.time := rfl
@[simp] theorem hostWrite_free (a : Nat) (bs : List Byte) : (s.hostWrite a bs).free = s.free := rfl
@[simp] theorem hostWrite_readData (a : Nat) (bs : List Byte) : (s.hostWrite a bs).readData = s.readData := rfl
@[simp] theorem hostWrite_regs (a : Nat) (bs : List Byte) : (s.hostWrite a bs).regs = s.regs := rfl
@[simp] theorem hostWrite_glb (a : Nat) (bs : List Byte) : (s.hostWrite a bs).glb = s.glb := rfl
@[simp] theorem hostWrite_sets (a : Nat) (bs : List Byte) : (s.hostWrite a bs).sets = s.sets := rfl
@[simp] theorem hostWrite_run (a : Nat) (bs : List Byte) : (s.hostWrite a bs).run = s.run := rfl
@[simp] theorem hostWrite_runEnded (a : Nat) (bs : List Byte) : (s.hostWrite a bs).runEnded = s.runEnded := rfl
@[simp] theorem hostWrite_fig (a : Nat) (bs : List Byte) : (s.hostWrite a bs).fig = s.fig := rfl
@[simp] theorem hostWrite_wvr (a : Nat) (bs : List Byte) : (s.hostWrite a bs).wvr = s.wvr := rfl
@[simp] theorem hostWrite_cor (a : Nat) (bs : List Byte) : (s.hostWrite a bs).cor = s.cor := rfl
@[simp] theorem hostWrite_stg (a : Nat) (bs : List Byte) : (s.hostWrite a bs).stg = s.stg := rfl
@[simp] theorem hostWrite_bmf (a : Nat) (bs : List Byte) : (s.hostWrite a bs).bmf = s.bmf := rfl
@[simp] theorem hostWrite_trk (a : Nat) (bs : List Byte) : (s.hostWrite a bs).trk = s.trk := rfl
@[simp] theorem hostWrite_lnk (a : Nat) (bs : List Byte) : (s.hostWrite a bs).lnk = s.lnk := rfl
@[simp] theorem hostWrite_dram (a : Nat) (bs : List Byte) : (s.hostWrite a bs).dram = s.dram := rfl
@[simp] theorem hostWrite_sram (a : Nat) (bs : List Byte) : (s.hostWrite a bs).sram = s.sram := rfl
@[simp] theorem hostWrite_net (a : Nat) (bs : List Byte) : (s.hostWrite a bs).net = s.net := rfl
@[simp] theorem hostWrite_ptp (a : Nat) (bs : List Byte) : (s.hostWrite a bs).ptp = s.ptp := rfl
@[simp] theorem hostWrite_pwr (a : Nat) (bs : List Byte) : (s.hostWrite a bs).pwr = s.pwr := rfl
@[simp] theorem hostWrite_clk (a : Nat) (bs : List Byte) : (s.hostWrite a bs).clk = s.clk := rfl
@[simp] theorem hostWrite_thm (a : Nat) (bs : List Byte) : (s.hostWrite a bs).thm = s.thm := rfl
@[simp] theorem hostWrite_rcr (a : Nat) (bs : List Byte) : (s.hostWrite a bs).rcr = s.rcr := rfl

/-! `owe`. -/

@[simp] theorem owe_pending (v : Nat) : (s.owe v).pending = s.pending := rfl
@[simp] theorem owe_time (v : Nat) : (s.owe v).time = s.time := rfl
@[simp] theorem owe_free (v : Nat) : (s.owe v).free = s.free := rfl
@[simp] theorem owe_readData (v : Nat) : (s.owe v).readData = s.readData := rfl
@[simp] theorem owe_regs (v : Nat) : (s.owe v).regs = s.regs := rfl
@[simp] theorem owe_glb (v : Nat) : (s.owe v).glb = s.glb := rfl
@[simp] theorem owe_sets (v : Nat) : (s.owe v).sets = s.sets := rfl
@[simp] theorem owe_run (v : Nat) : (s.owe v).run = s.run := rfl
@[simp] theorem owe_runEnded (v : Nat) : (s.owe v).runEnded = s.runEnded := rfl
@[simp] theorem owe_fig (v : Nat) : (s.owe v).fig = s.fig := rfl
@[simp] theorem owe_wvr (v : Nat) : (s.owe v).wvr = s.wvr := rfl
@[simp] theorem owe_cor (v : Nat) : (s.owe v).cor = s.cor := rfl
@[simp] theorem owe_stg (v : Nat) : (s.owe v).stg = s.stg := rfl
@[simp] theorem owe_bmf (v : Nat) : (s.owe v).bmf = s.bmf := rfl
@[simp] theorem owe_trk (v : Nat) : (s.owe v).trk = s.trk := rfl
@[simp] theorem owe_lnk (v : Nat) : (s.owe v).lnk = s.lnk := rfl
@[simp] theorem owe_dram (v : Nat) : (s.owe v).dram = s.dram := rfl
@[simp] theorem owe_sram (v : Nat) : (s.owe v).sram = s.sram := rfl
@[simp] theorem owe_net (v : Nat) : (s.owe v).net = s.net := rfl
@[simp] theorem owe_ptp (v : Nat) : (s.owe v).ptp = s.ptp := rfl
@[simp] theorem owe_pwr (v : Nat) : (s.owe v).pwr = s.pwr := rfl
@[simp] theorem owe_clk (v : Nat) : (s.owe v).clk = s.clk := rfl
@[simp] theorem owe_thm (v : Nat) : (s.owe v).thm = s.thm := rfl
@[simp] theorem owe_rcr (v : Nat) : (s.owe v).rcr = s.rcr := rfl

/-! `unowe`. -/

@[simp] theorem unowe_pending (v : Nat) : (s.unowe v).pending = s.pending := rfl
@[simp] theorem unowe_time (v : Nat) : (s.unowe v).time = s.time := rfl
@[simp] theorem unowe_free (v : Nat) : (s.unowe v).free = s.free := rfl
@[simp] theorem unowe_readData (v : Nat) : (s.unowe v).readData = s.readData := rfl
@[simp] theorem unowe_regs (v : Nat) : (s.unowe v).regs = s.regs := rfl
@[simp] theorem unowe_glb (v : Nat) : (s.unowe v).glb = s.glb := rfl
@[simp] theorem unowe_sets (v : Nat) : (s.unowe v).sets = s.sets := rfl
@[simp] theorem unowe_run (v : Nat) : (s.unowe v).run = s.run := rfl
@[simp] theorem unowe_runEnded (v : Nat) : (s.unowe v).runEnded = s.runEnded := rfl
@[simp] theorem unowe_fig (v : Nat) : (s.unowe v).fig = s.fig := rfl
@[simp] theorem unowe_wvr (v : Nat) : (s.unowe v).wvr = s.wvr := rfl
@[simp] theorem unowe_cor (v : Nat) : (s.unowe v).cor = s.cor := rfl
@[simp] theorem unowe_stg (v : Nat) : (s.unowe v).stg = s.stg := rfl
@[simp] theorem unowe_bmf (v : Nat) : (s.unowe v).bmf = s.bmf := rfl
@[simp] theorem unowe_trk (v : Nat) : (s.unowe v).trk = s.trk := rfl
@[simp] theorem unowe_lnk (v : Nat) : (s.unowe v).lnk = s.lnk := rfl
@[simp] theorem unowe_dram (v : Nat) : (s.unowe v).dram = s.dram := rfl
@[simp] theorem unowe_sram (v : Nat) : (s.unowe v).sram = s.sram := rfl
@[simp] theorem unowe_net (v : Nat) : (s.unowe v).net = s.net := rfl
@[simp] theorem unowe_ptp (v : Nat) : (s.unowe v).ptp = s.ptp := rfl
@[simp] theorem unowe_pwr (v : Nat) : (s.unowe v).pwr = s.pwr := rfl
@[simp] theorem unowe_clk (v : Nat) : (s.unowe v).clk = s.clk := rfl
@[simp] theorem unowe_thm (v : Nat) : (s.unowe v).thm = s.thm := rfl
@[simp] theorem unowe_rcr (v : Nat) : (s.unowe v).rcr = s.rcr := rfl

/-! `dropWait`. -/

@[simp] theorem dropWait_pending (r : Nat) : (s.dropWait r).pending = s.pending := rfl
@[simp] theorem dropWait_time (r : Nat) : (s.dropWait r).time = s.time := rfl
@[simp] theorem dropWait_free (r : Nat) : (s.dropWait r).free = s.free := rfl
@[simp] theorem dropWait_readData (r : Nat) : (s.dropWait r).readData = s.readData := rfl
@[simp] theorem dropWait_regs (r : Nat) : (s.dropWait r).regs = s.regs := rfl
@[simp] theorem dropWait_glb (r : Nat) : (s.dropWait r).glb = s.glb := rfl
@[simp] theorem dropWait_sets (r : Nat) : (s.dropWait r).sets = s.sets := rfl
@[simp] theorem dropWait_run (r : Nat) : (s.dropWait r).run = s.run := rfl
@[simp] theorem dropWait_runEnded (r : Nat) : (s.dropWait r).runEnded = s.runEnded := rfl
@[simp] theorem dropWait_fig (r : Nat) : (s.dropWait r).fig = s.fig := rfl
@[simp] theorem dropWait_wvr (r : Nat) : (s.dropWait r).wvr = s.wvr := rfl
@[simp] theorem dropWait_cor (r : Nat) : (s.dropWait r).cor = s.cor := rfl
@[simp] theorem dropWait_stg (r : Nat) : (s.dropWait r).stg = s.stg := rfl
@[simp] theorem dropWait_bmf (r : Nat) : (s.dropWait r).bmf = s.bmf := rfl
@[simp] theorem dropWait_trk (r : Nat) : (s.dropWait r).trk = s.trk := rfl
@[simp] theorem dropWait_lnk (r : Nat) : (s.dropWait r).lnk = s.lnk := rfl
@[simp] theorem dropWait_dram (r : Nat) : (s.dropWait r).dram = s.dram := rfl
@[simp] theorem dropWait_sram (r : Nat) : (s.dropWait r).sram = s.sram := rfl
@[simp] theorem dropWait_net (r : Nat) : (s.dropWait r).net = s.net := rfl
@[simp] theorem dropWait_ptp (r : Nat) : (s.dropWait r).ptp = s.ptp := rfl
@[simp] theorem dropWait_pwr (r : Nat) : (s.dropWait r).pwr = s.pwr := rfl
@[simp] theorem dropWait_clk (r : Nat) : (s.dropWait r).clk = s.clk := rfl
@[simp] theorem dropWait_thm (r : Nat) : (s.dropWait r).thm = s.thm := rfl
@[simp] theorem dropWait_rcr (r : Nat) : (s.dropWait r).rcr = s.rcr := rfl

/-! Registers. -/

theorem reg_of_regs {s t : State} (h : s.regs = t.regs) (off : Nat) : s.reg off = t.reg off := by unfold State.reg; rw [h]

theorem reg_setReg (h : s.regsWf = true) (off v o : Nat) :
    (s.setReg off v).reg o = if o = off then v % 2 ^ 32 else s.reg o := by
  unfold State.reg State.setReg
  rw [smGet_put h]
  split <;> simp

theorem reg_setReg_self (h : s.regsWf = true) (off v : Nat) : (s.setReg off v).reg off = v % 2 ^ 32 := by
  rw [reg_setReg s h, if_pos rfl]

theorem reg_setReg_ne (h : s.regsWf = true) {off o : Nat} (v : Nat) (hn : o ≠ off) : (s.setReg off v).reg o = s.reg o := by
  rw [reg_setReg s h, if_neg hn]

theorem regsWf_setReg (h : s.regsWf = true) (off v : Nat) : (s.setReg off v).regsWf = true := smWf_put h

@[simp] theorem reg_at (t off : Nat) : (s.at_ t).reg off = s.reg off := rfl
@[simp] theorem reg_next (off : Nat) : s.next.reg off = s.reg off := rfl
@[simp] theorem reg_setRing (r : Nat) (x : Ring) (off : Nat) : (s.setRing r x).reg off = s.reg off := rfl
@[simp] theorem reg_modRun (f : Run → Run) (off : Nat) : (s.modRun f).reg off = s.reg off := rfl
@[simp] theorem reg_modLane (p : Nat) (f : Lane → Lane) (off : Nat) : (s.modLane p f).reg off = s.reg off := rfl
@[simp] theorem reg_modChan (p : Nat) (f : Chan → Chan) (off : Nat) : (s.modChan p f).reg off = s.reg off := rfl
@[simp] theorem reg_hostWrite (a : Nat) (bs : List Byte) (off : Nat) : (s.hostWrite a bs).reg off = s.reg off := rfl
@[simp] theorem reg_owe (v off : Nat) : (s.owe v).reg off = s.reg off := rfl
@[simp] theorem reg_unowe (v off : Nat) : (s.unowe v).reg off = s.reg off := rfl
@[simp] theorem reg_dropWait (r off : Nat) : (s.dropWait r).reg off = s.reg off := rfl

theorem reg_lt (off : Nat) : s.reg off < 2 ^ 32 := (smGet Reg.resetWord s.regs off).isLt

theorem bump_eq (off : Nat) : s.bump off = s.setReg off (min (s.reg off + 1) 0xFFFFFFFF) := rfl

theorem reg_bump (h : s.regsWf = true) (off o : Nat) :
    (s.bump off).reg o = if o = off then min (s.reg off + 1) 0xFFFFFFFF else s.reg o := by
  rw [bump_eq, reg_setReg s h]
  split
  · exact Nat.mod_eq_of_lt (by omega)
  · rfl

theorem regsWf_bump (h : s.regsWf = true) (off : Nat) : (s.bump off).regsWf = true := smWf_put h

theorem reg_setField_ne (h : s.regsWf = true) {off o : Nat} (hi lo v : Nat) (hn : o ≠ off) :
    (s.setField off hi lo v).reg o = s.reg o := reg_setReg_ne s h _ hn

theorem regsWf_setField (h : s.regsWf = true) (off hi lo v : Nat) : (s.setField off hi lo v).regsWf = true := smWf_put h

/-! Rings. -/

theorem find_eq_get {α : Type} [DecidableEq α] {d : Nat → α} {m : List (Nat × α)} {lo r : Nat} (h : smWfFrom d lo m = true) :
    (match m.find? fun p => p.1 = r with | some p => p.2 | none => d r) = smGet d m r := by
  induction m generalizing lo with
  | nil => rfl
  | cons p t ih =>
    obtain ⟨k, v⟩ := p
    obtain ⟨-, -, h3⟩ := smWfFrom_cons.1 h
    by_cases hk : k = r
    · simp [smGet, hk]
    · have hr : r ≠ k := fun e => hk e.symm
      simp only [List.find?_cons, hk, decide_false, smGet, hr, if_false]
      rw [ih h3]
      split
      · rename_i hlt
        cases t with
        | nil => rfl
        | cons x t =>
          obtain ⟨k', v'⟩ := x
          have := (smWfFrom_cons.1 h3).1
          simp only [smGet]
          rw [if_neg (by omega), if_pos (by omega)]
      · rfl

theorem ring_eq (h : s.ringsWf = true) (r : Nat) : s.ring r = smGet (fun _ => ({} : Ring)) s.hst.rings r := by
  rw [← find_eq_get (r := r) h]
  unfold State.ring
  cases s.hst.rings.find? fun p => decide (p.1 = r) <;> rfl

theorem ringsWf_setRing (h : s.ringsWf = true) (r : Nat) (x : Ring) : (s.setRing r x).ringsWf = true := smWf_put h

theorem ring_setRing (h : s.ringsWf = true) (r : Nat) (x : Ring) (q : Nat) :
    (s.setRing r x).ring q = if q = r then x else s.ring q := by
  rw [ring_eq _ (ringsWf_setRing s h r x), ring_eq s h]
  exact smGet_put h

@[simp] theorem ring_setReg (off v r : Nat) : (s.setReg off v).ring r = s.ring r := rfl
@[simp] theorem ring_at (t r : Nat) : (s.at_ t).ring r = s.ring r := rfl
@[simp] theorem ring_hostWrite (a : Nat) (bs : List Byte) (r : Nat) : (s.hostWrite a bs).ring r = s.ring r := rfl
@[simp] theorem ring_owe (v r : Nat) : (s.owe v).ring r = s.ring r := rfl
@[simp] theorem ring_unowe (v r : Nat) : (s.unowe v).ring r = s.ring r := rfl
@[simp] theorem ring_dropWait (q r : Nat) : (s.dropWait q).ring r = s.ring r := rfl
@[simp] theorem ring_bump (off r : Nat) : (s.bump off).ring r = s.ring r := rfl

/-! Lanes and channels. -/

theorem lane_modLane {p : Nat} (f : Lane → Lane) (h : p < s.lnk.lanes.length) : (s.modLane p f).lane p = f (s.lane p) := by
  unfold State.lane State.modLane
  simp [List.getD, h]

theorem lane_modLane_ne {p q : Nat} (f : Lane → Lane) (h : q ≠ p) : (s.modLane p f).lane q = s.lane q := by
  unfold State.lane State.modLane
  simp [List.getD, h.symm]

theorem chan_modChan {p : Nat} (f : Chan → Chan) (h : p < s.dram.chans.length) : (s.modChan p f).chan p = f (s.chan p) := by
  unfold State.chan State.modChan
  simp [List.getD, h]

theorem chan_modChan_ne {p q : Nat} (f : Chan → Chan) (h : q ≠ p) : (s.modChan p f).chan q = s.chan q := by
  unfold State.chan State.modChan
  simp [List.getD, h.symm]

end Sys2Proof.Laws
end

