-- ==== Sys2Proof/Laws/Settle.lean ====
section
/-! SUPPORT. What raising a source, firing a recorder trigger and settling the level sources leave alone: every register but the
interrupt and recorder counters named here, the rings, the link, host memory, and every block. -/

namespace Sys2Proof.Laws

open Sys2Proof.Machine

/-- The registers that a raised source may write. -/
def irqRegs : List Nat := [Reg.IRQ_PEND_LO, Reg.IRQ_PEND_HI, Reg.IRQ_COALESCED, Reg.REC_UNCOMMITTED, Reg.REC_THROTTLED]

/-- `t` is `s` but for interrupts owed, the registers of `irqRegs` and the recorder. -/
structure Quiet (s t : State) : Prop where
  hst : t.hst = { s.hst with owed := t.hst.owed }
  wf : s.regsWf = true → t.regsWf = true
  reg : s.regsWf = true → ∀ off, off ∉ irqRegs → t.reg off = s.reg off

theorem Quiet.refl (s : State) : Quiet s s := ⟨rfl, fun h => h, fun _ _ _ => rfl⟩

theorem Quiet.trans {s t u : State} (h : Quiet s t) (g : Quiet t u) : Quiet s u :=
  ⟨by rw [g.hst, h.hst], fun k => g.wf (h.wf k), fun k off ho => (g.reg (h.wf k) off ho).trans (h.reg k off ho)⟩

theorem Quiet.of {s t : State} (h : t.hst = { s.hst with owed := t.hst.owed }) (hr : t.regs = s.regs) : Quiet s t :=
  ⟨h, fun k => by simpa [State.regsWf, hr] using k, fun _ off _ => reg_of_regs hr off⟩

theorem quiet_setReg {s : State} {off v : Nat} (h : off ∈ irqRegs) : Quiet s (s.setReg off v) :=
  ⟨rfl, fun k => regsWf_setReg s k off v, fun k o ho => reg_setReg_ne s k v fun e => ho (e ▸ h)⟩

theorem quiet_bump {s : State} {off : Nat} (h : off ∈ irqRegs) : Quiet s (s.bump off) := quiet_setReg h

theorem quiet_rcr {s : State} (r : Rec) : Quiet s { s with rcr := r } := .of rfl rfl

theorem quiet_shadowPut {s : State} {e : ShadowEntry} : Quiet s (s.shadowPut e) := by
  unfold State.shadowPut
  extract_lets sh
  split
  · exact .of rfl rfl
  · split
    · exact .of rfl rfl
    · exact (quiet_rcr _).trans (quiet_bump (off := Reg.REC_UNCOMMITTED) (by decide))

theorem quiet_trigger {s : State} {code detail : Nat} : Quiet s (s.trigger code detail) := by
  unfold State.trigger
  extract_lets m
  split
  · exact .refl s
  · split
    · exact (((quiet_rcr _).trans quiet_shadowPut).trans (quiet_rcr _)).trans (quiet_bump (off := Reg.REC_THROTTLED) (by decide))
    · exact (quiet_rcr _).trans quiet_shadowPut

theorem pendReg_irq (v : Nat) : pendReg v ∈ irqRegs := by
  unfold pendReg
  split <;> decide

theorem quiet_raiseN {s : State} {v : Nat} : Quiet s (s.raiseN v) := by
  unfold State.raiseN
  split
  · exact quiet_bump (by decide)
  · extract_lets s1 s2
    have h1 : Quiet s s1 := quiet_setReg (pendReg_irq v)
    have h2 : Quiet s s2 := by
      show Quiet s (if s1.enabled? v then s1.owe v else s1)
      split
      · exact h1.trans (.of rfl rfl)
      · exact h1
    exact h2.trans quiet_trigger

theorem quiet_raise {s : State} {x : Src} : Quiet s (s.raise x) := quiet_raiseN

theorem quiet_settle {s' s : State} : Quiet s' (s'.settle s) := by
  unfold State.settle
  have : ∀ (l : List Nat) a, Quiet s' a →
      Quiet s' (l.foldl (fun a v => if !s.level v && s'.level v then a.raiseN v else a) a) := by
    intro l
    induction l with
    | nil => exact fun _ h => h
    | cons v l ih =>
      intro a h
      refine ih _ ?_
      beta_reduce
      split
      · exact h.trans quiet_raiseN
      · exact h
  exact this _ _ (.refl s')

theorem fr_settle' {W : Nat} {s0 s' s : State} (h : Fr W s0 s') : Fr W s0 (s'.settle s) :=
  Fr.foldl h fun _ _ h => Fr.ite (fun _ => fr_raiseN h) fun _ => h

variable (s' s : State)

@[simp] theorem settle_time  : (s'.settle s).time = s'.time :=
  ((fr_settle' Fr.refl : Fr 0 s' _).time).resolve_left (by decide)

@[simp] theorem settle_free  : (s'.settle s).free = s'.free :=
  ((fr_settle' Fr.refl : Fr 0 s' _).free).resolve_left (by decide)

@[simp] theorem settle_readData  : (s'.settle s).readData = s'.readData :=
  ((fr_settle' Fr.refl : Fr 0 s' _).readData).resolve_left (by decide)

@[simp] theorem settle_glb  : (s'.settle s).glb = s'.glb :=
  ((fr_settle' Fr.refl : Fr 0 s' _).glb).resolve_left (by decide)

@[simp] theorem settle_sets  : (s'.settle s).sets = s'.sets :=
  ((fr_settle' Fr.refl : Fr 0 s' _).sets).resolve_left (by decide)

@[simp] theorem settle_run  : (s'.settle s).run = s'.run :=
  ((fr_settle' Fr.refl : Fr 0 s' _).run).resolve_left (by decide)

@[simp] theorem settle_runEnded  : (s'.settle s).runEnded = s'.runEnded :=
  ((fr_settle' Fr.refl : Fr 0 s' _).runEnded).resolve_left (by decide)

@[simp] theorem settle_fig  : (s'.settle s).fig = s'.fig :=
  ((fr_settle' Fr.refl : Fr 0 s' _).fig).resolve_left (by decide)

@[simp] theorem settle_wvr  : (s'.settle s).wvr = s'.wvr :=
  ((fr_settle' Fr.refl : Fr 0 s' _).wvr).resolve_left (by decide)

@[simp] theorem settle_cor  : (s'.settle s).cor = s'.cor :=
  ((fr_settle' Fr.refl : Fr 0 s' _).cor).resolve_left (by decide)

@[simp] theorem settle_stg  : (s'.settle s).stg = s'.stg :=
  ((fr_settle' Fr.refl : Fr 0 s' _).stg).resolve_left (by decide)

@[simp] theorem settle_bmf  : (s'.settle s).bmf = s'.bmf :=
  ((fr_settle' Fr.refl : Fr 0 s' _).bmf).resolve_left (by decide)

@[simp] theorem settle_trk  : (s'.settle s).trk = s'.trk :=
  ((fr_settle' Fr.refl : Fr 0 s' _).trk).resolve_left (by decide)

@[simp] theorem settle_lnk  : (s'.settle s).lnk = s'.lnk :=
  ((fr_settle' Fr.refl : Fr 0 s' _).lnk).resolve_left (by decide)

@[simp] theorem settle_dram  : (s'.settle s).dram = s'.dram :=
  ((fr_settle' Fr.refl : Fr 0 s' _).dram).resolve_left (by decide)

@[simp] theorem settle_sram  : (s'.settle s).sram = s'.sram :=
  ((fr_settle' Fr.refl : Fr 0 s' _).sram).resolve_left (by decide)

@[simp] theorem settle_net  : (s'.settle s).net = s'.net :=
  ((fr_settle' Fr.refl : Fr 0 s' _).net).resolve_left (by decide)

@[simp] theorem settle_ptp  : (s'.settle s).ptp = s'.ptp :=
  ((fr_settle' Fr.refl : Fr 0 s' _).ptp).resolve_left (by decide)

@[simp] theorem settle_pwr  : (s'.settle s).pwr = s'.pwr :=
  ((fr_settle' Fr.refl : Fr 0 s' _).pwr).resolve_left (by decide)

@[simp] theorem settle_clk  : (s'.settle s).clk = s'.clk :=
  ((fr_settle' Fr.refl : Fr 0 s' _).clk).resolve_left (by decide)

@[simp] theorem settle_thm  : (s'.settle s).thm = s'.thm :=
  ((fr_settle' Fr.refl : Fr 0 s' _).thm).resolve_left (by decide)

@[simp] theorem settle_rings  : (s'.settle s).hst.rings = s'.hst.rings := by rw [(quiet_settle (s := s)).hst]

@[simp] theorem settle_mem_  : (s'.settle s).hst.mem = s'.hst.mem := by rw [(quiet_settle (s := s)).hst]

@[simp] theorem settle_width  : (s'.settle s).hst.width = s'.hst.width := by rw [(quiet_settle (s := s)).hst]

@[simp] theorem settle_bme  : (s'.settle s).hst.bme = s'.hst.bme := by rw [(quiet_settle (s := s)).hst]

@[simp] theorem settle_waits  : (s'.settle s).hst.waits = s'.hst.waits := by rw [(quiet_settle (s := s)).hst]

@[simp] theorem settle_lastMsg  : (s'.settle s).hst.lastMsg = s'.hst.lastMsg := by rw [(quiet_settle (s := s)).hst]

@[simp] theorem settle_poisoned  : (s'.settle s).hst.poisoned = s'.hst.poisoned := by rw [(quiet_settle (s := s)).hst]

@[simp] theorem settle_msixEnable  : (s'.settle s).hst.msixEnable = s'.hst.msixEnable := by rw [(quiet_settle (s := s)).hst]

@[simp] theorem settle_nextOrder  : (s'.settle s).hst.nextOrder = s'.hst.nextOrder := by rw [(quiet_settle (s := s)).hst]

@[simp] theorem settle_lastChan  : (s'.settle s).hst.lastChan = s'.hst.lastChan := by rw [(quiet_settle (s := s)).hst]

@[simp] theorem settle_ring  (r : Nat) : (s'.settle s).ring r = s'.ring r := by
  unfold State.ring
  rw [settle_rings]

@[simp] theorem raise_time (x : Src) : (s'.raise x).time = s'.time :=
  ((fr_raise Fr.refl : Fr 0 s' _).time).resolve_left (by decide)

@[simp] theorem raise_free (x : Src) : (s'.raise x).free = s'.free :=
  ((fr_raise Fr.refl : Fr 0 s' _).free).resolve_left (by decide)

@[simp] theorem raise_readData (x : Src) : (s'.raise x).readData = s'.readData :=
  ((fr_raise Fr.refl : Fr 0 s' _).readData).resolve_left (by decide)

@[simp] theorem raise_glb (x : Src) : (s'.raise x).glb = s'.glb :=
  ((fr_raise Fr.refl : Fr 0 s' _).glb).resolve_left (by decide)

@[simp] theorem raise_sets (x : Src) : (s'.raise x).sets = s'.sets :=
  ((fr_raise Fr.refl : Fr 0 s' _).sets).resolve_left (by decide)

@[simp] theorem raise_run (x : Src) : (s'.raise x).run = s'.run :=
  ((fr_raise Fr.refl : Fr 0 s' _).run).resolve_left (by decide)

@[simp] theorem raise_runEnded (x : Src) : (s'.raise x).runEnded = s'.runEnded :=
  ((fr_raise Fr.refl : Fr 0 s' _).runEnded).resolve_left (by decide)

@[simp] theorem raise_fig (x : Src) : (s'.raise x).fig = s'.fig :=
  ((fr_raise Fr.refl : Fr 0 s' _).fig).resolve_left (by decide)

@[simp] theorem raise_wvr (x : Src) : (s'.raise x).wvr = s'.wvr :=
  ((fr_raise Fr.refl : Fr 0 s' _).wvr).resolve_left (by decide)

@[simp] theorem raise_cor (x : Src) : (s'.raise x).cor = s'.cor :=
  ((fr_raise Fr.refl : Fr 0 s' _).cor).resolve_left (by decide)

@[simp] theorem raise_stg (x : Src) : (s'.raise x).stg = s'.stg :=
  ((fr_raise Fr.refl : Fr 0 s' _).stg).resolve_left (by decide)

@[simp] theorem raise_bmf (x : Src) : (s'.raise x).bmf = s'.bmf :=
  ((fr_raise Fr.refl : Fr 0 s' _).bmf).resolve_left (by decide)

@[simp] theorem raise_trk (x : Src) : (s'.raise x).trk = s'.trk :=
  ((fr_raise Fr.refl : Fr 0 s' _).trk).resolve_left (by decide)

@[simp] theorem raise_lnk (x : Src) : (s'.raise x).lnk = s'.lnk :=
  ((fr_raise Fr.refl : Fr 0 s' _).lnk).resolve_left (by decide)

@[simp] theorem raise_dram (x : Src) : (s'.raise x).dram = s'.dram :=
  ((fr_raise Fr.refl : Fr 0 s' _).dram).resolve_left (by decide)

@[simp] theorem raise_sram (x : Src) : (s'.raise x).sram = s'.sram :=
  ((fr_raise Fr.refl : Fr 0 s' _).sram).resolve_left (by decide)

@[simp] theorem raise_net (x : Src) : (s'.raise x).net = s'.net :=
  ((fr_raise Fr.refl : Fr 0 s' _).net).resolve_left (by decide)

@[simp] theorem raise_ptp (x : Src) : (s'.raise x).ptp = s'.ptp :=
  ((fr_raise Fr.refl : Fr 0 s' _).ptp).resolve_left (by decide)

@[simp] theorem raise_pwr (x : Src) : (s'.raise x).pwr = s'.pwr :=
  ((fr_raise Fr.refl : Fr 0 s' _).pwr).resolve_left (by decide)

@[simp] theorem raise_clk (x : Src) : (s'.raise x).clk = s'.clk :=
  ((fr_raise Fr.refl : Fr 0 s' _).clk).resolve_left (by decide)

@[simp] theorem raise_thm (x : Src) : (s'.raise x).thm = s'.thm :=
  ((fr_raise Fr.refl : Fr 0 s' _).thm).resolve_left (by decide)

@[simp] theorem raise_rings (x : Src) : (s'.raise x).hst.rings = s'.hst.rings := by rw [(quiet_raise (x := x)).hst]

@[simp] theorem raise_mem_ (x : Src) : (s'.raise x).hst.mem = s'.hst.mem := by rw [(quiet_raise (x := x)).hst]

@[simp] theorem raise_width (x : Src) : (s'.raise x).hst.width = s'.hst.width := by rw [(quiet_raise (x := x)).hst]

@[simp] theorem raise_bme (x : Src) : (s'.raise x).hst.bme = s'.hst.bme := by rw [(quiet_raise (x := x)).hst]

@[simp] theorem raise_waits (x : Src) : (s'.raise x).hst.waits = s'.hst.waits := by rw [(quiet_raise (x := x)).hst]

@[simp] theorem raise_lastMsg (x : Src) : (s'.raise x).hst.lastMsg = s'.hst.lastMsg := by rw [(quiet_raise (x := x)).hst]

@[simp] theorem raise_poisoned (x : Src) : (s'.raise x).hst.poisoned = s'.hst.poisoned := by rw [(quiet_raise (x := x)).hst]

@[simp] theorem raise_msixEnable (x : Src) : (s'.raise x).hst.msixEnable = s'.hst.msixEnable := by rw [(quiet_raise (x := x)).hst]

@[simp] theorem raise_nextOrder (x : Src) : (s'.raise x).hst.nextOrder = s'.hst.nextOrder := by rw [(quiet_raise (x := x)).hst]

@[simp] theorem raise_lastChan (x : Src) : (s'.raise x).hst.lastChan = s'.hst.lastChan := by rw [(quiet_raise (x := x)).hst]

@[simp] theorem raise_ring (x : Src) (r : Nat) : (s'.raise x).ring r = s'.ring r := by
  unfold State.ring
  rw [raise_rings]

@[simp] theorem trigger_time (c d : Nat) : (s'.trigger c d).time = s'.time :=
  ((fr_trigger Fr.refl : Fr 0 s' _).time).resolve_left (by decide)

@[simp] theorem trigger_free (c d : Nat) : (s'.trigger c d).free = s'.free :=
  ((fr_trigger Fr.refl : Fr 0 s' _).free).resolve_left (by decide)

@[simp] theorem trigger_readData (c d : Nat) : (s'.trigger c d).readData = s'.readData :=
  ((fr_trigger Fr.refl : Fr 0 s' _).readData).resolve_left (by decide)

@[simp] theorem trigger_glb (c d : Nat) : (s'.trigger c d).glb = s'.glb :=
  ((fr_trigger Fr.refl : Fr 0 s' _).glb).resolve_left (by decide)

@[simp] theorem trigger_sets (c d : Nat) : (s'.trigger c d).sets = s'.sets :=
  ((fr_trigger Fr.refl : Fr 0 s' _).sets).resolve_left (by decide)

@[simp] theorem trigger_run (c d : Nat) : (s'.trigger c d).run = s'.run :=
  ((fr_trigger Fr.refl : Fr 0 s' _).run).resolve_left (by decide)

@[simp] theorem trigger_runEnded (c d : Nat) : (s'.trigger c d).runEnded = s'.runEnded :=
  ((fr_trigger Fr.refl : Fr 0 s' _).runEnded).resolve_left (by decide)

@[simp] theorem trigger_fig (c d : Nat) : (s'.trigger c d).fig = s'.fig :=
  ((fr_trigger Fr.refl : Fr 0 s' _).fig).resolve_left (by decide)

@[simp] theorem trigger_wvr (c d : Nat) : (s'.trigger c d).wvr = s'.wvr :=
  ((fr_trigger Fr.refl : Fr 0 s' _).wvr).resolve_left (by decide)

@[simp] theorem trigger_cor (c d : Nat) : (s'.trigger c d).cor = s'.cor :=
  ((fr_trigger Fr.refl : Fr 0 s' _).cor).resolve_left (by decide)

@[simp] theorem trigger_stg (c d : Nat) : (s'.trigger c d).stg = s'.stg :=
  ((fr_trigger Fr.refl : Fr 0 s' _).stg).resolve_left (by decide)

@[simp] theorem trigger_bmf (c d : Nat) : (s'.trigger c d).bmf = s'.bmf :=
  ((fr_trigger Fr.refl : Fr 0 s' _).bmf).resolve_left (by decide)

@[simp] theorem trigger_trk (c d : Nat) : (s'.trigger c d).trk = s'.trk :=
  ((fr_trigger Fr.refl : Fr 0 s' _).trk).resolve_left (by decide)

@[simp] theorem trigger_lnk (c d : Nat) : (s'.trigger c d).lnk = s'.lnk :=
  ((fr_trigger Fr.refl : Fr 0 s' _).lnk).resolve_left (by decide)

@[simp] theorem trigger_dram (c d : Nat) : (s'.trigger c d).dram = s'.dram :=
  ((fr_trigger Fr.refl : Fr 0 s' _).dram).resolve_left (by decide)

@[simp] theorem trigger_sram (c d : Nat) : (s'.trigger c d).sram = s'.sram :=
  ((fr_trigger Fr.refl : Fr 0 s' _).sram).resolve_left (by decide)

@[simp] theorem trigger_net (c d : Nat) : (s'.trigger c d).net = s'.net :=
  ((fr_trigger Fr.refl : Fr 0 s' _).net).resolve_left (by decide)

@[simp] theorem trigger_ptp (c d : Nat) : (s'.trigger c d).ptp = s'.ptp :=
  ((fr_trigger Fr.refl : Fr 0 s' _).ptp).resolve_left (by decide)

@[simp] theorem trigger_pwr (c d : Nat) : (s'.trigger c d).pwr = s'.pwr :=
  ((fr_trigger Fr.refl : Fr 0 s' _).pwr).resolve_left (by decide)

@[simp] theorem trigger_clk (c d : Nat) : (s'.trigger c d).clk = s'.clk :=
  ((fr_trigger Fr.refl : Fr 0 s' _).clk).resolve_left (by decide)

@[simp] theorem trigger_thm (c d : Nat) : (s'.trigger c d).thm = s'.thm :=
  ((fr_trigger Fr.refl : Fr 0 s' _).thm).resolve_left (by decide)

@[simp] theorem trigger_rings (c d : Nat) : (s'.trigger c d).hst.rings = s'.hst.rings := by rw [(quiet_trigger (code := c) (detail := d)).hst]

@[simp] theorem trigger_mem_ (c d : Nat) : (s'.trigger c d).hst.mem = s'.hst.mem := by rw [(quiet_trigger (code := c) (detail := d)).hst]

@[simp] theorem trigger_width (c d : Nat) : (s'.trigger c d).hst.width = s'.hst.width := by rw [(quiet_trigger (code := c) (detail := d)).hst]

@[simp] theorem trigger_bme (c d : Nat) : (s'.trigger c d).hst.bme = s'.hst.bme := by rw [(quiet_trigger (code := c) (detail := d)).hst]

@[simp] theorem trigger_waits (c d : Nat) : (s'.trigger c d).hst.waits = s'.hst.waits := by rw [(quiet_trigger (code := c) (detail := d)).hst]

@[simp] theorem trigger_lastMsg (c d : Nat) : (s'.trigger c d).hst.lastMsg = s'.hst.lastMsg := by rw [(quiet_trigger (code := c) (detail := d)).hst]

@[simp] theorem trigger_poisoned (c d : Nat) : (s'.trigger c d).hst.poisoned = s'.hst.poisoned := by rw [(quiet_trigger (code := c) (detail := d)).hst]

@[simp] theorem trigger_msixEnable (c d : Nat) : (s'.trigger c d).hst.msixEnable = s'.hst.msixEnable := by rw [(quiet_trigger (code := c) (detail := d)).hst]

@[simp] theorem trigger_nextOrder (c d : Nat) : (s'.trigger c d).hst.nextOrder = s'.hst.nextOrder := by rw [(quiet_trigger (code := c) (detail := d)).hst]

@[simp] theorem trigger_lastChan (c d : Nat) : (s'.trigger c d).hst.lastChan = s'.hst.lastChan := by rw [(quiet_trigger (code := c) (detail := d)).hst]

@[simp] theorem trigger_ring (c d : Nat) (r : Nat) : (s'.trigger c d).ring r = s'.ring r := by
  unfold State.ring
  rw [trigger_rings]

theorem settle_reg (h : s'.regsWf = true) {off : Nat} (ho : off ∉ irqRegs) : (s'.settle s).reg off = s'.reg off :=
  quiet_settle.reg h off ho

/-- A command that ends in `finish` answers a next state. -/
theorem finish_eq : finish s s' = .next (s'.settle s) := rfl

end Sys2Proof.Laws
end

