-- ==== Sys2Proof/Laws/Answer.lean ====
section
/-! SUPPORT. What answering a command does (R258, R264): the record stands in the entry, the ring holds no entry in progress, and
every block is as it was. -/

namespace Sys2Proof.Laws

open Sys2Proof.Machine

variable {s : State}

theorem ringsWf_of_rings {t : State} (h : s.ringsWf = true) (e : t.hst.rings = s.hst.rings) : t.ringsWf = true := by
  unfold State.ringsWf
  rw [e]
  exact h

theorem ring_of_rings {t : State} (e : t.hst.rings = s.hst.rings) (r : Nat) : t.ring r = s.ring r := by
  unfold State.ring
  rw [e]

theorem rings_setField (s : State) (off hi lo v : Nat) : (s.setField off hi lo v).hst.rings = s.hst.rings := rfl

/-- A ring passed by the head has no entry in progress, also after a reset that waited. -/
theorem cur_advanceHead (h : s.ringsWf = true) (r : Nat) : ((s.advanceHead r).ring r).cur = none := by
  unfold State.advanceHead State.doReset
  extract_lets x hd s1 s2
  have hw : s1.ringsWf = true := ringsWf_setRing s h r _
  have e1 : (s1.ring r).cur = none := by
    show ((s.setRing r _).ring r).cur = none
    rw [ring_setRing s h, if_pos rfl]
  have hw2 : s2.ringsWf = true := hw
  have e2 : (s2.ring r).cur = none := e1
  split
  · rw [ring_setRing s2 hw2, if_pos rfl]
    exact e2
  · exact e2

theorem ringsWf_advanceHead (h : s.ringsWf = true) (r : Nat) : (s.advanceHead r).ringsWf = true := by
  unfold State.advanceHead State.doReset
  extract_lets x hd s1 s2
  have hw : s2.ringsWf = true := ringsWf_setRing s h r _
  split
  · exact ringsWf_setRing _ hw r _
  · exact hw

theorem ring_advanceHead_ne (h : s.ringsWf = true) {r q : Nat} (hq : q ≠ r) : (s.advanceHead r).ring q = s.ring q := by
  unfold State.advanceHead State.doReset
  extract_lets x hd s1 s2
  have hw : s2.ringsWf = true := ringsWf_setRing s h r _
  have e2 : s2.ring q = s.ring q := by
    show (s.setRing r _).ring q = s.ring q
    rw [ring_setRing s h, if_neg hq]
  split
  · rw [ring_setRing s2 hw, if_neg hq]
    exact e2
  · exact e2

/-- Writing a completion leaves the ring without an entry in progress (R258). -/
theorem cur_writeCompletion (h : s.ringsWf = true) {r st d res : Nat} {e : CurEntry} (hc : (s.ring r).cur = some e) :
    ((s.writeCompletion r st d res).ring r).cur = none ∧ (s.writeCompletion r st d res).ringsWf = true := by
  unfold State.writeCompletion
  split
  · rename_i hn
    rw [hn] at hc
    cases hc
  rename_i e _
  extract_lets s1 s2 s3 s4 s5
  have w1 : s1.ringsWf = true := h
  have w2 : s2.ringsWf = true := by
    refine ringsWf_of_rings w1 ?_
    show (if _ then _ else _ : State).hst.rings = _
    split <;> rfl
  have w3 : s3.ringsWf = true := ringsWf_advanceHead w2 r
  have c3 : (s3.ring r).cur = none := cur_advanceHead w2 r
  have e4 : s4.hst.rings = s3.hst.rings := by
    show (if _ then _ else _ : State).hst.rings = _
    split <;> rfl
  have e5 : s5.hst.rings = s4.hst.rings := by
    show (if _ then _ else _ : State).hst.rings = _
    split
    · exact raise_rings ..
    · rfl
  have w5 : s5.ringsWf = true := ringsWf_of_rings w3 (e5.trans e4)
  have c5 : (s5.ring r).cur = none := by rw [ring_of_rings (e5.trans e4)]; exact c3
  split
  · unfold State.haltRing
    refine ⟨?_, ringsWf_of_rings (ringsWf_setRing s5 w5 r _) (raise_rings ..)⟩
    rw [raise_ring, ring_setRing s5 w5, if_pos rfl]
    exact c5
  · exact ⟨c5, w5⟩

theorem ring_writeCompletion_ne (h : s.ringsWf = true) {r q st d res : Nat} (hq : q ≠ r) :
    (s.writeCompletion r st d res).ring q = s.ring q := by
  unfold State.writeCompletion
  split
  · rfl
  · extract_lets s1 s2 s3 s4 s5
    have w2 : s2.ringsWf = true := by
      refine ringsWf_of_rings (s := s1) h ?_
      show (if _ then _ else _ : State).hst.rings = _
      split <;> rfl
    have e2 : s2.hst.rings = s.hst.rings := by
      show (if _ then _ else _ : State).hst.rings = _
      split <;> rfl
    have w3 : s3.ringsWf = true := ringsWf_advanceHead w2 r
    have e3 : s3.ring q = s.ring q := (ring_advanceHead_ne w2 hq).trans (ring_of_rings e2 q)
    have e4 : s4.hst.rings = s3.hst.rings := by
      show (if _ then _ else _ : State).hst.rings = _
      split <;> rfl
    have e5 : s5.hst.rings = s4.hst.rings := by
      show (if _ then _ else _ : State).hst.rings = _
      split
      · exact raise_rings ..
      · rfl
    have c5 : s5.ring q = s.ring q := (ring_of_rings (e5.trans e4) q).trans e3
    split
    · unfold State.haltRing
      rw [raise_ring, ring_setRing s5 (ringsWf_of_rings w3 (e5.trans e4)), if_neg hq]
      exact c5
    · exact c5

theorem otherRing_ne {r : Nat} (h : isCmdRing r = true) : r ≠ otherRing r := by
  unfold isCmdRing at h
  unfold otherRing
  simp at h
  split <;> omega

theorem ring_rejectMalformed_ne (h : s.ringsWf = true) {r q : Nat} (hq : q ≠ r) : (s.rejectMalformed r).ring q = s.ring q := by
  unfold State.rejectMalformed
  split
  · rfl
  · split
    · rfl
    · split
      · rfl
      · unfold State.completeRing
        split
        · exact ring_writeCompletion_ne h hq
        · split
          · rfl
          · rw [ring_setRing s h, if_neg hq]

/-- A command that is answered while the link takes requests has its completion written: its ring holds no entry in progress. -/
theorem cur_answer (h : s.ringsWf = true) {r st d res : Nat} {e : CurEntry} (hr : isCmdRing r = true)
    (hl : s.linkReady = true) (hc : (s.ring r).cur = some e) : ((s.answer r st d res).ring r).cur = none := by
  unfold State.answer State.completeCmd State.completeRing
  simp only [hr, hl, if_true]
  obtain ⟨c, w⟩ := cur_writeCompletion h (st := st) (d := d) (res := res) hc
  rw [ring_rejectMalformed_ne w (otherRing_ne hr)]
  exact c

/-- A command that is at the front of its ring and ready to start (R260, R263). -/
theorem command_spec {r op : Nat} {sel : Option (Nat × Nat)} {e : CurEntry} (h : s.command? r op sel = some e) :
    isCmdRing r = true ∧ (s.ring r).cur = some e ∧ s.linkReady = true ∧ s.waitOf r = none := by
  unfold State.command? at h
  split at h
  · cases h
  · rename_i h1
    simp only [Bool.or_eq_true, Bool.not_eq_true', not_or, Bool.not_eq_false, Bool.not_eq_true,
      Option.isSome_eq_false_iff, Option.isNone_iff_eq_none] at h1
    split at h
    · cases h
    · rename_i hc
      rw [Option.ite_none_right_eq_some] at h
      obtain ⟨⟨-, -, -, hl, -⟩, he⟩ := h
      cases he
      exact ⟨h1.1, hc, hl, h1.2⟩

/-- The common checks of a command pass (R263, R265, R403). -/
theorem checked_run {r : Nat} {e : CurEntry} {legal bound : List Mode} {exclusive : Bool} {f : State → State}
    (hc : headClean e = true) (hm : s.glb.mode ∈ legal) (hb : ¬(s.glb.mode ∈ bound ∧ s.run.isSome = true))
    (hx : s.exclusiveBusy r = false) : s.checked r e none legal exclusive f bound none = f s := by
  unfold State.checked
  simp [hc, hm, hx, hb]

@[simp] theorem command_at (t r op : Nat) (sel : Option (Nat × Nat)) : (s.at_ t).command? r op sel = s.command? r op sel := rfl

@[simp] theorem exclusiveBusy_at (t r : Nat) : (s.at_ t).exclusiveBusy r = s.exclusiveBusy r := rfl

/-- A write that passes every check, and changes no frozen field, is carried out (R357, R358). -/
theorem guard_ok {off be v m : Nat} {f : State → Nat → State} (h : s.writeVerdict off be v = .ok m false) :
    s.guardWrite off be v f = f s m := by
  unfold State.guardWrite
  rw [h]
  rfl

theorem command_ok {off v m : Nat} {f : State → State} (h : s.writeVerdict off 15 v = .ok m false) :
    s.command off v f = f s := guard_ok h

end Sys2Proof.Laws
end

