-- ==== Sys2Proof/Laws/FramePath.lean ====
section
/-! SUPPORT. What the decoder, the weavers, the correction and the staging leave as it was: one lemma for each operation and each command (see Frame). -/

namespace Sys2Proof.Laws

open Sys2Proof.Machine

/-! Figure. -/

theorem fr_freeRing {W : Nat} {s0 : State} {s : State} (hw : 256 ||| W = W) (hs : Fr W s0 s) :
    Fr W s0 (State.freeRing s) := by
  unfold State.freeRing
  repeat' first
    | (extract_lets +onlyGivenNames z; clear_value z; revert z; intro _)
    | ((with_reducible apply Fr.of); rotate_left 23; (with_reducible exact Or.inr rfl); rotate_left 3; with_reducible assumption; (iterate 25 (first | with_reducible exact Or.inr rfl | with_reducible exact Or.inr ⟨rfl, rfl⟩ | exact Or.inl (Fr.bit hw rfl))))

theorem fr_setTile {W : Nat} {s0 : State} {s : State} {id : TileId} {t : Tile} (hw : 256 ||| W = W) (hs : Fr W s0 s) :
    Fr W s0 (State.setTile s id t) := by
  unfold State.setTile
  repeat' first
    | (extract_lets +onlyGivenNames z; clear_value z; revert z; intro _)
    | ((with_reducible apply Fr.of); rotate_left 23; (with_reducible exact Or.inr rfl); rotate_left 3; with_reducible assumption; (iterate 25 (first | with_reducible exact Or.inr rfl | with_reducible exact Or.inr ⟨rfl, rfl⟩ | exact Or.inl (Fr.bit hw rfl))))

theorem fr_rowDone {W : Nat} {s0 : State} {s : State} {c : RowCtx} (hw : 256 ||| W = W) (hs : Fr W s0 s) :
    Fr W s0 (State.rowDone s c) := by
  unfold State.rowDone
  repeat' first
    | (extract_lets +onlyGivenNames z; clear_value z; revert z; intro _)
    | ((with_reducible apply Fr.of); rotate_left 23; (with_reducible exact Or.inr rfl); rotate_left 3; with_reducible assumption; (iterate 25 (first | with_reducible exact Or.inr rfl | with_reducible exact Or.inr ⟨rfl, rfl⟩ | exact Or.inl (Fr.bit hw rfl))))

theorem fr_stallAt {W : Nat} {s0 : State} {s : State} {id : TileId} (hw : 256 ||| W = W) (hs : Fr W s0 s) :
    Fr W s0 (State.stallAt s id) := by
  unfold State.stallAt
  repeat' first
    | intro _
    | with_reducible assumption
    | (extract_lets +onlyGivenNames z; guard_hyp z : State := _; refine Fr.cut (x := z) ?_ (fun _ => ?_); rotate_left; clear_value z; revert z; intro _ _; rotate_left; unfold z; clear z)
    | (extract_lets +onlyGivenNames z; clear_value z; revert z; intro _)
    | with_reducible refine fr_setReg ?_
    | with_reducible apply Fr.ite
    | ((with_reducible apply Fr.of); rotate_left 23; (with_reducible exact Or.inr rfl); rotate_left 3; with_reducible assumption; (iterate 25 (first | with_reducible exact Or.inr rfl | with_reducible exact Or.inr ⟨rfl, rfl⟩ | exact Or.inl (Fr.bit hw rfl))))

theorem fr_figStale {W : Nat} {s0 : State} {s : State} (hs : Fr W s0 s) :
    Fr W s0 (State.figStale s) := by
  unfold State.figStale
  repeat' first
    | with_reducible assumption
    | with_reducible refine fr_bump ?_

theorem fr_figLog {W : Nat} {s0 : State} {s : State} {e : LogWords} (hw : 256 ||| W = W) (hs : Fr W s0 s) :
    Fr W s0 (State.figLog s e) := by
  unfold State.figLog
  repeat' first
    | intro _
    | with_reducible assumption
    | (extract_lets +onlyGivenNames z; clear_value z; revert z; intro _)
    | with_reducible refine fr_bump ?_
    | with_reducible apply Fr.ite
    | ((with_reducible apply Fr.of); rotate_left 23; (with_reducible exact Or.inr rfl); rotate_left 3; with_reducible assumption; (iterate 25 (first | with_reducible exact Or.inr rfl | with_reducible exact Or.inr ⟨rfl, rfl⟩ | exact Or.inl (Fr.bit hw rfl))))

theorem fr_takeStripe {W : Nat} {s0 : State} {s : State} {h : KfsHeader} {b : List Sys2Proof.Byte} (hw : 256 ||| W = W) (hs : Fr W s0 s) :
    Fr W s0 (State.takeStripe s h b) := by
  unfold State.takeStripe
  repeat' first
    | intro _
    | (extract_lets +onlyGivenNames z; clear_value z; revert z; intro _)
    | with_reducible refine fr_figStale ?_
    | with_reducible apply Fr.ite
    | ((with_reducible apply Fr.of); rotate_left 23; (with_reducible exact Or.inr rfl); rotate_left 3; with_reducible assumption; (iterate 25 (first | with_reducible exact Or.inr rfl | with_reducible exact Or.inr ⟨rfl, rfl⟩ | exact Or.inl (Fr.bit hw rfl))))

theorem fr_takeRow {W : Nat} {s0 : State} {s : State} {h : KfsHeader} {off : Nat} {b : List Sys2Proof.Byte} (hw : 256 ||| W = W) (hs : Fr W s0 s) :
    Fr W s0 (State.takeRow s h off b) := by
  unfold State.takeRow
  repeat' first
    | intro _
    | with_reducible assumption
    | (extract_lets +onlyGivenNames z; guard_hyp z : State := _; refine Fr.cut (x := z) ?_ (fun _ => ?_); rotate_left; clear_value z; revert z; intro _ _; rotate_left; unfold z; clear z)
    | (extract_lets +onlyGivenNames z; clear_value z; revert z; intro _)
    | with_reducible refine fr_figStale ?_
    | with_reducible refine fr_setTile hw ?_
    | with_reducible refine fr_rowDone hw ?_
    | with_reducible apply Fr.ite
    | with_reducible apply Fr.foldl
    | ((with_reducible apply Fr.of); rotate_left 23; (with_reducible exact Or.inr rfl); rotate_left 3; with_reducible assumption; (iterate 25 (first | with_reducible exact Or.inr rfl | with_reducible exact Or.inr ⟨rfl, rfl⟩ | exact Or.inl (Fr.bit hw rfl))))

theorem fr_takeStruct {W : Nat} {s0 : State} {s : State} {h : KfsHeader} {off : Nat} {b : List Sys2Proof.Byte} (hw : 256 ||| W = W) (hs : Fr W s0 s) :
    Fr W s0 (State.takeStruct s h off b) := by
  unfold State.takeStruct
  repeat' first
    | with_reducible assumption
    | (extract_lets +onlyGivenNames z; guard_hyp z : State := _; refine Fr.cut (x := z) ?_ (fun _ => ?_); rotate_left; clear_value z; revert z; intro _ _; rotate_left; unfold z; clear z)
    | (extract_lets +onlyGivenNames z; clear_value z; revert z; intro _)
    | with_reducible refine fr_takeStripe hw ?_
    | with_reducible refine fr_takeRow hw ?_
    | ((with_reducible apply Fr.of); rotate_left 23; (with_reducible exact Or.inr rfl); rotate_left 3; with_reducible assumption; (iterate 25 (first | with_reducible exact Or.inr rfl | with_reducible exact Or.inr ⟨rfl, rfl⟩ | exact Or.inl (Fr.bit hw rfl))))
    | split

theorem fr_figLogReject {W : Nat} {s0 : State} {s : State} {h : KfsHeader} {off : Nat} {r : FigReason} {unw : Bool} {halt : Bool} (hw : 256 ||| W = W) (hs : Fr W s0 s) :
    Fr W s0 (State.figLogReject s h off r unw halt) := by
  unfold State.figLogReject
  repeat' first
    | intro _
    | with_reducible assumption
    | (extract_lets +onlyGivenNames z; guard_hyp z : State := _; refine Fr.cut (x := z) ?_ (fun _ => ?_); rotate_left; clear_value z; revert z; intro _ _; rotate_left; unfold z; clear z)
    | with_reducible refine fr_figLog hw ?_
    | with_reducible refine fr_bump ?_
    | with_reducible refine fr_raise ?_
    | with_reducible apply Fr.ite

theorem fr_figUnwritable {W : Nat} {s0 : State} {s : State} {id : TileId} {h : KfsHeader} {off : Nat} {r : FigReason} (hw : 256 ||| W = W) (hs : Fr W s0 s) :
    Fr W s0 (State.figUnwritable s id h off r) := by
  unfold State.figUnwritable
  repeat' first
    | with_reducible assumption
    | with_reducible refine fr_setTile hw ?_
    | with_reducible refine fr_figLogReject hw ?_

theorem fr_figHalt {W : Nat} {s0 : State} {s : State} {h : KfsHeader} {off : Nat} {r : FigReason} (hw : 256 ||| W = W) (hs : Fr W s0 s) :
    Fr W s0 (State.figHalt s h off r) := by
  unfold State.figHalt
  repeat' first
    | with_reducible assumption
    | (extract_lets +onlyGivenNames z; guard_hyp z : State := _; refine Fr.cut (x := z) ?_ (fun _ => ?_); rotate_left; clear_value z; revert z; intro _ _; rotate_left; unfold z; clear z)
    | (extract_lets +onlyGivenNames z; clear_value z; revert z; intro _)
    | with_reducible refine fr_figLogReject hw ?_
    | with_reducible refine fr_freeRing hw ?_
    | ((with_reducible apply Fr.of); rotate_left 23; (with_reducible exact Or.inr rfl); rotate_left 3; with_reducible assumption; (iterate 25 (first | with_reducible exact Or.inr rfl | with_reducible exact Or.inr ⟨rfl, rfl⟩ | exact Or.inl (Fr.bit hw rfl))))

theorem fr_execFigErrlogPop {W : Nat} {s0 : State} {v : Sys2Proof.Word} {s : State} (hw : 256 ||| W = W) (hs : Fr W s0 s) :
    FrO W s0 (execFigErrlogPop v s) := by
  unfold execFigErrlogPop
  repeat' first
    | intro _
    | with_reducible assumption
    | (extract_lets +onlyGivenNames z; clear_value z; revert z; intro _)
    | with_reducible refine fr_finish ?_ ?_
    | with_reducible refine fr_command ?_ ?_
    | with_reducible apply Fr.ite
    | ((with_reducible apply Fr.of); rotate_left 23; (with_reducible exact Or.inr rfl); rotate_left 3; with_reducible assumption; (iterate 25 (first | with_reducible exact Or.inr rfl | with_reducible exact Or.inr ⟨rfl, rfl⟩ | exact Or.inl (Fr.bit hw rfl))))

theorem fr_refetchTile {W : Nat} {s0 : State} {s : State} {id : TileId} (hw : 256 ||| W = W) (hs : Fr W s0 s) :
    Fr W s0 (State.refetchTile s id) := by
  unfold State.refetchTile
  repeat' first
    | intro _
    | with_reducible assumption
    | (extract_lets +onlyGivenNames z; guard_hyp z : State := _; refine Fr.cut (x := z) ?_ (fun _ => ?_); rotate_left; clear_value z; revert z; intro _ _; rotate_left; unfold z; clear z)
    | (extract_lets +onlyGivenNames z; clear_value z; revert z; intro _)
    | with_reducible refine fr_figUnwritable hw ?_
    | with_reducible refine fr_raise ?_
    | with_reducible apply Fr.ite
    | ((with_reducible apply Fr.of); rotate_left 23; (with_reducible exact Or.inr rfl); rotate_left 3; with_reducible assumption; (iterate 25 (first | with_reducible exact Or.inr rfl | with_reducible exact Or.inr ⟨rfl, rfl⟩ | exact Or.inl (Fr.bit hw rfl))))
    | split

theorem fr_figTouch {W : Nat} {s0 : State} {s : State} {off : Nat} {n : Nat} (hw : 98304 ||| W = W) (hs : Fr W s0 s) :
    Fr W s0 (State.figTouch s off n) := by
  unfold State.figTouch
  repeat' first
    | intro _
    | with_reducible assumption
    | with_reducible refine fr_touch hw ?_
    | with_reducible apply Fr.foldl

theorem fr_verifyStruct {W : Nat} {s0 : State} {s : State} (hw : 98560 ||| W = W) (hs : Fr W s0 s) :
    Fr W s0 (State.verifyStruct s) := by
  unfold State.verifyStruct
  repeat' first
    | intro _
    | with_reducible assumption
    | (extract_lets +onlyGivenNames z; guard_hyp z : State := _; refine Fr.cut (x := z) ?_ (fun _ => ?_); rotate_left; clear_value z; revert z; intro _ _; rotate_left; unfold z; clear z)
    | (extract_lets +onlyGivenNames z; clear_value z; revert z; intro _)
    | with_reducible refine fr_figHalt (Fr.sub (V := 98560) rfl hw) ?_
    | with_reducible refine fr_figTouch (Fr.sub (V := 98560) rfl hw) ?_
    | with_reducible refine fr_freeRing (Fr.sub (V := 98560) rfl hw) ?_
    | with_reducible refine fr_takeStruct (Fr.sub (V := 98560) rfl hw) ?_
    | with_reducible apply Fr.ite
    | split

theorem fr_takeBin {W : Nat} {s0 : State} {s : State} {c : RowCtx} {col : Int} {blen : Nat} {rest : List (Int × Nat)} (hw : 98560 ||| W = W) (hs : Fr W s0 s) :
    Fr W s0 (State.takeBin s c col blen rest) := by
  unfold State.takeBin
  repeat' first
    | intro _
    | with_reducible assumption
    | (extract_lets +onlyGivenNames z; guard_hyp z : State := _; refine Fr.cut (x := z) ?_ (fun _ => ?_); rotate_left; clear_value z; revert z; intro _ _; rotate_left; unfold z; clear z)
    | (extract_lets +onlyGivenNames z; clear_value z; revert z; intro _)
    | with_reducible refine fr_figTouch (Fr.sub (V := 98560) rfl hw) ?_
    | with_reducible refine fr_figUnwritable (Fr.sub (V := 98560) rfl hw) ?_
    | with_reducible refine fr_figLogReject (Fr.sub (V := 98560) rfl hw) ?_
    | with_reducible refine fr_setTile (Fr.sub (V := 98560) rfl hw) ?_
    | with_reducible refine fr_figStale ?_
    | with_reducible refine fr_freeRing (Fr.sub (V := 98560) rfl hw) ?_
    | with_reducible refine fr_rowDone (Fr.sub (V := 98560) rfl hw) ?_
    | with_reducible apply Fr.ite
    | ((with_reducible apply Fr.of); rotate_left 23; (with_reducible exact Or.inr rfl); rotate_left 3; with_reducible assumption; (iterate 25 (first | with_reducible exact Or.inr rfl | with_reducible exact Or.inr ⟨rfl, rfl⟩ | exact Or.inl (Fr.bit hw rfl))))
    | split

theorem fr_verifyAs {W : Nat} {s0 : State} {s : State} {ty : Nat} (hw : 98560 ||| W = W) (hs : Fr W s0 s) :
    Fr W s0 (State.verifyAs s ty) := by
  unfold State.verifyAs
  repeat' first
    | intro _
    | with_reducible assumption
    | (extract_lets +onlyGivenNames z; clear_value z; revert z; intro _)
    | with_reducible refine fr_verifyStruct hw ?_
    | with_reducible apply Fr.ite

theorem fr_verifyBin {W : Nat} {s0 : State} {s : State} (hw : 98560 ||| W = W) (hs : Fr W s0 s) :
    Fr W s0 (State.verifyBin s) := by
  unfold State.verifyBin
  repeat' first
    | intro _
    | with_reducible assumption
    | with_reducible refine fr_verifyStruct hw ?_
    | with_reducible refine fr_rowDone (Fr.sub (V := 98560) rfl hw) ?_
    | with_reducible refine fr_takeBin hw ?_
    | with_reducible apply Fr.ite
    | split

theorem fr_execVerifyTileRow {W : Nat} {s0 : State} {s : State} (hw : 98560 ||| W = W) (hs : Fr W s0 s) :
    FrO W s0 (execVerifyTileRow s) := by
  unfold execVerifyTileRow
  repeat' first
    | with_reducible assumption
    | with_reducible refine fr_finish ?_ ?_
    | with_reducible refine fr_verifyAs hw ?_

theorem fr_execVerifyClassTable {W : Nat} {s0 : State} {s : State} (hw : 98560 ||| W = W) (hs : Fr W s0 s) :
    FrO W s0 (execVerifyClassTable s) := by
  unfold execVerifyClassTable
  repeat' first
    | with_reducible assumption
    | with_reducible refine fr_finish ?_ ?_
    | with_reducible refine fr_verifyAs hw ?_

theorem fr_execVerifyJobHeader {W : Nat} {s0 : State} {s : State} (hw : 98560 ||| W = W) (hs : Fr W s0 s) :
    FrO W s0 (execVerifyJobHeader s) := by
  unfold execVerifyJobHeader
  repeat' first
    | with_reducible assumption
    | with_reducible refine fr_finish ?_ ?_
    | with_reducible refine fr_verifyAs hw ?_

theorem fr_execVerifyStripe {W : Nat} {s0 : State} {s : State} (hw : 98560 ||| W = W) (hs : Fr W s0 s) :
    FrO W s0 (execVerifyStripe s) := by
  unfold execVerifyStripe
  repeat' first
    | with_reducible assumption
    | with_reducible refine fr_finish ?_ ?_
    | with_reducible refine fr_verifyAs hw ?_

theorem fr_execVerifyJobEnd {W : Nat} {s0 : State} {s : State} (hw : 98560 ||| W = W) (hs : Fr W s0 s) :
    FrO W s0 (execVerifyJobEnd s) := by
  unfold execVerifyJobEnd
  repeat' first
    | with_reducible assumption
    | with_reducible refine fr_finish ?_ ?_
    | with_reducible refine fr_verifyAs hw ?_

theorem fr_execVerifyTileBin {W : Nat} {s0 : State} {s : State} (hw : 98560 ||| W = W) (hs : Fr W s0 s) :
    FrO W s0 (execVerifyTileBin s) := by
  unfold execVerifyTileBin
  repeat' first
    | with_reducible assumption
    | with_reducible refine fr_finish ?_ ?_
    | with_reducible refine fr_verifyBin hw ?_

/-! Works. -/

theorem fr_newWork_eq {W : Nat} {s0 : State} {s : State} {r : StripeRec} {wStart : Nat} (hw : 1024 ||| W = W) (hs : Fr W s0 s) {s' : State} {x'} (e' : State.newWork s r wStart = (s', x')) :
    Fr W s0 s' := by
  unfold State.newWork at e'
  repeat' first
    | (extract_lets +onlyGivenNames z at e'; clear_value z; revert z; intro _ e')
    | ((with_reducible refine Fr.of_pair ?_ e'); clear e')
    | ((with_reducible apply Fr.of); rotate_left 23; (with_reducible exact Or.inr rfl); rotate_left 3; with_reducible assumption; (iterate 25 (first | with_reducible exact Or.inr rfl | with_reducible exact Or.inr ⟨rfl, rfl⟩ | exact Or.inl (Fr.bit hw rfl))))

theorem fr_newWork {W : Nat} {s0 : State} {s : State} {r : StripeRec} {wStart : Nat} (hw : 1024 ||| W = W) (hs : Fr W s0 s) : Fr W s0 (State.newWork s r wStart).1 :=
  Fr.of_eq fun _ _ e' => fr_newWork_eq hw hs e'

theorem fr_keepPasses {W : Nat} {s0 : State} {s : State} {keep : Nat → Bool} (hw : 512 ||| W = W) (hs : Fr W s0 s) :
    Fr W s0 (State.keepPasses s keep) := by
  unfold State.keepPasses
  repeat' first
    | (extract_lets +onlyGivenNames z; clear_value z; revert z; intro _)
    | ((with_reducible apply Fr.of); rotate_left 23; (with_reducible exact Or.inr rfl); rotate_left 3; with_reducible assumption; (iterate 25 (first | with_reducible exact Or.inr rfl | with_reducible exact Or.inr ⟨rfl, rfl⟩ | exact Or.inl (Fr.bit hw rfl))))

theorem fr_sweepWorks {W : Nat} {s0 : State} {s : State} (hw : 1024 ||| W = W) (hs : Fr W s0 s) :
    Fr W s0 (State.sweepWorks s) := by
  unfold State.sweepWorks
  repeat' first
    | (extract_lets +onlyGivenNames z; clear_value z; revert z; intro _)
    | ((with_reducible apply Fr.of); rotate_left 23; (with_reducible exact Or.inr rfl); rotate_left 3; with_reducible assumption; (iterate 25 (first | with_reducible exact Or.inr rfl | with_reducible exact Or.inr ⟨rfl, rfl⟩ | exact Or.inl (Fr.bit hw rfl))))

theorem fr_takeSlot {W : Nat} {s0 : State} {s : State} {id : Nat} (hw : 1024 ||| W = W) (hs : Fr W s0 s) :
    Fr W s0 (State.takeSlot s id) := by
  unfold State.takeSlot
  repeat' first
    | intro _
    | with_reducible assumption
    | with_reducible refine fr_modWork hw ?_
    | with_reducible apply Fr.ite
    | split

theorem fr_voidSample {W : Nat} {s0 : State} {s : State} {id : Nat} (hw : 512 ||| W = W) (hs : Fr W s0 s) :
    Fr W s0 (State.voidSample s id) := by
  unfold State.voidSample
  repeat' first
    | (extract_lets +onlyGivenNames z; clear_value z; revert z; intro _)
    | with_reducible refine fr_bump ?_
    | ((with_reducible apply Fr.of); rotate_left 23; (with_reducible exact Or.inr rfl); rotate_left 3; with_reducible assumption; (iterate 25 (first | with_reducible exact Or.inr rfl | with_reducible exact Or.inr ⟨rfl, rfl⟩ | exact Or.inl (Fr.bit hw rfl))))

theorem fr_stgLog {W : Nat} {s0 : State} {s : State} {reason : Nat} {status : Nat} {stripe : Nat} {w : Nat} (hs : Fr W s0 s) :
    Fr W s0 (State.stgLog s reason status stripe w) := by
  unfold State.stgLog
  repeat' first
    | with_reducible assumption
    | with_reducible refine fr_setRegs ?_
    | with_reducible refine fr_bump ?_

theorem fr_keepBins {W : Nat} {s0 : State} {s : State} {keep : HeldBin → Bool} (hw : 768 ||| W = W) (hs : Fr W s0 s) :
    Fr W s0 (State.keepBins s keep) := by
  unfold State.keepBins
  repeat' first
    | intro _
    | with_reducible assumption
    | (extract_lets +onlyGivenNames z; guard_hyp z : State := _; refine Fr.cut (x := z) ?_ (fun _ => ?_); rotate_left; clear_value z; revert z; intro _ _; rotate_left; unfold z; clear z)
    | (extract_lets +onlyGivenNames z; clear_value z; revert z; intro _)
    | with_reducible refine fr_freeRing (Fr.sub (V := 768) rfl hw) ?_
    | with_reducible refine fr_voidSample (Fr.sub (V := 768) rfl hw) ?_
    | with_reducible apply Fr.foldl
    | ((with_reducible apply Fr.of); rotate_left 23; (with_reducible exact Or.inr rfl); rotate_left 3; with_reducible assumption; (iterate 25 (first | with_reducible exact Or.inr rfl | with_reducible exact Or.inr ⟨rfl, rfl⟩ | exact Or.inl (Fr.bit hw rfl))))

theorem fr_dropBins {W : Nat} {s0 : State} {s : State} (hw : 768 ||| W = W) (hs : Fr W s0 s) :
    Fr W s0 (State.dropBins s) := by
  unfold State.dropBins
  repeat' first
    | with_reducible assumption
    | with_reducible refine fr_keepBins hw ?_

theorem fr_claimRow {W : Nat} {s0 : State} {s : State} {id : Nat} {v : Int} (hw : 99328 ||| W = W) (hs : Fr W s0 s) :
    Fr W s0 (State.claimRow s id v) := by
  unfold State.claimRow
  repeat' first
    | with_reducible assumption
    | (extract_lets +onlyGivenNames z; guard_hyp z : State := _; refine Fr.cut (x := z) ?_ (fun _ => ?_); rotate_left; clear_value z; revert z; intro _ _; rotate_left; unfold z; clear z)
    | with_reducible refine fr_memWrite (Fr.sub (V := 99328) rfl hw) ?_
    | with_reducible refine fr_modWork (Fr.sub (V := 99328) rfl hw) ?_
    | split

theorem fr_corLog {W : Nat} {s0 : State} {s : State} {reason : Nat} {set : Bool} {halt : Bool} {stripe : Nat} {slice : Nat} (hs : Fr W s0 s) :
    Fr W s0 (State.corLog s reason set halt stripe slice) := by
  unfold State.corLog
  repeat' first
    | with_reducible assumption
    | with_reducible refine fr_raise ?_
    | with_reducible refine fr_setRegs ?_
    | with_reducible refine fr_bump ?_

theorem fr_freeChunks {W : Nat} {s0 : State} {s : State} {keep : Nat → Bool} (hw : 100352 ||| W = W) (hs : Fr W s0 s) :
    Fr W s0 (State.freeChunks s keep) := by
  unfold State.freeChunks
  repeat' first
    | intro _
    | with_reducible assumption
    | (extract_lets +onlyGivenNames z; guard_hyp z : State := _; refine Fr.cut (x := z) ?_ (fun _ => ?_); rotate_left; clear_value z; revert z; intro _ _; rotate_left; unfold z; clear z)
    | (extract_lets +onlyGivenNames z; clear_value z; revert z; intro _)
    | with_reducible refine fr_memWrite64 (Fr.sub (V := 100352) rfl hw) ?_
    | with_reducible apply Fr.foldl
    | ((with_reducible apply Fr.of); rotate_left 23; (with_reducible exact Or.inr rfl); rotate_left 3; with_reducible assumption; (iterate 25 (first | with_reducible exact Or.inr rfl | with_reducible exact Or.inr ⟨rfl, rfl⟩ | exact Or.inl (Fr.bit hw rfl))))

theorem fr_rebuildRows {W : Nat} {s0 : State} {s : State} {id : Nat} {t : Int} {vs : List Int} (hw : 99328 ||| W = W) (hs : Fr W s0 s) :
    Fr W s0 (State.rebuildRows s id t vs) := by
  unfold State.rebuildRows
  repeat' first
    | intro _
    | with_reducible assumption
    | (extract_lets +onlyGivenNames z; guard_hyp z : State := _; refine Fr.cut (x := z) ?_ (fun _ => ?_); rotate_left; clear_value z; revert z; intro _ _; rotate_left; unfold z; clear z)
    | with_reducible refine fr_bump ?_
    | with_reducible refine fr_claimRow hw ?_
    | with_reducible refine fr_modWork (Fr.sub (V := 99328) rfl hw) ?_
    | with_reducible apply Fr.foldl

theorem fr_addCell {W : Nat} {s0 : State} {s : State} {id : Nat} {u : Int} {v : Int} {f : Nat} (hw : 99328 ||| W = W) (hs : Fr W s0 s) :
    Fr W s0 (State.addCell s id u v f) := by
  unfold State.addCell
  repeat' first
    | intro _
    | with_reducible assumption
    | (extract_lets +onlyGivenNames z; guard_hyp z : State := _; refine Fr.cut (x := z) ?_ (fun _ => ?_); rotate_left; clear_value z; revert z; intro _ _; rotate_left; unfold z; clear z)
    | with_reducible refine fr_claimRow hw ?_
    | with_reducible refine fr_memWrite64 (Fr.sub (V := 99328) rfl hw) ?_
    | with_reducible apply Fr.ite
    | split

theorem fr_resetPath {W : Nat} {s0 : State} {s : State} (hw : 101888 ||| W = W) (hs : Fr W s0 s) :
    Fr W s0 (State.resetPath s) := by
  unfold State.resetPath
  repeat' first
    | intro _
    | with_reducible assumption
    | (extract_lets +onlyGivenNames z; guard_hyp z : State := _; refine Fr.cut (x := z) ?_ (fun _ => ?_); rotate_left; clear_value z; revert z; intro _ _; rotate_left; unfold z; clear z)
    | (extract_lets +onlyGivenNames z; clear_value z; revert z; intro _)
    | with_reducible refine fr_keepPasses (Fr.sub (V := 101888) rfl hw) ?_
    | with_reducible refine fr_freeChunks (Fr.sub (V := 101888) rfl hw) ?_
    | with_reducible refine fr_raise ?_
    | with_reducible refine fr_setReg ?_
    | with_reducible apply Fr.ite
    | ((with_reducible apply Fr.of); rotate_left 23; (with_reducible exact Or.inr rfl); rotate_left 3; with_reducible assumption; (iterate 25 (first | with_reducible exact Or.inr rfl | with_reducible exact Or.inr ⟨rfl, rfl⟩ | exact Or.inl (Fr.bit hw rfl))))

theorem fr_invalidateGroup {W : Nat} {s0 : State} {s : State} {id : Nat} {t : Int} {reason : Nat} {status : Nat} (hw : 101376 ||| W = W) (hs : Fr W s0 s) :
    Fr W s0 (State.invalidateGroup s id t reason status) := by
  unfold State.invalidateGroup
  repeat' first
    | intro _
    | with_reducible assumption
    | (extract_lets +onlyGivenNames z; guard_hyp z : State := _; refine Fr.cut (x := z) ?_ (fun _ => ?_); rotate_left; clear_value z; revert z; intro _ _; rotate_left; unfold z; clear z)
    | (extract_lets +onlyGivenNames z; clear_value z; revert z; intro _)
    | with_reducible refine fr_freeChunks (Fr.sub (V := 101376) rfl hw) ?_
    | with_reducible refine fr_modWork (Fr.sub (V := 101376) rfl hw) ?_
    | with_reducible refine fr_stgLog ?_
    | with_reducible apply Fr.ite
    | ((with_reducible apply Fr.of); rotate_left 23; (with_reducible exact Or.inr rfl); rotate_left 3; with_reducible assumption; (iterate 25 (first | with_reducible exact Or.inr rfl | with_reducible exact Or.inr ⟨rfl, rfl⟩ | exact Or.inl (Fr.bit hw rfl))))
    | split

theorem fr_abandonWork {W : Nat} {s0 : State} {s : State} {id : Nat} (hw : 101888 ||| W = W) (hs : Fr W s0 s) :
    Fr W s0 (State.abandonWork s id) := by
  unfold State.abandonWork
  repeat' first
    | with_reducible assumption
    | (extract_lets +onlyGivenNames z; guard_hyp z : State := _; refine Fr.cut (x := z) ?_ (fun _ => ?_); rotate_left; clear_value z; revert z; intro _ _; rotate_left; unfold z; clear z)
    | (extract_lets +onlyGivenNames z; clear_value z; revert z; intro _)
    | with_reducible refine fr_keepPasses (Fr.sub (V := 101888) rfl hw) ?_
    | with_reducible refine fr_freeChunks (Fr.sub (V := 101888) rfl hw) ?_
    | ((with_reducible apply Fr.of); rotate_left 23; (with_reducible exact Or.inr rfl); rotate_left 3; with_reducible assumption; (iterate 25 (first | with_reducible exact Or.inr rfl | with_reducible exact Or.inr ⟨rfl, rfl⟩ | exact Or.inl (Fr.bit hw rfl))))
    | split

theorem fr_releaseTo {W : Nat} {s0 : State} {s : State} {n : Nat} (hw : 102144 ||| W = W) (hs : Fr W s0 s) :
    Fr W s0 (State.releaseTo s n) := by
  unfold State.releaseTo
  repeat' first
    | intro _
    | with_reducible assumption
    | (extract_lets +onlyGivenNames z; guard_hyp z : State := _; refine Fr.cut (x := z) ?_ (fun _ => ?_); rotate_left; clear_value z; revert z; intro _ _; rotate_left; unfold z; clear z)
    | (extract_lets +onlyGivenNames z; clear_value z; revert z; intro _)
    | with_reducible refine fr_sweepWorks (Fr.sub (V := 102144) rfl hw) ?_
    | with_reducible refine fr_dropBins (Fr.sub (V := 102144) rfl hw) ?_
    | with_reducible refine fr_freeChunks (Fr.sub (V := 102144) rfl hw) ?_
    | with_reducible apply Fr.ite
    | ((with_reducible apply Fr.of); rotate_left 23; (with_reducible exact Or.inr rfl); rotate_left 3; with_reducible assumption; (iterate 25 (first | with_reducible exact Or.inr rfl | with_reducible exact Or.inr ⟨rfl, rfl⟩ | exact Or.inl (Fr.bit hw rfl))))

theorem fr_dmapPoison {W : Nat} {s0 : State} {s : State} {id : Nat} {t : Int} {v : Int} (hw : 99328 ||| W = W) (hs : Fr W s0 s) :
    Fr W s0 (State.dmapPoison s id t v) := by
  unfold State.dmapPoison
  repeat' first
    | with_reducible assumption
    | with_reducible refine fr_corLog ?_
    | with_reducible refine fr_rebuildRows hw ?_
    | split

theorem fr_invalidateRows {W : Nat} {s0 : State} {s : State} {id : Nat} {ts : List Int} {reason : Nat} {status : Nat} (hw : 101376 ||| W = W) (hs : Fr W s0 s) :
    Fr W s0 (State.invalidateRows s id ts reason status) := by
  unfold State.invalidateRows
  repeat' first
    | intro _
    | with_reducible assumption
    | (extract_lets +onlyGivenNames z; guard_hyp z : State := _; refine Fr.cut (x := z) ?_ (fun _ => ?_); rotate_left; clear_value z; revert z; intro _ _; rotate_left; unfold z; clear z)
    | with_reducible refine fr_invalidateGroup hw ?_
    | with_reducible refine fr_raise ?_
    | with_reducible apply Fr.ite
    | with_reducible apply Fr.foldl

theorem fr_ensureNext {W : Nat} {s0 : State} {s : State} (hw : 101888 ||| W = W) (hs : Fr W s0 s) :
    Fr W s0 (State.ensureNext s) := by
  unfold State.ensureNext
  repeat' first
    | intro _
    | with_reducible assumption
    | (extract_lets +onlyGivenNames z; guard_hyp z : State := _; refine Fr.cut (x := z) ?_ (fun _ => ?_); rotate_left; clear_value z; revert z; intro _ _; rotate_left; unfold z; clear z)
    | (extract_lets +onlyGivenNames z; clear_value z; revert z; intro _)
    | with_reducible refine fr_abandonWork hw ?_
    | with_reducible apply Fr.ite
    | ((with_reducible apply Fr.of); rotate_left; (iterate 26 (first | with_reducible exact Or.inr rfl | with_reducible exact Or.inr ⟨rfl, rfl⟩ | exact Or.inl (Fr.bit hw rfl))); (first | with_reducible refine fr_newWork (Fr.sub (V := 101888) rfl hw) ?_))
    | split

theorem fr_abandonNext {W : Nat} {s0 : State} {s : State} (hw : 102144 ||| W = W) (hs : Fr W s0 s) :
    Fr W s0 (State.abandonNext s) := by
  unfold State.abandonNext
  repeat' first
    | intro _
    | with_reducible assumption
    | (extract_lets +onlyGivenNames z; guard_hyp z : State := _; refine Fr.cut (x := z) ?_ (fun _ => ?_); rotate_left; clear_value z; revert z; intro _ _; rotate_left; unfold z; clear z)
    | (extract_lets +onlyGivenNames z; clear_value z; revert z; intro _)
    | with_reducible refine fr_abandonWork (Fr.sub (V := 102144) rfl hw) ?_
    | with_reducible refine fr_keepBins (Fr.sub (V := 102144) rfl hw) ?_
    | with_reducible apply Fr.ite
    | ((with_reducible apply Fr.of); rotate_left 23; (with_reducible exact Or.inr rfl); rotate_left 3; with_reducible assumption; (iterate 25 (first | with_reducible exact Or.inr rfl | with_reducible exact Or.inr ⟨rfl, rfl⟩ | exact Or.inl (Fr.bit hw rfl))))
    | split

theorem fr_addFragments {W : Nat} {s0 : State} {s : State} {id : Nat} {t : Int} {c : Int} {words : List Nat} {only : Option (List (Int × Int))} (hw : 99328 ||| W = W) (hs : Fr W s0 s) :
    Fr W s0 (State.addFragments s id t c words only) := by
  unfold State.addFragments
  repeat' first
    | intro _
    | with_reducible assumption
    | (extract_lets +onlyGivenNames z; guard_hyp z : State := _; refine Fr.cut (x := z) ?_ (fun _ => ?_); rotate_left; clear_value z; revert z; intro _ _; rotate_left; unfold z; clear z)
    | (extract_lets +onlyGivenNames z; clear_value z; revert z; intro _)
    | with_reducible refine fr_takeSlot (Fr.sub (V := 99328) rfl hw) ?_
    | with_reducible refine fr_dmapPoison hw ?_
    | with_reducible refine fr_addCell hw ?_
    | with_reducible apply Fr.ite
    | with_reducible apply Fr.foldl
    | split

theorem fr_fillB {W : Nat} {s0 : State} {s : State} {id : Nat} {us : List Int} {vs : List Int} (hw : 99328 ||| W = W) (hs : Fr W s0 s) :
    Fr W s0 (State.fillB s id us vs) := by
  unfold State.fillB
  repeat' first
    | intro _
    | with_reducible assumption
    | (extract_lets +onlyGivenNames z; clear_value z; revert z; intro _)
    | with_reducible refine fr_dmapPoison hw ?_
    | with_reducible refine fr_memWrite64 (Fr.sub (V := 99328) rfl hw) ?_
    | with_reducible apply Fr.ite
    | with_reducible apply Fr.foldl
    | split

theorem fr_invalidateAll {W : Nat} {s0 : State} {s : State} {id : Nat} (hw : 101376 ||| W = W) (hs : Fr W s0 s) :
    Fr W s0 (State.invalidateAll s id) := by
  unfold State.invalidateAll
  repeat' first
    | with_reducible assumption
    | with_reducible refine fr_invalidateRows hw ?_
    | split

theorem fr_bindTo {W : Nat} {s0 : State} {s : State} {id : Nat} {b : Bool} (hw : 101376 ||| W = W) (hs : Fr W s0 s) :
    Fr W s0 (State.bindTo s id b) := by
  unfold State.bindTo
  repeat' first
    | with_reducible assumption
    | (extract_lets +onlyGivenNames z; guard_hyp z : State := _; refine Fr.cut (x := z) ?_ (fun _ => ?_); rotate_left; clear_value z; revert z; intro _ _; rotate_left; unfold z; clear z)
    | (extract_lets +onlyGivenNames z; clear_value z; revert z; intro _)
    | with_reducible refine fr_modWork (Fr.sub (V := 101376) rfl hw) ?_
    | with_reducible refine fr_fillB (Fr.sub (V := 101376) rfl hw) ?_
    | ((with_reducible apply Fr.of); rotate_left 23; (with_reducible exact Or.inr rfl); rotate_left 3; with_reducible assumption; (iterate 25 (first | with_reducible exact Or.inr rfl | with_reducible exact Or.inr ⟨rfl, rfl⟩ | exact Or.inl (Fr.bit hw rfl))))
    | split

theorem fr_fillAround {W : Nat} {s0 : State} {s : State} {id : Nat} {t : Int} {c : Int} (hw : 99328 ||| W = W) (hs : Fr W s0 s) :
    Fr W s0 (State.fillAround s id t c) := by
  unfold State.fillAround
  repeat' first
    | with_reducible assumption
    | (extract_lets +onlyGivenNames z; clear_value z; revert z; intro _)
    | with_reducible refine fr_fillB hw ?_
    | split

theorem fr_rebind {W : Nat} {s0 : State} {s : State} {id : Nat} {b : Bool} (hw : 101376 ||| W = W) (hs : Fr W s0 s) :
    Fr W s0 (State.rebind s id b) := by
  unfold State.rebind
  repeat' first
    | intro _
    | with_reducible assumption
    | (extract_lets +onlyGivenNames z; guard_hyp z : State := _; refine Fr.cut (x := z) ?_ (fun _ => ?_); rotate_left; clear_value z; revert z; intro _ _; rotate_left; unfold z; clear z)
    | (extract_lets +onlyGivenNames z; clear_value z; revert z; intro _)
    | with_reducible refine fr_invalidateAll hw ?_
    | with_reducible refine fr_modWork (Fr.sub (V := 101376) rfl hw) ?_
    | with_reducible refine fr_corLog ?_
    | with_reducible refine fr_memWrite64 (Fr.sub (V := 101376) rfl hw) ?_
    | with_reducible refine fr_raise ?_
    | with_reducible refine fr_bump ?_
    | with_reducible refine fr_fillB (Fr.sub (V := 101376) rfl hw) ?_
    | with_reducible apply Fr.ite
    | with_reducible apply Fr.foldl
    | ((with_reducible apply Fr.of); rotate_left 23; (with_reducible exact Or.inr rfl); rotate_left 3; with_reducible assumption; (iterate 25 (first | with_reducible exact Or.inr rfl | with_reducible exact Or.inr ⟨rfl, rfl⟩ | exact Or.inl (Fr.bit hw rfl))))
    | split

theorem fr_tryBindTo {W : Nat} {s0 : State} {s : State} {id : Nat} {b : Bool} (hw : 101376 ||| W = W) (hs : Fr W s0 s) :
    Fr W s0 (State.tryBindTo s id b) := by
  unfold State.tryBindTo
  repeat' first
    | intro _
    | with_reducible assumption
    | (extract_lets +onlyGivenNames z; guard_hyp z : State := _; refine Fr.cut (x := z) ?_ (fun _ => ?_); rotate_left; clear_value z; revert z; intro _ _; rotate_left; unfold z; clear z)
    | (extract_lets +onlyGivenNames z; clear_value z; revert z; intro _)
    | with_reducible refine fr_corLog ?_
    | with_reducible refine fr_bindTo hw ?_
    | with_reducible apply Fr.ite
    | ((with_reducible apply Fr.of); rotate_left 23; (with_reducible exact Or.inr rfl); rotate_left 3; with_reducible assumption; (iterate 25 (first | with_reducible exact Or.inr rfl | with_reducible exact Or.inr ⟨rfl, rfl⟩ | exact Or.inl (Fr.bit hw rfl))))
    | split

theorem fr_bindNext {W : Nat} {s0 : State} {s : State} (hw : 101888 ||| W = W) (hs : Fr W s0 s) :
    Fr W s0 (State.bindNext s) := by
  unfold State.bindNext
  repeat' first
    | intro _
    | with_reducible assumption
    | (extract_lets +onlyGivenNames z; guard_hyp z : State := _; refine Fr.cut (x := z) ?_ (fun _ => ?_); rotate_left; clear_value z; revert z; intro _ _; rotate_left; unfold z; clear z)
    | (extract_lets +onlyGivenNames z; clear_value z; revert z; intro _)
    | with_reducible refine fr_ensureNext hw ?_
    | with_reducible refine fr_tryBindTo (Fr.sub (V := 101888) rfl hw) ?_
    | with_reducible apply Fr.ite
    | ((with_reducible apply Fr.of); rotate_left 23; (with_reducible exact Or.inr rfl); rotate_left 3; with_reducible assumption; (iterate 25 (first | with_reducible exact Or.inr rfl | with_reducible exact Or.inr ⟨rfl, rfl⟩ | exact Or.inl (Fr.bit hw rfl))))
    | split

theorem fr_setChanged {W : Nat} {s0 : State} {s : State} {id : Nat} {b : Bool} (hw : 101376 ||| W = W) (hs : Fr W s0 s) :
    Fr W s0 (State.setChanged s id b) := by
  unfold State.setChanged
  repeat' first
    | intro _
    | with_reducible assumption
    | with_reducible refine fr_rebind hw ?_
    | with_reducible refine fr_tryBindTo hw ?_
    | with_reducible apply Fr.ite
    | split

/-! Weavers. -/

theorem fr_modWeaver {W : Nat} {s0 : State} {s : State} {w : Nat} {f : Weaver → Weaver} (hw : 512 ||| W = W) (hs : Fr W s0 s) :
    Fr W s0 (State.modWeaver s w f) := by
  unfold State.modWeaver
  repeat' first
    | (extract_lets +onlyGivenNames z; clear_value z; revert z; intro _)
    | ((with_reducible apply Fr.of); rotate_left 23; (with_reducible exact Or.inr rfl); rotate_left 3; with_reducible assumption; (iterate 25 (first | with_reducible exact Or.inr rfl | with_reducible exact Or.inr ⟨rfl, rfl⟩ | exact Or.inl (Fr.bit hw rfl))))

theorem fr_dropSample {W : Nat} {s0 : State} {s : State} {id : Nat} (hw : 512 ||| W = W) (hs : Fr W s0 s) :
    Fr W s0 (State.dropSample s id) := by
  unfold State.dropSample
  repeat' first
    | (extract_lets +onlyGivenNames z; clear_value z; revert z; intro _)
    | ((with_reducible apply Fr.of); rotate_left 23; (with_reducible exact Or.inr rfl); rotate_left 3; with_reducible assumption; (iterate 25 (first | with_reducible exact Or.inr rfl | with_reducible exact Or.inr ⟨rfl, rfl⟩ | exact Or.inl (Fr.bit hw rfl))))

theorem fr_modSample {W : Nat} {s0 : State} {s : State} {id : Nat} {f : Sample → Sample} (hw : 512 ||| W = W) (hs : Fr W s0 s) :
    Fr W s0 (State.modSample s id f) := by
  unfold State.modSample
  repeat' first
    | (extract_lets +onlyGivenNames z; clear_value z; revert z; intro _)
    | ((with_reducible apply Fr.of); rotate_left 23; (with_reducible exact Or.inr rfl); rotate_left 3; with_reducible assumption; (iterate 25 (first | with_reducible exact Or.inr rfl | with_reducible exact Or.inr ⟨rfl, rfl⟩ | exact Or.inl (Fr.bit hw rfl))))

theorem fr_uncount {W : Nat} {s0 : State} {s : State} {id : TileId} (hw : 256 ||| W = W) (hs : Fr W s0 s) :
    Fr W s0 (State.uncount s id) := by
  unfold State.uncount
  repeat' first
    | intro _
    | with_reducible assumption
    | (extract_lets +onlyGivenNames z; clear_value z; revert z; intro _)
    | with_reducible apply Fr.ite
    | ((with_reducible apply Fr.of); rotate_left 23; (with_reducible exact Or.inr rfl); rotate_left 3; with_reducible assumption; (iterate 25 (first | with_reducible exact Or.inr rfl | with_reducible exact Or.inr ⟨rfl, rfl⟩ | exact Or.inl (Fr.bit hw rfl))))

theorem fr_issueSample {W : Nat} {s0 : State} {s : State} {w : Nat} {x2 : Sample} {kind : PassKind} (hw : 512 ||| W = W) (hs : Fr W s0 s) :
    Fr W s0 (State.issueSample s w x2 kind) := by
  unfold State.issueSample
  repeat' first
    | with_reducible assumption
    | (extract_lets +onlyGivenNames z; guard_hyp z : State := _; refine Fr.cut (x := z) ?_ (fun _ => ?_); rotate_left; clear_value z; revert z; intro _ _; rotate_left; unfold z; clear z)
    | (extract_lets +onlyGivenNames z; clear_value z; revert z; intro _)
    | with_reducible refine fr_modSample hw ?_
    | with_reducible refine fr_modWeaver hw ?_

theorem fr_giveBack {W : Nat} {s0 : State} {s : State} {w : Nat} {avoid : List Nat} (hw : 1536 ||| W = W) (hs : Fr W s0 s) :
    Fr W s0 (State.giveBack s w avoid) := by
  unfold State.giveBack
  repeat' first
    | with_reducible assumption
    | (extract_lets +onlyGivenNames z; guard_hyp z : State := _; refine Fr.cut (x := z) ?_ (fun _ => ?_); rotate_left; clear_value z; revert z; intro _ _; rotate_left; unfold z; clear z)
    | (extract_lets +onlyGivenNames z; guard_hyp z : State → State := _; refine Fr.cutF (f := z) ?_ (fun _ => ?_); rotate_left; clear_value z; revert z; intro _ _; rotate_left; unfold z; clear z; intro _ _; beta_reduce)
    | with_reducible refine fr_modWeaver (Fr.sub (V := 1536) rfl hw) ?_
    | with_reducible refine fr_dropSample (Fr.sub (V := 1536) rfl hw) ?_
    | with_reducible refine fr_modWork (Fr.sub (V := 1536) rfl hw) ?_
    | with_reducible refine fr_modSample (Fr.sub (V := 1536) rfl hw) ?_
    | split
    | with_reducible apply_assumption

theorem fr_needTile {W : Nat} {s0 : State} {s : State} {id : TileId} (hw : 256 ||| W = W) (hs : Fr W s0 s) :
    Fr W s0 (State.needTile s id) := by
  unfold State.needTile
  repeat' first
    | intro _
    | with_reducible assumption
    | with_reducible refine fr_stallAt hw ?_
    | with_reducible apply Fr.ite

theorem fr_issuePass {W : Nat} {s0 : State} {s : State} {w : Nat} {f : Found} (hw : 1792 ||| W = W) (hs : Fr W s0 s) :
    Fr W s0 (State.issuePass s w f) := by
  unfold State.issuePass
  repeat' first
    | intro _
    | with_reducible assumption
    | (extract_lets +onlyGivenNames z; guard_hyp z : State := _; refine Fr.cut (x := z) ?_ (fun _ => ?_); rotate_left; clear_value z; revert z; intro _ _; rotate_left; unfold z; clear z)
    | (extract_lets +onlyGivenNames z; clear_value z; revert z; intro _)
    | with_reducible refine fr_modWork (Fr.sub (V := 1792) rfl hw) ?_
    | with_reducible refine fr_uncount (Fr.sub (V := 1792) rfl hw) ?_
    | with_reducible refine fr_modWeaver (Fr.sub (V := 1792) rfl hw) ?_
    | with_reducible refine fr_bump ?_
    | with_reducible apply Fr.ite
    | ((with_reducible apply Fr.of); rotate_left 23; (with_reducible exact Or.inr rfl); rotate_left 3; with_reducible assumption; (iterate 25 (first | with_reducible exact Or.inr rfl | with_reducible exact Or.inr ⟨rfl, rfl⟩ | exact Or.inl (Fr.bit hw rfl))))

theorem fr_promote {W : Nat} {s0 : State} {s : State} {w : Nat} (hw : 1536 ||| W = W) (hs : Fr W s0 s) :
    Fr W s0 (State.promote s w) := by
  unfold State.promote
  repeat' first
    | intro _
    | with_reducible assumption
    | (extract_lets +onlyGivenNames z; guard_hyp z : State := _; refine Fr.cut (x := z) ?_ (fun _ => ?_); rotate_left; clear_value z; revert z; intro _ _; rotate_left; unfold z; clear z)
    | with_reducible refine fr_voidSample (Fr.sub (V := 1536) rfl hw) ?_
    | with_reducible refine fr_modWeaver (Fr.sub (V := 1536) rfl hw) ?_
    | with_reducible refine fr_giveBack hw ?_
    | with_reducible apply Fr.ite
    | split

theorem fr_retireWeaver {W : Nat} {s0 : State} {s : State} {w : Nat} (hw : 1536 ||| W = W) (hs : Fr W s0 s) :
    Fr W s0 (State.retireWeaver s w) := by
  unfold State.retireWeaver
  repeat' first
    | intro _
    | with_reducible assumption
    | (extract_lets +onlyGivenNames z; guard_hyp z : State := _; refine Fr.cut (x := z) ?_ (fun _ => ?_); rotate_left; clear_value z; revert z; intro _ _; rotate_left; unfold z; clear z)
    | with_reducible refine fr_modWeaver (Fr.sub (V := 1536) rfl hw) ?_
    | with_reducible refine fr_giveBack hw ?_
    | with_reducible refine fr_promote hw ?_
    | with_reducible refine fr_raise ?_
    | with_reducible refine fr_withyChange ?_
    | with_reducible apply Fr.ite
    | split

theorem fr_wantBin {W : Nat} {s0 : State} {s : State} {k : Work} {t : Int} (hw : 256 ||| W = W) (hs : Fr W s0 s) :
    Fr W s0 (State.wantBin s k t) := by
  unfold State.wantBin
  repeat' first
    | intro _
    | with_reducible assumption
    | (extract_lets +onlyGivenNames z; guard_hyp z : State := _; refine Fr.cut (x := z) ?_ (fun _ => ?_); rotate_left; clear_value z; revert z; intro _ _; rotate_left; unfold z; clear z)
    | (extract_lets +onlyGivenNames z; clear_value z; revert z; intro _)
    | with_reducible refine fr_stgLog ?_
    | with_reducible refine fr_raise ?_
    | with_reducible apply Fr.ite
    | ((with_reducible apply Fr.of); rotate_left 23; (with_reducible exact Or.inr rfl); rotate_left 3; with_reducible assumption; (iterate 25 (first | with_reducible exact Or.inr rfl | with_reducible exact Or.inr ⟨rfl, rfl⟩ | exact Or.inl (Fr.bit hw rfl))))

theorem fr_suspectUp {W : Nat} {s0 : State} {s : State} {w : Nat} (hw : 1536 ||| W = W) (hs : Fr W s0 s) :
    Fr W s0 (State.suspectUp s w) := by
  unfold State.suspectUp
  repeat' first
    | intro _
    | with_reducible assumption
    | (extract_lets +onlyGivenNames z; guard_hyp z : State := _; refine Fr.cut (x := z) ?_ (fun _ => ?_); rotate_left; clear_value z; revert z; intro _ _; rotate_left; unfold z; clear z)
    | (extract_lets +onlyGivenNames z; clear_value z; revert z; intro _)
    | with_reducible refine fr_withyChange ?_
    | with_reducible refine fr_modWeaver (Fr.sub (V := 1536) rfl hw) ?_
    | with_reducible refine fr_retireWeaver hw ?_
    | with_reducible apply Fr.ite

theorem fr_seekPixel_eq {W : Nat} {s0 : State} {w : Nat} {a : List (Nat × Int × Int)} {a2 : State} (hw : 1280 ||| W = W) (ha2 : Fr W s0 a2) {s' : State} {x'} (e' : State.seekPixel w a a2 = (s', x')) :
    Fr W s0 s' := by
  induction a generalizing w a2 with
  | nil =>
    unfold State.seekPixel at e'
    repeat' first
      | with_reducible assumption
      | ((with_reducible refine Fr.of_pair ?_ e'); clear e')
  | cons y l ih =>
    unfold State.seekPixel at e'
    repeat' first
      | with_reducible assumption
      | (extract_lets +onlyGivenNames z at e'; clear_value z; revert z; intro _ e')
      | split at e'
      | refine ih ?_ (by with_reducible assumption)
      | with_reducible refine fr_needTile (Fr.sub (V := 1280) rfl hw) ?_
      | with_reducible refine fr_modWork (Fr.sub (V := 1280) rfl hw) ?_
      | with_reducible refine fr_wantBin (Fr.sub (V := 1280) rfl hw) ?_
      | ((with_reducible refine Fr.of_pair ?_ e'); clear e')

theorem fr_seekPixel {W : Nat} {s0 : State} {w : Nat} {a : List (Nat × Int × Int)} {a2 : State} (hw : 1280 ||| W = W) (ha2 : Fr W s0 a2) : Fr W s0 (State.seekPixel w a a2).1 :=
  Fr.of_eq fun _ _ e' => fr_seekPixel_eq hw ha2 e'

theorem fr_execWeaverRetire {W : Nat} {s0 : State} {w : Nat} {s : State} (hw : 1536 ||| W = W) (hs : Fr W s0 s) :
    FrO W s0 (execWeaverRetire w s) := by
  unfold execWeaverRetire
  repeat' first
    | intro _
    | with_reducible assumption
    | with_reducible refine fr_finish ?_ ?_
    | with_reducible refine fr_command ?_ ?_
    | with_reducible refine fr_retireWeaver hw ?_
    | with_reducible apply Fr.ite

theorem fr_weaverFails {W : Nat} {s0 : State} {s : State} {w : Nat} {counter : Nat} (hw : 1536 ||| W = W) (hs : Fr W s0 s) :
    Fr W s0 (State.weaverFails s w counter) := by
  unfold State.weaverFails
  repeat' first
    | intro _
    | with_reducible assumption
    | with_reducible refine fr_raise ?_
    | with_reducible refine fr_suspectUp hw ?_
    | with_reducible refine fr_bump ?_
    | with_reducible refine fr_giveBack hw ?_
    | with_reducible apply Fr.ite

theorem fr_execWeaverWatchdog {W : Nat} {s0 : State} {w : Nat} {s : State} (hw : 1536 ||| W = W) (hs : Fr W s0 s) :
    FrO W s0 (execWeaverWatchdog w s) := by
  unfold execWeaverWatchdog
  repeat' first
    | with_reducible assumption
    | with_reducible refine fr_finish ?_ ?_
    | with_reducible refine fr_weaverFails hw ?_

theorem fr_execWeaverUe {W : Nat} {s0 : State} {w : Nat} {s : State} (hw : 1536 ||| W = W) (hs : Fr W s0 s) :
    FrO W s0 (execWeaverUe w s) := by
  unfold execWeaverUe
  repeat' first
    | with_reducible assumption
    | with_reducible refine fr_finish ?_ ?_
    | with_reducible refine fr_weaverFails hw ?_

theorem fr_redoDensity {W : Nat} {s0 : State} {s : State} {id : Nat} {tile : TileId} {avoid : List Nat} (hw : 101376 ||| W = W) (hs : Fr W s0 s) :
    Fr W s0 (State.redoDensity s id tile avoid) := by
  unfold State.redoDensity
  repeat' first
    | intro _
    | with_reducible assumption
    | (extract_lets +onlyGivenNames z; guard_hyp z : State := _; refine Fr.cut (x := z) ?_ (fun _ => ?_); rotate_left; clear_value z; revert z; intro _ _; rotate_left; unfold z; clear z)
    | (extract_lets +onlyGivenNames z; clear_value z; revert z; intro _)
    | with_reducible refine fr_memWrite64 (Fr.sub (V := 101376) rfl hw) ?_
    | with_reducible refine fr_bumpBy ?_
    | with_reducible refine fr_modWork (Fr.sub (V := 101376) rfl hw) ?_
    | with_reducible refine fr_invalidateRows hw ?_
    | with_reducible refine fr_corLog ?_
    | with_reducible apply Fr.ite
    | with_reducible apply Fr.foldl
    | split

theorem fr_decodeFails {W : Nat} {s0 : State} {s : State} {w : Nat} {p : Pass} (hw : 100096 ||| W = W) (hs : Fr W s0 s) :
    Fr W s0 (State.decodeFails s w p) := by
  unfold State.decodeFails
  repeat' first
    | intro _
    | with_reducible assumption
    | (extract_lets +onlyGivenNames z; guard_hyp z : State := _; refine Fr.cut (x := z) ?_ (fun _ => ?_); rotate_left; clear_value z; revert z; intro _ _; rotate_left; unfold z; clear z)
    | (extract_lets +onlyGivenNames z; clear_value z; revert z; intro _)
    | with_reducible refine fr_figTouch (Fr.sub (V := 100096) rfl hw) ?_
    | with_reducible refine fr_giveBack (Fr.sub (V := 100096) rfl hw) ?_
    | with_reducible refine fr_raise ?_
    | with_reducible refine fr_refetchTile (Fr.sub (V := 100096) rfl hw) ?_
    | with_reducible apply Fr.ite

theorem fr_replaceOutput_eq {W : Nat} {s0 : State} {s : State} {x1 : Sample} {avoid : List Nat} (hw : 101376 ||| W = W) (hs : Fr W s0 s) {s' : State} {x'} (e' : State.replaceOutput s x1 avoid = (s', x')) :
    Fr W s0 s' := by
  unfold State.replaceOutput at e'
  repeat' first
    | intro _
    | with_reducible assumption
    | (extract_lets +onlyGivenNames z at e'; guard_hyp z : State := _; refine Fr.cut (x := z) ?_ (fun _ => ?_); rotate_left; clear_value z; revert z; intro _ e' _; rotate_left; unfold z; clear e'; clear z)
    | (extract_lets +onlyGivenNames z at e'; clear_value z; revert z; intro _ e')
    | split at e'
    | with_reducible refine fr_modWork (Fr.sub (V := 101376) rfl hw) ?_
    | with_reducible refine fr_invalidateRows hw ?_
    | with_reducible refine fr_redoDensity hw ?_
    | with_reducible refine fr_setRegs ?_
    | with_reducible refine fr_raise ?_
    | with_reducible apply Fr.ite
    | ((with_reducible refine Fr.of_pair ?_ e'); clear e')

theorem fr_replaceOutput {W : Nat} {s0 : State} {s : State} {x1 : Sample} {avoid : List Nat} (hw : 101376 ||| W = W) (hs : Fr W s0 s) : Fr W s0 (State.replaceOutput s x1 avoid).1 :=
  Fr.of_eq fun _ _ e' => fr_replaceOutput_eq hw hs e'

theorem fr_passDone {W : Nat} {s0 : State} {s : State} {w : Nat} {p : Pass} {figs : List Figure} {errs : List Sys2Proof.WordFlip} (hw : 99840 ||| W = W) (hs : Fr W s0 s) :
    Fr W s0 (State.passDone s w p figs errs) := by
  unfold State.passDone
  repeat' first
    | intro _
    | with_reducible assumption
    | (extract_lets +onlyGivenNames z; guard_hyp z : State := _; refine Fr.cut (x := z) ?_ (fun _ => ?_); rotate_left; clear_value z; revert z; intro _ _; rotate_left; unfold z; clear z)
    | (extract_lets +onlyGivenNames z; clear_value z; revert z; intro _)
    | with_reducible refine fr_figTouch (Fr.sub (V := 99840) rfl hw) ?_
    | with_reducible refine fr_modWeaver (Fr.sub (V := 99840) rfl hw) ?_
    | with_reducible refine fr_bumpBy ?_
    | with_reducible refine fr_bump ?_
    | with_reducible refine fr_modSample (Fr.sub (V := 99840) rfl hw) ?_
    | with_reducible refine fr_modWork (Fr.sub (V := 99840) rfl hw) ?_
    | with_reducible refine fr_fillAround (Fr.sub (V := 99840) rfl hw) ?_
    | with_reducible refine fr_addFragments (Fr.sub (V := 99840) rfl hw) ?_
    | with_reducible apply Fr.ite
    | split

theorem fr_zeroDensity {W : Nat} {s0 : State} {s : State} {id : Nat} {t : Int} {c : Int} (hw : 99328 ||| W = W) (hs : Fr W s0 s) :
    Fr W s0 (State.zeroDensity s id t c) := by
  unfold State.zeroDensity
  repeat' first
    | with_reducible assumption
    | (extract_lets +onlyGivenNames z; guard_hyp z : State := _; refine Fr.cut (x := z) ?_ (fun _ => ?_); rotate_left; clear_value z; revert z; intro _ _; rotate_left; unfold z; clear z)
    | with_reducible refine fr_takeSlot (Fr.sub (V := 99328) rfl hw) ?_
    | with_reducible refine fr_modWork (Fr.sub (V := 99328) rfl hw) ?_
    | with_reducible refine fr_bump ?_
    | with_reducible refine fr_fillAround hw ?_

theorem fr_settleSample {W : Nat} {s0 : State} {s : State} {x1 : Sample} {arb : Option (Nat × Nat)} (hw : 101888 ||| W = W) (hs : Fr W s0 s) :
    Fr W s0 (State.settleSample s x1 arb) := by
  unfold State.settleSample
  repeat' first
    | intro _
    | with_reducible assumption
    | (extract_lets +onlyGivenNames z; guard_hyp z : State := _; refine Fr.cut (x := z) ?_ (fun _ => ?_); rotate_left; clear_value z; revert z; intro _ _; rotate_left; unfold z; clear z)
    | (extract_lets +onlyGivenNames z; guard_hyp z : State → _ → State := _; refine Fr.cutF₂ (f := z) ?_ (fun _ => ?_); rotate_left; clear_value z; revert z; intro _ _; rotate_left; unfold z; clear z; intro _ _ _; beta_reduce)
    | (extract_lets +onlyGivenNames z; clear_value z; revert z; intro _)
    | with_reducible refine fr_suspectUp (Fr.sub (V := 101888) rfl hw) ?_
    | with_reducible refine fr_bump ?_
    | with_reducible refine fr_dropSample (Fr.sub (V := 101888) rfl hw) ?_
    | with_reducible refine fr_replaceOutput (Fr.sub (V := 101888) rfl hw) ?_
    | with_reducible refine fr_setRegs ?_
    | with_reducible refine fr_raise ?_
    | with_reducible apply Fr.ite
    | with_reducible apply Fr.ite₂
    | split
    | with_reducible apply_assumption

theorem fr_completePass {W : Nat} {s0 : State} {s : State} {w : Nat} {kind : PassKind} {errs : List Sys2Proof.WordFlip} (hw : 100096 ||| W = W) (hs : Fr W s0 s) :
    Fr W s0 (State.completePass s w kind errs) := by
  unfold State.completePass
  repeat' first
    | with_reducible assumption
    | with_reducible refine fr_decodeFails hw ?_
    | with_reducible refine fr_passDone (Fr.sub (V := 100096) rfl hw) ?_
    | split

theorem fr_seekDensity_eq {W : Nat} {s0 : State} {w : Nat} {a : List (Nat × Int × Int)} {a2 : State} (hw : 99584 ||| W = W) (ha2 : Fr W s0 a2) {s' : State} {x'} (e' : State.seekDensity w a a2 = (s', x')) :
    Fr W s0 s' := by
  induction a generalizing w a2 with
  | nil =>
    unfold State.seekDensity at e'
    repeat' first
      | with_reducible assumption
      | ((with_reducible refine Fr.of_pair ?_ e'); clear e')
  | cons y l ih =>
    unfold State.seekDensity at e'
    repeat' first
      | with_reducible assumption
      | (extract_lets +onlyGivenNames z at e'; clear_value z; revert z; intro _ e')
      | split at e'
      | refine ih ?_ (by with_reducible assumption)
      | with_reducible refine fr_needTile (Fr.sub (V := 99584) rfl hw) ?_
      | with_reducible refine fr_zeroDensity (Fr.sub (V := 99584) rfl hw) ?_
      | with_reducible refine fr_wantBin (Fr.sub (V := 99584) rfl hw) ?_
      | ((with_reducible refine Fr.of_pair ?_ e'); clear e')

theorem fr_seekDensity {W : Nat} {s0 : State} {w : Nat} {a : List (Nat × Int × Int)} {a2 : State} (hw : 99584 ||| W = W) (ha2 : Fr W s0 a2) : Fr W s0 (State.seekDensity w a a2).1 :=
  Fr.of_eq fun _ _ e' => fr_seekDensity_eq hw ha2 e'

theorem fr_sampleDone {W : Nat} {s0 : State} {s : State} {w : Nat} {p : Pass} {sig : Option Nat} (hw : 101888 ||| W = W) (hs : Fr W s0 s) :
    Fr W s0 (State.sampleDone s w p sig) := by
  unfold State.sampleDone
  repeat' first
    | intro _
    | with_reducible assumption
    | (extract_lets +onlyGivenNames z; guard_hyp z : State := _; refine Fr.cut (x := z) ?_ (fun _ => ?_); rotate_left; clear_value z; revert z; intro _ _; rotate_left; unfold z; clear z)
    | with_reducible refine fr_modWeaver (Fr.sub (V := 101888) rfl hw) ?_
    | with_reducible refine fr_figTouch (Fr.sub (V := 101888) rfl hw) ?_
    | with_reducible refine fr_bump ?_
    | with_reducible refine fr_settleSample hw ?_
    | with_reducible refine fr_voidSample (Fr.sub (V := 101888) rfl hw) ?_
    | with_reducible refine fr_dropSample (Fr.sub (V := 101888) rfl hw) ?_
    | with_reducible refine fr_modSample (Fr.sub (V := 101888) rfl hw) ?_
    | with_reducible apply Fr.ite
    | split

theorem fr_expireSamples {W : Nat} {s0 : State} {s : State} (hw : 101888 ||| W = W) (hs : Fr W s0 s) :
    Fr W s0 (State.expireSamples s) := by
  unfold State.expireSamples
  repeat' first
    | intro _
    | with_reducible assumption
    | with_reducible refine fr_voidSample (Fr.sub (V := 101888) rfl hw) ?_
    | with_reducible refine fr_settleSample hw ?_
    | with_reducible apply Fr.ite
    | with_reducible apply Fr.foldl
    | split

theorem fr_giveUp {W : Nat} {s0 : State} {s : State} {w : Nat} {p : Pass} (hw : 101888 ||| W = W) (hs : Fr W s0 s) :
    Fr W s0 (State.giveUp s w p) := by
  unfold State.giveUp
  repeat' first
    | intro _
    | with_reducible assumption
    | (extract_lets +onlyGivenNames z; guard_hyp z : State := _; refine Fr.cut (x := z) ?_ (fun _ => ?_); rotate_left; clear_value z; revert z; intro _ _; rotate_left; unfold z; clear z)
    | with_reducible refine fr_modWeaver (Fr.sub (V := 101888) rfl hw) ?_
    | with_reducible refine fr_settleSample hw ?_
    | with_reducible refine fr_voidSample (Fr.sub (V := 101888) rfl hw) ?_
    | with_reducible apply Fr.ite
    | split

theorem fr_execDensityPassDone {W : Nat} {s0 : State} {w : Nat} {errs : List Sys2Proof.WordFlip} {s : State} (hw : 100096 ||| W = W) (hs : Fr W s0 s) :
    FrO W s0 (execDensityPassDone w errs s) := by
  unfold execDensityPassDone
  repeat' first
    | with_reducible assumption
    | with_reducible refine fr_finish ?_ ?_
    | with_reducible refine fr_completePass hw ?_

theorem fr_execPixelPassDone {W : Nat} {s0 : State} {w : Nat} {errs : List Sys2Proof.WordFlip} {s : State} (hw : 100096 ||| W = W) (hs : Fr W s0 s) :
    FrO W s0 (execPixelPassDone w errs s) := by
  unfold execPixelPassDone
  repeat' first
    | with_reducible assumption
    | with_reducible refine fr_finish ?_ ?_
    | with_reducible refine fr_completePass hw ?_

theorem fr_seekWork_eq {W : Nat} {s0 : State} {s : State} {w : Nat} (hw : 99584 ||| W = W) (hs : Fr W s0 s) {s' : State} {x'} (e' : State.seekWork s w = (s', x')) :
    Fr W s0 s' := by
  unfold State.seekWork at e'
  repeat' first
    | with_reducible assumption
    | split at e'
    | refine fr_seekDensity_eq hw ?_ (by with_reducible assumption)
    | refine fr_seekPixel_eq (Fr.sub (V := 99584) rfl hw) ?_ (by with_reducible assumption)
    | ((with_reducible refine Fr.of_pair ?_ e'); clear e')

theorem fr_seekWork {W : Nat} {s0 : State} {s : State} {w : Nat} (hw : 99584 ||| W = W) (hs : Fr W s0 s) : Fr W s0 (State.seekWork s w).1 :=
  Fr.of_eq fun _ _ e' => fr_seekWork_eq hw hs e'

theorem fr_completeSample {W : Nat} {s0 : State} {s : State} {w : Nat} {kind : PassKind} {errs : List Sys2Proof.WordFlip} (hw : 101888 ||| W = W) (hs : Fr W s0 s) :
    Fr W s0 (State.completeSample s w kind errs) := by
  unfold State.completeSample
  repeat' first
    | with_reducible assumption
    | with_reducible refine fr_sampleDone hw ?_
    | split

theorem fr_execReweaveHoldExpiry {W : Nat} {s0 : State} {t : Nat} {s : State} (hw : 101889 ||| W = W) (hs : Fr W s0 s) :
    FrO W s0 (execReweaveHoldExpiry t s) := by
  unfold execReweaveHoldExpiry
  repeat' first
    | with_reducible assumption
    | with_reducible refine fr_finish ?_ ?_
    | with_reducible refine fr_expireSamples (Fr.sub (V := 101889) rfl hw) ?_
    | with_reducible refine fr_at_ (Fr.sub (V := 101889) rfl hw) ?_

theorem fr_takePass {W : Nat} {s0 : State} {s : State} {w : Nat} (hw : 102144 ||| W = W) (hs : Fr W s0 s) :
    Fr W s0 (State.takePass s w) := by
  unfold State.takePass
  repeat' first
    | intro _
    | with_reducible assumption
    | (extract_lets +onlyGivenNames z; guard_hyp z : State := _; refine Fr.cut (x := z) ?_ (fun _ => ?_); rotate_left; clear_value z; revert z; intro _ _; rotate_left; unfold z; clear z)
    | (extract_lets +onlyGivenNames z; clear_value z; revert z; intro _)
    | with_reducible refine fr_ensureNext (Fr.sub (V := 102144) rfl hw) ?_
    | with_reducible refine fr_issuePass (Fr.sub (V := 102144) rfl hw) ?_
    | with_reducible refine fr_issueSample (Fr.sub (V := 102144) rfl hw) ?_
    | with_reducible refine fr_giveUp (Fr.sub (V := 102144) rfl hw) ?_
    | with_reducible apply Fr.ite
    | refine fr_seekWork_eq (Fr.sub (V := 102144) rfl hw) ?_ (by with_reducible assumption)
    | split

theorem fr_execArbiterDone {W : Nat} {s0 : State} {w : Nat} {errs : List Sys2Proof.WordFlip} {s : State} (hw : 101888 ||| W = W) (hs : Fr W s0 s) :
    FrO W s0 (execArbiterDone w errs s) := by
  unfold execArbiterDone
  repeat' first
    | with_reducible assumption
    | with_reducible refine fr_finish ?_ ?_
    | with_reducible refine fr_completeSample hw ?_

theorem fr_execReweaveDone {W : Nat} {s0 : State} {w : Nat} {errs : List Sys2Proof.WordFlip} {s : State} (hw : 101888 ||| W = W) (hs : Fr W s0 s) :
    FrO W s0 (execReweaveDone w errs s) := by
  unfold execReweaveDone
  repeat' first
    | with_reducible assumption
    | with_reducible refine fr_finish ?_ ?_
    | with_reducible refine fr_completeSample hw ?_

theorem fr_execWeaverTakePass {W : Nat} {s0 : State} {w : Nat} {s : State} (hw : 102144 ||| W = W) (hs : Fr W s0 s) :
    FrO W s0 (execWeaverTakePass w s) := by
  unfold execWeaverTakePass
  repeat' first
    | intro _
    | with_reducible assumption
    | with_reducible refine fr_finish ?_ ?_
    | with_reducible refine fr_takePass hw ?_
    | with_reducible apply Fr.ite

/-! Correction. -/

theorem fr_correctedSlice {W : Nat} {s0 : State} {s : State} {k : Work} {w : Nat} {l : List Nat} (hw : 1024 ||| W = W) (hs : Fr W s0 s) :
    Fr W s0 (State.correctedSlice s k w l) := by
  unfold State.correctedSlice
  repeat' first
    | intro _
    | with_reducible assumption
    | (extract_lets +onlyGivenNames z; guard_hyp z : State := _; refine Fr.cut (x := z) ?_ (fun _ => ?_); rotate_left; clear_value z; revert z; intro _ _; rotate_left; unfold z; clear z)
    | (extract_lets +onlyGivenNames z; clear_value z; revert z; intro _)
    | with_reducible refine fr_modWork hw ?_
    | with_reducible apply Fr.ite
    | ((with_reducible apply Fr.of); rotate_left 23; (with_reducible exact Or.inr rfl); rotate_left 3; with_reducible assumption; (iterate 25 (first | with_reducible exact Or.inr rfl | with_reducible exact Or.inr ⟨rfl, rfl⟩ | exact Or.inl (Fr.bit hw rfl))))
    | split

theorem fr_corHalt {W : Nat} {s0 : State} {s : State} {reason : Nat} {k : Work} {w : Nat} (hw : 1024 ||| W = W) (hs : Fr W s0 s) :
    Fr W s0 (State.corHalt s reason k w) := by
  unfold State.corHalt
  repeat' first
    | with_reducible assumption
    | (extract_lets +onlyGivenNames z; guard_hyp z : State := _; refine Fr.cut (x := z) ?_ (fun _ => ?_); rotate_left; clear_value z; revert z; intro _ _; rotate_left; unfold z; clear z)
    | (extract_lets +onlyGivenNames z; clear_value z; revert z; intro _)
    | with_reducible refine fr_corLog ?_
    | ((with_reducible apply Fr.of); rotate_left 23; (with_reducible exact Or.inr rfl); rotate_left 3; with_reducible assumption; (iterate 25 (first | with_reducible exact Or.inr rfl | with_reducible exact Or.inr ⟨rfl, rfl⟩ | exact Or.inl (Fr.bit hw rfl))))

theorem fr_execCorResume {W : Nat} {s0 : State} {s : State} (hw : 1024 ||| W = W) (hs : Fr W s0 s) :
    FrO W s0 (execCorResume s) := by
  unfold execCorResume
  repeat' first
    | intro _
    | with_reducible assumption
    | (extract_lets +onlyGivenNames z; clear_value z; revert z; intro _)
    | with_reducible refine fr_finish ?_ ?_
    | with_reducible refine fr_command ?_ ?_
    | ((with_reducible apply Fr.of); rotate_left 23; (with_reducible exact Or.inr rfl); rotate_left 3; with_reducible assumption; (iterate 25 (first | with_reducible exact Or.inr rfl | with_reducible exact Or.inr ⟨rfl, rfl⟩ | exact Or.inl (Fr.bit hw rfl))))

theorem fr_corTouch {W : Nat} {s0 : State} {s : State} {k : Work} {pg : Page} {y : Nat} {density : Bool} (hw : 98304 ||| W = W) (hs : Fr W s0 s) :
    Fr W s0 (State.corTouch s k pg y density) := by
  unfold State.corTouch
  repeat' first
    | intro _
    | with_reducible assumption
    | (extract_lets +onlyGivenNames z; guard_hyp z : State := _; refine Fr.cut (x := z) ?_ (fun _ => ?_); rotate_left; clear_value z; revert z; intro _ _; rotate_left; unfold z; clear z)
    | (extract_lets +onlyGivenNames z; clear_value z; revert z; intro _)
    | with_reducible refine fr_touch hw ?_
    | with_reducible apply Fr.ite
    | with_reducible apply Fr.foldl

theorem fr_prepareDensity {W : Nat} {s0 : State} {s : State} {k : Work} {y : Nat} (hw : 99328 ||| W = W) (hs : Fr W s0 s) :
    Fr W s0 (State.prepareDensity s k y) := by
  unfold State.prepareDensity
  repeat' first
    | intro _
    | with_reducible assumption
    | with_reducible refine fr_rebuildRows hw ?_
    | with_reducible refine fr_dmapPoison hw ?_
    | with_reducible refine fr_fillB hw ?_
    | with_reducible apply Fr.ite
    | split

theorem fr_correctSlice {W : Nat} {s0 : State} {s : State} {k : Work} {b : Bool} {w : Nat} (hw : 99328 ||| W = W) (hs : Fr W s0 s) :
    Fr W s0 (State.correctSlice s k b w) := by
  unfold State.correctSlice
  repeat' first
    | intro _
    | with_reducible assumption
    | (extract_lets +onlyGivenNames z; guard_hyp z : State := _; refine Fr.cut (x := z) ?_ (fun _ => ?_); rotate_left; clear_value z; revert z; intro _ _; rotate_left; unfold z; clear z)
    | (extract_lets +onlyGivenNames z; clear_value z; revert z; intro _)
    | with_reducible refine fr_corHalt (Fr.sub (V := 99328) rfl hw) ?_
    | with_reducible refine fr_prepareDensity hw ?_
    | with_reducible refine fr_corTouch (Fr.sub (V := 99328) rfl hw) ?_
    | with_reducible refine fr_bumpBy ?_
    | with_reducible refine fr_setReg ?_
    | with_reducible refine fr_correctedSlice (Fr.sub (V := 99328) rfl hw) ?_
    | with_reducible apply Fr.ite
    | ((with_reducible apply Fr.of); rotate_left 23; (with_reducible exact Or.inr rfl); rotate_left 3; with_reducible assumption; (iterate 25 (first | with_reducible exact Or.inr rfl | with_reducible exact Or.inr ⟨rfl, rfl⟩ | exact Or.inl (Fr.bit hw rfl))))

theorem fr_execCorrectSlice {W : Nat} {s0 : State} {stripe : Nat} {w : Nat} {s : State} (hw : 99328 ||| W = W) (hs : Fr W s0 s) :
    FrO W s0 (execCorrectSlice stripe w s) := by
  unfold execCorrectSlice
  repeat' first
    | intro _
    | with_reducible assumption
    | with_reducible refine fr_finish ?_ ?_
    | with_reducible refine fr_correctSlice hw ?_
    | with_reducible apply Fr.ite
    | split

theorem fr_execBindActive {W : Nat} {s0 : State} {s : State} (hw : 101888 ||| W = W) (hs : Fr W s0 s) :
    FrO W s0 (execBindActive s) := by
  unfold execBindActive
  repeat' first
    | intro _
    | with_reducible assumption
    | (extract_lets +onlyGivenNames z; clear_value z; revert z; intro _)
    | with_reducible refine fr_finish ?_ ?_
    | with_reducible refine fr_command ?_ ?_
    | with_reducible refine fr_bindNext hw ?_
    | with_reducible apply Fr.ite
    | ((with_reducible apply Fr.of); rotate_left 23; (with_reducible exact Or.inr rfl); rotate_left 3; with_reducible assumption; (iterate 25 (first | with_reducible exact Or.inr rfl | with_reducible exact Or.inr ⟨rfl, rfl⟩ | exact Or.inl (Fr.bit hw rfl))))

theorem fr_execBindNextStripe {W : Nat} {s0 : State} {s : State} (hw : 101888 ||| W = W) (hs : Fr W s0 s) :
    FrO W s0 (execBindNextStripe s) := by
  unfold execBindNextStripe
  repeat' first
    | with_reducible assumption
    | with_reducible refine fr_finish ?_ ?_
    | with_reducible refine fr_bindNext hw ?_

/-! Staging. -/

theorem fr_modStaged {W : Nat} {s0 : State} {s : State} {n : Nat} {f : Staged → Staged} (hw : 2048 ||| W = W) (hs : Fr W s0 s) :
    Fr W s0 (State.modStaged s n f) := by
  unfold State.modStaged
  repeat' first
    | (extract_lets +onlyGivenNames z; clear_value z; revert z; intro _)
    | ((with_reducible apply Fr.of); rotate_left 23; (with_reducible exact Or.inr rfl); rotate_left 3; with_reducible assumption; (iterate 25 (first | with_reducible exact Or.inr rfl | with_reducible exact Or.inr ⟨rfl, rfl⟩ | exact Or.inl (Fr.bit hw rfl))))

theorem fr_setHint {W : Nat} {s0 : State} {s : State} {v : Nat} (hs : Fr W s0 s) :
    Fr W s0 (State.setHint s v) := by
  unfold State.setHint
  repeat' first
    | with_reducible assumption
    | with_reducible refine fr_setReg ?_

theorem fr_groupCoded {W : Nat} {s0 : State} {s : State} {k : Work} {x2 : SliceOut} (hw : 1024 ||| W = W) (hs : Fr W s0 s) :
    Fr W s0 (State.groupCoded s k x2) := by
  unfold State.groupCoded
  repeat' first
    | intro _
    | with_reducible assumption
    | (extract_lets +onlyGivenNames z; guard_hyp z : State := _; refine Fr.cut (x := z) ?_ (fun _ => ?_); rotate_left; clear_value z; revert z; intro _ _; rotate_left; unfold z; clear z)
    | (extract_lets +onlyGivenNames z; clear_value z; revert z; intro _)
    | with_reducible refine fr_modWork hw ?_
    | with_reducible refine fr_bump ?_
    | with_reducible apply Fr.ite

theorem fr_writeData {W : Nat} {s0 : State} {s : State} {n : Nat} {data : List Sys2Proof.Byte} {chunks : List Nat} (hw : 98304 ||| W = W) (hs : Fr W s0 s) :
    Fr W s0 (State.writeData s n data chunks) := by
  unfold State.writeData
  repeat' first
    | intro _
    | with_reducible assumption
    | (extract_lets +onlyGivenNames z; guard_hyp z : State := _; refine Fr.cut (x := z) ?_ (fun _ => ?_); rotate_left; clear_value z; revert z; intro _ _; rotate_left; unfold z; clear z)
    | (extract_lets +onlyGivenNames z; clear_value z; revert z; intro _)
    | with_reducible refine fr_memWrite hw ?_
    | with_reducible apply Fr.foldl

theorem fr_releaseHint {W : Nat} {s0 : State} {s : State} (hw : 2048 ||| W = W) (hs : Fr W s0 s) :
    Fr W s0 (State.releaseHint s) := by
  unfold State.releaseHint
  repeat' first
    | intro _
    | with_reducible assumption
    | (extract_lets +onlyGivenNames z; clear_value z; revert z; intro _)
    | with_reducible refine fr_raise ?_
    | with_reducible refine fr_setHint ?_
    | with_reducible apply Fr.ite
    | ((with_reducible apply Fr.of); rotate_left 23; (with_reducible exact Or.inr rfl); rotate_left 3; with_reducible assumption; (iterate 25 (first | with_reducible exact Or.inr rfl | with_reducible exact Or.inr ⟨rfl, rfl⟩ | exact Or.inl (Fr.bit hw rfl))))

theorem fr_takeChunk {W : Nat} {s0 : State} {a : Nat} {a1 : State} {a2 : Nat} (hw : 100352 ||| W = W) (ha1 : Fr W s0 a1) :
    Fr W s0 (State.takeChunk a a1 a2) := by
  induction a generalizing a1 a2 with
  | zero =>
    unfold State.takeChunk
    repeat' (with_reducible assumption)
  | succ n ih =>
    unfold State.takeChunk
    repeat' first
      | intro _
      | with_reducible assumption
      | (extract_lets +onlyGivenNames z; guard_hyp z : State := _; refine Fr.cut (x := z) ?_ (fun _ => ?_); rotate_left; clear_value z; revert z; intro _ _; rotate_left; unfold z; clear z)
      | (extract_lets +onlyGivenNames z; clear_value z; revert z; intro _)
      | with_reducible apply ih
      | with_reducible refine fr_memWrite64 (Fr.sub (V := 100352) rfl hw) ?_
      | with_reducible apply Fr.ite
      | ((with_reducible apply Fr.of); rotate_left 23; (with_reducible exact Or.inr rfl); rotate_left 3; with_reducible assumption; (iterate 25 (first | with_reducible exact Or.inr rfl | with_reducible exact Or.inr ⟨rfl, rfl⟩ | exact Or.inl (Fr.bit hw rfl))))

theorem fr_projectHint {W : Nat} {s0 : State} {s : State} (hw : 2048 ||| W = W) (hs : Fr W s0 s) :
    Fr W s0 (State.projectHint s) := by
  unfold State.projectHint
  repeat' first
    | intro _
    | with_reducible assumption
    | (extract_lets +onlyGivenNames z; guard_hyp z : State := _; refine Fr.cut (x := z) ?_ (fun _ => ?_); rotate_left; clear_value z; revert z; intro _ _; rotate_left; unfold z; clear z)
    | (extract_lets +onlyGivenNames z; clear_value z; revert z; intro _)
    | with_reducible refine fr_setReg ?_
    | with_reducible refine fr_releaseHint hw ?_
    | with_reducible refine fr_setHint ?_
    | with_reducible refine fr_raise ?_
    | with_reducible refine fr_bump ?_
    | with_reducible apply Fr.ite
    | ((with_reducible apply Fr.of); rotate_left 23; (with_reducible exact Or.inr rfl); rotate_left 3; with_reducible assumption; (iterate 25 (first | with_reducible exact Or.inr rfl | with_reducible exact Or.inr ⟨rfl, rfl⟩ | exact Or.inl (Fr.bit hw rfl))))

theorem fr_takeChunks {W : Nat} {s0 : State} {a : Nat} {a1 : State} {a2 : Nat} (hw : 100352 ||| W = W) (ha1 : Fr W s0 a1) :
    Fr W s0 (State.takeChunks a a1 a2) := by
  induction a generalizing a1 a2 with
  | zero =>
    unfold State.takeChunks
    repeat' (with_reducible assumption)
  | succ n ih =>
    unfold State.takeChunks
    repeat' first
      | intro _
      | with_reducible assumption
      | (extract_lets +onlyGivenNames z; guard_hyp z : State := _; refine Fr.cut (x := z) ?_ (fun _ => ?_); rotate_left; clear_value z; revert z; intro _ _; rotate_left; unfold z; clear z)
      | with_reducible apply ih
      | with_reducible refine fr_takeChunk hw ?_
      | with_reducible apply Fr.ite

theorem fr_execHintProjection {W : Nat} {s0 : State} {t : Nat} {s : State} (hw : 2049 ||| W = W) (hs : Fr W s0 s) :
    FrO W s0 (execHintProjection t s) := by
  unfold execHintProjection
  repeat' first
    | with_reducible assumption
    | with_reducible refine fr_finish ?_ ?_
    | with_reducible refine fr_projectHint (Fr.sub (V := 2049) rfl hw) ?_
    | with_reducible refine fr_at_ (Fr.sub (V := 2049) rfl hw) ?_

theorem fr_yieldReplay {W : Nat} {s0 : State} {a : Nat} {a1 : State} (hw : 102144 ||| W = W) (ha1 : Fr W s0 a1) :
    Fr W s0 (State.yieldReplay a a1) := by
  induction a generalizing a1 with
  | zero =>
    unfold State.yieldReplay
    repeat' (with_reducible assumption)
  | succ n ih =>
    unfold State.yieldReplay
    repeat' first
      | intro _
      | with_reducible assumption
      | with_reducible apply ih
      | with_reducible refine fr_bump ?_
      | with_reducible refine fr_releaseTo hw ?_
      | with_reducible apply Fr.ite
      | split

theorem fr_releaseReplay {W : Nat} {s0 : State} {s : State} (hw : 102144 ||| W = W) (hs : Fr W s0 s) :
    Fr W s0 (State.releaseReplay s) := by
  unfold State.releaseReplay
  repeat' first
    | with_reducible assumption
    | (extract_lets +onlyGivenNames z; clear_value z; revert z; intro _)
    | with_reducible refine fr_releaseTo hw ?_
    | split

theorem fr_fpPoison {W : Nat} {s0 : State} {s : State} {n : Nat} (hw : 101376 ||| W = W) (hs : Fr W s0 s) :
    Fr W s0 (State.fpPoison s n) := by
  unfold State.fpPoison
  repeat' first
    | intro _
    | with_reducible assumption
    | (extract_lets +onlyGivenNames z; guard_hyp z : State := _; refine Fr.cut (x := z) ?_ (fun _ => ?_); rotate_left; clear_value z; revert z; intro _ _; rotate_left; unfold z; clear z)
    | (extract_lets +onlyGivenNames z; clear_value z; revert z; intro _)
    | with_reducible refine fr_invalidateRows hw ?_
    | with_reducible refine fr_modStaged (Fr.sub (V := 101376) rfl hw) ?_
    | with_reducible refine fr_stgLog ?_
    | with_reducible apply Fr.ite
    | ((with_reducible apply Fr.of); rotate_left 23; (with_reducible exact Or.inr rfl); rotate_left 3; with_reducible assumption; (iterate 25 (first | with_reducible exact Or.inr rfl | with_reducible exact Or.inr ⟨rfl, rfl⟩ | exact Or.inl (Fr.bit hw rfl))))
    | split

theorem fr_stagingPoison {W : Nat} {s0 : State} {s : State} {n : Nat} {check : Bool} (hw : 101376 ||| W = W) (hs : Fr W s0 s) :
    Fr W s0 (State.stagingPoison s n check) := by
  unfold State.stagingPoison
  repeat' first
    | intro _
    | with_reducible assumption
    | (extract_lets +onlyGivenNames z; guard_hyp z : State := _; refine Fr.cut (x := z) ?_ (fun _ => ?_); rotate_left; clear_value z; revert z; intro _ _; rotate_left; unfold z; clear z)
    | (extract_lets +onlyGivenNames z; clear_value z; revert z; intro _)
    | with_reducible refine fr_raise ?_
    | with_reducible refine fr_bump ?_
    | with_reducible refine fr_stgLog ?_
    | with_reducible refine fr_modStaged (Fr.sub (V := 101376) rfl hw) ?_
    | with_reducible refine fr_invalidateRows hw ?_
    | with_reducible apply Fr.ite
    | split

theorem fr_yields {W : Nat} {s0 : State} {s : State} (hw : 102144 ||| W = W) (hs : Fr W s0 s) :
    Fr W s0 (State.yields s) := by
  unfold State.yields
  repeat' first
    | with_reducible assumption
    | with_reducible refine fr_yieldReplay hw ?_

theorem fr_expand {W : Nat} {s0 : State} {s : State} {n : Nat} (hw : 101376 ||| W = W) (hs : Fr W s0 s) :
    Fr W s0 (State.expand s n) := by
  unfold State.expand
  repeat' first
    | intro _
    | with_reducible assumption
    | (extract_lets +onlyGivenNames z; guard_hyp z : State := _; refine Fr.cut (x := z) ?_ (fun _ => ?_); rotate_left; clear_value z; revert z; intro _ _; rotate_left; unfold z; clear z)
    | (extract_lets +onlyGivenNames z; clear_value z; revert z; intro _)
    | with_reducible refine fr_touch (Fr.sub (V := 101376) rfl hw) ?_
    | with_reducible refine fr_stagingPoison hw ?_
    | with_reducible refine fr_modStaged (Fr.sub (V := 101376) rfl hw) ?_
    | with_reducible refine fr_memWrite (Fr.sub (V := 101376) rfl hw) ?_
    | with_reducible apply Fr.ite
    | with_reducible apply Fr.foldl
    | ((with_reducible apply Fr.of); rotate_left 23; (with_reducible exact Or.inr rfl); rotate_left 3; with_reducible assumption; (iterate 25 (first | with_reducible exact Or.inr rfl | with_reducible exact Or.inr ⟨rfl, rfl⟩ | exact Or.inl (Fr.bit hw rfl))))
    | split

theorem fr_codeSlice {W : Nat} {s0 : State} {s : State} {k : Work} {nb : Nat} {x3 : SliceOut} (hw : 102144 ||| W = W) (hs : Fr W s0 s) :
    Fr W s0 (State.codeSlice s k nb x3) := by
  unfold State.codeSlice
  repeat' first
    | intro _
    | with_reducible assumption
    | (extract_lets +onlyGivenNames z; guard_hyp z : State := _; refine Fr.cut (x := z) ?_ (fun _ => ?_); rotate_left; clear_value z; revert z; intro _ _; rotate_left; unfold z; clear z)
    | (extract_lets +onlyGivenNames z; clear_value z; revert z; intro _)
    | with_reducible refine fr_groupCoded (Fr.sub (V := 102144) rfl hw) ?_
    | with_reducible refine fr_yields hw ?_
    | with_reducible refine fr_takeChunks (Fr.sub (V := 102144) rfl hw) ?_
    | with_reducible refine fr_bump ?_
    | with_reducible refine fr_memWrite (Fr.sub (V := 102144) rfl hw) ?_
    | with_reducible refine fr_writeData (Fr.sub (V := 102144) rfl hw) ?_
    | with_reducible refine fr_bumpBy ?_
    | with_reducible refine fr_stgLog ?_
    | with_reducible refine fr_releaseHint (Fr.sub (V := 102144) rfl hw) ?_
    | with_reducible apply Fr.ite
    | ((with_reducible apply Fr.of); rotate_left 23; (with_reducible exact Or.inr rfl); rotate_left 3; with_reducible assumption; (iterate 25 (first | with_reducible exact Or.inr rfl | with_reducible exact Or.inr ⟨rfl, rfl⟩ | exact Or.inl (Fr.bit hw rfl))))

theorem fr_execExpandSlice {W : Nat} {s0 : State} {n : Nat} {s : State} (hw : 101376 ||| W = W) (hs : Fr W s0 s) :
    FrO W s0 (execExpandSlice n s) := by
  unfold execExpandSlice
  repeat' first
    | with_reducible assumption
    | with_reducible refine fr_finish ?_ ?_
    | with_reducible refine fr_expand hw ?_

theorem fr_encode {W : Nat} {s0 : State} {s : State} {id : Nat} {w : Nat} (hw : 102144 ||| W = W) (hs : Fr W s0 s) :
    Fr W s0 (State.encode s id w) := by
  unfold State.encode
  repeat' first
    | intro _
    | with_reducible assumption
    | with_reducible refine fr_codeSlice hw ?_
    | with_reducible apply Fr.ite
    | split

theorem fr_execSliceCoded {W : Nat} {s0 : State} {stripe : Nat} {w : Nat} {s : State} (hw : 102144 ||| W = W) (hs : Fr W s0 s) :
    FrO W s0 (execSliceCoded stripe w s) := by
  unfold execSliceCoded
  repeat' first
    | with_reducible assumption
    | with_reducible refine fr_finish ?_ ?_
    | with_reducible refine fr_encode hw ?_
    | split

theorem fr_execEncoderResume {W : Nat} {s0 : State} {s : State} (hw : 102144 ||| W = W) (hs : Fr W s0 s) :
    FrO W s0 (execEncoderResume s) := by
  unfold execEncoderResume
  repeat' first
    | with_reducible assumption
    | with_reducible refine fr_finish ?_ ?_
    | with_reducible refine fr_encode hw ?_
    | split

end Sys2Proof.Laws
end

