-- ==== Sys2Proof/Laws/FrameRun.lean ====
section
/-! SUPPORT. What the beam feed's ledger, the bound run and the memory channels leave as it was: one lemma for each operation and each command (see Frame). -/

namespace Sys2Proof.Laws

open Sys2Proof.Machine

/-! Run. -/

theorem fr_sendBlocks {W : Nat} {s0 : State} {s : State} {bs : List (Nat × Nat)} (hw : 16384 ||| W = W) (hs : Fr W s0 s) :
    Fr W s0 (State.sendBlocks s bs) := by
  unfold State.sendBlocks
  repeat' first
    | (extract_lets +onlyGivenNames z; clear_value z; revert z; intro _)
    | ((with_reducible apply Fr.of); rotate_left 23; (with_reducible exact Or.inr rfl); rotate_left 3; with_reducible assumption; (iterate 25 (first | with_reducible exact Or.inr rfl | with_reducible exact Or.inr ⟨rfl, rfl⟩ | exact Or.inl (Fr.bit hw rfl))))

theorem fr_failLane {W : Nat} {s0 : State} {s : State} {p : Nat} {code : Nat} {st : LaneState} (hw : 16384 ||| W = W) (hs : Fr W s0 s) :
    Fr W s0 (State.failLane s p code st) := by
  unfold State.failLane
  repeat' first
    | with_reducible assumption
    | with_reducible refine fr_setReg ?_
    | with_reducible refine fr_modLane hw ?_

theorem fr_laneLost {W : Nat} {s0 : State} {s : State} {p : Nat} (hs : Fr W s0 s) :
    Fr W s0 (State.laneLost s p) := by
  unfold State.laneLost
  repeat' first
    | with_reducible assumption
    | with_reducible refine fr_histBump ?_

theorem fr_sendEnd {W : Nat} {s0 : State} {s : State} (hw : 16448 ||| W = W) (hs : Fr W s0 s) :
    Fr W s0 (State.sendEnd s) := by
  unfold State.sendEnd
  repeat' first
    | intro _
    | with_reducible assumption
    | (extract_lets +onlyGivenNames z; guard_hyp z : State := _; refine Fr.cut (x := z) ?_ (fun _ => ?_); rotate_left; clear_value z; revert z; intro _ _; rotate_left; unfold z; clear z)
    | (extract_lets +onlyGivenNames z; clear_value z; revert z; intro _)
    | with_reducible refine fr_modRun (Fr.sub (V := 16448) rfl hw) ?_
    | with_reducible refine fr_sendBlocks (Fr.sub (V := 16448) rfl hw) ?_
    | with_reducible apply Fr.ite
    | ((with_reducible apply Fr.of); rotate_left 23; (with_reducible exact Or.inr rfl); rotate_left 3; with_reducible assumption; (iterate 25 (first | with_reducible exact Or.inr rfl | with_reducible exact Or.inr ⟨rfl, rfl⟩ | exact Or.inl (Fr.bit hw rfl))))
    | split

theorem fr_trkLog {W : Nat} {s0 : State} {s : State} {code : Nat} {stop : Bool} (hs : Fr W s0 s) :
    Fr W s0 (State.trkLog s code stop) := by
  unfold State.trkLog
  repeat' first
    | with_reducible assumption
    | with_reducible refine fr_setRegs ?_

theorem fr_lnkLog {W : Nat} {s0 : State} {s : State} {code : Nat} {lane : Nat} {llane : Nat} (hs : Fr W s0 s) :
    Fr W s0 (State.lnkLog s code lane llane) := by
  unfold State.lnkLog
  repeat' first
    | with_reducible assumption
    | with_reducible refine fr_setRegs ?_
    | with_reducible refine fr_bump ?_

theorem fr_nakCount {W : Nat} {s0 : State} {s : State} {p : Nat} (hs : Fr W s0 s) :
    Fr W s0 (State.nakCount s p) := by
  unfold State.nakCount
  repeat' first
    | with_reducible assumption
    | with_reducible refine fr_laneLost ?_
    | with_reducible refine fr_bump ?_

theorem fr_laneDown {W : Nat} {s0 : State} {s : State} {l : Nat} {p : Nat} (hw : 16384 ||| W = W) (hs : Fr W s0 s) :
    Fr W s0 (State.laneDown s l p) := by
  unfold State.laneDown
  repeat' first
    | (extract_lets +onlyGivenNames z; clear_value z; revert z; intro _)
    | with_reducible refine fr_lnkLog ?_
    | ((with_reducible apply Fr.of); rotate_left 23; (with_reducible exact Or.inr rfl); rotate_left 3; with_reducible assumption; (iterate 25 (first | with_reducible exact Or.inr rfl | with_reducible exact Or.inr ⟨rfl, rfl⟩ | exact Or.inl (Fr.bit hw rfl))))

theorem fr_retireLane {W : Nat} {s0 : State} {s : State} {p : Nat} (hw : 16384 ||| W = W) (hs : Fr W s0 s) :
    Fr W s0 (State.retireLane s p) := by
  unfold State.retireLane
  repeat' first
    | with_reducible assumption
    | with_reducible refine fr_withyChange ?_
    | with_reducible refine fr_modLane hw ?_

theorem fr_writeEntry {W : Nat} {s0 : State} {s : State} {r : Run} {es : List HoleEntry} (hw : 98304 ||| W = W) (hs : Fr W s0 s) :
    Fr W s0 (State.writeEntry s r es) := by
  unfold State.writeEntry
  repeat' first
    | with_reducible assumption
    | with_reducible refine fr_setReg ?_
    | with_reducible refine fr_memWrite hw ?_
    | split

theorem fr_swapOut {W : Nat} {s0 : State} {s : State} {p : Nat} (hw : 16384 ||| W = W) (hs : Fr W s0 s) :
    Fr W s0 (State.swapOut s p) := by
  unfold State.swapOut
  repeat' first
    | intro _
    | with_reducible assumption
    | (extract_lets +onlyGivenNames z; guard_hyp z : State := _; refine Fr.cut (x := z) ?_ (fun _ => ?_); rotate_left; clear_value z; revert z; intro _ _; rotate_left; unfold z; clear z)
    | (extract_lets +onlyGivenNames z; clear_value z; revert z; intro _)
    | with_reducible refine fr_withyChange ?_
    | with_reducible refine fr_retireLane hw ?_
    | with_reducible apply Fr.ite

theorem fr_addShots {W : Nat} {s0 : State} {s : State} {n : Nat} (hw : 64 ||| W = W) (hs : Fr W s0 s) :
    Fr W s0 (State.addShots s n) := by
  unfold State.addShots
  repeat' first
    | intro _
    | with_reducible assumption
    | with_reducible refine fr_once hw ?_ ?_
    | with_reducible refine fr_modRun hw ?_
    | with_reducible refine fr_bumpBy ?_
    | with_reducible refine fr_raise ?_
    | with_reducible apply Fr.ite

theorem fr_bmfLog {W : Nat} {s0 : State} {s : State} {reason : Nat} {quad : Nat} {tick : Nat} (hs : Fr W s0 s) :
    Fr W s0 (State.bmfLog s reason quad tick) := by
  unfold State.bmfLog
  repeat' first
    | with_reducible assumption
    | with_reducible refine fr_raise ?_
    | with_reducible refine fr_setRegs ?_
    | with_reducible refine fr_bump ?_

theorem fr_addShort {W : Nat} {s0 : State} {s : State} {n : Nat} (hw : 64 ||| W = W) (hs : Fr W s0 s) :
    Fr W s0 (State.addShort s n) := by
  unfold State.addShort
  repeat' first
    | intro _
    | with_reducible assumption
    | with_reducible refine fr_once hw ?_ ?_
    | with_reducible refine fr_modRun hw ?_
    | with_reducible refine fr_bumpBy ?_
    | with_reducible refine fr_raise ?_
    | with_reducible apply Fr.ite

theorem fr_giveSpare {W : Nat} {s0 : State} {s : State} {l : Nat} {p : Nat} {sp : Nat} (hw : 16384 ||| W = W) (hs : Fr W s0 s) :
    Fr W s0 (State.giveSpare s l p sp) := by
  unfold State.giveSpare
  repeat' first
    | with_reducible assumption
    | (extract_lets +onlyGivenNames z; guard_hyp z : State := _; refine Fr.cut (x := z) ?_ (fun _ => ?_); rotate_left; clear_value z; revert z; intro _ _; rotate_left; unfold z; clear z)
    | (extract_lets +onlyGivenNames z; clear_value z; revert z; intro _)
    | (extract_lets +onlyGivenNames z; revert z; intro _)
    | with_reducible refine fr_modLane hw ?_
    | with_reducible refine fr_sendBlocks hw ?_
    | with_reducible refine fr_raise ?_
    | with_reducible refine fr_swapOut hw ?_
    | with_reducible refine fr_bump ?_
    | split

theorem fr_takeShorts {W : Nat} {s0 : State} {s : State} {m : HoleMark} (hw : 4160 ||| W = W) (hs : Fr W s0 s) :
    Fr W s0 (State.takeShorts s m) := by
  unfold State.takeShorts
  repeat' first
    | (extract_lets +onlyGivenNames z; clear_value z; revert z; intro _)
    | with_reducible refine fr_addShort (Fr.sub (V := 4160) rfl hw) ?_
    | ((with_reducible apply Fr.of); rotate_left 23; (with_reducible exact Or.inr rfl); rotate_left 3; with_reducible assumption; (iterate 25 (first | with_reducible exact Or.inr rfl | with_reducible exact Or.inr ⟨rfl, rfl⟩ | exact Or.inl (Fr.bit hw rfl))))

theorem fr_holeRaw {W : Nat} {s0 : State} {s : State} {c : HoleCause} {k : Nat} {r0 : Nat} {r1 : Nat} (hw : 102464 ||| W = W) (hs : Fr W s0 s) :
    Fr W s0 (State.holeRaw s c k r0 r1) := by
  unfold State.holeRaw
  repeat' first
    | intro _
    | with_reducible assumption
    | (extract_lets +onlyGivenNames z; guard_hyp z : State := _; refine Fr.cut (x := z) ?_ (fun _ => ?_); rotate_left; clear_value z; revert z; intro _ _; rotate_left; unfold z; clear z)
    | (extract_lets +onlyGivenNames z; clear_value z; revert z; intro _)
    | with_reducible refine fr_takeShorts (Fr.sub (V := 102464) rfl hw) ?_
    | with_reducible refine fr_addShots (Fr.sub (V := 102464) rfl hw) ?_
    | with_reducible refine fr_writeEntry (Fr.sub (V := 102464) rfl hw) ?_
    | with_reducible refine fr_modRun (Fr.sub (V := 102464) rfl hw) ?_
    | with_reducible apply Fr.ite
    | ((with_reducible apply Fr.of); rotate_left 23; (with_reducible exact Or.inr rfl); rotate_left 3; with_reducible assumption; (iterate 25 (first | with_reducible exact Or.inr rfl | with_reducible exact Or.inr ⟨rfl, rfl⟩ | exact Or.inl (Fr.bit hw rfl))))
    | split

theorem fr_truncateAt {W : Nat} {s0 : State} {s : State} {r : Run} {src : Nat} {t : Int} {stop : Bool} (hw : 20560 ||| W = W) (hs : Fr W s0 s) :
    Fr W s0 (State.truncateAt s r src t stop) := by
  unfold State.truncateAt
  repeat' first
    | intro _
    | with_reducible assumption
    | (extract_lets +onlyGivenNames z; guard_hyp z : State := _; refine Fr.cut (x := z) ?_ (fun _ => ?_); rotate_left; clear_value z; revert z; intro _ _; rotate_left; unfold z; clear z)
    | (extract_lets +onlyGivenNames z; clear_value z; revert z; intro _)
    | with_reducible refine fr_setRegs ?_
    | with_reducible refine fr_bump ?_
    | with_reducible refine fr_modRun (Fr.sub (V := 20560) rfl hw) ?_
    | with_reducible refine fr_takeShorts (Fr.sub (V := 20560) rfl hw) ?_
    | with_reducible refine fr_addShots (Fr.sub (V := 20560) rfl hw) ?_
    | with_reducible refine fr_sendEnd (Fr.sub (V := 20560) rfl hw) ?_
    | with_reducible apply Fr.ite
    | ((with_reducible apply Fr.of); rotate_left 23; (with_reducible exact Or.inr rfl); rotate_left 3; with_reducible assumption; (iterate 25 (first | with_reducible exact Or.inr rfl | with_reducible exact Or.inr ⟨rfl, rfl⟩ | exact Or.inl (Fr.bit hw rfl))))

theorem fr_closeRun {W : Nat} {s0 : State} {s : State} {r : Run} {ending : Nat} (hw : 41969880 ||| W = W) (hs : Fr W s0 s) :
    Fr W s0 (State.closeRun s r ending) := by
  unfold State.closeRun
  repeat' first
    | with_reducible assumption
    | (extract_lets +onlyGivenNames z; guard_hyp z : State := _; refine Fr.cut (x := z) ?_ (fun _ => ?_); rotate_left; clear_value z; revert z; intro _ _; rotate_left; unfold z; clear z)
    | (extract_lets +onlyGivenNames z; clear_value z; revert z; intro _)
    | with_reducible refine fr_releaseHint (Fr.sub (V := 41969880) rfl hw) ?_
    | with_reducible refine fr_tellRunEnd (Fr.sub (V := 41969880) rfl hw) ?_
    | with_reducible refine fr_trigger ?_
    | ((with_reducible apply Fr.of); rotate_left 23; (with_reducible exact Or.inr rfl); rotate_left 3; with_reducible assumption; (iterate 25 (first | with_reducible exact Or.inr rfl | with_reducible exact Or.inr ⟨rfl, rfl⟩ | exact Or.inl (Fr.bit hw rfl))))

theorem fr_endRun {W : Nat} {s0 : State} {s : State} (hw : 42073816 ||| W = W) (hs : Fr W s0 s) :
    Fr W s0 (State.endRun s) := by
  unfold State.endRun
  repeat' first
    | intro _
    | with_reducible assumption
    | (extract_lets +onlyGivenNames z; guard_hyp z : State := _; refine Fr.cut (x := z) ?_ (fun _ => ?_); rotate_left; clear_value z; revert z; intro _ _; rotate_left; unfold z; clear z)
    | (extract_lets +onlyGivenNames z; clear_value z; revert z; intro _)
    | with_reducible refine fr_writeEntry (Fr.sub (V := 42073816) rfl hw) ?_
    | with_reducible refine fr_modRun (Fr.sub (V := 42073816) rfl hw) ?_
    | with_reducible refine fr_memWrite (Fr.sub (V := 42073816) rfl hw) ?_
    | with_reducible refine fr_modWork (Fr.sub (V := 42073816) rfl hw) ?_
    | with_reducible refine fr_keepPasses (Fr.sub (V := 42073816) rfl hw) ?_
    | with_reducible refine fr_sweepWorks (Fr.sub (V := 42073816) rfl hw) ?_
    | with_reducible refine fr_closeRun (Fr.sub (V := 42073816) rfl hw) ?_
    | with_reducible apply Fr.ite
    | ((with_reducible apply Fr.of); rotate_left 23; (with_reducible exact Or.inr rfl); rotate_left 3; with_reducible assumption; (iterate 25 (first | with_reducible exact Or.inr rfl | with_reducible exact Or.inr ⟨rfl, rfl⟩ | exact Or.inl (Fr.bit hw rfl))))
    | split

theorem fr_abandonRun {W : Nat} {s0 : State} {s : State} {r : Run} {src : Nat} (hw : 42069722 ||| W = W) (hs : Fr W s0 s) :
    Fr W s0 (State.abandonRun s r src) := by
  unfold State.abandonRun
  repeat' first
    | with_reducible assumption
    | (extract_lets +onlyGivenNames z; guard_hyp z : State := _; refine Fr.cut (x := z) ?_ (fun _ => ?_); rotate_left; clear_value z; revert z; intro _ _; rotate_left; unfold z; clear z)
    | with_reducible refine fr_next (Fr.sub (V := 42069722) rfl hw) ?_
    | with_reducible refine fr_setRegs ?_
    | with_reducible refine fr_bump ?_
    | with_reducible refine fr_abandonWork (Fr.sub (V := 42069722) rfl hw) ?_
    | with_reducible refine fr_closeRun (Fr.sub (V := 42069722) rfl hw) ?_
    | split

theorem fr_truncate {W : Nat} {s0 : State} {s : State} {src : Nat} {t : Run → Int} {stop : Bool} (hw : 42073818 ||| W = W) (hs : Fr W s0 s) :
    Fr W s0 (State.truncate s src t stop) := by
  unfold State.truncate
  repeat' first
    | intro _
    | with_reducible assumption
    | with_reducible refine fr_abandonRun (Fr.sub (V := 42073818) rfl hw) ?_
    | with_reducible refine fr_truncateAt (Fr.sub (V := 42073818) rfl hw) ?_
    | with_reducible apply Fr.ite
    | split

theorem fr_condition {W : Nat} {s0 : State} {s : State} {code : Nat} {same : optParam Bool Bool.false} (hw : 42073818 ||| W = W) (hs : Fr W s0 s) :
    Fr W s0 (State.condition s code same) := by
  unfold State.condition
  repeat' first
    | intro _
    | with_reducible assumption
    | (extract_lets +onlyGivenNames z; guard_hyp z : State := _; refine Fr.cut (x := z) ?_ (fun _ => ?_); rotate_left; clear_value z; revert z; intro _ _; rotate_left; unfold z; clear z)
    | (extract_lets +onlyGivenNames z; clear_value z; revert z; intro _)
    | with_reducible refine fr_raise ?_
    | with_reducible refine fr_trkLog ?_
    | with_reducible refine fr_setReg64 ?_
    | with_reducible refine fr_truncate hw ?_
    | with_reducible refine fr_modRun (Fr.sub (V := 42073818) rfl hw) ?_
    | with_reducible apply Fr.ite
    | split

theorem fr_truncateNow {W : Nat} {s0 : State} {s : State} {src : Nat} (hw : 42073818 ||| W = W) (hs : Fr W s0 s) :
    Fr W s0 (State.truncateNow s src) := by
  unfold State.truncateNow
  repeat' first
    | with_reducible assumption
    | with_reducible refine fr_truncate hw ?_

theorem fr_hole {W : Nat} {s0 : State} {s : State} {c : HoleCause} {k : Nat} {r0 : Nat} {r1 : Nat} (hw : 42073818 ||| W = W) (hs : Fr W s0 s) :
    Fr W s0 (State.hole s c k r0 r1) := by
  unfold State.hole
  repeat' first
    | intro _
    | with_reducible assumption
    | (extract_lets +onlyGivenNames z; guard_hyp z : State := _; refine Fr.cut (x := z) ?_ (fun _ => ?_); rotate_left; clear_value z; revert z; intro _ _; rotate_left; unfold z; clear z)
    | with_reducible refine fr_holeRaw (Fr.sub (V := 42073818) rfl hw) ?_
    | with_reducible refine fr_once (Fr.sub (V := 42073818) rfl hw) ?_ ?_
    | with_reducible refine fr_truncateNow hw ?_
    | with_reducible refine fr_raise ?_
    | with_reducible refine fr_bmfLog ?_
    | with_reducible apply Fr.ite
    | split

theorem fr_frameLost {W : Nat} {s0 : State} {s : State} {l : Nat} {k : Nat} {rows : List (Nat × Nat)} (hw : 42073818 ||| W = W) (hs : Fr W s0 s) :
    Fr W s0 (State.frameLost s l k rows) := by
  unfold State.frameLost
  repeat' first
    | intro _
    | with_reducible assumption
    | (extract_lets +onlyGivenNames z; guard_hyp z : State := _; refine Fr.cut (x := z) ?_ (fun _ => ?_); rotate_left; clear_value z; revert z; intro _ _; rotate_left; unfold z; clear z)
    | (extract_lets +onlyGivenNames z; clear_value z; revert z; intro _)
    | with_reducible refine fr_bump ?_
    | with_reducible refine fr_hole hw ?_
    | with_reducible refine fr_once (Fr.sub (V := 42073818) rfl hw) ?_ ?_
    | with_reducible refine fr_raise ?_
    | with_reducible apply Fr.foldl
    | ((with_reducible apply Fr.of); rotate_left 23; (with_reducible exact Or.inr rfl); rotate_left 3; with_reducible assumption; (iterate 25 (first | with_reducible exact Or.inr rfl | with_reducible exact Or.inr ⟨rfl, rfl⟩ | exact Or.inl (Fr.bit hw rfl))))

theorem fr_loseAll {W : Nat} {s0 : State} {s : State} {l : Nat} {p : Nat} (hw : 42073818 ||| W = W) (hs : Fr W s0 s) :
    Fr W s0 (State.loseAll s l p) := by
  unfold State.loseAll
  repeat' first
    | intro _
    | with_reducible assumption
    | with_reducible refine fr_frameLost hw ?_
    | with_reducible refine fr_nakCount ?_
    | with_reducible apply Fr.foldl

theorem fr_laneFault {W : Nat} {s0 : State} {s : State} {p : Nat} {code : Nat} (hw : 42073818 ||| W = W) (hs : Fr W s0 s) :
    Fr W s0 (State.laneFault s p code) := by
  unfold State.laneFault
  repeat' first
    | intro _
    | with_reducible assumption
    | (extract_lets +onlyGivenNames z; guard_hyp z : State := _; refine Fr.cut (x := z) ?_ (fun _ => ?_); rotate_left; clear_value z; revert z; intro _ _; rotate_left; unfold z; clear z)
    | (extract_lets +onlyGivenNames z; clear_value z; revert z; intro _)
    | with_reducible refine fr_failLane (Fr.sub (V := 42073818) rfl hw) ?_
    | with_reducible refine fr_loseAll hw ?_
    | with_reducible refine fr_raise ?_
    | with_reducible refine fr_lnkLog ?_
    | with_reducible refine fr_laneDown (Fr.sub (V := 42073818) rfl hw) ?_
    | with_reducible refine fr_giveSpare (Fr.sub (V := 42073818) rfl hw) ?_
    | with_reducible refine fr_truncateNow hw ?_
    | with_reducible apply Fr.ite
    | ((with_reducible apply Fr.of); rotate_left 23; (with_reducible exact Or.inr rfl); rotate_left 3; with_reducible assumption; (iterate 25 (first | with_reducible exact Or.inr rfl | with_reducible exact Or.inr ⟨rfl, rfl⟩ | exact Or.inl (Fr.bit hw rfl))))
    | split

theorem fr_frameNak {W : Nat} {s0 : State} {s : State} {l : Nat} {k : Nat} {rows : List (Nat × Nat)} (hw : 42073818 ||| W = W) (hs : Fr W s0 s) :
    Fr W s0 (State.frameNak s l k rows) := by
  unfold State.frameNak
  repeat' first
    | intro _
    | with_reducible assumption
    | (extract_lets +onlyGivenNames z; guard_hyp z : State := _; refine Fr.cut (x := z) ?_ (fun _ => ?_); rotate_left; clear_value z; revert z; intro _ _; rotate_left; unfold z; clear z)
    | with_reducible refine fr_frameLost hw ?_
    | with_reducible refine fr_nakCount ?_
    | with_reducible refine fr_modLane (Fr.sub (V := 42073818) rfl hw) ?_
    | with_reducible refine fr_laneFault hw ?_
    | with_reducible apply Fr.ite
    | split

theorem fr_lateFrames {W : Nat} {s0 : State} {s : State} {k : Nat} (hw : 42073818 ||| W = W) (hs : Fr W s0 s) :
    Fr W s0 (State.lateFrames s k) := by
  unfold State.lateFrames
  repeat' first
    | intro _
    | with_reducible assumption
    | (extract_lets +onlyGivenNames z; guard_hyp z : State := _; refine Fr.cut (x := z) ?_ (fun _ => ?_); rotate_left; clear_value z; revert z; intro _ _; rotate_left; unfold z; clear z)
    | with_reducible refine fr_frameLost hw ?_
    | with_reducible refine fr_bump ?_
    | with_reducible refine fr_modLane (Fr.sub (V := 42073818) rfl hw) ?_
    | with_reducible refine fr_laneLost ?_
    | with_reducible refine fr_laneFault hw ?_
    | with_reducible apply Fr.ite
    | with_reducible apply Fr.foldl
    | split

/-! Channels. -/

theorem fr_advanceScrub {W : Nat} {s0 : State} {s : State} {l : Nat} (hw : 32768 ||| W = W) (hs : Fr W s0 s) :
    Fr W s0 (State.advanceScrub s l) := by
  unfold State.advanceScrub
  repeat' first
    | intro _
    | (extract_lets +onlyGivenNames z; guard_hyp z : Dram := _; revert z; intro _)
    | (extract_lets +onlyGivenNames z; clear_value z; revert z; intro _)
    | with_reducible apply Fr.ite
    | ((with_reducible apply Fr.of); rotate_left 23; (with_reducible exact Or.inr rfl); rotate_left 3; with_reducible assumption; (iterate 25 (first | with_reducible exact Or.inr rfl | with_reducible exact Or.inr ⟨rfl, rfl⟩ | exact Or.inl (Fr.bit hw rfl))))

theorem fr_passWatch {W : Nat} {s0 : State} {s : State} {l : Nat} {b : Nat} {before : List Watch} (hw : 32768 ||| W = W) (hs : Fr W s0 s) :
    Fr W s0 (State.passWatch s l b before) := by
  unfold State.passWatch
  repeat' first
    | (extract_lets +onlyGivenNames z; guard_hyp z : Dram := _; revert z; intro _)
    | (extract_lets +onlyGivenNames z; clear_value z; revert z; intro _)
    | ((with_reducible apply Fr.of); rotate_left 23; (with_reducible exact Or.inr rfl); rotate_left 3; with_reducible assumption; (iterate 25 (first | with_reducible exact Or.inr rfl | with_reducible exact Or.inr ⟨rfl, rfl⟩ | exact Or.inl (Fr.bit hw rfl))))

theorem fr_refreshDue {W : Nat} {s0 : State} {s : State} {p : Nat} {pc : Nat} {busy : Bool} (hw : 32768 ||| W = W) (hs : Fr W s0 s) :
    Fr W s0 (State.refreshDue s p pc busy) := by
  unfold State.refreshDue
  repeat' first
    | intro _
    | with_reducible assumption
    | (extract_lets +onlyGivenNames z; clear_value z; revert z; intro _)
    | with_reducible refine fr_modChan hw ?_
    | with_reducible refine fr_bump ?_
    | with_reducible apply Fr.ite

theorem fr_promoteScrub {W : Nat} {s0 : State} {s : State} {l : Nat} (hw : 32768 ||| W = W) (hs : Fr W s0 s) :
    Fr W s0 (State.promoteScrub s l) := by
  unfold State.promoteScrub
  repeat' first
    | intro _
    | with_reducible assumption
    | (extract_lets +onlyGivenNames z; guard_hyp z : Dram := _; revert z; intro _)
    | (extract_lets +onlyGivenNames z; clear_value z; revert z; intro _)
    | with_reducible refine fr_eccLog hw ?_
    | with_reducible apply Fr.ite
    | ((with_reducible apply Fr.of); rotate_left 23; (with_reducible exact Or.inr rfl); rotate_left 3; with_reducible assumption; (iterate 25 (first | with_reducible exact Or.inr rfl | with_reducible exact Or.inr ⟨rfl, rfl⟩ | exact Or.inl (Fr.bit hw rfl))))

theorem fr_countFence {W : Nat} {s0 : State} {s : State} {p : Nat} (hs : Fr W s0 s) :
    Fr W s0 (State.countFence s p) := by
  unfold State.countFence
  repeat' first
    | with_reducible assumption
    | with_reducible refine fr_withyChange ?_

theorem fr_failChan {W : Nat} {s0 : State} {s : State} {p : Nat} (hw : 32768 ||| W = W) (hs : Fr W s0 s) :
    Fr W s0 (State.failChan s p) := by
  unfold State.failChan
  repeat' first
    | with_reducible assumption
    | with_reducible refine fr_withyChange ?_
    | with_reducible refine fr_modChan hw ?_

theorem fr_autoRetire {W : Nat} {s0 : State} {s : State} {n : Nat} (hw : 98304 ||| W = W) (hs : Fr W s0 s) :
    Fr W s0 (State.autoRetire s n) := by
  unfold State.autoRetire
  repeat' first
    | intro _
    | with_reducible assumption
    | (extract_lets +onlyGivenNames z; clear_value z; revert z; intro _)
    | with_reducible refine fr_bump ?_
    | with_reducible refine fr_eccLog (Fr.sub (V := 98304) rfl hw) ?_
    | with_reducible refine fr_takeReplacement hw ?_
    | with_reducible apply Fr.ite
    | split

theorem fr_moveTo {W : Nat} {s0 : State} {s : State} {p : Nat} {sp : Nat} {l : Nat} (hw : 32768 ||| W = W) (hs : Fr W s0 s) :
    Fr W s0 (State.moveTo s p sp l) := by
  unfold State.moveTo
  repeat' first
    | with_reducible assumption
    | (extract_lets +onlyGivenNames z; guard_hyp z : State := _; refine Fr.cut (x := z) ?_ (fun _ => ?_); rotate_left; clear_value z; revert z; intro _ _; rotate_left; unfold z; clear z)
    | (extract_lets +onlyGivenNames z; guard_hyp z : Dram := _; revert z; intro _)
    | with_reducible refine fr_failChan hw ?_
    | with_reducible refine fr_modChan hw ?_
    | ((with_reducible apply Fr.of); rotate_left 23; (with_reducible exact Or.inr rfl); rotate_left 3; with_reducible assumption; (iterate 25 (first | with_reducible exact Or.inr rfl | with_reducible exact Or.inr ⟨rfl, rfl⟩ | exact Or.inl (Fr.bit hw rfl))))

theorem fr_jobUe {W : Nat} {s0 : State} {s : State} {n : Nat} (hw : 98304 ||| W = W) (hs : Fr W s0 s) :
    Fr W s0 (State.jobUe s n) := by
  unfold State.jobUe
  repeat' first
    | intro _
    | with_reducible assumption
    | (extract_lets +onlyGivenNames z; clear_value z; revert z; intro _)
    | with_reducible refine fr_memWrite64 hw ?_
    | with_reducible apply Fr.ite

theorem fr_execRefreshDue {W : Nat} {s0 : State} {p : Nat} {pc : Nat} {busy : Bool} {s : State} (hw : 32768 ||| W = W) (hs : Fr W s0 s) :
    FrO W s0 (execRefreshDue p pc busy s) := by
  unfold execRefreshDue
  repeat' first
    | intro _
    | with_reducible assumption
    | with_reducible refine fr_finish ?_ ?_
    | with_reducible refine fr_refreshDue hw ?_
    | with_reducible apply Fr.ite

theorem fr_execWritebackQueue {W : Nat} {s0 : State} {p : Nat} {s : State} (hw : 98304 ||| W = W) (hs : Fr W s0 s) :
    FrO W s0 (execWritebackQueue p s) := by
  unfold execWritebackQueue
  repeat' first
    | intro _
    | with_reducible assumption
    | (extract_lets +onlyGivenNames z; guard_hyp z : State := _; refine Fr.cut (x := z) ?_ (fun _ => ?_); rotate_left; clear_value z; revert z; intro _ _; rotate_left; unfold z; clear z)
    | (extract_lets +onlyGivenNames z; guard_hyp z : Dram := _; revert z; intro _)
    | with_reducible refine fr_finish ?_ ?_
    | with_reducible refine fr_writeBack hw ?_
    | with_reducible apply Fr.ite
    | ((with_reducible apply Fr.of); rotate_left 23; (with_reducible exact Or.inr rfl); rotate_left 3; with_reducible assumption; (iterate 25 (first | with_reducible exact Or.inr rfl | with_reducible exact Or.inr ⟨rfl, rfl⟩ | exact Or.inl (Fr.bit hw rfl))))
    | split

theorem fr_execMemChRetire {W : Nat} {s0 : State} {p : Nat} {s : State} (hw : 32768 ||| W = W) (hs : Fr W s0 s) :
    FrO W s0 (execMemChRetire p s) := by
  unfold execMemChRetire
  repeat' first
    | intro _
    | with_reducible assumption
    | with_reducible refine fr_finish ?_ ?_
    | with_reducible refine fr_command ?_ ?_
    | with_reducible refine fr_onlyIn ?_ ?_
    | with_reducible refine fr_withyChange ?_
    | with_reducible refine fr_modChan hw ?_
    | with_reducible refine fr_violation ?_
    | with_reducible apply Fr.ite

theorem fr_execEccFlipArm {W : Nat} {s0 : State} {v : Sys2Proof.Word} {s : State} (hs : Fr W s0 s) :
    FrO W s0 (execEccFlipArm v s) := by
  unfold execEccFlipArm
  repeat' first
    | intro _
    | with_reducible assumption
    | with_reducible refine fr_finish ?_ ?_
    | with_reducible refine fr_command ?_ ?_
    | with_reducible refine fr_onlyIn ?_ ?_
    | with_reducible refine fr_setReg ?_
    | with_reducible apply Fr.ite

theorem fr_execPprGo {W : Nat} {s0 : State} {v : Sys2Proof.Word} {s : State} (hw : 32768 ||| W = W) (hs : Fr W s0 s) :
    FrO W s0 (execPprGo v s) := by
  unfold execPprGo
  repeat' first
    | intro _
    | with_reducible assumption
    | (extract_lets +onlyGivenNames z; guard_hyp z : Dram := _; revert z; intro _)
    | with_reducible refine fr_finish ?_ ?_
    | with_reducible refine fr_command ?_ ?_
    | with_reducible refine fr_violation ?_
    | with_reducible refine fr_setReg ?_
    | with_reducible apply Fr.ite
    | ((with_reducible apply Fr.of); rotate_left 23; (with_reducible exact Or.inr rfl); rotate_left 3; with_reducible assumption; (iterate 25 (first | with_reducible exact Or.inr rfl | with_reducible exact Or.inr ⟨rfl, rfl⟩ | exact Or.inl (Fr.bit hw rfl))))

theorem fr_execPprDone {W : Nat} {s0 : State} {code : Nat} {s : State} (hw : 32768 ||| W = W) (hs : Fr W s0 s) :
    FrO W s0 (execPprDone code s) := by
  unfold execPprDone
  repeat' first
    | intro _
    | with_reducible assumption
    | (extract_lets +onlyGivenNames z; guard_hyp z : State := _; refine FrO.cut (x := z) ?_ (fun _ => ?_); rotate_left; clear_value z; revert z; intro _ _; rotate_left; unfold z; clear z)
    | (extract_lets +onlyGivenNames z; guard_hyp z : Dram := _; revert z; intro _)
    | with_reducible refine fr_finish ?_ ?_
    | with_reducible refine fr_withyChange ?_
    | with_reducible refine fr_setReg ?_
    | with_reducible apply Fr.ite
    | ((with_reducible apply Fr.of); rotate_left 23; (with_reducible exact Or.inr rfl); rotate_left 3; with_reducible assumption; (iterate 25 (first | with_reducible exact Or.inr rfl | with_reducible exact Or.inr ⟨rfl, rfl⟩ | exact Or.inl (Fr.bit hw rfl))))
    | split

theorem fr_execEccLogPop {W : Nat} {s0 : State} {v : Sys2Proof.Word} {s : State} (hw : 32768 ||| W = W) (hs : Fr W s0 s) :
    FrO W s0 (execEccLogPop v s) := by
  unfold execEccLogPop
  repeat' first
    | intro _
    | with_reducible assumption
    | (extract_lets +onlyGivenNames z; guard_hyp z : Dram := _; revert z; intro _)
    | with_reducible refine fr_finish ?_ ?_
    | with_reducible refine fr_command ?_ ?_
    | with_reducible apply Fr.ite
    | ((with_reducible apply Fr.of); rotate_left 23; (with_reducible exact Or.inr rfl); rotate_left 3; with_reducible assumption; (iterate 25 (first | with_reducible exact Or.inr rfl | with_reducible exact Or.inr ⟨rfl, rfl⟩ | exact Or.inl (Fr.bit hw rfl))))

theorem fr_execAgePromotion {W : Nat} {s0 : State} {cls : Sys2Proof.DramClass} {s : State} (hs : Fr W s0 s) :
    FrO W s0 (execAgePromotion cls s) := by
  unfold execAgePromotion
  repeat' first
    | intro _
    | with_reducible assumption
    | with_reducible refine fr_finish ?_ ?_
    | with_reducible refine fr_bump ?_
    | with_reducible apply Fr.ite

theorem fr_execDramPowerDown {W : Nat} {s0 : State} {p : Nat} {pc : Nat} {s : State} (hw : 32768 ||| W = W) (hs : Fr W s0 s) :
    FrO W s0 (execDramPowerDown p pc s) := by
  unfold execDramPowerDown
  repeat' first
    | intro _
    | with_reducible assumption
    | with_reducible refine fr_finish ?_ ?_
    | with_reducible refine fr_modChan hw ?_
    | with_reducible apply Fr.ite

theorem fr_corrmapUe {W : Nat} {s0 : State} {s : State} {n : Nat} (hw : 99328 ||| W = W) (hs : Fr W s0 s) :
    Fr W s0 (State.corrmapUe s n) := by
  unfold State.corrmapUe
  repeat' first
    | intro _
    | with_reducible assumption
    | with_reducible refine fr_raise ?_
    | with_reducible refine fr_dmapPoison hw ?_
    | with_reducible apply Fr.foldl
    | split

theorem fr_figureUe {W : Nat} {s0 : State} {s : State} {n : Nat} (hw : 256 ||| W = W) (hs : Fr W s0 s) :
    Fr W s0 (State.figureUe s n) := by
  unfold State.figureUe
  repeat' first
    | intro _
    | with_reducible assumption
    | (extract_lets +onlyGivenNames z; guard_hyp z : State := _; refine Fr.cut (x := z) ?_ (fun _ => ?_); rotate_left; clear_value z; revert z; intro _ _; rotate_left; unfold z; clear z)
    | (extract_lets +onlyGivenNames z; clear_value z; revert z; intro _)
    | with_reducible refine fr_refetchTile hw ?_
    | with_reducible refine fr_setRegs ?_
    | with_reducible apply Fr.foldl
    | split

theorem fr_ueByRegion {W : Nat} {s0 : State} {s : State} {n : Nat} (hw : 101632 ||| W = W) (hs : Fr W s0 s) :
    Fr W s0 (State.ueByRegion s n) := by
  unfold State.ueByRegion
  repeat' first
    | intro _
    | with_reducible assumption
    | with_reducible refine fr_autoRetire (Fr.sub (V := 101632) rfl hw) ?_
    | with_reducible refine fr_stagingPoison (Fr.sub (V := 101632) rfl hw) ?_
    | with_reducible refine fr_fpPoison (Fr.sub (V := 101632) rfl hw) ?_
    | with_reducible refine fr_figureUe (Fr.sub (V := 101632) rfl hw) ?_
    | with_reducible refine fr_corrmapUe (Fr.sub (V := 101632) rfl hw) ?_
    | with_reducible refine fr_jobUe (Fr.sub (V := 101632) rfl hw) ?_
    | with_reducible apply Fr.ite
    | with_reducible apply Fr.foldl
    | split

theorem fr_execFenceCopyDone {W : Nat} {s0 : State} {stack : Nat} {s : State} (hw : 101632 ||| W = W) (hs : Fr W s0 s) :
    FrO W s0 (execFenceCopyDone stack s) := by
  unfold execFenceCopyDone
  repeat' first
    | intro _
    | with_reducible assumption
    | (extract_lets +onlyGivenNames z; guard_hyp z : State := _; refine Fr.cut (x := z) ?_ (fun _ => ?_); rotate_left; clear_value z; revert z; intro _ _; rotate_left; unfold z; clear z)
    | (extract_lets +onlyGivenNames z; clear_value z; revert z; intro _)
    | with_reducible refine fr_finish ?_ ?_
    | with_reducible refine fr_ueFound (Fr.sub (V := 101632) rfl hw) ?_
    | with_reducible refine fr_cleanWord (Fr.sub (V := 101632) rfl hw) ?_
    | with_reducible refine fr_moveTo (Fr.sub (V := 101632) rfl hw) ?_
    | with_reducible refine fr_ueByRegion hw ?_
    | with_reducible refine fr_raise ?_
    | with_reducible refine fr_eccLog (Fr.sub (V := 101632) rfl hw) ?_
    | with_reducible apply Fr.ite
    | with_reducible apply Fr.foldl
    | split

theorem fr_sweepBeat {W : Nat} {s0 : State} {s : State} {b : Nat} (hw : 101632 ||| W = W) (hs : Fr W s0 s) :
    Fr W s0 (State.sweepBeat s b) := by
  unfold State.sweepBeat
  repeat' first
    | intro _
    | with_reducible assumption
    | (extract_lets +onlyGivenNames z; guard_hyp z : State := _; refine Fr.cut (x := z) ?_ (fun _ => ?_); rotate_left; clear_value z; revert z; intro _ _; rotate_left; unfold z; clear z)
    | with_reducible refine fr_zeroWord (Fr.sub (V := 101632) rfl hw) ?_
    | with_reducible refine fr_bump ?_
    | with_reducible refine fr_ueByRegion hw ?_
    | with_reducible apply Fr.foldl

theorem fr_execRebuildSweepDone {W : Nat} {s0 : State} {l : Nat} {s : State} (hw : 101632 ||| W = W) (hs : Fr W s0 s) :
    FrO W s0 (execRebuildSweepDone l s) := by
  unfold execRebuildSweepDone
  repeat' first
    | intro _
    | with_reducible assumption
    | (extract_lets +onlyGivenNames z; guard_hyp z : State := _; refine Fr.cut (x := z) ?_ (fun _ => ?_); rotate_left; clear_value z; revert z; intro _ _; rotate_left; unfold z; clear z)
    | (extract_lets +onlyGivenNames z; guard_hyp z : Dram := _; revert z; intro _)
    | (extract_lets +onlyGivenNames z; clear_value z; revert z; intro _)
    | with_reducible refine fr_finish ?_ ?_
    | with_reducible refine fr_sweepBeat hw ?_
    | with_reducible refine fr_raise ?_
    | with_reducible apply Fr.foldl
    | ((with_reducible apply Fr.of); rotate_left 23; (with_reducible exact Or.inr rfl); rotate_left 3; with_reducible assumption; (iterate 25 (first | with_reducible exact Or.inr rfl | with_reducible exact Or.inr ⟨rfl, rfl⟩ | exact Or.inl (Fr.bit hw rfl))))
    | split

theorem fr_unback {W : Nat} {s0 : State} {s : State} {p : Nat} {l : Nat} {cause : Nat} (hw : 42073818 ||| W = W) (hs : Fr W s0 s) :
    Fr W s0 (State.unback s p l cause) := by
  unfold State.unback
  repeat' first
    | with_reducible assumption
    | (extract_lets +onlyGivenNames z; guard_hyp z : State := _; refine Fr.cut (x := z) ?_ (fun _ => ?_); rotate_left; clear_value z; revert z; intro _ _; rotate_left; unfold z; clear z)
    | (extract_lets +onlyGivenNames z; guard_hyp z : Dram := _; revert z; intro _)
    | with_reducible refine fr_failChan (Fr.sub (V := 42073818) rfl hw) ?_
    | with_reducible refine fr_truncateNow hw ?_
    | with_reducible refine fr_raise ?_
    | with_reducible refine fr_eccLog (Fr.sub (V := 42073818) rfl hw) ?_
    | ((with_reducible apply Fr.of); rotate_left 23; (with_reducible exact Or.inr rfl); rotate_left 3; with_reducible assumption; (iterate 25 (first | with_reducible exact Or.inr rfl | with_reducible exact Or.inr ⟨rfl, rfl⟩ | exact Or.inl (Fr.bit hw rfl))))

theorem fr_hardFence {W : Nat} {s0 : State} {s : State} {p : Nat} {cause : Nat} (hw : 42073818 ||| W = W) (hs : Fr W s0 s) :
    Fr W s0 (State.hardFence s p cause) := by
  unfold State.hardFence
  repeat' first
    | with_reducible assumption
    | (extract_lets +onlyGivenNames z; guard_hyp z : State := _; refine Fr.cut (x := z) ?_ (fun _ => ?_); rotate_left; clear_value z; revert z; intro _ _; rotate_left; unfold z; clear z)
    | (extract_lets +onlyGivenNames z; guard_hyp z : Dram := _; revert z; intro _)
    | (extract_lets +onlyGivenNames z; clear_value z; revert z; intro _)
    | with_reducible refine fr_countFence ?_
    | with_reducible refine fr_modChan (Fr.sub (V := 42073818) rfl hw) ?_
    | with_reducible refine fr_eccLog (Fr.sub (V := 42073818) rfl hw) ?_
    | with_reducible refine fr_unback hw ?_
    | with_reducible refine fr_raise ?_
    | with_reducible refine fr_moveTo (Fr.sub (V := 42073818) rfl hw) ?_
    | ((with_reducible apply Fr.of); rotate_left 23; (with_reducible exact Or.inr rfl); rotate_left 3; with_reducible assumption; (iterate 25 (first | with_reducible exact Or.inr rfl | with_reducible exact Or.inr ⟨rfl, rfl⟩ | exact Or.inl (Fr.bit hw rfl))))
    | split

theorem fr_plannedFence {W : Nat} {s0 : State} {s : State} {p : Nat} {cause : Nat} (hw : 42073818 ||| W = W) (hs : Fr W s0 s) :
    Fr W s0 (State.plannedFence s p cause) := by
  unfold State.plannedFence
  repeat' first
    | intro _
    | with_reducible assumption
    | (extract_lets +onlyGivenNames z; guard_hyp z : State := _; refine Fr.cut (x := z) ?_ (fun _ => ?_); rotate_left; clear_value z; revert z; intro _ _; rotate_left; unfold z; clear z)
    | (extract_lets +onlyGivenNames z; guard_hyp z : Dram := _; revert z; intro _)
    | (extract_lets +onlyGivenNames z; clear_value z; revert z; intro _)
    | with_reducible refine fr_raise ?_
    | with_reducible refine fr_eccLog (Fr.sub (V := 42073818) rfl hw) ?_
    | with_reducible refine fr_countFence ?_
    | with_reducible refine fr_modChan (Fr.sub (V := 42073818) rfl hw) ?_
    | with_reducible refine fr_unback hw ?_
    | with_reducible apply Fr.ite
    | ((with_reducible apply Fr.of); rotate_left 23; (with_reducible exact Or.inr rfl); rotate_left 3; with_reducible assumption; (iterate 25 (first | with_reducible exact Or.inr rfl | with_reducible exact Or.inr ⟨rfl, rfl⟩ | exact Or.inl (Fr.bit hw rfl))))
    | split

theorem fr_execCapar {W : Nat} {s0 : State} {p : Nat} {n : Nat} {s : State} (hw : 42073818 ||| W = W) (hs : Fr W s0 s) :
    FrO W s0 (execCapar p n s) := by
  unfold execCapar
  repeat' first
    | intro _
    | with_reducible assumption
    | (extract_lets +onlyGivenNames z; guard_hyp z : State := _; refine FrO.cut (x := z) ?_ (fun _ => ?_); rotate_left; clear_value z; revert z; intro _ _; rotate_left; unfold z; clear z)
    | with_reducible refine fr_finish ?_ ?_
    | with_reducible refine fr_bumpBy ?_
    | with_reducible refine fr_hardFence hw ?_
    | with_reducible refine fr_raise ?_
    | with_reducible apply Fr.ite

theorem fr_execReadTimeout {W : Nat} {s0 : State} {p : Nat} {s : State} (hw : 42073818 ||| W = W) (hs : Fr W s0 s) :
    FrO W s0 (execReadTimeout p s) := by
  unfold execReadTimeout
  repeat' first
    | intro _
    | with_reducible assumption
    | with_reducible refine fr_finish ?_ ?_
    | with_reducible refine fr_hardFence hw ?_
    | with_reducible apply Fr.ite

theorem fr_trainChan {W : Nat} {s0 : State} {s : State} {x1 : Sys2Proof.ChanTraining} (hw : 42073818 ||| W = W) (hs : Fr W s0 s) :
    Fr W s0 (State.trainChan s x1) := by
  unfold State.trainChan
  repeat' first
    | with_reducible assumption
    | (extract_lets +onlyGivenNames z; guard_hyp z : State := _; refine Fr.cut (x := z) ?_ (fun _ => ?_); rotate_left; clear_value z; revert z; intro _ _; rotate_left; unfold z; clear z)
    | (extract_lets +onlyGivenNames z; clear_value z; revert z; intro _)
    | with_reducible refine fr_modChan (Fr.sub (V := 42073818) rfl hw) ?_
    | with_reducible refine fr_eccLog (Fr.sub (V := 42073818) rfl hw) ?_
    | with_reducible refine fr_hardFence hw ?_
    | with_reducible refine fr_failChan (Fr.sub (V := 42073818) rfl hw) ?_
    | with_reducible refine fr_withyChange ?_
    | split

theorem fr_burst {W : Nat} {s0 : State} {s : State} {p : Nat} (hw : 42073818 ||| W = W) (hs : Fr W s0 s) :
    Fr W s0 (State.burst s p) := by
  unfold State.burst
  repeat' first
    | intro _
    | with_reducible assumption
    | (extract_lets +onlyGivenNames z; clear_value z; revert z; intro _)
    | with_reducible refine fr_hardFence hw ?_
    | with_reducible apply Fr.ite

theorem fr_plannedCause {W : Nat} {s0 : State} {s : State} {p : Nat} {cause : Nat} (hw : 42073818 ||| W = W) (hs : Fr W s0 s) :
    Fr W s0 (State.plannedCause s p cause) := by
  unfold State.plannedCause
  repeat' first
    | intro _
    | with_reducible assumption
    | with_reducible refine fr_plannedFence hw ?_
    | with_reducible refine fr_raise ?_
    | with_reducible refine fr_eccLog (Fr.sub (V := 42073818) rfl hw) ?_
    | with_reducible apply Fr.ite

theorem fr_execMemChFence {W : Nat} {s0 : State} {p : Nat} {s : State} (hw : 42073818 ||| W = W) (hs : Fr W s0 s) :
    FrO W s0 (execMemChFence p s) := by
  unfold execMemChFence
  repeat' first
    | intro _
    | with_reducible assumption
    | with_reducible refine fr_finish ?_ ?_
    | with_reducible refine fr_command ?_ ?_
    | with_reducible refine fr_onlyIn ?_ ?_
    | with_reducible refine fr_plannedFence hw ?_
    | with_reducible apply Fr.ite

theorem fr_trainAll {W : Nat} {s0 : State} {s : State} {r : List Sys2Proof.ChanTraining} (hw : 42073818 ||| W = W) (hs : Fr W s0 s) :
    Fr W s0 (State.trainAll s r) := by
  unfold State.trainAll
  repeat' first
    | intro _
    | with_reducible assumption
    | (extract_lets +onlyGivenNames z; guard_hyp z : State := _; refine Fr.cut (x := z) ?_ (fun _ => ?_); rotate_left; clear_value z; revert z; intro _ _; rotate_left; unfold z; clear z)
    | (extract_lets +onlyGivenNames z; guard_hyp z : Dram := _; revert z; intro _)
    | with_reducible refine fr_trainChan hw ?_
    | with_reducible refine fr_raise ?_
    | with_reducible apply Fr.foldl
    | ((with_reducible apply Fr.of); rotate_left 23; (with_reducible exact Or.inr rfl); rotate_left 3; with_reducible assumption; (iterate 25 (first | with_reducible exact Or.inr rfl | with_reducible exact Or.inr ⟨rfl, rfl⟩ | exact Or.inl (Fr.bit hw rfl))))

theorem fr_scrubWord {W : Nat} {s0 : State} {s : State} {n : Nat} (hw : 42074074 ||| W = W) (hs : Fr W s0 s) :
    Fr W s0 (State.scrubWord s n) := by
  unfold State.scrubWord
  repeat' first
    | intro _
    | with_reducible assumption
    | (extract_lets +onlyGivenNames z; guard_hyp z : State := _; refine Fr.cut (x := z) ?_ (fun _ => ?_); rotate_left; clear_value z; revert z; intro _ _; rotate_left; unfold z; clear z)
    | (extract_lets +onlyGivenNames z; clear_value z; revert z; intro _)
    | with_reducible refine fr_raise ?_
    | with_reducible refine fr_eccLog (Fr.sub (V := 42074074) rfl hw) ?_
    | with_reducible refine fr_ueFound (Fr.sub (V := 42074074) rfl hw) ?_
    | with_reducible refine fr_withyChange ?_
    | with_reducible refine fr_ueByRegion (Fr.sub (V := 42074074) rfl hw) ?_
    | with_reducible refine fr_burst (Fr.sub (V := 42074074) rfl hw) ?_
    | with_reducible refine fr_ceFound (Fr.sub (V := 42074074) rfl hw) ?_
    | with_reducible refine fr_writeBack (Fr.sub (V := 42074074) rfl hw) ?_
    | with_reducible apply Fr.ite
    | split

theorem fr_execDemandReadError {W : Nat} {s0 : State} {a : Nat} {cls : Sys2Proof.DramClass} {dx : Sys2Proof.Dword} {cx : Sys2Proof.Byte} {t : Nat} {sx : State} (hw : 42073819 ||| W = W) (hsx : Fr W s0 sx) :
    FrO W s0 (execDemandReadError a cls dx cx t sx) := by
  unfold execDemandReadError
  repeat' first
    | intro _
    | with_reducible assumption
    | (extract_lets +onlyGivenNames z; guard_hyp z : State := _; refine FrO.cut (x := z) ?_ (fun _ => ?_); rotate_left; clear_value z; revert z; intro _ _; rotate_left; unfold z; clear z)
    | (extract_lets +onlyGivenNames z; clear_value z; revert z; intro _)
    | (extract_lets +onlyGivenNames z; revert z; intro _)
    | with_reducible refine fr_at_ (Fr.sub (V := 42073819) rfl hw) ?_
    | with_reducible refine fr_finish ?_ ?_
    | with_reducible refine fr_touch (Fr.sub (V := 42073819) rfl hw) ?_
    | with_reducible refine fr_corrmapUe (Fr.sub (V := 42073819) rfl hw) ?_
    | with_reducible refine fr_burst (Fr.sub (V := 42073819) rfl hw) ?_
    | with_reducible apply Fr.ite
    | ((with_reducible apply Fr.of); rotate_left 23; (with_reducible exact Or.inr rfl); rotate_left 3; with_reducible assumption; (iterate 25 (first | with_reducible exact Or.inr rfl | with_reducible exact Or.inr ⟨rfl, rfl⟩ | exact Or.inl (Fr.bit hw rfl) | exact Or.inr rfl | exact Or.inr ⟨rfl, rfl⟩)))

theorem fr_recalChan {W : Nat} {s0 : State} {s : State} {m : Sys2Proof.ChanMargins} (hw : 42073818 ||| W = W) (hs : Fr W s0 s) :
    Fr W s0 (State.recalChan s m) := by
  unfold State.recalChan
  repeat' first
    | intro _
    | with_reducible assumption
    | (extract_lets +onlyGivenNames z; guard_hyp z : State := _; refine Fr.cut (x := z) ?_ (fun _ => ?_); rotate_left; clear_value z; revert z; intro _ _; rotate_left; unfold z; clear z)
    | (extract_lets +onlyGivenNames z; clear_value z; revert z; intro _)
    | with_reducible refine fr_modChan (Fr.sub (V := 42073818) rfl hw) ?_
    | with_reducible refine fr_plannedCause hw ?_
    | with_reducible apply Fr.ite

theorem fr_execCeRate {W : Nat} {s0 : State} {p : Nat} {rate : Nat} {s : State} (hw : 42073818 ||| W = W) (hs : Fr W s0 s) :
    FrO W s0 (execCeRate p rate s) := by
  unfold execCeRate
  repeat' first
    | intro _
    | with_reducible assumption
    | with_reducible refine fr_finish ?_ ?_
    | with_reducible refine fr_plannedCause hw ?_
    | with_reducible apply Fr.ite

theorem fr_execMemChRetrain {W : Nat} {s0 : State} {p : Nat} {r : Sys2Proof.ChanTraining} {s : State} (hw : 42073818 ||| W = W) (hs : Fr W s0 s) :
    FrO W s0 (execMemChRetrain p r s) := by
  unfold execMemChRetrain
  repeat' first
    | intro _
    | with_reducible assumption
    | with_reducible refine fr_finish ?_ ?_
    | with_reducible refine fr_command ?_ ?_
    | with_reducible refine fr_onlyIn ?_ ?_
    | with_reducible refine fr_trainAll hw ?_
    | with_reducible apply Fr.ite

theorem fr_execScrubRead {W : Nat} {s0 : State} {l : Nat} {flips : List Sys2Proof.WordFlip} {t : Nat} {sx : State} (hw : 42074075 ||| W = W) (hsx : Fr W s0 sx) :
    FrO W s0 (execScrubRead l flips t sx) := by
  unfold execScrubRead
  repeat' first
    | intro _
    | with_reducible assumption
    | (extract_lets +onlyGivenNames z; guard_hyp z : State := _; refine Fr.cut (x := z) ?_ (fun _ => ?_); rotate_left; clear_value z; revert z; intro _ _; rotate_left; unfold z; clear z)
    | (extract_lets +onlyGivenNames z; guard_hyp z : State := _; refine FrO.cut (x := z) ?_ (fun _ => ?_); rotate_left; clear_value z; revert z; intro _ _; rotate_left; unfold z; clear z)
    | (extract_lets +onlyGivenNames z; clear_value z; revert z; intro _)
    | with_reducible refine fr_at_ (Fr.sub (V := 42074075) rfl hw) ?_
    | with_reducible refine fr_finish ?_ ?_
    | with_reducible refine fr_promoteScrub (Fr.sub (V := 42074075) rfl hw) ?_
    | with_reducible refine fr_scrubWord (Fr.sub (V := 42074075) rfl hw) ?_
    | with_reducible refine fr_passWatch (Fr.sub (V := 42074075) rfl hw) ?_
    | with_reducible refine fr_advanceScrub (Fr.sub (V := 42074075) rfl hw) ?_
    | with_reducible apply Fr.ite
    | with_reducible apply Fr.foldl
    | ((with_reducible apply Fr.of); rotate_left 23; (with_reducible exact Or.inr rfl); rotate_left 3; with_reducible assumption; (iterate 25 (first | with_reducible exact Or.inr rfl | with_reducible exact Or.inr ⟨rfl, rfl⟩ | exact Or.inl (Fr.bit hw rfl) | exact Or.inr rfl | exact Or.inr ⟨rfl, rfl⟩)))
    | split

theorem fr_execDramRecalPeriodic {W : Nat} {s0 : State} {p : Nat} {m : Sys2Proof.ChanMargins} {s : State} (hw : 42073818 ||| W = W) (hs : Fr W s0 s) :
    FrO W s0 (execDramRecalPeriodic p m s) := by
  unfold execDramRecalPeriodic
  repeat' first
    | intro _
    | with_reducible assumption
    | with_reducible refine fr_finish ?_ ?_
    | with_reducible refine fr_recalChan hw ?_
    | with_reducible apply Fr.ite

end Sys2Proof.Laws
end

