-- ==== Sys2Proof/Laws/FrameStores.lean ====
section
/-! SUPPORT. What the recorder and the rings leave as it was: one lemma for each operation and each command (see Frame). -/

namespace Sys2Proof.Laws

open Sys2Proof.Machine

/-! Recorder. -/

theorem fr_inventoryGrow {W : Nat} {s0 : State} {s : State} {n : Nat} (hs : Fr W s0 s) :
    Fr W s0 (State.inventoryGrow s n) := by
  unfold State.inventoryGrow
  repeat' first
    | intro _
    | (extract_lets +onlyGivenNames z; clear_value z; revert z; intro _)
    | with_reducible apply Fr.ite
    | ((with_reducible apply Fr.of); rotate_left 23; (with_reducible exact Or.inr rfl); rotate_left 3; with_reducible assumption; (iterate 25 (first | with_reducible exact Or.inr rfl | with_reducible exact Or.inr ⟨rfl, rfl⟩)))

theorem fr_startFetch {W : Nat} {s0 : State} {s : State} {region : Nat} {seq : Nat} (hs : Fr W s0 s) :
    Fr W s0 (State.startFetch s region seq) := by
  unfold State.startFetch
  repeat' first
    | (extract_lets +onlyGivenNames z; clear_value z; revert z; intro _)
    | ((with_reducible apply Fr.of); rotate_left 23; (with_reducible exact Or.inr rfl); rotate_left 3; with_reducible assumption; (iterate 25 (first | with_reducible exact Or.inr rfl | with_reducible exact Or.inr ⟨rfl, rfl⟩)))

theorem fr_histSecond {W : Nat} {s0 : State} {s : State} {power : Nat} (hs : Fr W s0 s) :
    Fr W s0 (State.histSecond s power) := by
  unfold State.histSecond
  repeat' first
    | intro _
    | with_reducible assumption
    | (extract_lets +onlyGivenNames z; guard_hyp z : State := _; refine Fr.cut (x := z) ?_ (fun _ => ?_); rotate_left; clear_value z; revert z; intro _ _; rotate_left; unfold z; clear z)
    | (extract_lets +onlyGivenNames z; clear_value z; revert z; intro _)
    | with_reducible refine fr_histBump ?_
    | with_reducible apply Fr.ite
    | with_reducible apply Fr.foldl

theorem fr_inventoryPut {W : Nat} {s0 : State} {s : State} {e : InvEntry} (hs : Fr W s0 s) :
    Fr W s0 (State.inventoryPut s e) := by
  unfold State.inventoryPut
  repeat' first
    | with_reducible assumption
    | (extract_lets +onlyGivenNames z; guard_hyp z : State := _; refine Fr.cut (x := z) ?_ (fun _ => ?_); rotate_left; clear_value z; revert z; intro _ _; rotate_left; unfold z; clear z)
    | (extract_lets +onlyGivenNames z; clear_value z; revert z; intro _)
    | with_reducible refine fr_inventoryGrow ?_
    | ((with_reducible apply Fr.of); rotate_left 23; (with_reducible exact Or.inr rfl); rotate_left 3; with_reducible assumption; (iterate 25 (first | with_reducible exact Or.inr rfl | with_reducible exact Or.inr ⟨rfl, rfl⟩)))

theorem fr_checkpoint {W : Nat} {s0 : State} {s : State} (hs : Fr W s0 s) :
    Fr W s0 (State.checkpoint s) := by
  unfold State.checkpoint
  repeat' first
    | with_reducible assumption
    | (extract_lets +onlyGivenNames z; guard_hyp z : State := _; refine Fr.cut (x := z) ?_ (fun _ => ?_); rotate_left; clear_value z; revert z; intro _ _; rotate_left; unfold z; clear z)
    | (extract_lets +onlyGivenNames z; clear_value z; revert z; intro _)
    | with_reducible refine fr_inventoryGrow ?_
    | ((with_reducible apply Fr.of); rotate_left 23; (with_reducible exact Or.inr rfl); rotate_left 3; with_reducible assumption; (iterate 25 (first | with_reducible exact Or.inr rfl | with_reducible exact Or.inr ⟨rfl, rfl⟩)))

theorem fr_autoNext {W : Nat} {s0 : State} {s : State} (hs : Fr W s0 s) :
    Fr W s0 (State.autoNext s) := by
  unfold State.autoNext
  repeat' first
    | intro _
    | with_reducible assumption
    | (extract_lets +onlyGivenNames z; clear_value z; revert z; intro _)
    | with_reducible refine fr_startFetch ?_
    | with_reducible apply Fr.ite

theorem fr_inventoryAll {W : Nat} {s0 : State} {s : State} (hs : Fr W s0 s) :
    Fr W s0 (State.inventoryAll s) := by
  unfold State.inventoryAll
  repeat' first
    | intro _
    | with_reducible assumption
    | (extract_lets +onlyGivenNames z; clear_value z; revert z; intro _)
    | with_reducible refine fr_inventoryPut ?_
    | with_reducible apply Fr.foldl
    | ((with_reducible apply Fr.of); rotate_left 23; (with_reducible exact Or.inr rfl); rotate_left 3; with_reducible assumption; (iterate 25 (first | with_reducible exact Or.inr rfl | with_reducible exact Or.inr ⟨rfl, rfl⟩)))

theorem fr_replaceSector {W : Nat} {s0 : State} {s : State} {n : Nat} (hs : Fr W s0 s) {s' : State} {x'} (e' : State.replaceSector s n = some (s', x')) :
    Fr W s0 s' := by
  unfold State.replaceSector at e'
  repeat' first
    | (extract_lets +onlyGivenNames z at e'; clear_value z; revert z; intro _ e')
    | split at e'
    | (with_reducible exact absurd e'.symm (Option.some_ne_none _))
    | with_reducible refine fr_inventoryAll ?_
    | with_reducible refine fr_withyChange ?_
    | ((with_reducible refine Fr.of_some ?_ e'); clear e')
    | ((with_reducible apply Fr.of); rotate_left 23; (with_reducible exact Or.inr rfl); rotate_left 3; with_reducible assumption; (iterate 25 (first | with_reducible exact Or.inr rfl | with_reducible exact Or.inr ⟨rfl, rfl⟩)))

theorem fr_eraseSector {W : Nat} {s0 : State} {s : State} {n : Nat} (hs : Fr W s0 s) :
    Fr W s0 (State.eraseSector s n) := by
  unfold State.eraseSector
  repeat' first
    | intro _
    | with_reducible assumption
    | (extract_lets +onlyGivenNames z; guard_hyp z : State := _; refine Fr.cut (x := z) ?_ (fun _ => ?_); rotate_left; clear_value z; revert z; intro _ _; rotate_left; unfold z; clear z)
    | (extract_lets +onlyGivenNames z; clear_value z; revert z; intro _)
    | with_reducible refine fr_trigger ?_
    | with_reducible apply Fr.ite
    | refine fr_replaceSector ?_ (by with_reducible assumption)
    | ((with_reducible apply Fr.of); rotate_left 23; (with_reducible exact Or.inr rfl); rotate_left 3; with_reducible assumption; (iterate 25 (first | with_reducible exact Or.inr rfl | with_reducible exact Or.inr ⟨rfl, rfl⟩)))
    | split

theorem fr_sectorFault_eq {W : Nat} {s0 : State} {s : State} {n : Nat} (hs : Fr W s0 s) {s' : State} {x'} (e' : State.sectorFault s n = (s', x')) :
    Fr W s0 s' := by
  unfold State.sectorFault at e'
  repeat' first
    | with_reducible assumption
    | (extract_lets +onlyGivenNames z at e'; guard_hyp z : State := _; refine Fr.cut (x := z) ?_ (fun _ => ?_); rotate_left; clear_value z; revert z; intro _ e' _; rotate_left; unfold z; clear e'; clear z)
    | (extract_lets +onlyGivenNames z at e'; clear_value z; revert z; intro _ e')
    | split at e'
    | with_reducible refine fr_raise ?_
    | with_reducible refine fr_setReg ?_
    | refine fr_replaceSector ?_ (by with_reducible assumption)
    | ((with_reducible refine Fr.of_pair ?_ e'); clear e')
    | ((with_reducible apply Fr.of); rotate_left 23; (with_reducible exact Or.inr rfl); rotate_left 3; with_reducible assumption; (iterate 25 (first | with_reducible exact Or.inr rfl | with_reducible exact Or.inr ⟨rfl, rfl⟩)))

theorem fr_sectorFault {W : Nat} {s0 : State} {s : State} {n : Nat} (hs : Fr W s0 s) : Fr W s0 (State.sectorFault s n).1 :=
  Fr.of_eq fun _ _ e' => fr_sectorFault_eq hs e'

theorem fr_rollingRoom {W : Nat} {s0 : State} {s : State} (hs : Fr W s0 s) :
    Fr W s0 (State.rollingRoom s) := by
  unfold State.rollingRoom
  repeat' first
    | intro _
    | with_reducible assumption
    | (extract_lets +onlyGivenNames z; clear_value z; revert z; intro _)
    | with_reducible refine fr_eraseSector ?_
    | with_reducible apply Fr.ite
    | split

theorem fr_refreshSector {W : Nat} {s0 : State} {s : State} {n : Nat} {verifyOk : Bool} (hs : Fr W s0 s) :
    Fr W s0 (State.refreshSector s n verifyOk) := by
  unfold State.refreshSector
  repeat' first
    | intro _
    | with_reducible assumption
    | (extract_lets +onlyGivenNames z; guard_hyp z : State := _; refine Fr.cut (x := z) ?_ (fun _ => ?_); rotate_left; clear_value z; revert z; intro _ _; rotate_left; unfold z; clear z)
    | (extract_lets +onlyGivenNames z; clear_value z; revert z; intro _)
    | with_reducible refine fr_trigger ?_
    | with_reducible refine fr_sectorFault ?_
    | with_reducible apply Fr.ite
    | refine fr_replaceSector ?_ (by with_reducible assumption)
    | ((with_reducible apply Fr.of); rotate_left 23; (with_reducible exact Or.inr rfl); rotate_left 3; with_reducible assumption; (iterate 25 (first | with_reducible exact Or.inr rfl | with_reducible exact Or.inr ⟨rfl, rfl⟩)))
    | split

theorem fr_execSnap {W : Nat} {s0 : State} {s : State} (hs : Fr W s0 s) :
    FrO W s0 (execSnap s) := by
  unfold execSnap
  repeat' first
    | intro _
    | with_reducible assumption
    | with_reducible refine fr_finish ?_ ?_
    | with_reducible refine fr_command ?_ ?_
    | with_reducible refine fr_trigger ?_

theorem fr_execInventoryCommit {W : Nat} {s0 : State} {progOk : Bool} {s : State} (hs : Fr W s0 s) :
    FrO W s0 (execInventoryCommit progOk s) := by
  unfold execInventoryCommit
  repeat' first
    | intro _
    | with_reducible assumption
    | (extract_lets +onlyGivenNames z; guard_hyp z : State → State := _; refine Fr.cutF (f := z) ?_ (fun _ => ?_); rotate_left; clear_value z; revert z; intro _ _; rotate_left; unfold z; clear z; intro _ _; beta_reduce)
    | (extract_lets +onlyGivenNames z; clear_value z; revert z; intro _)
    | with_reducible refine fr_finish ?_ ?_
    | with_reducible refine fr_inventoryPut ?_
    | with_reducible refine fr_sectorFault ?_
    | with_reducible apply Fr.ite
    | ((with_reducible apply Fr.of); rotate_left 23; (with_reducible exact Or.inr rfl); rotate_left 3; with_reducible assumption; (iterate 25 (first | with_reducible exact Or.inr rfl | with_reducible exact Or.inr ⟨rfl, rfl⟩)))
    | split
    | with_reducible apply_assumption

theorem fr_execOperatingSecond {W : Nat} {s0 : State} {power : Nat} {s : State} (hs : Fr W s0 s) :
    FrO W s0 (execOperatingSecond power s) := by
  unfold execOperatingSecond
  repeat' first
    | intro _
    | with_reducible assumption
    | (extract_lets +onlyGivenNames z; guard_hyp z : State := _; refine FrO.cut (x := z) ?_ (fun _ => ?_); rotate_left; clear_value z; revert z; intro _ _; rotate_left; unfold z; clear z)
    | (extract_lets +onlyGivenNames z; clear_value z; revert z; intro _)
    | with_reducible refine fr_finish ?_ ?_
    | with_reducible refine fr_setReg ?_
    | with_reducible refine fr_histSecond ?_
    | with_reducible apply Fr.ite
    | ((with_reducible apply Fr.of); rotate_left 23; (with_reducible exact Or.inr rfl); rotate_left 3; with_reducible assumption; (iterate 25 (first | with_reducible exact Or.inr rfl | with_reducible exact Or.inr ⟨rfl, rfl⟩)))

theorem fr_execAgeTrigger {W : Nat} {s0 : State} {s : State} (hs : Fr W s0 s) :
    FrO W s0 (execAgeTrigger s) := by
  unfold execAgeTrigger
  repeat' first
    | intro _
    | with_reducible assumption
    | (extract_lets +onlyGivenNames z; clear_value z; revert z; intro _)
    | with_reducible refine fr_finish ?_ ?_
    | with_reducible refine fr_trigger ?_
    | with_reducible apply Fr.ite
    | ((with_reducible apply Fr.of); rotate_left 23; (with_reducible exact Or.inr rfl); rotate_left 3; with_reducible assumption; (iterate 25 (first | with_reducible exact Or.inr rfl | with_reducible exact Or.inr ⟨rfl, rfl⟩)))

theorem fr_execAutoInc {W : Nat} {s0 : State} {s : State} (hw : 4 ||| W = W) (hs : Fr W s0 s) :
    FrO W s0 (execAutoInc s) := by
  unfold execAutoInc
  repeat' first
    | intro _
    | with_reducible assumption
    | with_reducible refine fr_finish ?_ ?_
    | with_reducible refine fr_offAccess ?_
    | with_reducible refine fr_autoNext ?_
    | with_reducible apply Fr.ite
    | ((with_reducible apply Fr.of); rotate_left 23; (with_reducible exact Or.inr rfl); rotate_left 3; with_reducible assumption; (iterate 25 (first | with_reducible exact Or.inr rfl | with_reducible exact Or.inr ⟨rfl, rfl⟩ | exact Or.inl (Fr.bit hw rfl))))

theorem fr_execHistogramCheckpoint {W : Nat} {s0 : State} {s : State} (hs : Fr W s0 s) :
    FrO W s0 (execHistogramCheckpoint s) := by
  unfold execHistogramCheckpoint
  repeat' first
    | intro _
    | with_reducible assumption
    | with_reducible refine fr_finish ?_ ?_
    | with_reducible refine fr_checkpoint ?_
    | with_reducible apply Fr.ite

theorem fr_execCursorFetch {W : Nat} {s0 : State} {v : Sys2Proof.Word} {s : State} (hs : Fr W s0 s) :
    FrO W s0 (execCursorFetch v s) := by
  unfold execCursorFetch
  repeat' first
    | intro _
    | with_reducible assumption
    | (extract_lets +onlyGivenNames z; guard_hyp z : State := _; refine Fr.cut (x := z) ?_ (fun _ => ?_); rotate_left; clear_value z; revert z; intro _ _; rotate_left; unfold z; clear z)
    | with_reducible refine fr_finish ?_ ?_
    | with_reducible refine fr_command ?_ ?_
    | with_reducible refine fr_setReg ?_
    | with_reducible refine fr_startFetch ?_

theorem fr_execCursorFetchDone {W : Nat} {s0 : State} {s : State} (hs : Fr W s0 s) :
    FrO W s0 (execCursorFetchDone s) := by
  unfold execCursorFetchDone
  repeat' first
    | intro _
    | with_reducible assumption
    | (extract_lets +onlyGivenNames z; clear_value z; revert z; intro _)
    | with_reducible refine fr_finish ?_ ?_
    | with_reducible apply Fr.ite
    | ((with_reducible apply Fr.of); rotate_left 23; (with_reducible exact Or.inr rfl); rotate_left 3; with_reducible assumption; (iterate 25 (first | with_reducible exact Or.inr rfl | with_reducible exact Or.inr ⟨rfl, rfl⟩)))
    | split

theorem fr_commitTo {W : Nat} {s0 : State} {s : State} {n : Nat} {x2 : Record} (hs : Fr W s0 s) :
    Fr W s0 (State.commitTo s n x2) := by
  unfold State.commitTo
  repeat' first
    | with_reducible refine fr_rollingRoom ?_
    | with_reducible refine fr_raise ?_
    | ((with_reducible apply Fr.of); rotate_left 23; (with_reducible exact Or.inr rfl); rotate_left 3; with_reducible assumption; (iterate 25 (first | with_reducible exact Or.inr rfl | with_reducible exact Or.inr ⟨rfl, rfl⟩)))

theorem fr_execRetentionCheck {W : Nat} {s0 : State} {sector : Nat} {marginOk : Bool} {verifyOk : Bool} {s : State} (hs : Fr W s0 s) :
    FrO W s0 (execRetentionCheck sector marginOk verifyOk s) := by
  unfold execRetentionCheck
  repeat' first
    | intro _
    | with_reducible assumption
    | (extract_lets +onlyGivenNames z; clear_value z; revert z; intro _)
    | with_reducible refine fr_finish ?_ ?_
    | with_reducible refine fr_refreshSector ?_
    | with_reducible apply Fr.ite
    | ((with_reducible apply Fr.of); rotate_left 23; (with_reducible exact Or.inr rfl); rotate_left 3; with_reducible assumption; (iterate 25 (first | with_reducible exact Or.inr rfl | with_reducible exact Or.inr ⟨rfl, rfl⟩)))

theorem fr_commitNext {W : Nat} {s0 : State} {s : State} {progOk : Bool} (hs : Fr W s0 s) :
    Fr W s0 (State.commitNext s progOk) := by
  unfold State.commitNext
  repeat' first
    | intro _
    | with_reducible assumption
    | (extract_lets +onlyGivenNames z; clear_value z; revert z; intro _)
    | with_reducible refine fr_commitTo ?_
    | with_reducible apply Fr.ite
    | refine fr_sectorFault_eq ?_ (by with_reducible assumption)
    | split

theorem fr_execRecordCommit {W : Nat} {s0 : State} {progOk : Bool} {s : State} (hs : Fr W s0 s) :
    FrO W s0 (execRecordCommit progOk s) := by
  unfold execRecordCommit
  repeat' first
    | intro _
    | with_reducible assumption
    | with_reducible refine fr_finish ?_ ?_
    | with_reducible refine fr_commitNext ?_
    | with_reducible apply Fr.ite

theorem fr_commitAll {W : Nat} {s0 : State} {s : State} {a : Nat} (hs : Fr W s0 s) :
    Fr W s0 (State.commitAll s a) := by
  induction a generalizing s with
  | zero =>
    unfold State.commitAll
    repeat' (with_reducible assumption)
  | succ n ih =>
    unfold State.commitAll
    repeat' first
      | intro _
      | with_reducible assumption
      | with_reducible apply ih
      | with_reducible refine fr_commitNext ?_
      | with_reducible refine fr_inventoryAll ?_
      | with_reducible apply Fr.ite

theorem fr_shrink {W : Nat} {s0 : State} {s : State} (hs : Fr W s0 s) :
    Fr W s0 (State.shrink s) := by
  unfold State.shrink
  repeat' first
    | intro _
    | with_reducible assumption
    | (extract_lets +onlyGivenNames z; guard_hyp z : State := _; refine Fr.cut (x := z) ?_ (fun _ => ?_); rotate_left; clear_value z; revert z; intro _ _; rotate_left; unfold z; clear z)
    | (extract_lets +onlyGivenNames z; clear_value z; revert z; intro _)
    | with_reducible refine fr_commitAll ?_
    | with_reducible apply Fr.ite
    | refine fr_replaceSector ?_ (by with_reducible assumption)
    | ((with_reducible apply Fr.of); rotate_left 23; (with_reducible exact Or.inr rfl); rotate_left 3; with_reducible assumption; (iterate 25 (first | with_reducible exact Or.inr rfl | with_reducible exact Or.inr ⟨rfl, rfl⟩)))
    | split

theorem fr_execShrink {W : Nat} {s0 : State} {s : State} (hs : Fr W s0 s) :
    FrO W s0 (execShrink s) := by
  unfold execShrink
  repeat' first
    | intro _
    | with_reducible assumption
    | with_reducible refine fr_finish ?_ ?_
    | with_reducible refine fr_command ?_ ?_
    | with_reducible refine fr_onlyIn ?_ ?_
    | with_reducible refine fr_violation ?_
    | with_reducible refine fr_shrink ?_
    | with_reducible apply Fr.ite

/-! Rings. -/

theorem fr_abandonEntries {W : Nat} {s0 : State} {s : State} {r : Nat} {left : Nat} (hw : 33554432 ||| W = W) (hs : Fr W s0 s) :
    Fr W s0 (State.abandonEntries s r left) := by
  unfold State.abandonEntries
  repeat' first
    | (extract_lets +onlyGivenNames z; guard_hyp z : Hst := _; revert z; intro _)
    | ((with_reducible apply Fr.of); rotate_left 23; (with_reducible exact Or.inr rfl); rotate_left 3; with_reducible assumption; (iterate 25 (first | with_reducible exact Or.inr rfl | with_reducible exact Or.inr ⟨rfl, rfl⟩ | exact Or.inl (Fr.bit hw rfl))))

theorem fr_portReset {W : Nat} {s0 : State} {s : State} {kind : Sys2Proof.PortReset} (hw : 58720256 ||| W = W) (hs : Fr W s0 s) :
    Fr W s0 (State.portReset s kind) := by
  unfold State.portReset
  repeat' first
    | (extract_lets +onlyGivenNames z; guard_hyp z : Hst := _; revert z; intro _)
    | (extract_lets +onlyGivenNames z; clear_value z; revert z; intro _)
    | ((with_reducible apply Fr.of); rotate_left 23; (with_reducible exact Or.inr rfl); rotate_left 3; with_reducible assumption; (iterate 25 (first | with_reducible exact Or.inr rfl | with_reducible exact Or.inr ⟨rfl, rfl⟩ | exact Or.inl (Fr.bit hw rfl))))

theorem fr_resumeRing {W : Nat} {s0 : State} {s : State} {r : Nat} (hw : 8388608 ||| W = W) (hs : Fr W s0 s) :
    Fr W s0 (State.resumeRing s r) := by
  unfold State.resumeRing
  repeat' first
    | with_reducible assumption
    | (extract_lets +onlyGivenNames z; clear_value z; revert z; intro _)
    | with_reducible refine fr_setRing hw ?_

theorem fr_enableWrite {W : Nat} {s0 : State} {s : State} {hi : Bool} {v : Nat} (hs : Fr W s0 s) :
    Fr W s0 (State.enableWrite s hi v) := by
  unfold State.enableWrite
  repeat' first
    | intro _
    | with_reducible assumption
    | (extract_lets +onlyGivenNames z; guard_hyp z : State := _; refine Fr.cut (x := z) ?_ (fun _ => ?_); rotate_left; clear_value z; revert z; intro _ _; rotate_left; unfold z; clear z)
    | (extract_lets +onlyGivenNames z; clear_value z; revert z; intro _)
    | with_reducible refine fr_setReg ?_
    | with_reducible refine fr_owe ?_
    | with_reducible refine fr_unowe ?_
    | with_reducible apply Fr.ite
    | with_reducible apply Fr.foldl

theorem fr_pendClear {W : Nat} {s0 : State} {s : State} {hi : Bool} {v : Nat} (hs : Fr W s0 s) :
    Fr W s0 (State.pendClear s hi v) := by
  unfold State.pendClear
  repeat' first
    | intro _
    | with_reducible assumption
    | with_reducible refine fr_unowe ?_
    | with_reducible refine fr_setField ?_
    | with_reducible apply Fr.ite
    | with_reducible apply Fr.foldl

theorem fr_rxTrim {W : Nat} {s0 : State} {s : State} (hw : 262144 ||| W = W) (hs : Fr W s0 s) :
    Fr W s0 (State.rxTrim s) := by
  unfold State.rxTrim
  repeat' first
    | (extract_lets +onlyGivenNames z; clear_value z; revert z; intro _)
    | with_reducible refine fr_bumpBy ?_
    | ((with_reducible apply Fr.of); rotate_left 23; (with_reducible exact Or.inr rfl); rotate_left 3; with_reducible assumption; (iterate 25 (first | with_reducible exact Or.inr rfl | with_reducible exact Or.inr ⟨rfl, rfl⟩ | exact Or.inl (Fr.bit hw rfl))))

theorem fr_ringBell {W : Nat} {s0 : State} {s : State} {r : Nat} {v : Nat} (hw : 8388608 ||| W = W) (hs : Fr W s0 s) :
    Fr W s0 (State.ringBell s r v) := by
  unfold State.ringBell
  repeat' first
    | intro _
    | with_reducible assumption
    | (extract_lets +onlyGivenNames z; clear_value z; revert z; intro _)
    | with_reducible refine fr_setRing hw ?_
    | with_reducible refine fr_setReg ?_
    | with_reducible refine fr_bump ?_
    | with_reducible apply Fr.ite

theorem fr_enableRing {W : Nat} {s0 : State} {s : State} {r : Nat} {v : Nat} (hw : 8388608 ||| W = W) (hs : Fr W s0 s) :
    Fr W s0 (State.enableRing s r v) := by
  unfold State.enableRing
  repeat' first
    | intro _
    | with_reducible assumption
    | (extract_lets +onlyGivenNames z; guard_hyp z : State := _; refine Fr.cut (x := z) ?_ (fun _ => ?_); rotate_left; clear_value z; revert z; intro _ _; rotate_left; unfold z; clear z)
    | (extract_lets +onlyGivenNames z; clear_value z; revert z; intro _)
    | with_reducible refine fr_violation ?_
    | with_reducible refine fr_setField ?_
    | with_reducible refine fr_setReg ?_
    | with_reducible refine fr_setRing hw ?_
    | with_reducible apply Fr.ite

theorem fr_bar2Write {W : Nat} {s0 : State} {s : State} {page : Nat} {off : Nat} {be : Nat} {v : Nat} (hw : 8388608 ||| W = W) (hs : Fr W s0 s) :
    Fr W s0 (State.bar2Write s page off be v) := by
  unfold State.bar2Write
  repeat' first
    | intro _
    | with_reducible assumption
    | with_reducible refine fr_violation ?_
    | with_reducible refine fr_ringBell hw ?_
    | with_reducible apply Fr.ite

theorem fr_setSources {W : Nat} {s0 : State} {s : State} {hi : Bool} {v : Nat} (hs : Fr W s0 s) :
    Fr W s0 (State.setSources s hi v) := by
  unfold State.setSources
  repeat' first
    | intro _
    | with_reducible assumption
    | with_reducible refine fr_raiseN ?_
    | with_reducible apply Fr.foldl

theorem fr_execIrqSet {W : Nat} {s0 : State} {hi : Bool} {v : Sys2Proof.Word} {s : State} (hs : Fr W s0 s) :
    FrO W s0 (execIrqSet hi v s) := by
  unfold execIrqSet
  repeat' first
    | intro _
    | with_reducible assumption
    | with_reducible refine fr_finish ?_ ?_
    | with_reducible refine fr_command ?_ ?_
    | with_reducible refine fr_setSources ?_

theorem fr_execIrqPendClear {W : Nat} {s0 : State} {hi : Bool} {v : Sys2Proof.Word} {s : State} (hs : Fr W s0 s) :
    FrO W s0 (execIrqPendClear hi v s) := by
  unfold execIrqPendClear
  repeat' first
    | intro _
    | with_reducible assumption
    | with_reducible refine fr_finish ?_ ?_
    | with_reducible refine fr_command ?_ ?_
    | with_reducible refine fr_pendClear ?_

theorem fr_execHostPortReset {W : Nat} {s0 : State} {kind : Sys2Proof.PortReset} {s : State} (hw : 58720256 ||| W = W) (hs : Fr W s0 s) :
    FrO W s0 (execHostPortReset kind s) := by
  unfold execHostPortReset
  repeat' first
    | with_reducible assumption
    | with_reducible refine fr_finish ?_ ?_
    | with_reducible refine fr_portReset hw ?_

theorem fr_execIrqEnableWrite {W : Nat} {s0 : State} {hi : Bool} {v : Sys2Proof.Word} {s : State} (hs : Fr W s0 s) :
    FrO W s0 (execIrqEnableWrite hi v s) := by
  unfold execIrqEnableWrite
  repeat' first
    | intro _
    | with_reducible assumption
    | with_reducible refine fr_finish ?_ ?_
    | with_reducible refine fr_command ?_ ?_
    | with_reducible refine fr_enableWrite ?_

theorem fr_execDoorbell {W : Nat} {s0 : State} {page : Nat} {off : Nat} {be : Nat} {v : Sys2Proof.Word} {s : State} (hw : 8388608 ||| W = W) (hs : Fr W s0 s) :
    FrO W s0 (execDoorbell page off be v s) := by
  unfold execDoorbell
  repeat' first
    | with_reducible assumption
    | with_reducible refine fr_finish ?_ ?_
    | with_reducible refine fr_bar2Write hw ?_

theorem fr_execRingResume {W : Nat} {s0 : State} {ring : Nat} {s : State} (hw : 8388608 ||| W = W) (hs : Fr W s0 s) :
    FrO W s0 (execRingResume ring s) := by
  unfold execRingResume
  repeat' first
    | intro _
    | with_reducible assumption
    | with_reducible refine fr_finish ?_ ?_
    | with_reducible refine fr_command ?_ ?_
    | with_reducible refine fr_resumeRing hw ?_
    | with_reducible apply Fr.ite

theorem fr_execIrqMessageSend {W : Nat} {s0 : State} {v : Sys2Proof.Word} {s : State} (hs : Fr W s0 s) :
    FrO W s0 (execIrqMessageSend v s) := by
  unfold execIrqMessageSend
  repeat' first
    | intro _
    | with_reducible assumption
    | (extract_lets +onlyGivenNames z; guard_hyp z : State := _; refine FrO.cut (x := z) ?_ (fun _ => ?_); rotate_left; clear_value z; revert z; intro _ _; rotate_left; unfold z; clear z)
    | (extract_lets +onlyGivenNames z; guard_hyp z : Hst := _; revert z; intro _)
    | (extract_lets +onlyGivenNames z; clear_value z; revert z; intro _)
    | with_reducible refine fr_finish ?_ ?_
    | with_reducible refine fr_bump ?_
    | with_reducible refine fr_unowe ?_
    | with_reducible apply Fr.ite
    | ((with_reducible apply Fr.of); rotate_left 23; (with_reducible exact Or.inr rfl); rotate_left 3; with_reducible assumption; (iterate 25 (first | with_reducible exact Or.inr rfl | with_reducible exact Or.inr ⟨rfl, rfl⟩)))

theorem fr_resetRing {W : Nat} {s0 : State} {s : State} {r : Nat} (hw : 42205192 ||| W = W) (hs : Fr W s0 s) :
    Fr W s0 (State.resetRing s r) := by
  unfold State.resetRing
  repeat' first
    | intro _
    | with_reducible assumption
    | (extract_lets +onlyGivenNames z; guard_hyp z : State := _; refine Fr.cut (x := z) ?_ (fun _ => ?_); rotate_left; clear_value z; revert z; intro _ _; rotate_left; unfold z; clear z)
    | (extract_lets +onlyGivenNames z; clear_value z; revert z; intro _)
    | with_reducible refine fr_abandonEntries (Fr.sub (V := 42205192) rfl hw) ?_
    | with_reducible refine fr_setRing (Fr.sub (V := 42205192) rfl hw) ?_
    | with_reducible refine fr_doReset (Fr.sub (V := 42205192) rfl hw) ?_
    | with_reducible refine fr_settleBarriers (Fr.sub (V := 42205192) rfl hw) ?_
    | with_reducible refine fr_rxTrim (Fr.sub (V := 42205192) rfl hw) ?_
    | with_reducible apply Fr.ite
    | ((with_reducible apply Fr.of); rotate_left 23; (with_reducible exact Or.inr rfl); rotate_left 3; with_reducible assumption; (iterate 25 (first | with_reducible exact Or.inr rfl | with_reducible exact Or.inr ⟨rfl, rfl⟩ | exact Or.inl (Fr.bit hw rfl))))

theorem fr_rxServe {W : Nat} {s0 : State} {s : State} (hw : 42205192 ||| W = W) (hs : Fr W s0 s) :
    Fr W s0 (State.rxServe s) := by
  unfold State.rxServe
  repeat' first
    | intro _
    | with_reducible assumption
    | (extract_lets +onlyGivenNames z; guard_hyp z : State := _; refine Fr.cut (x := z) ?_ (fun _ => ?_); rotate_left; clear_value z; revert z; intro _ _; rotate_left; unfold z; clear z)
    | (extract_lets +onlyGivenNames z; clear_value z; revert z; intro _)
    | with_reducible refine fr_hostWrite (Fr.sub (V := 42205192) rfl hw) ?_
    | with_reducible refine fr_answer (Fr.sub (V := 42205192) rfl hw) ?_
    | with_reducible apply Fr.ite
    | ((with_reducible apply Fr.of); rotate_left 23; (with_reducible exact Or.inr rfl); rotate_left 3; with_reducible assumption; (iterate 25 (first | with_reducible exact Or.inr rfl | with_reducible exact Or.inr ⟨rfl, rfl⟩ | exact Or.inl (Fr.bit hw rfl))))
    | split

theorem fr_releaseHeld {W : Nat} {s0 : State} {s : State} (hw : 41943048 ||| W = W) (hs : Fr W s0 s) :
    Fr W s0 (State.releaseHeld s) := by
  unfold State.releaseHeld
  repeat' first
    | intro _
    | with_reducible assumption
    | with_reducible refine fr_answer hw ?_
    | with_reducible apply Fr.foldl
    | split

theorem fr_disableRing {W : Nat} {s0 : State} {s : State} {r : Nat} {v : Nat} (hw : 42205192 ||| W = W) (hs : Fr W s0 s) :
    Fr W s0 (State.disableRing s r v) := by
  unfold State.disableRing
  repeat' first
    | intro _
    | with_reducible assumption
    | (extract_lets +onlyGivenNames z; guard_hyp z : State := _; refine Fr.cut (x := z) ?_ (fun _ => ?_); rotate_left; clear_value z; revert z; intro _ _; rotate_left; unfold z; clear z)
    | (extract_lets +onlyGivenNames z; clear_value z; revert z; intro _)
    | with_reducible refine fr_violation ?_
    | with_reducible refine fr_resetRing hw ?_
    | with_reducible refine fr_setField ?_
    | with_reducible refine fr_setReg ?_
    | with_reducible apply Fr.ite

theorem fr_execRingReset {W : Nat} {s0 : State} {ring : Nat} {s : State} (hw : 42205192 ||| W = W) (hs : Fr W s0 s) :
    FrO W s0 (execRingReset ring s) := by
  unfold execRingReset
  repeat' first
    | intro _
    | with_reducible assumption
    | with_reducible refine fr_finish ?_ ?_
    | with_reducible refine fr_command ?_ ?_
    | with_reducible refine fr_resetRing hw ?_
    | with_reducible apply Fr.ite

theorem fr_takeEntry {W : Nat} {s0 : State} {s : State} {r : Nat} {b : List Sys2Proof.Byte} (hw : 42205192 ||| W = W) (hs : Fr W s0 s) :
    Fr W s0 (State.takeEntry s r b) := by
  unfold State.takeEntry
  repeat' first
    | intro _
    | with_reducible assumption
    | (extract_lets +onlyGivenNames z; guard_hyp z : State := _; refine Fr.cut (x := z) ?_ (fun _ => ?_); rotate_left; clear_value z; revert z; intro _ _; rotate_left; unfold z; clear z)
    | (extract_lets +onlyGivenNames z; guard_hyp z : Hst := _; revert z; intro _)
    | (extract_lets +onlyGivenNames z; clear_value z; revert z; intro _)
    | with_reducible refine fr_setRing (Fr.sub (V := 42205192) rfl hw) ?_
    | with_reducible refine fr_rejectMalformed (Fr.sub (V := 42205192) rfl hw) ?_
    | with_reducible refine fr_refuse (Fr.sub (V := 42205192) rfl hw) ?_
    | with_reducible refine fr_rxServe hw ?_
    | with_reducible apply Fr.ite
    | ((with_reducible apply Fr.of); rotate_left 23; (with_reducible exact Or.inr rfl); rotate_left 3; with_reducible assumption; (iterate 25 (first | with_reducible exact Or.inr rfl | with_reducible exact Or.inr ⟨rfl, rfl⟩ | exact Or.inl (Fr.bit hw rfl))))
    | split

theorem fr_execBusMasterEnable {W : Nat} {s0 : State} {on : Bool} {s : State} (hw : 58982408 ||| W = W) (hs : Fr W s0 s) :
    FrO W s0 (execBusMasterEnable on s) := by
  unfold execBusMasterEnable
  repeat' first
    | intro _
    | with_reducible assumption
    | (extract_lets +onlyGivenNames z; guard_hyp z : State := _; refine FrO.cut (x := z) ?_ (fun _ => ?_); rotate_left; clear_value z; revert z; intro _ _; rotate_left; unfold z; clear z)
    | (extract_lets +onlyGivenNames z; guard_hyp z : Hst := _; revert z; intro _)
    | with_reducible refine fr_finish ?_ ?_
    | with_reducible refine fr_rxServe (Fr.sub (V := 58982408) rfl hw) ?_
    | with_reducible refine fr_releaseHeld (Fr.sub (V := 58982408) rfl hw) ?_
    | with_reducible apply Fr.ite
    | ((with_reducible apply Fr.of); rotate_left 23; (with_reducible exact Or.inr rfl); rotate_left 3; with_reducible assumption; (iterate 25 (first | with_reducible exact Or.inr rfl | with_reducible exact Or.inr ⟨rfl, rfl⟩ | exact Or.inl (Fr.bit hw rfl))))

theorem fr_writeRingCfg {W : Nat} {s0 : State} {s : State} {r : Nat} {v : Nat} (hw : 42205192 ||| W = W) (hs : Fr W s0 s) :
    Fr W s0 (State.writeRingCfg s r v) := by
  unfold State.writeRingCfg
  repeat' first
    | intro _
    | with_reducible assumption
    | with_reducible refine fr_enableRing (Fr.sub (V := 42205192) rfl hw) ?_
    | with_reducible refine fr_disableRing hw ?_
    | with_reducible apply Fr.ite

theorem fr_fetched {W : Nat} {s0 : State} {s : State} {r : Nat} {e : Sys2Proof.EntryRead} (hw : 42205192 ||| W = W) (hs : Fr W s0 s) :
    Fr W s0 (State.fetched s r e) := by
  unfold State.fetched
  repeat' first
    | intro _
    | with_reducible assumption
    | (extract_lets +onlyGivenNames z; clear_value z; revert z; intro _)
    | with_reducible refine fr_settleBarriers (Fr.sub (V := 42205192) rfl hw) ?_
    | with_reducible refine fr_haltRing (Fr.sub (V := 42205192) rfl hw) ?_
    | with_reducible refine fr_setRing (Fr.sub (V := 42205192) rfl hw) ?_
    | with_reducible refine fr_takeEntry hw ?_
    | with_reducible apply Fr.ite
    | split

theorem fr_execRingDisable {W : Nat} {s0 : State} {ring : Nat} {v : Sys2Proof.Word} {s : State} (hw : 42205192 ||| W = W) (hs : Fr W s0 s) :
    FrO W s0 (execRingDisable ring v s) := by
  unfold execRingDisable
  repeat' first
    | intro _
    | with_reducible assumption
    | with_reducible refine fr_finish ?_ ?_
    | with_reducible refine fr_command ?_ ?_
    | with_reducible refine fr_writeRingCfg hw ?_
    | with_reducible apply Fr.ite

theorem fr_execRingEnable {W : Nat} {s0 : State} {ring : Nat} {v : Sys2Proof.Word} {s : State} (hw : 42205192 ||| W = W) (hs : Fr W s0 s) :
    FrO W s0 (execRingEnable ring v s) := by
  unfold execRingEnable
  repeat' first
    | intro _
    | with_reducible assumption
    | with_reducible refine fr_finish ?_ ?_
    | with_reducible refine fr_command ?_ ?_
    | with_reducible refine fr_writeRingCfg hw ?_
    | with_reducible apply Fr.ite

theorem fr_execEntryFetch {W : Nat} {s0 : State} {ring : Nat} {e : Sys2Proof.EntryRead} {s : State} (hw : 42205192 ||| W = W) (hs : Fr W s0 s) :
    FrO W s0 (execEntryFetch ring e s) := by
  unfold execEntryFetch
  repeat' first
    | intro _
    | with_reducible assumption
    | with_reducible refine fr_finish ?_ ?_
    | with_reducible refine fr_fetched hw ?_
    | with_reducible apply Fr.ite

theorem fr_execPhaseRefetch {W : Nat} {s0 : State} {ring : Nat} {e : Sys2Proof.EntryRead} {s : State} (hw : 42205192 ||| W = W) (hs : Fr W s0 s) :
    FrO W s0 (execPhaseRefetch ring e s) := by
  unfold execPhaseRefetch
  repeat' first
    | intro _
    | with_reducible assumption
    | with_reducible refine fr_finish ?_ ?_
    | with_reducible refine fr_fetched hw ?_
    | with_reducible apply Fr.ite

end Sys2Proof.Laws
end

