-- ==== Sys2Proof/Laws/FrameTicks.lean ====
section
/-! SUPPORT. What ticks, frames and the plate leave as it was: one lemma for each operation and each command (see Frame). -/

namespace Sys2Proof.Laws

open Sys2Proof.Machine

/-! Ticks. -/

theorem fr_modAxis {W : Nat} {s0 : State} {s : State} {x1 : Sys2Proof.AxisName} {f : Axis → Axis} (hw : 8192 ||| W = W) (hs : Fr W s0 s) :
    Fr W s0 (State.modAxis s x1 f) := by
  unfold State.modAxis
  repeat' first
    | (extract_lets +onlyGivenNames z; clear_value z; revert z; intro _)
    | ((with_reducible apply Fr.of); rotate_left 23; (with_reducible exact Or.inr rfl); rotate_left 3; with_reducible assumption; (iterate 25 (first | with_reducible exact Or.inr rfl | with_reducible exact Or.inr ⟨rfl, rfl⟩ | exact Or.inl (Fr.bit hw rfl))))
    | split

theorem fr_stopFree {W : Nat} {s0 : State} {s : State} (hw : 8192 ||| W = W) (hs : Fr W s0 s) :
    Fr W s0 (State.stopFree s) := by
  unfold State.stopFree
  repeat' first
    | (extract_lets +onlyGivenNames z; clear_value z; revert z; intro _)
    | ((with_reducible apply Fr.of); rotate_left 23; (with_reducible exact Or.inr rfl); rotate_left 3; with_reducible assumption; (iterate 25 (first | with_reducible exact Or.inr rfl | with_reducible exact Or.inr ⟨rfl, rfl⟩ | exact Or.inl (Fr.bit hw rfl))))

theorem fr_readOffsets {W : Nat} {s0 : State} {s : State} {b : Bool} (hw : 64 ||| W = W) (hs : Fr W s0 s) :
    Fr W s0 (State.readOffsets s b) := by
  unfold State.readOffsets
  repeat' first
    | with_reducible assumption
    | (extract_lets +onlyGivenNames z; clear_value z; revert z; intro _)
    | with_reducible refine fr_modRun hw ?_

theorem fr_noteBelow {W : Nat} {s0 : State} {s : State} {c : Nat} (hw : 64 ||| W = W) (hs : Fr W s0 s) :
    Fr W s0 (State.noteBelow s c) := by
  unfold State.noteBelow
  repeat' first
    | intro _
    | with_reducible assumption
    | with_reducible refine fr_modRun hw ?_
    | with_reducible apply Fr.ite
    | split

theorem fr_presetNow {W : Nat} {s0 : State} {s : State} {axis : Sys2Proof.AxisName} (hw : 8192 ||| W = W) (hs : Fr W s0 s) :
    Fr W s0 (State.presetNow s axis) := by
  unfold State.presetNow
  repeat' first
    | with_reducible assumption
    | with_reducible refine fr_modAxis hw ?_

theorem fr_presetIdx {W : Nat} {s0 : State} {s : State} {axis : Sys2Proof.AxisName} (hw : 8192 ||| W = W) (hs : Fr W s0 s) :
    Fr W s0 (State.presetIdx s axis) := by
  unfold State.presetIdx
  repeat' first
    | with_reducible assumption
    | with_reducible refine fr_modAxis hw ?_

theorem fr_countTick {W : Nat} {s0 : State} {s : State} {t64 : Nat} {dt : Option Nat} (hw : 8192 ||| W = W) (hs : Fr W s0 s) :
    Fr W s0 (State.countTick s t64 dt) := by
  unfold State.countTick
  repeat' first
    | with_reducible assumption
    | (extract_lets +onlyGivenNames z; guard_hyp z : State := _; refine Fr.cut (x := z) ?_ (fun _ => ?_); rotate_left; clear_value z; revert z; intro _ _; rotate_left; unfold z; clear z)
    | (extract_lets +onlyGivenNames z; clear_value z; revert z; intro _)
    | with_reducible refine fr_setReg64 ?_
    | with_reducible refine fr_setReg ?_
    | ((with_reducible apply Fr.of); rotate_left 23; (with_reducible exact Or.inr rfl); rotate_left 3; with_reducible assumption; (iterate 25 (first | with_reducible exact Or.inr rfl | with_reducible exact Or.inr ⟨rfl, rfl⟩ | exact Or.inl (Fr.bit hw rfl))))
    | split

theorem fr_anchorCommand {W : Nat} {s0 : State} {s : State} {v : Nat} {f : State → State} (hs : Fr W s0 s) (hf : ∀ (x0 : State), Fr W s0 x0 → Fr W s0 (f x0)) :
    Fr W s0 (State.anchorCommand s v f) := by
  unfold State.anchorCommand
  repeat' first
    | intro _
    | with_reducible assumption
    | with_reducible apply hf
    | with_reducible refine fr_command ?_ ?_
    | with_reducible refine fr_violation ?_
    | with_reducible apply Fr.ite

theorem fr_capture {W : Nat} {s0 : State} {s : State} {n : Nat} {t : Nat} (hw : 524288 ||| W = W) (hs : Fr W s0 s) :
    Fr W s0 (State.capture s n t) := by
  unfold State.capture
  repeat' first
    | intro _
    | with_reducible assumption
    | (extract_lets +onlyGivenNames z; clear_value z; revert z; intro _)
    | with_reducible refine fr_raise ?_
    | with_reducible refine fr_bump ?_
    | with_reducible apply Fr.ite
    | ((with_reducible apply Fr.of); rotate_left 23; (with_reducible exact Or.inr rfl); rotate_left 3; with_reducible assumption; (iterate 25 (first | with_reducible exact Or.inr rfl | with_reducible exact Or.inr ⟨rfl, rfl⟩ | exact Or.inl (Fr.bit hw rfl))))

theorem fr_captureAll {W : Nat} {s0 : State} {s : State} {src : Nat} {t : Nat} (hw : 524288 ||| W = W) (hs : Fr W s0 s) :
    Fr W s0 (State.captureAll s src t) := by
  unfold State.captureAll
  repeat' first
    | intro _
    | with_reducible assumption
    | with_reducible refine fr_capture hw ?_
    | with_reducible apply Fr.ite
    | with_reducible apply Fr.foldl

theorem fr_execTickTrimUpdate {W : Nat} {s0 : State} {s : State} (hw : 8194 ||| W = W) (hs : Fr W s0 s) :
    FrO W s0 (execTickTrimUpdate s) := by
  unfold execTickTrimUpdate
  repeat' first
    | intro _
    | with_reducible assumption
    | (extract_lets +onlyGivenNames z; guard_hyp z : State := _; refine FrO.cut (x := z) ?_ (fun _ => ?_); rotate_left; clear_value z; revert z; intro _ _; rotate_left; unfold z; clear z)
    | (extract_lets +onlyGivenNames z; clear_value z; revert z; intro _)
    | with_reducible refine fr_finish ?_ ?_
    | with_reducible refine fr_next (Fr.sub (V := 8194) rfl hw) ?_
    | with_reducible apply Fr.ite
    | ((with_reducible apply Fr.of); rotate_left 23; (with_reducible exact Or.inr rfl); rotate_left 3; with_reducible assumption; (iterate 25 (first | with_reducible exact Or.inr rfl | with_reducible exact Or.inr ⟨rfl, rfl⟩ | exact Or.inl (Fr.bit hw rfl))))

theorem fr_execPresetSIdx {W : Nat} {s0 : State} {s : State} (hw : 8192 ||| W = W) (hs : Fr W s0 s) :
    FrO W s0 (execPresetSIdx s) := by
  unfold execPresetSIdx
  repeat' first
    | intro _
    | with_reducible assumption
    | with_reducible refine fr_finish ?_ ?_
    | with_reducible refine fr_anchorCommand ?_ ?_
    | with_reducible refine fr_presetIdx hw ?_

theorem fr_execIndexEdge {W : Nat} {s0 : State} {axis : Sys2Proof.AxisName} {t : Nat} {sx : State} (hw : 8193 ||| W = W) (hsx : Fr W s0 sx) :
    FrO W s0 (execIndexEdge axis t sx) := by
  unfold execIndexEdge
  repeat' first
    | intro _
    | with_reducible assumption
    | (extract_lets +onlyGivenNames z; guard_hyp z : State := _; refine FrO.cut (x := z) ?_ (fun _ => ?_); rotate_left; clear_value z; revert z; intro _ _; rotate_left; unfold z; clear z)
    | (extract_lets +onlyGivenNames z; clear_value z; revert z; intro _)
    | with_reducible refine fr_at_ (Fr.sub (V := 8193) rfl hw) ?_
    | with_reducible refine fr_finish ?_ ?_
    | with_reducible refine fr_modAxis (Fr.sub (V := 8193) rfl hw) ?_
    | with_reducible refine fr_setField ?_
    | with_reducible refine fr_setReg64 ?_
    | with_reducible apply Fr.ite
    | split

theorem fr_execPresetCIdx {W : Nat} {s0 : State} {s : State} (hw : 8192 ||| W = W) (hs : Fr W s0 s) :
    FrO W s0 (execPresetCIdx s) := by
  unfold execPresetCIdx
  repeat' first
    | intro _
    | with_reducible assumption
    | with_reducible refine fr_finish ?_ ?_
    | with_reducible refine fr_anchorCommand ?_ ?_
    | with_reducible refine fr_presetIdx hw ?_

theorem fr_execAnchorPw {W : Nat} {s0 : State} {s : State} (hw : 8192 ||| W = W) (hs : Fr W s0 s) :
    FrO W s0 (execAnchorPw s) := by
  unfold execAnchorPw
  repeat' first
    | intro _
    | with_reducible assumption
    | (extract_lets +onlyGivenNames z; clear_value z; revert z; intro _)
    | with_reducible refine fr_finish ?_ ?_
    | with_reducible refine fr_anchorCommand ?_ ?_
    | ((with_reducible apply Fr.of); rotate_left 23; (with_reducible exact Or.inr rfl); rotate_left 3; with_reducible assumption; (iterate 25 (first | with_reducible exact Or.inr rfl | with_reducible exact Or.inr ⟨rfl, rfl⟩ | exact Or.inl (Fr.bit hw rfl))))

theorem fr_execSimStop {W : Nat} {s0 : State} {s : State} (hw : 8192 ||| W = W) (hs : Fr W s0 s) :
    FrO W s0 (execSimStop s) := by
  unfold execSimStop
  repeat' first
    | intro _
    | with_reducible assumption
    | with_reducible refine fr_finish ?_ ?_
    | with_reducible refine fr_command ?_ ?_
    | with_reducible refine fr_stopFree hw ?_

theorem fr_execPresetSNow {W : Nat} {s0 : State} {s : State} (hw : 8192 ||| W = W) (hs : Fr W s0 s) :
    FrO W s0 (execPresetSNow s) := by
  unfold execPresetSNow
  repeat' first
    | intro _
    | with_reducible assumption
    | with_reducible refine fr_finish ?_ ?_
    | with_reducible refine fr_anchorCommand ?_ ?_
    | with_reducible refine fr_presetNow hw ?_

theorem fr_execPresetCNow {W : Nat} {s0 : State} {s : State} (hw : 8192 ||| W = W) (hs : Fr W s0 s) :
    FrO W s0 (execPresetCNow s) := by
  unfold execPresetCNow
  repeat' first
    | intro _
    | with_reducible assumption
    | with_reducible refine fr_finish ?_ ?_
    | with_reducible refine fr_anchorCommand ?_ ?_
    | with_reducible refine fr_presetNow hw ?_

theorem fr_execSimFreeTick {W : Nat} {s0 : State} {t : Nat} {sx : State} (hw : 8193 ||| W = W) (hsx : Fr W s0 sx) :
    FrO W s0 (execSimFreeTick t sx) := by
  unfold execSimFreeTick
  repeat' first
    | intro _
    | with_reducible assumption
    | (extract_lets +onlyGivenNames z; guard_hyp z : State := _; refine Fr.cut (x := z) ?_ (fun _ => ?_); rotate_left; clear_value z; revert z; intro _ _; rotate_left; unfold z; clear z)
    | (extract_lets +onlyGivenNames z; guard_hyp z : State := _; refine FrO.cut (x := z) ?_ (fun _ => ?_); rotate_left; clear_value z; revert z; intro _ _; rotate_left; unfold z; clear z)
    | (extract_lets +onlyGivenNames z; clear_value z; revert z; intro _)
    | with_reducible refine fr_at_ (Fr.sub (V := 8193) rfl hw) ?_
    | with_reducible refine fr_finish ?_ ?_
    | with_reducible refine fr_countTick (Fr.sub (V := 8193) rfl hw) ?_
    | with_reducible refine fr_bump ?_
    | with_reducible apply Fr.ite
    | ((with_reducible apply Fr.of); rotate_left 23; (with_reducible exact Or.inr rfl); rotate_left 3; with_reducible assumption; (iterate 25 (first | with_reducible exact Or.inr rfl | with_reducible exact Or.inr ⟨rfl, rfl⟩ | exact Or.inl (Fr.bit hw rfl))))
    | split

theorem fr_execSimRun {W : Nat} {s0 : State} {t : Nat} {sx : State} (hw : 8193 ||| W = W) (hsx : Fr W s0 sx) :
    FrO W s0 (execSimRun t sx) := by
  unfold execSimRun
  repeat' first
    | intro _
    | with_reducible assumption
    | (extract_lets +onlyGivenNames z; clear_value z; revert z; intro _)
    | with_reducible refine fr_finish ?_ ?_
    | with_reducible refine fr_command ?_ ?_
    | with_reducible refine fr_at_ (Fr.sub (V := 8193) rfl hw) ?_
    | with_reducible refine fr_violation ?_
    | with_reducible apply Fr.ite
    | ((with_reducible apply Fr.of); rotate_left 23; (with_reducible exact Or.inr rfl); rotate_left 3; with_reducible assumption; (iterate 25 (first | with_reducible exact Or.inr rfl | with_reducible exact Or.inr ⟨rfl, rfl⟩ | exact Or.inl (Fr.bit hw rfl))))

theorem fr_swapRoles {W : Nat} {s0 : State} {s : State} (hw : 525344 ||| W = W) (hs : Fr W s0 s) :
    Fr W s0 (State.swapRoles s) := by
  unfold State.swapRoles
  repeat' first
    | with_reducible assumption
    | (extract_lets +onlyGivenNames z; guard_hyp z : State := _; refine Fr.cut (x := z) ?_ (fun _ => ?_); rotate_left; clear_value z; revert z; intro _ _; rotate_left; unfold z; clear z)
    | (extract_lets +onlyGivenNames z; clear_value z; revert z; intro _)
    | with_reducible refine fr_captureAll (Fr.sub (V := 525344) rfl hw) ?_
    | with_reducible refine fr_raise ?_
    | with_reducible refine fr_setReg ?_
    | ((with_reducible apply Fr.of); rotate_left 23; (with_reducible exact Or.inr rfl); rotate_left 3; with_reducible assumption; (iterate 25 (first | with_reducible exact Or.inr rfl | with_reducible exact Or.inr ⟨rfl, rfl⟩ | exact Or.inl (Fr.bit hw rfl))))

theorem fr_loadStore {W : Nat} {s0 : State} {s : State} (hw : 102400 ||| W = W) (hs : Fr W s0 s) :
    Fr W s0 (State.loadStore s) := by
  unfold State.loadStore
  repeat' first
    | intro _
    | with_reducible assumption
    | (extract_lets +onlyGivenNames z; guard_hyp z : State := _; refine Fr.cut (x := z) ?_ (fun _ => ?_); rotate_left; clear_value z; revert z; intro _ _; rotate_left; unfold z; clear z)
    | (extract_lets +onlyGivenNames z; clear_value z; revert z; intro _)
    | with_reducible refine fr_touch (Fr.sub (V := 102400) rfl hw) ?_
    | with_reducible refine fr_bumpBy ?_
    | with_reducible refine fr_setReg ?_
    | with_reducible refine fr_bmfLog ?_
    | with_reducible apply Fr.ite
    | ((with_reducible apply Fr.of); rotate_left 23; (with_reducible exact Or.inr rfl); rotate_left 3; with_reducible assumption; (iterate 25 (first | with_reducible exact Or.inr rfl | with_reducible exact Or.inr ⟨rfl, rfl⟩ | exact Or.inl (Fr.bit hw rfl))))

theorem fr_depthAfter {W : Nat} {s0 : State} {s : State} (hw : 42073818 ||| W = W) (hs : Fr W s0 s) :
    Fr W s0 (State.depthAfter s) := by
  unfold State.depthAfter
  repeat' first
    | intro _
    | with_reducible assumption
    | (extract_lets +onlyGivenNames z; guard_hyp z : State := _; refine Fr.cut (x := z) ?_ (fun _ => ?_); rotate_left; clear_value z; revert z; intro _ _; rotate_left; unfold z; clear z)
    | (extract_lets +onlyGivenNames z; clear_value z; revert z; intro _)
    | with_reducible refine fr_bump ?_
    | with_reducible refine fr_setReg ?_
    | with_reducible refine fr_condition hw ?_
    | with_reducible apply Fr.ite
    | ((with_reducible apply Fr.of); rotate_left 23; (with_reducible exact Or.inr rfl); rotate_left 3; with_reducible assumption; (iterate 25 (first | with_reducible exact Or.inr rfl | with_reducible exact Or.inr ⟨rfl, rfl⟩ | exact Or.inl (Fr.bit hw rfl))))
    | split

theorem fr_pwCondition {W : Nat} {s0 : State} {s : State} {code : Nat} (hw : 42073818 ||| W = W) (hs : Fr W s0 s) :
    Fr W s0 (State.pwCondition s code) := by
  unfold State.pwCondition
  repeat' first
    | intro _
    | with_reducible assumption
    | with_reducible refine fr_condition hw ?_
    | with_reducible refine fr_raise ?_
    | with_reducible apply Fr.ite

theorem fr_execEncoderLos {W : Nat} {s0 : State} {pair : Sys2Proof.EncoderPair} {t : Nat} {sx : State} (hw : 42073819 ||| W = W) (hsx : Fr W s0 sx) :
    FrO W s0 (execEncoderLos pair t sx) := by
  unfold execEncoderLos
  repeat' first
    | intro _
    | with_reducible assumption
    | (extract_lets +onlyGivenNames z; guard_hyp z : State := _; refine FrO.cut (x := z) ?_ (fun _ => ?_); rotate_left; clear_value z; revert z; intro _ _; rotate_left; unfold z; clear z)
    | with_reducible refine fr_at_ (Fr.sub (V := 42073819) rfl hw) ?_
    | with_reducible refine fr_finish ?_ ?_
    | with_reducible refine fr_modAxis (Fr.sub (V := 42073819) rfl hw) ?_
    | with_reducible refine fr_bump ?_
    | with_reducible refine fr_condition (Fr.sub (V := 42073819) rfl hw) ?_
    | with_reducible apply Fr.ite

theorem fr_loadChain {W : Nat} {s0 : State} {s : State} (hw : 42073818 ||| W = W) (hs : Fr W s0 s) :
    Fr W s0 (State.loadChain s) := by
  unfold State.loadChain
  repeat' first
    | intro _
    | with_reducible assumption
    | (extract_lets +onlyGivenNames z; guard_hyp z : State := _; refine Fr.cut (x := z) ?_ (fun _ => ?_); rotate_left; clear_value z; revert z; intro _ _; rotate_left; unfold z; clear z)
    | (extract_lets +onlyGivenNames z; clear_value z; revert z; intro _)
    | with_reducible refine fr_touch (Fr.sub (V := 42073818) rfl hw) ?_
    | with_reducible refine fr_once (Fr.sub (V := 42073818) rfl hw) ?_ ?_
    | with_reducible refine fr_truncateNow hw ?_
    | with_reducible refine fr_bmfLog ?_
    | with_reducible apply Fr.ite
    | with_reducible apply Fr.foldl
    | ((with_reducible apply Fr.of); rotate_left 23; (with_reducible exact Or.inr rfl); rotate_left 3; with_reducible assumption; (iterate 25 (first | with_reducible exact Or.inr rfl | with_reducible exact Or.inr ⟨rfl, rfl⟩ | exact Or.inl (Fr.bit hw rfl))))

theorem fr_tickStops {W : Nat} {s0 : State} {s : State} {r : Run} {k : Nat} {ovs : Bool} {sat : Bool} (hw : 42073818 ||| W = W) (hs : Fr W s0 s) :
    Fr W s0 (State.tickStops s r k ovs sat) := by
  unfold State.tickStops
  repeat' first
    | intro _
    | with_reducible assumption
    | (extract_lets +onlyGivenNames z; guard_hyp z : State := _; refine Fr.cut (x := z) ?_ (fun _ => ?_); rotate_left; clear_value z; revert z; intro _ _; rotate_left; unfold z; clear z)
    | (extract_lets +onlyGivenNames z; clear_value z; revert z; intro _)
    | with_reducible refine fr_condition hw ?_
    | with_reducible refine fr_truncateNow hw ?_
    | with_reducible refine fr_modRun (Fr.sub (V := 42073818) rfl hw) ?_
    | with_reducible apply Fr.ite

theorem fr_execEncoderEdge {W : Nat} {s0 : State} {axis : Sys2Proof.AxisName} {a : Bool} {b : Bool} {t : Nat} {sx : State} (hw : 42073819 ||| W = W) (hsx : Fr W s0 sx) :
    FrO W s0 (execEncoderEdge axis a b t sx) := by
  unfold execEncoderEdge
  repeat' first
    | intro _
    | with_reducible assumption
    | (extract_lets +onlyGivenNames z; guard_hyp z : State := _; refine Fr.cut (x := z) ?_ (fun _ => ?_); rotate_left; clear_value z; revert z; intro _ _; rotate_left; unfold z; clear z)
    | (extract_lets +onlyGivenNames z; guard_hyp z : State := _; refine FrO.cut (x := z) ?_ (fun _ => ?_); rotate_left; clear_value z; revert z; intro _ _; rotate_left; unfold z; clear z)
    | (extract_lets +onlyGivenNames z; clear_value z; revert z; intro _)
    | with_reducible refine fr_at_ (Fr.sub (V := 42073819) rfl hw) ?_
    | with_reducible refine fr_modAxis (Fr.sub (V := 42073819) rfl hw) ?_
    | with_reducible refine fr_finish ?_ ?_
    | with_reducible refine fr_noteBelow (Fr.sub (V := 42073819) rfl hw) ?_
    | with_reducible refine fr_depthAfter (Fr.sub (V := 42073819) rfl hw) ?_
    | with_reducible refine fr_condition (Fr.sub (V := 42073819) rfl hw) ?_
    | with_reducible refine fr_bump ?_
    | with_reducible apply Fr.ite
    | split

theorem fr_checkWord {W : Nat} {s0 : State} {s : State} {d : Int} {t : Nat} (hw : 42073818 ||| W = W) (hs : Fr W s0 s) :
    Fr W s0 (State.checkWord s d t) := by
  unfold State.checkWord
  repeat' first
    | intro _
    | with_reducible assumption
    | (extract_lets +onlyGivenNames z; guard_hyp z : State := _; refine Fr.cut (x := z) ?_ (fun _ => ?_); rotate_left; clear_value z; revert z; intro _ _; rotate_left; unfold z; clear z)
    | (extract_lets +onlyGivenNames z; clear_value z; revert z; intro _)
    | with_reducible refine fr_pwCondition hw ?_
    | with_reducible refine fr_bump ?_
    | with_reducible refine fr_modAxis (Fr.sub (V := 42073818) rfl hw) ?_
    | with_reducible apply Fr.ite
    | ((with_reducible apply Fr.of); rotate_left 23; (with_reducible exact Or.inr rfl); rotate_left 3; with_reducible assumption; (iterate 25 (first | with_reducible exact Or.inr rfl | with_reducible exact Or.inr ⟨rfl, rfl⟩ | exact Or.inl (Fr.bit hw rfl))))

theorem fr_execPositionWordLoss {W : Nat} {s0 : State} {t : Nat} {sx : State} (hw : 42073819 ||| W = W) (hsx : Fr W s0 sx) :
    FrO W s0 (execPositionWordLoss t sx) := by
  unfold execPositionWordLoss
  repeat' first
    | intro _
    | with_reducible assumption
    | (extract_lets +onlyGivenNames z; guard_hyp z : State := _; refine FrO.cut (x := z) ?_ (fun _ => ?_); rotate_left; clear_value z; revert z; intro _ _; rotate_left; unfold z; clear z)
    | with_reducible refine fr_at_ (Fr.sub (V := 42073819) rfl hw) ?_
    | with_reducible refine fr_finish ?_ ?_
    | with_reducible refine fr_pwCondition (Fr.sub (V := 42073819) rfl hw) ?_
    | with_reducible apply Fr.ite

theorem fr_overspeed {W : Nat} {s0 : State} {s : State} {k : Nat} (hw : 42073818 ||| W = W) (hs : Fr W s0 s) :
    Fr W s0 (State.overspeed s k) := by
  unfold State.overspeed
  repeat' first
    | intro _
    | with_reducible assumption
    | (extract_lets +onlyGivenNames z; guard_hyp z : State := _; refine Fr.cut (x := z) ?_ (fun _ => ?_); rotate_left; clear_value z; revert z; intro _ _; rotate_left; unfold z; clear z)
    | with_reducible refine fr_hole hw ?_
    | with_reducible refine fr_bump ?_
    | with_reducible refine fr_once (Fr.sub (V := 42073818) rfl hw) ?_ ?_
    | with_reducible refine fr_raise ?_
    | with_reducible refine fr_modRun (Fr.sub (V := 42073818) rfl hw) ?_

theorem fr_beginRun {W : Nat} {s0 : State} {s : State} (hw : 42598138 ||| W = W) (hs : Fr W s0 s) :
    Fr W s0 (State.beginRun s) := by
  unfold State.beginRun
  repeat' first
    | intro _
    | with_reducible assumption
    | (extract_lets +onlyGivenNames z; guard_hyp z : State := _; refine Fr.cut (x := z) ?_ (fun _ => ?_); rotate_left; clear_value z; revert z; intro _ _; rotate_left; unfold z; clear z)
    | (extract_lets +onlyGivenNames z; clear_value z; revert z; intro _)
    | with_reducible refine fr_swapRoles (Fr.sub (V := 42598138) rfl hw) ?_
    | with_reducible refine fr_setChanged (Fr.sub (V := 42598138) rfl hw) ?_
    | with_reducible refine fr_modRun (Fr.sub (V := 42598138) rfl hw) ?_
    | with_reducible refine fr_readOffsets (Fr.sub (V := 42598138) rfl hw) ?_
    | with_reducible refine fr_setRegs ?_
    | with_reducible refine fr_memWrite (Fr.sub (V := 42598138) rfl hw) ?_
    | with_reducible refine fr_loadChain (Fr.sub (V := 42598138) rfl hw) ?_
    | with_reducible refine fr_loadStore (Fr.sub (V := 42598138) rfl hw) ?_
    | with_reducible apply Fr.ite
    | ((with_reducible apply Fr.of); rotate_left 23; (with_reducible exact Or.inr rfl); rotate_left 3; with_reducible assumption; (iterate 25 (first | with_reducible exact Or.inr rfl | with_reducible exact Or.inr ⟨rfl, rfl⟩ | exact Or.inl (Fr.bit hw rfl))))
    | split

theorem fr_execPositionWord {W : Nat} {s0 : State} {bits : List Bool} {t : Nat} {sx : State} (hw : 42073819 ||| W = W) (hsx : Fr W s0 sx) :
    FrO W s0 (execPositionWord bits t sx) := by
  unfold execPositionWord
  repeat' first
    | intro _
    | with_reducible assumption
    | (extract_lets +onlyGivenNames z; guard_hyp z : State := _; refine Fr.cut (x := z) ?_ (fun _ => ?_); rotate_left; clear_value z; revert z; intro _ _; rotate_left; unfold z; clear z)
    | (extract_lets +onlyGivenNames z; guard_hyp z : State := _; refine FrO.cut (x := z) ?_ (fun _ => ?_); rotate_left; clear_value z; revert z; intro _ _; rotate_left; unfold z; clear z)
    | with_reducible refine fr_at_ (Fr.sub (V := 42073819) rfl hw) ?_
    | with_reducible refine fr_finish ?_ ?_
    | with_reducible refine fr_bump ?_
    | with_reducible refine fr_setReg64 ?_
    | with_reducible refine fr_checkWord (Fr.sub (V := 42073819) rfl hw) ?_
    | with_reducible apply Fr.ite
    | split

theorem fr_markTick {W : Nat} {s0 : State} {s : State} {r : Run} {k : Nat} {t64 : Nat} {dt : Nat} {cxw : Int} {sat : Bool} (hw : 42074074 ||| W = W) (hs : Fr W s0 s) :
    Fr W s0 (State.markTick s r k t64 dt cxw sat) := by
  unfold State.markTick
  repeat' first
    | intro _
    | with_reducible assumption
    | (extract_lets +onlyGivenNames z; guard_hyp z : State := _; refine Fr.cut (x := z) ?_ (fun _ => ?_); rotate_left; clear_value z; revert z; intro _ _; rotate_left; unfold z; clear z)
    | (extract_lets +onlyGivenNames z; clear_value z; revert z; intro _)
    | with_reducible refine fr_overspeed (Fr.sub (V := 42074074) rfl hw) ?_
    | with_reducible refine fr_modRun (Fr.sub (V := 42074074) rfl hw) ?_
    | with_reducible refine fr_yields (Fr.sub (V := 42074074) rfl hw) ?_
    | with_reducible refine fr_releaseReplay (Fr.sub (V := 42074074) rfl hw) ?_
    | with_reducible refine fr_bump ?_
    | with_reducible refine fr_tickStops (Fr.sub (V := 42074074) rfl hw) ?_
    | with_reducible apply Fr.ite
    | ((with_reducible apply Fr.of); rotate_left 23; (with_reducible exact Or.inr rfl); rotate_left 3; with_reducible assumption; (iterate 25 (first | with_reducible exact Or.inr rfl | with_reducible exact Or.inr ⟨rfl, rfl⟩ | exact Or.inl (Fr.bit hw rfl))))

theorem fr_takeTick {W : Nat} {s0 : State} {s : State} {t64 : Nat} {k : Nat} {dt : Option Nat} (hw : 42598138 ||| W = W) (hs : Fr W s0 s) :
    Fr W s0 (State.takeTick s t64 k dt) := by
  unfold State.takeTick
  repeat' first
    | intro _
    | with_reducible assumption
    | (extract_lets +onlyGivenNames z; guard_hyp z : State := _; refine Fr.cut (x := z) ?_ (fun _ => ?_); rotate_left; clear_value z; revert z; intro _ _; rotate_left; unfold z; clear z)
    | with_reducible refine fr_countTick (Fr.sub (V := 42598138) rfl hw) ?_
    | with_reducible refine fr_modRun (Fr.sub (V := 42598138) rfl hw) ?_
    | with_reducible refine fr_setReg ?_
    | with_reducible refine fr_beginRun hw ?_
    | with_reducible refine fr_captureAll (Fr.sub (V := 42598138) rfl hw) ?_
    | with_reducible refine fr_lateFrames (Fr.sub (V := 42598138) rfl hw) ?_
    | with_reducible apply Fr.ite

theorem fr_issueTick {W : Nat} {s0 : State} {s : State} {t64 : Nat} {cx : Nat → Int × Bool} (hw : 42598394 ||| W = W) (hs : Fr W s0 s) :
    Fr W s0 (State.issueTick s t64 cx) := by
  unfold State.issueTick
  repeat' first
    | with_reducible assumption
    | (extract_lets +onlyGivenNames z; guard_hyp z : State := _; refine Fr.cut (x := z) ?_ (fun _ => ?_); rotate_left; clear_value z; revert z; intro _ _; rotate_left; unfold z; clear z)
    | (extract_lets +onlyGivenNames z; clear_value z; revert z; intro _)
    | with_reducible refine fr_takeTick (Fr.sub (V := 42598394) rfl hw) ?_
    | with_reducible refine fr_markTick (Fr.sub (V := 42598394) rfl hw) ?_
    | split

theorem fr_execSimTick {W : Nat} {s0 : State} {t : Nat} {sx : State} (hw : 42598395 ||| W = W) (hsx : Fr W s0 sx) :
    FrO W s0 (execSimTick t sx) := by
  unfold execSimTick
  repeat' first
    | intro _
    | with_reducible assumption
    | (extract_lets +onlyGivenNames z; guard_hyp z : State := _; refine Fr.cut (x := z) ?_ (fun _ => ?_); rotate_left; clear_value z; revert z; intro _ _; rotate_left; unfold z; clear z)
    | (extract_lets +onlyGivenNames z; guard_hyp z : State := _; refine FrO.cut (x := z) ?_ (fun _ => ?_); rotate_left; clear_value z; revert z; intro _ _; rotate_left; unfold z; clear z)
    | (extract_lets +onlyGivenNames z; clear_value z; revert z; intro _)
    | with_reducible refine fr_at_ (Fr.sub (V := 42598395) rfl hw) ?_
    | with_reducible refine fr_finish ?_ ?_
    | with_reducible refine fr_issueTick (Fr.sub (V := 42598395) rfl hw) ?_
    | with_reducible apply Fr.ite
    | ((with_reducible apply Fr.of); rotate_left 23; (with_reducible exact Or.inr rfl); rotate_left 3; with_reducible assumption; (iterate 25 (first | with_reducible exact Or.inr rfl | with_reducible exact Or.inr ⟨rfl, rfl⟩ | exact Or.inl (Fr.bit hw rfl))))
    | split

theorem fr_execTickIssue {W : Nat} {s0 : State} {t : Nat} {sx : State} (hw : 42598395 ||| W = W) (hsx : Fr W s0 sx) :
    FrO W s0 (execTickIssue t sx) := by
  unfold execTickIssue
  repeat' first
    | intro _
    | with_reducible assumption
    | (extract_lets +onlyGivenNames z; guard_hyp z : State := _; refine FrO.cut (x := z) ?_ (fun _ => ?_); rotate_left; clear_value z; revert z; intro _ _; rotate_left; unfold z; clear z)
    | (extract_lets +onlyGivenNames z; clear_value z; revert z; intro _)
    | with_reducible refine fr_at_ (Fr.sub (V := 42598395) rfl hw) ?_
    | with_reducible refine fr_finish ?_ ?_
    | with_reducible refine fr_issueTick (Fr.sub (V := 42598395) rfl hw) ?_
    | with_reducible refine fr_modRun (Fr.sub (V := 42598395) rfl hw) ?_
    | with_reducible apply Fr.ite
    | split

/-! Launch. -/

theorem fr_deposit {W : Nat} {s0 : State} {s : State} {r : Run} {k : Nat} {levels : List (Nat × Nat)} (hw : 4096 ||| W = W) (hs : Fr W s0 s) :
    Fr W s0 (State.deposit s r k levels) := by
  unfold State.deposit
  repeat' first
    | (extract_lets +onlyGivenNames z; clear_value z; revert z; intro _)
    | ((with_reducible apply Fr.of); rotate_left 23; (with_reducible exact Or.inr rfl); rotate_left 3; with_reducible assumption; (iterate 25 (first | with_reducible exact Or.inr rfl | with_reducible exact Or.inr ⟨rfl, rfl⟩ | exact Or.inl (Fr.bit hw rfl))))

theorem fr_useInjection {W : Nat} {s0 : State} {s : State} {p : Nat} (hs : Fr W s0 s) :
    Fr W s0 (State.useInjection s p) := by
  unfold State.useInjection
  repeat' first
    | intro _
    | with_reducible assumption
    | (extract_lets +onlyGivenNames z; clear_value z; revert z; intro _)
    | with_reducible refine fr_setReg ?_
    | with_reducible apply Fr.ite

theorem fr_formTable {W : Nat} {s0 : State} {s : State} (hw : 4096 ||| W = W) (hs : Fr W s0 s) :
    Fr W s0 (State.formTable s) := by
  unfold State.formTable
  repeat' first
    | intro _
    | with_reducible assumption
    | (extract_lets +onlyGivenNames z; guard_hyp z : State := _; refine Fr.cut (x := z) ?_ (fun _ => ?_); rotate_left; clear_value z; revert z; intro _ _; rotate_left; unfold z; clear z)
    | (extract_lets +onlyGivenNames z; clear_value z; revert z; intro _)
    | with_reducible refine fr_setReg ?_
    | with_reducible apply Fr.foldl
    | ((with_reducible apply Fr.of); rotate_left 23; (with_reducible exact Or.inr rfl); rotate_left 3; with_reducible assumption; (iterate 25 (first | with_reducible exact Or.inr rfl | with_reducible exact Or.inr ⟨rfl, rfl⟩ | exact Or.inl (Fr.bit hw rfl))))

theorem fr_phase_eq {W : Nat} {s0 : State} {s : State} {r : Run} {x2 : TickRec} (hw : 2 ||| W = W) (hs : Fr W s0 s) {s' : State} {x'} (e' : State.phase s r x2 = (s', x')) :
    Fr W s0 s' := by
  unfold State.phase at e'
  repeat' first
    | with_reducible assumption
    | (extract_lets +onlyGivenNames z at e'; clear_value z; revert z; intro _ e')
    | split at e'
    | with_reducible refine fr_next hw ?_
    | ((with_reducible refine Fr.of_pair ?_ e'); clear e')

theorem fr_phase {W : Nat} {s0 : State} {s : State} {r : Run} {x2 : TickRec} (hw : 2 ||| W = W) (hs : Fr W s0 s) : Fr W s0 (State.phase s r x2).1 :=
  Fr.of_eq fun _ _ e' => fr_phase_eq hw hs e'

theorem fr_headFrame {W : Nat} {s0 : State} {s : State} {r : Run} {x2 : TickRec} {levels : List (Nat × Nat)} (hw : 16386 ||| W = W) (hs : Fr W s0 s) :
    Fr W s0 (State.headFrame s r x2 levels) := by
  unfold State.headFrame
  repeat' first
    | with_reducible assumption
    | (extract_lets +onlyGivenNames z; guard_hyp z : State := _; refine Fr.cut (x := z) ?_ (fun _ => ?_); rotate_left; clear_value z; revert z; intro _ _; rotate_left; unfold z; clear z)
    | (extract_lets +onlyGivenNames z; guard_hyp z : State × _ := _; revert z; intro _)
    | (extract_lets +onlyGivenNames z; clear_value z; revert z; intro _)
    | with_reducible refine fr_phase (Fr.sub (V := 16386) rfl hw) ?_
    | with_reducible refine fr_setReg ?_
    | ((with_reducible apply Fr.of); rotate_left 23; (with_reducible exact Or.inr rfl); rotate_left 3; with_reducible assumption; (iterate 25 (first | with_reducible exact Or.inr rfl | with_reducible exact Or.inr ⟨rfl, rfl⟩ | exact Or.inl (Fr.bit hw rfl))))

theorem fr_strandLate {W : Nat} {s0 : State} {s : State} {w : Nat} (hs : Fr W s0 s) :
    Fr W s0 (State.strandLate s w) := by
  unfold State.strandLate
  repeat' first
    | with_reducible assumption
    | with_reducible refine fr_raise ?_
    | with_reducible refine fr_setReg ?_
    | with_reducible refine fr_bump ?_

theorem fr_assembleLevels {W : Nat} {s0 : State} {s : State} {r : Run} {k : Nat} (hw : 4160 ||| W = W) (hs : Fr W s0 s) :
    Fr W s0 (State.assembleLevels s r k) := by
  unfold State.assembleLevels
  repeat' first
    | with_reducible assumption
    | (extract_lets +onlyGivenNames z; guard_hyp z : State := _; refine Fr.cut (x := z) ?_ (fun _ => ?_); rotate_left; clear_value z; revert z; intro _ _; rotate_left; unfold z; clear z)
    | (extract_lets +onlyGivenNames z; clear_value z; revert z; intro _)
    | with_reducible refine fr_bumpBy ?_
    | with_reducible refine fr_addShort (Fr.sub (V := 4160) rfl hw) ?_
    | ((with_reducible apply Fr.of); rotate_left 23; (with_reducible exact Or.inr rfl); rotate_left 3; with_reducible assumption; (iterate 25 (first | with_reducible exact Or.inr rfl | with_reducible exact Or.inr ⟨rfl, rfl⟩ | exact Or.inl (Fr.bit hw rfl))))

theorem fr_execTempStale {W : Nat} {s0 : State} {q0 : Nat} {t : Nat} {sx : State} (hw : 65 ||| W = W) (hsx : Fr W s0 sx) :
    FrO W s0 (execTempStale q0 t sx) := by
  unfold execTempStale
  repeat' first
    | intro _
    | with_reducible assumption
    | (extract_lets +onlyGivenNames z; guard_hyp z : State := _; refine FrO.cut (x := z) ?_ (fun _ => ?_); rotate_left; clear_value z; revert z; intro _ _; rotate_left; unfold z; clear z)
    | with_reducible refine fr_at_ (Fr.sub (V := 65) rfl hw) ?_
    | with_reducible refine fr_finish ?_ ?_
    | with_reducible refine fr_once (Fr.sub (V := 65) rfl hw) ?_ ?_
    | with_reducible refine fr_setField ?_
    | with_reducible refine fr_bmfLog ?_
    | with_reducible apply Fr.ite

theorem fr_execWorkingTableUpdate {W : Nat} {s0 : State} {s : State} (hw : 4096 ||| W = W) (hs : Fr W s0 s) :
    FrO W s0 (execWorkingTableUpdate s) := by
  unfold execWorkingTableUpdate
  repeat' first
    | intro _
    | with_reducible assumption
    | with_reducible refine fr_finish ?_ ?_
    | with_reducible refine fr_formTable hw ?_
    | with_reducible apply Fr.ite

theorem fr_execThermalDecay {W : Nat} {s0 : State} {s : State} (hw : 4096 ||| W = W) (hs : Fr W s0 s) :
    FrO W s0 (execThermalDecay s) := by
  unfold execThermalDecay
  repeat' first
    | with_reducible assumption
    | (extract_lets +onlyGivenNames z; clear_value z; revert z; intro _)
    | with_reducible refine fr_finish ?_ ?_
    | ((with_reducible apply Fr.of); rotate_left 23; (with_reducible exact Or.inr rfl); rotate_left 3; with_reducible assumption; (iterate 25 (first | with_reducible exact Or.inr rfl | with_reducible exact Or.inr ⟨rfl, rfl⟩ | exact Or.inl (Fr.bit hw rfl))))

theorem fr_execBeamStoreLoadDone {W : Nat} {s0 : State} {s : State} (hw : 102400 ||| W = W) (hs : Fr W s0 s) :
    FrO W s0 (execBeamStoreLoadDone s) := by
  unfold execBeamStoreLoadDone
  repeat' first
    | intro _
    | with_reducible assumption
    | (extract_lets +onlyGivenNames z; guard_hyp z : State := _; refine Fr.cut (x := z) ?_ (fun _ => ?_); rotate_left; clear_value z; revert z; intro _ _; rotate_left; unfold z; clear z)
    | (extract_lets +onlyGivenNames z; clear_value z; revert z; intro _)
    | with_reducible refine fr_finish ?_ ?_
    | with_reducible refine fr_memWrite (Fr.sub (V := 102400) rfl hw) ?_
    | with_reducible refine fr_formTable (Fr.sub (V := 102400) rfl hw) ?_
    | with_reducible apply Fr.ite
    | ((with_reducible apply Fr.of); rotate_left 23; (with_reducible exact Or.inr rfl); rotate_left 3; with_reducible assumption; (iterate 25 (first | with_reducible exact Or.inr rfl | with_reducible exact Or.inr ⟨rfl, rfl⟩ | exact Or.inl (Fr.bit hw rfl))))
    | split

theorem fr_fetchStrand_eq {W : Nat} {s0 : State} {s : State} {k : Work} {nb : Nat} {w : Nat} {i : Nat} (hw : 101376 ||| W = W) (hs : Fr W s0 s) {s' : State} {x'} (e' : State.fetchStrand s k nb w i = (s', x')) :
    Fr W s0 s' := by
  unfold State.fetchStrand at e'
  repeat' first
    | with_reducible assumption
    | (extract_lets +onlyGivenNames z at e'; clear_value z; revert z; intro _ e')
    | split at e'
    | with_reducible refine fr_strandLate ?_
    | with_reducible refine fr_fpPoison hw ?_
    | with_reducible refine fr_touch (Fr.sub (V := 101376) rfl hw) ?_
    | ((with_reducible refine Fr.of_pair ?_ e'); clear e')

theorem fr_fetchStrand {W : Nat} {s0 : State} {s : State} {k : Work} {nb : Nat} {w : Nat} {i : Nat} (hw : 101376 ||| W = W) (hs : Fr W s0 s) : Fr W s0 (State.fetchStrand s k nb w i).1 :=
  Fr.of_eq fun _ _ e' => fr_fetchStrand_eq hw hs e'

theorem fr_fetchRow_eq {W : Nat} {s0 : State} {s : State} {r : Run} {tick : Nat} {i : Nat} (hw : 101376 ||| W = W) (hs : Fr W s0 s) {s' : State} {x'} (e' : State.fetchRow s r tick i = (s', x')) :
    Fr W s0 s' := by
  unfold State.fetchRow at e'
  repeat' first
    | with_reducible assumption
    | split at e'
    | with_reducible refine fr_strandLate ?_
    | refine fr_fetchStrand_eq hw ?_ (by with_reducible assumption)
    | ((with_reducible refine Fr.of_pair ?_ e'); clear e')

theorem fr_fetchRow {W : Nat} {s0 : State} {s : State} {r : Run} {tick : Nat} {i : Nat} (hw : 101376 ||| W = W) (hs : Fr W s0 s) : Fr W s0 (State.fetchRow s r tick i).1 :=
  Fr.of_eq fun _ _ e' => fr_fetchRow_eq hw hs e'

theorem fr_fetchStrands {W : Nat} {s0 : State} {s : State} {r : Run} {tick : Nat} (hw : 101376 ||| W = W) (hs : Fr W s0 s) :
    Fr W s0 (State.fetchStrands s r tick) := by
  unfold State.fetchStrands
  repeat' first
    | intro _
    | with_reducible assumption
    | (extract_lets +onlyGivenNames z; guard_hyp z : State := _; refine Fr.cut (x := z) ?_ (fun _ => ?_); rotate_left; clear_value z; revert z; intro _ _; rotate_left; unfold z; clear z)
    | (extract_lets +onlyGivenNames z; guard_hyp z : State × _ := _; revert z; intro _)
    | (extract_lets +onlyGivenNames z; clear_value z; revert z; intro _)
    | with_reducible refine fr_fetchRow hw ?_
    | with_reducible apply Fr.foldl₂
    | ((with_reducible apply Fr.of); rotate_left 23; (with_reducible exact Or.inr rfl); rotate_left 3; with_reducible assumption; (iterate 25 (first | with_reducible exact Or.inr rfl | with_reducible exact Or.inr ⟨rfl, rfl⟩ | exact Or.inl (Fr.bit hw rfl))))

theorem fr_assemble {W : Nat} {s0 : State} {s : State} {k : Nat} (hw : 42073818 ||| W = W) (hs : Fr W s0 s) :
    Fr W s0 (State.assemble s k) := by
  unfold State.assemble
  repeat' first
    | intro _
    | with_reducible assumption
    | (extract_lets +onlyGivenNames z; guard_hyp z : State := _; refine Fr.cut (x := z) ?_ (fun _ => ?_); rotate_left; clear_value z; revert z; intro _ _; rotate_left; unfold z; clear z)
    | (extract_lets +onlyGivenNames z; clear_value z; revert z; intro _)
    | with_reducible refine fr_fetchStrands (Fr.sub (V := 42073818) rfl hw) ?_
    | with_reducible refine fr_hole hw ?_
    | with_reducible refine fr_once (Fr.sub (V := 42073818) rfl hw) ?_ ?_
    | with_reducible refine fr_truncateNow hw ?_
    | with_reducible refine fr_bmfLog ?_
    | with_reducible refine fr_assembleLevels (Fr.sub (V := 42073818) rfl hw) ?_
    | with_reducible apply Fr.ite
    | with_reducible apply Fr.foldl
    | ((with_reducible apply Fr.of); rotate_left 23; (with_reducible exact Or.inr rfl); rotate_left 3; with_reducible assumption; (iterate 25 (first | with_reducible exact Or.inr rfl | with_reducible exact Or.inr ⟨rfl, rfl⟩ | exact Or.inl (Fr.bit hw rfl))))
    | split

theorem fr_deadlines {W : Nat} {s0 : State} {s : State} {r : Run} {k : Nat} {missed : List Nat} (hw : 42073818 ||| W = W) (hs : Fr W s0 s) :
    Fr W s0 (State.deadlines s r k missed) := by
  unfold State.deadlines
  repeat' first
    | intro _
    | with_reducible assumption
    | (extract_lets +onlyGivenNames z; guard_hyp z : State := _; refine Fr.cut (x := z) ?_ (fun _ => ?_); rotate_left; clear_value z; revert z; intro _ _; rotate_left; unfold z; clear z)
    | with_reducible refine fr_once (Fr.sub (V := 42073818) rfl hw) ?_ ?_
    | with_reducible refine fr_hole hw ?_
    | with_reducible refine fr_bump ?_
    | with_reducible refine fr_bmfLog ?_
    | with_reducible apply Fr.ite
    | with_reducible apply Fr.foldl

theorem fr_sendFrame {W : Nat} {s0 : State} {s : State} {k : Nat} {l : Nat} (hw : 42073818 ||| W = W) (hs : Fr W s0 s) :
    Fr W s0 (State.sendFrame s k l) := by
  unfold State.sendFrame
  repeat' first
    | intro _
    | with_reducible assumption
    | (extract_lets +onlyGivenNames z; guard_hyp z : State := _; refine Fr.cut (x := z) ?_ (fun _ => ?_); rotate_left; clear_value z; revert z; intro _ _; rotate_left; unfold z; clear z)
    | (extract_lets +onlyGivenNames z; clear_value z; revert z; intro _)
    | with_reducible refine fr_frameLost hw ?_
    | with_reducible refine fr_hole hw ?_
    | with_reducible refine fr_useInjection ?_
    | with_reducible apply Fr.ite
    | ((with_reducible apply Fr.of); rotate_left 23; (with_reducible exact Or.inr rfl); rotate_left 3; with_reducible assumption; (iterate 25 (first | with_reducible exact Or.inr rfl | with_reducible exact Or.inr ⟨rfl, rfl⟩ | exact Or.inl (Fr.bit hw rfl))))
    | split

theorem fr_launchTick {W : Nat} {s0 : State} {s : State} {r : Run} {x2 : TickRec} {rest : List TickRec} {missed : List Nat} (hw : 42073818 ||| W = W) (hs : Fr W s0 s) :
    Fr W s0 (State.launchTick s r x2 rest missed) := by
  unfold State.launchTick
  repeat' first
    | intro _
    | with_reducible assumption
    | (extract_lets +onlyGivenNames z; guard_hyp z : State := _; refine Fr.cut (x := z) ?_ (fun _ => ?_); rotate_left; clear_value z; revert z; intro _ _; rotate_left; unfold z; clear z)
    | (extract_lets +onlyGivenNames z; clear_value z; revert z; intro _)
    | with_reducible refine fr_deadlines hw ?_
    | with_reducible refine fr_headFrame (Fr.sub (V := 42073818) rfl hw) ?_
    | with_reducible refine fr_deposit (Fr.sub (V := 42073818) rfl hw) ?_
    | with_reducible refine fr_modRun (Fr.sub (V := 42073818) rfl hw) ?_
    | with_reducible refine fr_sendEnd (Fr.sub (V := 42073818) rfl hw) ?_
    | with_reducible refine fr_sendFrame hw ?_
    | with_reducible refine fr_assemble hw ?_
    | with_reducible apply Fr.ite
    | with_reducible apply Fr.foldl

theorem fr_launch {W : Nat} {s0 : State} {s : State} {missed : List Nat} (hw : 42073818 ||| W = W) (hs : Fr W s0 s) :
    Fr W s0 (State.launch s missed) := by
  unfold State.launch
  repeat' first
    | with_reducible assumption
    | with_reducible refine fr_launchTick hw ?_
    | split

theorem fr_execFrameLaunch {W : Nat} {s0 : State} {t : Nat} {missed : List Nat} {sx : State} (hw : 42073819 ||| W = W) (hsx : Fr W s0 sx) :
    FrO W s0 (execFrameLaunch t missed sx) := by
  unfold execFrameLaunch
  repeat' first
    | intro _
    | with_reducible assumption
    | (extract_lets +onlyGivenNames z; guard_hyp z : State := _; refine FrO.cut (x := z) ?_ (fun _ => ?_); rotate_left; clear_value z; revert z; intro _ _; rotate_left; unfold z; clear z)
    | (extract_lets +onlyGivenNames z; clear_value z; revert z; intro _)
    | with_reducible refine fr_at_ (Fr.sub (V := 42073819) rfl hw) ?_
    | with_reducible refine fr_finish ?_ ?_
    | with_reducible refine fr_launch (Fr.sub (V := 42073819) rfl hw) ?_
    | with_reducible apply Fr.ite
    | ((with_reducible apply Fr.of); rotate_left 23; (with_reducible exact Or.inr rfl); rotate_left 3; with_reducible assumption; (iterate 25 (first | with_reducible exact Or.inr rfl | with_reducible exact Or.inr ⟨rfl, rfl⟩ | exact Or.inl (Fr.bit hw rfl))))
    | split

/-! Plate. -/

theorem fr_planTruncation {W : Nat} {s0 : State} {s : State} {r : Run} {k : Work} {peak : Int} (hw : 42073818 ||| W = W) (hs : Fr W s0 s) :
    Fr W s0 (State.planTruncation s r k peak) := by
  unfold State.planTruncation
  repeat' first
    | intro _
    | with_reducible assumption
    | (extract_lets +onlyGivenNames z; guard_hyp z : State := _; refine Fr.cut (x := z) ?_ (fun _ => ?_); rotate_left; clear_value z; revert z; intro _ _; rotate_left; unfold z; clear z)
    | (extract_lets +onlyGivenNames z; clear_value z; revert z; intro _)
    | with_reducible refine fr_setReg ?_
    | with_reducible refine fr_setField ?_
    | with_reducible refine fr_truncateNow hw ?_
    | with_reducible apply Fr.ite
    | ((with_reducible apply Fr.of); rotate_left 23; (with_reducible exact Or.inr rfl); rotate_left 3; with_reducible assumption; (iterate 25 (first | with_reducible exact Or.inr rfl | with_reducible exact Or.inr ⟨rfl, rfl⟩ | exact Or.inl (Fr.bit hw rfl))))
    | split

theorem fr_plateSample {W : Nat} {s0 : State} {s : State} (hw : 42073818 ||| W = W) (hs : Fr W s0 s) :
    Fr W s0 (State.plateSample s) := by
  unfold State.plateSample
  repeat' first
    | intro _
    | with_reducible assumption
    | (extract_lets +onlyGivenNames z; guard_hyp z : State := _; refine Fr.cut (x := z) ?_ (fun _ => ?_); rotate_left; clear_value z; revert z; intro _ _; rotate_left; unfold z; clear z)
    | (extract_lets +onlyGivenNames z; clear_value z; revert z; intro _)
    | with_reducible refine fr_raise ?_
    | with_reducible refine fr_setField ?_
    | with_reducible refine fr_truncateNow hw ?_
    | with_reducible apply Fr.ite
    | ((with_reducible apply Fr.of); rotate_left 23; (with_reducible exact Or.inr rfl); rotate_left 3; with_reducible assumption; (iterate 25 (first | with_reducible exact Or.inr rfl | with_reducible exact Or.inr ⟨rfl, rfl⟩ | exact Or.inl (Fr.bit hw rfl))))

theorem fr_execPlateForecast {W : Nat} {s0 : State} {t : Nat} {sx : State} (hw : 42073819 ||| W = W) (hsx : Fr W s0 sx) :
    FrO W s0 (execPlateForecast t sx) := by
  unfold execPlateForecast
  repeat' first
    | intro _
    | with_reducible assumption
    | (extract_lets +onlyGivenNames z; guard_hyp z : State := _; refine Fr.cut (x := z) ?_ (fun _ => ?_); rotate_left; clear_value z; revert z; intro _ _; rotate_left; unfold z; clear z)
    | (extract_lets +onlyGivenNames z; guard_hyp z : State := _; refine FrO.cut (x := z) ?_ (fun _ => ?_); rotate_left; clear_value z; revert z; intro _ _; rotate_left; unfold z; clear z)
    | (extract_lets +onlyGivenNames z; clear_value z; revert z; intro _)
    | with_reducible refine fr_at_ (Fr.sub (V := 42073819) rfl hw) ?_
    | with_reducible refine fr_finish ?_ ?_
    | with_reducible refine fr_setField ?_
    | with_reducible refine fr_planTruncation (Fr.sub (V := 42073819) rfl hw) ?_
    | with_reducible apply Fr.ite
    | ((with_reducible apply Fr.of); rotate_left 23; (with_reducible exact Or.inr rfl); rotate_left 3; with_reducible assumption; (iterate 25 (first | with_reducible exact Or.inr rfl | with_reducible exact Or.inr ⟨rfl, rfl⟩ | exact Or.inl (Fr.bit hw rfl))))
    | split

end Sys2Proof.Laws
end

