-- ==== Sys2Proof/Laws/FrameResets.lean ====
section
/-! SUPPORT. What link training, resets and power domains leave as it was: one lemma for each operation and each command (see Frame). -/

namespace Sys2Proof.Laws

open Sys2Proof.Machine

/-! RimTrain. -/

theorem fr_reviveDown {W : Nat} {s0 : State} {s : State} (hw : 16384 ||| W = W) (hs : Fr W s0 s) :
    Fr W s0 (State.reviveDown s) := by
  unfold State.reviveDown
  repeat' first
    | intro _
    | with_reducible assumption
    | (extract_lets +onlyGivenNames z; guard_hyp z : State := _; refine Fr.cut (x := z) ?_ (fun _ => ?_); rotate_left; clear_value z; revert z; intro _ _; rotate_left; unfold z; clear z)
    | (extract_lets +onlyGivenNames z; clear_value z; revert z; intro _)
    | with_reducible refine fr_modLane hw ?_
    | with_reducible apply Fr.ite
    | with_reducible apply Fr.foldl
    | ((with_reducible apply Fr.of); rotate_left 23; (with_reducible exact Or.inr rfl); rotate_left 3; with_reducible assumption; (iterate 25 (first | with_reducible exact Or.inr rfl | with_reducible exact Or.inr ⟨rfl, rfl⟩ | exact Or.inl (Fr.bit hw rfl))))
    | split

theorem fr_sendChallenge {W : Nat} {s0 : State} {s : State} {nm : Nat} (hw : 16384 ||| W = W) (hs : Fr W s0 s) :
    Fr W s0 (State.sendChallenge s nm) := by
  unfold State.sendChallenge
  repeat' first
    | with_reducible assumption
    | with_reducible refine fr_sendBlocks hw ?_

theorem fr_identPasses {W : Nat} {s0 : State} {s : State} {pid : Nat} {mac : List Sys2Proof.Byte} (hw : 16384 ||| W = W) (hs : Fr W s0 s) :
    Fr W s0 (State.identPasses s pid mac) := by
  unfold State.identPasses
  repeat' first
    | with_reducible assumption
    | (extract_lets +onlyGivenNames z; guard_hyp z : State := _; refine Fr.cut (x := z) ?_ (fun _ => ?_); rotate_left; clear_value z; revert z; intro _ _; rotate_left; unfold z; clear z)
    | (extract_lets +onlyGivenNames z; clear_value z; revert z; intro _)
    | with_reducible refine fr_setReg64 ?_
    | with_reducible refine fr_sendBlocks hw ?_
    | ((with_reducible apply Fr.of); rotate_left 23; (with_reducible exact Or.inr rfl); rotate_left 3; with_reducible assumption; (iterate 25 (first | with_reducible exact Or.inr rfl | with_reducible exact Or.inr ⟨rfl, rfl⟩ | exact Or.inl (Fr.bit hw rfl))))

theorem fr_trainLane {W : Nat} {s0 : State} {s : State} {p : Nat} {x2 : Sys2Proof.LaneTraining} {r : Except Nat Sys2Proof.LaneTaps} (hw : 16384 ||| W = W) (hs : Fr W s0 s) :
    Fr W s0 (State.trainLane s p x2 r) := by
  unfold State.trainLane
  repeat' first
    | intro _
    | with_reducible assumption
    | (extract_lets +onlyGivenNames z; guard_hyp z : State := _; refine Fr.cut (x := z) ?_ (fun _ => ?_); rotate_left; clear_value z; revert z; intro _ _; rotate_left; unfold z; clear z)
    | with_reducible refine fr_modLane hw ?_
    | with_reducible refine fr_failLane hw ?_
    | with_reducible apply Fr.ite
    | split

theorem fr_retrainLane {W : Nat} {s0 : State} {s : State} {p : Nat} {r : Sys2Proof.LaneTraining} (hw : 16384 ||| W = W) (hs : Fr W s0 s) :
    Fr W s0 (State.retrainLane s p r) := by
  unfold State.retrainLane
  repeat' first
    | with_reducible assumption
    | (extract_lets +onlyGivenNames z; guard_hyp z : State := _; refine Fr.cut (x := z) ?_ (fun _ => ?_); rotate_left; clear_value z; revert z; intro _ _; rotate_left; unfold z; clear z)
    | (extract_lets +onlyGivenNames z; clear_value z; revert z; intro _)
    | with_reducible refine fr_trainLane hw ?_
    | with_reducible refine fr_reviveDown hw ?_
    | with_reducible refine fr_modLane hw ?_
    | with_reducible refine fr_lnkLog ?_
    | split

theorem fr_identFails {W : Nat} {s0 : State} {s : State} {exchange : Bool} (hw : 16384 ||| W = W) (hs : Fr W s0 s) :
    Fr W s0 (State.identFails s exchange) := by
  unfold State.identFails
  repeat' first
    | intro _
    | with_reducible assumption
    | (extract_lets +onlyGivenNames z; guard_hyp z : State := _; refine Fr.cut (x := z) ?_ (fun _ => ?_); rotate_left; clear_value z; revert z; intro _ _; rotate_left; unfold z; clear z)
    | (extract_lets +onlyGivenNames z; clear_value z; revert z; intro _)
    | with_reducible refine fr_bump ?_
    | with_reducible refine fr_raise ?_
    | with_reducible refine fr_lnkLog ?_
    | with_reducible apply Fr.ite
    | ((with_reducible apply Fr.of); rotate_left 23; (with_reducible exact Or.inr rfl); rotate_left 3; with_reducible assumption; (iterate 25 (first | with_reducible exact Or.inr rfl | with_reducible exact Or.inr ⟨rfl, rfl⟩ | exact Or.inl (Fr.bit hw rfl))))

theorem fr_linkUpNow {W : Nat} {s0 : State} {s : State} (hw : 16384 ||| W = W) (hs : Fr W s0 s) :
    Fr W s0 (State.linkUpNow s) := by
  unfold State.linkUpNow
  repeat' first
    | intro _
    | with_reducible assumption
    | (extract_lets +onlyGivenNames z; guard_hyp z : State := _; refine Fr.cut (x := z) ?_ (fun _ => ?_); rotate_left; clear_value z; revert z; intro _ _; rotate_left; unfold z; clear z)
    | (extract_lets +onlyGivenNames z; clear_value z; revert z; intro _)
    | with_reducible refine fr_modLane hw ?_
    | with_reducible refine fr_raise ?_
    | with_reducible apply Fr.foldl
    | ((with_reducible apply Fr.of); rotate_left 23; (with_reducible exact Or.inr rfl); rotate_left 3; with_reducible assumption; (iterate 25 (first | with_reducible exact Or.inr rfl | with_reducible exact Or.inr ⟨rfl, rfl⟩ | exact Or.inl (Fr.bit hw rfl))))

theorem fr_identAnswer {W : Nat} {s0 s : State} {nm : Nat} {x : Sys2Proof.Ident} (hw : 16384 ||| W = W) (hs : Fr W s0 s) :
    Fr W s0 (State.identAnswer s nm x) := by
  unfold State.identAnswer
  generalize s.checkIdent nm x = c
  cases c with
  | some mac => exact fr_linkUpNow hw (fr_identPasses hw hs)
  | none => exact fr_linkUpNow hw (fr_identFails hw hs)

theorem fr_identify {W : Nat} {s0 : State} {s : State} {nm : Nat} {ident : Option Sys2Proof.Ident} {wait : Bool} (hw : 16384 ||| W = W) (hs : Fr W s0 s) :
    Fr W s0 (State.identify s nm ident wait) := by
  unfold State.identify
  repeat' first
    | intro _
    | with_reducible assumption
    | (extract_lets +onlyGivenNames z; guard_hyp z : State := _; refine Fr.cut (x := z) ?_ (fun _ => ?_); rotate_left; clear_value z; revert z; intro _ _; rotate_left; unfold z; clear z)
    | (extract_lets +onlyGivenNames z; clear_value z; revert z; intro _)
    | with_reducible refine fr_linkUpNow hw ?_
    | with_reducible refine fr_identFails hw ?_
    | with_reducible refine fr_sendChallenge hw ?_
    | with_reducible refine fr_identAnswer hw ?_
    | with_reducible apply Fr.ite
    | ((with_reducible apply Fr.of); rotate_left 23; (with_reducible exact Or.inr rfl); rotate_left 3; with_reducible assumption; (iterate 25 (first | with_reducible exact Or.inr rfl | with_reducible exact Or.inr ⟨rfl, rfl⟩ | exact Or.inl (Fr.bit hw rfl))))
    | split

theorem fr_trainLink {W : Nat} {s0 : State} {s : State} {r : Sys2Proof.RimTraining} {wait : Bool} (hw : 16384 ||| W = W) (hs : Fr W s0 s) :
    Fr W s0 (State.trainLink s r wait) := by
  unfold State.trainLink
  repeat' first
    | intro _
    | with_reducible assumption
    | (extract_lets +onlyGivenNames z; guard_hyp z : State := _; refine Fr.cut (x := z) ?_ (fun _ => ?_); rotate_left; clear_value z; revert z; intro _ _; rotate_left; unfold z; clear z)
    | (extract_lets +onlyGivenNames z; clear_value z; revert z; intro _)
    | with_reducible refine fr_trainLane hw ?_
    | with_reducible refine fr_lnkLog ?_
    | with_reducible refine fr_raise ?_
    | with_reducible refine fr_identify hw ?_
    | with_reducible apply Fr.ite
    | with_reducible apply Fr.foldl
    | ((with_reducible apply Fr.of); rotate_left 23; (with_reducible exact Or.inr rfl); rotate_left 3; with_reducible assumption; (iterate 25 (first | with_reducible exact Or.inr rfl | with_reducible exact Or.inr ⟨rfl, rfl⟩ | exact Or.inl (Fr.bit hw rfl))))

theorem fr_recalLane_eq {W : Nat} {s0 : State} {s : State} {r : Sys2Proof.LaneRecal} (hw : 42073818 ||| W = W) (hs : Fr W s0 s) {s' : State} {x'} (e' : State.recalLane s r = (s', x')) :
    Fr W s0 s' := by
  unfold State.recalLane at e'
  repeat' first
    | with_reducible assumption
    | (extract_lets +onlyGivenNames z at e'; clear_value z; revert z; intro _ e')
    | split at e'
    | with_reducible refine fr_modLane (Fr.sub (V := 42073818) rfl hw) ?_
    | with_reducible refine fr_laneFault hw ?_
    | ((with_reducible refine Fr.of_pair ?_ e'); clear e')

theorem fr_recalLane {W : Nat} {s0 : State} {s : State} {r : Sys2Proof.LaneRecal} (hw : 42073818 ||| W = W) (hs : Fr W s0 s) : Fr W s0 (State.recalLane s r).1 :=
  Fr.of_eq fun _ _ e' => fr_recalLane_eq hw hs e'

/-! Resets. -/

theorem fr_powerOff {W : Nat} {s0 s : State} (hw : 67108852 ||| W = W) (hs : Fr W s0 s) : Fr W s0 (State.powerOff s) := by
  unfold State.powerOff
  extract_lets
  refine Fr.of hs ?_ ?_ ?_ ?_ ?_ ?_ ?_ ?_ ?_ ?_ ?_ ?_ ?_ ?_ ?_ ?_ ?_ ?_ ?_ ?_ ?_ ?_ ?_ ?_ ?_ ?_
  all_goals first | exact Or.inl (Fr.bit hw rfl) | exact Or.inr rfl | (rw [afterReset_mem]; exact Or.inr rfl)

theorem fr_boot {W : Nat} {s0 : State} {s : State} (hw : 20447248 ||| W = W) (hs : Fr W s0 s) :
    Fr W s0 (State.boot s) := by
  unfold State.boot
  repeat' first
    | (extract_lets +onlyGivenNames z; guard_hyp z : Hst := _; revert z; intro _)
    | (extract_lets +onlyGivenNames z; clear_value z; revert z; intro _)
    | ((with_reducible apply Fr.of); rotate_left 23; (with_reducible exact Or.inr rfl); rotate_left 3; with_reducible assumption; (iterate 25 (first | with_reducible exact Or.inr rfl | with_reducible exact Or.inr ⟨rfl, rfl⟩ | exact Or.inl (Fr.bit hw rfl))))
    | split

theorem fr_closeStay {W : Nat} {s0 : State} {s : State} (hw : 1048576 ||| W = W) (hs : Fr W s0 s) :
    Fr W s0 (State.closeStay s) := by
  unfold State.closeStay
  repeat' first
    | intro _
    | (extract_lets +onlyGivenNames z; clear_value z; revert z; intro _)
    | with_reducible apply Fr.ite
    | ((with_reducible apply Fr.of); rotate_left 23; (with_reducible exact Or.inr rfl); rotate_left 3; with_reducible assumption; (iterate 25 (first | with_reducible exact Or.inr rfl | with_reducible exact Or.inr ⟨rfl, rfl⟩ | exact Or.inl (Fr.bit hw rfl))))

theorem fr_clearLanes {W : Nat} {s0 : State} {s : State} {reg : Nat → Nat} (hs : Fr W s0 s) :
    Fr W s0 (State.clearLanes s reg) := by
  unfold State.clearLanes
  repeat' first
    | intro _
    | with_reducible assumption
    | with_reducible refine fr_setReg ?_
    | with_reducible apply Fr.foldl

theorem fr_coldStart {W : Nat} {s0 : State} {s : State} {code : Nat} (hw : 20463632 ||| W = W) (hs : Fr W s0 s) :
    Fr W s0 (State.coldStart s code) := by
  unfold State.coldStart
  repeat' first
    | intro _
    | with_reducible assumption
    | (extract_lets +onlyGivenNames z; guard_hyp z : State := _; refine Fr.cut (x := z) ?_ (fun _ => ?_); rotate_left; clear_value z; revert z; intro _ _; rotate_left; unfold z; clear z)
    | (extract_lets +onlyGivenNames z; clear_value z; revert z; intro _)
    | with_reducible refine fr_setReg ?_
    | with_reducible refine fr_boot (Fr.sub (V := 20463632) rfl hw) ?_
    | with_reducible apply Fr.ite
    | ((with_reducible apply Fr.of); rotate_left 23; (with_reducible exact Or.inr rfl); rotate_left 3; with_reducible assumption; (iterate 25 (first | with_reducible exact Or.inr rfl | with_reducible exact Or.inr ⟨rfl, rfl⟩ | exact Or.inl (Fr.bit hw rfl))))

theorem fr_cancelTests {W : Nat} {s0 : State} {s : State} {m : Mode} (hw : 8192 ||| W = W) (hs : Fr W s0 s) :
    Fr W s0 (State.cancelTests s m) := by
  unfold State.cancelTests
  repeat' first
    | intro _
    | with_reducible assumption
    | (extract_lets +onlyGivenNames z; guard_hyp z : State := _; refine Fr.cut (x := z) ?_ (fun _ => ?_); rotate_left; clear_value z; revert z; intro _ _; rotate_left; unfold z; clear z)
    | (extract_lets +onlyGivenNames z; clear_value z; revert z; intro _)
    | with_reducible refine fr_clearLanes ?_
    | with_reducible refine fr_setField ?_
    | with_reducible apply Fr.ite
    | ((with_reducible apply Fr.of); rotate_left 23; (with_reducible exact Or.inr rfl); rotate_left 3; with_reducible assumption; (iterate 25 (first | with_reducible exact Or.inr rfl | with_reducible exact Or.inr ⟨rfl, rfl⟩ | exact Or.inl (Fr.bit hw rfl))))

theorem fr_warmReset {W : Nat} {s0 s : State} {code : Nat} {link : Bool} (hw : 64815092 ||| W = W) (hs : Fr W s0 s) :
    Fr W s0 (State.warmReset s code link) := by
  unfold State.warmReset
  refine Fr.cut (x := (s.trigger 0x41 0).closeStay) (fr_closeStay (Fr.sub rfl hw) (fr_trigger hs)) fun h => ?_
  refine Fr.of h ?_ ?_ ?_ ?_ ?_ ?_ ?_ ?_ ?_ ?_ ?_ ?_ ?_ ?_ ?_ ?_ ?_ ?_ ?_ ?_ ?_ ?_ ?_ ?_ ?_ ?_
  all_goals first | exact Or.inl (Fr.bit hw rfl) | exact Or.inr rfl | exact Or.inr ⟨rfl, rfl⟩ | (rw [afterReset_mem]; exact Or.inr rfl)

theorem fr_glbCmd {W : Nat} {s0 : State} {s : State} {v : Nat} {modes : List Mode} {f : State → State} (hs : Fr W s0 s) (hf : ∀ (x0 : State), Fr W s0 x0 → Fr W s0 (f x0)) :
    Fr W s0 (State.glbCmd s v modes f) := by
  unfold State.glbCmd
  repeat' first
    | intro _
    | with_reducible assumption
    | with_reducible apply hf
    | with_reducible refine fr_command ?_ ?_
    | with_reducible refine fr_violation ?_
    | with_reducible apply Fr.ite

theorem fr_execResetNRising {W : Nat} {s0 : State} {auto : Bool} {img : Bool} {s : State} (hw : 20447248 ||| W = W) (hs : Fr W s0 s) :
    FrO W s0 (execResetNRising auto img s) := by
  unfold execResetNRising
  repeat' first
    | intro _
    | with_reducible assumption
    | (extract_lets +onlyGivenNames z; guard_hyp z : State := _; refine FrO.cut (x := z) ?_ (fun _ => ?_); rotate_left; clear_value z; revert z; intro _ _; rotate_left; unfold z; clear z)
    | (extract_lets +onlyGivenNames z; clear_value z; revert z; intro _)
    | with_reducible refine fr_finish ?_ ?_
    | with_reducible refine fr_boot hw ?_
    | with_reducible apply Fr.ite
    | ((with_reducible apply Fr.of); rotate_left 23; (with_reducible exact Or.inr rfl); rotate_left 3; with_reducible assumption; (iterate 25 (first | with_reducible exact Or.inr rfl | with_reducible exact Or.inr ⟨rfl, rfl⟩ | exact Or.inl (Fr.bit hw rfl))))

theorem fr_execFwCommit {W : Nat} {s0 : State} {s : State} (hw : 16 ||| W = W) (hs : Fr W s0 s) :
    FrO W s0 (execFwCommit s) := by
  unfold execFwCommit
  repeat' first
    | intro _
    | with_reducible assumption
    | (extract_lets +onlyGivenNames z; clear_value z; revert z; intro _)
    | with_reducible refine fr_finish ?_ ?_
    | with_reducible refine fr_command ?_ ?_
    | with_reducible refine fr_onlyIn ?_ ?_
    | ((with_reducible apply Fr.of); rotate_left 23; (with_reducible exact Or.inr rfl); rotate_left 3; with_reducible assumption; (iterate 25 (first | with_reducible exact Or.inr rfl | with_reducible exact Or.inr ⟨rfl, rfl⟩ | exact Or.inl (Fr.bit hw rfl))))

theorem fr_execResetN {W : Nat} {s0 : State} {t : Nat} {sx : State} (hw : 64815093 ||| W = W) (hsx : Fr W s0 sx) :
    FrO W s0 (execResetN t sx) := by
  unfold execResetN
  repeat' first
    | intro _
    | with_reducible assumption
    | (extract_lets +onlyGivenNames z; guard_hyp z : State := _; refine FrO.cut (x := z) ?_ (fun _ => ?_); rotate_left; clear_value z; revert z; intro _ _; rotate_left; unfold z; clear z)
    | (extract_lets +onlyGivenNames z; clear_value z; revert z; intro _)
    | with_reducible refine fr_at_ (Fr.sub (V := 64815093) rfl hw) ?_
    | with_reducible refine fr_finish ?_ ?_
    | with_reducible refine fr_warmReset (Fr.sub (V := 64815093) rfl hw) ?_
    | with_reducible apply Fr.ite
    | ((with_reducible apply Fr.of); rotate_left 23; (with_reducible exact Or.inr rfl); rotate_left 3; with_reducible assumption; (iterate 25 (first | with_reducible exact Or.inr rfl | with_reducible exact Or.inr ⟨rfl, rfl⟩ | exact Or.inl (Fr.bit hw rfl))))

theorem fr_execVauxReturn {W : Nat} {s0 : State} {mv : Nat} {s : State} (hw : 20463632 ||| W = W) (hs : Fr W s0 s) :
    FrO W s0 (execVauxReturn mv s) := by
  unfold execVauxReturn
  repeat' first
    | intro _
    | with_reducible assumption
    | (extract_lets +onlyGivenNames z; guard_hyp z : State := _; refine FrO.cut (x := z) ?_ (fun _ => ?_); rotate_left; clear_value z; revert z; intro _ _; rotate_left; unfold z; clear z)
    | (extract_lets +onlyGivenNames z; clear_value z; revert z; intro _)
    | with_reducible refine fr_finish ?_ ?_
    | with_reducible refine fr_coldStart hw ?_
    | with_reducible apply FrO.ite
    | with_reducible apply Fr.ite
    | with_reducible exact FrO.fault
    | ((with_reducible apply Fr.of); rotate_left 23; (with_reducible exact Or.inr rfl); rotate_left 3; with_reducible assumption; (iterate 25 (first | with_reducible exact Or.inr rfl | with_reducible exact Or.inr ⟨rfl, rfl⟩ | exact Or.inl (Fr.bit hw rfl))))

theorem fr_execVauxLoss {W : Nat} {s0 : State} {s : State} (hw : 1048576 ||| W = W) (hs : Fr W s0 s) :
    FrO W s0 (execVauxLoss s) := by
  unfold execVauxLoss
  repeat' first
    | with_reducible assumption
    | (extract_lets +onlyGivenNames z; clear_value z; revert z; intro _)
    | with_reducible refine fr_finish ?_ ?_
    | with_reducible refine fr_setReg ?_
    | ((with_reducible apply Fr.of); rotate_left 23; (with_reducible exact Or.inr rfl); rotate_left 3; with_reducible assumption; (iterate 25 (first | with_reducible exact Or.inr rfl | with_reducible exact Or.inr ⟨rfl, rfl⟩ | exact Or.inl (Fr.bit hw rfl))))

theorem fr_execColdStart {W : Nat} {s0 : State} {mv : Nat} {s : State} (hw : 20463632 ||| W = W) (hs : Fr W s0 s) :
    FrO W s0 (execColdStart mv s) := by
  unfold execColdStart
  repeat' first
    | intro _
    | with_reducible assumption
    | (extract_lets +onlyGivenNames z; guard_hyp z : State := _; refine FrO.cut (x := z) ?_ (fun _ => ?_); rotate_left; clear_value z; revert z; intro _ _; rotate_left; unfold z; clear z)
    | (extract_lets +onlyGivenNames z; clear_value z; revert z; intro _)
    | with_reducible refine fr_finish ?_ ?_
    | with_reducible refine fr_coldStart hw ?_
    | with_reducible apply FrO.ite
    | with_reducible apply Fr.ite
    | with_reducible exact FrO.fault
    | ((with_reducible apply Fr.of); rotate_left 23; (with_reducible exact Or.inr rfl); rotate_left 3; with_reducible assumption; (iterate 25 (first | with_reducible exact Or.inr rfl | with_reducible exact Or.inr ⟨rfl, rfl⟩ | exact Or.inl (Fr.bit hw rfl))))

theorem fr_execWarmReset {W : Nat} {s0 : State} {t : Nat} {sx : State} (hw : 66912245 ||| W = W) (hsx : Fr W s0 sx) :
    FrO W s0 (execWarmReset t sx) := by
  unfold execWarmReset
  repeat' first
    | intro _
    | with_reducible assumption
    | with_reducible refine fr_finish ?_ ?_
    | with_reducible refine fr_glbCmd ?_ ?_
    | with_reducible refine fr_at_ (Fr.sub (V := 66912245) rfl hw) ?_
    | with_reducible refine fr_boot (Fr.sub (V := 66912245) rfl hw) ?_
    | with_reducible refine fr_warmReset (Fr.sub (V := 66912245) rfl hw) ?_

theorem fr_clearJob {W : Nat} {s0 : State} {s : State} (hw : 106240 ||| W = W) (hs : Fr W s0 s) :
    Fr W s0 (State.clearJob s) := by
  unfold State.clearJob
  repeat' first
    | with_reducible assumption
    | (extract_lets +onlyGivenNames z; guard_hyp z : State := _; refine Fr.cut (x := z) ?_ (fun _ => ?_); rotate_left; clear_value z; revert z; intro _ _; rotate_left; unfold z; clear z)
    | (extract_lets +onlyGivenNames z; clear_value z; revert z; intro _)
    | with_reducible refine fr_resetPath (Fr.sub (V := 106240) rfl hw) ?_
    | ((with_reducible apply Fr.of); rotate_left 23; (with_reducible exact Or.inr rfl); rotate_left 3; with_reducible assumption; (iterate 25 (first | with_reducible exact Or.inr rfl | with_reducible exact Or.inr ⟨rfl, rfl⟩ | exact Or.inl (Fr.bit hw rfl))))

theorem fr_enterMode {W : Nat} {s0 : State} {s : State} {m : Mode} (hw : 114480 ||| W = W) (hs : Fr W s0 s) :
    Fr W s0 (State.enterMode s m) := by
  unfold State.enterMode
  repeat' first
    | intro _
    | with_reducible assumption
    | (extract_lets +onlyGivenNames z; guard_hyp z : State := _; refine Fr.cut (x := z) ?_ (fun _ => ?_); rotate_left; clear_value z; revert z; intro _ _; rotate_left; unfold z; clear z)
    | (extract_lets +onlyGivenNames z; clear_value z; revert z; intro _)
    | with_reducible refine fr_clearJob (Fr.sub (V := 114480) rfl hw) ?_
    | with_reducible refine fr_raise ?_
    | with_reducible refine fr_cancelTests (Fr.sub (V := 114480) rfl hw) ?_
    | with_reducible apply Fr.ite
    | ((with_reducible apply Fr.of); rotate_left 23; (with_reducible exact Or.inr rfl); rotate_left 3; with_reducible assumption; (iterate 25 (first | with_reducible exact Or.inr rfl | with_reducible exact Or.inr ⟨rfl, rfl⟩ | exact Or.inl (Fr.bit hw rfl))))

theorem fr_commitOff {W : Nat} {s0 : State} {s : State} (hs : Fr W s0 s) :
    Fr W s0 (State.commitOff s) := by
  unfold State.commitOff
  repeat' first
    | intro _
    | with_reducible assumption
    | (extract_lets +onlyGivenNames z; guard_hyp z : State := _; refine Fr.cut (x := z) ?_ (fun _ => ?_); rotate_left; clear_value z; revert z; intro _ _; rotate_left; unfold z; clear z)
    | with_reducible refine fr_checkpoint ?_
    | with_reducible refine fr_inventoryAll ?_
    | with_reducible refine fr_commitAll ?_
    | with_reducible refine fr_trigger ?_
    | with_reducible apply Fr.ite

theorem fr_execMgtWatchdog {W : Nat} {s0 : State} {s : State} (hw : 41959432 ||| W = W) (hs : Fr W s0 s) :
    FrO W s0 (execMgtWatchdog s) := by
  unfold execMgtWatchdog
  repeat' first
    | intro _
    | with_reducible assumption
    | (extract_lets +onlyGivenNames z; guard_hyp z : State := _; refine FrO.cut (x := z) ?_ (fun _ => ?_); rotate_left; clear_value z; revert z; intro _ _; rotate_left; unfold z; clear z)
    | with_reducible refine fr_finish ?_ ?_
    | with_reducible refine fr_bump ?_
    | with_reducible refine fr_linkUpNow (Fr.sub (V := 41959432) rfl hw) ?_
    | with_reducible refine fr_identFails (Fr.sub (V := 41959432) rfl hw) ?_
    | with_reducible refine fr_completeCmd (Fr.sub (V := 41959432) rfl hw) ?_
    | with_reducible refine fr_dropWait (Fr.sub (V := 41959432) rfl hw) ?_
    | with_reducible apply Fr.ite
    | with_reducible apply Fr.foldl

theorem fr_execColdReset {W : Nat} {s0 : State} {t : Nat} {sx : State} (hw : 67108853 ||| W = W) (hsx : Fr W s0 sx) :
    FrO W s0 (execColdReset t sx) := by
  unfold execColdReset
  repeat' first
    | intro _
    | with_reducible assumption
    | with_reducible refine fr_finish ?_ ?_
    | with_reducible refine fr_glbCmd ?_ ?_
    | with_reducible refine fr_at_ (Fr.sub (V := 67108853) rfl hw) ?_
    | with_reducible refine fr_coldStart (Fr.sub (V := 67108853) rfl hw) ?_
    | with_reducible refine fr_powerOff (Fr.sub (V := 67108853) rfl hw) ?_
    | with_reducible refine fr_commitOff ?_

/-! Power. -/

theorem fr_setPlls {W : Nat} {s0 : State} {s : State} {target : Nat} (hw : 2097152 ||| W = W) (hs : Fr W s0 s) :
    Fr W s0 (State.setPlls s target) := by
  unfold State.setPlls
  repeat' first
    | (extract_lets +onlyGivenNames z; clear_value z; revert z; intro _)
    | ((with_reducible apply Fr.of); rotate_left 23; (with_reducible exact Or.inr rfl); rotate_left 3; with_reducible assumption; (iterate 25 (first | with_reducible exact Or.inr rfl | with_reducible exact Or.inr ⟨rfl, rfl⟩ | exact Or.inl (Fr.bit hw rfl))))

theorem fr_coldDomain {W : Nat} {s0 : State} {s : State} {d : Nat} (hw : 392960 ||| W = W) (hs : Fr W s0 s) :
    Fr W s0 (State.coldDomain s d) := by
  unfold State.coldDomain
  repeat' first
    | with_reducible assumption
    | (extract_lets +onlyGivenNames z; guard_hyp z : State := _; refine Fr.cut (x := z) ?_ (fun _ => ?_); rotate_left; clear_value z; revert z; intro _ _; rotate_left; unfold z; clear z)
    | (extract_lets +onlyGivenNames z; clear_value z; revert z; intro _)
    | ((with_reducible apply Fr.of); rotate_left 23; (with_reducible exact Or.inr rfl); rotate_left 3; with_reducible assumption; (iterate 25 (first | with_reducible exact Or.inr rfl | with_reducible exact Or.inr ⟨rfl, rfl⟩ | exact Or.inl (Fr.bit hw rfl))))
    | split

theorem fr_lanesOff {W : Nat} {s0 : State} {s : State} (hw : 16384 ||| W = W) (hs : Fr W s0 s) :
    Fr W s0 (State.lanesOff s) := by
  unfold State.lanesOff
  repeat' first
    | (extract_lets +onlyGivenNames z; clear_value z; revert z; intro _)
    | ((with_reducible apply Fr.of); rotate_left 23; (with_reducible exact Or.inr rfl); rotate_left 3; with_reducible assumption; (iterate 25 (first | with_reducible exact Or.inr rfl | with_reducible exact Or.inr ⟨rfl, rfl⟩ | exact Or.inl (Fr.bit hw rfl))))

theorem fr_wake {W : Nat} {s0 : State} {s : State} (hw : 1048576 ||| W = W) (hs : Fr W s0 s) :
    Fr W s0 (State.wake s) := by
  unfold State.wake
  repeat' first
    | (extract_lets +onlyGivenNames z; clear_value z; revert z; intro _)
    | ((with_reducible apply Fr.of); rotate_left 23; (with_reducible exact Or.inr rfl); rotate_left 3; with_reducible assumption; (iterate 25 (first | with_reducible exact Or.inr rfl | with_reducible exact Or.inr ⟨rfl, rfl⟩ | exact Or.inl (Fr.bit hw rfl))))

theorem fr_enterOn {W : Nat} {s0 : State} {s : State} {d : Nat} {old : Nat} (hw : 1048320 ||| W = W) (hs : Fr W s0 s) :
    Fr W s0 (State.enterOn s d old) := by
  unfold State.enterOn
  repeat' first
    | intro _
    | with_reducible assumption
    | (extract_lets +onlyGivenNames z; guard_hyp z : State := _; refine Fr.cut (x := z) ?_ (fun _ => ?_); rotate_left; clear_value z; revert z; intro _ _; rotate_left; unfold z; clear z)
    | (extract_lets +onlyGivenNames z; clear_value z; revert z; intro _)
    | with_reducible refine fr_coldDomain (Fr.sub (V := 1048320) rfl hw) ?_
    | with_reducible apply Fr.ite
    | ((with_reducible apply Fr.of); rotate_left 23; (with_reducible exact Or.inr rfl); rotate_left 3; with_reducible assumption; (iterate 25 (first | with_reducible exact Or.inr rfl | with_reducible exact Or.inr ⟨rfl, rfl⟩ | exact Or.inl (Fr.bit hw rfl))))

theorem fr_leaveOn {W : Nat} {s0 : State} {s : State} {d : Nat} (hw : 286976 ||| W = W) (hs : Fr W s0 s) :
    Fr W s0 (State.leaveOn s d) := by
  unfold State.leaveOn
  repeat' first
    | with_reducible assumption
    | (extract_lets +onlyGivenNames z; clear_value z; revert z; intro _)
    | with_reducible refine fr_lanesOff (Fr.sub (V := 286976) rfl hw) ?_
    | ((with_reducible apply Fr.of); rotate_left 23; (with_reducible exact Or.inr rfl); rotate_left 3; with_reducible assumption; (iterate 25 (first | with_reducible exact Or.inr rfl | with_reducible exact Or.inr ⟨rfl, rfl⟩ | exact Or.inl (Fr.bit hw rfl))))
    | split

theorem fr_setDomain {W : Nat} {s0 : State} {s : State} {d : Nat} {code : Nat} (hw : 2096896 ||| W = W) (hs : Fr W s0 s) :
    Fr W s0 (State.setDomain s d code) := by
  unfold State.setDomain
  repeat' first
    | intro _
    | with_reducible assumption
    | (extract_lets +onlyGivenNames z; guard_hyp z : State := _; refine Fr.cut (x := z) ?_ (fun _ => ?_); rotate_left; clear_value z; revert z; intro _ _; rotate_left; unfold z; clear z)
    | (extract_lets +onlyGivenNames z; clear_value z; revert z; intro _)
    | with_reducible refine fr_leaveOn (Fr.sub (V := 2096896) rfl hw) ?_
    | with_reducible refine fr_enterOn (Fr.sub (V := 2096896) rfl hw) ?_
    | with_reducible apply Fr.ite
    | ((with_reducible apply Fr.of); rotate_left 23; (with_reducible exact Or.inr rfl); rotate_left 3; with_reducible assumption; (iterate 25 (first | with_reducible exact Or.inr rfl | with_reducible exact Or.inr ⟨rfl, rfl⟩ | exact Or.inl (Fr.bit hw rfl))))

theorem fr_setDomains {W : Nat} {s0 : State} {s : State} {codes : List Nat} (hw : 2096896 ||| W = W) (hs : Fr W s0 s) :
    Fr W s0 (State.setDomains s codes) := by
  unfold State.setDomains
  repeat' first
    | intro _
    | with_reducible assumption
    | with_reducible refine fr_setDomain hw ?_
    | with_reducible apply Fr.foldl

theorem fr_enterPower {W : Nat} {s0 : State} {s : State} {target : Nat} {doms : Nat} (hw : 4194048 ||| W = W) (hs : Fr W s0 s) :
    Fr W s0 (State.enterPower s target doms) := by
  unfold State.enterPower
  repeat' first
    | intro _
    | with_reducible assumption
    | (extract_lets +onlyGivenNames z; guard_hyp z : State := _; refine Fr.cut (x := z) ?_ (fun _ => ?_); rotate_left; clear_value z; revert z; intro _ _; rotate_left; unfold z; clear z)
    | (extract_lets +onlyGivenNames z; clear_value z; revert z; intro _)
    | with_reducible refine fr_closeStay (Fr.sub (V := 4194048) rfl hw) ?_
    | with_reducible refine fr_setDomains (Fr.sub (V := 4194048) rfl hw) ?_
    | with_reducible refine fr_setPlls (Fr.sub (V := 4194048) rfl hw) ?_
    | with_reducible apply Fr.ite
    | ((with_reducible apply Fr.of); rotate_left 23; (with_reducible exact Or.inr rfl); rotate_left 3; with_reducible assumption; (iterate 25 (first | with_reducible exact Or.inr rfl | with_reducible exact Or.inr ⟨rfl, rfl⟩ | exact Or.inl (Fr.bit hw rfl))))

theorem fr_pushResult {W : Nat} {s0 : State} {s : State} {x1 : PwrResult} (hw : 1048576 ||| W = W) (hs : Fr W s0 s) :
    Fr W s0 (State.pushResult s x1) := by
  unfold State.pushResult
  repeat' first
    | intro _
    | with_reducible assumption
    | (extract_lets +onlyGivenNames z; guard_hyp z : State := _; refine Fr.cut (x := z) ?_ (fun _ => ?_); rotate_left; clear_value z; revert z; intro _ _; rotate_left; unfold z; clear z)
    | (extract_lets +onlyGivenNames z; clear_value z; revert z; intro _)
    | with_reducible refine fr_bump ?_
    | with_reducible refine fr_raise ?_
    | with_reducible apply Fr.ite
    | ((with_reducible apply Fr.of); rotate_left 23; (with_reducible exact Or.inr rfl); rotate_left 3; with_reducible assumption; (iterate 25 (first | with_reducible exact Or.inr rfl | with_reducible exact Or.inr ⟨rfl, rfl⟩ | exact Or.inl (Fr.bit hw rfl))))

theorem fr_dropSlot {W : Nat} {s0 : State} {s : State} (hw : 1048576 ||| W = W) (hs : Fr W s0 s) :
    Fr W s0 (State.dropSlot s) := by
  unfold State.dropSlot
  repeat' first
    | with_reducible assumption
    | (extract_lets +onlyGivenNames z; clear_value z; revert z; intro _)
    | with_reducible refine fr_pushResult hw ?_
    | ((with_reducible apply Fr.of); rotate_left 23; (with_reducible exact Or.inr rfl); rotate_left 3; with_reducible assumption; (iterate 25 (first | with_reducible exact Or.inr rfl | with_reducible exact Or.inr ⟨rfl, rfl⟩ | exact Or.inl (Fr.bit hw rfl))))
    | split

theorem fr_takeUp {W : Nat} {s0 : State} {s : State} {q1 : PwrReq} (hw : 1048576 ||| W = W) (hs : Fr W s0 s) :
    Fr W s0 (State.takeUp s q1) := by
  unfold State.takeUp
  repeat' first
    | intro _
    | with_reducible assumption
    | (extract_lets +onlyGivenNames z; guard_hyp z : State := _; refine Fr.cut (x := z) ?_ (fun _ => ?_); rotate_left; clear_value z; revert z; intro _ _; rotate_left; unfold z; clear z)
    | (extract_lets +onlyGivenNames z; clear_value z; revert z; intro _)
    | with_reducible refine fr_bump ?_
    | with_reducible refine fr_pushResult hw ?_
    | with_reducible apply Fr.ite
    | ((with_reducible apply Fr.of); rotate_left 23; (with_reducible exact Or.inr rfl); rotate_left 3; with_reducible assumption; (iterate 25 (first | with_reducible exact Or.inr rfl | with_reducible exact Or.inr ⟨rfl, rfl⟩ | exact Or.inl (Fr.bit hw rfl))))
    | split

theorem fr_execPwrResultPop {W : Nat} {s0 : State} {v : Sys2Proof.Word} {s : State} (hw : 1048576 ||| W = W) (hs : Fr W s0 s) :
    FrO W s0 (execPwrResultPop v s) := by
  unfold execPwrResultPop
  repeat' first
    | intro _
    | with_reducible assumption
    | (extract_lets +onlyGivenNames z; clear_value z; revert z; intro _)
    | with_reducible refine fr_finish ?_ ?_
    | with_reducible refine fr_command ?_ ?_
    | with_reducible apply Fr.ite
    | ((with_reducible apply Fr.of); rotate_left 23; (with_reducible exact Or.inr rfl); rotate_left 3; with_reducible assumption; (iterate 25 (first | with_reducible exact Or.inr rfl | with_reducible exact Or.inr ⟨rfl, rfl⟩ | exact Or.inl (Fr.bit hw rfl))))

theorem fr_execWakeTimer {W : Nat} {s0 : State} {t : Nat} {sx : State} (hw : 1048577 ||| W = W) (hsx : Fr W s0 sx) :
    FrO W s0 (execWakeTimer t sx) := by
  unfold execWakeTimer
  repeat' first
    | intro _
    | with_reducible assumption
    | (extract_lets +onlyGivenNames z; guard_hyp z : State := _; refine FrO.cut (x := z) ?_ (fun _ => ?_); rotate_left; clear_value z; revert z; intro _ _; rotate_left; unfold z; clear z)
    | with_reducible refine fr_at_ (Fr.sub (V := 1048577) rfl hw) ?_
    | with_reducible refine fr_finish ?_ ?_
    | with_reducible refine fr_wake (Fr.sub (V := 1048577) rfl hw) ?_
    | with_reducible apply Fr.ite

theorem fr_request {W : Nat} {s0 : State} {s : State} {target : Nat} (hw : 1048576 ||| W = W) (hs : Fr W s0 s) :
    Fr W s0 (State.request s target) := by
  unfold State.request
  repeat' first
    | intro _
    | with_reducible assumption
    | (extract_lets +onlyGivenNames z; guard_hyp z : State := _; refine Fr.cut (x := z) ?_ (fun _ => ?_); rotate_left; clear_value z; revert z; intro _ _; rotate_left; unfold z; clear z)
    | (extract_lets +onlyGivenNames z; clear_value z; revert z; intro _)
    | with_reducible refine fr_setReg ?_
    | with_reducible refine fr_dropSlot hw ?_
    | with_reducible refine fr_takeUp hw ?_
    | with_reducible apply Fr.ite
    | ((with_reducible apply Fr.of); rotate_left 23; (with_reducible exact Or.inr rfl); rotate_left 3; with_reducible assumption; (iterate 25 (first | with_reducible exact Or.inr rfl | with_reducible exact Or.inr ⟨rfl, rfl⟩ | exact Or.inl (Fr.bit hw rfl))))

theorem fr_nextRequest {W : Nat} {s0 : State} {s : State} (hw : 1048576 ||| W = W) (hs : Fr W s0 s) :
    Fr W s0 (State.nextRequest s) := by
  unfold State.nextRequest
  repeat' first
    | with_reducible assumption
    | (extract_lets +onlyGivenNames z; clear_value z; revert z; intro _)
    | with_reducible refine fr_takeUp hw ?_
    | ((with_reducible apply Fr.of); rotate_left 23; (with_reducible exact Or.inr rfl); rotate_left 3; with_reducible assumption; (iterate 25 (first | with_reducible exact Or.inr rfl | with_reducible exact Or.inr ⟨rfl, rfl⟩ | exact Or.inl (Fr.bit hw rfl))))
    | split

theorem fr_execWakePin {W : Nat} {s0 : State} {low : Bool} {t : Nat} {sx : State} (hw : 20463633 ||| W = W) (hsx : Fr W s0 sx) :
    FrO W s0 (execWakePin low t sx) := by
  unfold execWakePin
  repeat' first
    | intro _
    | with_reducible assumption
    | (extract_lets +onlyGivenNames z; guard_hyp z : State := _; refine FrO.cut (x := z) ?_ (fun _ => ?_); rotate_left; clear_value z; revert z; intro _ _; rotate_left; unfold z; clear z)
    | (extract_lets +onlyGivenNames z; clear_value z; revert z; intro _)
    | with_reducible refine fr_at_ (Fr.sub (V := 20463633) rfl hw) ?_
    | with_reducible refine fr_finish ?_ ?_
    | with_reducible refine fr_request (Fr.sub (V := 20463633) rfl hw) ?_
    | with_reducible refine fr_wake (Fr.sub (V := 20463633) rfl hw) ?_
    | with_reducible refine fr_coldStart (Fr.sub (V := 20463633) rfl hw) ?_
    | with_reducible apply Fr.ite
    | ((with_reducible apply Fr.of); rotate_left 23; (with_reducible exact Or.inr rfl); rotate_left 3; with_reducible assumption; (iterate 25 (first | with_reducible exact Or.inr rfl | with_reducible exact Or.inr ⟨rfl, rfl⟩ | exact Or.inl (Fr.bit hw rfl))))
    | split

theorem fr_execPowerRequest {W : Nat} {s0 : State} {v : Sys2Proof.Word} {t : Nat} {sx : State} (hw : 1048577 ||| W = W) (hsx : Fr W s0 sx) :
    FrO W s0 (execPowerRequest v t sx) := by
  unfold execPowerRequest
  repeat' first
    | intro _
    | with_reducible assumption
    | with_reducible refine fr_finish ?_ ?_
    | with_reducible refine fr_command ?_ ?_
    | with_reducible refine fr_at_ (Fr.sub (V := 1048577) rfl hw) ?_
    | with_reducible refine fr_request (Fr.sub (V := 1048577) rfl hw) ?_

theorem fr_execDeepGraceExpiry {W : Nat} {s0 : State} {t : Nat} {sx : State} (hw : 67108853 ||| W = W) (hsx : Fr W s0 sx) :
    FrO W s0 (execDeepGraceExpiry t sx) := by
  unfold execDeepGraceExpiry
  repeat' first
    | intro _
    | with_reducible assumption
    | (extract_lets +onlyGivenNames z; guard_hyp z : State := _; refine FrO.cut (x := z) ?_ (fun _ => ?_); rotate_left; clear_value z; revert z; intro _ _; rotate_left; unfold z; clear z)
    | (extract_lets +onlyGivenNames z; guard_hyp z : Hst := _; revert z; intro _)
    | (extract_lets +onlyGivenNames z; clear_value z; revert z; intro _)
    | with_reducible refine fr_at_ (Fr.sub (V := 67108853) rfl hw) ?_
    | with_reducible refine fr_finish ?_ ?_
    | with_reducible refine fr_setDomain (Fr.sub (V := 67108853) rfl hw) ?_
    | with_reducible refine fr_setPlls (Fr.sub (V := 67108853) rfl hw) ?_
    | with_reducible refine fr_closeStay (Fr.sub (V := 67108853) rfl hw) ?_
    | with_reducible refine fr_nextRequest (Fr.sub (V := 67108853) rfl hw) ?_
    | with_reducible refine fr_powerOff (Fr.sub (V := 67108853) rfl hw) ?_
    | with_reducible refine fr_coldStart (Fr.sub (V := 67108853) rfl hw) ?_
    | with_reducible apply Fr.ite
    | ((with_reducible apply Fr.of); rotate_left 23; (with_reducible exact Or.inr rfl); rotate_left 3; with_reducible assumption; (iterate 25 (first | with_reducible exact Or.inr rfl | with_reducible exact Or.inr ⟨rfl, rfl⟩ | exact Or.inl (Fr.bit hw rfl))))
    | split

theorem fr_linkBack {W : Nat} {s0 : State} {s : State} (hw : 58720264 ||| W = W) (hs : Fr W s0 s) :
    Fr W s0 (State.linkBack s) := by
  unfold State.linkBack
  repeat' first
    | intro _
    | with_reducible assumption
    | (extract_lets +onlyGivenNames z; guard_hyp z : Hst := _; revert z; intro _)
    | with_reducible refine fr_releaseHeld (Fr.sub (V := 58720264) rfl hw) ?_
    | with_reducible apply Fr.ite
    | ((with_reducible apply Fr.of); rotate_left 23; (with_reducible exact Or.inr rfl); rotate_left 3; with_reducible assumption; (iterate 25 (first | with_reducible exact Or.inr rfl | with_reducible exact Or.inr ⟨rfl, rfl⟩ | exact Or.inl (Fr.bit hw rfl))))

theorem fr_autoRun {W : Nat} {s0 : State} {s : State} (hw : 62914312 ||| W = W) (hs : Fr W s0 s) :
    Fr W s0 (State.autoRun s) := by
  unfold State.autoRun
  repeat' first
    | intro _
    | with_reducible assumption
    | (extract_lets +onlyGivenNames z; guard_hyp z : State := _; refine Fr.cut (x := z) ?_ (fun _ => ?_); rotate_left; clear_value z; revert z; intro _ _; rotate_left; unfold z; clear z)
    | (extract_lets +onlyGivenNames z; clear_value z; revert z; intro _)
    | with_reducible refine fr_enterPower (Fr.sub (V := 62914312) rfl hw) ?_
    | with_reducible refine fr_dropSlot (Fr.sub (V := 62914312) rfl hw) ?_
    | with_reducible refine fr_linkBack (Fr.sub (V := 62914312) rfl hw) ?_
    | with_reducible refine fr_pushResult (Fr.sub (V := 62914312) rfl hw) ?_
    | with_reducible apply Fr.ite

theorem fr_awake {W : Nat} {s0 : State} {s : State} {f : State → State} (hw : 62914312 ||| W = W) (hs : Fr W s0 s) (hf : ∀ (x0 : State), Fr W s0 x0 → Fr W s0 (f x0)) :
    Fr W s0 (State.awake s f) := by
  unfold State.awake
  repeat' first
    | intro _
    | with_reducible assumption
    | with_reducible apply hf
    | with_reducible refine fr_autoRun hw ?_
    | with_reducible apply Fr.ite

theorem fr_recalAfterRest {W : Nat} {s0 : State} {s : State} {r : List Sys2Proof.ChanMargins} (hw : 42073818 ||| W = W) (hs : Fr W s0 s) :
    Fr W s0 (State.recalAfterRest s r) := by
  unfold State.recalAfterRest
  repeat' first
    | intro _
    | with_reducible assumption
    | with_reducible refine fr_recalChan hw ?_
    | with_reducible apply Fr.ite
    | with_reducible apply Fr.foldl

theorem fr_execPowerTransitionEnd {W : Nat} {s0 : State} {t : Nat} {r : List Sys2Proof.ChanMargins} {sx : State} (hw : 62914523 ||| W = W) (hsx : Fr W s0 sx) :
    FrO W s0 (execPowerTransitionEnd t r sx) := by
  unfold execPowerTransitionEnd
  repeat' first
    | intro _
    | with_reducible assumption
    | (extract_lets +onlyGivenNames z; guard_hyp z : State := _; refine Fr.cut (x := z) ?_ (fun _ => ?_); rotate_left; clear_value z; revert z; intro _ _; rotate_left; unfold z; clear z)
    | (extract_lets +onlyGivenNames z; guard_hyp z : State := _; refine FrO.cut (x := z) ?_ (fun _ => ?_); rotate_left; clear_value z; revert z; intro _ _; rotate_left; unfold z; clear z)
    | (extract_lets +onlyGivenNames z; clear_value z; revert z; intro _)
    | with_reducible refine fr_at_ (Fr.sub (V := 62914523) rfl hw) ?_
    | with_reducible refine fr_finish ?_ ?_
    | with_reducible refine fr_setDomains (Fr.sub (V := 62914523) rfl hw) ?_
    | with_reducible refine fr_commitOff ?_
    | with_reducible refine fr_pushResult (Fr.sub (V := 62914523) rfl hw) ?_
    | with_reducible refine fr_enterPower (Fr.sub (V := 62914523) rfl hw) ?_
    | with_reducible refine fr_recalAfterRest (Fr.sub (V := 62914523) rfl hw) ?_
    | with_reducible refine fr_linkBack (Fr.sub (V := 62914523) rfl hw) ?_
    | with_reducible refine fr_nextRequest (Fr.sub (V := 62914523) rfl hw) ?_
    | with_reducible apply Fr.ite
    | ((with_reducible apply Fr.of); rotate_left 23; (with_reducible exact Or.inr rfl); rotate_left 3; with_reducible assumption; (iterate 25 (first | with_reducible exact Or.inr rfl | with_reducible exact Or.inr ⟨rfl, rfl⟩ | exact Or.inl (Fr.bit hw rfl))))
    | split

end Sys2Proof.Laws
end

