-- ==== Sys2Proof/Laws/FrameRim.lean ====
section
/-! SUPPORT. What the Rim link, the sensors, Upsett and the job key leave as it was: one lemma for each operation and each command (see Frame). -/

namespace Sys2Proof.Laws

open Sys2Proof.Machine

/-! Rim. -/

theorem fr_lpreq {W : Nat} {s0 : State} {s : State} {p : Nat} {st : Nat} (hw : 16384 ||| W = W) (hs : Fr W s0 s) :
    Fr W s0 (State.lpreq s p st) := by
  unfold State.lpreq
  repeat' first
    | intro _
    | with_reducible assumption
    | (extract_lets +onlyGivenNames z; clear_value z; revert z; intro _)
    | with_reducible refine fr_modLane hw ?_
    | with_reducible apply Fr.ite

theorem fr_mirrorFollow {W : Nat} {s0 : State} {s : State} (hw : 262144 ||| W = W) (hs : Fr W s0 s) :
    Fr W s0 (State.mirrorFollow s) := by
  unfold State.mirrorFollow
  repeat' first
    | intro _
    | with_reducible assumption
    | (extract_lets +onlyGivenNames z; guard_hyp z : State := _; refine Fr.cut (x := z) ?_ (fun _ => ?_); rotate_left; clear_value z; revert z; intro _ _; rotate_left; unfold z; clear z)
    | (extract_lets +onlyGivenNames z; clear_value z; revert z; intro _)
    | with_reducible refine fr_bumpBy ?_
    | with_reducible refine fr_setReg ?_
    | with_reducible apply Fr.ite
    | ((with_reducible apply Fr.of); rotate_left 23; (with_reducible exact Or.inr rfl); rotate_left 3; with_reducible assumption; (iterate 25 (first | with_reducible exact Or.inr rfl | with_reducible exact Or.inr ⟨rfl, rfl⟩ | exact Or.inl (Fr.bit hw rfl))))

theorem fr_mailbox {W : Nat} {s0 : State} {s : State} {p : Nat} {words : List Nat} {bad : Bool} (hw : 360448 ||| W = W) (hs : Fr W s0 s) :
    Fr W s0 (State.mailbox s p words bad) := by
  unfold State.mailbox
  repeat' first
    | intro _
    | with_reducible assumption
    | (extract_lets +onlyGivenNames z; guard_hyp z : State := _; refine Fr.cut (x := z) ?_ (fun _ => ?_); rotate_left; clear_value z; revert z; intro _ _; rotate_left; unfold z; clear z)
    | (extract_lets +onlyGivenNames z; clear_value z; revert z; intro _)
    | with_reducible refine fr_bump ?_
    | with_reducible refine fr_memWrite (Fr.sub (V := 360448) rfl hw) ?_
    | with_reducible refine fr_setReg ?_
    | with_reducible apply Fr.ite
    | ((with_reducible apply Fr.of); rotate_left 23; (with_reducible exact Or.inr rfl); rotate_left 3; with_reducible assumption; (iterate 25 (first | with_reducible exact Or.inr rfl | with_reducible exact Or.inr ⟨rfl, rfl⟩ | exact Or.inl (Fr.bit hw rfl))))

theorem fr_badRecord_eq {W : Nat} {s0 : State} {s : State} {off : Nat} (hs : Fr W s0 s) {s' : State} {x'} (e' : State.badRecord s off = (s', x')) :
    Fr W s0 s' := by
  unfold State.badRecord at e'
  repeat' first
    | with_reducible assumption
    | with_reducible refine fr_raise ?_
    | with_reducible refine fr_bump ?_
    | ((with_reducible refine Fr.of_pair ?_ e'); clear e')

theorem fr_badRecord {W : Nat} {s0 : State} {s : State} {off : Nat} (hs : Fr W s0 s) : Fr W s0 (State.badRecord s off).1 :=
  Fr.of_eq fun _ _ e' => fr_badRecord_eq hs e'

theorem fr_expireTemps {W : Nat} {s0 : State} {s : State} {slack : Nat} (hw : 16384 ||| W = W) (hs : Fr W s0 s) :
    Fr W s0 (State.expireTemps s slack) := by
  unfold State.expireTemps
  repeat' first
    | intro _
    | with_reducible assumption
    | (extract_lets +onlyGivenNames z; guard_hyp z : State := _; refine Fr.cut (x := z) ?_ (fun _ => ?_); rotate_left; clear_value z; revert z; intro _ _; rotate_left; unfold z; clear z)
    | (extract_lets +onlyGivenNames z; clear_value z; revert z; intro _)
    | with_reducible refine fr_raise ?_
    | with_reducible refine fr_bump ?_
    | with_reducible apply Fr.ite
    | with_reducible apply Fr.foldl
    | ((with_reducible apply Fr.of); rotate_left 23; (with_reducible exact Or.inr rfl); rotate_left 3; with_reducible assumption; (iterate 25 (first | with_reducible exact Or.inr rfl | with_reducible exact Or.inr ⟨rfl, rfl⟩ | exact Or.inl (Fr.bit hw rfl))))

theorem fr_execLaneLpIdle {W : Nat} {s0 : State} {t : Nat} {sx : State} (hw : 16385 ||| W = W) (hsx : Fr W s0 sx) :
    FrO W s0 (execLaneLpIdle t sx) := by
  unfold execLaneLpIdle
  repeat' first
    | intro _
    | with_reducible assumption
    | (extract_lets +onlyGivenNames z; guard_hyp z : State := _; refine FrO.cut (x := z) ?_ (fun _ => ?_); rotate_left; clear_value z; revert z; intro _ _; rotate_left; unfold z; clear z)
    | (extract_lets +onlyGivenNames z; clear_value z; revert z; intro _)
    | with_reducible refine fr_at_ (Fr.sub (V := 16385) rfl hw) ?_
    | with_reducible refine fr_finish ?_ ?_
    | with_reducible refine fr_sendBlocks (Fr.sub (V := 16385) rfl hw) ?_
    | with_reducible refine fr_modLane (Fr.sub (V := 16385) rfl hw) ?_
    | with_reducible apply Fr.ite
    | with_reducible apply Fr.foldl

theorem fr_execControlBlockRx {W : Nat} {s0 : State} {lane : Nat} {block : Nat} {s : State} (hw : 16384 ||| W = W) (hs : Fr W s0 s) :
    FrO W s0 (execControlBlockRx lane block s) := by
  unfold execControlBlockRx
  repeat' first
    | intro _
    | with_reducible assumption
    | with_reducible refine fr_finish ?_ ?_
    | with_reducible refine fr_bump ?_
    | with_reducible refine fr_lpreq hw ?_
    | with_reducible apply Fr.ite

theorem fr_execLaneRetrain {W : Nat} {s0 : State} {lane : Nat} {r : Sys2Proof.LaneTraining} {s : State} (hw : 16384 ||| W = W) (hs : Fr W s0 s) :
    FrO W s0 (execLaneRetrain lane r s) := by
  unfold execLaneRetrain
  repeat' first
    | intro _
    | with_reducible assumption
    | with_reducible refine fr_finish ?_ ?_
    | with_reducible refine fr_command ?_ ?_
    | with_reducible refine fr_retrainLane hw ?_
    | with_reducible apply Fr.ite

theorem fr_execLaneInject {W : Nat} {s0 : State} {lane : Nat} {v : Sys2Proof.Word} {s : State} (hs : Fr W s0 s) :
    FrO W s0 (execLaneInject lane v s) := by
  unfold execLaneInject
  repeat' first
    | intro _
    | with_reducible assumption
    | (extract_lets +onlyGivenNames z; clear_value z; revert z; intro _)
    | with_reducible refine fr_finish ?_ ?_
    | with_reducible refine fr_command ?_ ?_
    | with_reducible refine fr_onlyIn ?_ ?_
    | with_reducible refine fr_setReg ?_

theorem fr_execLanePrbs {W : Nat} {s0 : State} {lane : Nat} {v : Sys2Proof.Word} {s : State} (hw : 2 ||| W = W) (hs : Fr W s0 s) :
    FrO W s0 (execLanePrbs lane v s) := by
  unfold execLanePrbs
  repeat' first
    | intro _
    | with_reducible assumption
    | (extract_lets +onlyGivenNames z; guard_hyp z : State := _; refine Fr.cut (x := z) ?_ (fun _ => ?_); rotate_left; clear_value z; revert z; intro _ _; rotate_left; unfold z; clear z)
    | (extract_lets +onlyGivenNames z; clear_value z; revert z; intro _)
    | with_reducible refine fr_finish ?_ ?_
    | with_reducible refine fr_command ?_ ?_
    | with_reducible refine fr_violation ?_
    | with_reducible refine fr_setReg ?_
    | with_reducible refine fr_next hw ?_
    | with_reducible refine fr_bumpBy ?_
    | with_reducible apply Fr.ite

theorem fr_execTelRateWindow {W : Nat} {s0 : State} {s : State} (hw : 16384 ||| W = W) (hs : Fr W s0 s) :
    FrO W s0 (execTelRateWindow s) := by
  unfold execTelRateWindow
  repeat' first
    | with_reducible assumption
    | (extract_lets +onlyGivenNames z; clear_value z; revert z; intro _)
    | with_reducible refine fr_finish ?_ ?_
    | ((with_reducible apply Fr.of); rotate_left 23; (with_reducible exact Or.inr rfl); rotate_left 3; with_reducible assumption; (iterate 25 (first | with_reducible exact Or.inr rfl | with_reducible exact Or.inr ⟨rfl, rfl⟩ | exact Or.inl (Fr.bit hw rfl))))

theorem fr_execTempQuorumTimeout {W : Nat} {s0 : State} {t : Nat} {sx : State} (hw : 16385 ||| W = W) (hsx : Fr W s0 sx) :
    FrO W s0 (execTempQuorumTimeout t sx) := by
  unfold execTempQuorumTimeout
  repeat' first
    | with_reducible assumption
    | with_reducible refine fr_finish ?_ ?_
    | with_reducible refine fr_expireTemps (Fr.sub (V := 16385) rfl hw) ?_
    | with_reducible refine fr_at_ (Fr.sub (V := 16385) rfl hw) ?_

theorem fr_execMailboxReadAdvance {W : Nat} {s0 : State} {v : Sys2Proof.Word} {s : State} (hw : 262144 ||| W = W) (hs : Fr W s0 s) :
    FrO W s0 (execMailboxReadAdvance v s) := by
  unfold execMailboxReadAdvance
  repeat' first
    | intro _
    | with_reducible assumption
    | with_reducible refine fr_finish ?_ ?_
    | with_reducible refine fr_command ?_ ?_
    | with_reducible refine fr_mirrorFollow hw ?_
    | with_reducible refine fr_setReg ?_

theorem fr_execLpreq {W : Nat} {s0 : State} {lane : Nat} {st : Nat} {s : State} (hw : 16384 ||| W = W) (hs : Fr W s0 s) :
    FrO W s0 (execLpreq lane st s) := by
  unfold execLpreq
  repeat' first
    | intro _
    | with_reducible assumption
    | with_reducible refine fr_finish ?_ ?_
    | with_reducible refine fr_lpreq hw ?_
    | with_reducible apply Fr.ite

theorem fr_trainDone {W : Nat} {s0 : State} {s : State} (hw : 41943048 ||| W = W) (hs : Fr W s0 s) :
    Fr W s0 (State.trainDone s) := by
  unfold State.trainDone
  repeat' first
    | intro _
    | with_reducible assumption
    | with_reducible refine fr_completeCmd (Fr.sub (V := 41943048) rfl hw) ?_
    | with_reducible refine fr_dropWait (Fr.sub (V := 41943048) rfl hw) ?_
    | with_reducible apply Fr.foldl
    | split

theorem fr_identRecord_eq {W : Nat} {s0 : State} {s : State} {f : RetFrame} (hw : 41959432 ||| W = W) (hs : Fr W s0 s) {s' : State} {x'} (e' : State.identRecord s f = (s', x')) :
    Fr W s0 s' := by
  unfold State.identRecord at e'
  repeat' first
    | with_reducible assumption
    | (extract_lets +onlyGivenNames z at e'; clear_value z; revert z; intro _ e')
    | split at e'
    | with_reducible refine fr_trainDone (Fr.sub (V := 41959432) rfl hw) ?_
    | with_reducible refine fr_linkUpNow (Fr.sub (V := 41959432) rfl hw) ?_
    | with_reducible refine fr_identPasses (Fr.sub (V := 41959432) rfl hw) ?_
    | refine fr_badRecord_eq ?_ (by with_reducible assumption)
    | ((with_reducible refine Fr.of_pair ?_ e'); clear e')

theorem fr_identRecord {W : Nat} {s0 : State} {s : State} {f : RetFrame} (hw : 41959432 ||| W = W) (hs : Fr W s0 s) : Fr W s0 (State.identRecord s f).1 :=
  Fr.of_eq fun _ _ e' => fr_identRecord_eq hw hs e'

theorem fr_execChallengeResend {W : Nat} {s0 : State} {t : Nat} {sx : State} (hw : 41959433 ||| W = W) (hsx : Fr W s0 sx) :
    FrO W s0 (execChallengeResend t sx) := by
  unfold execChallengeResend
  repeat' first
    | intro _
    | with_reducible assumption
    | (extract_lets +onlyGivenNames z; guard_hyp z : State := _; refine FrO.cut (x := z) ?_ (fun _ => ?_); rotate_left; clear_value z; revert z; intro _ _; rotate_left; unfold z; clear z)
    | (extract_lets +onlyGivenNames z; clear_value z; revert z; intro _)
    | with_reducible refine fr_at_ (Fr.sub (V := 41959433) rfl hw) ?_
    | with_reducible refine fr_finish ?_ ?_
    | with_reducible refine fr_trainDone (Fr.sub (V := 41959433) rfl hw) ?_
    | with_reducible refine fr_linkUpNow (Fr.sub (V := 41959433) rfl hw) ?_
    | with_reducible refine fr_identFails (Fr.sub (V := 41959433) rfl hw) ?_
    | with_reducible refine fr_sendChallenge (Fr.sub (V := 41959433) rfl hw) ?_
    | with_reducible apply Fr.ite
    | ((with_reducible apply Fr.of); rotate_left 23; (with_reducible exact Or.inr rfl); rotate_left 3; with_reducible assumption; (iterate 25 (first | with_reducible exact Or.inr rfl | with_reducible exact Or.inr ⟨rfl, rfl⟩ | exact Or.inl (Fr.bit hw rfl))))
    | split

theorem fr_execRunEnd {W : Nat} {s0 : State} {t : Nat} {sx : State} (hw : 42073817 ||| W = W) (hsx : Fr W s0 sx) :
    FrO W s0 (execRunEnd t sx) := by
  unfold execRunEnd
  repeat' first
    | intro _
    | with_reducible assumption
    | (extract_lets +onlyGivenNames z; guard_hyp z : State := _; refine FrO.cut (x := z) ?_ (fun _ => ?_); rotate_left; clear_value z; revert z; intro _ _; rotate_left; unfold z; clear z)
    | with_reducible refine fr_at_ (Fr.sub (V := 42073817) rfl hw) ?_
    | with_reducible refine fr_finish ?_ ?_
    | with_reducible refine fr_endRun (Fr.sub (V := 42073817) rfl hw) ?_
    | with_reducible apply Fr.ite
    | split

theorem fr_takeTemps {W : Nat} {s0 : State} {s : State} {meds : List Int} (hw : 42073818 ||| W = W) (hs : Fr W s0 s) :
    Fr W s0 (State.takeTemps s meds) := by
  unfold State.takeTemps
  repeat' first
    | intro _
    | with_reducible assumption
    | (extract_lets +onlyGivenNames z; guard_hyp z : State := _; refine Fr.cut (x := z) ?_ (fun _ => ?_); rotate_left; clear_value z; revert z; intro _ _; rotate_left; unfold z; clear z)
    | (extract_lets +onlyGivenNames z; clear_value z; revert z; intro _)
    | with_reducible refine fr_bumpBy ?_
    | with_reducible refine fr_raise ?_
    | with_reducible refine fr_setReg ?_
    | with_reducible refine fr_setField ?_
    | with_reducible refine fr_plateSample hw ?_
    | with_reducible apply Fr.ite
    | with_reducible apply Fr.foldl
    | ((with_reducible apply Fr.of); rotate_left 23; (with_reducible exact Or.inr rfl); rotate_left 3; with_reducible assumption; (iterate 25 (first | with_reducible exact Or.inr rfl | with_reducible exact Or.inr ⟨rfl, rfl⟩ | exact Or.inl (Fr.bit hw rfl))))

theorem fr_execAckDrainTimeout {W : Nat} {s0 : State} {t : Nat} {sx : State} (hw : 42073819 ||| W = W) (hsx : Fr W s0 sx) :
    FrO W s0 (execAckDrainTimeout t sx) := by
  unfold execAckDrainTimeout
  repeat' first
    | intro _
    | with_reducible assumption
    | (extract_lets +onlyGivenNames z; guard_hyp z : State := _; refine Fr.cut (x := z) ?_ (fun _ => ?_); rotate_left; clear_value z; revert z; intro _ _; rotate_left; unfold z; clear z)
    | (extract_lets +onlyGivenNames z; guard_hyp z : State := _; refine FrO.cut (x := z) ?_ (fun _ => ?_); rotate_left; clear_value z; revert z; intro _ _; rotate_left; unfold z; clear z)
    | with_reducible refine fr_at_ (Fr.sub (V := 42073819) rfl hw) ?_
    | with_reducible refine fr_finish ?_ ?_
    | with_reducible refine fr_laneLost ?_
    | with_reducible refine fr_frameLost (Fr.sub (V := 42073819) rfl hw) ?_
    | with_reducible apply Fr.ite
    | with_reducible apply Fr.foldl
    | split

theorem fr_settleTemps {W : Nat} {s0 : State} {s : State} {rs : List TempReport} (hw : 42073818 ||| W = W) (hs : Fr W s0 s) :
    Fr W s0 (State.settleTemps s rs) := by
  unfold State.settleTemps
  repeat' first
    | intro _
    | with_reducible assumption
    | (extract_lets +onlyGivenNames z; clear_value z; revert z; intro _)
    | with_reducible refine fr_takeTemps hw ?_
    | with_reducible refine fr_raise ?_
    | with_reducible refine fr_bumpBy ?_
    | with_reducible apply Fr.ite

theorem fr_tempReport {W : Nat} {s0 : State} {s : State} {l : Nat} {sample : Nat} {vals : List Int} (hw : 42073818 ||| W = W) (hs : Fr W s0 s) :
    Fr W s0 (State.tempReport s l sample vals) := by
  unfold State.tempReport
  repeat' first
    | intro _
    | with_reducible assumption
    | (extract_lets +onlyGivenNames z; guard_hyp z : State := _; refine Fr.cut (x := z) ?_ (fun _ => ?_); rotate_left; clear_value z; revert z; intro _ _; rotate_left; unfold z; clear z)
    | (extract_lets +onlyGivenNames z; clear_value z; revert z; intro _)
    | with_reducible refine fr_expireTemps (Fr.sub (V := 42073818) rfl hw) ?_
    | with_reducible refine fr_settleTemps hw ?_
    | with_reducible apply Fr.ite
    | ((with_reducible apply Fr.of); rotate_left 23; (with_reducible exact Or.inr rfl); rotate_left 3; with_reducible assumption; (iterate 25 (first | with_reducible exact Or.inr rfl | with_reducible exact Or.inr ⟨rfl, rfl⟩ | exact Or.inl (Fr.bit hw rfl))))

theorem fr_execLaneRetire {W : Nat} {s0 : State} {lane : Nat} {t : Nat} {sx : State} (hw : 42073819 ||| W = W) (hsx : Fr W s0 sx) :
    FrO W s0 (execLaneRetire lane t sx) := by
  unfold execLaneRetire
  repeat' first
    | intro _
    | with_reducible assumption
    | (extract_lets +onlyGivenNames z; guard_hyp z : State := _; refine Fr.cut (x := z) ?_ (fun _ => ?_); rotate_left; clear_value z; revert z; intro _ _; rotate_left; unfold z; clear z)
    | (extract_lets +onlyGivenNames z; guard_hyp z : State := _; refine FrO.cut (x := z) ?_ (fun _ => ?_); rotate_left; clear_value z; revert z; intro _ _; rotate_left; unfold z; clear z)
    | with_reducible refine fr_at_ (Fr.sub (V := 42073819) rfl hw) ?_
    | with_reducible refine fr_finish ?_ ?_
    | with_reducible refine fr_command ?_ ?_
    | with_reducible refine fr_laneFault (Fr.sub (V := 42073819) rfl hw) ?_
    | with_reducible refine fr_retireLane (Fr.sub (V := 42073819) rfl hw) ?_
    | with_reducible apply Fr.ite

theorem fr_execLaneLock {W : Nat} {s0 : State} {lane : Nat} {t : Nat} {sx : State} (hw : 42073819 ||| W = W) (hsx : Fr W s0 sx) :
    FrO W s0 (execLaneLock lane t sx) := by
  unfold execLaneLock
  repeat' first
    | intro _
    | with_reducible assumption
    | (extract_lets +onlyGivenNames z; guard_hyp z : State := _; refine FrO.cut (x := z) ?_ (fun _ => ?_); rotate_left; clear_value z; revert z; intro _ _; rotate_left; unfold z; clear z)
    | with_reducible refine fr_at_ (Fr.sub (V := 42073819) rfl hw) ?_
    | with_reducible refine fr_finish ?_ ?_
    | with_reducible refine fr_laneFault (Fr.sub (V := 42073819) rfl hw) ?_
    | with_reducible apply Fr.ite

theorem fr_execLaneLos {W : Nat} {s0 : State} {lane : Nat} {t : Nat} {sx : State} (hw : 42073819 ||| W = W) (hsx : Fr W s0 sx) :
    FrO W s0 (execLaneLos lane t sx) := by
  unfold execLaneLos
  repeat' first
    | intro _
    | with_reducible assumption
    | (extract_lets +onlyGivenNames z; guard_hyp z : State := _; refine FrO.cut (x := z) ?_ (fun _ => ?_); rotate_left; clear_value z; revert z; intro _ _; rotate_left; unfold z; clear z)
    | with_reducible refine fr_at_ (Fr.sub (V := 42073819) rfl hw) ?_
    | with_reducible refine fr_finish ?_ ?_
    | with_reducible refine fr_laneFault (Fr.sub (V := 42073819) rfl hw) ?_
    | with_reducible apply Fr.ite

theorem fr_execLaneRelockTimeout {W : Nat} {s0 : State} {lane : Nat} {t : Nat} {sx : State} (hw : 42073819 ||| W = W) (hsx : Fr W s0 sx) :
    FrO W s0 (execLaneRelockTimeout lane t sx) := by
  unfold execLaneRelockTimeout
  repeat' first
    | intro _
    | with_reducible assumption
    | (extract_lets +onlyGivenNames z; guard_hyp z : State := _; refine Fr.cut (x := z) ?_ (fun _ => ?_); rotate_left; clear_value z; revert z; intro _ _; rotate_left; unfold z; clear z)
    | (extract_lets +onlyGivenNames z; guard_hyp z : State := _; refine FrO.cut (x := z) ?_ (fun _ => ?_); rotate_left; clear_value z; revert z; intro _ _; rotate_left; unfold z; clear z)
    | (extract_lets +onlyGivenNames z; clear_value z; revert z; intro _)
    | with_reducible refine fr_at_ (Fr.sub (V := 42073819) rfl hw) ?_
    | with_reducible refine fr_finish ?_ ?_
    | with_reducible refine fr_laneFault (Fr.sub (V := 42073819) rfl hw) ?_
    | with_reducible refine fr_sendBlocks (Fr.sub (V := 42073819) rfl hw) ?_
    | with_reducible refine fr_modLane (Fr.sub (V := 42073819) rfl hw) ?_
    | with_reducible apply Fr.ite
    | with_reducible apply Fr.foldl
    | ((with_reducible apply Fr.of); rotate_left 23; (with_reducible exact Or.inr rfl); rotate_left 3; with_reducible assumption; (iterate 25 (first | with_reducible exact Or.inr rfl | with_reducible exact Or.inr ⟨rfl, rfl⟩ | exact Or.inl (Fr.bit hw rfl))))
    | split

theorem fr_execRetSilent {W : Nat} {s0 : State} {lane : Nat} {t : Nat} {sx : State} (hw : 42073819 ||| W = W) (hsx : Fr W s0 sx) :
    FrO W s0 (execRetSilent lane t sx) := by
  unfold execRetSilent
  repeat' first
    | intro _
    | with_reducible assumption
    | (extract_lets +onlyGivenNames z; guard_hyp z : State := _; refine FrO.cut (x := z) ?_ (fun _ => ?_); rotate_left; clear_value z; revert z; intro _ _; rotate_left; unfold z; clear z)
    | (extract_lets +onlyGivenNames z; clear_value z; revert z; intro _)
    | with_reducible refine fr_at_ (Fr.sub (V := 42073819) rfl hw) ?_
    | with_reducible refine fr_finish ?_ ?_
    | with_reducible refine fr_laneFault (Fr.sub (V := 42073819) rfl hw) ?_
    | with_reducible apply Fr.ite

theorem fr_record_eq {W : Nat} {s0 : State} {s : State} {p : Nat} {f : RetFrame} (hw : 42073818 ||| W = W) (hs : Fr W s0 s) {s' : State} {x'} (e' : State.record s p f = (s', x')) :
    Fr W s0 s' := by
  unfold State.record at e'
  repeat' first
    | with_reducible assumption
    | (extract_lets +onlyGivenNames z at e'; clear_value z; revert z; intro _ e')
    | split at e'
    | with_reducible refine fr_tempReport hw ?_
    | with_reducible refine fr_setReg ?_
    | refine fr_badRecord_eq ?_ (by with_reducible assumption)
    | refine fr_identRecord_eq (Fr.sub (V := 42073818) rfl hw) ?_ (by with_reducible assumption)
    | ((with_reducible refine Fr.of_pair ?_ e'); clear e')

theorem fr_record {W : Nat} {s0 : State} {s : State} {p : Nat} {f : RetFrame} (hw : 42073818 ||| W = W) (hs : Fr W s0 s) : Fr W s0 (State.record s p f).1 :=
  Fr.of_eq fun _ _ e' => fr_record_eq hw hs e'

theorem fr_acknowledge {W : Nat} {s0 : State} {s : State} {p : Nat} {l : Nat} {f : RetFrame} (hw : 42073818 ||| W = W) (hs : Fr W s0 s) :
    Fr W s0 (State.acknowledge s p l f) := by
  unfold State.acknowledge
  repeat' first
    | with_reducible assumption
    | (extract_lets +onlyGivenNames z; guard_hyp z : State := _; refine Fr.cut (x := z) ?_ (fun _ => ?_); rotate_left; clear_value z; revert z; intro _ _; rotate_left; unfold z; clear z)
    | (extract_lets +onlyGivenNames z; clear_value z; revert z; intro _)
    | with_reducible refine fr_bump ?_
    | with_reducible refine fr_modLane (Fr.sub (V := 42073818) rfl hw) ?_
    | with_reducible refine fr_frameNak hw ?_
    | ((with_reducible apply Fr.of); rotate_left 23; (with_reducible exact Or.inr rfl); rotate_left 3; with_reducible assumption; (iterate 25 (first | with_reducible exact Or.inr rfl | with_reducible exact Or.inr ⟨rfl, rfl⟩ | exact Or.inl (Fr.bit hw rfl))))
    | split

theorem fr_execSpareRecal {W : Nat} {s0 : State} {lane : Nat} {r : Sys2Proof.LaneRecal} {s : State} (hw : 42073818 ||| W = W) (hs : Fr W s0 s) :
    FrO W s0 (execSpareRecal lane r s) := by
  unfold execSpareRecal
  repeat' first
    | intro _
    | with_reducible assumption
    | with_reducible refine fr_finish ?_ ?_
    | with_reducible refine fr_recalLane hw ?_
    | with_reducible apply Fr.ite

theorem fr_telemetry {W : Nat} {s0 : State} {s : State} {p : Nat} {f : RetFrame} {words : List Nat} (hw : 42335962 ||| W = W) (hs : Fr W s0 s) :
    Fr W s0 (State.telemetry s p f words) := by
  unfold State.telemetry
  repeat' first
    | intro _
    | with_reducible assumption
    | (extract_lets +onlyGivenNames z; guard_hyp z : State := _; refine Fr.cut (x := z) ?_ (fun _ => ?_); rotate_left; clear_value z; revert z; intro _ _; rotate_left; unfold z; clear z)
    | (extract_lets +onlyGivenNames z; clear_value z; revert z; intro _)
    | with_reducible refine fr_bump ?_
    | with_reducible refine fr_record (Fr.sub (V := 42335962) rfl hw) ?_
    | with_reducible refine fr_mailbox (Fr.sub (V := 42335962) rfl hw) ?_
    | with_reducible apply Fr.ite
    | ((with_reducible apply Fr.of); rotate_left 23; (with_reducible exact Or.inr rfl); rotate_left 3; with_reducible assumption; (iterate 25 (first | with_reducible exact Or.inr rfl | with_reducible exact Or.inr ⟨rfl, rfl⟩ | exact Or.inl (Fr.bit hw rfl))))

theorem fr_checkedFrame {W : Nat} {s0 : State} {s : State} {p : Nat} {words : List Nat} (hw : 42335962 ||| W = W) (hs : Fr W s0 s) :
    Fr W s0 (State.checkedFrame s p words) := by
  unfold State.checkedFrame
  repeat' first
    | intro _
    | with_reducible assumption
    | (extract_lets +onlyGivenNames z; guard_hyp z : State := _; refine Fr.cut (x := z) ?_ (fun _ => ?_); rotate_left; clear_value z; revert z; intro _ _; rotate_left; unfold z; clear z)
    | (extract_lets +onlyGivenNames z; clear_value z; revert z; intro _)
    | with_reducible refine fr_bump ?_
    | with_reducible refine fr_useInjection ?_
    | with_reducible refine fr_modLane (Fr.sub (V := 42335962) rfl hw) ?_
    | with_reducible refine fr_acknowledge (Fr.sub (V := 42335962) rfl hw) ?_
    | with_reducible refine fr_telemetry hw ?_
    | with_reducible apply Fr.ite

theorem fr_execReturnFrame {W : Nat} {s0 : State} {lane : Nat} {words : List Nat} {t : Nat} {sx : State} (hw : 42335963 ||| W = W) (hsx : Fr W s0 sx) :
    FrO W s0 (execReturnFrame lane words t sx) := by
  unfold execReturnFrame
  repeat' first
    | intro _
    | with_reducible assumption
    | (extract_lets +onlyGivenNames z; guard_hyp z : State := _; refine FrO.cut (x := z) ?_ (fun _ => ?_); rotate_left; clear_value z; revert z; intro _ _; rotate_left; unfold z; clear z)
    | (extract_lets +onlyGivenNames z; clear_value z; revert z; intro _)
    | with_reducible refine fr_at_ (Fr.sub (V := 42335963) rfl hw) ?_
    | with_reducible refine fr_finish ?_ ?_
    | with_reducible refine fr_bump ?_
    | with_reducible refine fr_modLane (Fr.sub (V := 42335963) rfl hw) ?_
    | with_reducible refine fr_checkedFrame (Fr.sub (V := 42335963) rfl hw) ?_
    | with_reducible apply Fr.ite

/-! Sensors. -/

theorem fr_convert {W : Nat} {s0 : State} {s : State} {n : Nat} {raw : Int} (hw : 4194304 ||| W = W) (hs : Fr W s0 s) :
    Fr W s0 (State.convert s n raw) := by
  unfold State.convert
  repeat' first
    | (extract_lets +onlyGivenNames z; clear_value z; revert z; intro _)
    | ((with_reducible apply Fr.of); rotate_left 22; (with_reducible exact Or.inr rfl); rotate_left 4; with_reducible assumption; (iterate 25 (first | with_reducible exact Or.inr rfl | with_reducible exact Or.inr ⟨rfl, rfl⟩ | exact Or.inl (Fr.bit hw rfl))))

theorem fr_measureAge {W : Nat} {s0 : State} {s : State} {counts : List Nat} (hw : 4194304 ||| W = W) (hs : Fr W s0 s) :
    Fr W s0 (State.measureAge s counts) := by
  unfold State.measureAge
  repeat' first
    | intro _
    | with_reducible assumption
    | (extract_lets +onlyGivenNames z; guard_hyp z : State := _; refine Fr.cut (x := z) ?_ (fun _ => ?_); rotate_left; clear_value z; revert z; intro _ _; rotate_left; unfold z; clear z)
    | (extract_lets +onlyGivenNames z; clear_value z; revert z; intro _)
    | with_reducible refine fr_setReg ?_
    | with_reducible refine fr_trigger ?_
    | with_reducible refine fr_raise ?_
    | with_reducible apply Fr.ite
    | with_reducible apply Fr.foldl
    | ((with_reducible apply Fr.of); rotate_left 22; (with_reducible exact Or.inr rfl); rotate_left 4; with_reducible assumption; (iterate 25 (first | with_reducible exact Or.inr rfl | with_reducible exact Or.inr ⟨rfl, rfl⟩ | exact Or.inl (Fr.bit hw rfl))))

theorem fr_execAgeingMeasure {W : Nat} {s0 : State} {counts : List Nat} {s : State} (hw : 4194304 ||| W = W) (hs : Fr W s0 s) :
    FrO W s0 (execAgeingMeasure counts s) := by
  unfold execAgeingMeasure
  repeat' first
    | intro _
    | with_reducible assumption
    | with_reducible refine fr_finish ?_ ?_
    | with_reducible refine fr_measureAge hw ?_
    | with_reducible apply Fr.ite

theorem fr_thermal {W : Nat} {s0 : State} {s : State} (hw : 46268122 ||| W = W) (hs : Fr W s0 s) :
    Fr W s0 (State.thermal s) := by
  unfold State.thermal
  repeat' first
    | intro _
    | with_reducible assumption
    | (extract_lets +onlyGivenNames z; guard_hyp z : State := _; refine Fr.cut (x := z) ?_ (fun _ => ?_); rotate_left; clear_value z; revert z; intro _ _; rotate_left; unfold z; clear z)
    | (extract_lets +onlyGivenNames z; clear_value z; revert z; intro _)
    | with_reducible refine fr_raise ?_
    | with_reducible refine fr_truncateNow (Fr.sub (V := 46268122) rfl hw) ?_
    | with_reducible apply Fr.ite
    | ((with_reducible apply Fr.of); rotate_left 22; (with_reducible exact Or.inr rfl); rotate_left 4; with_reducible assumption; (iterate 25 (first | with_reducible exact Or.inr rfl | with_reducible exact Or.inr ⟨rfl, rfl⟩ | exact Or.inl (Fr.bit hw rfl))))

theorem fr_execSensorConversion {W : Nat} {s0 : State} {n : Nat} {raw : Int} {t : Nat} {sx : State} (hw : 67108863 ||| W = W) (hsx : Fr W s0 sx) :
    FrO W s0 (execSensorConversion n raw t sx) := by
  unfold execSensorConversion
  repeat' first
    | intro _
    | with_reducible assumption
    | (extract_lets +onlyGivenNames z; guard_hyp z : State := _; refine FrO.cut (x := z) ?_ (fun _ => ?_); rotate_left; clear_value z; revert z; intro _ _; rotate_left; unfold z; clear z)
    | (extract_lets +onlyGivenNames z; clear_value z; revert z; intro _)
    | with_reducible refine fr_at_ (Fr.sub (V := 67108863) rfl hw) ?_
    | with_reducible refine fr_finish ?_ ?_
    | with_reducible refine fr_convert (Fr.sub (V := 67108863) rfl hw) ?_
    | with_reducible refine fr_powerOff (Fr.sub (V := 67108863) rfl hw) ?_
    | with_reducible refine fr_thermal (Fr.sub (V := 67108863) rfl hw) ?_
    | with_reducible apply Fr.ite
    | ((with_reducible apply Fr.of); rotate_left 23; (with_reducible exact Or.inr rfl); rotate_left 3; with_reducible assumption; (iterate 25 (first | with_reducible exact Or.inr rfl | with_reducible exact Or.inr ⟨rfl, rfl⟩ | exact Or.inl (Fr.bit hw rfl))))

/-! Bringup. -/

theorem fr_weaverStates {W : Nat} {s0 : State} {s : State} (hw : 512 ||| W = W) (hs : Fr W s0 s) :
    Fr W s0 (State.weaverStates s) := by
  unfold State.weaverStates
  repeat' first
    | (extract_lets +onlyGivenNames z; clear_value z; revert z; intro _)
    | ((with_reducible apply Fr.of); rotate_left 23; (with_reducible exact Or.inr rfl); rotate_left 3; with_reducible assumption; (iterate 25 (first | with_reducible exact Or.inr rfl | with_reducible exact Or.inr ⟨rfl, rfl⟩ | exact Or.inl (Fr.bit hw rfl))))

theorem fr_stepSram_eq {W : Nat} {s0 : State} {s : State} {u : Sys2Proof.UpsettInput} (hw : 131072 ||| W = W) (hs : Fr W s0 s) {s' : State} {x'} (e' : State.stepSram s u = (s', x')) :
    Fr W s0 s' := by
  unfold State.stepSram at e'
  repeat' first
    | ((with_reducible refine Fr.of_pair ?_ e'); clear e')
    | ((with_reducible apply Fr.of); rotate_left 23; (with_reducible exact Or.inr rfl); rotate_left 3; with_reducible assumption; (iterate 25 (first | with_reducible exact Or.inr rfl | with_reducible exact Or.inr ⟨rfl, rfl⟩ | exact Or.inl (Fr.bit hw rfl))))

theorem fr_stepSram {W : Nat} {s0 : State} {s : State} {u : Sys2Proof.UpsettInput} (hw : 131072 ||| W = W) (hs : Fr W s0 s) : Fr W s0 (State.stepSram s u).1 :=
  Fr.of_eq fun _ _ e' => fr_stepSram_eq hw hs e'

theorem fr_stepPath_eq {W : Nat} {s0 : State} {s : State} {u : Sys2Proof.UpsettInput} (hw : 98304 ||| W = W) (hs : Fr W s0 s) {s' : State} {x'} (e' : State.stepPath s u = (s', x')) :
    Fr W s0 s' := by
  unfold State.stepPath at e'
  repeat' first
    | (extract_lets +onlyGivenNames z at e'; guard_hyp z : Dram := _; revert z; intro _ e')
    | ((with_reducible refine Fr.of_pair ?_ e'); clear e')
    | ((with_reducible apply Fr.of); rotate_left 23; (with_reducible exact Or.inr rfl); rotate_left 3; with_reducible assumption; (iterate 25 (first | with_reducible exact Or.inr rfl | with_reducible exact Or.inr ⟨rfl, rfl⟩ | exact Or.inl (Fr.bit hw rfl))))

theorem fr_stepPath {W : Nat} {s0 : State} {s : State} {u : Sys2Proof.UpsettInput} (hw : 98304 ||| W = W) (hs : Fr W s0 s) : Fr W s0 (State.stepPath s u).1 :=
  Fr.of_eq fun _ _ e' => fr_stepPath_eq hw hs e'

theorem fr_seedDraw {W : Nat} {s0 : State} {s : State} (hw : 512 ||| W = W) (hs : Fr W s0 s) :
    Fr W s0 (State.seedDraw s) := by
  unfold State.seedDraw
  repeat' first
    | (extract_lets +onlyGivenNames z; clear_value z; revert z; intro _)
    | ((with_reducible apply Fr.of); rotate_left 23; (with_reducible exact Or.inr rfl); rotate_left 3; with_reducible assumption; (iterate 25 (first | with_reducible exact Or.inr rfl | with_reducible exact Or.inr ⟨rfl, rfl⟩ | exact Or.inl (Fr.bit hw rfl))))

theorem fr_stepFw_eq {W : Nat} {s0 : State} {s : State} (hs : Fr W s0 s) {s' : State} {x'} (e' : State.stepFw s = (s', x')) :
    Fr W s0 s' := by
  unfold State.stepFw at e'
  repeat' first
    | with_reducible assumption
    | split at e'
    | with_reducible refine fr_setReg ?_
    | ((with_reducible refine Fr.of_pair ?_ e'); clear e')

theorem fr_stepFw {W : Nat} {s0 : State} {s : State} (hs : Fr W s0 s) : Fr W s0 (State.stepFw s).1 :=
  Fr.of_eq fun _ _ e' => fr_stepFw_eq hs e'

theorem fr_stepNor_eq {W : Nat} {s0 : State} {s : State} (hw : 16 ||| W = W) (hs : Fr W s0 s) {s' : State} {x'} (e' : State.stepNor s = (s', x')) :
    Fr W s0 s' := by
  unfold State.stepNor at e'
  repeat' first
    | with_reducible assumption
    | (extract_lets +onlyGivenNames z at e'; guard_hyp z : State := _; refine Fr.cut (x := z) ?_ (fun _ => ?_); rotate_left; clear_value z; revert z; intro _ e' _; rotate_left; unfold z; clear e'; clear z)
    | (extract_lets +onlyGivenNames z at e'; clear_value z; revert z; intro _ e')
    | split at e'
    | with_reducible refine fr_trigger ?_
    | ((with_reducible refine Fr.of_pair ?_ e'); clear e')
    | ((with_reducible apply Fr.of); rotate_left 23; (with_reducible exact Or.inr rfl); rotate_left 3; with_reducible assumption; (iterate 25 (first | with_reducible exact Or.inr rfl | with_reducible exact Or.inr ⟨rfl, rfl⟩ | exact Or.inl (Fr.bit hw rfl))))

theorem fr_stepNor {W : Nat} {s0 : State} {s : State} (hw : 16 ||| W = W) (hs : Fr W s0 s) : Fr W s0 (State.stepNor s).1 :=
  Fr.of_eq fun _ _ e' => fr_stepNor_eq hw hs e'

theorem fr_stepWeavers_eq {W : Nat} {s0 : State} {s : State} {u : Sys2Proof.UpsettInput} (hw : 1536 ||| W = W) (hs : Fr W s0 s) {s' : State} {x'} (e' : State.stepWeavers s u = (s', x')) :
    Fr W s0 s' := by
  unfold State.stepWeavers at e'
  repeat' first
    | intro _
    | with_reducible assumption
    | (extract_lets +onlyGivenNames z at e'; guard_hyp z : State := _; refine Fr.cut (x := z) ?_ (fun _ => ?_); rotate_left; clear_value z; revert z; intro _ e' _; rotate_left; unfold z; clear e'; clear z)
    | with_reducible refine fr_weaverStates (Fr.sub (V := 1536) rfl hw) ?_
    | with_reducible refine fr_retireWeaver hw ?_
    | with_reducible apply Fr.ite
    | with_reducible apply Fr.foldl
    | ((with_reducible refine Fr.of_pair ?_ e'); clear e')

theorem fr_stepWeavers {W : Nat} {s0 : State} {s : State} {u : Sys2Proof.UpsettInput} (hw : 1536 ||| W = W) (hs : Fr W s0 s) : Fr W s0 (State.stepWeavers s u).1 :=
  Fr.of_eq fun _ _ e' => fr_stepWeavers_eq hw hs e'

theorem fr_stepRim_eq {W : Nat} {s0 : State} {s : State} {u : Sys2Proof.UpsettInput} (hw : 16384 ||| W = W) (hs : Fr W s0 s) {s' : State} {x'} (e' : State.stepRim s u = (s', x')) :
    Fr W s0 s' := by
  unfold State.stepRim at e'
  repeat' first
    | with_reducible assumption
    | (extract_lets +onlyGivenNames z at e'; guard_hyp z : State := _; refine Fr.cut (x := z) ?_ (fun _ => ?_); rotate_left; clear_value z; revert z; intro _ e' _; rotate_left; unfold z; clear e'; clear z)
    | (extract_lets +onlyGivenNames z at e'; clear_value z; revert z; intro _ e')
    | split at e'
    | with_reducible refine fr_trainLink hw ?_
    | ((with_reducible refine Fr.of_pair ?_ e'); clear e')
    | ((with_reducible apply Fr.of); rotate_left 23; (with_reducible exact Or.inr rfl); rotate_left 3; with_reducible assumption; (iterate 25 (first | with_reducible exact Or.inr rfl | with_reducible exact Or.inr ⟨rfl, rfl⟩ | exact Or.inl (Fr.bit hw rfl))))

theorem fr_stepRim {W : Nat} {s0 : State} {s : State} {u : Sys2Proof.UpsettInput} (hw : 16384 ||| W = W) (hs : Fr W s0 s) : Fr W s0 (State.stepRim s u).1 :=
  Fr.of_eq fun _ _ e' => fr_stepRim_eq hw hs e'

theorem fr_execTrainRim {W : Nat} {s0 : State} {ring : Nat} {r : Sys2Proof.RimTraining} {s : State} (hw : 62914312 ||| W = W) (hs : Fr W s0 s) :
    FrO W s0 (execTrainRim ring r s) := by
  unfold execTrainRim
  repeat' first
    | intro _
    | with_reducible assumption
    | (extract_lets +onlyGivenNames z; guard_hyp z : State := _; refine Fr.cut (x := z) ?_ (fun _ => ?_); rotate_left; clear_value z; revert z; intro _ _; rotate_left; unfold z; clear z)
    | with_reducible refine fr_finish ?_ ?_
    | with_reducible refine fr_checked (Fr.sub (V := 62914312) rfl hw) ?_ ?_
    | with_reducible refine fr_awake hw ?_ ?_
    | with_reducible refine fr_trainLink (Fr.sub (V := 62914312) rfl hw) ?_
    | with_reducible refine fr_setWait (Fr.sub (V := 62914312) rfl hw) ?_
    | with_reducible refine fr_answer (Fr.sub (V := 62914312) rfl hw) ?_
    | with_reducible apply Fr.ite
    | split

theorem fr_execCalibrateSensors {W : Nat} {s0 : State} {ring : Nat} {temps : List Int} {age : List Nat} {s : State} (hw : 67108826 ||| W = W) (hs : Fr W s0 s) :
    FrO W s0 (execCalibrateSensors ring temps age s) := by
  unfold execCalibrateSensors
  repeat' first
    | intro _
    | with_reducible assumption
    | (extract_lets +onlyGivenNames z; guard_hyp z : State := _; refine Fr.cut (x := z) ?_ (fun _ => ?_); rotate_left; clear_value z; revert z; intro _ _; rotate_left; unfold z; clear z)
    | (extract_lets +onlyGivenNames z; clear_value z; revert z; intro _)
    | with_reducible refine fr_finish ?_ ?_
    | with_reducible refine fr_checked (Fr.sub (V := 67108826) rfl hw) ?_ ?_
    | with_reducible refine fr_awake (Fr.sub (V := 67108826) rfl hw) ?_ ?_
    | with_reducible refine fr_measureAge (Fr.sub (V := 67108826) rfl hw) ?_
    | with_reducible refine fr_thermal (Fr.sub (V := 67108826) rfl hw) ?_
    | with_reducible refine fr_answer (Fr.sub (V := 67108826) rfl hw) ?_
    | ((with_reducible apply Fr.of); rotate_left 22; (with_reducible exact Or.inr rfl); rotate_left 4; with_reducible assumption; (iterate 25 (first | with_reducible exact Or.inr rfl | with_reducible exact Or.inr ⟨rfl, rfl⟩ | exact Or.inl (Fr.bit hw rfl))))
    | split

theorem fr_stepSensors_eq {W : Nat} {s0 : State} {s : State} {u : Sys2Proof.UpsettInput} (hw : 48365274 ||| W = W) (hs : Fr W s0 s) {s' : State} {x'} (e' : State.stepSensors s u = (s', x')) :
    Fr W s0 s' := by
  unfold State.stepSensors at e'
  repeat' first
    | with_reducible assumption
    | (extract_lets +onlyGivenNames z at e'; guard_hyp z : State := _; refine Fr.cut (x := z) ?_ (fun _ => ?_); rotate_left; clear_value z; revert z; intro _ e' _; rotate_left; unfold z; clear e'; clear z)
    | (extract_lets +onlyGivenNames z at e'; clear_value z; revert z; intro _ e')
    | with_reducible refine fr_measureAge (Fr.sub (V := 48365274) rfl hw) ?_
    | with_reducible refine fr_thermal (Fr.sub (V := 48365274) rfl hw) ?_
    | ((with_reducible refine Fr.of_pair ?_ e'); clear e')
    | ((with_reducible apply Fr.of); rotate_left 21; (with_reducible exact Or.inr rfl); rotate_left 5; with_reducible assumption; (iterate 25 (first | with_reducible exact Or.inr rfl | with_reducible exact Or.inr ⟨rfl, rfl⟩ | exact Or.inl (Fr.bit hw rfl))))

theorem fr_stepSensors {W : Nat} {s0 : State} {s : State} {u : Sys2Proof.UpsettInput} (hw : 48365274 ||| W = W) (hs : Fr W s0 s) : Fr W s0 (State.stepSensors s u).1 :=
  Fr.of_eq fun _ _ e' => fr_stepSensors_eq hw hs e'

theorem fr_execCalibrateUpsettSet {W : Nat} {s0 : State} {ring : Nat} {u : Sys2Proof.UpsettInput} {s : State} (hw : 67108826 ||| W = W) (hs : Fr W s0 s) :
    FrO W s0 (execCalibrateUpsettSet ring u s) := by
  unfold execCalibrateUpsettSet
  repeat' first
    | intro _
    | with_reducible assumption
    | with_reducible refine fr_finish ?_ ?_
    | with_reducible refine fr_checked (Fr.sub (V := 67108826) rfl hw) ?_ ?_
    | with_reducible refine fr_awake (Fr.sub (V := 67108826) rfl hw) ?_ ?_
    | with_reducible refine fr_answer (Fr.sub (V := 67108826) rfl hw) ?_
    | refine fr_stepWeavers_eq (Fr.sub (V := 67108826) rfl hw) ?_ (by with_reducible assumption)
    | refine fr_stepSensors_eq (Fr.sub (V := 67108826) rfl hw) ?_ (by with_reducible assumption)
    | split

theorem fr_stepDram_eq {W : Nat} {s0 : State} {s : State} {u : Sys2Proof.UpsettInput} (hw : 42073818 ||| W = W) (hs : Fr W s0 s) {s' : State} {x'} (e' : State.stepDram s u = (s', x')) :
    Fr W s0 s' := by
  unfold State.stepDram at e'
  repeat' first
    | intro _
    | with_reducible assumption
    | (extract_lets +onlyGivenNames z at e'; guard_hyp z : State := _; refine Fr.cut (x := z) ?_ (fun _ => ?_); rotate_left; clear_value z; revert z; intro _ e' _; rotate_left; unfold z; clear e'; clear z)
    | (extract_lets +onlyGivenNames z at e'; guard_hyp z : Dram := _; revert z; intro _ e')
    | (extract_lets +onlyGivenNames z at e'; clear_value z; revert z; intro _ e')
    | (extract_lets +onlyGivenNames z; guard_hyp z : Dram := _; revert z; intro _)
    | split at e'
    | with_reducible refine fr_eccLog (Fr.sub (V := 42073818) rfl hw) ?_
    | with_reducible refine fr_raise ?_
    | with_reducible refine fr_trainAll hw ?_
    | with_reducible apply Fr.foldl
    | ((with_reducible refine Fr.of_pair ?_ e'); clear e')
    | ((with_reducible apply Fr.of); rotate_left 23; (with_reducible exact Or.inr rfl); rotate_left 3; with_reducible assumption; (iterate 25 (first | with_reducible exact Or.inr rfl | with_reducible exact Or.inr ⟨rfl, rfl⟩ | exact Or.inl (Fr.bit hw rfl))))

theorem fr_stepDram {W : Nat} {s0 : State} {s : State} {u : Sys2Proof.UpsettInput} (hw : 42073818 ||| W = W) (hs : Fr W s0 s) : Fr W s0 (State.stepDram s u).1 :=
  Fr.of_eq fun _ _ e' => fr_stepDram_eq hw hs e'

theorem fr_execTrainDram {W : Nat} {s0 : State} {ring : Nat} {r : List Sys2Proof.ChanTraining} {s : State} (hw : 62914522 ||| W = W) (hs : Fr W s0 s) :
    FrO W s0 (execTrainDram ring r s) := by
  unfold execTrainDram
  repeat' first
    | intro _
    | with_reducible assumption
    | (extract_lets +onlyGivenNames z; guard_hyp z : State := _; refine Fr.cut (x := z) ?_ (fun _ => ?_); rotate_left; clear_value z; revert z; intro _ _; rotate_left; unfold z; clear z)
    | (extract_lets +onlyGivenNames z; clear_value z; revert z; intro _)
    | with_reducible refine fr_finish ?_ ?_
    | with_reducible refine fr_checked (Fr.sub (V := 62914522) rfl hw) ?_ ?_
    | with_reducible refine fr_awake (Fr.sub (V := 62914522) rfl hw) ?_ ?_
    | with_reducible refine fr_trainAll (Fr.sub (V := 62914522) rfl hw) ?_
    | with_reducible refine fr_answer (Fr.sub (V := 62914522) rfl hw) ?_
    | split

theorem fr_execCalibrateDramRecal {W : Nat} {s0 : State} {ring : Nat} {r : List Sys2Proof.ChanMargins} {s : State} (hw : 62914522 ||| W = W) (hs : Fr W s0 s) :
    FrO W s0 (execCalibrateDramRecal ring r s) := by
  unfold execCalibrateDramRecal
  repeat' first
    | intro _
    | with_reducible assumption
    | (extract_lets +onlyGivenNames z; clear_value z; revert z; intro _)
    | with_reducible refine fr_finish ?_ ?_
    | with_reducible refine fr_checked (Fr.sub (V := 62914522) rfl hw) ?_ ?_
    | with_reducible refine fr_awake (Fr.sub (V := 62914522) rfl hw) ?_ ?_
    | with_reducible refine fr_answer (Fr.sub (V := 62914522) rfl hw) ?_
    | with_reducible refine fr_recalChan (Fr.sub (V := 62914522) rfl hw) ?_
    | with_reducible apply Fr.foldl
    | split

theorem fr_execCalibrateRimRecal {W : Nat} {s0 : State} {ring : Nat} {r : List Sys2Proof.LaneRecal} {s : State} (hw : 62914522 ||| W = W) (hs : Fr W s0 s) :
    FrO W s0 (execCalibrateRimRecal ring r s) := by
  unfold execCalibrateRimRecal
  repeat' first
    | intro _
    | with_reducible assumption
    | (extract_lets +onlyGivenNames z; guard_hyp z : State × _ := _; revert z; intro _)
    | with_reducible refine fr_finish ?_ ?_
    | with_reducible refine fr_checked (Fr.sub (V := 62914522) rfl hw) ?_ ?_
    | with_reducible refine fr_awake (Fr.sub (V := 62914522) rfl hw) ?_ ?_
    | with_reducible refine fr_answer (Fr.sub (V := 62914522) rfl hw) ?_
    | with_reducible apply Fr.foldl₂
    | refine fr_recalLane_eq (Fr.sub (V := 62914522) rfl hw) ?_ (by with_reducible assumption)
    | split

theorem fr_upsettStep_eq {W : Nat} {s0 : State} {u : Sys2Proof.UpsettInput} {n : Nat} {s : State} (hw : 48496346 ||| W = W) (hs : Fr W s0 s) {s' : State} {x'} (e' : State.upsettStep u n s = (s', x')) :
    Fr W s0 s' := by
  unfold State.upsettStep at e'
  repeat' first
    | with_reducible assumption
    | split at e'
    | with_reducible refine fr_seedDraw (Fr.sub (V := 48496346) rfl hw) ?_
    | refine fr_stepFw_eq ?_ (by with_reducible assumption)
    | refine fr_stepNor_eq (Fr.sub (V := 48496346) rfl hw) ?_ (by with_reducible assumption)
    | refine fr_stepSram_eq (Fr.sub (V := 48496346) rfl hw) ?_ (by with_reducible assumption)
    | refine fr_stepDram_eq (Fr.sub (V := 48496346) rfl hw) ?_ (by with_reducible assumption)
    | refine fr_stepWeavers_eq (Fr.sub (V := 48496346) rfl hw) ?_ (by with_reducible assumption)
    | refine fr_stepRim_eq (Fr.sub (V := 48496346) rfl hw) ?_ (by with_reducible assumption)
    | refine fr_stepSensors_eq (Fr.sub (V := 48496346) rfl hw) ?_ (by with_reducible assumption)
    | refine fr_stepPath_eq (Fr.sub (V := 48496346) rfl hw) ?_ (by with_reducible assumption)

theorem fr_upsettStep {W : Nat} {s0 : State} {u : Sys2Proof.UpsettInput} {n : Nat} {s : State} (hw : 48496346 ||| W = W) (hs : Fr W s0 s) : Fr W s0 (State.upsettStep u n s).1 :=
  Fr.of_eq fun _ _ e' => fr_upsettStep_eq hw hs e'

theorem fr_runSteps_eq {W : Nat} {s0 : State} {u : Sys2Proof.UpsettInput} {a : List Nat} {a2 : State} (hw : 48496346 ||| W = W) (ha2 : Fr W s0 a2) {s' : State} {x'} (e' : State.runSteps u a a2 = (s', x')) :
    Fr W s0 s' := by
  induction a generalizing u a2 with
  | nil =>
    unfold State.runSteps at e'
    repeat' first
      | with_reducible assumption
      | ((with_reducible refine Fr.of_pair ?_ e'); clear e')
  | cons y l ih =>
    unfold State.runSteps at e'
    repeat' first
      | with_reducible assumption
      | (extract_lets +onlyGivenNames z at e'; guard_hyp z : State := _; refine Fr.cut (x := z) ?_ (fun _ => ?_); rotate_left; clear_value z; revert z; intro _ e' _; rotate_left; unfold z; clear e'; clear z)
      | (extract_lets +onlyGivenNames z at e'; guard_hyp z : State × _ := _; revert z; intro _ e')
      | split at e'
      | refine ih ?_ (by with_reducible assumption)
      | with_reducible refine fr_upsettStep hw ?_
      | with_reducible refine fr_setField ?_
      | with_reducible refine fr_setReg ?_
      | ((with_reducible refine Fr.of_pair ?_ e'); clear e')

theorem fr_runSteps {W : Nat} {s0 : State} {u : Sys2Proof.UpsettInput} {a : List Nat} {a2 : State} (hw : 48496346 ||| W = W) (ha2 : Fr W s0 a2) : Fr W s0 (State.runSteps u a a2).1 :=
  Fr.of_eq fun _ _ e' => fr_runSteps_eq hw ha2 e'

theorem fr_upsett_eq {W : Nat} {s0 : State} {s : State} {u : Sys2Proof.UpsettInput} {auto : Bool} (hw : 48496634 ||| W = W) (hs : Fr W s0 s) {s' : State} {x'} (e' : State.upsett s u auto = (s', x')) :
    Fr W s0 s' := by
  unfold State.upsett at e'
  repeat' first
    | intro _
    | with_reducible assumption
    | (extract_lets +onlyGivenNames z at e'; guard_hyp z : State := _; refine Fr.cut (x := z) ?_ (fun _ => ?_); rotate_left; clear_value z; revert z; intro _ e' _; rotate_left; unfold z; clear e'; clear z)
    | (extract_lets +onlyGivenNames z at e'; clear_value z; revert z; intro _ e')
    | split at e'
    | with_reducible refine fr_clearJob (Fr.sub (V := 48496634) rfl hw) ?_
    | with_reducible refine fr_enterMode (Fr.sub (V := 48496634) rfl hw) ?_
    | with_reducible refine fr_setReg ?_
    | with_reducible refine fr_setField ?_
    | with_reducible apply Fr.ite
    | refine fr_runSteps_eq (Fr.sub (V := 48496634) rfl hw) ?_ (by with_reducible assumption)
    | ((with_reducible refine Fr.of_pair ?_ e'); clear e')
    | ((with_reducible apply Fr.of); rotate_left 23; (with_reducible exact Or.inr rfl); rotate_left 3; with_reducible assumption; (iterate 25 (first | with_reducible exact Or.inr rfl | with_reducible exact Or.inr ⟨rfl, rfl⟩ | exact Or.inl (Fr.bit hw rfl))))

theorem fr_upsett {W : Nat} {s0 : State} {s : State} {u : Sys2Proof.UpsettInput} {auto : Bool} (hw : 48496634 ||| W = W) (hs : Fr W s0 s) : Fr W s0 (State.upsett s u auto).1 :=
  Fr.of_eq fun _ _ e' => fr_upsett_eq hw hs e'

theorem fr_setMode {W : Nat} {s0 : State} {s : State} {r : Nat} {n : Mode} {u : Sys2Proof.UpsettInput} (hw : 67108858 ||| W = W) (hs : Fr W s0 s) :
    Fr W s0 (State.setMode s r n u) := by
  unfold State.setMode
  repeat' first
    | intro _
    | with_reducible assumption
    | (extract_lets +onlyGivenNames z; guard_hyp z : State := _; refine Fr.cut (x := z) ?_ (fun _ => ?_); rotate_left; clear_value z; revert z; intro _ _; rotate_left; unfold z; clear z)
    | with_reducible refine fr_autoRun (Fr.sub (V := 67108858) rfl hw) ?_
    | with_reducible refine fr_answer (Fr.sub (V := 67108858) rfl hw) ?_
    | with_reducible refine fr_enterMode (Fr.sub (V := 67108858) rfl hw) ?_
    | with_reducible apply Fr.ite
    | refine fr_upsett_eq (Fr.sub (V := 67108858) rfl hw) ?_ (by with_reducible assumption)
    | split

theorem fr_execUpsettAutoStart {W : Nat} {s0 : State} {t : Nat} {u : Sys2Proof.UpsettInput} {sx : State} (hw : 67108859 ||| W = W) (hsx : Fr W s0 sx) :
    FrO W s0 (execUpsettAutoStart t u sx) := by
  unfold execUpsettAutoStart
  repeat' first
    | intro _
    | with_reducible assumption
    | (extract_lets +onlyGivenNames z; guard_hyp z : State := _; refine FrO.cut (x := z) ?_ (fun _ => ?_); rotate_left; clear_value z; revert z; intro _ _; rotate_left; unfold z; clear z)
    | with_reducible refine fr_at_ (Fr.sub (V := 67108859) rfl hw) ?_
    | with_reducible refine fr_finish ?_ ?_
    | with_reducible refine fr_upsett (Fr.sub (V := 67108859) rfl hw) ?_
    | with_reducible refine fr_autoRun (Fr.sub (V := 67108859) rfl hw) ?_
    | with_reducible apply Fr.ite

theorem fr_execSetMode {W : Nat} {s0 : State} {ring : Nat} {t : Nat} {u : Sys2Proof.UpsettInput} {sx : State} (hw : 67108859 ||| W = W) (hsx : Fr W s0 sx) :
    FrO W s0 (execSetMode ring t u sx) := by
  unfold execSetMode
  repeat' first
    | intro _
    | with_reducible assumption
    | (extract_lets +onlyGivenNames z; guard_hyp z : State := _; refine FrO.cut (x := z) ?_ (fun _ => ?_); rotate_left; clear_value z; revert z; intro _ _; rotate_left; unfold z; clear z)
    | (extract_lets +onlyGivenNames z; clear_value z; revert z; intro _)
    | with_reducible refine fr_at_ (Fr.sub (V := 67108859) rfl hw) ?_
    | with_reducible refine fr_finish ?_ ?_
    | with_reducible refine fr_checked (Fr.sub (V := 67108859) rfl hw) ?_ ?_
    | with_reducible refine fr_refuse (Fr.sub (V := 67108859) rfl hw) ?_
    | with_reducible refine fr_setMode (Fr.sub (V := 67108859) rfl hw) ?_
    | with_reducible apply Fr.ite
    | split

/-! JobKey. -/

theorem fr_installKey {W : Nat} {s0 : State} {s : State} {blk : List Sys2Proof.Byte} {key : List Sys2Proof.Byte} (hw : 106240 ||| W = W) (hs : Fr W s0 s) :
    Fr W s0 (State.installKey s blk key) := by
  unfold State.installKey
  repeat' first
    | with_reducible assumption
    | (extract_lets +onlyGivenNames z; guard_hyp z : State := _; refine Fr.cut (x := z) ?_ (fun _ => ?_); rotate_left; clear_value z; revert z; intro _ _; rotate_left; unfold z; clear z)
    | with_reducible refine fr_clearJob hw ?_
    | with_reducible refine fr_setReg ?_
    | ((with_reducible apply Fr.of); rotate_left 23; (with_reducible exact Or.inr rfl); rotate_left 3; with_reducible assumption; (iterate 25 (first | with_reducible exact Or.inr rfl | with_reducible exact Or.inr ⟨rfl, rfl⟩ | exact Or.inl (Fr.bit hw rfl))))

theorem fr_useKeyBlock {W : Nat} {s0 s : State} {r : Nat} {blk : Sys2Proof.HostRead} (hw : 42049288 ||| W = W) (hs : Fr W s0 s) :
    Fr W s0 (State.useKeyBlock s r blk) := by
  unfold State.useKeyBlock
  cases blk with
  | fail b n => exact fr_refuse (Fr.sub rfl hw) hs
  | data b =>
    dsimp only
    generalize unwrapBlock s.glb.kwk s.glb.kwkId.toNat 1 b = c
    cases c with
    | none => exact fr_refuse (Fr.sub rfl hw) hs
    | some key => exact Fr.ite (fun _ => fr_setWait (Fr.sub rfl hw) hs) fun _ => fr_answer (Fr.sub rfl hw) (fr_installKey (Fr.sub rfl hw) hs)

theorem fr_resumeLoadKey {W : Nat} {s0 : State} {s : State} (hw : 42049288 ||| W = W) (hs : Fr W s0 s) :
    Fr W s0 (State.resumeLoadKey s) := by
  unfold State.resumeLoadKey
  repeat' first
    | intro _
    | with_reducible assumption
    | with_reducible refine fr_useKeyBlock hw ?_
    | with_reducible refine fr_dropWait (Fr.sub (V := 42049288) rfl hw) ?_
    | with_reducible apply Fr.ite
    | with_reducible apply Fr.foldl
    | split

theorem fr_execLoadJobKey {W : Nat} {s0 : State} {ring : Nat} {blk : Sys2Proof.HostRead} {s : State} (hw : 62914312 ||| W = W) (hs : Fr W s0 s) :
    FrO W s0 (execLoadJobKey ring blk s) := by
  unfold execLoadJobKey
  repeat' first
    | intro _
    | with_reducible assumption
    | with_reducible refine fr_finish ?_ ?_
    | with_reducible refine fr_checked (Fr.sub (V := 62914312) rfl hw) ?_ ?_
    | with_reducible refine fr_awake hw ?_ ?_
    | with_reducible refine fr_useKeyBlock (Fr.sub (V := 62914312) rfl hw) ?_
    | with_reducible apply Fr.ite
    | split

end Sys2Proof.Laws
end

