-- ==== Sys2Proof/Laws/FrameHost.lean ====
section
/-! SUPPORT. What the DMA engines, the command rings and the network leave as it was: one lemma for each operation and each command (see Frame). -/

namespace Sys2Proof.Laws

open Sys2Proof.Machine

/-! Dma. -/

theorem fr_carryPoison {W : Nat} {s0 : State} {s : State} {ws : List Nat} (hw : 98304 ||| W = W) (hs : Fr W s0 s) :
    Fr W s0 (State.carryPoison s ws) := by
  unfold State.carryPoison
  repeat' first
    | intro _
    | with_reducible assumption
    | with_reducible refine fr_markWord hw ?_
    | with_reducible apply Fr.ite
    | with_reducible apply Fr.foldl

theorem fr_deliver {W : Nat} {s0 : State} {s : State} {lo : Nat} {n : Nat} (hw : 256 ||| W = W) (hs : Fr W s0 s) :
    Fr W s0 (State.deliver s lo n) := by
  unfold State.deliver
  repeat' first
    | (extract_lets +onlyGivenNames z; clear_value z; revert z; intro _)
    | with_reducible refine fr_freeRing hw ?_
    | ((with_reducible apply Fr.of); rotate_left 23; (with_reducible exact Or.inr rfl); rotate_left 3; with_reducible assumption; (iterate 25 (first | with_reducible exact Or.inr rfl | with_reducible exact Or.inr ⟨rfl, rfl⟩ | exact Or.inl (Fr.bit hw rfl))))

theorem fr_countBytes {W : Nat} {s0 : State} {s : State} {r : Nat} {n : Nat} (hs : Fr W s0 s) :
    Fr W s0 (State.countBytes s r n) := by
  unfold State.countBytes
  repeat' first
    | with_reducible assumption
    | (extract_lets +onlyGivenNames z; clear_value z; revert z; intro _)
    | with_reducible refine fr_setReg64 ?_

theorem fr_setMoved {W : Nat} {s0 : State} {s : State} {r : Nat} {e : CurEntry} {m : Moved} (hw : 8388608 ||| W = W) (hs : Fr W s0 s) :
    Fr W s0 (State.setMoved s r e m) := by
  unfold State.setMoved
  repeat' first
    | with_reducible assumption
    | (extract_lets +onlyGivenNames z; clear_value z; revert z; intro _)
    | with_reducible refine fr_setRing hw ?_
    | with_reducible refine fr_countBytes ?_

theorem fr_placeLocal {W : Nat} {s0 : State} {a : Nat} {a1 : State} {a2 : Desc} {a3 : Nat} {a4 : List Sys2Proof.Byte} (hw : 98304 ||| W = W) (ha1 : Fr W s0 a1) :
    Fr W s0 (State.placeLocal a a1 a2 a3 a4) := by
  induction a generalizing a1 a2 a3 a4 with
  | zero =>
    unfold State.placeLocal
    repeat' (with_reducible assumption)
  | succ n ih =>
    unfold State.placeLocal
    repeat' first
      | intro _
      | with_reducible assumption
      | (extract_lets +onlyGivenNames z; clear_value z; revert z; intro _)
      | with_reducible apply ih
      | with_reducible refine fr_memWrite hw ?_
      | with_reducible apply Fr.ite

theorem fr_spoilBeat {W : Nat} {s0 : State} {s : State} {d : Desc} {o : Nat} (hw : 98306 ||| W = W) (hs : Fr W s0 s) :
    Fr W s0 (State.spoilBeat s d o) := by
  unfold State.spoilBeat
  repeat' first
    | with_reducible assumption
    | (extract_lets +onlyGivenNames z; guard_hyp z : State := _; refine Fr.cut (x := z) ?_ (fun _ => ?_); rotate_left; clear_value z; revert z; intro _ _; rotate_left; unfold z; clear z)
    | (extract_lets +onlyGivenNames z; clear_value z; revert z; intro _)
    | with_reducible refine fr_memWrite (Fr.sub (V := 98306) rfl hw) ?_
    | ((with_reducible apply Fr.of); rotate_left 23; (with_reducible exact Or.inr rfl); rotate_left 3; with_reducible assumption; (iterate 25 (first | with_reducible exact Or.inr rfl | with_reducible exact Or.inr ⟨rfl, rfl⟩ | exact Or.inl (Fr.bit hw rfl))))

theorem fr_moveIn {W : Nat} {s0 : State} {s : State} {r : Nat} {e : CurEntry} {data : Sys2Proof.HostRead} (hw : 8486912 ||| W = W) (hs : Fr W s0 s) :
    Fr W s0 (State.moveIn s r e data) := by
  unfold State.moveIn
  repeat' first
    | intro _
    | with_reducible assumption
    | (extract_lets +onlyGivenNames z; guard_hyp z : State := _; refine Fr.cut (x := z) ?_ (fun _ => ?_); rotate_left; clear_value z; revert z; intro _ _; rotate_left; unfold z; clear z)
    | (extract_lets +onlyGivenNames z; clear_value z; revert z; intro _)
    | with_reducible refine fr_placeLocal (Fr.sub (V := 8486912) rfl hw) ?_
    | with_reducible refine fr_setMoved (Fr.sub (V := 8486912) rfl hw) ?_
    | with_reducible refine fr_memWrite (Fr.sub (V := 8486912) rfl hw) ?_
    | with_reducible apply Fr.foldl
    | split

theorem fr_execFigWait {W : Nat} {s0 : State} {ring : Nat} {data : Sys2Proof.HostRead} {s : State} (hw : 8486912 ||| W = W) (hs : Fr W s0 s) :
    FrO W s0 (execFigWait ring data s) := by
  unfold execFigWait
  repeat' first
    | intro _
    | with_reducible assumption
    | with_reducible refine fr_finish ?_ ?_
    | with_reducible refine fr_moveIn hw ?_
    | with_reducible apply Fr.ite
    | split

theorem fr_moveRow {W : Nat} {s0 : State} {s : State} {d : Desc} {row : Nat} (hw : 98312 ||| W = W) (hs : Fr W s0 s) :
    Fr W s0 (State.moveRow s d row) := by
  unfold State.moveRow
  repeat' first
    | intro _
    | with_reducible assumption
    | (extract_lets +onlyGivenNames z; guard_hyp z : State := _; refine Fr.cut (x := z) ?_ (fun _ => ?_); rotate_left; clear_value z; revert z; intro _ _; rotate_left; unfold z; clear z)
    | (extract_lets +onlyGivenNames z; guard_hyp z : Hst := _; revert z; intro _)
    | (extract_lets +onlyGivenNames z; clear_value z; revert z; intro _)
    | with_reducible refine fr_touch (Fr.sub (V := 98312) rfl hw) ?_
    | with_reducible refine fr_hostWrite (Fr.sub (V := 98312) rfl hw) ?_
    | with_reducible refine fr_carryPoison (Fr.sub (V := 98312) rfl hw) ?_
    | with_reducible refine fr_memWrite (Fr.sub (V := 98312) rfl hw) ?_
    | with_reducible apply Fr.ite
    | ((with_reducible apply Fr.of); rotate_left 23; (with_reducible exact Or.inr rfl); rotate_left 3; with_reducible assumption; (iterate 25 (first | with_reducible exact Or.inr rfl | with_reducible exact Or.inr ⟨rfl, rfl⟩ | exact Or.inl (Fr.bit hw rfl))))

theorem fr_moveOut {W : Nat} {s0 : State} {s : State} {r : Nat} {e : CurEntry} (hw : 8486920 ||| W = W) (hs : Fr W s0 s) :
    Fr W s0 (State.moveOut s r e) := by
  unfold State.moveOut
  repeat' first
    | intro _
    | with_reducible assumption
    | (extract_lets +onlyGivenNames z; guard_hyp z : State := _; refine Fr.cut (x := z) ?_ (fun _ => ?_); rotate_left; clear_value z; revert z; intro _ _; rotate_left; unfold z; clear z)
    | (extract_lets +onlyGivenNames z; clear_value z; revert z; intro _)
    | with_reducible refine fr_moveRow (Fr.sub (V := 8486920) rfl hw) ?_
    | with_reducible refine fr_setMoved (Fr.sub (V := 8486920) rfl hw) ?_
    | with_reducible apply Fr.foldl

theorem fr_startDesc {W : Nat} {s0 : State} {s : State} {r : Nat} {kind : Nat} {f : CurEntry → State} (hw : 41943048 ||| W = W) (hs : Fr W s0 s) (hf : ∀ (x0 : CurEntry), Fr W s0 (f x0)) :
    Fr W s0 (State.startDesc s r kind f) := by
  unfold State.startDesc
  repeat' first
    | with_reducible assumption
    | with_reducible apply hf
    | with_reducible refine fr_refuse hw ?_
    | split

theorem fr_execDmaH2F {W : Nat} {s0 : State} {ring : Nat} {data : Sys2Proof.HostRead} {s : State} (hw : 42041352 ||| W = W) (hs : Fr W s0 s) :
    FrO W s0 (execDmaH2F ring data s) := by
  unfold execDmaH2F
  repeat' first
    | intro _
    | with_reducible assumption
    | (extract_lets +onlyGivenNames z; clear_value z; revert z; intro _)
    | with_reducible refine fr_finish ?_ ?_
    | with_reducible refine fr_startDesc (Fr.sub (V := 42041352) rfl hw) ?_ ?_
    | with_reducible refine fr_setRing (Fr.sub (V := 42041352) rfl hw) ?_
    | with_reducible refine fr_moveIn (Fr.sub (V := 42041352) rfl hw) ?_
    | with_reducible apply Fr.ite

theorem fr_execDmaL2L {W : Nat} {s0 : State} {ring : Nat} {s : State} (hw : 42041352 ||| W = W) (hs : Fr W s0 s) :
    FrO W s0 (execDmaL2L ring s) := by
  unfold execDmaL2L
  repeat' first
    | intro _
    | with_reducible assumption
    | with_reducible refine fr_finish ?_ ?_
    | with_reducible refine fr_startDesc (Fr.sub (V := 42041352) rfl hw) ?_ ?_
    | with_reducible refine fr_moveOut (Fr.sub (V := 42041352) rfl hw) ?_

theorem fr_execDmaH2L {W : Nat} {s0 : State} {ring : Nat} {data : Sys2Proof.HostRead} {s : State} (hw : 42041352 ||| W = W) (hs : Fr W s0 s) :
    FrO W s0 (execDmaH2L ring data s) := by
  unfold execDmaH2L
  repeat' first
    | intro _
    | with_reducible assumption
    | with_reducible refine fr_finish ?_ ?_
    | with_reducible refine fr_startDesc (Fr.sub (V := 42041352) rfl hw) ?_ ?_
    | with_reducible refine fr_moveIn (Fr.sub (V := 42041352) rfl hw) ?_
    | with_reducible apply Fr.ite

theorem fr_execDmaL2H {W : Nat} {s0 : State} {ring : Nat} {s : State} (hw : 42041352 ||| W = W) (hs : Fr W s0 s) :
    FrO W s0 (execDmaL2H ring s) := by
  unfold execDmaL2H
  repeat' first
    | intro _
    | with_reducible assumption
    | with_reducible refine fr_finish ?_ ?_
    | with_reducible refine fr_startDesc (Fr.sub (V := 42041352) rfl hw) ?_ ?_
    | with_reducible refine fr_moveOut (Fr.sub (V := 42041352) rfl hw) ?_

theorem fr_execDescriptorComplete {W : Nat} {s0 : State} {ring : Nat} {errs : Sys2Proof.XferErrors} {s : State} (hw : 42049290 ||| W = W) (hs : Fr W s0 s) :
    FrO W s0 (execDescriptorComplete ring errs s) := by
  unfold execDescriptorComplete
  repeat' first
    | intro _
    | with_reducible assumption
    | (extract_lets +onlyGivenNames z; guard_hyp z : State := _; refine Fr.cut (x := z) ?_ (fun _ => ?_); rotate_left; clear_value z; revert z; intro _ _; rotate_left; unfold z; clear z)
    | (extract_lets +onlyGivenNames z; clear_value z; revert z; intro _)
    | with_reducible refine fr_finish ?_ ?_
    | with_reducible refine fr_spoilBeat (Fr.sub (V := 42049290) rfl hw) ?_
    | with_reducible refine fr_answer (Fr.sub (V := 42049290) rfl hw) ?_
    | with_reducible refine fr_resumeLoadKey (Fr.sub (V := 42049290) rfl hw) ?_
    | with_reducible refine fr_deliver (Fr.sub (V := 42049290) rfl hw) ?_
    | with_reducible apply Fr.ite
    | split

/-! Commands. -/

theorem fr_restartFigure {W : Nat} {s0 : State} {s : State} {off : Nat} (hw : 256 ||| W = W) (hs : Fr W s0 s) :
    Fr W s0 (State.restartFigure s off) := by
  unfold State.restartFigure
  repeat' first
    | (extract_lets +onlyGivenNames z; clear_value z; revert z; intro _)
    | ((with_reducible apply Fr.of); rotate_left 23; (with_reducible exact Or.inr rfl); rotate_left 3; with_reducible assumption; (iterate 25 (first | with_reducible exact Or.inr rfl | with_reducible exact Or.inr ⟨rfl, rfl⟩ | exact Or.inl (Fr.bit hw rfl))))

theorem fr_clearRc {W : Nat} {s0 : State} {s : State} {off : Nat} (hs : Fr W s0 s) :
    Fr W s0 (State.clearRc s off) := by
  unfold State.clearRc
  repeat' first
    | intro _
    | with_reducible assumption
    | with_reducible refine fr_setReg ?_
    | with_reducible apply Fr.ite

theorem fr_wakeLanes {W : Nat} {s0 : State} {s : State} {serial : Nat} (hw : 16384 ||| W = W) (hs : Fr W s0 s) :
    Fr W s0 (State.wakeLanes s serial) := by
  unfold State.wakeLanes
  repeat' first
    | intro _
    | with_reducible assumption
    | (extract_lets +onlyGivenNames z; guard_hyp z : State := _; refine Fr.cut (x := z) ?_ (fun _ => ?_); rotate_left; clear_value z; revert z; intro _ _; rotate_left; unfold z; clear z)
    | (extract_lets +onlyGivenNames z; clear_value z; revert z; intro _)
    | with_reducible refine fr_sendBlocks hw ?_
    | with_reducible refine fr_modLane hw ?_
    | with_reducible apply Fr.foldl
    | ((with_reducible apply Fr.of); rotate_left 23; (with_reducible exact Or.inr rfl); rotate_left 3; with_reducible assumption; (iterate 25 (first | with_reducible exact Or.inr rfl | with_reducible exact Or.inr ⟨rfl, rfl⟩ | exact Or.inl (Fr.bit hw rfl))))

theorem fr_bindRun {W : Nat} {s0 : State} {s : State} {r : Run} {chain : List (Nat × LedgerDesc)} {b : Bool} (hw : 12352 ||| W = W) (hs : Fr W s0 s) :
    Fr W s0 (State.bindRun s r chain b) := by
  unfold State.bindRun
  repeat' first
    | with_reducible assumption
    | (extract_lets +onlyGivenNames z; guard_hyp z : State := _; refine Fr.cut (x := z) ?_ (fun _ => ?_); rotate_left; clear_value z; revert z; intro _ _; rotate_left; unfold z; clear z)
    | (extract_lets +onlyGivenNames z; clear_value z; revert z; intro _)
    | with_reducible refine fr_readOffsets (Fr.sub (V := 12352) rfl hw) ?_
    | ((with_reducible apply Fr.of); rotate_left 23; (with_reducible exact Or.inr rfl); rotate_left 3; with_reducible assumption; (iterate 25 (first | with_reducible exact Or.inr rfl | with_reducible exact Or.inr ⟨rfl, rfl⟩ | exact Or.inl (Fr.bit hw rfl))))
    | split

theorem fr_armWork {W : Nat} {s0 : State} {s : State} {p : ArmParams} {rec_ : StripeRec} {w : Nat} {b : Bool} (hw : 102144 ||| W = W) (hs : Fr W s0 s) :
    Fr W s0 (State.armWork s p rec_ w b) := by
  unfold State.armWork
  repeat' first
    | intro _
    | with_reducible assumption
    | (extract_lets +onlyGivenNames z; guard_hyp z : State := _; refine Fr.cut (x := z) ?_ (fun _ => ?_); rotate_left; clear_value z; revert z; intro _ _; rotate_left; unfold z; clear z)
    | (extract_lets +onlyGivenNames z; clear_value z; revert z; intro _)
    | with_reducible refine fr_ensureNext (Fr.sub (V := 102144) rfl hw) ?_
    | with_reducible refine fr_abandonNext hw ?_
    | with_reducible refine fr_corLog ?_
    | with_reducible refine fr_bindTo (Fr.sub (V := 102144) rfl hw) ?_
    | with_reducible refine fr_setChanged (Fr.sub (V := 102144) rfl hw) ?_
    | with_reducible apply Fr.ite
    | ((with_reducible apply Fr.of); rotate_left 23; (with_reducible exact Or.inr rfl); rotate_left 4; (iterate 25 (first | with_reducible exact Or.inr rfl | with_reducible exact Or.inr ⟨rfl, rfl⟩ | exact Or.inl (Fr.bit hw rfl))); (first | with_reducible assumption | with_reducible refine fr_newWork (Fr.sub (V := 102144) rfl hw) ?_))
    | split

theorem fr_setsChanged {W : Nat} {s0 : State} {s : State} (hw : 101440 ||| W = W) (hs : Fr W s0 s) :
    Fr W s0 (State.setsChanged s) := by
  unfold State.setsChanged
  repeat' first
    | intro _
    | with_reducible assumption
    | (extract_lets +onlyGivenNames z; guard_hyp z : State := _; refine Fr.cut (x := z) ?_ (fun _ => ?_); rotate_left; clear_value z; revert z; intro _ _; rotate_left; unfold z; clear z)
    | with_reducible refine fr_setChanged (Fr.sub (V := 101440) rfl hw) ?_
    | with_reducible refine fr_readOffsets (Fr.sub (V := 101440) rfl hw) ?_
    | with_reducible apply Fr.ite
    | split

theorem fr_sealShadow {W : Nat} {s0 : State} {s : State} (hw : 101472 ||| W = W) (hs : Fr W s0 s) :
    Fr W s0 (State.sealShadow s) := by
  unfold State.sealShadow
  repeat' first
    | intro _
    | with_reducible assumption
    | (extract_lets +onlyGivenNames z; clear_value z; revert z; intro _)
    | with_reducible refine fr_setsChanged (Fr.sub (V := 101472) rfl hw) ?_
    | with_reducible apply Fr.ite
    | ((with_reducible apply Fr.of); rotate_left 23; (with_reducible exact Or.inr rfl); rotate_left 3; with_reducible assumption; (iterate 25 (first | with_reducible exact Or.inr rfl | with_reducible exact Or.inr ⟨rfl, rfl⟩ | exact Or.inl (Fr.bit hw rfl))))

theorem fr_readCounters {W : Nat} {s0 : State} {s : State} {ring : Nat} {e : CurEntry} {resp : Sys2Proof.WriteResp} (hw : 41943048 ||| W = W) (hs : Fr W s0 s) :
    Fr W s0 (State.readCounters s ring e resp) := by
  unfold State.readCounters
  repeat' first
    | intro _
    | with_reducible assumption
    | (extract_lets +onlyGivenNames z; guard_hyp z : State := _; refine Fr.cut (x := z) ?_ (fun _ => ?_); rotate_left; clear_value z; revert z; intro _ _; rotate_left; unfold z; clear z)
    | (extract_lets +onlyGivenNames z; clear_value z; revert z; intro _)
    | with_reducible refine fr_refuse hw ?_
    | with_reducible refine fr_hostWrite (Fr.sub (V := 41943048) rfl hw) ?_
    | with_reducible refine fr_clearRc ?_
    | with_reducible refine fr_answer hw ?_
    | with_reducible apply Fr.ite
    | with_reducible apply Fr.foldl
    | split

theorem fr_retirePage {W : Nat} {s0 : State} {s : State} {ring : Nat} {a : Nat} {writeErr : Bool} (hw : 42041352 ||| W = W) (hs : Fr W s0 s) :
    Fr W s0 (State.retirePage s ring a writeErr) := by
  unfold State.retirePage
  repeat' first
    | intro _
    | with_reducible assumption
    | (extract_lets +onlyGivenNames z; guard_hyp z : State := _; refine Fr.cut (x := z) ?_ (fun _ => ?_); rotate_left; clear_value z; revert z; intro _ _; rotate_left; unfold z; clear z)
    | (extract_lets +onlyGivenNames z; clear_value z; revert z; intro _)
    | with_reducible refine fr_refuse (Fr.sub (V := 42041352) rfl hw) ?_
    | with_reducible refine fr_answer (Fr.sub (V := 42041352) rfl hw) ?_
    | with_reducible refine fr_takeReplacement (Fr.sub (V := 42041352) rfl hw) ?_
    | with_reducible apply Fr.ite
    | split

theorem fr_arm {W : Nat} {s0 : State} {s : State} {ring : Nat} {p : ArmParams} {rec_ : StripeRec} {chain : List (Nat × LedgerDesc)} (hw : 42073960 ||| W = W) (hs : Fr W s0 s) :
    Fr W s0 (State.arm s ring p rec_ chain) := by
  unfold State.arm
  repeat' first
    | intro _
    | with_reducible assumption
    | (extract_lets +onlyGivenNames z; guard_hyp z : State := _; refine Fr.cut (x := z) ?_ (fun _ => ?_); rotate_left; clear_value z; revert z; intro _ _; rotate_left; unfold z; clear z)
    | (extract_lets +onlyGivenNames z; clear_value z; revert z; intro _)
    | with_reducible refine fr_sealShadow (Fr.sub (V := 42073960) rfl hw) ?_
    | with_reducible refine fr_armWork (Fr.sub (V := 42073960) rfl hw) ?_
    | with_reducible refine fr_bindRun (Fr.sub (V := 42073960) rfl hw) ?_
    | with_reducible refine fr_wakeLanes (Fr.sub (V := 42073960) rfl hw) ?_
    | with_reducible refine fr_answer (Fr.sub (V := 42073960) rfl hw) ?_
    | with_reducible refine fr_tellBound (Fr.sub (V := 42073960) rfl hw) ?_
    | with_reducible apply Fr.ite

theorem fr_execSwapSetCancel {W : Nat} {s0 : State} {ring : Nat} {s : State} (hw : 42044520 ||| W = W) (hs : Fr W s0 s) :
    FrO W s0 (execSwapSetCancel ring s) := by
  unfold execSwapSetCancel
  repeat' first
    | intro _
    | with_reducible assumption
    | (extract_lets +onlyGivenNames z; guard_hyp z : State := _; refine Fr.cut (x := z) ?_ (fun _ => ?_); rotate_left; clear_value z; revert z; intro _ _; rotate_left; unfold z; clear z)
    | (extract_lets +onlyGivenNames z; clear_value z; revert z; intro _)
    | with_reducible refine fr_finish ?_ ?_
    | with_reducible refine fr_checked (Fr.sub (V := 42044520) rfl hw) ?_ ?_
    | with_reducible refine fr_setsChanged (Fr.sub (V := 42044520) rfl hw) ?_
    | with_reducible refine fr_answer (Fr.sub (V := 42044520) rfl hw) ?_
    | with_reducible apply Fr.ite
    | ((with_reducible apply Fr.of); rotate_left 23; (with_reducible exact Or.inr rfl); rotate_left 3; with_reducible assumption; (iterate 25 (first | with_reducible exact Or.inr rfl | with_reducible exact Or.inr ⟨rfl, rfl⟩ | exact Or.inl (Fr.bit hw rfl))))
    | split

theorem fr_execSyncRunEnd {W : Nat} {s0 : State} {ring : Nat} {s : State} (hw : 41943048 ||| W = W) (hs : Fr W s0 s) :
    FrO W s0 (execSyncRunEnd ring s) := by
  unfold execSyncRunEnd
  repeat' first
    | intro _
    | with_reducible assumption
    | with_reducible refine fr_finish ?_ ?_
    | with_reducible refine fr_checked hw ?_ ?_
    | with_reducible refine fr_setWait (Fr.sub (V := 41943048) rfl hw) ?_
    | split

theorem fr_execSyncBarrier {W : Nat} {s0 : State} {ring : Nat} {s : State} (hw : 41943048 ||| W = W) (hs : Fr W s0 s) :
    FrO W s0 (execSyncBarrier ring s) := by
  unfold execSyncBarrier
  repeat' first
    | intro _
    | with_reducible assumption
    | (extract_lets +onlyGivenNames z; clear_value z; revert z; intro _)
    | with_reducible refine fr_finish ?_ ?_
    | with_reducible refine fr_checked hw ?_ ?_
    | with_reducible refine fr_settleBarriers hw ?_
    | with_reducible refine fr_setWait (Fr.sub (V := 41943048) rfl hw) ?_
    | split

theorem fr_execSwapSetSeal {W : Nat} {s0 : State} {ring : Nat} {s : State} (hw : 42044520 ||| W = W) (hs : Fr W s0 s) :
    FrO W s0 (execSwapSetSeal ring s) := by
  unfold execSwapSetSeal
  repeat' first
    | intro _
    | with_reducible assumption
    | (extract_lets +onlyGivenNames z; guard_hyp z : State := _; refine Fr.cut (x := z) ?_ (fun _ => ?_); rotate_left; clear_value z; revert z; intro _ _; rotate_left; unfold z; clear z)
    | with_reducible refine fr_finish ?_ ?_
    | with_reducible refine fr_checked (Fr.sub (V := 42044520) rfl hw) ?_ ?_
    | with_reducible refine fr_sealShadow (Fr.sub (V := 42044520) rfl hw) ?_
    | with_reducible refine fr_answer (Fr.sub (V := 42044520) rfl hw) ?_
    | split

theorem fr_execSwapSetNow {W : Nat} {s0 : State} {ring : Nat} {t : Nat} {sx : State} (hw : 42568809 ||| W = W) (hsx : Fr W s0 sx) :
    FrO W s0 (execSwapSetNow ring t sx) := by
  unfold execSwapSetNow
  repeat' first
    | intro _
    | with_reducible assumption
    | (extract_lets +onlyGivenNames z; guard_hyp z : State := _; refine Fr.cut (x := z) ?_ (fun _ => ?_); rotate_left; clear_value z; revert z; intro _ _; rotate_left; unfold z; clear z)
    | (extract_lets +onlyGivenNames z; guard_hyp z : State := _; refine FrO.cut (x := z) ?_ (fun _ => ?_); rotate_left; clear_value z; revert z; intro _ _; rotate_left; unfold z; clear z)
    | with_reducible refine fr_at_ (Fr.sub (V := 42568809) rfl hw) ?_
    | with_reducible refine fr_finish ?_ ?_
    | with_reducible refine fr_checked (Fr.sub (V := 42568809) rfl hw) ?_ ?_
    | with_reducible refine fr_setsChanged (Fr.sub (V := 42568809) rfl hw) ?_
    | with_reducible refine fr_swapRoles (Fr.sub (V := 42568809) rfl hw) ?_
    | with_reducible refine fr_answer (Fr.sub (V := 42568809) rfl hw) ?_
    | split

theorem fr_execAbort {W : Nat} {s0 : State} {ring : Nat} {t : Nat} {sx : State} (hw : 42073819 ||| W = W) (hsx : Fr W s0 sx) :
    FrO W s0 (execAbort ring t sx) := by
  unfold execAbort
  repeat' first
    | intro _
    | with_reducible assumption
    | (extract_lets +onlyGivenNames z; guard_hyp z : State := _; refine Fr.cut (x := z) ?_ (fun _ => ?_); rotate_left; clear_value z; revert z; intro _ _; rotate_left; unfold z; clear z)
    | (extract_lets +onlyGivenNames z; guard_hyp z : State := _; refine FrO.cut (x := z) ?_ (fun _ => ?_); rotate_left; clear_value z; revert z; intro _ _; rotate_left; unfold z; clear z)
    | with_reducible refine fr_at_ (Fr.sub (V := 42073819) rfl hw) ?_
    | with_reducible refine fr_finish ?_ ?_
    | with_reducible refine fr_checked (Fr.sub (V := 42073819) rfl hw) ?_ ?_
    | with_reducible refine fr_answer (Fr.sub (V := 42073819) rfl hw) ?_
    | with_reducible refine fr_setWait (Fr.sub (V := 42073819) rfl hw) ?_
    | with_reducible refine fr_truncate (Fr.sub (V := 42073819) rfl hw) ?_
    | split

theorem fr_execArmStripe {W : Nat} {s0 : State} {ring : Nat} {t : Nat} {sx : State} (hw : 42073961 ||| W = W) (hsx : Fr W s0 sx) :
    FrO W s0 (execArmStripe ring t sx) := by
  unfold execArmStripe
  repeat' first
    | intro _
    | with_reducible assumption
    | (extract_lets +onlyGivenNames z; guard_hyp z : State := _; refine FrO.cut (x := z) ?_ (fun _ => ?_); rotate_left; clear_value z; revert z; intro _ _; rotate_left; unfold z; clear z)
    | with_reducible refine fr_at_ (Fr.sub (V := 42073961) rfl hw) ?_
    | with_reducible refine fr_finish ?_ ?_
    | with_reducible refine fr_checked (Fr.sub (V := 42073961) rfl hw) ?_ ?_
    | with_reducible refine fr_refuse (Fr.sub (V := 42073961) rfl hw) ?_
    | with_reducible refine fr_arm (Fr.sub (V := 42073961) rfl hw) ?_
    | split

theorem fr_execReadCounters {W : Nat} {s0 : State} {ring : Nat} {t : Nat} {resp : Sys2Proof.WriteResp} {sx : State} (hw : 62914313 ||| W = W) (hsx : Fr W s0 sx) :
    FrO W s0 (execReadCounters ring t resp sx) := by
  unfold execReadCounters
  repeat' first
    | intro _
    | with_reducible assumption
    | (extract_lets +onlyGivenNames z; guard_hyp z : State := _; refine FrO.cut (x := z) ?_ (fun _ => ?_); rotate_left; clear_value z; revert z; intro _ _; rotate_left; unfold z; clear z)
    | with_reducible refine fr_at_ (Fr.sub (V := 62914313) rfl hw) ?_
    | with_reducible refine fr_finish ?_ ?_
    | with_reducible refine fr_checked (Fr.sub (V := 62914313) rfl hw) ?_ ?_
    | with_reducible refine fr_awake (Fr.sub (V := 62914313) rfl hw) ?_ ?_
    | with_reducible refine fr_readCounters (Fr.sub (V := 62914313) rfl hw) ?_
    | split

theorem fr_execRetirePage {W : Nat} {s0 : State} {ring : Nat} {writeErr : Bool} {s : State} (hw : 62914312 ||| W = W) (hs : Fr W s0 s) :
    FrO W s0 (execRetirePage ring writeErr s) := by
  unfold execRetirePage
  repeat' first
    | intro _
    | with_reducible assumption
    | with_reducible refine fr_finish ?_ ?_
    | with_reducible refine fr_checked (Fr.sub (V := 62914312) rfl hw) ?_ ?_
    | with_reducible refine fr_awake hw ?_ ?_
    | with_reducible refine fr_retirePage (Fr.sub (V := 62914312) rfl hw) ?_
    | split

theorem fr_execSyncFigure {W : Nat} {s0 : State} {ring : Nat} {s : State} (hw : 62914312 ||| W = W) (hs : Fr W s0 s) :
    FrO W s0 (execSyncFigure ring s) := by
  unfold execSyncFigure
  repeat' first
    | intro _
    | with_reducible assumption
    | (extract_lets +onlyGivenNames z; clear_value z; revert z; intro _)
    | with_reducible refine fr_finish ?_ ?_
    | with_reducible refine fr_checked (Fr.sub (V := 62914312) rfl hw) ?_ ?_
    | with_reducible refine fr_awake hw ?_ ?_
    | with_reducible refine fr_refuse (Fr.sub (V := 62914312) rfl hw) ?_
    | with_reducible refine fr_answer (Fr.sub (V := 62914312) rfl hw) ?_
    | with_reducible refine fr_restartFigure (Fr.sub (V := 62914312) rfl hw) ?_
    | with_reducible apply Fr.ite
    | split

/-! Net. -/

theorem fr_anchorPtp {W : Nat} {s0 : State} {s : State} {t : Nat} (hw : 524288 ||| W = W) (hs : Fr W s0 s) :
    Fr W s0 (State.anchorPtp s t) := by
  unfold State.anchorPtp
  repeat' first
    | (extract_lets +onlyGivenNames z; clear_value z; revert z; intro _)
    | ((with_reducible apply Fr.of); rotate_left 23; (with_reducible exact Or.inr rfl); rotate_left 3; with_reducible assumption; (iterate 25 (first | with_reducible exact Or.inr rfl | with_reducible exact Or.inr ⟨rfl, rfl⟩ | exact Or.inl (Fr.bit hw rfl))))

theorem fr_popCapture {W : Nat} {s0 : State} {s : State} {n : Nat} (hw : 524288 ||| W = W) (hs : Fr W s0 s) :
    Fr W s0 (State.popCapture s n) := by
  unfold State.popCapture
  repeat' first
    | (extract_lets +onlyGivenNames z; clear_value z; revert z; intro _)
    | ((with_reducible apply Fr.of); rotate_left 23; (with_reducible exact Or.inr rfl); rotate_left 3; with_reducible assumption; (iterate 25 (first | with_reducible exact Or.inr rfl | with_reducible exact Or.inr ⟨rfl, rfl⟩ | exact Or.inl (Fr.bit hw rfl))))

theorem fr_endPulse {W : Nat} {s0 : State} {s : State} {time : Int} (hw : 524288 ||| W = W) (hs : Fr W s0 s) :
    Fr W s0 (State.endPulse s time) := by
  unfold State.endPulse
  repeat' first
    | intro _
    | with_reducible assumption
    | (extract_lets +onlyGivenNames z; clear_value z; revert z; intro _)
    | with_reducible apply Fr.ite
    | ((with_reducible apply Fr.of); rotate_left 23; (with_reducible exact Or.inr rfl); rotate_left 3; with_reducible assumption; (iterate 25 (first | with_reducible exact Or.inr rfl | with_reducible exact Or.inr ⟨rfl, rfl⟩ | exact Or.inl (Fr.bit hw rfl))))

theorem fr_ptpCtrlWritten {W : Nat} {s0 : State} {s : State} (hw : 524288 ||| W = W) (hs : Fr W s0 s) :
    Fr W s0 (State.ptpCtrlWritten s) := by
  unfold State.ptpCtrlWritten
  repeat' first
    | intro _
    | with_reducible assumption
    | (extract_lets +onlyGivenNames z; clear_value z; revert z; intro _)
    | with_reducible apply Fr.ite
    | ((with_reducible apply Fr.of); rotate_left 23; (with_reducible exact Or.inr rfl); rotate_left 3; with_reducible assumption; (iterate 25 (first | with_reducible exact Or.inr rfl | with_reducible exact Or.inr ⟨rfl, rfl⟩ | exact Or.inl (Fr.bit hw rfl))))

theorem fr_unlockPtp {W : Nat} {s0 : State} {s : State} {t : Nat} (hw : 524288 ||| W = W) (hs : Fr W s0 s) :
    Fr W s0 (State.unlockPtp s t) := by
  unfold State.unlockPtp
  repeat' first
    | with_reducible assumption
    | (extract_lets +onlyGivenNames z; guard_hyp z : State := _; refine Fr.cut (x := z) ?_ (fun _ => ?_); rotate_left; clear_value z; revert z; intro _ _; rotate_left; unfold z; clear z)
    | (extract_lets +onlyGivenNames z; clear_value z; revert z; intro _)
    | with_reducible refine fr_anchorPtp hw ?_
    | ((with_reducible apply Fr.of); rotate_left 23; (with_reducible exact Or.inr rfl); rotate_left 3; with_reducible assumption; (iterate 25 (first | with_reducible exact Or.inr rfl | with_reducible exact Or.inr ⟨rfl, rfl⟩ | exact Or.inl (Fr.bit hw rfl))))

theorem fr_writePeriod {W : Nat} {s0 : State} {s : State} {hi : Bool} {v : Nat} {t : Nat} (hw : 524288 ||| W = W) (hs : Fr W s0 s) :
    Fr W s0 (State.writePeriod s hi v t) := by
  unfold State.writePeriod
  repeat' first
    | with_reducible assumption
    | (extract_lets +onlyGivenNames z; guard_hyp z : State := _; refine Fr.cut (x := z) ?_ (fun _ => ?_); rotate_left; clear_value z; revert z; intro _ _; rotate_left; unfold z; clear z)
    | (extract_lets +onlyGivenNames z; clear_value z; revert z; intro _)
    | with_reducible refine fr_setReg ?_
    | with_reducible refine fr_anchorPtp hw ?_
    | ((with_reducible apply Fr.of); rotate_left 23; (with_reducible exact Or.inr rfl); rotate_left 3; with_reducible assumption; (iterate 25 (first | with_reducible exact Or.inr rfl | with_reducible exact Or.inr ⟨rfl, rfl⟩ | exact Or.inl (Fr.bit hw rfl))))

theorem fr_slewCfgWritten {W : Nat} {s0 : State} {s : State} {old : Nat} (hw : 524288 ||| W = W) (hs : Fr W s0 s) :
    Fr W s0 (State.slewCfgWritten s old) := by
  unfold State.slewCfgWritten
  repeat' first
    | with_reducible assumption
    | (extract_lets +onlyGivenNames z; clear_value z; revert z; intro _)
    | with_reducible refine fr_setReg ?_
    | with_reducible refine fr_anchorPtp hw ?_

theorem fr_stepPulses {W : Nat} {s0 : State} {s : State} {old : Int} {new : Int} (hw : 524288 ||| W = W) (hs : Fr W s0 s) :
    Fr W s0 (State.stepPulses s old new) := by
  unfold State.stepPulses
  repeat' first
    | intro _
    | with_reducible assumption
    | (extract_lets +onlyGivenNames z; guard_hyp z : State := _; refine Fr.cut (x := z) ?_ (fun _ => ?_); rotate_left; clear_value z; revert z; intro _ _; rotate_left; unfold z; clear z)
    | (extract_lets +onlyGivenNames z; clear_value z; revert z; intro _)
    | with_reducible refine fr_raise ?_
    | with_reducible refine fr_bumpBy ?_
    | with_reducible refine fr_endPulse hw ?_
    | with_reducible apply Fr.ite

theorem fr_dropNote {W : Nat} {s0 : State} {s : State} {order : Nat} (hw : 262144 ||| W = W) (hs : Fr W s0 s) :
    Fr W s0 (State.dropNote s order) := by
  unfold State.dropNote
  repeat' first
    | intro _
    | with_reducible assumption
    | (extract_lets +onlyGivenNames z; clear_value z; revert z; intro _)
    | with_reducible refine fr_raise ?_
    | with_reducible apply Fr.ite
    | ((with_reducible apply Fr.of); rotate_left 23; (with_reducible exact Or.inr rfl); rotate_left 3; with_reducible assumption; (iterate 25 (first | with_reducible exact Or.inr rfl | with_reducible exact Or.inr ⟨rfl, rfl⟩ | exact Or.inl (Fr.bit hw rfl))))

theorem fr_applyDelta {W : Nat} {s0 : State} {s : State} {t : Nat} (hw : 524288 ||| W = W) (hs : Fr W s0 s) :
    Fr W s0 (State.applyDelta s t) := by
  unfold State.applyDelta
  repeat' first
    | intro _
    | with_reducible assumption
    | (extract_lets +onlyGivenNames z; guard_hyp z : State := _; refine Fr.cut (x := z) ?_ (fun _ => ?_); rotate_left; clear_value z; revert z; intro _ _; rotate_left; unfold z; clear z)
    | (extract_lets +onlyGivenNames z; clear_value z; revert z; intro _)
    | with_reducible refine fr_anchorPtp hw ?_
    | with_reducible refine fr_raise ?_
    | with_reducible refine fr_bump ?_
    | with_reducible refine fr_stepPulses hw ?_
    | with_reducible apply Fr.ite
    | ((with_reducible apply Fr.of); rotate_left 23; (with_reducible exact Or.inr rfl); rotate_left 3; with_reducible assumption; (iterate 25 (first | with_reducible exact Or.inr rfl | with_reducible exact Or.inr ⟨rfl, rfl⟩ | exact Or.inl (Fr.bit hw rfl))))

theorem fr_execNetRateWindow {W : Nat} {s0 : State} {t : Nat} {sx : State} (hw : 262145 ||| W = W) (hsx : Fr W s0 sx) :
    FrO W s0 (execNetRateWindow t sx) := by
  unfold execNetRateWindow
  repeat' first
    | with_reducible assumption
    | (extract_lets +onlyGivenNames z; guard_hyp z : State := _; refine FrO.cut (x := z) ?_ (fun _ => ?_); rotate_left; clear_value z; revert z; intro _ _; rotate_left; unfold z; clear z)
    | (extract_lets +onlyGivenNames z; clear_value z; revert z; intro _)
    | with_reducible refine fr_at_ (Fr.sub (V := 262145) rfl hw) ?_
    | with_reducible refine fr_finish ?_ ?_
    | ((with_reducible apply Fr.of); rotate_left 23; (with_reducible exact Or.inr rfl); rotate_left 3; with_reducible assumption; (iterate 25 (first | with_reducible exact Or.inr rfl | with_reducible exact Or.inr ⟨rfl, rfl⟩ | exact Or.inl (Fr.bit hw rfl))))

theorem fr_execCapPop {W : Nat} {s0 : State} {n : Nat} {s : State} (hw : 524288 ||| W = W) (hs : Fr W s0 s) :
    FrO W s0 (execCapPop n s) := by
  unfold execCapPop
  repeat' first
    | intro _
    | with_reducible assumption
    | with_reducible refine fr_finish ?_ ?_
    | with_reducible refine fr_command ?_ ?_
    | with_reducible refine fr_popCapture hw ?_
    | with_reducible apply Fr.ite

theorem fr_execUnlock {W : Nat} {s0 : State} {t : Nat} {sx : State} (hw : 524289 ||| W = W) (hsx : Fr W s0 sx) :
    FrO W s0 (execUnlock t sx) := by
  unfold execUnlock
  repeat' first
    | intro _
    | with_reducible assumption
    | (extract_lets +onlyGivenNames z; guard_hyp z : State := _; refine FrO.cut (x := z) ?_ (fun _ => ?_); rotate_left; clear_value z; revert z; intro _ _; rotate_left; unfold z; clear z)
    | with_reducible refine fr_at_ (Fr.sub (V := 524289) rfl hw) ?_
    | with_reducible refine fr_finish ?_ ?_
    | with_reducible refine fr_command ?_ ?_
    | with_reducible refine fr_unlockPtp (Fr.sub (V := 524289) rfl hw) ?_

theorem fr_execPtpPeriodWrite {W : Nat} {s0 : State} {hi : Bool} {v : Sys2Proof.Word} {t : Nat} {sx : State} (hw : 524289 ||| W = W) (hsx : Fr W s0 sx) :
    FrO W s0 (execPtpPeriodWrite hi v t sx) := by
  unfold execPtpPeriodWrite
  repeat' first
    | intro _
    | with_reducible assumption
    | (extract_lets +onlyGivenNames z; guard_hyp z : State := _; refine FrO.cut (x := z) ?_ (fun _ => ?_); rotate_left; clear_value z; revert z; intro _ _; rotate_left; unfold z; clear z)
    | with_reducible refine fr_at_ (Fr.sub (V := 524289) rfl hw) ?_
    | with_reducible refine fr_finish ?_ ?_
    | with_reducible refine fr_command ?_ ?_
    | with_reducible refine fr_writePeriod (Fr.sub (V := 524289) rfl hw) ?_

theorem fr_execSlewEnd {W : Nat} {s0 : State} {t : Nat} {sx : State} (hw : 524289 ||| W = W) (hsx : Fr W s0 sx) :
    FrO W s0 (execSlewEnd t sx) := by
  unfold execSlewEnd
  repeat' first
    | intro _
    | with_reducible assumption
    | (extract_lets +onlyGivenNames z; guard_hyp z : State := _; refine FrO.cut (x := z) ?_ (fun _ => ?_); rotate_left; clear_value z; revert z; intro _ _; rotate_left; unfold z; clear z)
    | with_reducible refine fr_at_ (Fr.sub (V := 524289) rfl hw) ?_
    | with_reducible refine fr_finish ?_ ?_
    | with_reducible refine fr_anchorPtp (Fr.sub (V := 524289) rfl hw) ?_
    | with_reducible apply Fr.ite

theorem fr_execPpsPulse {W : Nat} {s0 : State} {t : Nat} {sx : State} (hw : 524289 ||| W = W) (hsx : Fr W s0 sx) :
    FrO W s0 (execPpsPulse t sx) := by
  unfold execPpsPulse
  repeat' first
    | intro _
    | with_reducible assumption
    | (extract_lets +onlyGivenNames z; guard_hyp z : State := _; refine FrO.cut (x := z) ?_ (fun _ => ?_); rotate_left; clear_value z; revert z; intro _ _; rotate_left; unfold z; clear z)
    | (extract_lets +onlyGivenNames z; clear_value z; revert z; intro _)
    | with_reducible refine fr_at_ (Fr.sub (V := 524289) rfl hw) ?_
    | with_reducible refine fr_finish ?_ ?_
    | with_reducible refine fr_endPulse (Fr.sub (V := 524289) rfl hw) ?_
    | with_reducible apply Fr.ite
    | ((with_reducible apply Fr.of); rotate_left 23; (with_reducible exact Or.inr rfl); rotate_left 3; with_reducible assumption; (iterate 25 (first | with_reducible exact Or.inr rfl | with_reducible exact Or.inr ⟨rfl, rfl⟩ | exact Or.inl (Fr.bit hw rfl))))

theorem fr_execSpeedSeek {W : Nat} {s0 : State} {s : State} (hw : 262144 ||| W = W) (hs : Fr W s0 s) :
    FrO W s0 (execSpeedSeek s) := by
  unfold execSpeedSeek
  repeat' first
    | intro _
    | with_reducible assumption
    | (extract_lets +onlyGivenNames z; clear_value z; revert z; intro _)
    | with_reducible refine fr_finish ?_ ?_
    | with_reducible apply Fr.ite
    | ((with_reducible apply Fr.of); rotate_left 23; (with_reducible exact Or.inr rfl); rotate_left 3; with_reducible assumption; (iterate 25 (first | with_reducible exact Or.inr rfl | with_reducible exact Or.inr ⟨rfl, rfl⟩ | exact Or.inl (Fr.bit hw rfl))))

theorem fr_execCaptureEvent {W : Nat} {s0 : State} {n : Nat} {t : Nat} {sx : State} (hw : 524289 ||| W = W) (hsx : Fr W s0 sx) :
    FrO W s0 (execCaptureEvent n t sx) := by
  unfold execCaptureEvent
  repeat' first
    | intro _
    | with_reducible assumption
    | (extract_lets +onlyGivenNames z; guard_hyp z : State := _; refine FrO.cut (x := z) ?_ (fun _ => ?_); rotate_left; clear_value z; revert z; intro _ _; rotate_left; unfold z; clear z)
    | (extract_lets +onlyGivenNames z; clear_value z; revert z; intro _)
    | with_reducible refine fr_at_ (Fr.sub (V := 524289) rfl hw) ?_
    | with_reducible refine fr_finish ?_ ?_
    | with_reducible refine fr_raise ?_
    | with_reducible refine fr_bump ?_
    | with_reducible refine fr_capture (Fr.sub (V := 524289) rfl hw) ?_
    | with_reducible apply Fr.ite
    | ((with_reducible apply Fr.of); rotate_left 23; (with_reducible exact Or.inr rfl); rotate_left 3; with_reducible assumption; (iterate 25 (first | with_reducible exact Or.inr rfl | with_reducible exact Or.inr ⟨rfl, rfl⟩ | exact Or.inl (Fr.bit hw rfl))))

theorem fr_execApply {W : Nat} {s0 : State} {t : Nat} {sx : State} (hw : 524289 ||| W = W) (hsx : Fr W s0 sx) :
    FrO W s0 (execApply t sx) := by
  unfold execApply
  repeat' first
    | intro _
    | with_reducible assumption
    | (extract_lets +onlyGivenNames z; guard_hyp z : State := _; refine FrO.cut (x := z) ?_ (fun _ => ?_); rotate_left; clear_value z; revert z; intro _ _; rotate_left; unfold z; clear z)
    | with_reducible refine fr_at_ (Fr.sub (V := 524289) rfl hw) ?_
    | with_reducible refine fr_finish ?_ ?_
    | with_reducible refine fr_command ?_ ?_
    | with_reducible refine fr_applyDelta (Fr.sub (V := 524289) rfl hw) ?_

theorem fr_mirror {W : Nat} {s0 : State} {s : State} (hw : 360450 ||| W = W) (hs : Fr W s0 s) :
    Fr W s0 (State.mirror s) := by
  unfold State.mirror
  repeat' first
    | intro _
    | with_reducible assumption
    | (extract_lets +onlyGivenNames z; guard_hyp z : State := _; refine Fr.cut (x := z) ?_ (fun _ => ?_); rotate_left; clear_value z; revert z; intro _ _; rotate_left; unfold z; clear z)
    | (extract_lets +onlyGivenNames z; clear_value z; revert z; intro _)
    | with_reducible refine fr_touch (Fr.sub (V := 360450) rfl hw) ?_
    | with_reducible refine fr_bumpBy ?_
    | with_reducible refine fr_setReg ?_
    | with_reducible refine fr_bump ?_
    | with_reducible refine fr_next (Fr.sub (V := 360450) rfl hw) ?_
    | with_reducible apply Fr.ite
    | with_reducible apply Fr.foldl
    | ((with_reducible apply Fr.of); rotate_left 23; (with_reducible exact Or.inr rfl); rotate_left 3; with_reducible assumption; (iterate 25 (first | with_reducible exact Or.inr rfl | with_reducible exact Or.inr ⟨rfl, rfl⟩ | exact Or.inl (Fr.bit hw rfl))))

theorem fr_execMirrorSend {W : Nat} {s0 : State} {t : Nat} {sx : State} (hw : 360451 ||| W = W) (hsx : Fr W s0 sx) :
    FrO W s0 (execMirrorSend t sx) := by
  unfold execMirrorSend
  repeat' first
    | intro _
    | with_reducible assumption
    | (extract_lets +onlyGivenNames z; guard_hyp z : State := _; refine FrO.cut (x := z) ?_ (fun _ => ?_); rotate_left; clear_value z; revert z; intro _ _; rotate_left; unfold z; clear z)
    | with_reducible refine fr_at_ (Fr.sub (V := 360451) rfl hw) ?_
    | with_reducible refine fr_finish ?_ ?_
    | with_reducible refine fr_mirror (Fr.sub (V := 360451) rfl hw) ?_
    | with_reducible apply Fr.ite

theorem fr_transmit {W : Nat} {s0 : State} {s : State} {e : CurEntry} {frame : List Sys2Proof.Byte} {t : Nat} (hw : 42205192 ||| W = W) (hs : Fr W s0 s) :
    Fr W s0 (State.transmit s e frame t) := by
  unfold State.transmit
  repeat' first
    | with_reducible assumption
    | (extract_lets +onlyGivenNames z; guard_hyp z : State := _; refine Fr.cut (x := z) ?_ (fun _ => ?_); rotate_left; clear_value z; revert z; intro _ _; rotate_left; unfold z; clear z)
    | (extract_lets +onlyGivenNames z; clear_value z; revert z; intro _)
    | with_reducible refine fr_hostWrite (Fr.sub (V := 42205192) rfl hw) ?_
    | with_reducible refine fr_answer (Fr.sub (V := 42205192) rfl hw) ?_
    | with_reducible refine fr_bump ?_
    | ((with_reducible apply Fr.of); rotate_left 23; (with_reducible exact Or.inr rfl); rotate_left 3; with_reducible assumption; (iterate 25 (first | with_reducible exact Or.inr rfl | with_reducible exact Or.inr ⟨rfl, rfl⟩ | exact Or.inl (Fr.bit hw rfl))))

theorem fr_receive {W : Nat} {s0 : State} {s : State} {bs : List Sys2Proof.Byte} {t : Nat} (hw : 42205192 ||| W = W) (hs : Fr W s0 s) :
    Fr W s0 (State.receive s bs t) := by
  unfold State.receive
  repeat' first
    | intro _
    | with_reducible assumption
    | (extract_lets +onlyGivenNames z; guard_hyp z : State := _; refine Fr.cut (x := z) ?_ (fun _ => ?_); rotate_left; clear_value z; revert z; intro _ _; rotate_left; unfold z; clear z)
    | (extract_lets +onlyGivenNames z; clear_value z; revert z; intro _)
    | with_reducible refine fr_dropNote (Fr.sub (V := 42205192) rfl hw) ?_
    | with_reducible refine fr_bump ?_
    | with_reducible refine fr_rxServe hw ?_
    | with_reducible apply Fr.ite
    | ((with_reducible apply Fr.of); rotate_left 23; (with_reducible exact Or.inr rfl); rotate_left 3; with_reducible assumption; (iterate 25 (first | with_reducible exact Or.inr rfl | with_reducible exact Or.inr ⟨rfl, rfl⟩ | exact Or.inl (Fr.bit hw rfl))))
    | split

theorem fr_setLink {W : Nat} {s0 : State} {s : State} {up : Bool} (hw : 42205192 ||| W = W) (hs : Fr W s0 s) :
    Fr W s0 (State.setLink s up) := by
  unfold State.setLink
  repeat' first
    | intro _
    | with_reducible assumption
    | (extract_lets +onlyGivenNames z; guard_hyp z : State := _; refine Fr.cut (x := z) ?_ (fun _ => ?_); rotate_left; clear_value z; revert z; intro _ _; rotate_left; unfold z; clear z)
    | (extract_lets +onlyGivenNames z; clear_value z; revert z; intro _)
    | with_reducible refine fr_raise ?_
    | with_reducible refine fr_bump ?_
    | with_reducible refine fr_transmit hw ?_
    | with_reducible apply Fr.ite
    | ((with_reducible apply Fr.of); rotate_left 23; (with_reducible exact Or.inr rfl); rotate_left 3; with_reducible assumption; (iterate 25 (first | with_reducible exact Or.inr rfl | with_reducible exact Or.inr ⟨rfl, rfl⟩ | exact Or.inl (Fr.bit hw rfl))))
    | split

theorem fr_takeFrame {W : Nat} {s0 : State} {s : State} {e : CurEntry} {frame : List Sys2Proof.Byte} {t : Nat} (hw : 42205192 ||| W = W) (hs : Fr W s0 s) :
    Fr W s0 (State.takeFrame s e frame t) := by
  unfold State.takeFrame
  repeat' first
    | intro _
    | with_reducible assumption
    | (extract_lets +onlyGivenNames z; clear_value z; revert z; intro _)
    | with_reducible refine fr_refuse (Fr.sub (V := 42205192) rfl hw) ?_
    | with_reducible refine fr_transmit hw ?_
    | with_reducible apply Fr.ite
    | ((with_reducible apply Fr.of); rotate_left 23; (with_reducible exact Or.inr rfl); rotate_left 3; with_reducible assumption; (iterate 25 (first | with_reducible exact Or.inr rfl | with_reducible exact Or.inr ⟨rfl, rfl⟩ | exact Or.inl (Fr.bit hw rfl))))

theorem fr_execNetRxFrame {W : Nat} {s0 : State} {bytes : List Sys2Proof.Byte} {t : Nat} {sx : State} (hw : 42205193 ||| W = W) (hsx : Fr W s0 sx) :
    FrO W s0 (execNetRxFrame bytes t sx) := by
  unfold execNetRxFrame
  repeat' first
    | intro _
    | with_reducible assumption
    | (extract_lets +onlyGivenNames z; guard_hyp z : State := _; refine FrO.cut (x := z) ?_ (fun _ => ?_); rotate_left; clear_value z; revert z; intro _ _; rotate_left; unfold z; clear z)
    | with_reducible refine fr_at_ (Fr.sub (V := 42205193) rfl hw) ?_
    | with_reducible refine fr_finish ?_ ?_
    | with_reducible refine fr_receive (Fr.sub (V := 42205193) rfl hw) ?_
    | with_reducible apply Fr.ite

theorem fr_netCtrlWritten {W : Nat} {s0 : State} {s : State} {old : Nat} (hw : 42205192 ||| W = W) (hs : Fr W s0 s) :
    Fr W s0 (State.netCtrlWritten s old) := by
  unfold State.netCtrlWritten
  repeat' first
    | intro _
    | with_reducible assumption
    | (extract_lets +onlyGivenNames z; guard_hyp z : State := _; refine Fr.cut (x := z) ?_ (fun _ => ?_); rotate_left; clear_value z; revert z; intro _ _; rotate_left; unfold z; clear z)
    | (extract_lets +onlyGivenNames z; clear_value z; revert z; intro _)
    | with_reducible refine fr_setLink hw ?_
    | with_reducible apply Fr.ite
    | ((with_reducible apply Fr.of); rotate_left 23; (with_reducible exact Or.inr rfl); rotate_left 3; with_reducible assumption; (iterate 25 (first | with_reducible exact Or.inr rfl | with_reducible exact Or.inr ⟨rfl, rfl⟩ | exact Or.inl (Fr.bit hw rfl))))

theorem fr_execNetLink {W : Nat} {s0 : State} {up : Bool} {s : State} (hw : 42205192 ||| W = W) (hs : Fr W s0 s) :
    FrO W s0 (execNetLink up s) := by
  unfold execNetLink
  repeat' first
    | intro _
    | with_reducible assumption
    | with_reducible refine fr_finish ?_ ?_
    | with_reducible refine fr_setLink hw ?_
    | with_reducible apply Fr.ite

theorem fr_execNetTxEntry {W : Nat} {s0 : State} {frame : Sys2Proof.HostRead} {t : Nat} {sx : State} (hw : 42205193 ||| W = W) (hsx : Fr W s0 sx) :
    FrO W s0 (execNetTxEntry frame t sx) := by
  unfold execNetTxEntry
  repeat' first
    | intro _
    | with_reducible assumption
    | (extract_lets +onlyGivenNames z; guard_hyp z : State := _; refine FrO.cut (x := z) ?_ (fun _ => ?_); rotate_left; clear_value z; revert z; intro _ _; rotate_left; unfold z; clear z)
    | with_reducible refine fr_at_ (Fr.sub (V := 42205193) rfl hw) ?_
    | with_reducible refine fr_finish ?_ ?_
    | with_reducible refine fr_transmit (Fr.sub (V := 42205193) rfl hw) ?_
    | with_reducible refine fr_refuse (Fr.sub (V := 42205193) rfl hw) ?_
    | with_reducible refine fr_takeFrame (Fr.sub (V := 42205193) rfl hw) ?_
    | with_reducible apply Fr.ite
    | split

end Sys2Proof.Laws
end

