-- ==== Sys2Proof/Laws/FrameControl.lean ====
section
/-! SUPPORT. What register writes, the SRAM scrubber and the supplies leave as it was: one lemma for each operation and each command (see Frame). -/

namespace Sys2Proof.Laws

open Sys2Proof.Machine

/-! RegWrite. -/

/-- Every action of a list leaves the parts that `W` does not name. -/
def Leaves (W : Nat) (s0 : State) (l : List (State → Host.Outcome State Fault Refusal)) : Prop :=
  ∀ f ∈ l, ∀ s, Fr W s0 s → FrO W s0 (f s)

theorem Leaves.nil {W : Nat} {s0 : State} : Leaves W s0 [] := fun _ h => absurd h (List.not_mem_nil)

theorem Leaves.cons {W : Nat} {s0 : State} {f l} (hf : ∀ s, Fr W s0 s → FrO W s0 (f s)) (hl : Leaves W s0 l) :
    Leaves W s0 (f :: l) := by
  intro g hg
  rcases List.mem_cons.1 hg with rfl | hg
  · exact hf
  · exact hl g hg

theorem Leaves.chosen {W : Nat} {s0 : State} {v : Nat} {fs} (h : Leaves W s0 (fs.map (·.2))) : Leaves W s0 (chosen v fs) := by
  intro f hf
  obtain ⟨p, hp, rfl⟩ := List.mem_map.1 hf
  exact h _ (List.mem_map_of_mem (List.mem_filter.1 hp).1)

theorem fr_inTurn {W : Nat} {s0 : State} {l : List (State → Host.Outcome State Fault Refusal)} {s : State}
    (hl : Leaves W s0 l) (hs : Fr W s0 s) : FrO W s0 (inTurn l s) := by
  induction l generalizing s with
  | nil => exact FrO.next hs
  | cons f l ih =>
    have hf : FrO W s0 (f s) := hl f List.mem_cons_self s hs
    unfold inTurn
    split
    · exact ih (fun g hg => hl g (List.mem_cons_of_mem _ hg)) (hf.kept _ ‹_›)
    · exact hf

theorem fr_countedOnce {W : Nat} {s0 s : State} {o : Host.Outcome State Fault Refusal} (ho : FrO W s0 o) :
    FrO W s0 (countedOnce s o) := by
  unfold countedOnce
  split
  · refine FrO.next (Fr.ite (fun _ => fr_setReg ?_) fun _ => ?_) <;> exact ho.kept _ rfl
  · exact ho

theorem fr_setWord {W : Nat} {s0 : State} {s : State} {off : Nat} {v : Nat} (hw : 32 ||| W = W) (hs : Fr W s0 s) :
    Fr W s0 (State.setWord s off v) := by
  unfold State.setWord
  repeat' first
    | with_reducible assumption
    | (extract_lets +onlyGivenNames z; guard_hyp z : State := _; refine Fr.cut (x := z) ?_ (fun _ => ?_); rotate_left; clear_value z; revert z; intro _ _; rotate_left; unfold z; clear z)
    | (extract_lets +onlyGivenNames z; clear_value z; revert z; intro _)
    | with_reducible refine fr_setReg ?_
    | ((with_reducible apply Fr.of); rotate_left 23; (with_reducible exact Or.inr rfl); rotate_left 3; with_reducible assumption; (iterate 25 (first | with_reducible exact Or.inr rfl | with_reducible exact Or.inr ⟨rfl, rfl⟩ | exact Or.inl (Fr.bit hw rfl))))
    | split

theorem fr_readEffect {W : Nat} {s0 : State} {s : State} {off : Nat} (hs : Fr W s0 s) :
    Fr W s0 (State.readEffect s off) := by
  unfold State.readEffect
  repeat' first
    | intro _
    | with_reducible assumption
    | (extract_lets +onlyGivenNames z; clear_value z; revert z; intro _)
    | with_reducible refine fr_setReg ?_
    | with_reducible refine fr_autoNext ?_
    | with_reducible apply Fr.ite

theorem fr_readBar2 {W : Nat} {s0 : State} {s : State} {off : Nat} (hw : 4 ||| W = W) (hs : Fr W s0 s) :
    Fr W s0 (State.readBar2 s off) := by
  unfold State.readBar2
  repeat' first
    | intro _
    | with_reducible assumption
    | (extract_lets +onlyGivenNames z; guard_hyp z : State := _; refine Fr.cut (x := z) ?_ (fun _ => ?_); rotate_left; clear_value z; revert z; intro _ _; rotate_left; unfold z; clear z)
    | with_reducible refine fr_violation ?_
    | with_reducible apply Fr.ite
    | ((with_reducible apply Fr.of); rotate_left 23; (with_reducible exact Or.inr rfl); rotate_left 3; with_reducible assumption; (iterate 25 (first | with_reducible exact Or.inr rfl | with_reducible exact Or.inr ⟨rfl, rfl⟩ | exact Or.inl (Fr.bit hw rfl))))

theorem fr_setAccept {W : Nat} {s0 : State} {s : State} {off : Nat} {v : Nat} (hw : 32 ||| W = W) (hs : Fr W s0 s) :
    Fr W s0 (State.setAccept s off v) := by
  unfold State.setAccept
  repeat' first
    | intro _
    | with_reducible assumption
    | with_reducible refine fr_setWord hw ?_
    | with_reducible refine fr_violation ?_
    | with_reducible refine fr_setReg ?_
    | with_reducible refine fr_bump ?_
    | with_reducible apply Fr.ite

theorem fr_readOff {W : Nat} {s0 : State} {s : State} {off : Nat} (hw : 4 ||| W = W) (hs : Fr W s0 s) :
    Fr W s0 (State.readOff s off) := by
  unfold State.readOff
  repeat' first
    | intro _
    | with_reducible assumption
    | (extract_lets +onlyGivenNames z; guard_hyp z : State := _; refine Fr.cut (x := z) ?_ (fun _ => ?_); rotate_left; clear_value z; revert z; intro _ _; rotate_left; unfold z; clear z)
    | with_reducible refine fr_offAccess ?_
    | with_reducible refine fr_violation ?_
    | with_reducible refine fr_readEffect ?_
    | with_reducible apply Fr.ite
    | ((with_reducible apply Fr.of); rotate_left 23; (with_reducible exact Or.inr rfl); rotate_left 3; with_reducible assumption; (iterate 25 (first | with_reducible exact Or.inr rfl | with_reducible exact Or.inr ⟨rfl, rfl⟩ | exact Or.inl (Fr.bit hw rfl))))

theorem fr_setWrite {W : Nat} {s0 : State} {s : State} {off : Nat} {be : Nat} {v : Nat} (hw : 32 ||| W = W) (hs : Fr W s0 s) :
    Fr W s0 (State.setWrite s off be v) := by
  unfold State.setWrite
  repeat' first
    | intro _
    | with_reducible assumption
    | with_reducible refine fr_guardWrite ?_ ?_
    | with_reducible refine fr_setAccept hw ?_

theorem fr_execPtpNowRead {W : Nat} {s0 : State} {t : Nat} {s : State} (hw : 5 ||| W = W) (hs : Fr W s0 s) :
    FrO W s0 (execPtpNowRead t s) := by
  unfold execPtpNowRead
  repeat' first
    | with_reducible assumption
    | with_reducible refine fr_finish ?_ ?_
    | with_reducible refine fr_readOff (Fr.sub (V := 5) rfl hw) ?_
    | with_reducible refine fr_at_ (Fr.sub (V := 5) rfl hw) ?_

theorem fr_execRcRead {W : Nat} {s0 : State} {addr : Nat} {s : State} (hw : 4 ||| W = W) (hs : Fr W s0 s) :
    FrO W s0 (execRcRead addr s) := by
  unfold execRcRead
  repeat' first
    | intro _
    | with_reducible assumption
    | with_reducible refine fr_finish ?_ ?_
    | with_reducible refine fr_readOff hw ?_
    | with_reducible refine fr_readBar2 hw ?_
    | with_reducible apply Fr.ite

theorem fr_execConfigSetWrite {W : Nat} {s0 : State} {addr : Nat} {be : Nat} {v : Sys2Proof.Word} {s : State} (hw : 32 ||| W = W) (hs : Fr W s0 s) :
    FrO W s0 (execConfigSetWrite addr be v s) := by
  unfold execConfigSetWrite
  repeat' first
    | intro _
    | with_reducible assumption
    | with_reducible refine fr_finish ?_ ?_
    | with_reducible refine fr_setWrite hw ?_
    | with_reducible apply Fr.ite

theorem fr_execResidencyRead {W : Nat} {s0 : State} {i : Nat} {t : Nat} {s : State} (hw : 5 ||| W = W) (hs : Fr W s0 s) :
    FrO W s0 (execResidencyRead i t s) := by
  unfold execResidencyRead
  repeat' first
    | intro _
    | with_reducible assumption
    | with_reducible refine fr_finish ?_ ?_
    | with_reducible refine fr_readOff (Fr.sub (V := 5) rfl hw) ?_
    | with_reducible refine fr_at_ (Fr.sub (V := 5) rfl hw) ?_
    | with_reducible apply Fr.ite

theorem fr_execPtpFrcRead {W : Nat} {s0 : State} {t : Nat} {s : State} (hw : 5 ||| W = W) (hs : Fr W s0 s) :
    FrO W s0 (execPtpFrcRead t s) := by
  unfold execPtpFrcRead
  repeat' first
    | with_reducible assumption
    | with_reducible refine fr_finish ?_ ?_
    | with_reducible refine fr_readOff (Fr.sub (V := 5) rfl hw) ?_
    | with_reducible refine fr_at_ (Fr.sub (V := 5) rfl hw) ?_

theorem fr_written {W : Nat} {s0 : State} {s : State} {off : Nat} {old : Nat} (hw : 42739720 ||| W = W) (hs : Fr W s0 s) :
    Fr W s0 (State.written s off old) := by
  unfold State.written
  repeat' first
    | intro _
    | with_reducible assumption
    | (extract_lets +onlyGivenNames z; clear_value z; revert z; intro _)
    | with_reducible refine fr_setField ?_
    | with_reducible refine fr_stopFree (Fr.sub (V := 42739720) rfl hw) ?_
    | with_reducible refine fr_netCtrlWritten (Fr.sub (V := 42739720) rfl hw) ?_
    | with_reducible refine fr_slewCfgWritten (Fr.sub (V := 42739720) rfl hw) ?_
    | with_reducible refine fr_ptpCtrlWritten (Fr.sub (V := 42739720) rfl hw) ?_
    | with_reducible apply Fr.ite
    | ((with_reducible apply Fr.of); rotate_left 23; (with_reducible exact Or.inr rfl); rotate_left 3; with_reducible assumption; (iterate 25 (first | with_reducible exact Or.inr rfl | with_reducible exact Or.inr ⟨rfl, rfl⟩ | exact Or.inl (Fr.bit hw rfl))))

theorem fr_plainWrite {W : Nat} {s0 : State} {s : State} {off : Nat} {v : Nat} {mask : Nat} (hw : 42739720 ||| W = W) (hs : Fr W s0 s) :
    Fr W s0 (State.plainWrite s off v mask) := by
  unfold State.plainWrite
  repeat' first
    | intro _
    | with_reducible assumption
    | (extract_lets +onlyGivenNames z; guard_hyp z : Hst := _; revert z; intro _)
    | (extract_lets +onlyGivenNames z; clear_value z; revert z; intro _)
    | with_reducible refine fr_setReg ?_
    | with_reducible refine fr_written hw ?_
    | with_reducible apply Fr.ite
    | ((with_reducible apply Fr.of); rotate_left 23; (with_reducible exact Or.inr rfl); rotate_left 3; with_reducible assumption; (iterate 25 (first | with_reducible exact Or.inr rfl | with_reducible exact Or.inr ⟨rfl, rfl⟩ | exact Or.inl (Fr.bit hw rfl))))
    | split

/-! SramScrub. -/

theorem fr_withdrawGroup {W : Nat} {s0 : State} {s : State} (hw : 101378 ||| W = W) (hs : Fr W s0 s) :
    Fr W s0 (State.withdrawGroup s) := by
  unfold State.withdrawGroup
  repeat' first
    | with_reducible assumption
    | (extract_lets +onlyGivenNames z; clear_value z; revert z; intro _)
    | with_reducible refine fr_next (Fr.sub (V := 101378) rfl hw) ?_
    | with_reducible refine fr_invalidateRows (Fr.sub (V := 101378) rfl hw) ?_
    | split

theorem fr_rowsUnread {W : Nat} {s0 : State} {s : State} {r0 : Nat} {r1 : Nat} (hw : 42073818 ||| W = W) (hs : Fr W s0 s) :
    Fr W s0 (State.rowsUnread s r0 r1) := by
  unfold State.rowsUnread
  repeat' first
    | intro _
    | with_reducible assumption
    | with_reducible refine fr_hole hw ?_
    | with_reducible apply Fr.ite
    | split

theorem fr_sramUe {W : Nat} {s0 : State} {s : State} {store : Nat} {word : Nat} (hw : 42074106 ||| W = W) (hs : Fr W s0 s) :
    Fr W s0 (State.sramUe s store word) := by
  unfold State.sramUe
  repeat' first
    | intro _
    | with_reducible assumption
    | (extract_lets +onlyGivenNames z; guard_hyp z : State := _; refine Fr.cut (x := z) ?_ (fun _ => ?_); rotate_left; clear_value z; revert z; intro _ _; rotate_left; unfold z; clear z)
    | (extract_lets +onlyGivenNames z; clear_value z; revert z; intro _)
    | with_reducible refine fr_next (Fr.sub (V := 42074106) rfl hw) ?_
    | with_reducible refine fr_weaverFails (Fr.sub (V := 42074106) rfl hw) ?_
    | with_reducible refine fr_decodeFails (Fr.sub (V := 42074106) rfl hw) ?_
    | with_reducible refine fr_withdrawGroup (Fr.sub (V := 42074106) rfl hw) ?_
    | with_reducible refine fr_fpPoison (Fr.sub (V := 42074106) rfl hw) ?_
    | with_reducible refine fr_rowsUnread (Fr.sub (V := 42074106) rfl hw) ?_
    | with_reducible refine fr_setRing (Fr.sub (V := 42074106) rfl hw) ?_
    | with_reducible apply Fr.ite
    | ((with_reducible apply Fr.of); rotate_left 23; (with_reducible exact Or.inr rfl); rotate_left 3; with_reducible assumption; (iterate 25 (first | with_reducible exact Or.inr rfl | with_reducible exact Or.inr ⟨rfl, rfl⟩ | exact Or.inl (Fr.bit hw rfl))))
    | split

theorem fr_sramError {W : Nat} {s0 : State} {s : State} {store : Nat} {word : Nat} {dx : Nat} {cx : Nat} (hw : 42205178 ||| W = W) (hs : Fr W s0 s) :
    Fr W s0 (State.sramError s store word dx cx) := by
  unfold State.sramError
  repeat' first
    | intro _
    | with_reducible assumption
    | (extract_lets +onlyGivenNames z; guard_hyp z : State := _; refine Fr.cut (x := z) ?_ (fun _ => ?_); rotate_left; clear_value z; revert z; intro _ _; rotate_left; unfold z; clear z)
    | (extract_lets +onlyGivenNames z; clear_value z; revert z; intro _)
    | with_reducible refine fr_eccLog (Fr.sub (V := 42205178) rfl hw) ?_
    | with_reducible refine fr_bump ?_
    | with_reducible refine fr_sramUe (Fr.sub (V := 42205178) rfl hw) ?_
    | with_reducible refine fr_withyChange ?_
    | with_reducible refine fr_raise ?_
    | with_reducible apply Fr.ite
    | ((with_reducible apply Fr.of); rotate_left 23; (with_reducible exact Or.inr rfl); rotate_left 3; with_reducible assumption; (iterate 25 (first | with_reducible exact Or.inr rfl | with_reducible exact Or.inr ⟨rfl, rfl⟩ | exact Or.inl (Fr.bit hw rfl))))
    | split

theorem fr_execSramScrub {W : Nat} {s0 : State} {store : Nat} {word : Nat} {dx : Sys2Proof.Dword} {cx : Sys2Proof.Byte} {s : State} (hw : 42205178 ||| W = W) (hs : Fr W s0 s) :
    FrO W s0 (execSramScrub store word dx cx s) := by
  unfold execSramScrub
  repeat' first
    | intro _
    | with_reducible assumption
    | with_reducible refine fr_finish ?_ ?_
    | with_reducible refine fr_sramError hw ?_
    | with_reducible apply Fr.ite

/-! Supply. -/

theorem fr_pwrFault {W : Nat} {s0 : State} {s : State} {code : Nat} {sub : Nat} {phase : Nat} {value : Nat} (hs : Fr W s0 s) :
    Fr W s0 (State.pwrFault s code sub phase value) := by
  unfold State.pwrFault
  repeat' first
    | with_reducible assumption
    | with_reducible refine fr_raise ?_
    | with_reducible refine fr_setRegs ?_
    | with_reducible refine fr_bump ?_

theorem fr_execBrownoutLasting {W : Nat} {s0 : State} {s : State} (hw : 67108852 ||| W = W) (hs : Fr W s0 s) :
    FrO W s0 (execBrownoutLasting s) := by
  unfold execBrownoutLasting
  repeat' first
    | intro _
    | with_reducible assumption
    | (extract_lets +onlyGivenNames z; guard_hyp z : State := _; refine FrO.cut (x := z) ?_ (fun _ => ?_); rotate_left; clear_value z; revert z; intro _ _; rotate_left; unfold z; clear z)
    | (extract_lets +onlyGivenNames z; clear_value z; revert z; intro _)
    | with_reducible refine fr_finish ?_ ?_
    | with_reducible refine fr_powerOff hw ?_
    | with_reducible apply Fr.ite
    | ((with_reducible apply Fr.of); rotate_left 23; (with_reducible exact Or.inr rfl); rotate_left 3; with_reducible assumption; (iterate 25 (first | with_reducible exact Or.inr rfl | with_reducible exact Or.inr ⟨rfl, rfl⟩ | exact Or.inl (Fr.bit hw rfl))))

theorem fr_execLpOver {W : Nat} {s0 : State} {ma : Nat} {s : State} (hw : 1048576 ||| W = W) (hs : Fr W s0 s) :
    FrO W s0 (execLpOver ma s) := by
  unfold execLpOver
  repeat' first
    | intro _
    | with_reducible assumption
    | (extract_lets +onlyGivenNames z; clear_value z; revert z; intro _)
    | with_reducible refine fr_finish ?_ ?_
    | with_reducible refine fr_pwrFault ?_
    | with_reducible refine fr_bump ?_
    | with_reducible apply Fr.ite
    | ((with_reducible apply Fr.of); rotate_left 23; (with_reducible exact Or.inr rfl); rotate_left 3; with_reducible assumption; (iterate 25 (first | with_reducible exact Or.inr rfl | with_reducible exact Or.inr ⟨rfl, rfl⟩ | exact Or.inl (Fr.bit hw rfl))))

theorem fr_execPhaseFault {W : Nat} {s0 : State} {rail : Nat} {phase : Nat} {ma : Nat} {s : State} (hw : 1048576 ||| W = W) (hs : Fr W s0 s) :
    FrO W s0 (execPhaseFault rail phase ma s) := by
  unfold execPhaseFault
  repeat' first
    | intro _
    | with_reducible assumption
    | (extract_lets +onlyGivenNames z; guard_hyp z : State := _; refine Fr.cut (x := z) ?_ (fun _ => ?_); rotate_left; clear_value z; revert z; intro _ _; rotate_left; unfold z; clear z)
    | (extract_lets +onlyGivenNames z; clear_value z; revert z; intro _)
    | with_reducible refine fr_finish ?_ ?_
    | with_reducible refine fr_pwrFault ?_
    | with_reducible refine fr_withyChange ?_
    | with_reducible apply Fr.ite
    | ((with_reducible apply Fr.of); rotate_left 23; (with_reducible exact Or.inr rfl); rotate_left 3; with_reducible assumption; (iterate 25 (first | with_reducible exact Or.inr rfl | with_reducible exact Or.inr ⟨rfl, rfl⟩ | exact Or.inl (Fr.bit hw rfl))))
    | split

theorem fr_execVinLow {W : Nat} {s0 : State} {mv : Nat} {s : State} (hw : 1048576 ||| W = W) (hs : Fr W s0 s) :
    FrO W s0 (execVinLow mv s) := by
  unfold execVinLow
  repeat' first
    | intro _
    | with_reducible assumption
    | (extract_lets +onlyGivenNames z; clear_value z; revert z; intro _)
    | with_reducible refine fr_finish ?_ ?_
    | with_reducible refine fr_pwrFault ?_
    | with_reducible apply Fr.ite
    | ((with_reducible apply Fr.of); rotate_left 23; (with_reducible exact Or.inr rfl); rotate_left 3; with_reducible assumption; (iterate 25 (first | with_reducible exact Or.inr rfl | with_reducible exact Or.inr ⟨rfl, rfl⟩ | exact Or.inl (Fr.bit hw rfl))))

theorem fr_execReferenceReturn {W : Nat} {s0 : State} {t : Nat} {sx : State} (hw : 2097153 ||| W = W) (hsx : Fr W s0 sx) :
    FrO W s0 (execReferenceReturn t sx) := by
  unfold execReferenceReturn
  repeat' first
    | intro _
    | with_reducible assumption
    | (extract_lets +onlyGivenNames z; guard_hyp z : State := _; refine FrO.cut (x := z) ?_ (fun _ => ?_); rotate_left; clear_value z; revert z; intro _ _; rotate_left; unfold z; clear z)
    | (extract_lets +onlyGivenNames z; clear_value z; revert z; intro _)
    | with_reducible refine fr_at_ (Fr.sub (V := 2097153) rfl hw) ?_
    | with_reducible refine fr_finish ?_ ?_
    | with_reducible apply Fr.ite
    | ((with_reducible apply Fr.of); rotate_left 23; (with_reducible exact Or.inr rfl); rotate_left 3; with_reducible assumption; (iterate 25 (first | with_reducible exact Or.inr rfl | with_reducible exact Or.inr ⟨rfl, rfl⟩ | exact Or.inl (Fr.bit hw rfl))))

theorem fr_execRefclkLoss {W : Nat} {s0 : State} {s : State} (hw : 60817408 ||| W = W) (hs : Fr W s0 s) :
    FrO W s0 (execRefclkLoss s) := by
  unfold execRefclkLoss
  repeat' first
    | intro _
    | with_reducible assumption
    | (extract_lets +onlyGivenNames z; guard_hyp z : State := _; refine FrO.cut (x := z) ?_ (fun _ => ?_); rotate_left; clear_value z; revert z; intro _ _; rotate_left; unfold z; clear z)
    | (extract_lets +onlyGivenNames z; clear_value z; revert z; intro _)
    | with_reducible refine fr_finish ?_ ?_
    | with_reducible refine fr_portReset (Fr.sub (V := 60817408) rfl hw) ?_
    | with_reducible refine fr_bump ?_
    | with_reducible apply Fr.ite
    | ((with_reducible apply Fr.of); rotate_left 23; (with_reducible exact Or.inr rfl); rotate_left 3; with_reducible assumption; (iterate 25 (first | with_reducible exact Or.inr rfl | with_reducible exact Or.inr ⟨rfl, rfl⟩ | exact Or.inl (Fr.bit hw rfl))))

theorem fr_execPllRelock {W : Nat} {s0 : State} {i : Nat} {t : Nat} {sx : State} (hw : 20971265 ||| W = W) (hsx : Fr W s0 sx) :
    FrO W s0 (execPllRelock i t sx) := by
  unfold execPllRelock
  repeat' first
    | intro _
    | with_reducible assumption
    | (extract_lets +onlyGivenNames z; guard_hyp z : State := _; refine FrO.cut (x := z) ?_ (fun _ => ?_); rotate_left; clear_value z; revert z; intro _ _; rotate_left; unfold z; clear z)
    | (extract_lets +onlyGivenNames z; guard_hyp z : Hst := _; revert z; intro _)
    | (extract_lets +onlyGivenNames z; clear_value z; revert z; intro _)
    | with_reducible refine fr_at_ (Fr.sub (V := 20971265) rfl hw) ?_
    | with_reducible refine fr_finish ?_ ?_
    | with_reducible refine fr_setDomain (Fr.sub (V := 20971265) rfl hw) ?_
    | with_reducible apply Fr.ite
    | with_reducible apply Fr.foldl
    | ((with_reducible apply Fr.of); rotate_left 23; (with_reducible exact Or.inr rfl); rotate_left 3; with_reducible assumption; (iterate 25 (first | with_reducible exact Or.inr rfl | with_reducible exact Or.inr ⟨rfl, rfl⟩ | exact Or.inl (Fr.bit hw rfl))))

theorem fr_execRefLost {W : Nat} {s0 : State} {t : Nat} {sx : State} (hw : 2097153 ||| W = W) (hsx : Fr W s0 sx) :
    FrO W s0 (execRefLost t sx) := by
  unfold execRefLost
  repeat' first
    | intro _
    | with_reducible assumption
    | (extract_lets +onlyGivenNames z; guard_hyp z : State := _; refine FrO.cut (x := z) ?_ (fun _ => ?_); rotate_left; clear_value z; revert z; intro _ _; rotate_left; unfold z; clear z)
    | (extract_lets +onlyGivenNames z; clear_value z; revert z; intro _)
    | with_reducible refine fr_at_ (Fr.sub (V := 2097153) rfl hw) ?_
    | with_reducible refine fr_finish ?_ ?_
    | with_reducible refine fr_pwrFault ?_
    | with_reducible refine fr_bump ?_
    | with_reducible apply Fr.ite
    | ((with_reducible apply Fr.of); rotate_left 23; (with_reducible exact Or.inr rfl); rotate_left 3; with_reducible assumption; (iterate 25 (first | with_reducible exact Or.inr rfl | with_reducible exact Or.inr ⟨rfl, rfl⟩ | exact Or.inl (Fr.bit hw rfl))))

theorem fr_abandonTransition {W : Nat} {s0 : State} {s : State} (hw : 2096898 ||| W = W) (hs : Fr W s0 s) :
    Fr W s0 (State.abandonTransition s) := by
  unfold State.abandonTransition
  repeat' first
    | intro _
    | with_reducible assumption
    | (extract_lets +onlyGivenNames z; guard_hyp z : State := _; refine Fr.cut (x := z) ?_ (fun _ => ?_); rotate_left; clear_value z; revert z; intro _ _; rotate_left; unfold z; clear z)
    | (extract_lets +onlyGivenNames z; clear_value z; revert z; intro _)
    | with_reducible refine fr_dropSlot (Fr.sub (V := 2096898) rfl hw) ?_
    | with_reducible refine fr_setDomains (Fr.sub (V := 2096898) rfl hw) ?_
    | with_reducible refine fr_next (Fr.sub (V := 2096898) rfl hw) ?_
    | with_reducible refine fr_pushResult (Fr.sub (V := 2096898) rfl hw) ?_
    | with_reducible apply Fr.ite
    | ((with_reducible apply Fr.of); rotate_left 23; (with_reducible exact Or.inr rfl); rotate_left 3; with_reducible assumption; (iterate 25 (first | with_reducible exact Or.inr rfl | with_reducible exact Or.inr ⟨rfl, rfl⟩ | exact Or.inl (Fr.bit hw rfl))))
    | split

theorem fr_execBrownoutClear {W : Nat} {s0 : State} {s : State} (hw : 1048576 ||| W = W) (hs : Fr W s0 s) :
    FrO W s0 (execBrownoutClear s) := by
  unfold execBrownoutClear
  repeat' first
    | intro _
    | with_reducible assumption
    | (extract_lets +onlyGivenNames z; clear_value z; revert z; intro _)
    | with_reducible refine fr_finish ?_ ?_
    | with_reducible refine fr_commitAll ?_
    | with_reducible apply Fr.ite
    | ((with_reducible apply Fr.of); rotate_left 23; (with_reducible exact Or.inr rfl); rotate_left 3; with_reducible assumption; (iterate 25 (first | with_reducible exact Or.inr rfl | with_reducible exact Or.inr ⟨rfl, rfl⟩ | exact Or.inl (Fr.bit hw rfl))))

theorem fr_execBrownout {W : Nat} {s0 : State} {rail : Nat} {mv : Nat} {t : Nat} {sx : State} (hw : 44040155 ||| W = W) (hsx : Fr W s0 sx) :
    FrO W s0 (execBrownout rail mv t sx) := by
  unfold execBrownout
  repeat' first
    | intro _
    | with_reducible assumption
    | (extract_lets +onlyGivenNames z; guard_hyp z : State := _; refine FrO.cut (x := z) ?_ (fun _ => ?_); rotate_left; clear_value z; revert z; intro _ _; rotate_left; unfold z; clear z)
    | (extract_lets +onlyGivenNames z; clear_value z; revert z; intro _)
    | with_reducible refine fr_at_ (Fr.sub (V := 44040155) rfl hw) ?_
    | with_reducible refine fr_finish ?_ ?_
    | with_reducible refine fr_abandonTransition (Fr.sub (V := 44040155) rfl hw) ?_
    | with_reducible refine fr_truncateNow (Fr.sub (V := 44040155) rfl hw) ?_
    | with_reducible refine fr_pwrFault ?_
    | with_reducible apply Fr.ite
    | ((with_reducible apply Fr.of); rotate_left 23; (with_reducible exact Or.inr rfl); rotate_left 3; with_reducible assumption; (iterate 25 (first | with_reducible exact Or.inr rfl | with_reducible exact Or.inr ⟨rfl, rfl⟩ | exact Or.inl (Fr.bit hw rfl))))

theorem fr_execHoldoverExpiry {W : Nat} {s0 : State} {t : Nat} {sx : State} (hw : 42073819 ||| W = W) (hsx : Fr W s0 sx) :
    FrO W s0 (execHoldoverExpiry t sx) := by
  unfold execHoldoverExpiry
  repeat' first
    | intro _
    | with_reducible assumption
    | (extract_lets +onlyGivenNames z; guard_hyp z : State := _; refine FrO.cut (x := z) ?_ (fun _ => ?_); rotate_left; clear_value z; revert z; intro _ _; rotate_left; unfold z; clear z)
    | with_reducible refine fr_at_ (Fr.sub (V := 42073819) rfl hw) ?_
    | with_reducible refine fr_finish ?_ ?_
    | with_reducible refine fr_truncateNow (Fr.sub (V := 42073819) rfl hw) ?_
    | with_reducible apply Fr.ite
    | split

theorem fr_execPllUnlock {W : Nat} {s0 : State} {i : Nat} {ppm : Nat} {t : Nat} {sx : State} (hw : 44170971 ||| W = W) (hsx : Fr W s0 sx) :
    FrO W s0 (execPllUnlock i ppm t sx) := by
  unfold execPllUnlock
  repeat' first
    | intro _
    | with_reducible assumption
    | (extract_lets +onlyGivenNames z; guard_hyp z : State := _; refine FrO.cut (x := z) ?_ (fun _ => ?_); rotate_left; clear_value z; revert z; intro _ _; rotate_left; unfold z; clear z)
    | (extract_lets +onlyGivenNames z; clear_value z; revert z; intro _)
    | with_reducible refine fr_at_ (Fr.sub (V := 44170971) rfl hw) ?_
    | with_reducible refine fr_finish ?_ ?_
    | with_reducible refine fr_pwrFault ?_
    | with_reducible refine fr_bump ?_
    | with_reducible refine fr_truncateNow (Fr.sub (V := 44170971) rfl hw) ?_
    | with_reducible apply Fr.ite
    | ((with_reducible apply Fr.of); rotate_left 23; (with_reducible exact Or.inr rfl); rotate_left 3; with_reducible assumption; (iterate 25 (first | with_reducible exact Or.inr rfl | with_reducible exact Or.inr ⟨rfl, rfl⟩ | exact Or.inl (Fr.bit hw rfl))))

end Sys2Proof.Laws
end

