-- ==== Sys2Proof/Laws/KeptPath.lean ====
section
/-! SUPPORT. What the decoder, the weavers, the correction and the staging keep: one lemma for each operation and each command (see Kept). -/

namespace Sys2Proof.Laws

open Sys2Proof.Machine

/-! Figure. -/

theorem kept_freeRing {q : List Instr} {s : State} (hs : Kept q s) :
    Kept q (State.freeRing s) := by
  unfold State.freeRing
  repeat' first
    | (extract_lets +onlyGivenNames z; clear_value z; revert z; intro _)
    | ((with_reducible apply Kept.of); rotate_left; (iterate 6 (with_reducible exact rfl)); with_reducible assumption)

theorem kept_setTile {q : List Instr} {s : State} {id : TileId} {t : Tile} (hs : Kept q s) :
    Kept q (State.setTile s id t) := by
  unfold State.setTile
  repeat' first
    | (extract_lets +onlyGivenNames z; clear_value z; revert z; intro _)
    | ((with_reducible apply Kept.of); rotate_left; (iterate 6 (with_reducible exact rfl)); with_reducible assumption)

theorem kept_rowDone {q : List Instr} {s : State} {c : RowCtx} (hs : Kept q s) :
    Kept q (State.rowDone s c) := by
  unfold State.rowDone
  repeat' first
    | (extract_lets +onlyGivenNames z; clear_value z; revert z; intro _)
    | ((with_reducible apply Kept.of); rotate_left; (iterate 6 (with_reducible exact rfl)); with_reducible assumption)

theorem kept_stallAt {q : List Instr} {s : State} {id : TileId} (hs : Kept q s) :
    Kept q (State.stallAt s id) := by
  unfold State.stallAt
  repeat' first
    | intro _
    | with_reducible assumption
    | (extract_lets +onlyGivenNames z; guard_hyp z : State := _; refine Kept.cut (x := z) ?_ (fun _ => ?_); rotate_left; clear_value z; revert z; intro _ _; rotate_left; unfold z; clear z)
    | (extract_lets +onlyGivenNames z; clear_value z; revert z; intro _)
    | with_reducible apply kept_setReg
    | with_reducible apply Kept.ite
    | ((with_reducible apply Kept.of); rotate_left; (iterate 6 (with_reducible exact rfl)); with_reducible assumption)

theorem kept_figStale {q : List Instr} {s : State} (hs : Kept q s) :
    Kept q (State.figStale s) := by
  unfold State.figStale
  repeat' first
    | with_reducible assumption
    | with_reducible apply kept_bump

theorem kept_figLog {q : List Instr} {s : State} {e : LogWords} (hs : Kept q s) :
    Kept q (State.figLog s e) := by
  unfold State.figLog
  repeat' first
    | intro _
    | with_reducible assumption
    | (extract_lets +onlyGivenNames z; clear_value z; revert z; intro _)
    | with_reducible apply kept_bump
    | with_reducible apply Kept.ite
    | ((with_reducible apply Kept.of); rotate_left; (iterate 6 (with_reducible exact rfl)); with_reducible assumption)

theorem kept_takeStripe {q : List Instr} {s : State} {h : KfsHeader} {b : List Sys2Proof.Byte} (hs : Kept q s) :
    Kept q (State.takeStripe s h b) := by
  unfold State.takeStripe
  repeat' first
    | intro _
    | (extract_lets +onlyGivenNames z; clear_value z; revert z; intro _)
    | with_reducible apply kept_figStale
    | with_reducible apply Kept.ite
    | ((with_reducible apply Kept.of); rotate_left; (iterate 6 (with_reducible exact rfl)); with_reducible assumption)

theorem kept_takeRow {q : List Instr} {s : State} {h : KfsHeader} {off : Nat} {b : List Sys2Proof.Byte} (hs : Kept q s) :
    Kept q (State.takeRow s h off b) := by
  unfold State.takeRow
  repeat' first
    | intro _
    | with_reducible assumption
    | (extract_lets +onlyGivenNames z; guard_hyp z : State := _; refine Kept.cut (x := z) ?_ (fun _ => ?_); rotate_left; clear_value z; revert z; intro _ _; rotate_left; unfold z; clear z)
    | (extract_lets +onlyGivenNames z; clear_value z; revert z; intro _)
    | with_reducible apply kept_figStale
    | with_reducible apply kept_setTile
    | with_reducible apply kept_rowDone
    | with_reducible apply Kept.ite
    | with_reducible apply Kept.foldl
    | ((with_reducible apply Kept.of); rotate_left; (iterate 6 (with_reducible exact rfl)); with_reducible assumption)

theorem kept_takeStruct {q : List Instr} {s : State} {h : KfsHeader} {off : Nat} {b : List Sys2Proof.Byte} (hs : Kept q s) :
    Kept q (State.takeStruct s h off b) := by
  unfold State.takeStruct
  repeat' first
    | with_reducible assumption
    | (extract_lets +onlyGivenNames z; guard_hyp z : State := _; refine Kept.cut (x := z) ?_ (fun _ => ?_); rotate_left; clear_value z; revert z; intro _ _; rotate_left; unfold z; clear z)
    | (extract_lets +onlyGivenNames z; clear_value z; revert z; intro _)
    | with_reducible apply kept_takeStripe
    | with_reducible apply kept_takeRow
    | ((with_reducible apply Kept.of); rotate_left; (iterate 6 (with_reducible exact rfl)); with_reducible assumption)
    | split

theorem kept_figLogReject {q : List Instr} {s : State} {h : KfsHeader} {off : Nat} {r : FigReason} {unw : Bool} {halt : Bool} (hs : Kept q s) :
    Kept q (State.figLogReject s h off r unw halt) := by
  unfold State.figLogReject
  repeat' first
    | intro _
    | with_reducible assumption
    | (extract_lets +onlyGivenNames z; guard_hyp z : State := _; refine Kept.cut (x := z) ?_ (fun _ => ?_); rotate_left; clear_value z; revert z; intro _ _; rotate_left; unfold z; clear z)
    | with_reducible apply kept_figLog
    | with_reducible apply kept_bump
    | with_reducible apply kept_raise
    | with_reducible apply Kept.ite

theorem kept_figUnwritable {q : List Instr} {s : State} {id : TileId} {h : KfsHeader} {off : Nat} {r : FigReason} (hs : Kept q s) :
    Kept q (State.figUnwritable s id h off r) := by
  unfold State.figUnwritable
  repeat' first
    | with_reducible assumption
    | with_reducible apply kept_setTile
    | with_reducible apply kept_figLogReject

theorem kept_figHalt {q : List Instr} {s : State} {h : KfsHeader} {off : Nat} {r : FigReason} (hs : Kept q s) :
    Kept q (State.figHalt s h off r) := by
  unfold State.figHalt
  repeat' first
    | with_reducible assumption
    | (extract_lets +onlyGivenNames z; guard_hyp z : State := _; refine Kept.cut (x := z) ?_ (fun _ => ?_); rotate_left; clear_value z; revert z; intro _ _; rotate_left; unfold z; clear z)
    | (extract_lets +onlyGivenNames z; clear_value z; revert z; intro _)
    | with_reducible apply kept_figLogReject
    | with_reducible apply kept_freeRing
    | ((with_reducible apply Kept.of); rotate_left; (iterate 6 (with_reducible exact rfl)); with_reducible assumption)

theorem kept_execFigErrlogPop {q : List Instr} {v : Sys2Proof.Word} {s : State} (hs : Kept q s) :
    KeptO q (execFigErrlogPop v s) := by
  unfold execFigErrlogPop
  repeat' first
    | intro _
    | with_reducible assumption
    | (extract_lets +onlyGivenNames z; clear_value z; revert z; intro _)
    | with_reducible apply kept_finish
    | with_reducible apply kept_command
    | with_reducible apply Kept.ite
    | ((with_reducible apply Kept.of); rotate_left; (iterate 6 (with_reducible exact rfl)); with_reducible assumption)

theorem kept_refetchTile {q : List Instr} {s : State} {id : TileId} (hs : Kept q s) :
    Kept q (State.refetchTile s id) := by
  unfold State.refetchTile
  repeat' first
    | intro _
    | with_reducible assumption
    | (extract_lets +onlyGivenNames z; guard_hyp z : State := _; refine Kept.cut (x := z) ?_ (fun _ => ?_); rotate_left; clear_value z; revert z; intro _ _; rotate_left; unfold z; clear z)
    | (extract_lets +onlyGivenNames z; clear_value z; revert z; intro _)
    | with_reducible apply kept_figUnwritable
    | with_reducible apply kept_raise
    | with_reducible apply Kept.ite
    | ((with_reducible apply Kept.of); rotate_left; (iterate 6 (with_reducible exact rfl)); with_reducible assumption)
    | split

theorem kept_figTouch {q : List Instr} {s : State} {off : Nat} {n : Nat} (hs : Kept q s) :
    Kept q (State.figTouch s off n) := by
  unfold State.figTouch
  repeat' first
    | intro _
    | with_reducible assumption
    | with_reducible apply kept_touch
    | with_reducible apply Kept.foldl

theorem kept_verifyStruct {q : List Instr} {s : State} (hs : Kept q s) :
    Kept q (State.verifyStruct s) := by
  unfold State.verifyStruct
  repeat' first
    | intro _
    | with_reducible assumption
    | (extract_lets +onlyGivenNames z; guard_hyp z : State := _; refine Kept.cut (x := z) ?_ (fun _ => ?_); rotate_left; clear_value z; revert z; intro _ _; rotate_left; unfold z; clear z)
    | (extract_lets +onlyGivenNames z; clear_value z; revert z; intro _)
    | with_reducible apply kept_figHalt
    | with_reducible apply kept_figTouch
    | with_reducible apply kept_freeRing
    | with_reducible apply kept_takeStruct
    | with_reducible apply Kept.ite
    | split

theorem kept_takeBin {q : List Instr} {s : State} {c : RowCtx} {col : Int} {blen : Nat} {rest : List (Int × Nat)} (hs : Kept q s) :
    Kept q (State.takeBin s c col blen rest) := by
  unfold State.takeBin
  repeat' first
    | intro _
    | with_reducible assumption
    | (extract_lets +onlyGivenNames z; guard_hyp z : State := _; refine Kept.cut (x := z) ?_ (fun _ => ?_); rotate_left; clear_value z; revert z; intro _ _; rotate_left; unfold z; clear z)
    | (extract_lets +onlyGivenNames z; clear_value z; revert z; intro _)
    | with_reducible apply kept_figTouch
    | with_reducible apply kept_figUnwritable
    | with_reducible apply kept_figLogReject
    | with_reducible apply kept_setTile
    | with_reducible apply kept_figStale
    | with_reducible apply kept_freeRing
    | with_reducible apply kept_rowDone
    | with_reducible apply Kept.ite
    | ((with_reducible apply Kept.of); rotate_left; (iterate 6 (with_reducible exact rfl)); with_reducible assumption)
    | split

theorem kept_verifyAs {q : List Instr} {s : State} {ty : Nat} (hs : Kept q s) :
    Kept q (State.verifyAs s ty) := by
  unfold State.verifyAs
  repeat' first
    | intro _
    | with_reducible assumption
    | (extract_lets +onlyGivenNames z; clear_value z; revert z; intro _)
    | with_reducible apply kept_verifyStruct
    | with_reducible apply Kept.ite

theorem kept_verifyBin {q : List Instr} {s : State} (hs : Kept q s) :
    Kept q (State.verifyBin s) := by
  unfold State.verifyBin
  repeat' first
    | intro _
    | with_reducible assumption
    | with_reducible apply kept_verifyStruct
    | with_reducible apply kept_rowDone
    | with_reducible apply kept_takeBin
    | with_reducible apply Kept.ite
    | split

theorem kept_execVerifyTileRow {q : List Instr} {s : State} (hs : Kept q s) :
    KeptO q (execVerifyTileRow s) := by
  unfold execVerifyTileRow
  repeat' first
    | with_reducible assumption
    | with_reducible apply kept_finish
    | with_reducible apply kept_verifyAs

theorem kept_execVerifyClassTable {q : List Instr} {s : State} (hs : Kept q s) :
    KeptO q (execVerifyClassTable s) := by
  unfold execVerifyClassTable
  repeat' first
    | with_reducible assumption
    | with_reducible apply kept_finish
    | with_reducible apply kept_verifyAs

theorem kept_execVerifyJobHeader {q : List Instr} {s : State} (hs : Kept q s) :
    KeptO q (execVerifyJobHeader s) := by
  unfold execVerifyJobHeader
  repeat' first
    | with_reducible assumption
    | with_reducible apply kept_finish
    | with_reducible apply kept_verifyAs

theorem kept_execVerifyStripe {q : List Instr} {s : State} (hs : Kept q s) :
    KeptO q (execVerifyStripe s) := by
  unfold execVerifyStripe
  repeat' first
    | with_reducible assumption
    | with_reducible apply kept_finish
    | with_reducible apply kept_verifyAs

theorem kept_execVerifyJobEnd {q : List Instr} {s : State} (hs : Kept q s) :
    KeptO q (execVerifyJobEnd s) := by
  unfold execVerifyJobEnd
  repeat' first
    | with_reducible assumption
    | with_reducible apply kept_finish
    | with_reducible apply kept_verifyAs

theorem kept_execVerifyTileBin {q : List Instr} {s : State} (hs : Kept q s) :
    KeptO q (execVerifyTileBin s) := by
  unfold execVerifyTileBin
  repeat' first
    | with_reducible assumption
    | with_reducible apply kept_finish
    | with_reducible apply kept_verifyBin

/-! Works. -/

theorem kept_newWork_eq {q : List Instr} {s : State} {r : StripeRec} {wStart : Nat} (hs : Kept q s) {s' : State} {x'} (e' : State.newWork s r wStart = (s', x')) :
    Kept q s' := by
  unfold State.newWork at e'
  repeat' first
    | (extract_lets +onlyGivenNames z at e'; clear_value z; revert z; intro _ e')
    | ((with_reducible refine Kept.of_pair ?_ e'); clear e')
    | ((with_reducible apply Kept.of); rotate_left; (iterate 6 (with_reducible exact rfl)); with_reducible assumption)

theorem kept_newWork {q : List Instr} {s : State} {r : StripeRec} {wStart : Nat} (hs : Kept q s) : Kept q (State.newWork s r wStart).1 :=
  Kept.of_eq fun _ _ e' => kept_newWork_eq hs e'

theorem kept_keepPasses {q : List Instr} {s : State} {keep : Nat → Bool} (hs : Kept q s) :
    Kept q (State.keepPasses s keep) := by
  unfold State.keepPasses
  repeat' first
    | (extract_lets +onlyGivenNames z; clear_value z; revert z; intro _)
    | ((with_reducible apply Kept.of); rotate_left; (iterate 6 (with_reducible exact rfl)); with_reducible assumption)

theorem kept_sweepWorks {q : List Instr} {s : State} (hs : Kept q s) :
    Kept q (State.sweepWorks s) := by
  unfold State.sweepWorks
  repeat' first
    | (extract_lets +onlyGivenNames z; clear_value z; revert z; intro _)
    | ((with_reducible apply Kept.of); rotate_left; (iterate 6 (with_reducible exact rfl)); with_reducible assumption)

theorem kept_takeSlot {q : List Instr} {s : State} {id : Nat} (hs : Kept q s) :
    Kept q (State.takeSlot s id) := by
  unfold State.takeSlot
  repeat' first
    | intro _
    | with_reducible assumption
    | with_reducible apply kept_modWork
    | with_reducible apply Kept.ite
    | split

theorem kept_voidSample {q : List Instr} {s : State} {id : Nat} (hs : Kept q s) :
    Kept q (State.voidSample s id) := by
  unfold State.voidSample
  repeat' first
    | (extract_lets +onlyGivenNames z; clear_value z; revert z; intro _)
    | with_reducible apply kept_bump
    | ((with_reducible apply Kept.of); rotate_left; (iterate 6 (with_reducible exact rfl)); with_reducible assumption)

theorem kept_stgLog {q : List Instr} {s : State} {reason : Nat} {status : Nat} {stripe : Nat} {w : Nat} (hs : Kept q s) :
    Kept q (State.stgLog s reason status stripe w) := by
  unfold State.stgLog
  repeat' first
    | with_reducible assumption
    | with_reducible apply kept_setRegs
    | with_reducible apply kept_bump

theorem kept_keepBins {q : List Instr} {s : State} {keep : HeldBin → Bool} (hs : Kept q s) :
    Kept q (State.keepBins s keep) := by
  unfold State.keepBins
  repeat' first
    | intro _
    | with_reducible assumption
    | (extract_lets +onlyGivenNames z; guard_hyp z : State := _; refine Kept.cut (x := z) ?_ (fun _ => ?_); rotate_left; clear_value z; revert z; intro _ _; rotate_left; unfold z; clear z)
    | (extract_lets +onlyGivenNames z; clear_value z; revert z; intro _)
    | with_reducible apply kept_freeRing
    | with_reducible apply kept_voidSample
    | with_reducible apply Kept.foldl
    | ((with_reducible apply Kept.of); rotate_left; (iterate 6 (with_reducible exact rfl)); with_reducible assumption)

theorem kept_dropBins {q : List Instr} {s : State} (hs : Kept q s) :
    Kept q (State.dropBins s) := by
  unfold State.dropBins
  repeat' first
    | with_reducible assumption
    | with_reducible apply kept_keepBins

theorem kept_claimRow {q : List Instr} {s : State} {id : Nat} {v : Int} (hs : Kept q s) :
    Kept q (State.claimRow s id v) := by
  unfold State.claimRow
  repeat' first
    | with_reducible assumption
    | (extract_lets +onlyGivenNames z; guard_hyp z : State := _; refine Kept.cut (x := z) ?_ (fun _ => ?_); rotate_left; clear_value z; revert z; intro _ _; rotate_left; unfold z; clear z)
    | with_reducible apply kept_memWrite
    | with_reducible apply kept_modWork
    | split

theorem kept_corLog {q : List Instr} {s : State} {reason : Nat} {set : Bool} {halt : Bool} {stripe : Nat} {slice : Nat} (hs : Kept q s) :
    Kept q (State.corLog s reason set halt stripe slice) := by
  unfold State.corLog
  repeat' first
    | with_reducible assumption
    | with_reducible apply kept_raise
    | with_reducible apply kept_setRegs
    | with_reducible apply kept_bump

theorem kept_freeChunks {q : List Instr} {s : State} {keep : Nat → Bool} (hs : Kept q s) :
    Kept q (State.freeChunks s keep) := by
  unfold State.freeChunks
  repeat' first
    | intro _
    | with_reducible assumption
    | (extract_lets +onlyGivenNames z; guard_hyp z : State := _; refine Kept.cut (x := z) ?_ (fun _ => ?_); rotate_left; clear_value z; revert z; intro _ _; rotate_left; unfold z; clear z)
    | (extract_lets +onlyGivenNames z; clear_value z; revert z; intro _)
    | with_reducible apply kept_memWrite64
    | with_reducible apply Kept.foldl
    | ((with_reducible apply Kept.of); rotate_left; (iterate 6 (with_reducible exact rfl)); with_reducible assumption)

theorem kept_rebuildRows {q : List Instr} {s : State} {id : Nat} {t : Int} {vs : List Int} (hs : Kept q s) :
    Kept q (State.rebuildRows s id t vs) := by
  unfold State.rebuildRows
  repeat' first
    | intro _
    | with_reducible assumption
    | (extract_lets +onlyGivenNames z; guard_hyp z : State := _; refine Kept.cut (x := z) ?_ (fun _ => ?_); rotate_left; clear_value z; revert z; intro _ _; rotate_left; unfold z; clear z)
    | with_reducible apply kept_bump
    | with_reducible apply kept_claimRow
    | with_reducible apply kept_modWork
    | with_reducible apply Kept.foldl

theorem kept_addCell {q : List Instr} {s : State} {id : Nat} {u : Int} {v : Int} {f : Nat} (hs : Kept q s) :
    Kept q (State.addCell s id u v f) := by
  unfold State.addCell
  repeat' first
    | intro _
    | with_reducible assumption
    | (extract_lets +onlyGivenNames z; guard_hyp z : State := _; refine Kept.cut (x := z) ?_ (fun _ => ?_); rotate_left; clear_value z; revert z; intro _ _; rotate_left; unfold z; clear z)
    | with_reducible apply kept_claimRow
    | with_reducible apply kept_memWrite64
    | with_reducible apply Kept.ite
    | split

theorem kept_resetPath {q : List Instr} {s : State} (hs : Kept q s) :
    Kept q (State.resetPath s) := by
  unfold State.resetPath
  repeat' first
    | intro _
    | with_reducible assumption
    | (extract_lets +onlyGivenNames z; guard_hyp z : State := _; refine Kept.cut (x := z) ?_ (fun _ => ?_); rotate_left; clear_value z; revert z; intro _ _; rotate_left; unfold z; clear z)
    | (extract_lets +onlyGivenNames z; clear_value z; revert z; intro _)
    | with_reducible apply kept_keepPasses
    | with_reducible apply kept_freeChunks
    | with_reducible apply kept_raise
    | with_reducible apply kept_setReg
    | with_reducible apply Kept.ite
    | ((with_reducible apply Kept.of); rotate_left; (iterate 6 (with_reducible exact rfl)); with_reducible assumption)

theorem kept_invalidateGroup {q : List Instr} {s : State} {id : Nat} {t : Int} {reason : Nat} {status : Nat} (hs : Kept q s) :
    Kept q (State.invalidateGroup s id t reason status) := by
  unfold State.invalidateGroup
  repeat' first
    | intro _
    | with_reducible assumption
    | (extract_lets +onlyGivenNames z; guard_hyp z : State := _; refine Kept.cut (x := z) ?_ (fun _ => ?_); rotate_left; clear_value z; revert z; intro _ _; rotate_left; unfold z; clear z)
    | (extract_lets +onlyGivenNames z; clear_value z; revert z; intro _)
    | with_reducible apply kept_freeChunks
    | with_reducible apply kept_modWork
    | with_reducible apply kept_stgLog
    | with_reducible apply Kept.ite
    | ((with_reducible apply Kept.of); rotate_left; (iterate 6 (with_reducible exact rfl)); with_reducible assumption)
    | split

theorem kept_abandonWork {q : List Instr} {s : State} {id : Nat} (hs : Kept q s) :
    Kept q (State.abandonWork s id) := by
  unfold State.abandonWork
  repeat' first
    | with_reducible assumption
    | (extract_lets +onlyGivenNames z; guard_hyp z : State := _; refine Kept.cut (x := z) ?_ (fun _ => ?_); rotate_left; clear_value z; revert z; intro _ _; rotate_left; unfold z; clear z)
    | (extract_lets +onlyGivenNames z; clear_value z; revert z; intro _)
    | with_reducible apply kept_keepPasses
    | with_reducible apply kept_freeChunks
    | ((with_reducible apply Kept.of); rotate_left; (iterate 6 (with_reducible exact rfl)); with_reducible assumption)
    | split

theorem kept_releaseTo {q : List Instr} {s : State} {n : Nat} (hs : Kept q s) :
    Kept q (State.releaseTo s n) := by
  unfold State.releaseTo
  repeat' first
    | intro _
    | with_reducible assumption
    | (extract_lets +onlyGivenNames z; guard_hyp z : State := _; refine Kept.cut (x := z) ?_ (fun _ => ?_); rotate_left; clear_value z; revert z; intro _ _; rotate_left; unfold z; clear z)
    | (extract_lets +onlyGivenNames z; clear_value z; revert z; intro _)
    | with_reducible apply kept_sweepWorks
    | with_reducible apply kept_dropBins
    | with_reducible apply kept_freeChunks
    | with_reducible apply Kept.ite
    | ((with_reducible apply Kept.of); rotate_left; (iterate 6 (with_reducible exact rfl)); with_reducible assumption)

theorem kept_dmapPoison {q : List Instr} {s : State} {id : Nat} {t : Int} {v : Int} (hs : Kept q s) :
    Kept q (State.dmapPoison s id t v) := by
  unfold State.dmapPoison
  repeat' first
    | with_reducible assumption
    | with_reducible apply kept_corLog
    | with_reducible apply kept_rebuildRows
    | split

theorem kept_invalidateRows {q : List Instr} {s : State} {id : Nat} {ts : List Int} {reason : Nat} {status : Nat} (hs : Kept q s) :
    Kept q (State.invalidateRows s id ts reason status) := by
  unfold State.invalidateRows
  repeat' first
    | intro _
    | with_reducible assumption
    | (extract_lets +onlyGivenNames z; guard_hyp z : State := _; refine Kept.cut (x := z) ?_ (fun _ => ?_); rotate_left; clear_value z; revert z; intro _ _; rotate_left; unfold z; clear z)
    | with_reducible apply kept_invalidateGroup
    | with_reducible apply kept_raise
    | with_reducible apply Kept.ite
    | with_reducible apply Kept.foldl

theorem kept_ensureNext {q : List Instr} {s : State} (hs : Kept q s) :
    Kept q (State.ensureNext s) := by
  unfold State.ensureNext
  repeat' first
    | intro _
    | with_reducible assumption
    | (extract_lets +onlyGivenNames z; guard_hyp z : State := _; refine Kept.cut (x := z) ?_ (fun _ => ?_); rotate_left; clear_value z; revert z; intro _ _; rotate_left; unfold z; clear z)
    | (extract_lets +onlyGivenNames z; clear_value z; revert z; intro _)
    | with_reducible apply kept_abandonWork
    | with_reducible apply Kept.ite
    | ((with_reducible apply Kept.of); rotate_left; (iterate 6 (with_reducible exact rfl)); (first | with_reducible apply kept_newWork))
    | split

theorem kept_abandonNext {q : List Instr} {s : State} (hs : Kept q s) :
    Kept q (State.abandonNext s) := by
  unfold State.abandonNext
  repeat' first
    | intro _
    | with_reducible assumption
    | (extract_lets +onlyGivenNames z; guard_hyp z : State := _; refine Kept.cut (x := z) ?_ (fun _ => ?_); rotate_left; clear_value z; revert z; intro _ _; rotate_left; unfold z; clear z)
    | (extract_lets +onlyGivenNames z; clear_value z; revert z; intro _)
    | with_reducible apply kept_abandonWork
    | with_reducible apply kept_keepBins
    | with_reducible apply Kept.ite
    | ((with_reducible apply Kept.of); rotate_left; (iterate 6 (with_reducible exact rfl)); with_reducible assumption)
    | split

theorem kept_addFragments {q : List Instr} {s : State} {id : Nat} {t : Int} {c : Int} {words : List Nat} {only : Option (List (Int × Int))} (hs : Kept q s) :
    Kept q (State.addFragments s id t c words only) := by
  unfold State.addFragments
  repeat' first
    | intro _
    | with_reducible assumption
    | (extract_lets +onlyGivenNames z; guard_hyp z : State := _; refine Kept.cut (x := z) ?_ (fun _ => ?_); rotate_left; clear_value z; revert z; intro _ _; rotate_left; unfold z; clear z)
    | (extract_lets +onlyGivenNames z; clear_value z; revert z; intro _)
    | with_reducible apply kept_takeSlot
    | with_reducible apply kept_dmapPoison
    | with_reducible apply kept_addCell
    | with_reducible apply Kept.ite
    | with_reducible apply Kept.foldl
    | split

theorem kept_fillB {q : List Instr} {s : State} {id : Nat} {us : List Int} {vs : List Int} (hs : Kept q s) :
    Kept q (State.fillB s id us vs) := by
  unfold State.fillB
  repeat' first
    | intro _
    | with_reducible assumption
    | (extract_lets +onlyGivenNames z; clear_value z; revert z; intro _)
    | with_reducible apply kept_dmapPoison
    | with_reducible apply kept_memWrite64
    | with_reducible apply Kept.ite
    | with_reducible apply Kept.foldl
    | split

theorem kept_invalidateAll {q : List Instr} {s : State} {id : Nat} (hs : Kept q s) :
    Kept q (State.invalidateAll s id) := by
  unfold State.invalidateAll
  repeat' first
    | with_reducible assumption
    | with_reducible apply kept_invalidateRows
    | split

theorem kept_bindTo {q : List Instr} {s : State} {id : Nat} {b : Bool} (hs : Kept q s) :
    Kept q (State.bindTo s id b) := by
  unfold State.bindTo
  repeat' first
    | with_reducible assumption
    | (extract_lets +onlyGivenNames z; guard_hyp z : State := _; refine Kept.cut (x := z) ?_ (fun _ => ?_); rotate_left; clear_value z; revert z; intro _ _; rotate_left; unfold z; clear z)
    | (extract_lets +onlyGivenNames z; clear_value z; revert z; intro _)
    | with_reducible apply kept_modWork
    | with_reducible apply kept_fillB
    | ((with_reducible apply Kept.of); rotate_left; (iterate 6 (with_reducible exact rfl)); with_reducible assumption)
    | split

theorem kept_fillAround {q : List Instr} {s : State} {id : Nat} {t : Int} {c : Int} (hs : Kept q s) :
    Kept q (State.fillAround s id t c) := by
  unfold State.fillAround
  repeat' first
    | with_reducible assumption
    | (extract_lets +onlyGivenNames z; clear_value z; revert z; intro _)
    | with_reducible apply kept_fillB
    | split

theorem kept_rebind {q : List Instr} {s : State} {id : Nat} {b : Bool} (hs : Kept q s) :
    Kept q (State.rebind s id b) := by
  unfold State.rebind
  repeat' first
    | intro _
    | with_reducible assumption
    | (extract_lets +onlyGivenNames z; guard_hyp z : State := _; refine Kept.cut (x := z) ?_ (fun _ => ?_); rotate_left; clear_value z; revert z; intro _ _; rotate_left; unfold z; clear z)
    | (extract_lets +onlyGivenNames z; clear_value z; revert z; intro _)
    | with_reducible apply kept_invalidateAll
    | with_reducible apply kept_modWork
    | with_reducible apply kept_corLog
    | with_reducible apply kept_memWrite64
    | with_reducible apply kept_raise
    | with_reducible apply kept_bump
    | with_reducible apply kept_fillB
    | with_reducible apply Kept.ite
    | with_reducible apply Kept.foldl
    | ((with_reducible apply Kept.of); rotate_left; (iterate 6 (with_reducible exact rfl)); with_reducible assumption)
    | split

theorem kept_tryBindTo {q : List Instr} {s : State} {id : Nat} {b : Bool} (hs : Kept q s) :
    Kept q (State.tryBindTo s id b) := by
  unfold State.tryBindTo
  repeat' first
    | intro _
    | with_reducible assumption
    | (extract_lets +onlyGivenNames z; guard_hyp z : State := _; refine Kept.cut (x := z) ?_ (fun _ => ?_); rotate_left; clear_value z; revert z; intro _ _; rotate_left; unfold z; clear z)
    | (extract_lets +onlyGivenNames z; clear_value z; revert z; intro _)
    | with_reducible apply kept_corLog
    | with_reducible apply kept_bindTo
    | with_reducible apply Kept.ite
    | ((with_reducible apply Kept.of); rotate_left; (iterate 6 (with_reducible exact rfl)); with_reducible assumption)
    | split

theorem kept_bindNext {q : List Instr} {s : State} (hs : Kept q s) :
    Kept q (State.bindNext s) := by
  unfold State.bindNext
  repeat' first
    | intro _
    | with_reducible assumption
    | (extract_lets +onlyGivenNames z; guard_hyp z : State := _; refine Kept.cut (x := z) ?_ (fun _ => ?_); rotate_left; clear_value z; revert z; intro _ _; rotate_left; unfold z; clear z)
    | (extract_lets +onlyGivenNames z; clear_value z; revert z; intro _)
    | with_reducible apply kept_ensureNext
    | with_reducible apply kept_tryBindTo
    | with_reducible apply Kept.ite
    | ((with_reducible apply Kept.of); rotate_left; (iterate 6 (with_reducible exact rfl)); with_reducible assumption)
    | split

theorem kept_setChanged {q : List Instr} {s : State} {id : Nat} {b : Bool} (hs : Kept q s) :
    Kept q (State.setChanged s id b) := by
  unfold State.setChanged
  repeat' first
    | intro _
    | with_reducible assumption
    | with_reducible apply kept_rebind
    | with_reducible apply kept_tryBindTo
    | with_reducible apply Kept.ite
    | split

/-! Weavers. -/

theorem kept_modWeaver {q : List Instr} {s : State} {w : Nat} {f : Weaver → Weaver} (hs : Kept q s) :
    Kept q (State.modWeaver s w f) := by
  unfold State.modWeaver
  repeat' first
    | (extract_lets +onlyGivenNames z; clear_value z; revert z; intro _)
    | ((with_reducible apply Kept.of); rotate_left; (iterate 6 (with_reducible exact rfl)); with_reducible assumption)

theorem kept_dropSample {q : List Instr} {s : State} {id : Nat} (hs : Kept q s) :
    Kept q (State.dropSample s id) := by
  unfold State.dropSample
  repeat' first
    | (extract_lets +onlyGivenNames z; clear_value z; revert z; intro _)
    | ((with_reducible apply Kept.of); rotate_left; (iterate 6 (with_reducible exact rfl)); with_reducible assumption)

theorem kept_modSample {q : List Instr} {s : State} {id : Nat} {f : Sample → Sample} (hs : Kept q s) :
    Kept q (State.modSample s id f) := by
  unfold State.modSample
  repeat' first
    | (extract_lets +onlyGivenNames z; clear_value z; revert z; intro _)
    | ((with_reducible apply Kept.of); rotate_left; (iterate 6 (with_reducible exact rfl)); with_reducible assumption)

theorem kept_uncount {q : List Instr} {s : State} {id : TileId} (hs : Kept q s) :
    Kept q (State.uncount s id) := by
  unfold State.uncount
  repeat' first
    | intro _
    | with_reducible assumption
    | (extract_lets +onlyGivenNames z; clear_value z; revert z; intro _)
    | with_reducible apply Kept.ite
    | ((with_reducible apply Kept.of); rotate_left; (iterate 6 (with_reducible exact rfl)); with_reducible assumption)

theorem kept_issueSample {q : List Instr} {s : State} {w : Nat} {x2 : Sample} {kind : PassKind} (hs : Kept q s) :
    Kept q (State.issueSample s w x2 kind) := by
  unfold State.issueSample
  repeat' first
    | with_reducible assumption
    | (extract_lets +onlyGivenNames z; guard_hyp z : State := _; refine Kept.cut (x := z) ?_ (fun _ => ?_); rotate_left; clear_value z; revert z; intro _ _; rotate_left; unfold z; clear z)
    | (extract_lets +onlyGivenNames z; clear_value z; revert z; intro _)
    | with_reducible apply kept_modSample
    | with_reducible apply kept_modWeaver

theorem kept_giveBack {q : List Instr} {s : State} {w : Nat} {avoid : List Nat} (hs : Kept q s) :
    Kept q (State.giveBack s w avoid) := by
  unfold State.giveBack
  repeat' first
    | with_reducible assumption
    | (extract_lets +onlyGivenNames z; guard_hyp z : State := _; refine Kept.cut (x := z) ?_ (fun _ => ?_); rotate_left; clear_value z; revert z; intro _ _; rotate_left; unfold z; clear z)
    | (extract_lets +onlyGivenNames z; guard_hyp z : State → State := _; refine Kept.cutF (f := z) ?_ (fun _ => ?_); rotate_left; clear_value z; revert z; intro _ _; rotate_left; unfold z; clear z; intro _ _; beta_reduce)
    | with_reducible apply kept_modWeaver
    | with_reducible apply kept_dropSample
    | with_reducible apply kept_modWork
    | with_reducible apply kept_modSample
    | split
    | with_reducible apply_assumption

theorem kept_needTile {q : List Instr} {s : State} {id : TileId} (hs : Kept q s) :
    Kept q (State.needTile s id) := by
  unfold State.needTile
  repeat' first
    | intro _
    | with_reducible assumption
    | with_reducible apply kept_stallAt
    | with_reducible apply Kept.ite

theorem kept_issuePass {q : List Instr} {s : State} {w : Nat} {f : Found} (hs : Kept q s) :
    Kept q (State.issuePass s w f) := by
  unfold State.issuePass
  repeat' first
    | intro _
    | with_reducible assumption
    | (extract_lets +onlyGivenNames z; guard_hyp z : State := _; refine Kept.cut (x := z) ?_ (fun _ => ?_); rotate_left; clear_value z; revert z; intro _ _; rotate_left; unfold z; clear z)
    | (extract_lets +onlyGivenNames z; clear_value z; revert z; intro _)
    | with_reducible apply kept_modWork
    | with_reducible apply kept_uncount
    | with_reducible apply kept_modWeaver
    | with_reducible apply kept_bump
    | with_reducible apply Kept.ite
    | ((with_reducible apply Kept.of); rotate_left; (iterate 6 (with_reducible exact rfl)); with_reducible assumption)

theorem kept_promote {q : List Instr} {s : State} {w : Nat} (hs : Kept q s) :
    Kept q (State.promote s w) := by
  unfold State.promote
  repeat' first
    | intro _
    | with_reducible assumption
    | (extract_lets +onlyGivenNames z; guard_hyp z : State := _; refine Kept.cut (x := z) ?_ (fun _ => ?_); rotate_left; clear_value z; revert z; intro _ _; rotate_left; unfold z; clear z)
    | with_reducible apply kept_voidSample
    | with_reducible apply kept_modWeaver
    | with_reducible apply kept_giveBack
    | with_reducible apply Kept.ite
    | split

theorem kept_retireWeaver {q : List Instr} {s : State} {w : Nat} (hs : Kept q s) :
    Kept q (State.retireWeaver s w) := by
  unfold State.retireWeaver
  repeat' first
    | intro _
    | with_reducible assumption
    | (extract_lets +onlyGivenNames z; guard_hyp z : State := _; refine Kept.cut (x := z) ?_ (fun _ => ?_); rotate_left; clear_value z; revert z; intro _ _; rotate_left; unfold z; clear z)
    | with_reducible apply kept_modWeaver
    | with_reducible apply kept_giveBack
    | with_reducible apply kept_promote
    | with_reducible apply kept_raise
    | with_reducible apply kept_withyChange
    | with_reducible apply Kept.ite
    | split

theorem kept_wantBin {q : List Instr} {s : State} {k : Work} {t : Int} (hs : Kept q s) :
    Kept q (State.wantBin s k t) := by
  unfold State.wantBin
  repeat' first
    | intro _
    | with_reducible assumption
    | (extract_lets +onlyGivenNames z; guard_hyp z : State := _; refine Kept.cut (x := z) ?_ (fun _ => ?_); rotate_left; clear_value z; revert z; intro _ _; rotate_left; unfold z; clear z)
    | (extract_lets +onlyGivenNames z; clear_value z; revert z; intro _)
    | with_reducible apply kept_stgLog
    | with_reducible apply kept_raise
    | with_reducible apply Kept.ite
    | ((with_reducible apply Kept.of); rotate_left; (iterate 6 (with_reducible exact rfl)); with_reducible assumption)

theorem kept_suspectUp {q : List Instr} {s : State} {w : Nat} (hs : Kept q s) :
    Kept q (State.suspectUp s w) := by
  unfold State.suspectUp
  repeat' first
    | intro _
    | with_reducible assumption
    | (extract_lets +onlyGivenNames z; guard_hyp z : State := _; refine Kept.cut (x := z) ?_ (fun _ => ?_); rotate_left; clear_value z; revert z; intro _ _; rotate_left; unfold z; clear z)
    | (extract_lets +onlyGivenNames z; clear_value z; revert z; intro _)
    | with_reducible apply kept_withyChange
    | with_reducible apply kept_modWeaver
    | with_reducible apply kept_retireWeaver
    | with_reducible apply Kept.ite

theorem kept_seekPixel_eq {q : List Instr} {w : Nat} {a : List (Nat × Int × Int)} {a2 : State} (ha2 : Kept q a2) {s' : State} {x'} (e' : State.seekPixel w a a2 = (s', x')) :
    Kept q s' := by
  induction a generalizing w a2 with
  | nil =>
    unfold State.seekPixel at e'
    repeat' first
      | with_reducible assumption
      | ((with_reducible refine Kept.of_pair ?_ e'); clear e')
  | cons y l ih =>
    unfold State.seekPixel at e'
    repeat' first
      | with_reducible assumption
      | (extract_lets +onlyGivenNames z at e'; clear_value z; revert z; intro _ e')
      | split at e'
      | refine ih ?_ (by with_reducible assumption)
      | with_reducible apply kept_needTile
      | with_reducible apply kept_modWork
      | with_reducible apply kept_wantBin
      | ((with_reducible refine Kept.of_pair ?_ e'); clear e')

theorem kept_seekPixel {q : List Instr} {w : Nat} {a : List (Nat × Int × Int)} {a2 : State} (ha2 : Kept q a2) : Kept q (State.seekPixel w a a2).1 :=
  Kept.of_eq fun _ _ e' => kept_seekPixel_eq ha2 e'

theorem kept_execWeaverRetire {q : List Instr} {w : Nat} {s : State} (hs : Kept q s) :
    KeptO q (execWeaverRetire w s) := by
  unfold execWeaverRetire
  repeat' first
    | intro _
    | with_reducible assumption
    | with_reducible apply kept_finish
    | with_reducible apply kept_command
    | with_reducible apply kept_retireWeaver
    | with_reducible apply Kept.ite

theorem kept_weaverFails {q : List Instr} {s : State} {w : Nat} {counter : Nat} (hs : Kept q s) :
    Kept q (State.weaverFails s w counter) := by
  unfold State.weaverFails
  repeat' first
    | intro _
    | with_reducible assumption
    | with_reducible apply kept_raise
    | with_reducible apply kept_suspectUp
    | with_reducible apply kept_bump
    | with_reducible apply kept_giveBack
    | with_reducible apply Kept.ite

theorem kept_execWeaverWatchdog {q : List Instr} {w : Nat} {s : State} (hs : Kept q s) :
    KeptO q (execWeaverWatchdog w s) := by
  unfold execWeaverWatchdog
  repeat' first
    | with_reducible assumption
    | with_reducible apply kept_finish
    | with_reducible apply kept_weaverFails

theorem kept_execWeaverUe {q : List Instr} {w : Nat} {s : State} (hs : Kept q s) :
    KeptO q (execWeaverUe w s) := by
  unfold execWeaverUe
  repeat' first
    | with_reducible assumption
    | with_reducible apply kept_finish
    | with_reducible apply kept_weaverFails

theorem kept_redoDensity {q : List Instr} {s : State} {id : Nat} {tile : TileId} {avoid : List Nat} (hs : Kept q s) :
    Kept q (State.redoDensity s id tile avoid) := by
  unfold State.redoDensity
  repeat' first
    | intro _
    | with_reducible assumption
    | (extract_lets +onlyGivenNames z; guard_hyp z : State := _; refine Kept.cut (x := z) ?_ (fun _ => ?_); rotate_left; clear_value z; revert z; intro _ _; rotate_left; unfold z; clear z)
    | (extract_lets +onlyGivenNames z; clear_value z; revert z; intro _)
    | with_reducible apply kept_memWrite64
    | with_reducible apply kept_bumpBy
    | with_reducible apply kept_modWork
    | with_reducible apply kept_invalidateRows
    | with_reducible apply kept_corLog
    | with_reducible apply Kept.ite
    | with_reducible apply Kept.foldl
    | split

theorem kept_decodeFails {q : List Instr} {s : State} {w : Nat} {p : Pass} (hs : Kept q s) :
    Kept q (State.decodeFails s w p) := by
  unfold State.decodeFails
  repeat' first
    | intro _
    | with_reducible assumption
    | (extract_lets +onlyGivenNames z; guard_hyp z : State := _; refine Kept.cut (x := z) ?_ (fun _ => ?_); rotate_left; clear_value z; revert z; intro _ _; rotate_left; unfold z; clear z)
    | (extract_lets +onlyGivenNames z; clear_value z; revert z; intro _)
    | with_reducible apply kept_figTouch
    | with_reducible apply kept_giveBack
    | with_reducible apply kept_raise
    | with_reducible apply kept_refetchTile
    | with_reducible apply Kept.ite

theorem kept_replaceOutput_eq {q : List Instr} {s : State} {x1 : Sample} {avoid : List Nat} (hs : Kept q s) {s' : State} {x'} (e' : State.replaceOutput s x1 avoid = (s', x')) :
    Kept q s' := by
  unfold State.replaceOutput at e'
  repeat' first
    | intro _
    | with_reducible assumption
    | (extract_lets +onlyGivenNames z at e'; guard_hyp z : State := _; refine Kept.cut (x := z) ?_ (fun _ => ?_); rotate_left; clear_value z; revert z; intro _ e' _; rotate_left; unfold z; clear e'; clear z)
    | (extract_lets +onlyGivenNames z at e'; clear_value z; revert z; intro _ e')
    | split at e'
    | with_reducible apply kept_modWork
    | with_reducible apply kept_invalidateRows
    | with_reducible apply kept_redoDensity
    | with_reducible apply kept_setRegs
    | with_reducible apply kept_raise
    | with_reducible apply Kept.ite
    | ((with_reducible refine Kept.of_pair ?_ e'); clear e')

theorem kept_replaceOutput {q : List Instr} {s : State} {x1 : Sample} {avoid : List Nat} (hs : Kept q s) : Kept q (State.replaceOutput s x1 avoid).1 :=
  Kept.of_eq fun _ _ e' => kept_replaceOutput_eq hs e'

theorem kept_passDone {q : List Instr} {s : State} {w : Nat} {p : Pass} {figs : List Figure} {errs : List Sys2Proof.WordFlip} (hs : Kept q s) :
    Kept q (State.passDone s w p figs errs) := by
  unfold State.passDone
  repeat' first
    | intro _
    | with_reducible assumption
    | (extract_lets +onlyGivenNames z; guard_hyp z : State := _; refine Kept.cut (x := z) ?_ (fun _ => ?_); rotate_left; clear_value z; revert z; intro _ _; rotate_left; unfold z; clear z)
    | (extract_lets +onlyGivenNames z; clear_value z; revert z; intro _)
    | with_reducible apply kept_figTouch
    | with_reducible apply kept_modWeaver
    | with_reducible apply kept_bumpBy
    | with_reducible apply kept_bump
    | with_reducible apply kept_modSample
    | with_reducible apply kept_modWork
    | with_reducible apply kept_fillAround
    | with_reducible apply kept_addFragments
    | with_reducible apply Kept.ite
    | split

theorem kept_zeroDensity {q : List Instr} {s : State} {id : Nat} {t : Int} {c : Int} (hs : Kept q s) :
    Kept q (State.zeroDensity s id t c) := by
  unfold State.zeroDensity
  repeat' first
    | with_reducible assumption
    | (extract_lets +onlyGivenNames z; guard_hyp z : State := _; refine Kept.cut (x := z) ?_ (fun _ => ?_); rotate_left; clear_value z; revert z; intro _ _; rotate_left; unfold z; clear z)
    | with_reducible apply kept_takeSlot
    | with_reducible apply kept_modWork
    | with_reducible apply kept_bump
    | with_reducible apply kept_fillAround

theorem kept_settleSample {q : List Instr} {s : State} {x1 : Sample} {arb : Option (Nat × Nat)} (hs : Kept q s) :
    Kept q (State.settleSample s x1 arb) := by
  unfold State.settleSample
  repeat' first
    | intro _
    | with_reducible assumption
    | (extract_lets +onlyGivenNames z; guard_hyp z : State := _; refine Kept.cut (x := z) ?_ (fun _ => ?_); rotate_left; clear_value z; revert z; intro _ _; rotate_left; unfold z; clear z)
    | (extract_lets +onlyGivenNames z; guard_hyp z : State → _ → State := _; refine Kept.cutF₂ (f := z) ?_ (fun _ => ?_); rotate_left; clear_value z; revert z; intro _ _; rotate_left; unfold z; clear z; intro _ _ _; beta_reduce)
    | (extract_lets +onlyGivenNames z; clear_value z; revert z; intro _)
    | with_reducible apply kept_suspectUp
    | with_reducible apply kept_bump
    | with_reducible apply kept_dropSample
    | with_reducible apply kept_replaceOutput
    | with_reducible apply kept_setRegs
    | with_reducible apply kept_raise
    | with_reducible apply Kept.ite
    | with_reducible apply Kept.ite₂
    | split
    | with_reducible apply_assumption

theorem kept_completePass {q : List Instr} {s : State} {w : Nat} {kind : PassKind} {errs : List Sys2Proof.WordFlip} (hs : Kept q s) :
    Kept q (State.completePass s w kind errs) := by
  unfold State.completePass
  repeat' first
    | with_reducible assumption
    | with_reducible apply kept_decodeFails
    | with_reducible apply kept_passDone
    | split

theorem kept_seekDensity_eq {q : List Instr} {w : Nat} {a : List (Nat × Int × Int)} {a2 : State} (ha2 : Kept q a2) {s' : State} {x'} (e' : State.seekDensity w a a2 = (s', x')) :
    Kept q s' := by
  induction a generalizing w a2 with
  | nil =>
    unfold State.seekDensity at e'
    repeat' first
      | with_reducible assumption
      | ((with_reducible refine Kept.of_pair ?_ e'); clear e')
  | cons y l ih =>
    unfold State.seekDensity at e'
    repeat' first
      | with_reducible assumption
      | (extract_lets +onlyGivenNames z at e'; clear_value z; revert z; intro _ e')
      | split at e'
      | refine ih ?_ (by with_reducible assumption)
      | with_reducible apply kept_needTile
      | with_reducible apply kept_zeroDensity
      | with_reducible apply kept_wantBin
      | ((with_reducible refine Kept.of_pair ?_ e'); clear e')

theorem kept_seekDensity {q : List Instr} {w : Nat} {a : List (Nat × Int × Int)} {a2 : State} (ha2 : Kept q a2) : Kept q (State.seekDensity w a a2).1 :=
  Kept.of_eq fun _ _ e' => kept_seekDensity_eq ha2 e'

theorem kept_sampleDone {q : List Instr} {s : State} {w : Nat} {p : Pass} {sig : Option Nat} (hs : Kept q s) :
    Kept q (State.sampleDone s w p sig) := by
  unfold State.sampleDone
  repeat' first
    | intro _
    | with_reducible assumption
    | (extract_lets +onlyGivenNames z; guard_hyp z : State := _; refine Kept.cut (x := z) ?_ (fun _ => ?_); rotate_left; clear_value z; revert z; intro _ _; rotate_left; unfold z; clear z)
    | with_reducible apply kept_modWeaver
    | with_reducible apply kept_figTouch
    | with_reducible apply kept_bump
    | with_reducible apply kept_settleSample
    | with_reducible apply kept_voidSample
    | with_reducible apply kept_dropSample
    | with_reducible apply kept_modSample
    | with_reducible apply Kept.ite
    | split

theorem kept_expireSamples {q : List Instr} {s : State} (hs : Kept q s) :
    Kept q (State.expireSamples s) := by
  unfold State.expireSamples
  repeat' first
    | intro _
    | with_reducible assumption
    | with_reducible apply kept_voidSample
    | with_reducible apply kept_settleSample
    | with_reducible apply Kept.ite
    | with_reducible apply Kept.foldl
    | split

theorem kept_giveUp {q : List Instr} {s : State} {w : Nat} {p : Pass} (hs : Kept q s) :
    Kept q (State.giveUp s w p) := by
  unfold State.giveUp
  repeat' first
    | intro _
    | with_reducible assumption
    | (extract_lets +onlyGivenNames z; guard_hyp z : State := _; refine Kept.cut (x := z) ?_ (fun _ => ?_); rotate_left; clear_value z; revert z; intro _ _; rotate_left; unfold z; clear z)
    | with_reducible apply kept_modWeaver
    | with_reducible apply kept_settleSample
    | with_reducible apply kept_voidSample
    | with_reducible apply Kept.ite
    | split

theorem kept_execDensityPassDone {q : List Instr} {w : Nat} {errs : List Sys2Proof.WordFlip} {s : State} (hs : Kept q s) :
    KeptO q (execDensityPassDone w errs s) := by
  unfold execDensityPassDone
  repeat' first
    | with_reducible assumption
    | with_reducible apply kept_finish
    | with_reducible apply kept_completePass

theorem kept_execPixelPassDone {q : List Instr} {w : Nat} {errs : List Sys2Proof.WordFlip} {s : State} (hs : Kept q s) :
    KeptO q (execPixelPassDone w errs s) := by
  unfold execPixelPassDone
  repeat' first
    | with_reducible assumption
    | with_reducible apply kept_finish
    | with_reducible apply kept_completePass

theorem kept_seekWork_eq {q : List Instr} {s : State} {w : Nat} (hs : Kept q s) {s' : State} {x'} (e' : State.seekWork s w = (s', x')) :
    Kept q s' := by
  unfold State.seekWork at e'
  repeat' first
    | with_reducible assumption
    | split at e'
    | refine kept_seekDensity_eq ?_ (by with_reducible assumption)
    | refine kept_seekPixel_eq ?_ (by with_reducible assumption)
    | ((with_reducible refine Kept.of_pair ?_ e'); clear e')

theorem kept_seekWork {q : List Instr} {s : State} {w : Nat} (hs : Kept q s) : Kept q (State.seekWork s w).1 :=
  Kept.of_eq fun _ _ e' => kept_seekWork_eq hs e'

theorem kept_completeSample {q : List Instr} {s : State} {w : Nat} {kind : PassKind} {errs : List Sys2Proof.WordFlip} (hs : Kept q s) :
    Kept q (State.completeSample s w kind errs) := by
  unfold State.completeSample
  repeat' first
    | with_reducible assumption
    | with_reducible apply kept_sampleDone
    | split

theorem kept_execReweaveHoldExpiry {q : List Instr} {t : Nat} {s : State} (hs : Kept q s) :
    KeptO q (execReweaveHoldExpiry t s) := by
  unfold execReweaveHoldExpiry
  repeat' first
    | with_reducible assumption
    | with_reducible apply kept_finish
    | with_reducible apply kept_expireSamples
    | with_reducible apply kept_at_

theorem kept_takePass {q : List Instr} {s : State} {w : Nat} (hs : Kept q s) :
    Kept q (State.takePass s w) := by
  unfold State.takePass
  repeat' first
    | intro _
    | with_reducible assumption
    | (extract_lets +onlyGivenNames z; guard_hyp z : State := _; refine Kept.cut (x := z) ?_ (fun _ => ?_); rotate_left; clear_value z; revert z; intro _ _; rotate_left; unfold z; clear z)
    | (extract_lets +onlyGivenNames z; clear_value z; revert z; intro _)
    | with_reducible apply kept_ensureNext
    | with_reducible apply kept_issuePass
    | with_reducible apply kept_issueSample
    | with_reducible apply kept_giveUp
    | with_reducible apply Kept.ite
    | refine kept_seekWork_eq ?_ (by with_reducible assumption)
    | split

theorem kept_execArbiterDone {q : List Instr} {w : Nat} {errs : List Sys2Proof.WordFlip} {s : State} (hs : Kept q s) :
    KeptO q (execArbiterDone w errs s) := by
  unfold execArbiterDone
  repeat' first
    | with_reducible assumption
    | with_reducible apply kept_finish
    | with_reducible apply kept_completeSample

theorem kept_execReweaveDone {q : List Instr} {w : Nat} {errs : List Sys2Proof.WordFlip} {s : State} (hs : Kept q s) :
    KeptO q (execReweaveDone w errs s) := by
  unfold execReweaveDone
  repeat' first
    | with_reducible assumption
    | with_reducible apply kept_finish
    | with_reducible apply kept_completeSample

theorem kept_execWeaverTakePass {q : List Instr} {w : Nat} {s : State} (hs : Kept q s) :
    KeptO q (execWeaverTakePass w s) := by
  unfold execWeaverTakePass
  repeat' first
    | intro _
    | with_reducible assumption
    | with_reducible apply kept_finish
    | with_reducible apply kept_takePass
    | with_reducible apply Kept.ite

/-! Correction. -/

theorem kept_correctedSlice {q : List Instr} {s : State} {k : Work} {w : Nat} {l : List Nat} (hs : Kept q s) :
    Kept q (State.correctedSlice s k w l) := by
  unfold State.correctedSlice
  repeat' first
    | intro _
    | with_reducible assumption
    | (extract_lets +onlyGivenNames z; guard_hyp z : State := _; refine Kept.cut (x := z) ?_ (fun _ => ?_); rotate_left; clear_value z; revert z; intro _ _; rotate_left; unfold z; clear z)
    | (extract_lets +onlyGivenNames z; clear_value z; revert z; intro _)
    | with_reducible apply kept_modWork
    | with_reducible apply Kept.ite
    | ((with_reducible apply Kept.of); rotate_left; (iterate 6 (with_reducible exact rfl)); with_reducible assumption)
    | split

theorem kept_corHalt {q : List Instr} {s : State} {reason : Nat} {k : Work} {w : Nat} (hs : Kept q s) :
    Kept q (State.corHalt s reason k w) := by
  unfold State.corHalt
  repeat' first
    | with_reducible assumption
    | (extract_lets +onlyGivenNames z; guard_hyp z : State := _; refine Kept.cut (x := z) ?_ (fun _ => ?_); rotate_left; clear_value z; revert z; intro _ _; rotate_left; unfold z; clear z)
    | (extract_lets +onlyGivenNames z; clear_value z; revert z; intro _)
    | with_reducible apply kept_corLog
    | ((with_reducible apply Kept.of); rotate_left; (iterate 6 (with_reducible exact rfl)); with_reducible assumption)

theorem kept_execCorResume {q : List Instr} {s : State} (hs : Kept q s) :
    KeptO q (execCorResume s) := by
  unfold execCorResume
  repeat' first
    | intro _
    | with_reducible assumption
    | (extract_lets +onlyGivenNames z; clear_value z; revert z; intro _)
    | with_reducible apply kept_finish
    | with_reducible apply kept_command
    | ((with_reducible apply Kept.of); rotate_left; (iterate 6 (with_reducible exact rfl)); with_reducible assumption)

theorem kept_corTouch {q : List Instr} {s : State} {k : Work} {pg : Page} {y : Nat} {density : Bool} (hs : Kept q s) :
    Kept q (State.corTouch s k pg y density) := by
  unfold State.corTouch
  repeat' first
    | intro _
    | with_reducible assumption
    | (extract_lets +onlyGivenNames z; guard_hyp z : State := _; refine Kept.cut (x := z) ?_ (fun _ => ?_); rotate_left; clear_value z; revert z; intro _ _; rotate_left; unfold z; clear z)
    | (extract_lets +onlyGivenNames z; clear_value z; revert z; intro _)
    | with_reducible apply kept_touch
    | with_reducible apply Kept.ite
    | with_reducible apply Kept.foldl

theorem kept_prepareDensity {q : List Instr} {s : State} {k : Work} {y : Nat} (hs : Kept q s) :
    Kept q (State.prepareDensity s k y) := by
  unfold State.prepareDensity
  repeat' first
    | intro _
    | with_reducible assumption
    | with_reducible apply kept_rebuildRows
    | with_reducible apply kept_dmapPoison
    | with_reducible apply kept_fillB
    | with_reducible apply Kept.ite
    | split

theorem kept_correctSlice {q : List Instr} {s : State} {k : Work} {b : Bool} {w : Nat} (hs : Kept q s) :
    Kept q (State.correctSlice s k b w) := by
  unfold State.correctSlice
  repeat' first
    | intro _
    | with_reducible assumption
    | (extract_lets +onlyGivenNames z; guard_hyp z : State := _; refine Kept.cut (x := z) ?_ (fun _ => ?_); rotate_left; clear_value z; revert z; intro _ _; rotate_left; unfold z; clear z)
    | (extract_lets +onlyGivenNames z; clear_value z; revert z; intro _)
    | with_reducible apply kept_corHalt
    | with_reducible apply kept_prepareDensity
    | with_reducible apply kept_corTouch
    | with_reducible apply kept_bumpBy
    | with_reducible apply kept_setReg
    | with_reducible apply kept_correctedSlice
    | with_reducible apply Kept.ite
    | ((with_reducible apply Kept.of); rotate_left; (iterate 6 (with_reducible exact rfl)); with_reducible assumption)

theorem kept_execCorrectSlice {q : List Instr} {stripe : Nat} {w : Nat} {s : State} (hs : Kept q s) :
    KeptO q (execCorrectSlice stripe w s) := by
  unfold execCorrectSlice
  repeat' first
    | intro _
    | with_reducible assumption
    | with_reducible apply kept_finish
    | with_reducible apply kept_correctSlice
    | with_reducible apply Kept.ite
    | split

theorem kept_execBindActive {q : List Instr} {s : State} (hs : Kept q s) :
    KeptO q (execBindActive s) := by
  unfold execBindActive
  repeat' first
    | intro _
    | with_reducible assumption
    | (extract_lets +onlyGivenNames z; clear_value z; revert z; intro _)
    | with_reducible apply kept_finish
    | with_reducible apply kept_command
    | with_reducible apply kept_bindNext
    | with_reducible apply Kept.ite
    | ((with_reducible apply Kept.of); rotate_left; (iterate 6 (with_reducible exact rfl)); with_reducible assumption)

theorem kept_execBindNextStripe {q : List Instr} {s : State} (hs : Kept q s) :
    KeptO q (execBindNextStripe s) := by
  unfold execBindNextStripe
  repeat' first
    | with_reducible assumption
    | with_reducible apply kept_finish
    | with_reducible apply kept_bindNext

/-! Staging. -/

theorem kept_modStaged {q : List Instr} {s : State} {n : Nat} {f : Staged → Staged} (hs : Kept q s) :
    Kept q (State.modStaged s n f) := by
  unfold State.modStaged
  repeat' first
    | (extract_lets +onlyGivenNames z; clear_value z; revert z; intro _)
    | ((with_reducible apply Kept.of); rotate_left; (iterate 6 (with_reducible exact rfl)); with_reducible assumption)

theorem kept_setHint {q : List Instr} {s : State} {v : Nat} (hs : Kept q s) :
    Kept q (State.setHint s v) := by
  unfold State.setHint
  repeat' first
    | with_reducible assumption
    | with_reducible apply kept_setReg

theorem kept_groupCoded {q : List Instr} {s : State} {k : Work} {x2 : SliceOut} (hs : Kept q s) :
    Kept q (State.groupCoded s k x2) := by
  unfold State.groupCoded
  repeat' first
    | intro _
    | with_reducible assumption
    | (extract_lets +onlyGivenNames z; guard_hyp z : State := _; refine Kept.cut (x := z) ?_ (fun _ => ?_); rotate_left; clear_value z; revert z; intro _ _; rotate_left; unfold z; clear z)
    | (extract_lets +onlyGivenNames z; clear_value z; revert z; intro _)
    | with_reducible apply kept_modWork
    | with_reducible apply kept_bump
    | with_reducible apply Kept.ite

theorem kept_writeData {q : List Instr} {s : State} {n : Nat} {data : List Sys2Proof.Byte} {chunks : List Nat} (hs : Kept q s) :
    Kept q (State.writeData s n data chunks) := by
  unfold State.writeData
  repeat' first
    | intro _
    | with_reducible assumption
    | (extract_lets +onlyGivenNames z; guard_hyp z : State := _; refine Kept.cut (x := z) ?_ (fun _ => ?_); rotate_left; clear_value z; revert z; intro _ _; rotate_left; unfold z; clear z)
    | (extract_lets +onlyGivenNames z; clear_value z; revert z; intro _)
    | with_reducible apply kept_memWrite
    | with_reducible apply Kept.foldl

theorem kept_releaseHint {q : List Instr} {s : State} (hs : Kept q s) :
    Kept q (State.releaseHint s) := by
  unfold State.releaseHint
  repeat' first
    | intro _
    | with_reducible assumption
    | (extract_lets +onlyGivenNames z; clear_value z; revert z; intro _)
    | with_reducible apply kept_raise
    | with_reducible apply kept_setHint
    | with_reducible apply Kept.ite
    | ((with_reducible apply Kept.of); rotate_left; (iterate 6 (with_reducible exact rfl)); with_reducible assumption)

theorem kept_takeChunk {q : List Instr} {a : Nat} {a1 : State} {a2 : Nat} (ha1 : Kept q a1) :
    Kept q (State.takeChunk a a1 a2) := by
  induction a generalizing a1 a2 with
  | zero =>
    unfold State.takeChunk
    repeat' (with_reducible assumption)
  | succ n ih =>
    unfold State.takeChunk
    repeat' first
      | intro _
      | with_reducible assumption
      | (extract_lets +onlyGivenNames z; guard_hyp z : State := _; refine Kept.cut (x := z) ?_ (fun _ => ?_); rotate_left; clear_value z; revert z; intro _ _; rotate_left; unfold z; clear z)
      | (extract_lets +onlyGivenNames z; clear_value z; revert z; intro _)
      | with_reducible apply ih
      | with_reducible apply kept_memWrite64
      | with_reducible apply Kept.ite
      | ((with_reducible apply Kept.of); rotate_left; (iterate 6 (with_reducible exact rfl)); with_reducible assumption)

theorem kept_projectHint {q : List Instr} {s : State} (hs : Kept q s) :
    Kept q (State.projectHint s) := by
  unfold State.projectHint
  repeat' first
    | intro _
    | with_reducible assumption
    | (extract_lets +onlyGivenNames z; guard_hyp z : State := _; refine Kept.cut (x := z) ?_ (fun _ => ?_); rotate_left; clear_value z; revert z; intro _ _; rotate_left; unfold z; clear z)
    | (extract_lets +onlyGivenNames z; clear_value z; revert z; intro _)
    | with_reducible apply kept_setReg
    | with_reducible apply kept_releaseHint
    | with_reducible apply kept_setHint
    | with_reducible apply kept_raise
    | with_reducible apply kept_bump
    | with_reducible apply Kept.ite
    | ((with_reducible apply Kept.of); rotate_left; (iterate 6 (with_reducible exact rfl)); with_reducible assumption)

theorem kept_takeChunks {q : List Instr} {a : Nat} {a1 : State} {a2 : Nat} (ha1 : Kept q a1) :
    Kept q (State.takeChunks a a1 a2) := by
  induction a generalizing a1 a2 with
  | zero =>
    unfold State.takeChunks
    repeat' (with_reducible assumption)
  | succ n ih =>
    unfold State.takeChunks
    repeat' first
      | intro _
      | with_reducible assumption
      | (extract_lets +onlyGivenNames z; guard_hyp z : State := _; refine Kept.cut (x := z) ?_ (fun _ => ?_); rotate_left; clear_value z; revert z; intro _ _; rotate_left; unfold z; clear z)
      | with_reducible apply ih
      | with_reducible apply kept_takeChunk
      | with_reducible apply Kept.ite

theorem kept_execHintProjection {q : List Instr} {t : Nat} {s : State} (hs : Kept q s) :
    KeptO q (execHintProjection t s) := by
  unfold execHintProjection
  repeat' first
    | with_reducible assumption
    | with_reducible apply kept_finish
    | with_reducible apply kept_projectHint
    | with_reducible apply kept_at_

theorem kept_yieldReplay {q : List Instr} {a : Nat} {a1 : State} (ha1 : Kept q a1) :
    Kept q (State.yieldReplay a a1) := by
  induction a generalizing a1 with
  | zero =>
    unfold State.yieldReplay
    repeat' (with_reducible assumption)
  | succ n ih =>
    unfold State.yieldReplay
    repeat' first
      | intro _
      | with_reducible assumption
      | with_reducible apply ih
      | with_reducible apply kept_bump
      | with_reducible apply kept_releaseTo
      | with_reducible apply Kept.ite
      | split

theorem kept_releaseReplay {q : List Instr} {s : State} (hs : Kept q s) :
    Kept q (State.releaseReplay s) := by
  unfold State.releaseReplay
  repeat' first
    | with_reducible assumption
    | (extract_lets +onlyGivenNames z; clear_value z; revert z; intro _)
    | with_reducible apply kept_releaseTo
    | split

theorem kept_fpPoison {q : List Instr} {s : State} {n : Nat} (hs : Kept q s) :
    Kept q (State.fpPoison s n) := by
  unfold State.fpPoison
  repeat' first
    | intro _
    | with_reducible assumption
    | (extract_lets +onlyGivenNames z; guard_hyp z : State := _; refine Kept.cut (x := z) ?_ (fun _ => ?_); rotate_left; clear_value z; revert z; intro _ _; rotate_left; unfold z; clear z)
    | (extract_lets +onlyGivenNames z; clear_value z; revert z; intro _)
    | with_reducible apply kept_invalidateRows
    | with_reducible apply kept_modStaged
    | with_reducible apply kept_stgLog
    | with_reducible apply Kept.ite
    | ((with_reducible apply Kept.of); rotate_left; (iterate 6 (with_reducible exact rfl)); with_reducible assumption)
    | split

theorem kept_stagingPoison {q : List Instr} {s : State} {n : Nat} {check : Bool} (hs : Kept q s) :
    Kept q (State.stagingPoison s n check) := by
  unfold State.stagingPoison
  repeat' first
    | intro _
    | with_reducible assumption
    | (extract_lets +onlyGivenNames z; guard_hyp z : State := _; refine Kept.cut (x := z) ?_ (fun _ => ?_); rotate_left; clear_value z; revert z; intro _ _; rotate_left; unfold z; clear z)
    | (extract_lets +onlyGivenNames z; clear_value z; revert z; intro _)
    | with_reducible apply kept_raise
    | with_reducible apply kept_bump
    | with_reducible apply kept_stgLog
    | with_reducible apply kept_modStaged
    | with_reducible apply kept_invalidateRows
    | with_reducible apply Kept.ite
    | split

theorem kept_yields {q : List Instr} {s : State} (hs : Kept q s) :
    Kept q (State.yields s) := by
  unfold State.yields
  repeat' first
    | with_reducible assumption
    | with_reducible apply kept_yieldReplay

theorem kept_expand {q : List Instr} {s : State} {n : Nat} (hs : Kept q s) :
    Kept q (State.expand s n) := by
  unfold State.expand
  repeat' first
    | intro _
    | with_reducible assumption
    | (extract_lets +onlyGivenNames z; guard_hyp z : State := _; refine Kept.cut (x := z) ?_ (fun _ => ?_); rotate_left; clear_value z; revert z; intro _ _; rotate_left; unfold z; clear z)
    | (extract_lets +onlyGivenNames z; clear_value z; revert z; intro _)
    | with_reducible apply kept_touch
    | with_reducible apply kept_stagingPoison
    | with_reducible apply kept_modStaged
    | with_reducible apply kept_memWrite
    | with_reducible apply Kept.ite
    | with_reducible apply Kept.foldl
    | ((with_reducible apply Kept.of); rotate_left; (iterate 6 (with_reducible exact rfl)); with_reducible assumption)
    | split

theorem kept_codeSlice {q : List Instr} {s : State} {k : Work} {nb : Nat} {x3 : SliceOut} (hs : Kept q s) :
    Kept q (State.codeSlice s k nb x3) := by
  unfold State.codeSlice
  repeat' first
    | intro _
    | with_reducible assumption
    | (extract_lets +onlyGivenNames z; guard_hyp z : State := _; refine Kept.cut (x := z) ?_ (fun _ => ?_); rotate_left; clear_value z; revert z; intro _ _; rotate_left; unfold z; clear z)
    | (extract_lets +onlyGivenNames z; clear_value z; revert z; intro _)
    | with_reducible apply kept_groupCoded
    | with_reducible apply kept_yields
    | with_reducible apply kept_takeChunks
    | with_reducible apply kept_bump
    | with_reducible apply kept_memWrite
    | with_reducible apply kept_writeData
    | with_reducible apply kept_bumpBy
    | with_reducible apply kept_stgLog
    | with_reducible apply kept_releaseHint
    | with_reducible apply Kept.ite
    | ((with_reducible apply Kept.of); rotate_left; (iterate 6 (with_reducible exact rfl)); with_reducible assumption)

theorem kept_execExpandSlice {q : List Instr} {n : Nat} {s : State} (hs : Kept q s) :
    KeptO q (execExpandSlice n s) := by
  unfold execExpandSlice
  repeat' first
    | with_reducible assumption
    | with_reducible apply kept_finish
    | with_reducible apply kept_expand

theorem kept_encode {q : List Instr} {s : State} {id : Nat} {w : Nat} (hs : Kept q s) :
    Kept q (State.encode s id w) := by
  unfold State.encode
  repeat' first
    | intro _
    | with_reducible assumption
    | with_reducible apply kept_codeSlice
    | with_reducible apply Kept.ite
    | split

theorem kept_execSliceCoded {q : List Instr} {stripe : Nat} {w : Nat} {s : State} (hs : Kept q s) :
    KeptO q (execSliceCoded stripe w s) := by
  unfold execSliceCoded
  repeat' first
    | with_reducible assumption
    | with_reducible apply kept_finish
    | with_reducible apply kept_encode
    | split

theorem kept_execEncoderResume {q : List Instr} {s : State} (hs : Kept q s) :
    KeptO q (execEncoderResume s) := by
  unfold execEncoderResume
  repeat' first
    | with_reducible assumption
    | with_reducible apply kept_finish
    | with_reducible apply kept_encode
    | split

end Sys2Proof.Laws
end

