-- ==== Sys2Proof/Laws/KeptRun.lean ====
section
/-! SUPPORT. What the beam feed's ledger, the bound run and the memory channels keep: one lemma for each operation and each command (see Kept). -/

namespace Sys2Proof.Laws

open Sys2Proof.Machine

/-! Run. -/

theorem kept_sendBlocks {q : List Instr} {s : State} {bs : List (Nat × Nat)} (hs : Kept q s) :
    Kept q (State.sendBlocks s bs) := by
  unfold State.sendBlocks
  repeat' first
    | (extract_lets +onlyGivenNames z; clear_value z; revert z; intro _)
    | ((with_reducible apply Kept.of); rotate_left; (iterate 6 (with_reducible exact rfl)); with_reducible assumption)

theorem kept_failLane {q : List Instr} {s : State} {p : Nat} {code : Nat} {st : LaneState} (hs : Kept q s) :
    Kept q (State.failLane s p code st) := by
  unfold State.failLane
  repeat' first
    | with_reducible assumption
    | with_reducible apply kept_setReg
    | with_reducible apply kept_modLane

theorem kept_laneLost {q : List Instr} {s : State} {p : Nat} (hs : Kept q s) :
    Kept q (State.laneLost s p) := by
  unfold State.laneLost
  repeat' first
    | with_reducible assumption
    | with_reducible apply kept_histBump

theorem kept_sendEnd {q : List Instr} {s : State} (hs : Kept q s) :
    Kept q (State.sendEnd s) := by
  unfold State.sendEnd
  repeat' first
    | intro _
    | with_reducible assumption
    | (extract_lets +onlyGivenNames z; guard_hyp z : State := _; refine Kept.cut (x := z) ?_ (fun _ => ?_); rotate_left; clear_value z; revert z; intro _ _; rotate_left; unfold z; clear z)
    | (extract_lets +onlyGivenNames z; clear_value z; revert z; intro _)
    | with_reducible apply kept_modRun
    | with_reducible apply kept_sendBlocks
    | with_reducible apply Kept.ite
    | ((with_reducible apply Kept.of); rotate_left; (iterate 6 (with_reducible exact rfl)); with_reducible assumption)
    | split

theorem kept_trkLog {q : List Instr} {s : State} {code : Nat} {stop : Bool} (hs : Kept q s) :
    Kept q (State.trkLog s code stop) := by
  unfold State.trkLog
  repeat' first
    | with_reducible assumption
    | with_reducible apply kept_setRegs

theorem kept_lnkLog {q : List Instr} {s : State} {code : Nat} {lane : Nat} {llane : Nat} (hs : Kept q s) :
    Kept q (State.lnkLog s code lane llane) := by
  unfold State.lnkLog
  repeat' first
    | with_reducible assumption
    | with_reducible apply kept_setRegs
    | with_reducible apply kept_bump

theorem kept_nakCount {q : List Instr} {s : State} {p : Nat} (hs : Kept q s) :
    Kept q (State.nakCount s p) := by
  unfold State.nakCount
  repeat' first
    | with_reducible assumption
    | with_reducible apply kept_laneLost
    | with_reducible apply kept_bump

theorem kept_laneDown {q : List Instr} {s : State} {l : Nat} {p : Nat} (hs : Kept q s) :
    Kept q (State.laneDown s l p) := by
  unfold State.laneDown
  repeat' first
    | (extract_lets +onlyGivenNames z; clear_value z; revert z; intro _)
    | with_reducible apply kept_lnkLog
    | ((with_reducible apply Kept.of); rotate_left; (iterate 6 (with_reducible exact rfl)); with_reducible assumption)

theorem kept_retireLane {q : List Instr} {s : State} {p : Nat} (hs : Kept q s) :
    Kept q (State.retireLane s p) := by
  unfold State.retireLane
  repeat' first
    | with_reducible assumption
    | with_reducible apply kept_withyChange
    | with_reducible apply kept_modLane

theorem kept_writeEntry {q : List Instr} {s : State} {r : Run} {es : List HoleEntry} (hs : Kept q s) :
    Kept q (State.writeEntry s r es) := by
  unfold State.writeEntry
  repeat' first
    | with_reducible assumption
    | with_reducible apply kept_setReg
    | with_reducible apply kept_memWrite
    | split

theorem kept_swapOut {q : List Instr} {s : State} {p : Nat} (hs : Kept q s) :
    Kept q (State.swapOut s p) := by
  unfold State.swapOut
  repeat' first
    | intro _
    | with_reducible assumption
    | (extract_lets +onlyGivenNames z; guard_hyp z : State := _; refine Kept.cut (x := z) ?_ (fun _ => ?_); rotate_left; clear_value z; revert z; intro _ _; rotate_left; unfold z; clear z)
    | (extract_lets +onlyGivenNames z; clear_value z; revert z; intro _)
    | with_reducible apply kept_withyChange
    | with_reducible apply kept_retireLane
    | with_reducible apply Kept.ite

theorem kept_addShots {q : List Instr} {s : State} {n : Nat} (hs : Kept q s) :
    Kept q (State.addShots s n) := by
  unfold State.addShots
  repeat' first
    | intro _
    | with_reducible assumption
    | with_reducible apply kept_once
    | with_reducible apply kept_modRun
    | with_reducible apply kept_bumpBy
    | with_reducible apply kept_raise
    | with_reducible apply Kept.ite

theorem kept_bmfLog {q : List Instr} {s : State} {reason : Nat} {quad : Nat} {tick : Nat} (hs : Kept q s) :
    Kept q (State.bmfLog s reason quad tick) := by
  unfold State.bmfLog
  repeat' first
    | with_reducible assumption
    | with_reducible apply kept_raise
    | with_reducible apply kept_setRegs
    | with_reducible apply kept_bump

theorem kept_addShort {q : List Instr} {s : State} {n : Nat} (hs : Kept q s) :
    Kept q (State.addShort s n) := by
  unfold State.addShort
  repeat' first
    | intro _
    | with_reducible assumption
    | with_reducible apply kept_once
    | with_reducible apply kept_modRun
    | with_reducible apply kept_bumpBy
    | with_reducible apply kept_raise
    | with_reducible apply Kept.ite

theorem kept_giveSpare {q : List Instr} {s : State} {l : Nat} {p : Nat} {sp : Nat} (hs : Kept q s) :
    Kept q (State.giveSpare s l p sp) := by
  unfold State.giveSpare
  repeat' first
    | with_reducible assumption
    | (extract_lets +onlyGivenNames z; guard_hyp z : State := _; refine Kept.cut (x := z) ?_ (fun _ => ?_); rotate_left; clear_value z; revert z; intro _ _; rotate_left; unfold z; clear z)
    | (extract_lets +onlyGivenNames z; clear_value z; revert z; intro _)
    | (extract_lets +onlyGivenNames z; revert z; intro _)
    | with_reducible apply kept_modLane
    | with_reducible apply kept_sendBlocks
    | with_reducible apply kept_raise
    | with_reducible apply kept_swapOut
    | with_reducible apply kept_bump
    | split

theorem kept_takeShorts {q : List Instr} {s : State} {m : HoleMark} (hs : Kept q s) :
    Kept q (State.takeShorts s m) := by
  unfold State.takeShorts
  repeat' first
    | (extract_lets +onlyGivenNames z; clear_value z; revert z; intro _)
    | with_reducible apply kept_addShort
    | ((with_reducible apply Kept.of); rotate_left; (iterate 6 (with_reducible exact rfl)); with_reducible assumption)

theorem kept_holeRaw {q : List Instr} {s : State} {c : HoleCause} {k : Nat} {r0 : Nat} {r1 : Nat} (hs : Kept q s) :
    Kept q (State.holeRaw s c k r0 r1) := by
  unfold State.holeRaw
  repeat' first
    | intro _
    | with_reducible assumption
    | (extract_lets +onlyGivenNames z; guard_hyp z : State := _; refine Kept.cut (x := z) ?_ (fun _ => ?_); rotate_left; clear_value z; revert z; intro _ _; rotate_left; unfold z; clear z)
    | (extract_lets +onlyGivenNames z; clear_value z; revert z; intro _)
    | with_reducible apply kept_takeShorts
    | with_reducible apply kept_addShots
    | with_reducible apply kept_writeEntry
    | with_reducible apply kept_modRun
    | with_reducible apply Kept.ite
    | ((with_reducible apply Kept.of); rotate_left; (iterate 6 (with_reducible exact rfl)); with_reducible assumption)
    | split

theorem kept_truncateAt {q : List Instr} {s : State} {r : Run} {src : Nat} {t : Int} {stop : Bool} (hs : Kept q s) :
    Kept q (State.truncateAt s r src t stop) := by
  unfold State.truncateAt
  repeat' first
    | intro _
    | with_reducible assumption
    | (extract_lets +onlyGivenNames z; guard_hyp z : State := _; refine Kept.cut (x := z) ?_ (fun _ => ?_); rotate_left; clear_value z; revert z; intro _ _; rotate_left; unfold z; clear z)
    | (extract_lets +onlyGivenNames z; clear_value z; revert z; intro _)
    | with_reducible apply kept_setRegs
    | with_reducible apply kept_bump
    | with_reducible apply kept_modRun
    | with_reducible apply kept_takeShorts
    | with_reducible apply kept_addShots
    | with_reducible apply kept_sendEnd
    | with_reducible apply Kept.ite
    | ((with_reducible apply Kept.of); rotate_left; (iterate 6 (with_reducible exact rfl)); with_reducible assumption)

theorem kept_closeRun {q : List Instr} {s : State} {r : Run} {ending : Nat} (hs : Kept q s) :
    Kept q (State.closeRun s r ending) := by
  unfold State.closeRun
  repeat' first
    | with_reducible assumption
    | (extract_lets +onlyGivenNames z; guard_hyp z : State := _; refine Kept.cut (x := z) ?_ (fun _ => ?_); rotate_left; clear_value z; revert z; intro _ _; rotate_left; unfold z; clear z)
    | (extract_lets +onlyGivenNames z; clear_value z; revert z; intro _)
    | with_reducible apply kept_releaseHint
    | with_reducible apply kept_tellRunEnd
    | with_reducible apply kept_trigger
    | ((with_reducible apply Kept.of); rotate_left; (iterate 6 (with_reducible exact rfl)); with_reducible assumption)

theorem kept_endRun {q : List Instr} {s : State} (hs : Kept q s) :
    Kept q (State.endRun s) := by
  unfold State.endRun
  repeat' first
    | intro _
    | with_reducible assumption
    | (extract_lets +onlyGivenNames z; guard_hyp z : State := _; refine Kept.cut (x := z) ?_ (fun _ => ?_); rotate_left; clear_value z; revert z; intro _ _; rotate_left; unfold z; clear z)
    | (extract_lets +onlyGivenNames z; clear_value z; revert z; intro _)
    | with_reducible apply kept_writeEntry
    | with_reducible apply kept_modRun
    | with_reducible apply kept_memWrite
    | with_reducible apply kept_modWork
    | with_reducible apply kept_keepPasses
    | with_reducible apply kept_sweepWorks
    | with_reducible apply kept_closeRun
    | with_reducible apply Kept.ite
    | ((with_reducible apply Kept.of); rotate_left; (iterate 6 (with_reducible exact rfl)); with_reducible assumption)
    | split

theorem kept_abandonRun {q : List Instr} {s : State} {r : Run} {src : Nat} (hs : Kept q s) :
    Kept q (State.abandonRun s r src) := by
  unfold State.abandonRun
  repeat' first
    | with_reducible assumption
    | (extract_lets +onlyGivenNames z; guard_hyp z : State := _; refine Kept.cut (x := z) ?_ (fun _ => ?_); rotate_left; clear_value z; revert z; intro _ _; rotate_left; unfold z; clear z)
    | with_reducible apply kept_next
    | with_reducible apply kept_setRegs
    | with_reducible apply kept_bump
    | with_reducible apply kept_abandonWork
    | with_reducible apply kept_closeRun
    | split

theorem kept_truncate {q : List Instr} {s : State} {src : Nat} {t : Run → Int} {stop : Bool} (hs : Kept q s) :
    Kept q (State.truncate s src t stop) := by
  unfold State.truncate
  repeat' first
    | intro _
    | with_reducible assumption
    | with_reducible apply kept_abandonRun
    | with_reducible apply kept_truncateAt
    | with_reducible apply Kept.ite
    | split

theorem kept_condition {q : List Instr} {s : State} {code : Nat} {same : optParam Bool Bool.false} (hs : Kept q s) :
    Kept q (State.condition s code same) := by
  unfold State.condition
  repeat' first
    | intro _
    | with_reducible assumption
    | (extract_lets +onlyGivenNames z; guard_hyp z : State := _; refine Kept.cut (x := z) ?_ (fun _ => ?_); rotate_left; clear_value z; revert z; intro _ _; rotate_left; unfold z; clear z)
    | (extract_lets +onlyGivenNames z; clear_value z; revert z; intro _)
    | with_reducible apply kept_raise
    | with_reducible apply kept_trkLog
    | with_reducible apply kept_setReg64
    | with_reducible apply kept_truncate
    | with_reducible apply kept_modRun
    | with_reducible apply Kept.ite
    | split

theorem kept_truncateNow {q : List Instr} {s : State} {src : Nat} (hs : Kept q s) :
    Kept q (State.truncateNow s src) := by
  unfold State.truncateNow
  repeat' first
    | with_reducible assumption
    | with_reducible apply kept_truncate

theorem kept_hole {q : List Instr} {s : State} {c : HoleCause} {k : Nat} {r0 : Nat} {r1 : Nat} (hs : Kept q s) :
    Kept q (State.hole s c k r0 r1) := by
  unfold State.hole
  repeat' first
    | intro _
    | with_reducible assumption
    | (extract_lets +onlyGivenNames z; guard_hyp z : State := _; refine Kept.cut (x := z) ?_ (fun _ => ?_); rotate_left; clear_value z; revert z; intro _ _; rotate_left; unfold z; clear z)
    | with_reducible apply kept_holeRaw
    | with_reducible apply kept_once
    | with_reducible apply kept_truncateNow
    | with_reducible apply kept_raise
    | with_reducible apply kept_bmfLog
    | with_reducible apply Kept.ite
    | split

theorem kept_frameLost {q : List Instr} {s : State} {l : Nat} {k : Nat} {rows : List (Nat × Nat)} (hs : Kept q s) :
    Kept q (State.frameLost s l k rows) := by
  unfold State.frameLost
  repeat' first
    | intro _
    | with_reducible assumption
    | (extract_lets +onlyGivenNames z; guard_hyp z : State := _; refine Kept.cut (x := z) ?_ (fun _ => ?_); rotate_left; clear_value z; revert z; intro _ _; rotate_left; unfold z; clear z)
    | (extract_lets +onlyGivenNames z; clear_value z; revert z; intro _)
    | with_reducible apply kept_bump
    | with_reducible apply kept_hole
    | with_reducible apply kept_once
    | with_reducible apply kept_raise
    | with_reducible apply Kept.foldl
    | ((with_reducible apply Kept.of); rotate_left; (iterate 6 (with_reducible exact rfl)); with_reducible assumption)

theorem kept_loseAll {q : List Instr} {s : State} {l : Nat} {p : Nat} (hs : Kept q s) :
    Kept q (State.loseAll s l p) := by
  unfold State.loseAll
  repeat' first
    | intro _
    | with_reducible assumption
    | with_reducible apply kept_frameLost
    | with_reducible apply kept_nakCount
    | with_reducible apply Kept.foldl

theorem kept_laneFault {q : List Instr} {s : State} {p : Nat} {code : Nat} (hs : Kept q s) :
    Kept q (State.laneFault s p code) := by
  unfold State.laneFault
  repeat' first
    | intro _
    | with_reducible assumption
    | (extract_lets +onlyGivenNames z; guard_hyp z : State := _; refine Kept.cut (x := z) ?_ (fun _ => ?_); rotate_left; clear_value z; revert z; intro _ _; rotate_left; unfold z; clear z)
    | (extract_lets +onlyGivenNames z; clear_value z; revert z; intro _)
    | with_reducible apply kept_failLane
    | with_reducible apply kept_loseAll
    | with_reducible apply kept_raise
    | with_reducible apply kept_lnkLog
    | with_reducible apply kept_laneDown
    | with_reducible apply kept_giveSpare
    | with_reducible apply kept_truncateNow
    | with_reducible apply Kept.ite
    | ((with_reducible apply Kept.of); rotate_left; (iterate 6 (with_reducible exact rfl)); with_reducible assumption)
    | split

theorem kept_frameNak {q : List Instr} {s : State} {l : Nat} {k : Nat} {rows : List (Nat × Nat)} (hs : Kept q s) :
    Kept q (State.frameNak s l k rows) := by
  unfold State.frameNak
  repeat' first
    | intro _
    | with_reducible assumption
    | (extract_lets +onlyGivenNames z; guard_hyp z : State := _; refine Kept.cut (x := z) ?_ (fun _ => ?_); rotate_left; clear_value z; revert z; intro _ _; rotate_left; unfold z; clear z)
    | with_reducible apply kept_frameLost
    | with_reducible apply kept_nakCount
    | with_reducible apply kept_modLane
    | with_reducible apply kept_laneFault
    | with_reducible apply Kept.ite
    | split

theorem kept_lateFrames {q : List Instr} {s : State} {k : Nat} (hs : Kept q s) :
    Kept q (State.lateFrames s k) := by
  unfold State.lateFrames
  repeat' first
    | intro _
    | with_reducible assumption
    | (extract_lets +onlyGivenNames z; guard_hyp z : State := _; refine Kept.cut (x := z) ?_ (fun _ => ?_); rotate_left; clear_value z; revert z; intro _ _; rotate_left; unfold z; clear z)
    | with_reducible apply kept_frameLost
    | with_reducible apply kept_bump
    | with_reducible apply kept_modLane
    | with_reducible apply kept_laneLost
    | with_reducible apply kept_laneFault
    | with_reducible apply Kept.ite
    | with_reducible apply Kept.foldl
    | split

/-! Channels. -/

theorem kept_advanceScrub {q : List Instr} {s : State} {l : Nat} (hs : Kept q s) :
    Kept q (State.advanceScrub s l) := by
  unfold State.advanceScrub
  repeat' first
    | intro _
    | (extract_lets +onlyGivenNames z; guard_hyp z : Dram := _; revert z; intro _)
    | (extract_lets +onlyGivenNames z; clear_value z; revert z; intro _)
    | with_reducible apply Kept.ite
    | ((with_reducible apply Kept.of); rotate_left; (iterate 6 (with_reducible exact rfl)); with_reducible assumption)

theorem kept_passWatch {q : List Instr} {s : State} {l : Nat} {b : Nat} {before : List Watch} (hs : Kept q s) :
    Kept q (State.passWatch s l b before) := by
  unfold State.passWatch
  repeat' first
    | (extract_lets +onlyGivenNames z; guard_hyp z : Dram := _; revert z; intro _)
    | (extract_lets +onlyGivenNames z; clear_value z; revert z; intro _)
    | ((with_reducible apply Kept.of); rotate_left; (iterate 6 (with_reducible exact rfl)); with_reducible assumption)

theorem kept_refreshDue {q : List Instr} {s : State} {p : Nat} {pc : Nat} {busy : Bool} (hs : Kept q s) :
    Kept q (State.refreshDue s p pc busy) := by
  unfold State.refreshDue
  repeat' first
    | intro _
    | with_reducible assumption
    | (extract_lets +onlyGivenNames z; clear_value z; revert z; intro _)
    | with_reducible apply kept_modChan
    | with_reducible apply kept_bump
    | with_reducible apply Kept.ite

theorem kept_promoteScrub {q : List Instr} {s : State} {l : Nat} (hs : Kept q s) :
    Kept q (State.promoteScrub s l) := by
  unfold State.promoteScrub
  repeat' first
    | intro _
    | with_reducible assumption
    | (extract_lets +onlyGivenNames z; guard_hyp z : Dram := _; revert z; intro _)
    | (extract_lets +onlyGivenNames z; clear_value z; revert z; intro _)
    | with_reducible apply kept_eccLog
    | with_reducible apply Kept.ite
    | ((with_reducible apply Kept.of); rotate_left; (iterate 6 (with_reducible exact rfl)); with_reducible assumption)

theorem kept_countFence {q : List Instr} {s : State} {p : Nat} (hs : Kept q s) :
    Kept q (State.countFence s p) := by
  unfold State.countFence
  repeat' first
    | with_reducible assumption
    | with_reducible apply kept_withyChange

theorem kept_failChan {q : List Instr} {s : State} {p : Nat} (hs : Kept q s) :
    Kept q (State.failChan s p) := by
  unfold State.failChan
  repeat' first
    | with_reducible assumption
    | with_reducible apply kept_withyChange
    | with_reducible apply kept_modChan

theorem kept_autoRetire {q : List Instr} {s : State} {n : Nat} (hs : Kept q s) :
    Kept q (State.autoRetire s n) := by
  unfold State.autoRetire
  repeat' first
    | intro _
    | with_reducible assumption
    | (extract_lets +onlyGivenNames z; clear_value z; revert z; intro _)
    | with_reducible apply kept_bump
    | with_reducible apply kept_eccLog
    | with_reducible apply kept_takeReplacement
    | with_reducible apply Kept.ite
    | split

theorem kept_moveTo {q : List Instr} {s : State} {p : Nat} {sp : Nat} {l : Nat} (hs : Kept q s) :
    Kept q (State.moveTo s p sp l) := by
  unfold State.moveTo
  repeat' first
    | with_reducible assumption
    | (extract_lets +onlyGivenNames z; guard_hyp z : State := _; refine Kept.cut (x := z) ?_ (fun _ => ?_); rotate_left; clear_value z; revert z; intro _ _; rotate_left; unfold z; clear z)
    | (extract_lets +onlyGivenNames z; guard_hyp z : Dram := _; revert z; intro _)
    | with_reducible apply kept_failChan
    | with_reducible apply kept_modChan
    | ((with_reducible apply Kept.of); rotate_left; (iterate 6 (with_reducible exact rfl)); with_reducible assumption)

theorem kept_jobUe {q : List Instr} {s : State} {n : Nat} (hs : Kept q s) :
    Kept q (State.jobUe s n) := by
  unfold State.jobUe
  repeat' first
    | intro _
    | with_reducible assumption
    | (extract_lets +onlyGivenNames z; clear_value z; revert z; intro _)
    | with_reducible apply kept_memWrite64
    | with_reducible apply Kept.ite

theorem kept_execRefreshDue {q : List Instr} {p : Nat} {pc : Nat} {busy : Bool} {s : State} (hs : Kept q s) :
    KeptO q (execRefreshDue p pc busy s) := by
  unfold execRefreshDue
  repeat' first
    | intro _
    | with_reducible assumption
    | with_reducible apply kept_finish
    | with_reducible apply kept_refreshDue
    | with_reducible apply Kept.ite

theorem kept_execWritebackQueue {q : List Instr} {p : Nat} {s : State} (hs : Kept q s) :
    KeptO q (execWritebackQueue p s) := by
  unfold execWritebackQueue
  repeat' first
    | intro _
    | with_reducible assumption
    | (extract_lets +onlyGivenNames z; guard_hyp z : State := _; refine Kept.cut (x := z) ?_ (fun _ => ?_); rotate_left; clear_value z; revert z; intro _ _; rotate_left; unfold z; clear z)
    | (extract_lets +onlyGivenNames z; guard_hyp z : Dram := _; revert z; intro _)
    | with_reducible apply kept_finish
    | with_reducible apply kept_writeBack
    | with_reducible apply Kept.ite
    | ((with_reducible apply Kept.of); rotate_left; (iterate 6 (with_reducible exact rfl)); with_reducible assumption)
    | split

theorem kept_execMemChRetire {q : List Instr} {p : Nat} {s : State} (hs : Kept q s) :
    KeptO q (execMemChRetire p s) := by
  unfold execMemChRetire
  repeat' first
    | intro _
    | with_reducible assumption
    | with_reducible apply kept_finish
    | with_reducible apply kept_command
    | with_reducible apply kept_onlyIn
    | with_reducible apply kept_withyChange
    | with_reducible apply kept_modChan
    | with_reducible apply kept_violation
    | with_reducible apply Kept.ite

theorem kept_execEccFlipArm {q : List Instr} {v : Sys2Proof.Word} {s : State} (hs : Kept q s) :
    KeptO q (execEccFlipArm v s) := by
  unfold execEccFlipArm
  repeat' first
    | intro _
    | with_reducible assumption
    | with_reducible apply kept_finish
    | with_reducible apply kept_command
    | with_reducible apply kept_onlyIn
    | with_reducible apply kept_setReg
    | with_reducible apply Kept.ite

theorem kept_execPprGo {q : List Instr} {v : Sys2Proof.Word} {s : State} (hs : Kept q s) :
    KeptO q (execPprGo v s) := by
  unfold execPprGo
  repeat' first
    | intro _
    | with_reducible assumption
    | (extract_lets +onlyGivenNames z; guard_hyp z : Dram := _; revert z; intro _)
    | with_reducible apply kept_finish
    | with_reducible apply kept_command
    | with_reducible apply kept_violation
    | with_reducible apply kept_setReg
    | with_reducible apply Kept.ite
    | ((with_reducible apply Kept.of); rotate_left; (iterate 6 (with_reducible exact rfl)); with_reducible assumption)

theorem kept_execPprDone {q : List Instr} {code : Nat} {s : State} (hs : Kept q s) :
    KeptO q (execPprDone code s) := by
  unfold execPprDone
  repeat' first
    | intro _
    | with_reducible assumption
    | (extract_lets +onlyGivenNames z; guard_hyp z : State := _; refine KeptO.cut (x := z) ?_ (fun _ => ?_); rotate_left; clear_value z; revert z; intro _ _; rotate_left; unfold z; clear z)
    | (extract_lets +onlyGivenNames z; guard_hyp z : Dram := _; revert z; intro _)
    | with_reducible apply kept_finish
    | with_reducible apply kept_withyChange
    | with_reducible apply kept_setReg
    | with_reducible apply Kept.ite
    | ((with_reducible apply Kept.of); rotate_left; (iterate 6 (with_reducible exact rfl)); with_reducible assumption)
    | split

theorem kept_execEccLogPop {q : List Instr} {v : Sys2Proof.Word} {s : State} (hs : Kept q s) :
    KeptO q (execEccLogPop v s) := by
  unfold execEccLogPop
  repeat' first
    | intro _
    | with_reducible assumption
    | (extract_lets +onlyGivenNames z; guard_hyp z : Dram := _; revert z; intro _)
    | with_reducible apply kept_finish
    | with_reducible apply kept_command
    | with_reducible apply Kept.ite
    | ((with_reducible apply Kept.of); rotate_left; (iterate 6 (with_reducible exact rfl)); with_reducible assumption)

theorem kept_execAgePromotion {q : List Instr} {cls : Sys2Proof.DramClass} {s : State} (hs : Kept q s) :
    KeptO q (execAgePromotion cls s) := by
  unfold execAgePromotion
  repeat' first
    | intro _
    | with_reducible assumption
    | with_reducible apply kept_finish
    | with_reducible apply kept_bump
    | with_reducible apply Kept.ite

theorem kept_execDramPowerDown {q : List Instr} {p : Nat} {pc : Nat} {s : State} (hs : Kept q s) :
    KeptO q (execDramPowerDown p pc s) := by
  unfold execDramPowerDown
  repeat' first
    | intro _
    | with_reducible assumption
    | with_reducible apply kept_finish
    | with_reducible apply kept_modChan
    | with_reducible apply Kept.ite

theorem kept_corrmapUe {q : List Instr} {s : State} {n : Nat} (hs : Kept q s) :
    Kept q (State.corrmapUe s n) := by
  unfold State.corrmapUe
  repeat' first
    | intro _
    | with_reducible assumption
    | with_reducible apply kept_raise
    | with_reducible apply kept_dmapPoison
    | with_reducible apply Kept.foldl
    | split

theorem kept_figureUe {q : List Instr} {s : State} {n : Nat} (hs : Kept q s) :
    Kept q (State.figureUe s n) := by
  unfold State.figureUe
  repeat' first
    | intro _
    | with_reducible assumption
    | (extract_lets +onlyGivenNames z; guard_hyp z : State := _; refine Kept.cut (x := z) ?_ (fun _ => ?_); rotate_left; clear_value z; revert z; intro _ _; rotate_left; unfold z; clear z)
    | (extract_lets +onlyGivenNames z; clear_value z; revert z; intro _)
    | with_reducible apply kept_refetchTile
    | with_reducible apply kept_setRegs
    | with_reducible apply Kept.foldl
    | split

theorem kept_ueByRegion {q : List Instr} {s : State} {n : Nat} (hs : Kept q s) :
    Kept q (State.ueByRegion s n) := by
  unfold State.ueByRegion
  repeat' first
    | intro _
    | with_reducible assumption
    | with_reducible apply kept_autoRetire
    | with_reducible apply kept_stagingPoison
    | with_reducible apply kept_fpPoison
    | with_reducible apply kept_figureUe
    | with_reducible apply kept_corrmapUe
    | with_reducible apply kept_jobUe
    | with_reducible apply Kept.ite
    | with_reducible apply Kept.foldl
    | split

theorem kept_execFenceCopyDone {q : List Instr} {stack : Nat} {s : State} (hs : Kept q s) :
    KeptO q (execFenceCopyDone stack s) := by
  unfold execFenceCopyDone
  repeat' first
    | intro _
    | with_reducible assumption
    | (extract_lets +onlyGivenNames z; guard_hyp z : State := _; refine Kept.cut (x := z) ?_ (fun _ => ?_); rotate_left; clear_value z; revert z; intro _ _; rotate_left; unfold z; clear z)
    | (extract_lets +onlyGivenNames z; clear_value z; revert z; intro _)
    | with_reducible apply kept_finish
    | with_reducible apply kept_ueFound
    | with_reducible apply kept_cleanWord
    | with_reducible apply kept_moveTo
    | with_reducible apply kept_ueByRegion
    | with_reducible apply kept_raise
    | with_reducible apply kept_eccLog
    | with_reducible apply Kept.ite
    | with_reducible apply Kept.foldl
    | split

theorem kept_sweepBeat {q : List Instr} {s : State} {b : Nat} (hs : Kept q s) :
    Kept q (State.sweepBeat s b) := by
  unfold State.sweepBeat
  repeat' first
    | intro _
    | with_reducible assumption
    | (extract_lets +onlyGivenNames z; guard_hyp z : State := _; refine Kept.cut (x := z) ?_ (fun _ => ?_); rotate_left; clear_value z; revert z; intro _ _; rotate_left; unfold z; clear z)
    | with_reducible apply kept_zeroWord
    | with_reducible apply kept_bump
    | with_reducible apply kept_ueByRegion
    | with_reducible apply Kept.foldl

theorem kept_execRebuildSweepDone {q : List Instr} {l : Nat} {s : State} (hs : Kept q s) :
    KeptO q (execRebuildSweepDone l s) := by
  unfold execRebuildSweepDone
  repeat' first
    | intro _
    | with_reducible assumption
    | (extract_lets +onlyGivenNames z; guard_hyp z : State := _; refine Kept.cut (x := z) ?_ (fun _ => ?_); rotate_left; clear_value z; revert z; intro _ _; rotate_left; unfold z; clear z)
    | (extract_lets +onlyGivenNames z; guard_hyp z : Dram := _; revert z; intro _)
    | (extract_lets +onlyGivenNames z; clear_value z; revert z; intro _)
    | with_reducible apply kept_finish
    | with_reducible apply kept_sweepBeat
    | with_reducible apply kept_raise
    | with_reducible apply Kept.foldl
    | ((with_reducible apply Kept.of); rotate_left; (iterate 6 (with_reducible exact rfl)); with_reducible assumption)
    | split

theorem kept_unback {q : List Instr} {s : State} {p : Nat} {l : Nat} {cause : Nat} (hs : Kept q s) :
    Kept q (State.unback s p l cause) := by
  unfold State.unback
  repeat' first
    | with_reducible assumption
    | (extract_lets +onlyGivenNames z; guard_hyp z : State := _; refine Kept.cut (x := z) ?_ (fun _ => ?_); rotate_left; clear_value z; revert z; intro _ _; rotate_left; unfold z; clear z)
    | (extract_lets +onlyGivenNames z; guard_hyp z : Dram := _; revert z; intro _)
    | with_reducible apply kept_failChan
    | with_reducible apply kept_truncateNow
    | with_reducible apply kept_raise
    | with_reducible apply kept_eccLog
    | ((with_reducible apply Kept.of); rotate_left; (iterate 6 (with_reducible exact rfl)); with_reducible assumption)

theorem kept_hardFence {q : List Instr} {s : State} {p : Nat} {cause : Nat} (hs : Kept q s) :
    Kept q (State.hardFence s p cause) := by
  unfold State.hardFence
  repeat' first
    | with_reducible assumption
    | (extract_lets +onlyGivenNames z; guard_hyp z : State := _; refine Kept.cut (x := z) ?_ (fun _ => ?_); rotate_left; clear_value z; revert z; intro _ _; rotate_left; unfold z; clear z)
    | (extract_lets +onlyGivenNames z; guard_hyp z : Dram := _; revert z; intro _)
    | (extract_lets +onlyGivenNames z; clear_value z; revert z; intro _)
    | with_reducible apply kept_countFence
    | with_reducible apply kept_modChan
    | with_reducible apply kept_eccLog
    | with_reducible apply kept_unback
    | with_reducible apply kept_raise
    | with_reducible apply kept_moveTo
    | ((with_reducible apply Kept.of); rotate_left; (iterate 6 (with_reducible exact rfl)); with_reducible assumption)
    | split

theorem kept_plannedFence {q : List Instr} {s : State} {p : Nat} {cause : Nat} (hs : Kept q s) :
    Kept q (State.plannedFence s p cause) := by
  unfold State.plannedFence
  repeat' first
    | intro _
    | with_reducible assumption
    | (extract_lets +onlyGivenNames z; guard_hyp z : State := _; refine Kept.cut (x := z) ?_ (fun _ => ?_); rotate_left; clear_value z; revert z; intro _ _; rotate_left; unfold z; clear z)
    | (extract_lets +onlyGivenNames z; guard_hyp z : Dram := _; revert z; intro _)
    | (extract_lets +onlyGivenNames z; clear_value z; revert z; intro _)
    | with_reducible apply kept_raise
    | with_reducible apply kept_eccLog
    | with_reducible apply kept_countFence
    | with_reducible apply kept_modChan
    | with_reducible apply kept_unback
    | with_reducible apply Kept.ite
    | ((with_reducible apply Kept.of); rotate_left; (iterate 6 (with_reducible exact rfl)); with_reducible assumption)
    | split

theorem kept_execCapar {q : List Instr} {p : Nat} {n : Nat} {s : State} (hs : Kept q s) :
    KeptO q (execCapar p n s) := by
  unfold execCapar
  repeat' first
    | intro _
    | with_reducible assumption
    | (extract_lets +onlyGivenNames z; guard_hyp z : State := _; refine KeptO.cut (x := z) ?_ (fun _ => ?_); rotate_left; clear_value z; revert z; intro _ _; rotate_left; unfold z; clear z)
    | with_reducible apply kept_finish
    | with_reducible apply kept_bumpBy
    | with_reducible apply kept_hardFence
    | with_reducible apply kept_raise
    | with_reducible apply Kept.ite

theorem kept_execReadTimeout {q : List Instr} {p : Nat} {s : State} (hs : Kept q s) :
    KeptO q (execReadTimeout p s) := by
  unfold execReadTimeout
  repeat' first
    | intro _
    | with_reducible assumption
    | with_reducible apply kept_finish
    | with_reducible apply kept_hardFence
    | with_reducible apply Kept.ite

theorem kept_trainChan {q : List Instr} {s : State} {x1 : Sys2Proof.ChanTraining} (hs : Kept q s) :
    Kept q (State.trainChan s x1) := by
  unfold State.trainChan
  repeat' first
    | with_reducible assumption
    | (extract_lets +onlyGivenNames z; guard_hyp z : State := _; refine Kept.cut (x := z) ?_ (fun _ => ?_); rotate_left; clear_value z; revert z; intro _ _; rotate_left; unfold z; clear z)
    | (extract_lets +onlyGivenNames z; clear_value z; revert z; intro _)
    | with_reducible apply kept_modChan
    | with_reducible apply kept_eccLog
    | with_reducible apply kept_hardFence
    | with_reducible apply kept_failChan
    | with_reducible apply kept_withyChange
    | split

theorem kept_burst {q : List Instr} {s : State} {p : Nat} (hs : Kept q s) :
    Kept q (State.burst s p) := by
  unfold State.burst
  repeat' first
    | intro _
    | with_reducible assumption
    | (extract_lets +onlyGivenNames z; clear_value z; revert z; intro _)
    | with_reducible apply kept_hardFence
    | with_reducible apply Kept.ite

theorem kept_plannedCause {q : List Instr} {s : State} {p : Nat} {cause : Nat} (hs : Kept q s) :
    Kept q (State.plannedCause s p cause) := by
  unfold State.plannedCause
  repeat' first
    | intro _
    | with_reducible assumption
    | with_reducible apply kept_plannedFence
    | with_reducible apply kept_raise
    | with_reducible apply kept_eccLog
    | with_reducible apply Kept.ite

theorem kept_execMemChFence {q : List Instr} {p : Nat} {s : State} (hs : Kept q s) :
    KeptO q (execMemChFence p s) := by
  unfold execMemChFence
  repeat' first
    | intro _
    | with_reducible assumption
    | with_reducible apply kept_finish
    | with_reducible apply kept_command
    | with_reducible apply kept_onlyIn
    | with_reducible apply kept_plannedFence
    | with_reducible apply Kept.ite

theorem kept_trainAll {q : List Instr} {s : State} {r : List Sys2Proof.ChanTraining} (hs : Kept q s) :
    Kept q (State.trainAll s r) := by
  unfold State.trainAll
  repeat' first
    | intro _
    | with_reducible assumption
    | (extract_lets +onlyGivenNames z; guard_hyp z : State := _; refine Kept.cut (x := z) ?_ (fun _ => ?_); rotate_left; clear_value z; revert z; intro _ _; rotate_left; unfold z; clear z)
    | (extract_lets +onlyGivenNames z; guard_hyp z : Dram := _; revert z; intro _)
    | with_reducible apply kept_trainChan
    | with_reducible apply kept_raise
    | with_reducible apply Kept.foldl
    | ((with_reducible apply Kept.of); rotate_left; (iterate 6 (with_reducible exact rfl)); with_reducible assumption)

theorem kept_scrubWord {q : List Instr} {s : State} {n : Nat} (hs : Kept q s) :
    Kept q (State.scrubWord s n) := by
  unfold State.scrubWord
  repeat' first
    | intro _
    | with_reducible assumption
    | (extract_lets +onlyGivenNames z; guard_hyp z : State := _; refine Kept.cut (x := z) ?_ (fun _ => ?_); rotate_left; clear_value z; revert z; intro _ _; rotate_left; unfold z; clear z)
    | (extract_lets +onlyGivenNames z; clear_value z; revert z; intro _)
    | with_reducible apply kept_raise
    | with_reducible apply kept_eccLog
    | with_reducible apply kept_ueFound
    | with_reducible apply kept_withyChange
    | with_reducible apply kept_ueByRegion
    | with_reducible apply kept_burst
    | with_reducible apply kept_ceFound
    | with_reducible apply kept_writeBack
    | with_reducible apply Kept.ite
    | split

theorem kept_execDemandReadError {q : List Instr} {a : Nat} {cls : Sys2Proof.DramClass} {dx : Sys2Proof.Dword} {cx : Sys2Proof.Byte} {t : Nat} {s0 : State} (hs0 : Kept q s0) :
    KeptO q (execDemandReadError a cls dx cx t s0) := by
  unfold execDemandReadError
  repeat' first
    | intro _
    | with_reducible assumption
    | (extract_lets +onlyGivenNames z; guard_hyp z : State := _; refine KeptO.cut (x := z) ?_ (fun _ => ?_); rotate_left; clear_value z; revert z; intro _ _; rotate_left; unfold z; clear z)
    | (extract_lets +onlyGivenNames z; clear_value z; revert z; intro _)
    | (extract_lets +onlyGivenNames z; revert z; intro _)
    | with_reducible apply kept_at_
    | with_reducible apply kept_finish
    | with_reducible apply kept_touch
    | with_reducible apply kept_corrmapUe
    | with_reducible apply kept_burst
    | with_reducible apply Kept.ite
    | ((with_reducible apply Kept.of); rotate_left; (iterate 2 (with_reducible exact rfl)); (iterate 4 (first | with_reducible exact rfl | exact rfl)); with_reducible assumption)

theorem kept_recalChan {q : List Instr} {s : State} {m : Sys2Proof.ChanMargins} (hs : Kept q s) :
    Kept q (State.recalChan s m) := by
  unfold State.recalChan
  repeat' first
    | intro _
    | with_reducible assumption
    | (extract_lets +onlyGivenNames z; guard_hyp z : State := _; refine Kept.cut (x := z) ?_ (fun _ => ?_); rotate_left; clear_value z; revert z; intro _ _; rotate_left; unfold z; clear z)
    | (extract_lets +onlyGivenNames z; clear_value z; revert z; intro _)
    | with_reducible apply kept_modChan
    | with_reducible apply kept_plannedCause
    | with_reducible apply Kept.ite

theorem kept_execCeRate {q : List Instr} {p : Nat} {rate : Nat} {s : State} (hs : Kept q s) :
    KeptO q (execCeRate p rate s) := by
  unfold execCeRate
  repeat' first
    | intro _
    | with_reducible assumption
    | with_reducible apply kept_finish
    | with_reducible apply kept_plannedCause
    | with_reducible apply Kept.ite

theorem kept_execMemChRetrain {q : List Instr} {p : Nat} {r : Sys2Proof.ChanTraining} {s : State} (hs : Kept q s) :
    KeptO q (execMemChRetrain p r s) := by
  unfold execMemChRetrain
  repeat' first
    | intro _
    | with_reducible assumption
    | with_reducible apply kept_finish
    | with_reducible apply kept_command
    | with_reducible apply kept_onlyIn
    | with_reducible apply kept_trainAll
    | with_reducible apply Kept.ite

theorem kept_execScrubRead {q : List Instr} {l : Nat} {flips : List Sys2Proof.WordFlip} {t : Nat} {s0 : State} (hs0 : Kept q s0) :
    KeptO q (execScrubRead l flips t s0) := by
  unfold execScrubRead
  repeat' first
    | intro _
    | with_reducible assumption
    | (extract_lets +onlyGivenNames z; guard_hyp z : State := _; refine Kept.cut (x := z) ?_ (fun _ => ?_); rotate_left; clear_value z; revert z; intro _ _; rotate_left; unfold z; clear z)
    | (extract_lets +onlyGivenNames z; guard_hyp z : State := _; refine KeptO.cut (x := z) ?_ (fun _ => ?_); rotate_left; clear_value z; revert z; intro _ _; rotate_left; unfold z; clear z)
    | (extract_lets +onlyGivenNames z; clear_value z; revert z; intro _)
    | with_reducible apply kept_at_
    | with_reducible apply kept_finish
    | with_reducible apply kept_promoteScrub
    | with_reducible apply kept_scrubWord
    | with_reducible apply kept_passWatch
    | with_reducible apply kept_advanceScrub
    | with_reducible apply Kept.ite
    | with_reducible apply Kept.foldl
    | ((with_reducible apply Kept.of); rotate_left; (iterate 2 (with_reducible exact rfl)); (iterate 4 (first | with_reducible exact rfl | exact rfl)); with_reducible assumption)
    | split

theorem kept_execDramRecalPeriodic {q : List Instr} {p : Nat} {m : Sys2Proof.ChanMargins} {s : State} (hs : Kept q s) :
    KeptO q (execDramRecalPeriodic p m s) := by
  unfold execDramRecalPeriodic
  repeat' first
    | intro _
    | with_reducible assumption
    | with_reducible apply kept_finish
    | with_reducible apply kept_recalChan
    | with_reducible apply Kept.ite

end Sys2Proof.Laws
end

