-- ==== Sys2Proof/Laws/KeptStores.lean ====
section
/-! SUPPORT. What the recorder and the rings keep: one lemma for each operation and each command (see Kept). -/

namespace Sys2Proof.Laws

open Sys2Proof.Machine

/-! Recorder. -/

theorem kept_inventoryGrow {q : List Instr} {s : State} {n : Nat} (hs : Kept q s) :
    Kept q (State.inventoryGrow s n) := by
  unfold State.inventoryGrow
  repeat' first
    | intro _
    | (extract_lets +onlyGivenNames z; clear_value z; revert z; intro _)
    | with_reducible apply Kept.ite
    | ((with_reducible apply Kept.of); rotate_left; (iterate 6 (with_reducible exact rfl)); with_reducible assumption)

theorem kept_startFetch {q : List Instr} {s : State} {region : Nat} {seq : Nat} (hs : Kept q s) :
    Kept q (State.startFetch s region seq) := by
  unfold State.startFetch
  repeat' first
    | (extract_lets +onlyGivenNames z; clear_value z; revert z; intro _)
    | ((with_reducible apply Kept.of); rotate_left; (iterate 6 (with_reducible exact rfl)); with_reducible assumption)

theorem kept_histSecond {q : List Instr} {s : State} {power : Nat} (hs : Kept q s) :
    Kept q (State.histSecond s power) := by
  unfold State.histSecond
  repeat' first
    | intro _
    | with_reducible assumption
    | (extract_lets +onlyGivenNames z; guard_hyp z : State := _; refine Kept.cut (x := z) ?_ (fun _ => ?_); rotate_left; clear_value z; revert z; intro _ _; rotate_left; unfold z; clear z)
    | (extract_lets +onlyGivenNames z; clear_value z; revert z; intro _)
    | with_reducible apply kept_histBump
    | with_reducible apply Kept.ite
    | with_reducible apply Kept.foldl

theorem kept_inventoryPut {q : List Instr} {s : State} {e : InvEntry} (hs : Kept q s) :
    Kept q (State.inventoryPut s e) := by
  unfold State.inventoryPut
  repeat' first
    | with_reducible assumption
    | (extract_lets +onlyGivenNames z; guard_hyp z : State := _; refine Kept.cut (x := z) ?_ (fun _ => ?_); rotate_left; clear_value z; revert z; intro _ _; rotate_left; unfold z; clear z)
    | (extract_lets +onlyGivenNames z; clear_value z; revert z; intro _)
    | with_reducible apply kept_inventoryGrow
    | ((with_reducible apply Kept.of); rotate_left; (iterate 6 (with_reducible exact rfl)); with_reducible assumption)

theorem kept_checkpoint {q : List Instr} {s : State} (hs : Kept q s) :
    Kept q (State.checkpoint s) := by
  unfold State.checkpoint
  repeat' first
    | with_reducible assumption
    | (extract_lets +onlyGivenNames z; guard_hyp z : State := _; refine Kept.cut (x := z) ?_ (fun _ => ?_); rotate_left; clear_value z; revert z; intro _ _; rotate_left; unfold z; clear z)
    | (extract_lets +onlyGivenNames z; clear_value z; revert z; intro _)
    | with_reducible apply kept_inventoryGrow
    | ((with_reducible apply Kept.of); rotate_left; (iterate 6 (with_reducible exact rfl)); with_reducible assumption)

theorem kept_autoNext {q : List Instr} {s : State} (hs : Kept q s) :
    Kept q (State.autoNext s) := by
  unfold State.autoNext
  repeat' first
    | intro _
    | with_reducible assumption
    | (extract_lets +onlyGivenNames z; clear_value z; revert z; intro _)
    | with_reducible apply kept_startFetch
    | with_reducible apply Kept.ite

theorem kept_inventoryAll {q : List Instr} {s : State} (hs : Kept q s) :
    Kept q (State.inventoryAll s) := by
  unfold State.inventoryAll
  repeat' first
    | intro _
    | with_reducible assumption
    | (extract_lets +onlyGivenNames z; clear_value z; revert z; intro _)
    | with_reducible apply kept_inventoryPut
    | with_reducible apply Kept.foldl
    | ((with_reducible apply Kept.of); rotate_left; (iterate 6 (with_reducible exact rfl)); with_reducible assumption)

theorem kept_replaceSector {q : List Instr} {s : State} {n : Nat} (hs : Kept q s) {s' : State} {x'} (e' : State.replaceSector s n = some (s', x')) :
    Kept q s' := by
  unfold State.replaceSector at e'
  repeat' first
    | (extract_lets +onlyGivenNames z at e'; clear_value z; revert z; intro _ e')
    | split at e'
    | (with_reducible exact absurd e'.symm (Option.some_ne_none _))
    | with_reducible apply kept_inventoryAll
    | with_reducible apply kept_withyChange
    | ((with_reducible refine Kept.of_some ?_ e'); clear e')
    | ((with_reducible apply Kept.of); rotate_left; (iterate 6 (with_reducible exact rfl)); with_reducible assumption)

theorem kept_eraseSector {q : List Instr} {s : State} {n : Nat} (hs : Kept q s) :
    Kept q (State.eraseSector s n) := by
  unfold State.eraseSector
  repeat' first
    | intro _
    | with_reducible assumption
    | (extract_lets +onlyGivenNames z; guard_hyp z : State := _; refine Kept.cut (x := z) ?_ (fun _ => ?_); rotate_left; clear_value z; revert z; intro _ _; rotate_left; unfold z; clear z)
    | (extract_lets +onlyGivenNames z; clear_value z; revert z; intro _)
    | with_reducible apply kept_trigger
    | with_reducible apply Kept.ite
    | refine kept_replaceSector ?_ (by with_reducible assumption)
    | ((with_reducible apply Kept.of); rotate_left; (iterate 6 (with_reducible exact rfl)); with_reducible assumption)
    | split

theorem kept_sectorFault_eq {q : List Instr} {s : State} {n : Nat} (hs : Kept q s) {s' : State} {x'} (e' : State.sectorFault s n = (s', x')) :
    Kept q s' := by
  unfold State.sectorFault at e'
  repeat' first
    | with_reducible assumption
    | (extract_lets +onlyGivenNames z at e'; guard_hyp z : State := _; refine Kept.cut (x := z) ?_ (fun _ => ?_); rotate_left; clear_value z; revert z; intro _ e' _; rotate_left; unfold z; clear e'; clear z)
    | (extract_lets +onlyGivenNames z at e'; clear_value z; revert z; intro _ e')
    | split at e'
    | with_reducible apply kept_raise
    | with_reducible apply kept_setReg
    | refine kept_replaceSector ?_ (by with_reducible assumption)
    | ((with_reducible refine Kept.of_pair ?_ e'); clear e')
    | ((with_reducible apply Kept.of); rotate_left; (iterate 6 (with_reducible exact rfl)); with_reducible assumption)

theorem kept_sectorFault {q : List Instr} {s : State} {n : Nat} (hs : Kept q s) : Kept q (State.sectorFault s n).1 :=
  Kept.of_eq fun _ _ e' => kept_sectorFault_eq hs e'

theorem kept_rollingRoom {q : List Instr} {s : State} (hs : Kept q s) :
    Kept q (State.rollingRoom s) := by
  unfold State.rollingRoom
  repeat' first
    | intro _
    | with_reducible assumption
    | (extract_lets +onlyGivenNames z; clear_value z; revert z; intro _)
    | with_reducible apply kept_eraseSector
    | with_reducible apply Kept.ite
    | split

theorem kept_refreshSector {q : List Instr} {s : State} {n : Nat} {verifyOk : Bool} (hs : Kept q s) :
    Kept q (State.refreshSector s n verifyOk) := by
  unfold State.refreshSector
  repeat' first
    | intro _
    | with_reducible assumption
    | (extract_lets +onlyGivenNames z; guard_hyp z : State := _; refine Kept.cut (x := z) ?_ (fun _ => ?_); rotate_left; clear_value z; revert z; intro _ _; rotate_left; unfold z; clear z)
    | (extract_lets +onlyGivenNames z; clear_value z; revert z; intro _)
    | with_reducible apply kept_trigger
    | with_reducible apply kept_sectorFault
    | with_reducible apply Kept.ite
    | refine kept_replaceSector ?_ (by with_reducible assumption)
    | ((with_reducible apply Kept.of); rotate_left; (iterate 6 (with_reducible exact rfl)); with_reducible assumption)
    | split

theorem kept_execSnap {q : List Instr} {s : State} (hs : Kept q s) :
    KeptO q (execSnap s) := by
  unfold execSnap
  repeat' first
    | intro _
    | with_reducible assumption
    | with_reducible apply kept_finish
    | with_reducible apply kept_command
    | with_reducible apply kept_trigger

theorem kept_execInventoryCommit {q : List Instr} {progOk : Bool} {s : State} (hs : Kept q s) :
    KeptO q (execInventoryCommit progOk s) := by
  unfold execInventoryCommit
  repeat' first
    | intro _
    | with_reducible assumption
    | (extract_lets +onlyGivenNames z; guard_hyp z : State → State := _; refine Kept.cutF (f := z) ?_ (fun _ => ?_); rotate_left; clear_value z; revert z; intro _ _; rotate_left; unfold z; clear z; intro _ _; beta_reduce)
    | (extract_lets +onlyGivenNames z; clear_value z; revert z; intro _)
    | with_reducible apply kept_finish
    | with_reducible apply kept_inventoryPut
    | with_reducible apply kept_sectorFault
    | with_reducible apply Kept.ite
    | ((with_reducible apply Kept.of); rotate_left; (iterate 6 (with_reducible exact rfl)); with_reducible assumption)
    | split
    | with_reducible apply_assumption

theorem kept_execOperatingSecond {q : List Instr} {power : Nat} {s : State} (hs : Kept q s) :
    KeptO q (execOperatingSecond power s) := by
  unfold execOperatingSecond
  repeat' first
    | intro _
    | with_reducible assumption
    | (extract_lets +onlyGivenNames z; guard_hyp z : State := _; refine KeptO.cut (x := z) ?_ (fun _ => ?_); rotate_left; clear_value z; revert z; intro _ _; rotate_left; unfold z; clear z)
    | (extract_lets +onlyGivenNames z; clear_value z; revert z; intro _)
    | with_reducible apply kept_finish
    | with_reducible apply kept_setReg
    | with_reducible apply kept_histSecond
    | with_reducible apply Kept.ite
    | ((with_reducible apply Kept.of); rotate_left; (iterate 6 (with_reducible exact rfl)); with_reducible assumption)

theorem kept_execAgeTrigger {q : List Instr} {s : State} (hs : Kept q s) :
    KeptO q (execAgeTrigger s) := by
  unfold execAgeTrigger
  repeat' first
    | intro _
    | with_reducible assumption
    | (extract_lets +onlyGivenNames z; clear_value z; revert z; intro _)
    | with_reducible apply kept_finish
    | with_reducible apply kept_trigger
    | with_reducible apply Kept.ite
    | ((with_reducible apply Kept.of); rotate_left; (iterate 6 (with_reducible exact rfl)); with_reducible assumption)

theorem kept_execAutoInc {q : List Instr} {s : State} (hs : Kept q s) :
    KeptO q (execAutoInc s) := by
  unfold execAutoInc
  repeat' first
    | intro _
    | with_reducible assumption
    | with_reducible apply kept_finish
    | with_reducible apply kept_offAccess
    | with_reducible apply kept_autoNext
    | with_reducible apply Kept.ite
    | ((with_reducible apply Kept.of); rotate_left; (iterate 6 (with_reducible exact rfl)); with_reducible assumption)

theorem kept_execHistogramCheckpoint {q : List Instr} {s : State} (hs : Kept q s) :
    KeptO q (execHistogramCheckpoint s) := by
  unfold execHistogramCheckpoint
  repeat' first
    | intro _
    | with_reducible assumption
    | with_reducible apply kept_finish
    | with_reducible apply kept_checkpoint
    | with_reducible apply Kept.ite

theorem kept_execCursorFetch {q : List Instr} {v : Sys2Proof.Word} {s : State} (hs : Kept q s) :
    KeptO q (execCursorFetch v s) := by
  unfold execCursorFetch
  repeat' first
    | intro _
    | with_reducible assumption
    | (extract_lets +onlyGivenNames z; guard_hyp z : State := _; refine Kept.cut (x := z) ?_ (fun _ => ?_); rotate_left; clear_value z; revert z; intro _ _; rotate_left; unfold z; clear z)
    | with_reducible apply kept_finish
    | with_reducible apply kept_command
    | with_reducible apply kept_setReg
    | with_reducible apply kept_startFetch

theorem kept_execCursorFetchDone {q : List Instr} {s : State} (hs : Kept q s) :
    KeptO q (execCursorFetchDone s) := by
  unfold execCursorFetchDone
  repeat' first
    | intro _
    | with_reducible assumption
    | (extract_lets +onlyGivenNames z; clear_value z; revert z; intro _)
    | with_reducible apply kept_finish
    | with_reducible apply Kept.ite
    | ((with_reducible apply Kept.of); rotate_left; (iterate 6 (with_reducible exact rfl)); with_reducible assumption)
    | split

theorem kept_commitTo {q : List Instr} {s : State} {n : Nat} {x2 : Record} (hs : Kept q s) :
    Kept q (State.commitTo s n x2) := by
  unfold State.commitTo
  repeat' first
    | with_reducible apply kept_rollingRoom
    | with_reducible apply kept_raise
    | ((with_reducible apply Kept.of); rotate_left; (iterate 6 (with_reducible exact rfl)); with_reducible assumption)

theorem kept_execRetentionCheck {q : List Instr} {sector : Nat} {marginOk : Bool} {verifyOk : Bool} {s : State} (hs : Kept q s) :
    KeptO q (execRetentionCheck sector marginOk verifyOk s) := by
  unfold execRetentionCheck
  repeat' first
    | intro _
    | with_reducible assumption
    | (extract_lets +onlyGivenNames z; clear_value z; revert z; intro _)
    | with_reducible apply kept_finish
    | with_reducible apply kept_refreshSector
    | with_reducible apply Kept.ite
    | ((with_reducible apply Kept.of); rotate_left; (iterate 6 (with_reducible exact rfl)); with_reducible assumption)

theorem kept_commitNext {q : List Instr} {s : State} {progOk : Bool} (hs : Kept q s) :
    Kept q (State.commitNext s progOk) := by
  unfold State.commitNext
  repeat' first
    | intro _
    | with_reducible assumption
    | (extract_lets +onlyGivenNames z; clear_value z; revert z; intro _)
    | with_reducible apply kept_commitTo
    | with_reducible apply Kept.ite
    | refine kept_sectorFault_eq ?_ (by with_reducible assumption)
    | split

theorem kept_execRecordCommit {q : List Instr} {progOk : Bool} {s : State} (hs : Kept q s) :
    KeptO q (execRecordCommit progOk s) := by
  unfold execRecordCommit
  repeat' first
    | intro _
    | with_reducible assumption
    | with_reducible apply kept_finish
    | with_reducible apply kept_commitNext
    | with_reducible apply Kept.ite

theorem kept_commitAll {q : List Instr} {s : State} {a : Nat} (hs : Kept q s) :
    Kept q (State.commitAll s a) := by
  induction a generalizing s with
  | zero =>
    unfold State.commitAll
    repeat' (with_reducible assumption)
  | succ n ih =>
    unfold State.commitAll
    repeat' first
      | intro _
      | with_reducible assumption
      | with_reducible apply ih
      | with_reducible apply kept_commitNext
      | with_reducible apply kept_inventoryAll
      | with_reducible apply Kept.ite

theorem kept_shrink {q : List Instr} {s : State} (hs : Kept q s) :
    Kept q (State.shrink s) := by
  unfold State.shrink
  repeat' first
    | intro _
    | with_reducible assumption
    | (extract_lets +onlyGivenNames z; guard_hyp z : State := _; refine Kept.cut (x := z) ?_ (fun _ => ?_); rotate_left; clear_value z; revert z; intro _ _; rotate_left; unfold z; clear z)
    | (extract_lets +onlyGivenNames z; clear_value z; revert z; intro _)
    | with_reducible apply kept_commitAll
    | with_reducible apply Kept.ite
    | refine kept_replaceSector ?_ (by with_reducible assumption)
    | ((with_reducible apply Kept.of); rotate_left; (iterate 6 (with_reducible exact rfl)); with_reducible assumption)
    | split

theorem kept_execShrink {q : List Instr} {s : State} (hs : Kept q s) :
    KeptO q (execShrink s) := by
  unfold execShrink
  repeat' first
    | intro _
    | with_reducible assumption
    | with_reducible apply kept_finish
    | with_reducible apply kept_command
    | with_reducible apply kept_onlyIn
    | with_reducible apply kept_violation
    | with_reducible apply kept_shrink
    | with_reducible apply Kept.ite

/-! Rings. -/

theorem kept_abandonEntries {q : List Instr} {s : State} {r : Nat} {left : Nat} (hs : Kept q s) :
    Kept q (State.abandonEntries s r left) := by
  unfold State.abandonEntries
  repeat' first
    | (extract_lets +onlyGivenNames z; guard_hyp z : Hst := _; revert z; intro _)
    | ((with_reducible apply Kept.of); rotate_left; (iterate 6 (with_reducible exact rfl)); with_reducible assumption)

theorem kept_portReset {q : List Instr} {s : State} {kind : Sys2Proof.PortReset} (hs : Kept q s) :
    Kept q (State.portReset s kind) :=
  Kept.ofMaps hs rfl (smWf_resetHostRegs hs.regs) hs.cells hs.host (smWf_filter _ hs.rings)

theorem kept_resumeRing {q : List Instr} {s : State} {r : Nat} (hs : Kept q s) :
    Kept q (State.resumeRing s r) := by
  unfold State.resumeRing
  repeat' first
    | with_reducible assumption
    | (extract_lets +onlyGivenNames z; clear_value z; revert z; intro _)
    | with_reducible apply kept_setRing

theorem kept_enableWrite {q : List Instr} {s : State} {hi : Bool} {v : Nat} (hs : Kept q s) :
    Kept q (State.enableWrite s hi v) := by
  unfold State.enableWrite
  repeat' first
    | intro _
    | with_reducible assumption
    | (extract_lets +onlyGivenNames z; guard_hyp z : State := _; refine Kept.cut (x := z) ?_ (fun _ => ?_); rotate_left; clear_value z; revert z; intro _ _; rotate_left; unfold z; clear z)
    | (extract_lets +onlyGivenNames z; clear_value z; revert z; intro _)
    | with_reducible apply kept_setReg
    | with_reducible apply kept_owe
    | with_reducible apply kept_unowe
    | with_reducible apply Kept.ite
    | with_reducible apply Kept.foldl

theorem kept_pendClear {q : List Instr} {s : State} {hi : Bool} {v : Nat} (hs : Kept q s) :
    Kept q (State.pendClear s hi v) := by
  unfold State.pendClear
  repeat' first
    | intro _
    | with_reducible assumption
    | with_reducible apply kept_unowe
    | with_reducible apply kept_setField
    | with_reducible apply Kept.ite
    | with_reducible apply Kept.foldl

theorem kept_rxTrim {q : List Instr} {s : State} (hs : Kept q s) :
    Kept q (State.rxTrim s) := by
  unfold State.rxTrim
  repeat' first
    | (extract_lets +onlyGivenNames z; clear_value z; revert z; intro _)
    | with_reducible apply kept_bumpBy
    | ((with_reducible apply Kept.of); rotate_left; (iterate 6 (with_reducible exact rfl)); with_reducible assumption)

theorem kept_ringBell {q : List Instr} {s : State} {r : Nat} {v : Nat} (hs : Kept q s) :
    Kept q (State.ringBell s r v) := by
  unfold State.ringBell
  repeat' first
    | intro _
    | with_reducible assumption
    | (extract_lets +onlyGivenNames z; clear_value z; revert z; intro _)
    | with_reducible apply kept_setRing
    | with_reducible apply kept_setReg
    | with_reducible apply kept_bump
    | with_reducible apply Kept.ite

theorem kept_enableRing {q : List Instr} {s : State} {r : Nat} {v : Nat} (hs : Kept q s) :
    Kept q (State.enableRing s r v) := by
  unfold State.enableRing
  repeat' first
    | intro _
    | with_reducible assumption
    | (extract_lets +onlyGivenNames z; guard_hyp z : State := _; refine Kept.cut (x := z) ?_ (fun _ => ?_); rotate_left; clear_value z; revert z; intro _ _; rotate_left; unfold z; clear z)
    | (extract_lets +onlyGivenNames z; clear_value z; revert z; intro _)
    | with_reducible apply kept_violation
    | with_reducible apply kept_setField
    | with_reducible apply kept_setReg
    | with_reducible apply kept_setRing
    | with_reducible apply Kept.ite

theorem kept_bar2Write {q : List Instr} {s : State} {page : Nat} {off : Nat} {be : Nat} {v : Nat} (hs : Kept q s) :
    Kept q (State.bar2Write s page off be v) := by
  unfold State.bar2Write
  repeat' first
    | intro _
    | with_reducible assumption
    | with_reducible apply kept_violation
    | with_reducible apply kept_ringBell
    | with_reducible apply Kept.ite

theorem kept_setSources {q : List Instr} {s : State} {hi : Bool} {v : Nat} (hs : Kept q s) :
    Kept q (State.setSources s hi v) := by
  unfold State.setSources
  repeat' first
    | intro _
    | with_reducible assumption
    | with_reducible apply kept_raiseN
    | with_reducible apply Kept.foldl

theorem kept_execIrqSet {q : List Instr} {hi : Bool} {v : Sys2Proof.Word} {s : State} (hs : Kept q s) :
    KeptO q (execIrqSet hi v s) := by
  unfold execIrqSet
  repeat' first
    | intro _
    | with_reducible assumption
    | with_reducible apply kept_finish
    | with_reducible apply kept_command
    | with_reducible apply kept_setSources

theorem kept_execIrqPendClear {q : List Instr} {hi : Bool} {v : Sys2Proof.Word} {s : State} (hs : Kept q s) :
    KeptO q (execIrqPendClear hi v s) := by
  unfold execIrqPendClear
  repeat' first
    | intro _
    | with_reducible assumption
    | with_reducible apply kept_finish
    | with_reducible apply kept_command
    | with_reducible apply kept_pendClear

theorem kept_execHostPortReset {q : List Instr} {kind : Sys2Proof.PortReset} {s : State} (hs : Kept q s) :
    KeptO q (execHostPortReset kind s) := by
  unfold execHostPortReset
  repeat' first
    | with_reducible assumption
    | with_reducible apply kept_finish
    | with_reducible apply kept_portReset

theorem kept_execIrqEnableWrite {q : List Instr} {hi : Bool} {v : Sys2Proof.Word} {s : State} (hs : Kept q s) :
    KeptO q (execIrqEnableWrite hi v s) := by
  unfold execIrqEnableWrite
  repeat' first
    | intro _
    | with_reducible assumption
    | with_reducible apply kept_finish
    | with_reducible apply kept_command
    | with_reducible apply kept_enableWrite

theorem kept_execDoorbell {q : List Instr} {page : Nat} {off : Nat} {be : Nat} {v : Sys2Proof.Word} {s : State} (hs : Kept q s) :
    KeptO q (execDoorbell page off be v s) := by
  unfold execDoorbell
  repeat' first
    | with_reducible assumption
    | with_reducible apply kept_finish
    | with_reducible apply kept_bar2Write

theorem kept_execRingResume {q : List Instr} {ring : Nat} {s : State} (hs : Kept q s) :
    KeptO q (execRingResume ring s) := by
  unfold execRingResume
  repeat' first
    | intro _
    | with_reducible assumption
    | with_reducible apply kept_finish
    | with_reducible apply kept_command
    | with_reducible apply kept_resumeRing
    | with_reducible apply Kept.ite

theorem kept_execIrqMessageSend {q : List Instr} {v : Sys2Proof.Word} {s : State} (hs : Kept q s) :
    KeptO q (execIrqMessageSend v s) := by
  unfold execIrqMessageSend
  repeat' first
    | intro _
    | with_reducible assumption
    | (extract_lets +onlyGivenNames z; guard_hyp z : State := _; refine KeptO.cut (x := z) ?_ (fun _ => ?_); rotate_left; clear_value z; revert z; intro _ _; rotate_left; unfold z; clear z)
    | (extract_lets +onlyGivenNames z; guard_hyp z : Hst := _; revert z; intro _)
    | (extract_lets +onlyGivenNames z; clear_value z; revert z; intro _)
    | with_reducible apply kept_finish
    | with_reducible apply kept_bump
    | with_reducible apply kept_unowe
    | with_reducible apply Kept.ite
    | ((with_reducible apply Kept.of); rotate_left; (iterate 6 (with_reducible exact rfl)); with_reducible assumption)

theorem kept_resetRing {q : List Instr} {s : State} {r : Nat} (hs : Kept q s) :
    Kept q (State.resetRing s r) := by
  unfold State.resetRing
  repeat' first
    | intro _
    | with_reducible assumption
    | (extract_lets +onlyGivenNames z; guard_hyp z : State := _; refine Kept.cut (x := z) ?_ (fun _ => ?_); rotate_left; clear_value z; revert z; intro _ _; rotate_left; unfold z; clear z)
    | (extract_lets +onlyGivenNames z; clear_value z; revert z; intro _)
    | with_reducible apply kept_abandonEntries
    | with_reducible apply kept_setRing
    | with_reducible apply kept_doReset
    | with_reducible apply kept_settleBarriers
    | with_reducible apply kept_rxTrim
    | with_reducible apply Kept.ite
    | ((with_reducible apply Kept.of); rotate_left; (iterate 6 (with_reducible exact rfl)); with_reducible assumption)

theorem kept_rxServe {q : List Instr} {s : State} (hs : Kept q s) :
    Kept q (State.rxServe s) := by
  unfold State.rxServe
  repeat' first
    | intro _
    | with_reducible assumption
    | (extract_lets +onlyGivenNames z; guard_hyp z : State := _; refine Kept.cut (x := z) ?_ (fun _ => ?_); rotate_left; clear_value z; revert z; intro _ _; rotate_left; unfold z; clear z)
    | (extract_lets +onlyGivenNames z; clear_value z; revert z; intro _)
    | with_reducible apply kept_hostWrite
    | with_reducible apply kept_answer
    | with_reducible apply Kept.ite
    | ((with_reducible apply Kept.of); rotate_left; (iterate 6 (with_reducible exact rfl)); with_reducible assumption)
    | split

theorem kept_releaseHeld {q : List Instr} {s : State} (hs : Kept q s) :
    Kept q (State.releaseHeld s) := by
  unfold State.releaseHeld
  repeat' first
    | intro _
    | with_reducible assumption
    | with_reducible apply kept_answer
    | with_reducible apply Kept.foldl
    | split

theorem kept_disableRing {q : List Instr} {s : State} {r : Nat} {v : Nat} (hs : Kept q s) :
    Kept q (State.disableRing s r v) := by
  unfold State.disableRing
  repeat' first
    | intro _
    | with_reducible assumption
    | (extract_lets +onlyGivenNames z; guard_hyp z : State := _; refine Kept.cut (x := z) ?_ (fun _ => ?_); rotate_left; clear_value z; revert z; intro _ _; rotate_left; unfold z; clear z)
    | (extract_lets +onlyGivenNames z; clear_value z; revert z; intro _)
    | with_reducible apply kept_violation
    | with_reducible apply kept_resetRing
    | with_reducible apply kept_setField
    | with_reducible apply kept_setReg
    | with_reducible apply Kept.ite

theorem kept_execRingReset {q : List Instr} {ring : Nat} {s : State} (hs : Kept q s) :
    KeptO q (execRingReset ring s) := by
  unfold execRingReset
  repeat' first
    | intro _
    | with_reducible assumption
    | with_reducible apply kept_finish
    | with_reducible apply kept_command
    | with_reducible apply kept_resetRing
    | with_reducible apply Kept.ite

theorem kept_takeEntry {q : List Instr} {s : State} {r : Nat} {b : List Sys2Proof.Byte} (hs : Kept q s) :
    Kept q (State.takeEntry s r b) := by
  unfold State.takeEntry
  repeat' first
    | intro _
    | with_reducible assumption
    | (extract_lets +onlyGivenNames z; guard_hyp z : State := _; refine Kept.cut (x := z) ?_ (fun _ => ?_); rotate_left; clear_value z; revert z; intro _ _; rotate_left; unfold z; clear z)
    | (extract_lets +onlyGivenNames z; guard_hyp z : Hst := _; revert z; intro _)
    | (extract_lets +onlyGivenNames z; clear_value z; revert z; intro _)
    | with_reducible apply kept_setRing
    | with_reducible apply kept_rejectMalformed
    | with_reducible apply kept_refuse
    | with_reducible apply kept_rxServe
    | with_reducible apply Kept.ite
    | ((with_reducible apply Kept.of); rotate_left; (iterate 6 (with_reducible exact rfl)); with_reducible assumption)
    | split

theorem kept_execBusMasterEnable {q : List Instr} {on : Bool} {s : State} (hs : Kept q s) :
    KeptO q (execBusMasterEnable on s) := by
  unfold execBusMasterEnable
  repeat' first
    | intro _
    | with_reducible assumption
    | (extract_lets +onlyGivenNames z; guard_hyp z : State := _; refine KeptO.cut (x := z) ?_ (fun _ => ?_); rotate_left; clear_value z; revert z; intro _ _; rotate_left; unfold z; clear z)
    | (extract_lets +onlyGivenNames z; guard_hyp z : Hst := _; revert z; intro _)
    | with_reducible apply kept_finish
    | with_reducible apply kept_rxServe
    | with_reducible apply kept_releaseHeld
    | with_reducible apply Kept.ite
    | ((with_reducible apply Kept.of); rotate_left; (iterate 6 (with_reducible exact rfl)); with_reducible assumption)

theorem kept_writeRingCfg {q : List Instr} {s : State} {r : Nat} {v : Nat} (hs : Kept q s) :
    Kept q (State.writeRingCfg s r v) := by
  unfold State.writeRingCfg
  repeat' first
    | intro _
    | with_reducible assumption
    | with_reducible apply kept_enableRing
    | with_reducible apply kept_disableRing
    | with_reducible apply Kept.ite

theorem kept_fetched {q : List Instr} {s : State} {r : Nat} {e : Sys2Proof.EntryRead} (hs : Kept q s) :
    Kept q (State.fetched s r e) := by
  unfold State.fetched
  repeat' first
    | intro _
    | with_reducible assumption
    | (extract_lets +onlyGivenNames z; clear_value z; revert z; intro _)
    | with_reducible apply kept_settleBarriers
    | with_reducible apply kept_haltRing
    | with_reducible apply kept_setRing
    | with_reducible apply kept_takeEntry
    | with_reducible apply Kept.ite
    | split

theorem kept_execRingDisable {q : List Instr} {ring : Nat} {v : Sys2Proof.Word} {s : State} (hs : Kept q s) :
    KeptO q (execRingDisable ring v s) := by
  unfold execRingDisable
  repeat' first
    | intro _
    | with_reducible assumption
    | with_reducible apply kept_finish
    | with_reducible apply kept_command
    | with_reducible apply kept_writeRingCfg
    | with_reducible apply Kept.ite

theorem kept_execRingEnable {q : List Instr} {ring : Nat} {v : Sys2Proof.Word} {s : State} (hs : Kept q s) :
    KeptO q (execRingEnable ring v s) := by
  unfold execRingEnable
  repeat' first
    | intro _
    | with_reducible assumption
    | with_reducible apply kept_finish
    | with_reducible apply kept_command
    | with_reducible apply kept_writeRingCfg
    | with_reducible apply Kept.ite

theorem kept_execEntryFetch {q : List Instr} {ring : Nat} {e : Sys2Proof.EntryRead} {s : State} (hs : Kept q s) :
    KeptO q (execEntryFetch ring e s) := by
  unfold execEntryFetch
  repeat' first
    | intro _
    | with_reducible assumption
    | with_reducible apply kept_finish
    | with_reducible apply kept_fetched
    | with_reducible apply Kept.ite

theorem kept_execPhaseRefetch {q : List Instr} {ring : Nat} {e : Sys2Proof.EntryRead} {s : State} (hs : Kept q s) :
    KeptO q (execPhaseRefetch ring e s) := by
  unfold execPhaseRefetch
  repeat' first
    | intro _
    | with_reducible assumption
    | with_reducible apply kept_finish
    | with_reducible apply kept_fetched
    | with_reducible apply Kept.ite

end Sys2Proof.Laws
end

