-- ==== Sys2Proof/Laws/KeptTicks.lean ====
section
/-! SUPPORT. What ticks, frames and the plate keep: one lemma for each operation and each command (see Kept). -/

namespace Sys2Proof.Laws

open Sys2Proof.Machine

/-! Ticks. -/

theorem kept_modAxis {q : List Instr} {s : State} {x1 : Sys2Proof.AxisName} {f : Axis → Axis} (hs : Kept q s) :
    Kept q (State.modAxis s x1 f) := by
  unfold State.modAxis
  repeat' first
    | (extract_lets +onlyGivenNames z; clear_value z; revert z; intro _)
    | ((with_reducible apply Kept.of); rotate_left; (iterate 6 (with_reducible exact rfl)); with_reducible assumption)
    | split

theorem kept_stopFree {q : List Instr} {s : State} (hs : Kept q s) :
    Kept q (State.stopFree s) := by
  unfold State.stopFree
  repeat' first
    | (extract_lets +onlyGivenNames z; clear_value z; revert z; intro _)
    | ((with_reducible apply Kept.of); rotate_left; (iterate 6 (with_reducible exact rfl)); with_reducible assumption)

theorem kept_readOffsets {q : List Instr} {s : State} {b : Bool} (hs : Kept q s) :
    Kept q (State.readOffsets s b) := by
  unfold State.readOffsets
  repeat' first
    | with_reducible assumption
    | (extract_lets +onlyGivenNames z; clear_value z; revert z; intro _)
    | with_reducible apply kept_modRun

theorem kept_noteBelow {q : List Instr} {s : State} {c : Nat} (hs : Kept q s) :
    Kept q (State.noteBelow s c) := by
  unfold State.noteBelow
  repeat' first
    | intro _
    | with_reducible assumption
    | with_reducible apply kept_modRun
    | with_reducible apply Kept.ite
    | split

theorem kept_presetNow {q : List Instr} {s : State} {axis : Sys2Proof.AxisName} (hs : Kept q s) :
    Kept q (State.presetNow s axis) := by
  unfold State.presetNow
  repeat' first
    | with_reducible assumption
    | with_reducible apply kept_modAxis

theorem kept_presetIdx {q : List Instr} {s : State} {axis : Sys2Proof.AxisName} (hs : Kept q s) :
    Kept q (State.presetIdx s axis) := by
  unfold State.presetIdx
  repeat' first
    | with_reducible assumption
    | with_reducible apply kept_modAxis

theorem kept_countTick {q : List Instr} {s : State} {t64 : Nat} {dt : Option Nat} (hs : Kept q s) :
    Kept q (State.countTick s t64 dt) := by
  unfold State.countTick
  repeat' first
    | with_reducible assumption
    | (extract_lets +onlyGivenNames z; guard_hyp z : State := _; refine Kept.cut (x := z) ?_ (fun _ => ?_); rotate_left; clear_value z; revert z; intro _ _; rotate_left; unfold z; clear z)
    | (extract_lets +onlyGivenNames z; clear_value z; revert z; intro _)
    | with_reducible apply kept_setReg64
    | with_reducible apply kept_setReg
    | ((with_reducible apply Kept.of); rotate_left; (iterate 6 (with_reducible exact rfl)); with_reducible assumption)
    | split

theorem kept_anchorCommand {q : List Instr} {s : State} {v : Nat} {f : State → State} (hs : Kept q s) (hf : ∀ (x0 : State), Kept q x0 → Kept q (f x0)) :
    Kept q (State.anchorCommand s v f) := by
  unfold State.anchorCommand
  repeat' first
    | intro _
    | with_reducible assumption
    | with_reducible apply hf
    | with_reducible apply kept_command
    | with_reducible apply kept_violation
    | with_reducible apply Kept.ite

theorem kept_capture {q : List Instr} {s : State} {n : Nat} {t : Nat} (hs : Kept q s) :
    Kept q (State.capture s n t) := by
  unfold State.capture
  repeat' first
    | intro _
    | with_reducible assumption
    | (extract_lets +onlyGivenNames z; clear_value z; revert z; intro _)
    | with_reducible apply kept_raise
    | with_reducible apply kept_bump
    | with_reducible apply Kept.ite
    | ((with_reducible apply Kept.of); rotate_left; (iterate 6 (with_reducible exact rfl)); with_reducible assumption)

theorem kept_captureAll {q : List Instr} {s : State} {src : Nat} {t : Nat} (hs : Kept q s) :
    Kept q (State.captureAll s src t) := by
  unfold State.captureAll
  repeat' first
    | intro _
    | with_reducible assumption
    | with_reducible apply kept_capture
    | with_reducible apply Kept.ite
    | with_reducible apply Kept.foldl

theorem kept_execTickTrimUpdate {q : List Instr} {s : State} (hs : Kept q s) :
    KeptO q (execTickTrimUpdate s) := by
  unfold execTickTrimUpdate
  repeat' first
    | intro _
    | with_reducible assumption
    | (extract_lets +onlyGivenNames z; guard_hyp z : State := _; refine KeptO.cut (x := z) ?_ (fun _ => ?_); rotate_left; clear_value z; revert z; intro _ _; rotate_left; unfold z; clear z)
    | (extract_lets +onlyGivenNames z; clear_value z; revert z; intro _)
    | with_reducible apply kept_finish
    | with_reducible apply kept_next
    | with_reducible apply Kept.ite
    | ((with_reducible apply Kept.of); rotate_left; (iterate 6 (with_reducible exact rfl)); with_reducible assumption)

theorem kept_execPresetSIdx {q : List Instr} {s : State} (hs : Kept q s) :
    KeptO q (execPresetSIdx s) := by
  unfold execPresetSIdx
  repeat' first
    | intro _
    | with_reducible assumption
    | with_reducible apply kept_finish
    | with_reducible apply kept_anchorCommand
    | with_reducible apply kept_presetIdx

theorem kept_execIndexEdge {q : List Instr} {axis : Sys2Proof.AxisName} {t : Nat} {s0 : State} (hs0 : Kept q s0) :
    KeptO q (execIndexEdge axis t s0) := by
  unfold execIndexEdge
  repeat' first
    | intro _
    | with_reducible assumption
    | (extract_lets +onlyGivenNames z; guard_hyp z : State := _; refine KeptO.cut (x := z) ?_ (fun _ => ?_); rotate_left; clear_value z; revert z; intro _ _; rotate_left; unfold z; clear z)
    | (extract_lets +onlyGivenNames z; clear_value z; revert z; intro _)
    | with_reducible apply kept_at_
    | with_reducible apply kept_finish
    | with_reducible apply kept_modAxis
    | with_reducible apply kept_setField
    | with_reducible apply kept_setReg64
    | with_reducible apply Kept.ite
    | split

theorem kept_execPresetCIdx {q : List Instr} {s : State} (hs : Kept q s) :
    KeptO q (execPresetCIdx s) := by
  unfold execPresetCIdx
  repeat' first
    | intro _
    | with_reducible assumption
    | with_reducible apply kept_finish
    | with_reducible apply kept_anchorCommand
    | with_reducible apply kept_presetIdx

theorem kept_execAnchorPw {q : List Instr} {s : State} (hs : Kept q s) :
    KeptO q (execAnchorPw s) := by
  unfold execAnchorPw
  repeat' first
    | intro _
    | with_reducible assumption
    | (extract_lets +onlyGivenNames z; clear_value z; revert z; intro _)
    | with_reducible apply kept_finish
    | with_reducible apply kept_anchorCommand
    | ((with_reducible apply Kept.of); rotate_left; (iterate 6 (with_reducible exact rfl)); with_reducible assumption)

theorem kept_execSimStop {q : List Instr} {s : State} (hs : Kept q s) :
    KeptO q (execSimStop s) := by
  unfold execSimStop
  repeat' first
    | intro _
    | with_reducible assumption
    | with_reducible apply kept_finish
    | with_reducible apply kept_command
    | with_reducible apply kept_stopFree

theorem kept_execPresetSNow {q : List Instr} {s : State} (hs : Kept q s) :
    KeptO q (execPresetSNow s) := by
  unfold execPresetSNow
  repeat' first
    | intro _
    | with_reducible assumption
    | with_reducible apply kept_finish
    | with_reducible apply kept_anchorCommand
    | with_reducible apply kept_presetNow

theorem kept_execPresetCNow {q : List Instr} {s : State} (hs : Kept q s) :
    KeptO q (execPresetCNow s) := by
  unfold execPresetCNow
  repeat' first
    | intro _
    | with_reducible assumption
    | with_reducible apply kept_finish
    | with_reducible apply kept_anchorCommand
    | with_reducible apply kept_presetNow

theorem kept_execSimFreeTick {q : List Instr} {t : Nat} {s0 : State} (hs0 : Kept q s0) :
    KeptO q (execSimFreeTick t s0) := by
  unfold execSimFreeTick
  repeat' first
    | intro _
    | with_reducible assumption
    | (extract_lets +onlyGivenNames z; guard_hyp z : State := _; refine Kept.cut (x := z) ?_ (fun _ => ?_); rotate_left; clear_value z; revert z; intro _ _; rotate_left; unfold z; clear z)
    | (extract_lets +onlyGivenNames z; guard_hyp z : State := _; refine KeptO.cut (x := z) ?_ (fun _ => ?_); rotate_left; clear_value z; revert z; intro _ _; rotate_left; unfold z; clear z)
    | (extract_lets +onlyGivenNames z; clear_value z; revert z; intro _)
    | with_reducible apply kept_at_
    | with_reducible apply kept_finish
    | with_reducible apply kept_countTick
    | with_reducible apply kept_bump
    | with_reducible apply Kept.ite
    | ((with_reducible apply Kept.of); rotate_left; (iterate 6 (with_reducible exact rfl)); with_reducible assumption)
    | split

theorem kept_execSimRun {q : List Instr} {t : Nat} {s0 : State} (hs0 : Kept q s0) :
    KeptO q (execSimRun t s0) := by
  unfold execSimRun
  repeat' first
    | intro _
    | with_reducible assumption
    | (extract_lets +onlyGivenNames z; clear_value z; revert z; intro _)
    | with_reducible apply kept_finish
    | with_reducible apply kept_command
    | with_reducible apply kept_at_
    | with_reducible apply kept_violation
    | with_reducible apply Kept.ite
    | ((with_reducible apply Kept.of); rotate_left; (iterate 6 (with_reducible exact rfl)); with_reducible assumption)

theorem kept_swapRoles {q : List Instr} {s : State} (hs : Kept q s) :
    Kept q (State.swapRoles s) := by
  unfold State.swapRoles
  repeat' first
    | with_reducible assumption
    | (extract_lets +onlyGivenNames z; guard_hyp z : State := _; refine Kept.cut (x := z) ?_ (fun _ => ?_); rotate_left; clear_value z; revert z; intro _ _; rotate_left; unfold z; clear z)
    | (extract_lets +onlyGivenNames z; clear_value z; revert z; intro _)
    | with_reducible apply kept_captureAll
    | with_reducible apply kept_raise
    | with_reducible apply kept_setReg
    | ((with_reducible apply Kept.of); rotate_left; (iterate 6 (with_reducible exact rfl)); with_reducible assumption)

theorem kept_loadStore {q : List Instr} {s : State} (hs : Kept q s) :
    Kept q (State.loadStore s) := by
  unfold State.loadStore
  repeat' first
    | intro _
    | with_reducible assumption
    | (extract_lets +onlyGivenNames z; guard_hyp z : State := _; refine Kept.cut (x := z) ?_ (fun _ => ?_); rotate_left; clear_value z; revert z; intro _ _; rotate_left; unfold z; clear z)
    | (extract_lets +onlyGivenNames z; clear_value z; revert z; intro _)
    | with_reducible apply kept_touch
    | with_reducible apply kept_bumpBy
    | with_reducible apply kept_setReg
    | with_reducible apply kept_bmfLog
    | with_reducible apply Kept.ite
    | ((with_reducible apply Kept.of); rotate_left; (iterate 6 (with_reducible exact rfl)); with_reducible assumption)

theorem kept_depthAfter {q : List Instr} {s : State} (hs : Kept q s) :
    Kept q (State.depthAfter s) := by
  unfold State.depthAfter
  repeat' first
    | intro _
    | with_reducible assumption
    | (extract_lets +onlyGivenNames z; guard_hyp z : State := _; refine Kept.cut (x := z) ?_ (fun _ => ?_); rotate_left; clear_value z; revert z; intro _ _; rotate_left; unfold z; clear z)
    | (extract_lets +onlyGivenNames z; clear_value z; revert z; intro _)
    | with_reducible apply kept_bump
    | with_reducible apply kept_setReg
    | with_reducible apply kept_condition
    | with_reducible apply Kept.ite
    | ((with_reducible apply Kept.of); rotate_left; (iterate 6 (with_reducible exact rfl)); with_reducible assumption)
    | split

theorem kept_pwCondition {q : List Instr} {s : State} {code : Nat} (hs : Kept q s) :
    Kept q (State.pwCondition s code) := by
  unfold State.pwCondition
  repeat' first
    | intro _
    | with_reducible assumption
    | with_reducible apply kept_condition
    | with_reducible apply kept_raise
    | with_reducible apply Kept.ite

theorem kept_execEncoderLos {q : List Instr} {pair : Sys2Proof.EncoderPair} {t : Nat} {s0 : State} (hs0 : Kept q s0) :
    KeptO q (execEncoderLos pair t s0) := by
  unfold execEncoderLos
  repeat' first
    | intro _
    | with_reducible assumption
    | (extract_lets +onlyGivenNames z; guard_hyp z : State := _; refine KeptO.cut (x := z) ?_ (fun _ => ?_); rotate_left; clear_value z; revert z; intro _ _; rotate_left; unfold z; clear z)
    | with_reducible apply kept_at_
    | with_reducible apply kept_finish
    | with_reducible apply kept_modAxis
    | with_reducible apply kept_bump
    | with_reducible apply kept_condition
    | with_reducible apply Kept.ite

theorem kept_loadChain {q : List Instr} {s : State} (hs : Kept q s) :
    Kept q (State.loadChain s) := by
  unfold State.loadChain
  repeat' first
    | intro _
    | with_reducible assumption
    | (extract_lets +onlyGivenNames z; guard_hyp z : State := _; refine Kept.cut (x := z) ?_ (fun _ => ?_); rotate_left; clear_value z; revert z; intro _ _; rotate_left; unfold z; clear z)
    | (extract_lets +onlyGivenNames z; clear_value z; revert z; intro _)
    | with_reducible apply kept_touch
    | with_reducible apply kept_once
    | with_reducible apply kept_truncateNow
    | with_reducible apply kept_bmfLog
    | with_reducible apply Kept.ite
    | with_reducible apply Kept.foldl
    | ((with_reducible apply Kept.of); rotate_left; (iterate 6 (with_reducible exact rfl)); with_reducible assumption)

theorem kept_tickStops {q : List Instr} {s : State} {r : Run} {k : Nat} {ovs : Bool} {sat : Bool} (hs : Kept q s) :
    Kept q (State.tickStops s r k ovs sat) := by
  unfold State.tickStops
  repeat' first
    | intro _
    | with_reducible assumption
    | (extract_lets +onlyGivenNames z; guard_hyp z : State := _; refine Kept.cut (x := z) ?_ (fun _ => ?_); rotate_left; clear_value z; revert z; intro _ _; rotate_left; unfold z; clear z)
    | (extract_lets +onlyGivenNames z; clear_value z; revert z; intro _)
    | with_reducible apply kept_condition
    | with_reducible apply kept_truncateNow
    | with_reducible apply kept_modRun
    | with_reducible apply Kept.ite

theorem kept_execEncoderEdge {q : List Instr} {axis : Sys2Proof.AxisName} {a : Bool} {b : Bool} {t : Nat} {s0 : State} (hs0 : Kept q s0) :
    KeptO q (execEncoderEdge axis a b t s0) := by
  unfold execEncoderEdge
  repeat' first
    | intro _
    | with_reducible assumption
    | (extract_lets +onlyGivenNames z; guard_hyp z : State := _; refine Kept.cut (x := z) ?_ (fun _ => ?_); rotate_left; clear_value z; revert z; intro _ _; rotate_left; unfold z; clear z)
    | (extract_lets +onlyGivenNames z; guard_hyp z : State := _; refine KeptO.cut (x := z) ?_ (fun _ => ?_); rotate_left; clear_value z; revert z; intro _ _; rotate_left; unfold z; clear z)
    | (extract_lets +onlyGivenNames z; clear_value z; revert z; intro _)
    | with_reducible apply kept_at_
    | with_reducible apply kept_modAxis
    | with_reducible apply kept_finish
    | with_reducible apply kept_noteBelow
    | with_reducible apply kept_depthAfter
    | with_reducible apply kept_condition
    | with_reducible apply kept_bump
    | with_reducible apply Kept.ite
    | split

theorem kept_checkWord {q : List Instr} {s : State} {d : Int} {t : Nat} (hs : Kept q s) :
    Kept q (State.checkWord s d t) := by
  unfold State.checkWord
  repeat' first
    | intro _
    | with_reducible assumption
    | (extract_lets +onlyGivenNames z; guard_hyp z : State := _; refine Kept.cut (x := z) ?_ (fun _ => ?_); rotate_left; clear_value z; revert z; intro _ _; rotate_left; unfold z; clear z)
    | (extract_lets +onlyGivenNames z; clear_value z; revert z; intro _)
    | with_reducible apply kept_pwCondition
    | with_reducible apply kept_bump
    | with_reducible apply kept_modAxis
    | with_reducible apply Kept.ite
    | ((with_reducible apply Kept.of); rotate_left; (iterate 6 (with_reducible exact rfl)); with_reducible assumption)

theorem kept_execPositionWordLoss {q : List Instr} {t : Nat} {s0 : State} (hs0 : Kept q s0) :
    KeptO q (execPositionWordLoss t s0) := by
  unfold execPositionWordLoss
  repeat' first
    | intro _
    | with_reducible assumption
    | (extract_lets +onlyGivenNames z; guard_hyp z : State := _; refine KeptO.cut (x := z) ?_ (fun _ => ?_); rotate_left; clear_value z; revert z; intro _ _; rotate_left; unfold z; clear z)
    | with_reducible apply kept_at_
    | with_reducible apply kept_finish
    | with_reducible apply kept_pwCondition
    | with_reducible apply Kept.ite

theorem kept_overspeed {q : List Instr} {s : State} {k : Nat} (hs : Kept q s) :
    Kept q (State.overspeed s k) := by
  unfold State.overspeed
  repeat' first
    | intro _
    | with_reducible assumption
    | (extract_lets +onlyGivenNames z; guard_hyp z : State := _; refine Kept.cut (x := z) ?_ (fun _ => ?_); rotate_left; clear_value z; revert z; intro _ _; rotate_left; unfold z; clear z)
    | with_reducible apply kept_hole
    | with_reducible apply kept_bump
    | with_reducible apply kept_once
    | with_reducible apply kept_raise
    | with_reducible apply kept_modRun

theorem kept_beginRun {q : List Instr} {s : State} (hs : Kept q s) :
    Kept q (State.beginRun s) := by
  unfold State.beginRun
  repeat' first
    | intro _
    | with_reducible assumption
    | (extract_lets +onlyGivenNames z; guard_hyp z : State := _; refine Kept.cut (x := z) ?_ (fun _ => ?_); rotate_left; clear_value z; revert z; intro _ _; rotate_left; unfold z; clear z)
    | (extract_lets +onlyGivenNames z; clear_value z; revert z; intro _)
    | with_reducible apply kept_swapRoles
    | with_reducible apply kept_setChanged
    | with_reducible apply kept_modRun
    | with_reducible apply kept_readOffsets
    | with_reducible apply kept_setRegs
    | with_reducible apply kept_memWrite
    | with_reducible apply kept_loadChain
    | with_reducible apply kept_loadStore
    | with_reducible apply Kept.ite
    | ((with_reducible apply Kept.of); rotate_left; (iterate 6 (with_reducible exact rfl)); with_reducible assumption)
    | split

theorem kept_execPositionWord {q : List Instr} {bits : List Bool} {t : Nat} {s0 : State} (hs0 : Kept q s0) :
    KeptO q (execPositionWord bits t s0) := by
  unfold execPositionWord
  repeat' first
    | intro _
    | with_reducible assumption
    | (extract_lets +onlyGivenNames z; guard_hyp z : State := _; refine Kept.cut (x := z) ?_ (fun _ => ?_); rotate_left; clear_value z; revert z; intro _ _; rotate_left; unfold z; clear z)
    | (extract_lets +onlyGivenNames z; guard_hyp z : State := _; refine KeptO.cut (x := z) ?_ (fun _ => ?_); rotate_left; clear_value z; revert z; intro _ _; rotate_left; unfold z; clear z)
    | with_reducible apply kept_at_
    | with_reducible apply kept_finish
    | with_reducible apply kept_bump
    | with_reducible apply kept_setReg64
    | with_reducible apply kept_checkWord
    | with_reducible apply Kept.ite
    | split

theorem kept_markTick {q : List Instr} {s : State} {r : Run} {k : Nat} {t64 : Nat} {dt : Nat} {cxw : Int} {sat : Bool} (hs : Kept q s) :
    Kept q (State.markTick s r k t64 dt cxw sat) := by
  unfold State.markTick
  repeat' first
    | intro _
    | with_reducible assumption
    | (extract_lets +onlyGivenNames z; guard_hyp z : State := _; refine Kept.cut (x := z) ?_ (fun _ => ?_); rotate_left; clear_value z; revert z; intro _ _; rotate_left; unfold z; clear z)
    | (extract_lets +onlyGivenNames z; clear_value z; revert z; intro _)
    | with_reducible apply kept_overspeed
    | with_reducible apply kept_modRun
    | with_reducible apply kept_yields
    | with_reducible apply kept_releaseReplay
    | with_reducible apply kept_bump
    | with_reducible apply kept_tickStops
    | with_reducible apply Kept.ite
    | ((with_reducible apply Kept.of); rotate_left; (iterate 6 (with_reducible exact rfl)); with_reducible assumption)

theorem kept_takeTick {q : List Instr} {s : State} {t64 : Nat} {k : Nat} {dt : Option Nat} (hs : Kept q s) :
    Kept q (State.takeTick s t64 k dt) := by
  unfold State.takeTick
  repeat' first
    | intro _
    | with_reducible assumption
    | (extract_lets +onlyGivenNames z; guard_hyp z : State := _; refine Kept.cut (x := z) ?_ (fun _ => ?_); rotate_left; clear_value z; revert z; intro _ _; rotate_left; unfold z; clear z)
    | with_reducible apply kept_countTick
    | with_reducible apply kept_modRun
    | with_reducible apply kept_setReg
    | with_reducible apply kept_beginRun
    | with_reducible apply kept_captureAll
    | with_reducible apply kept_lateFrames
    | with_reducible apply Kept.ite

theorem kept_issueTick {q : List Instr} {s : State} {t64 : Nat} {cx : Nat → Int × Bool} (hs : Kept q s) :
    Kept q (State.issueTick s t64 cx) := by
  unfold State.issueTick
  repeat' first
    | with_reducible assumption
    | (extract_lets +onlyGivenNames z; guard_hyp z : State := _; refine Kept.cut (x := z) ?_ (fun _ => ?_); rotate_left; clear_value z; revert z; intro _ _; rotate_left; unfold z; clear z)
    | (extract_lets +onlyGivenNames z; clear_value z; revert z; intro _)
    | with_reducible apply kept_takeTick
    | with_reducible apply kept_markTick
    | split

theorem kept_execSimTick {q : List Instr} {t : Nat} {s0 : State} (hs0 : Kept q s0) :
    KeptO q (execSimTick t s0) := by
  unfold execSimTick
  repeat' first
    | intro _
    | with_reducible assumption
    | (extract_lets +onlyGivenNames z; guard_hyp z : State := _; refine Kept.cut (x := z) ?_ (fun _ => ?_); rotate_left; clear_value z; revert z; intro _ _; rotate_left; unfold z; clear z)
    | (extract_lets +onlyGivenNames z; guard_hyp z : State := _; refine KeptO.cut (x := z) ?_ (fun _ => ?_); rotate_left; clear_value z; revert z; intro _ _; rotate_left; unfold z; clear z)
    | (extract_lets +onlyGivenNames z; clear_value z; revert z; intro _)
    | with_reducible apply kept_at_
    | with_reducible apply kept_finish
    | with_reducible apply kept_issueTick
    | with_reducible apply Kept.ite
    | ((with_reducible apply Kept.of); rotate_left; (iterate 6 (with_reducible exact rfl)); with_reducible assumption)
    | split

theorem kept_execTickIssue {q : List Instr} {t : Nat} {s0 : State} (hs0 : Kept q s0) :
    KeptO q (execTickIssue t s0) := by
  unfold execTickIssue
  repeat' first
    | intro _
    | with_reducible assumption
    | (extract_lets +onlyGivenNames z; guard_hyp z : State := _; refine KeptO.cut (x := z) ?_ (fun _ => ?_); rotate_left; clear_value z; revert z; intro _ _; rotate_left; unfold z; clear z)
    | (extract_lets +onlyGivenNames z; clear_value z; revert z; intro _)
    | with_reducible apply kept_at_
    | with_reducible apply kept_finish
    | with_reducible apply kept_issueTick
    | with_reducible apply kept_modRun
    | with_reducible apply Kept.ite
    | split

/-! Launch. -/

theorem kept_deposit {q : List Instr} {s : State} {r : Run} {k : Nat} {levels : List (Nat × Nat)} (hs : Kept q s) :
    Kept q (State.deposit s r k levels) := by
  unfold State.deposit
  repeat' first
    | (extract_lets +onlyGivenNames z; clear_value z; revert z; intro _)
    | ((with_reducible apply Kept.of); rotate_left; (iterate 6 (with_reducible exact rfl)); with_reducible assumption)

theorem kept_useInjection {q : List Instr} {s : State} {p : Nat} (hs : Kept q s) :
    Kept q (State.useInjection s p) := by
  unfold State.useInjection
  repeat' first
    | intro _
    | with_reducible assumption
    | (extract_lets +onlyGivenNames z; clear_value z; revert z; intro _)
    | with_reducible apply kept_setReg
    | with_reducible apply Kept.ite

theorem kept_formTable {q : List Instr} {s : State} (hs : Kept q s) :
    Kept q (State.formTable s) := by
  unfold State.formTable
  repeat' first
    | intro _
    | with_reducible assumption
    | (extract_lets +onlyGivenNames z; guard_hyp z : State := _; refine Kept.cut (x := z) ?_ (fun _ => ?_); rotate_left; clear_value z; revert z; intro _ _; rotate_left; unfold z; clear z)
    | (extract_lets +onlyGivenNames z; clear_value z; revert z; intro _)
    | with_reducible apply kept_setReg
    | with_reducible apply Kept.foldl
    | ((with_reducible apply Kept.of); rotate_left; (iterate 6 (with_reducible exact rfl)); with_reducible assumption)

theorem kept_phase_eq {q : List Instr} {s : State} {r : Run} {x2 : TickRec} (hs : Kept q s) {s' : State} {x'} (e' : State.phase s r x2 = (s', x')) :
    Kept q s' := by
  unfold State.phase at e'
  repeat' first
    | with_reducible assumption
    | (extract_lets +onlyGivenNames z at e'; clear_value z; revert z; intro _ e')
    | split at e'
    | with_reducible apply kept_next
    | ((with_reducible refine Kept.of_pair ?_ e'); clear e')

theorem kept_phase {q : List Instr} {s : State} {r : Run} {x2 : TickRec} (hs : Kept q s) : Kept q (State.phase s r x2).1 :=
  Kept.of_eq fun _ _ e' => kept_phase_eq hs e'

theorem kept_headFrame {q : List Instr} {s : State} {r : Run} {x2 : TickRec} {levels : List (Nat × Nat)} (hs : Kept q s) :
    Kept q (State.headFrame s r x2 levels) := by
  unfold State.headFrame
  repeat' first
    | with_reducible assumption
    | (extract_lets +onlyGivenNames z; guard_hyp z : State := _; refine Kept.cut (x := z) ?_ (fun _ => ?_); rotate_left; clear_value z; revert z; intro _ _; rotate_left; unfold z; clear z)
    | (extract_lets +onlyGivenNames z; guard_hyp z : State × _ := _; revert z; intro _)
    | (extract_lets +onlyGivenNames z; clear_value z; revert z; intro _)
    | with_reducible apply kept_phase
    | with_reducible apply kept_setReg
    | ((with_reducible apply Kept.of); rotate_left; (iterate 6 (with_reducible exact rfl)); with_reducible assumption)

theorem kept_strandLate {q : List Instr} {s : State} {w : Nat} (hs : Kept q s) :
    Kept q (State.strandLate s w) := by
  unfold State.strandLate
  repeat' first
    | with_reducible assumption
    | with_reducible apply kept_raise
    | with_reducible apply kept_setReg
    | with_reducible apply kept_bump

theorem kept_assembleLevels {q : List Instr} {s : State} {r : Run} {k : Nat} (hs : Kept q s) :
    Kept q (State.assembleLevels s r k) := by
  unfold State.assembleLevels
  repeat' first
    | with_reducible assumption
    | (extract_lets +onlyGivenNames z; guard_hyp z : State := _; refine Kept.cut (x := z) ?_ (fun _ => ?_); rotate_left; clear_value z; revert z; intro _ _; rotate_left; unfold z; clear z)
    | (extract_lets +onlyGivenNames z; clear_value z; revert z; intro _)
    | with_reducible apply kept_bumpBy
    | with_reducible apply kept_addShort
    | ((with_reducible apply Kept.of); rotate_left; (iterate 6 (with_reducible exact rfl)); with_reducible assumption)

theorem kept_execTempStale {q : List Instr} {q0 : Nat} {t : Nat} {s0 : State} (hs0 : Kept q s0) :
    KeptO q (execTempStale q0 t s0) := by
  unfold execTempStale
  repeat' first
    | intro _
    | with_reducible assumption
    | (extract_lets +onlyGivenNames z; guard_hyp z : State := _; refine KeptO.cut (x := z) ?_ (fun _ => ?_); rotate_left; clear_value z; revert z; intro _ _; rotate_left; unfold z; clear z)
    | with_reducible apply kept_at_
    | with_reducible apply kept_finish
    | with_reducible apply kept_once
    | with_reducible apply kept_setField
    | with_reducible apply kept_bmfLog
    | with_reducible apply Kept.ite

theorem kept_execWorkingTableUpdate {q : List Instr} {s : State} (hs : Kept q s) :
    KeptO q (execWorkingTableUpdate s) := by
  unfold execWorkingTableUpdate
  repeat' first
    | intro _
    | with_reducible assumption
    | with_reducible apply kept_finish
    | with_reducible apply kept_formTable
    | with_reducible apply Kept.ite

theorem kept_execThermalDecay {q : List Instr} {s : State} (hs : Kept q s) :
    KeptO q (execThermalDecay s) := by
  unfold execThermalDecay
  repeat' first
    | with_reducible assumption
    | (extract_lets +onlyGivenNames z; clear_value z; revert z; intro _)
    | with_reducible apply kept_finish
    | ((with_reducible apply Kept.of); rotate_left; (iterate 6 (with_reducible exact rfl)); with_reducible assumption)

theorem kept_execBeamStoreLoadDone {q : List Instr} {s : State} (hs : Kept q s) :
    KeptO q (execBeamStoreLoadDone s) := by
  unfold execBeamStoreLoadDone
  repeat' first
    | intro _
    | with_reducible assumption
    | (extract_lets +onlyGivenNames z; guard_hyp z : State := _; refine Kept.cut (x := z) ?_ (fun _ => ?_); rotate_left; clear_value z; revert z; intro _ _; rotate_left; unfold z; clear z)
    | (extract_lets +onlyGivenNames z; clear_value z; revert z; intro _)
    | with_reducible apply kept_finish
    | with_reducible apply kept_memWrite
    | with_reducible apply kept_formTable
    | with_reducible apply Kept.ite
    | ((with_reducible apply Kept.of); rotate_left; (iterate 6 (with_reducible exact rfl)); with_reducible assumption)
    | split

theorem kept_fetchStrand_eq {q : List Instr} {s : State} {k : Work} {nb : Nat} {w : Nat} {i : Nat} (hs : Kept q s) {s' : State} {x'} (e' : State.fetchStrand s k nb w i = (s', x')) :
    Kept q s' := by
  unfold State.fetchStrand at e'
  repeat' first
    | with_reducible assumption
    | (extract_lets +onlyGivenNames z at e'; clear_value z; revert z; intro _ e')
    | split at e'
    | with_reducible apply kept_strandLate
    | with_reducible apply kept_fpPoison
    | with_reducible apply kept_touch
    | ((with_reducible refine Kept.of_pair ?_ e'); clear e')

theorem kept_fetchStrand {q : List Instr} {s : State} {k : Work} {nb : Nat} {w : Nat} {i : Nat} (hs : Kept q s) : Kept q (State.fetchStrand s k nb w i).1 :=
  Kept.of_eq fun _ _ e' => kept_fetchStrand_eq hs e'

theorem kept_fetchRow_eq {q : List Instr} {s : State} {r : Run} {tick : Nat} {i : Nat} (hs : Kept q s) {s' : State} {x'} (e' : State.fetchRow s r tick i = (s', x')) :
    Kept q s' := by
  unfold State.fetchRow at e'
  repeat' first
    | with_reducible assumption
    | split at e'
    | with_reducible apply kept_strandLate
    | refine kept_fetchStrand_eq ?_ (by with_reducible assumption)
    | ((with_reducible refine Kept.of_pair ?_ e'); clear e')

theorem kept_fetchRow {q : List Instr} {s : State} {r : Run} {tick : Nat} {i : Nat} (hs : Kept q s) : Kept q (State.fetchRow s r tick i).1 :=
  Kept.of_eq fun _ _ e' => kept_fetchRow_eq hs e'

theorem kept_fetchStrands {q : List Instr} {s : State} {r : Run} {tick : Nat} (hs : Kept q s) :
    Kept q (State.fetchStrands s r tick) := by
  unfold State.fetchStrands
  repeat' first
    | intro _
    | with_reducible assumption
    | (extract_lets +onlyGivenNames z; guard_hyp z : State := _; refine Kept.cut (x := z) ?_ (fun _ => ?_); rotate_left; clear_value z; revert z; intro _ _; rotate_left; unfold z; clear z)
    | (extract_lets +onlyGivenNames z; guard_hyp z : State × _ := _; revert z; intro _)
    | (extract_lets +onlyGivenNames z; clear_value z; revert z; intro _)
    | with_reducible apply kept_fetchRow
    | with_reducible apply Kept.foldl₂
    | ((with_reducible apply Kept.of); rotate_left; (iterate 6 (with_reducible exact rfl)); with_reducible assumption)

theorem kept_assemble {q : List Instr} {s : State} {k : Nat} (hs : Kept q s) :
    Kept q (State.assemble s k) := by
  unfold State.assemble
  repeat' first
    | intro _
    | with_reducible assumption
    | (extract_lets +onlyGivenNames z; guard_hyp z : State := _; refine Kept.cut (x := z) ?_ (fun _ => ?_); rotate_left; clear_value z; revert z; intro _ _; rotate_left; unfold z; clear z)
    | (extract_lets +onlyGivenNames z; clear_value z; revert z; intro _)
    | with_reducible apply kept_fetchStrands
    | with_reducible apply kept_hole
    | with_reducible apply kept_once
    | with_reducible apply kept_truncateNow
    | with_reducible apply kept_bmfLog
    | with_reducible apply kept_assembleLevels
    | with_reducible apply Kept.ite
    | with_reducible apply Kept.foldl
    | ((with_reducible apply Kept.of); rotate_left; (iterate 6 (with_reducible exact rfl)); with_reducible assumption)
    | split

theorem kept_deadlines {q : List Instr} {s : State} {r : Run} {k : Nat} {missed : List Nat} (hs : Kept q s) :
    Kept q (State.deadlines s r k missed) := by
  unfold State.deadlines
  repeat' first
    | intro _
    | with_reducible assumption
    | (extract_lets +onlyGivenNames z; guard_hyp z : State := _; refine Kept.cut (x := z) ?_ (fun _ => ?_); rotate_left; clear_value z; revert z; intro _ _; rotate_left; unfold z; clear z)
    | with_reducible apply kept_once
    | with_reducible apply kept_hole
    | with_reducible apply kept_bump
    | with_reducible apply kept_bmfLog
    | with_reducible apply Kept.ite
    | with_reducible apply Kept.foldl

theorem kept_sendFrame {q : List Instr} {s : State} {k : Nat} {l : Nat} (hs : Kept q s) :
    Kept q (State.sendFrame s k l) := by
  unfold State.sendFrame
  repeat' first
    | intro _
    | with_reducible assumption
    | (extract_lets +onlyGivenNames z; guard_hyp z : State := _; refine Kept.cut (x := z) ?_ (fun _ => ?_); rotate_left; clear_value z; revert z; intro _ _; rotate_left; unfold z; clear z)
    | (extract_lets +onlyGivenNames z; clear_value z; revert z; intro _)
    | with_reducible apply kept_frameLost
    | with_reducible apply kept_hole
    | with_reducible apply kept_useInjection
    | with_reducible apply Kept.ite
    | ((with_reducible apply Kept.of); rotate_left; (iterate 6 (with_reducible exact rfl)); with_reducible assumption)
    | split

theorem kept_launchTick {q : List Instr} {s : State} {r : Run} {x2 : TickRec} {rest : List TickRec} {missed : List Nat} (hs : Kept q s) :
    Kept q (State.launchTick s r x2 rest missed) := by
  unfold State.launchTick
  repeat' first
    | intro _
    | with_reducible assumption
    | (extract_lets +onlyGivenNames z; guard_hyp z : State := _; refine Kept.cut (x := z) ?_ (fun _ => ?_); rotate_left; clear_value z; revert z; intro _ _; rotate_left; unfold z; clear z)
    | (extract_lets +onlyGivenNames z; clear_value z; revert z; intro _)
    | with_reducible apply kept_deadlines
    | with_reducible apply kept_headFrame
    | with_reducible apply kept_deposit
    | with_reducible apply kept_modRun
    | with_reducible apply kept_sendEnd
    | with_reducible apply kept_sendFrame
    | with_reducible apply kept_assemble
    | with_reducible apply Kept.ite
    | with_reducible apply Kept.foldl

theorem kept_launch {q : List Instr} {s : State} {missed : List Nat} (hs : Kept q s) :
    Kept q (State.launch s missed) := by
  unfold State.launch
  repeat' first
    | with_reducible assumption
    | with_reducible apply kept_launchTick
    | split

theorem kept_execFrameLaunch {q : List Instr} {t : Nat} {missed : List Nat} {s0 : State} (hs0 : Kept q s0) :
    KeptO q (execFrameLaunch t missed s0) := by
  unfold execFrameLaunch
  repeat' first
    | intro _
    | with_reducible assumption
    | (extract_lets +onlyGivenNames z; guard_hyp z : State := _; refine KeptO.cut (x := z) ?_ (fun _ => ?_); rotate_left; clear_value z; revert z; intro _ _; rotate_left; unfold z; clear z)
    | (extract_lets +onlyGivenNames z; clear_value z; revert z; intro _)
    | with_reducible apply kept_at_
    | with_reducible apply kept_finish
    | with_reducible apply kept_launch
    | with_reducible apply Kept.ite
    | ((with_reducible apply Kept.of); rotate_left; (iterate 6 (with_reducible exact rfl)); with_reducible assumption)
    | split

/-! Plate. -/

theorem kept_planTruncation {q : List Instr} {s : State} {r : Run} {k : Work} {peak : Int} (hs : Kept q s) :
    Kept q (State.planTruncation s r k peak) := by
  unfold State.planTruncation
  repeat' first
    | intro _
    | with_reducible assumption
    | (extract_lets +onlyGivenNames z; guard_hyp z : State := _; refine Kept.cut (x := z) ?_ (fun _ => ?_); rotate_left; clear_value z; revert z; intro _ _; rotate_left; unfold z; clear z)
    | (extract_lets +onlyGivenNames z; clear_value z; revert z; intro _)
    | with_reducible apply kept_setReg
    | with_reducible apply kept_setField
    | with_reducible apply kept_truncateNow
    | with_reducible apply Kept.ite
    | ((with_reducible apply Kept.of); rotate_left; (iterate 6 (with_reducible exact rfl)); with_reducible assumption)
    | split

theorem kept_plateSample {q : List Instr} {s : State} (hs : Kept q s) :
    Kept q (State.plateSample s) := by
  unfold State.plateSample
  repeat' first
    | intro _
    | with_reducible assumption
    | (extract_lets +onlyGivenNames z; guard_hyp z : State := _; refine Kept.cut (x := z) ?_ (fun _ => ?_); rotate_left; clear_value z; revert z; intro _ _; rotate_left; unfold z; clear z)
    | (extract_lets +onlyGivenNames z; clear_value z; revert z; intro _)
    | with_reducible apply kept_raise
    | with_reducible apply kept_setField
    | with_reducible apply kept_truncateNow
    | with_reducible apply Kept.ite
    | ((with_reducible apply Kept.of); rotate_left; (iterate 6 (with_reducible exact rfl)); with_reducible assumption)

theorem kept_execPlateForecast {q : List Instr} {t : Nat} {s0 : State} (hs0 : Kept q s0) :
    KeptO q (execPlateForecast t s0) := by
  unfold execPlateForecast
  repeat' first
    | intro _
    | with_reducible assumption
    | (extract_lets +onlyGivenNames z; guard_hyp z : State := _; refine Kept.cut (x := z) ?_ (fun _ => ?_); rotate_left; clear_value z; revert z; intro _ _; rotate_left; unfold z; clear z)
    | (extract_lets +onlyGivenNames z; guard_hyp z : State := _; refine KeptO.cut (x := z) ?_ (fun _ => ?_); rotate_left; clear_value z; revert z; intro _ _; rotate_left; unfold z; clear z)
    | (extract_lets +onlyGivenNames z; clear_value z; revert z; intro _)
    | with_reducible apply kept_at_
    | with_reducible apply kept_finish
    | with_reducible apply kept_setField
    | with_reducible apply kept_planTruncation
    | with_reducible apply Kept.ite
    | ((with_reducible apply Kept.of); rotate_left; (iterate 6 (with_reducible exact rfl)); with_reducible assumption)
    | split

end Sys2Proof.Laws
end

