-- ==== Sys2Proof/Laws/KeptResets.lean ====
section
/-! SUPPORT. What link training, resets and power domains keep: one lemma for each operation and each command (see Kept). -/

namespace Sys2Proof.Laws

open Sys2Proof.Machine

/-! RimTrain. -/

theorem kept_reviveDown {q : List Instr} {s : State} (hs : Kept q s) :
    Kept q (State.reviveDown s) := by
  unfold State.reviveDown
  repeat' first
    | intro _
    | with_reducible assumption
    | (extract_lets +onlyGivenNames z; guard_hyp z : State := _; refine Kept.cut (x := z) ?_ (fun _ => ?_); rotate_left; clear_value z; revert z; intro _ _; rotate_left; unfold z; clear z)
    | (extract_lets +onlyGivenNames z; clear_value z; revert z; intro _)
    | with_reducible apply kept_modLane
    | with_reducible apply Kept.ite
    | with_reducible apply Kept.foldl
    | ((with_reducible apply Kept.of); rotate_left; (iterate 6 (with_reducible exact rfl)); with_reducible assumption)
    | split

theorem kept_sendChallenge {q : List Instr} {s : State} {nm : Nat} (hs : Kept q s) :
    Kept q (State.sendChallenge s nm) := by
  unfold State.sendChallenge
  repeat' first
    | with_reducible assumption
    | with_reducible apply kept_sendBlocks

theorem kept_identPasses {q : List Instr} {s : State} {pid : Nat} {mac : List Sys2Proof.Byte} (hs : Kept q s) :
    Kept q (State.identPasses s pid mac) := by
  unfold State.identPasses
  repeat' first
    | with_reducible assumption
    | (extract_lets +onlyGivenNames z; guard_hyp z : State := _; refine Kept.cut (x := z) ?_ (fun _ => ?_); rotate_left; clear_value z; revert z; intro _ _; rotate_left; unfold z; clear z)
    | (extract_lets +onlyGivenNames z; clear_value z; revert z; intro _)
    | with_reducible apply kept_setReg64
    | with_reducible apply kept_sendBlocks
    | ((with_reducible apply Kept.of); rotate_left; (iterate 6 (with_reducible exact rfl)); with_reducible assumption)

theorem kept_trainLane {q : List Instr} {s : State} {p : Nat} {x2 : Sys2Proof.LaneTraining} {r : Except Nat Sys2Proof.LaneTaps} (hs : Kept q s) :
    Kept q (State.trainLane s p x2 r) := by
  unfold State.trainLane
  repeat' first
    | intro _
    | with_reducible assumption
    | (extract_lets +onlyGivenNames z; guard_hyp z : State := _; refine Kept.cut (x := z) ?_ (fun _ => ?_); rotate_left; clear_value z; revert z; intro _ _; rotate_left; unfold z; clear z)
    | with_reducible apply kept_modLane
    | with_reducible apply kept_failLane
    | with_reducible apply Kept.ite
    | split

theorem kept_retrainLane {q : List Instr} {s : State} {p : Nat} {r : Sys2Proof.LaneTraining} (hs : Kept q s) :
    Kept q (State.retrainLane s p r) := by
  unfold State.retrainLane
  repeat' first
    | with_reducible assumption
    | (extract_lets +onlyGivenNames z; guard_hyp z : State := _; refine Kept.cut (x := z) ?_ (fun _ => ?_); rotate_left; clear_value z; revert z; intro _ _; rotate_left; unfold z; clear z)
    | (extract_lets +onlyGivenNames z; clear_value z; revert z; intro _)
    | with_reducible apply kept_trainLane
    | with_reducible apply kept_reviveDown
    | with_reducible apply kept_modLane
    | with_reducible apply kept_lnkLog
    | split

theorem kept_identFails {q : List Instr} {s : State} {exchange : Bool} (hs : Kept q s) :
    Kept q (State.identFails s exchange) := by
  unfold State.identFails
  repeat' first
    | intro _
    | with_reducible assumption
    | (extract_lets +onlyGivenNames z; guard_hyp z : State := _; refine Kept.cut (x := z) ?_ (fun _ => ?_); rotate_left; clear_value z; revert z; intro _ _; rotate_left; unfold z; clear z)
    | (extract_lets +onlyGivenNames z; clear_value z; revert z; intro _)
    | with_reducible apply kept_bump
    | with_reducible apply kept_raise
    | with_reducible apply kept_lnkLog
    | with_reducible apply Kept.ite
    | ((with_reducible apply Kept.of); rotate_left; (iterate 6 (with_reducible exact rfl)); with_reducible assumption)

theorem kept_linkUpNow {q : List Instr} {s : State} (hs : Kept q s) :
    Kept q (State.linkUpNow s) := by
  unfold State.linkUpNow
  repeat' first
    | intro _
    | with_reducible assumption
    | (extract_lets +onlyGivenNames z; guard_hyp z : State := _; refine Kept.cut (x := z) ?_ (fun _ => ?_); rotate_left; clear_value z; revert z; intro _ _; rotate_left; unfold z; clear z)
    | (extract_lets +onlyGivenNames z; clear_value z; revert z; intro _)
    | with_reducible apply kept_modLane
    | with_reducible apply kept_raise
    | with_reducible apply Kept.foldl
    | ((with_reducible apply Kept.of); rotate_left; (iterate 6 (with_reducible exact rfl)); with_reducible assumption)

theorem kept_identAnswer {q : List Instr} {s : State} {nm : Nat} {x : Sys2Proof.Ident} (hs : Kept q s) :
    Kept q (State.identAnswer s nm x) := by
  unfold State.identAnswer
  generalize s.checkIdent nm x = c
  cases c with
  | some mac => exact kept_linkUpNow (kept_identPasses hs)
  | none => exact kept_linkUpNow (kept_identFails hs)

theorem kept_identify {q : List Instr} {s : State} {nm : Nat} {ident : Option Sys2Proof.Ident} {wait : Bool} (hs : Kept q s) :
    Kept q (State.identify s nm ident wait) := by
  unfold State.identify
  repeat' first
    | intro _
    | with_reducible assumption
    | (extract_lets +onlyGivenNames z; guard_hyp z : State := _; refine Kept.cut (x := z) ?_ (fun _ => ?_); rotate_left; clear_value z; revert z; intro _ _; rotate_left; unfold z; clear z)
    | (extract_lets +onlyGivenNames z; clear_value z; revert z; intro _)
    | with_reducible apply kept_linkUpNow
    | with_reducible apply kept_identFails
    | with_reducible apply kept_sendChallenge
    | with_reducible apply kept_identAnswer
    | with_reducible apply Kept.ite
    | ((with_reducible apply Kept.of); rotate_left; (iterate 6 (with_reducible exact rfl)); with_reducible assumption)
    | split

theorem kept_trainLink {q : List Instr} {s : State} {r : Sys2Proof.RimTraining} {wait : Bool} (hs : Kept q s) :
    Kept q (State.trainLink s r wait) := by
  unfold State.trainLink
  repeat' first
    | intro _
    | with_reducible assumption
    | (extract_lets +onlyGivenNames z; guard_hyp z : State := _; refine Kept.cut (x := z) ?_ (fun _ => ?_); rotate_left; clear_value z; revert z; intro _ _; rotate_left; unfold z; clear z)
    | (extract_lets +onlyGivenNames z; clear_value z; revert z; intro _)
    | with_reducible apply kept_trainLane
    | with_reducible apply kept_lnkLog
    | with_reducible apply kept_raise
    | with_reducible apply kept_identify
    | with_reducible apply Kept.ite
    | with_reducible apply Kept.foldl
    | ((with_reducible apply Kept.of); rotate_left; (iterate 6 (with_reducible exact rfl)); with_reducible assumption)

theorem kept_recalLane_eq {q : List Instr} {s : State} {r : Sys2Proof.LaneRecal} (hs : Kept q s) {s' : State} {x'} (e' : State.recalLane s r = (s', x')) :
    Kept q s' := by
  unfold State.recalLane at e'
  repeat' first
    | with_reducible assumption
    | (extract_lets +onlyGivenNames z at e'; clear_value z; revert z; intro _ e')
    | split at e'
    | with_reducible apply kept_modLane
    | with_reducible apply kept_laneFault
    | ((with_reducible refine Kept.of_pair ?_ e'); clear e')

theorem kept_recalLane {q : List Instr} {s : State} {r : Sys2Proof.LaneRecal} (hs : Kept q s) : Kept q (State.recalLane s r).1 :=
  Kept.of_eq fun _ _ e' => kept_recalLane_eq hs e'

/-! Resets. -/

theorem kept_powerOff {q : List Instr} {s : State} (hs : Kept q s) : Kept q (State.powerOff s) := by
  unfold State.powerOff
  extract_lets
  refine Kept.ofMaps hs rfl (smWf_put rfl) rfl ?_ ?_
  · rw [afterReset_mem]
    exact hs.host
  · rw [afterReset_rings]
    rfl

theorem kept_boot {q : List Instr} {s : State} (hs : Kept q s) :
    Kept q (State.boot s) := by
  unfold State.boot
  repeat' first
    | (extract_lets +onlyGivenNames z; guard_hyp z : Hst := _; revert z; intro _)
    | (extract_lets +onlyGivenNames z; clear_value z; revert z; intro _)
    | ((with_reducible apply Kept.of); rotate_left; (iterate 6 (with_reducible exact rfl)); with_reducible assumption)
    | split

theorem kept_closeStay {q : List Instr} {s : State} (hs : Kept q s) :
    Kept q (State.closeStay s) := by
  unfold State.closeStay
  repeat' first
    | intro _
    | (extract_lets +onlyGivenNames z; clear_value z; revert z; intro _)
    | with_reducible apply Kept.ite
    | ((with_reducible apply Kept.of); rotate_left; (iterate 6 (with_reducible exact rfl)); with_reducible assumption)

theorem kept_clearLanes {q : List Instr} {s : State} {reg : Nat → Nat} (hs : Kept q s) :
    Kept q (State.clearLanes s reg) := by
  unfold State.clearLanes
  repeat' first
    | intro _
    | with_reducible assumption
    | with_reducible apply kept_setReg
    | with_reducible apply Kept.foldl

theorem kept_coldStart {q : List Instr} {s : State} {code : Nat} (hs : Kept q s) :
    Kept q (State.coldStart s code) := by
  unfold State.coldStart
  repeat' first
    | intro _
    | with_reducible assumption
    | (extract_lets +onlyGivenNames z; guard_hyp z : State := _; refine Kept.cut (x := z) ?_ (fun _ => ?_); rotate_left; clear_value z; revert z; intro _ _; rotate_left; unfold z; clear z)
    | (extract_lets +onlyGivenNames z; clear_value z; revert z; intro _)
    | with_reducible apply kept_setReg
    | with_reducible apply kept_boot
    | with_reducible apply Kept.ite
    | ((with_reducible apply Kept.of); rotate_left; (iterate 6 (with_reducible exact rfl)); with_reducible assumption)

theorem kept_cancelTests {q : List Instr} {s : State} {m : Mode} (hs : Kept q s) :
    Kept q (State.cancelTests s m) := by
  unfold State.cancelTests
  repeat' first
    | intro _
    | with_reducible assumption
    | (extract_lets +onlyGivenNames z; guard_hyp z : State := _; refine Kept.cut (x := z) ?_ (fun _ => ?_); rotate_left; clear_value z; revert z; intro _ _; rotate_left; unfold z; clear z)
    | (extract_lets +onlyGivenNames z; clear_value z; revert z; intro _)
    | with_reducible apply kept_clearLanes
    | with_reducible apply kept_setField
    | with_reducible apply Kept.ite
    | ((with_reducible apply Kept.of); rotate_left; (iterate 6 (with_reducible exact rfl)); with_reducible assumption)

theorem kept_warmReset {q : List Instr} {s : State} {code : Nat} {link : Bool} (hs : Kept q s) :
    Kept q (State.warmReset s code link) := by
  unfold State.warmReset
  refine Kept.cut (x := (s.trigger 0x41 0).closeStay) (kept_closeStay (kept_trigger hs)) fun h => ?_
  refine Kept.ofMaps h rfl (smWf_put (smWf_filter _ h.regs)) h.cells ?_ ?_
  · rw [afterReset_mem]
    exact h.host
  · rw [afterReset_rings]
    rfl

theorem kept_glbCmd {q : List Instr} {s : State} {v : Nat} {modes : List Mode} {f : State → State} (hs : Kept q s) (hf : ∀ (x0 : State), Kept q x0 → Kept q (f x0)) :
    Kept q (State.glbCmd s v modes f) := by
  unfold State.glbCmd
  repeat' first
    | intro _
    | with_reducible assumption
    | with_reducible apply hf
    | with_reducible apply kept_command
    | with_reducible apply kept_violation
    | with_reducible apply Kept.ite

theorem kept_execResetNRising {q : List Instr} {auto : Bool} {img : Bool} {s : State} (hs : Kept q s) :
    KeptO q (execResetNRising auto img s) := by
  unfold execResetNRising
  repeat' first
    | intro _
    | with_reducible assumption
    | (extract_lets +onlyGivenNames z; guard_hyp z : State := _; refine KeptO.cut (x := z) ?_ (fun _ => ?_); rotate_left; clear_value z; revert z; intro _ _; rotate_left; unfold z; clear z)
    | (extract_lets +onlyGivenNames z; clear_value z; revert z; intro _)
    | with_reducible apply kept_finish
    | with_reducible apply kept_boot
    | with_reducible apply Kept.ite
    | ((with_reducible apply Kept.of); rotate_left; (iterate 6 (with_reducible exact rfl)); with_reducible assumption)

theorem kept_execFwCommit {q : List Instr} {s : State} (hs : Kept q s) :
    KeptO q (execFwCommit s) := by
  unfold execFwCommit
  repeat' first
    | intro _
    | with_reducible assumption
    | (extract_lets +onlyGivenNames z; clear_value z; revert z; intro _)
    | with_reducible apply kept_finish
    | with_reducible apply kept_command
    | with_reducible apply kept_onlyIn
    | ((with_reducible apply Kept.of); rotate_left; (iterate 6 (with_reducible exact rfl)); with_reducible assumption)

theorem kept_execResetN {q : List Instr} {t : Nat} {s0 : State} (hs0 : Kept q s0) :
    KeptO q (execResetN t s0) := by
  unfold execResetN
  repeat' first
    | intro _
    | with_reducible assumption
    | (extract_lets +onlyGivenNames z; guard_hyp z : State := _; refine KeptO.cut (x := z) ?_ (fun _ => ?_); rotate_left; clear_value z; revert z; intro _ _; rotate_left; unfold z; clear z)
    | (extract_lets +onlyGivenNames z; clear_value z; revert z; intro _)
    | with_reducible apply kept_at_
    | with_reducible apply kept_finish
    | with_reducible apply kept_warmReset
    | with_reducible apply Kept.ite
    | ((with_reducible apply Kept.of); rotate_left; (iterate 6 (with_reducible exact rfl)); with_reducible assumption)

theorem kept_execVauxReturn {q : List Instr} {mv : Nat} {s : State} (hs : Kept q s) :
    KeptO q (execVauxReturn mv s) := by
  unfold execVauxReturn
  repeat' first
    | intro _
    | with_reducible assumption
    | (extract_lets +onlyGivenNames z; guard_hyp z : State := _; refine KeptO.cut (x := z) ?_ (fun _ => ?_); rotate_left; clear_value z; revert z; intro _ _; rotate_left; unfold z; clear z)
    | (extract_lets +onlyGivenNames z; clear_value z; revert z; intro _)
    | with_reducible apply kept_finish
    | with_reducible apply kept_coldStart
    | with_reducible apply KeptO.ite
    | with_reducible apply Kept.ite
    | with_reducible exact KeptO.fault
    | ((with_reducible apply Kept.of); rotate_left; (iterate 6 (with_reducible exact rfl)); with_reducible assumption)

theorem kept_execVauxLoss {q : List Instr} {s : State} (hs : Kept q s) :
    KeptO q (execVauxLoss s) := by
  unfold execVauxLoss
  repeat' first
    | with_reducible assumption
    | (extract_lets +onlyGivenNames z; clear_value z; revert z; intro _)
    | with_reducible apply kept_finish
    | with_reducible apply kept_setReg
    | ((with_reducible apply Kept.of); rotate_left; (iterate 6 (with_reducible exact rfl)); with_reducible assumption)

theorem kept_execColdStart {q : List Instr} {mv : Nat} {s : State} (hs : Kept q s) :
    KeptO q (execColdStart mv s) := by
  unfold execColdStart
  repeat' first
    | intro _
    | with_reducible assumption
    | (extract_lets +onlyGivenNames z; guard_hyp z : State := _; refine KeptO.cut (x := z) ?_ (fun _ => ?_); rotate_left; clear_value z; revert z; intro _ _; rotate_left; unfold z; clear z)
    | (extract_lets +onlyGivenNames z; clear_value z; revert z; intro _)
    | with_reducible apply kept_finish
    | with_reducible apply kept_coldStart
    | with_reducible apply KeptO.ite
    | with_reducible apply Kept.ite
    | with_reducible exact KeptO.fault
    | ((with_reducible apply Kept.of); rotate_left; (iterate 6 (with_reducible exact rfl)); with_reducible assumption)

theorem kept_execWarmReset {q : List Instr} {t : Nat} {s0 : State} (hs0 : Kept q s0) :
    KeptO q (execWarmReset t s0) := by
  unfold execWarmReset
  repeat' first
    | intro _
    | with_reducible assumption
    | with_reducible apply kept_finish
    | with_reducible apply kept_glbCmd
    | with_reducible apply kept_at_
    | with_reducible apply kept_boot
    | with_reducible apply kept_warmReset

theorem kept_clearJob {q : List Instr} {s : State} (hs : Kept q s) :
    Kept q (State.clearJob s) := by
  unfold State.clearJob
  repeat' first
    | with_reducible assumption
    | (extract_lets +onlyGivenNames z; guard_hyp z : State := _; refine Kept.cut (x := z) ?_ (fun _ => ?_); rotate_left; clear_value z; revert z; intro _ _; rotate_left; unfold z; clear z)
    | (extract_lets +onlyGivenNames z; clear_value z; revert z; intro _)
    | with_reducible apply kept_resetPath
    | ((with_reducible apply Kept.of); rotate_left; (iterate 6 (with_reducible exact rfl)); with_reducible assumption)

theorem kept_enterMode {q : List Instr} {s : State} {m : Mode} (hs : Kept q s) :
    Kept q (State.enterMode s m) := by
  unfold State.enterMode
  repeat' first
    | intro _
    | with_reducible assumption
    | (extract_lets +onlyGivenNames z; guard_hyp z : State := _; refine Kept.cut (x := z) ?_ (fun _ => ?_); rotate_left; clear_value z; revert z; intro _ _; rotate_left; unfold z; clear z)
    | (extract_lets +onlyGivenNames z; clear_value z; revert z; intro _)
    | with_reducible apply kept_clearJob
    | with_reducible apply kept_raise
    | with_reducible apply kept_cancelTests
    | with_reducible apply Kept.ite
    | ((with_reducible apply Kept.of); rotate_left; (iterate 6 (with_reducible exact rfl)); with_reducible assumption)

theorem kept_commitOff {q : List Instr} {s : State} (hs : Kept q s) :
    Kept q (State.commitOff s) := by
  unfold State.commitOff
  repeat' first
    | intro _
    | with_reducible assumption
    | (extract_lets +onlyGivenNames z; guard_hyp z : State := _; refine Kept.cut (x := z) ?_ (fun _ => ?_); rotate_left; clear_value z; revert z; intro _ _; rotate_left; unfold z; clear z)
    | with_reducible apply kept_checkpoint
    | with_reducible apply kept_inventoryAll
    | with_reducible apply kept_commitAll
    | with_reducible apply kept_trigger
    | with_reducible apply Kept.ite

theorem kept_execMgtWatchdog {q : List Instr} {s : State} (hs : Kept q s) :
    KeptO q (execMgtWatchdog s) := by
  unfold execMgtWatchdog
  repeat' first
    | intro _
    | with_reducible assumption
    | (extract_lets +onlyGivenNames z; guard_hyp z : State := _; refine KeptO.cut (x := z) ?_ (fun _ => ?_); rotate_left; clear_value z; revert z; intro _ _; rotate_left; unfold z; clear z)
    | with_reducible apply kept_finish
    | with_reducible apply kept_bump
    | with_reducible apply kept_linkUpNow
    | with_reducible apply kept_identFails
    | with_reducible apply kept_completeCmd
    | with_reducible apply kept_dropWait
    | with_reducible apply Kept.ite
    | with_reducible apply Kept.foldl

theorem kept_execColdReset {q : List Instr} {t : Nat} {s0 : State} (hs0 : Kept q s0) :
    KeptO q (execColdReset t s0) := by
  unfold execColdReset
  repeat' first
    | intro _
    | with_reducible assumption
    | with_reducible apply kept_finish
    | with_reducible apply kept_glbCmd
    | with_reducible apply kept_at_
    | with_reducible apply kept_coldStart
    | with_reducible apply kept_powerOff
    | with_reducible apply kept_commitOff

/-! Power. -/

theorem kept_setPlls {q : List Instr} {s : State} {target : Nat} (hs : Kept q s) :
    Kept q (State.setPlls s target) := by
  unfold State.setPlls
  repeat' first
    | (extract_lets +onlyGivenNames z; clear_value z; revert z; intro _)
    | ((with_reducible apply Kept.of); rotate_left; (iterate 6 (with_reducible exact rfl)); with_reducible assumption)

theorem kept_coldDomain {q : List Instr} {s : State} {d : Nat} (hs : Kept q s) :
    Kept q (State.coldDomain s d) := by
  unfold State.coldDomain
  repeat' first
    | with_reducible assumption
    | (extract_lets +onlyGivenNames z; guard_hyp z : State := _; refine Kept.cut (x := z) ?_ (fun _ => ?_); rotate_left; clear_value z; revert z; intro _ _; rotate_left; unfold z; clear z)
    | (extract_lets +onlyGivenNames z; clear_value z; revert z; intro _)
    | ((with_reducible apply Kept.of); rotate_left; (iterate 6 (with_reducible exact rfl)); with_reducible assumption)
    | ((with_reducible apply Kept.ofMaps); rotate_left; (with_reducible exact rfl); (with_reducible first | exact smWf_resetHostRegs (Kept.regs (by with_reducible assumption)) | exact smWf_put (smWf_filter _ (Kept.regs (by with_reducible assumption))) | exact smWf_filter _ (Kept.regs (by with_reducible assumption)) | exact Kept.regs (by with_reducible assumption)); (with_reducible first | exact Kept.cells (by with_reducible assumption) | exact smWf_nil); (with_reducible exact Kept.host (by with_reducible assumption)); (with_reducible first | exact Kept.rings (by with_reducible assumption) | exact smWf_filter _ (Kept.rings (by with_reducible assumption)) | exact smWf_nil); with_reducible assumption)
    | split

theorem kept_lanesOff {q : List Instr} {s : State} (hs : Kept q s) :
    Kept q (State.lanesOff s) := by
  unfold State.lanesOff
  repeat' first
    | (extract_lets +onlyGivenNames z; clear_value z; revert z; intro _)
    | ((with_reducible apply Kept.of); rotate_left; (iterate 6 (with_reducible exact rfl)); with_reducible assumption)

theorem kept_wake {q : List Instr} {s : State} (hs : Kept q s) :
    Kept q (State.wake s) := by
  unfold State.wake
  repeat' first
    | (extract_lets +onlyGivenNames z; clear_value z; revert z; intro _)
    | ((with_reducible apply Kept.of); rotate_left; (iterate 6 (with_reducible exact rfl)); with_reducible assumption)

theorem kept_enterOn {q : List Instr} {s : State} {d : Nat} {old : Nat} (hs : Kept q s) :
    Kept q (State.enterOn s d old) := by
  unfold State.enterOn
  repeat' first
    | intro _
    | with_reducible assumption
    | (extract_lets +onlyGivenNames z; guard_hyp z : State := _; refine Kept.cut (x := z) ?_ (fun _ => ?_); rotate_left; clear_value z; revert z; intro _ _; rotate_left; unfold z; clear z)
    | (extract_lets +onlyGivenNames z; clear_value z; revert z; intro _)
    | with_reducible apply kept_coldDomain
    | with_reducible apply Kept.ite
    | ((with_reducible apply Kept.of); rotate_left; (iterate 6 (with_reducible exact rfl)); with_reducible assumption)

theorem kept_leaveOn {q : List Instr} {s : State} {d : Nat} (hs : Kept q s) :
    Kept q (State.leaveOn s d) := by
  unfold State.leaveOn
  repeat' first
    | with_reducible assumption
    | (extract_lets +onlyGivenNames z; clear_value z; revert z; intro _)
    | with_reducible apply kept_lanesOff
    | ((with_reducible apply Kept.of); rotate_left; (iterate 6 (with_reducible exact rfl)); with_reducible assumption)
    | split

theorem kept_setDomain {q : List Instr} {s : State} {d : Nat} {code : Nat} (hs : Kept q s) :
    Kept q (State.setDomain s d code) := by
  unfold State.setDomain
  repeat' first
    | intro _
    | with_reducible assumption
    | (extract_lets +onlyGivenNames z; guard_hyp z : State := _; refine Kept.cut (x := z) ?_ (fun _ => ?_); rotate_left; clear_value z; revert z; intro _ _; rotate_left; unfold z; clear z)
    | (extract_lets +onlyGivenNames z; clear_value z; revert z; intro _)
    | with_reducible apply kept_leaveOn
    | with_reducible apply kept_enterOn
    | with_reducible apply Kept.ite
    | ((with_reducible apply Kept.of); rotate_left; (iterate 6 (with_reducible exact rfl)); with_reducible assumption)
    | ((with_reducible apply Kept.ofMaps); rotate_left; (with_reducible exact rfl); (with_reducible first | exact smWf_resetHostRegs (Kept.regs (by with_reducible assumption)) | exact smWf_put (smWf_filter _ (Kept.regs (by with_reducible assumption))) | exact smWf_filter _ (Kept.regs (by with_reducible assumption)) | exact Kept.regs (by with_reducible assumption)); (with_reducible first | exact Kept.cells (by with_reducible assumption) | exact smWf_nil); (with_reducible exact Kept.host (by with_reducible assumption)); (with_reducible first | exact Kept.rings (by with_reducible assumption) | exact smWf_filter _ (Kept.rings (by with_reducible assumption)) | exact smWf_nil); with_reducible assumption)

theorem kept_setDomains {q : List Instr} {s : State} {codes : List Nat} (hs : Kept q s) :
    Kept q (State.setDomains s codes) := by
  unfold State.setDomains
  repeat' first
    | intro _
    | with_reducible assumption
    | with_reducible apply kept_setDomain
    | with_reducible apply Kept.foldl

theorem kept_enterPower {q : List Instr} {s : State} {target : Nat} {doms : Nat} (hs : Kept q s) :
    Kept q (State.enterPower s target doms) := by
  unfold State.enterPower
  repeat' first
    | intro _
    | with_reducible assumption
    | (extract_lets +onlyGivenNames z; guard_hyp z : State := _; refine Kept.cut (x := z) ?_ (fun _ => ?_); rotate_left; clear_value z; revert z; intro _ _; rotate_left; unfold z; clear z)
    | (extract_lets +onlyGivenNames z; clear_value z; revert z; intro _)
    | with_reducible apply kept_closeStay
    | with_reducible apply kept_setDomains
    | with_reducible apply kept_setPlls
    | with_reducible apply Kept.ite
    | ((with_reducible apply Kept.of); rotate_left; (iterate 6 (with_reducible exact rfl)); with_reducible assumption)

theorem kept_pushResult {q : List Instr} {s : State} {x1 : PwrResult} (hs : Kept q s) :
    Kept q (State.pushResult s x1) := by
  unfold State.pushResult
  repeat' first
    | intro _
    | with_reducible assumption
    | (extract_lets +onlyGivenNames z; guard_hyp z : State := _; refine Kept.cut (x := z) ?_ (fun _ => ?_); rotate_left; clear_value z; revert z; intro _ _; rotate_left; unfold z; clear z)
    | (extract_lets +onlyGivenNames z; clear_value z; revert z; intro _)
    | with_reducible apply kept_bump
    | with_reducible apply kept_raise
    | with_reducible apply Kept.ite
    | ((with_reducible apply Kept.of); rotate_left; (iterate 6 (with_reducible exact rfl)); with_reducible assumption)

theorem kept_dropSlot {q : List Instr} {s : State} (hs : Kept q s) :
    Kept q (State.dropSlot s) := by
  unfold State.dropSlot
  repeat' first
    | with_reducible assumption
    | (extract_lets +onlyGivenNames z; clear_value z; revert z; intro _)
    | with_reducible apply kept_pushResult
    | ((with_reducible apply Kept.of); rotate_left; (iterate 6 (with_reducible exact rfl)); with_reducible assumption)
    | split

theorem kept_takeUp {q : List Instr} {s : State} {q1 : PwrReq} (hs : Kept q s) :
    Kept q (State.takeUp s q1) := by
  unfold State.takeUp
  repeat' first
    | intro _
    | with_reducible assumption
    | (extract_lets +onlyGivenNames z; guard_hyp z : State := _; refine Kept.cut (x := z) ?_ (fun _ => ?_); rotate_left; clear_value z; revert z; intro _ _; rotate_left; unfold z; clear z)
    | (extract_lets +onlyGivenNames z; clear_value z; revert z; intro _)
    | with_reducible apply kept_bump
    | with_reducible apply kept_pushResult
    | with_reducible apply Kept.ite
    | ((with_reducible apply Kept.of); rotate_left; (iterate 6 (with_reducible exact rfl)); with_reducible assumption)
    | split

theorem kept_execPwrResultPop {q : List Instr} {v : Sys2Proof.Word} {s : State} (hs : Kept q s) :
    KeptO q (execPwrResultPop v s) := by
  unfold execPwrResultPop
  repeat' first
    | intro _
    | with_reducible assumption
    | (extract_lets +onlyGivenNames z; clear_value z; revert z; intro _)
    | with_reducible apply kept_finish
    | with_reducible apply kept_command
    | with_reducible apply Kept.ite
    | ((with_reducible apply Kept.of); rotate_left; (iterate 6 (with_reducible exact rfl)); with_reducible assumption)

theorem kept_execWakeTimer {q : List Instr} {t : Nat} {s0 : State} (hs0 : Kept q s0) :
    KeptO q (execWakeTimer t s0) := by
  unfold execWakeTimer
  repeat' first
    | intro _
    | with_reducible assumption
    | (extract_lets +onlyGivenNames z; guard_hyp z : State := _; refine KeptO.cut (x := z) ?_ (fun _ => ?_); rotate_left; clear_value z; revert z; intro _ _; rotate_left; unfold z; clear z)
    | with_reducible apply kept_at_
    | with_reducible apply kept_finish
    | with_reducible apply kept_wake
    | with_reducible apply Kept.ite

theorem kept_request {q : List Instr} {s : State} {target : Nat} (hs : Kept q s) :
    Kept q (State.request s target) := by
  unfold State.request
  repeat' first
    | intro _
    | with_reducible assumption
    | (extract_lets +onlyGivenNames z; guard_hyp z : State := _; refine Kept.cut (x := z) ?_ (fun _ => ?_); rotate_left; clear_value z; revert z; intro _ _; rotate_left; unfold z; clear z)
    | (extract_lets +onlyGivenNames z; clear_value z; revert z; intro _)
    | with_reducible apply kept_setReg
    | with_reducible apply kept_dropSlot
    | with_reducible apply kept_takeUp
    | with_reducible apply Kept.ite
    | ((with_reducible apply Kept.of); rotate_left; (iterate 6 (with_reducible exact rfl)); with_reducible assumption)

theorem kept_nextRequest {q : List Instr} {s : State} (hs : Kept q s) :
    Kept q (State.nextRequest s) := by
  unfold State.nextRequest
  repeat' first
    | with_reducible assumption
    | (extract_lets +onlyGivenNames z; clear_value z; revert z; intro _)
    | with_reducible apply kept_takeUp
    | ((with_reducible apply Kept.of); rotate_left; (iterate 6 (with_reducible exact rfl)); with_reducible assumption)
    | split

theorem kept_execWakePin {q : List Instr} {low : Bool} {t : Nat} {s0 : State} (hs0 : Kept q s0) :
    KeptO q (execWakePin low t s0) := by
  unfold execWakePin
  repeat' first
    | intro _
    | with_reducible assumption
    | (extract_lets +onlyGivenNames z; guard_hyp z : State := _; refine KeptO.cut (x := z) ?_ (fun _ => ?_); rotate_left; clear_value z; revert z; intro _ _; rotate_left; unfold z; clear z)
    | (extract_lets +onlyGivenNames z; clear_value z; revert z; intro _)
    | with_reducible apply kept_at_
    | with_reducible apply kept_finish
    | with_reducible apply kept_request
    | with_reducible apply kept_wake
    | with_reducible apply kept_coldStart
    | with_reducible apply Kept.ite
    | ((with_reducible apply Kept.of); rotate_left; (iterate 6 (with_reducible exact rfl)); with_reducible assumption)
    | split

theorem kept_execPowerRequest {q : List Instr} {v : Sys2Proof.Word} {t : Nat} {s0 : State} (hs0 : Kept q s0) :
    KeptO q (execPowerRequest v t s0) := by
  unfold execPowerRequest
  repeat' first
    | intro _
    | with_reducible assumption
    | with_reducible apply kept_finish
    | with_reducible apply kept_command
    | with_reducible apply kept_at_
    | with_reducible apply kept_request

theorem kept_execDeepGraceExpiry {q : List Instr} {t : Nat} {s0 : State} (hs0 : Kept q s0) :
    KeptO q (execDeepGraceExpiry t s0) := by
  unfold execDeepGraceExpiry
  repeat' first
    | intro _
    | with_reducible assumption
    | (extract_lets +onlyGivenNames z; guard_hyp z : State := _; refine KeptO.cut (x := z) ?_ (fun _ => ?_); rotate_left; clear_value z; revert z; intro _ _; rotate_left; unfold z; clear z)
    | (extract_lets +onlyGivenNames z; guard_hyp z : Hst := _; revert z; intro _)
    | (extract_lets +onlyGivenNames z; clear_value z; revert z; intro _)
    | with_reducible apply kept_at_
    | with_reducible apply kept_finish
    | with_reducible apply kept_setDomain
    | with_reducible apply kept_setPlls
    | with_reducible apply kept_closeStay
    | with_reducible apply kept_nextRequest
    | with_reducible apply kept_powerOff
    | with_reducible apply kept_coldStart
    | with_reducible apply Kept.ite
    | ((with_reducible apply Kept.of); rotate_left; (iterate 6 (with_reducible exact rfl)); with_reducible assumption)
    | split

theorem kept_linkBack {q : List Instr} {s : State} (hs : Kept q s) :
    Kept q (State.linkBack s) := by
  unfold State.linkBack
  repeat' first
    | intro _
    | with_reducible assumption
    | (extract_lets +onlyGivenNames z; guard_hyp z : Hst := _; revert z; intro _)
    | with_reducible apply kept_releaseHeld
    | with_reducible apply Kept.ite
    | ((with_reducible apply Kept.of); rotate_left; (iterate 6 (with_reducible exact rfl)); with_reducible assumption)

theorem kept_autoRun {q : List Instr} {s : State} (hs : Kept q s) :
    Kept q (State.autoRun s) := by
  unfold State.autoRun
  repeat' first
    | intro _
    | with_reducible assumption
    | (extract_lets +onlyGivenNames z; guard_hyp z : State := _; refine Kept.cut (x := z) ?_ (fun _ => ?_); rotate_left; clear_value z; revert z; intro _ _; rotate_left; unfold z; clear z)
    | (extract_lets +onlyGivenNames z; clear_value z; revert z; intro _)
    | with_reducible apply kept_enterPower
    | with_reducible apply kept_dropSlot
    | with_reducible apply kept_linkBack
    | with_reducible apply kept_pushResult
    | with_reducible apply Kept.ite

theorem kept_awake {q : List Instr} {s : State} {f : State → State} (hs : Kept q s) (hf : ∀ (x0 : State), Kept q x0 → Kept q (f x0)) :
    Kept q (State.awake s f) := by
  unfold State.awake
  repeat' first
    | intro _
    | with_reducible assumption
    | with_reducible apply hf
    | with_reducible apply kept_autoRun
    | with_reducible apply Kept.ite

theorem kept_recalAfterRest {q : List Instr} {s : State} {r : List Sys2Proof.ChanMargins} (hs : Kept q s) :
    Kept q (State.recalAfterRest s r) := by
  unfold State.recalAfterRest
  repeat' first
    | intro _
    | with_reducible assumption
    | with_reducible apply kept_recalChan
    | with_reducible apply Kept.ite
    | with_reducible apply Kept.foldl

theorem kept_execPowerTransitionEnd {q : List Instr} {t : Nat} {r : List Sys2Proof.ChanMargins} {s0 : State} (hs0 : Kept q s0) :
    KeptO q (execPowerTransitionEnd t r s0) := by
  unfold execPowerTransitionEnd
  repeat' first
    | intro _
    | with_reducible assumption
    | (extract_lets +onlyGivenNames z; guard_hyp z : State := _; refine Kept.cut (x := z) ?_ (fun _ => ?_); rotate_left; clear_value z; revert z; intro _ _; rotate_left; unfold z; clear z)
    | (extract_lets +onlyGivenNames z; guard_hyp z : State := _; refine KeptO.cut (x := z) ?_ (fun _ => ?_); rotate_left; clear_value z; revert z; intro _ _; rotate_left; unfold z; clear z)
    | (extract_lets +onlyGivenNames z; clear_value z; revert z; intro _)
    | with_reducible apply kept_at_
    | with_reducible apply kept_finish
    | with_reducible apply kept_setDomains
    | with_reducible apply kept_commitOff
    | with_reducible apply kept_pushResult
    | with_reducible apply kept_enterPower
    | with_reducible apply kept_recalAfterRest
    | with_reducible apply kept_linkBack
    | with_reducible apply kept_nextRequest
    | with_reducible apply Kept.ite
    | ((with_reducible apply Kept.of); rotate_left; (iterate 6 (with_reducible exact rfl)); with_reducible assumption)
    | split

end Sys2Proof.Laws
end

