-- ==== Sys2Proof/Laws/KeptRim.lean ====
section
/-! SUPPORT. What the Rim link, the sensors, Upsett and the job key keep: one lemma for each operation and each command (see Kept). -/

namespace Sys2Proof.Laws

open Sys2Proof.Machine

/-! Rim. -/

theorem kept_lpreq {q : List Instr} {s : State} {p : Nat} {st : Nat} (hs : Kept q s) :
    Kept q (State.lpreq s p st) := by
  unfold State.lpreq
  repeat' first
    | intro _
    | with_reducible assumption
    | (extract_lets +onlyGivenNames z; clear_value z; revert z; intro _)
    | with_reducible apply kept_modLane
    | with_reducible apply Kept.ite

theorem kept_mirrorFollow {q : List Instr} {s : State} (hs : Kept q s) :
    Kept q (State.mirrorFollow s) := by
  unfold State.mirrorFollow
  repeat' first
    | intro _
    | with_reducible assumption
    | (extract_lets +onlyGivenNames z; guard_hyp z : State := _; refine Kept.cut (x := z) ?_ (fun _ => ?_); rotate_left; clear_value z; revert z; intro _ _; rotate_left; unfold z; clear z)
    | (extract_lets +onlyGivenNames z; clear_value z; revert z; intro _)
    | with_reducible apply kept_bumpBy
    | with_reducible apply kept_setReg
    | with_reducible apply Kept.ite
    | ((with_reducible apply Kept.of); rotate_left; (iterate 6 (with_reducible exact rfl)); with_reducible assumption)

theorem kept_mailbox {q : List Instr} {s : State} {p : Nat} {words : List Nat} {bad : Bool} (hs : Kept q s) :
    Kept q (State.mailbox s p words bad) := by
  unfold State.mailbox
  repeat' first
    | intro _
    | with_reducible assumption
    | (extract_lets +onlyGivenNames z; guard_hyp z : State := _; refine Kept.cut (x := z) ?_ (fun _ => ?_); rotate_left; clear_value z; revert z; intro _ _; rotate_left; unfold z; clear z)
    | (extract_lets +onlyGivenNames z; clear_value z; revert z; intro _)
    | with_reducible apply kept_bump
    | with_reducible apply kept_memWrite
    | with_reducible apply kept_setReg
    | with_reducible apply Kept.ite
    | ((with_reducible apply Kept.of); rotate_left; (iterate 6 (with_reducible exact rfl)); with_reducible assumption)

theorem kept_badRecord_eq {q : List Instr} {s : State} {off : Nat} (hs : Kept q s) {s' : State} {x'} (e' : State.badRecord s off = (s', x')) :
    Kept q s' := by
  unfold State.badRecord at e'
  repeat' first
    | with_reducible assumption
    | with_reducible apply kept_raise
    | with_reducible apply kept_bump
    | ((with_reducible refine Kept.of_pair ?_ e'); clear e')

theorem kept_badRecord {q : List Instr} {s : State} {off : Nat} (hs : Kept q s) : Kept q (State.badRecord s off).1 :=
  Kept.of_eq fun _ _ e' => kept_badRecord_eq hs e'

theorem kept_expireTemps {q : List Instr} {s : State} {slack : Nat} (hs : Kept q s) :
    Kept q (State.expireTemps s slack) := by
  unfold State.expireTemps
  repeat' first
    | intro _
    | with_reducible assumption
    | (extract_lets +onlyGivenNames z; guard_hyp z : State := _; refine Kept.cut (x := z) ?_ (fun _ => ?_); rotate_left; clear_value z; revert z; intro _ _; rotate_left; unfold z; clear z)
    | (extract_lets +onlyGivenNames z; clear_value z; revert z; intro _)
    | with_reducible apply kept_raise
    | with_reducible apply kept_bump
    | with_reducible apply Kept.ite
    | with_reducible apply Kept.foldl
    | ((with_reducible apply Kept.of); rotate_left; (iterate 6 (with_reducible exact rfl)); with_reducible assumption)

theorem kept_execLaneLpIdle {q : List Instr} {t : Nat} {s0 : State} (hs0 : Kept q s0) :
    KeptO q (execLaneLpIdle t s0) := by
  unfold execLaneLpIdle
  repeat' first
    | intro _
    | with_reducible assumption
    | (extract_lets +onlyGivenNames z; guard_hyp z : State := _; refine KeptO.cut (x := z) ?_ (fun _ => ?_); rotate_left; clear_value z; revert z; intro _ _; rotate_left; unfold z; clear z)
    | (extract_lets +onlyGivenNames z; clear_value z; revert z; intro _)
    | with_reducible apply kept_at_
    | with_reducible apply kept_finish
    | with_reducible apply kept_sendBlocks
    | with_reducible apply kept_modLane
    | with_reducible apply Kept.ite
    | with_reducible apply Kept.foldl

theorem kept_execControlBlockRx {q : List Instr} {lane : Nat} {block : Nat} {s : State} (hs : Kept q s) :
    KeptO q (execControlBlockRx lane block s) := by
  unfold execControlBlockRx
  repeat' first
    | intro _
    | with_reducible assumption
    | with_reducible apply kept_finish
    | with_reducible apply kept_bump
    | with_reducible apply kept_lpreq
    | with_reducible apply Kept.ite

theorem kept_execLaneRetrain {q : List Instr} {lane : Nat} {r : Sys2Proof.LaneTraining} {s : State} (hs : Kept q s) :
    KeptO q (execLaneRetrain lane r s) := by
  unfold execLaneRetrain
  repeat' first
    | intro _
    | with_reducible assumption
    | with_reducible apply kept_finish
    | with_reducible apply kept_command
    | with_reducible apply kept_retrainLane
    | with_reducible apply Kept.ite

theorem kept_execLaneInject {q : List Instr} {lane : Nat} {v : Sys2Proof.Word} {s : State} (hs : Kept q s) :
    KeptO q (execLaneInject lane v s) := by
  unfold execLaneInject
  repeat' first
    | intro _
    | with_reducible assumption
    | (extract_lets +onlyGivenNames z; clear_value z; revert z; intro _)
    | with_reducible apply kept_finish
    | with_reducible apply kept_command
    | with_reducible apply kept_onlyIn
    | with_reducible apply kept_setReg

theorem kept_execLanePrbs {q : List Instr} {lane : Nat} {v : Sys2Proof.Word} {s : State} (hs : Kept q s) :
    KeptO q (execLanePrbs lane v s) := by
  unfold execLanePrbs
  repeat' first
    | intro _
    | with_reducible assumption
    | (extract_lets +onlyGivenNames z; guard_hyp z : State := _; refine Kept.cut (x := z) ?_ (fun _ => ?_); rotate_left; clear_value z; revert z; intro _ _; rotate_left; unfold z; clear z)
    | (extract_lets +onlyGivenNames z; clear_value z; revert z; intro _)
    | with_reducible apply kept_finish
    | with_reducible apply kept_command
    | with_reducible apply kept_violation
    | with_reducible apply kept_setReg
    | with_reducible apply kept_next
    | with_reducible apply kept_bumpBy
    | with_reducible apply Kept.ite

theorem kept_execTelRateWindow {q : List Instr} {s : State} (hs : Kept q s) :
    KeptO q (execTelRateWindow s) := by
  unfold execTelRateWindow
  repeat' first
    | with_reducible assumption
    | (extract_lets +onlyGivenNames z; clear_value z; revert z; intro _)
    | with_reducible apply kept_finish
    | ((with_reducible apply Kept.of); rotate_left; (iterate 6 (with_reducible exact rfl)); with_reducible assumption)

theorem kept_execTempQuorumTimeout {q : List Instr} {t : Nat} {s0 : State} (hs0 : Kept q s0) :
    KeptO q (execTempQuorumTimeout t s0) := by
  unfold execTempQuorumTimeout
  repeat' first
    | with_reducible assumption
    | with_reducible apply kept_finish
    | with_reducible apply kept_expireTemps
    | with_reducible apply kept_at_

theorem kept_execMailboxReadAdvance {q : List Instr} {v : Sys2Proof.Word} {s : State} (hs : Kept q s) :
    KeptO q (execMailboxReadAdvance v s) := by
  unfold execMailboxReadAdvance
  repeat' first
    | intro _
    | with_reducible assumption
    | with_reducible apply kept_finish
    | with_reducible apply kept_command
    | with_reducible apply kept_mirrorFollow
    | with_reducible apply kept_setReg

theorem kept_execLpreq {q : List Instr} {lane : Nat} {st : Nat} {s : State} (hs : Kept q s) :
    KeptO q (execLpreq lane st s) := by
  unfold execLpreq
  repeat' first
    | intro _
    | with_reducible assumption
    | with_reducible apply kept_finish
    | with_reducible apply kept_lpreq
    | with_reducible apply Kept.ite

theorem kept_trainDone {q : List Instr} {s : State} (hs : Kept q s) :
    Kept q (State.trainDone s) := by
  unfold State.trainDone
  repeat' first
    | intro _
    | with_reducible assumption
    | with_reducible apply kept_completeCmd
    | with_reducible apply kept_dropWait
    | with_reducible apply Kept.foldl
    | split

theorem kept_identRecord_eq {q : List Instr} {s : State} {f : RetFrame} (hs : Kept q s) {s' : State} {x'} (e' : State.identRecord s f = (s', x')) :
    Kept q s' := by
  unfold State.identRecord at e'
  repeat' first
    | with_reducible assumption
    | (extract_lets +onlyGivenNames z at e'; clear_value z; revert z; intro _ e')
    | split at e'
    | with_reducible apply kept_trainDone
    | with_reducible apply kept_linkUpNow
    | with_reducible apply kept_identPasses
    | refine kept_badRecord_eq ?_ (by with_reducible assumption)
    | ((with_reducible refine Kept.of_pair ?_ e'); clear e')

theorem kept_identRecord {q : List Instr} {s : State} {f : RetFrame} (hs : Kept q s) : Kept q (State.identRecord s f).1 :=
  Kept.of_eq fun _ _ e' => kept_identRecord_eq hs e'

theorem kept_execChallengeResend {q : List Instr} {t : Nat} {s0 : State} (hs0 : Kept q s0) :
    KeptO q (execChallengeResend t s0) := by
  unfold execChallengeResend
  repeat' first
    | intro _
    | with_reducible assumption
    | (extract_lets +onlyGivenNames z; guard_hyp z : State := _; refine KeptO.cut (x := z) ?_ (fun _ => ?_); rotate_left; clear_value z; revert z; intro _ _; rotate_left; unfold z; clear z)
    | (extract_lets +onlyGivenNames z; clear_value z; revert z; intro _)
    | with_reducible apply kept_at_
    | with_reducible apply kept_finish
    | with_reducible apply kept_trainDone
    | with_reducible apply kept_linkUpNow
    | with_reducible apply kept_identFails
    | with_reducible apply kept_sendChallenge
    | with_reducible apply Kept.ite
    | ((with_reducible apply Kept.of); rotate_left; (iterate 6 (with_reducible exact rfl)); with_reducible assumption)
    | split

theorem kept_execRunEnd {q : List Instr} {t : Nat} {s0 : State} (hs0 : Kept q s0) :
    KeptO q (execRunEnd t s0) := by
  unfold execRunEnd
  repeat' first
    | intro _
    | with_reducible assumption
    | (extract_lets +onlyGivenNames z; guard_hyp z : State := _; refine KeptO.cut (x := z) ?_ (fun _ => ?_); rotate_left; clear_value z; revert z; intro _ _; rotate_left; unfold z; clear z)
    | with_reducible apply kept_at_
    | with_reducible apply kept_finish
    | with_reducible apply kept_endRun
    | with_reducible apply Kept.ite
    | split

theorem kept_takeTemps {q : List Instr} {s : State} {meds : List Int} (hs : Kept q s) :
    Kept q (State.takeTemps s meds) := by
  unfold State.takeTemps
  repeat' first
    | intro _
    | with_reducible assumption
    | (extract_lets +onlyGivenNames z; guard_hyp z : State := _; refine Kept.cut (x := z) ?_ (fun _ => ?_); rotate_left; clear_value z; revert z; intro _ _; rotate_left; unfold z; clear z)
    | (extract_lets +onlyGivenNames z; clear_value z; revert z; intro _)
    | with_reducible apply kept_bumpBy
    | with_reducible apply kept_raise
    | with_reducible apply kept_setReg
    | with_reducible apply kept_setField
    | with_reducible apply kept_plateSample
    | with_reducible apply Kept.ite
    | with_reducible apply Kept.foldl
    | ((with_reducible apply Kept.of); rotate_left; (iterate 6 (with_reducible exact rfl)); with_reducible assumption)

theorem kept_execAckDrainTimeout {q : List Instr} {t : Nat} {s0 : State} (hs0 : Kept q s0) :
    KeptO q (execAckDrainTimeout t s0) := by
  unfold execAckDrainTimeout
  repeat' first
    | intro _
    | with_reducible assumption
    | (extract_lets +onlyGivenNames z; guard_hyp z : State := _; refine Kept.cut (x := z) ?_ (fun _ => ?_); rotate_left; clear_value z; revert z; intro _ _; rotate_left; unfold z; clear z)
    | (extract_lets +onlyGivenNames z; guard_hyp z : State := _; refine KeptO.cut (x := z) ?_ (fun _ => ?_); rotate_left; clear_value z; revert z; intro _ _; rotate_left; unfold z; clear z)
    | with_reducible apply kept_at_
    | with_reducible apply kept_finish
    | with_reducible apply kept_laneLost
    | with_reducible apply kept_frameLost
    | with_reducible apply Kept.ite
    | with_reducible apply Kept.foldl
    | split

theorem kept_settleTemps {q : List Instr} {s : State} {rs : List TempReport} (hs : Kept q s) :
    Kept q (State.settleTemps s rs) := by
  unfold State.settleTemps
  repeat' first
    | intro _
    | with_reducible assumption
    | (extract_lets +onlyGivenNames z; clear_value z; revert z; intro _)
    | with_reducible apply kept_takeTemps
    | with_reducible apply kept_raise
    | with_reducible apply kept_bumpBy
    | with_reducible apply Kept.ite

theorem kept_tempReport {q : List Instr} {s : State} {l : Nat} {sample : Nat} {vals : List Int} (hs : Kept q s) :
    Kept q (State.tempReport s l sample vals) := by
  unfold State.tempReport
  repeat' first
    | intro _
    | with_reducible assumption
    | (extract_lets +onlyGivenNames z; guard_hyp z : State := _; refine Kept.cut (x := z) ?_ (fun _ => ?_); rotate_left; clear_value z; revert z; intro _ _; rotate_left; unfold z; clear z)
    | (extract_lets +onlyGivenNames z; clear_value z; revert z; intro _)
    | with_reducible apply kept_expireTemps
    | with_reducible apply kept_settleTemps
    | with_reducible apply Kept.ite
    | ((with_reducible apply Kept.of); rotate_left; (iterate 6 (with_reducible exact rfl)); with_reducible assumption)

theorem kept_execLaneRetire {q : List Instr} {lane : Nat} {t : Nat} {s0 : State} (hs0 : Kept q s0) :
    KeptO q (execLaneRetire lane t s0) := by
  unfold execLaneRetire
  repeat' first
    | intro _
    | with_reducible assumption
    | (extract_lets +onlyGivenNames z; guard_hyp z : State := _; refine Kept.cut (x := z) ?_ (fun _ => ?_); rotate_left; clear_value z; revert z; intro _ _; rotate_left; unfold z; clear z)
    | (extract_lets +onlyGivenNames z; guard_hyp z : State := _; refine KeptO.cut (x := z) ?_ (fun _ => ?_); rotate_left; clear_value z; revert z; intro _ _; rotate_left; unfold z; clear z)
    | with_reducible apply kept_at_
    | with_reducible apply kept_finish
    | with_reducible apply kept_command
    | with_reducible apply kept_laneFault
    | with_reducible apply kept_retireLane
    | with_reducible apply Kept.ite

theorem kept_execLaneLock {q : List Instr} {lane : Nat} {t : Nat} {s0 : State} (hs0 : Kept q s0) :
    KeptO q (execLaneLock lane t s0) := by
  unfold execLaneLock
  repeat' first
    | intro _
    | with_reducible assumption
    | (extract_lets +onlyGivenNames z; guard_hyp z : State := _; refine KeptO.cut (x := z) ?_ (fun _ => ?_); rotate_left; clear_value z; revert z; intro _ _; rotate_left; unfold z; clear z)
    | with_reducible apply kept_at_
    | with_reducible apply kept_finish
    | with_reducible apply kept_laneFault
    | with_reducible apply Kept.ite

theorem kept_execLaneLos {q : List Instr} {lane : Nat} {t : Nat} {s0 : State} (hs0 : Kept q s0) :
    KeptO q (execLaneLos lane t s0) := by
  unfold execLaneLos
  repeat' first
    | intro _
    | with_reducible assumption
    | (extract_lets +onlyGivenNames z; guard_hyp z : State := _; refine KeptO.cut (x := z) ?_ (fun _ => ?_); rotate_left; clear_value z; revert z; intro _ _; rotate_left; unfold z; clear z)
    | with_reducible apply kept_at_
    | with_reducible apply kept_finish
    | with_reducible apply kept_laneFault
    | with_reducible apply Kept.ite

theorem kept_execLaneRelockTimeout {q : List Instr} {lane : Nat} {t : Nat} {s0 : State} (hs0 : Kept q s0) :
    KeptO q (execLaneRelockTimeout lane t s0) := by
  unfold execLaneRelockTimeout
  repeat' first
    | intro _
    | with_reducible assumption
    | (extract_lets +onlyGivenNames z; guard_hyp z : State := _; refine Kept.cut (x := z) ?_ (fun _ => ?_); rotate_left; clear_value z; revert z; intro _ _; rotate_left; unfold z; clear z)
    | (extract_lets +onlyGivenNames z; guard_hyp z : State := _; refine KeptO.cut (x := z) ?_ (fun _ => ?_); rotate_left; clear_value z; revert z; intro _ _; rotate_left; unfold z; clear z)
    | (extract_lets +onlyGivenNames z; clear_value z; revert z; intro _)
    | with_reducible apply kept_at_
    | with_reducible apply kept_finish
    | with_reducible apply kept_laneFault
    | with_reducible apply kept_sendBlocks
    | with_reducible apply kept_modLane
    | with_reducible apply Kept.ite
    | with_reducible apply Kept.foldl
    | ((with_reducible apply Kept.of); rotate_left; (iterate 6 (with_reducible exact rfl)); with_reducible assumption)
    | split

theorem kept_execRetSilent {q : List Instr} {lane : Nat} {t : Nat} {s0 : State} (hs0 : Kept q s0) :
    KeptO q (execRetSilent lane t s0) := by
  unfold execRetSilent
  repeat' first
    | intro _
    | with_reducible assumption
    | (extract_lets +onlyGivenNames z; guard_hyp z : State := _; refine KeptO.cut (x := z) ?_ (fun _ => ?_); rotate_left; clear_value z; revert z; intro _ _; rotate_left; unfold z; clear z)
    | (extract_lets +onlyGivenNames z; clear_value z; revert z; intro _)
    | with_reducible apply kept_at_
    | with_reducible apply kept_finish
    | with_reducible apply kept_laneFault
    | with_reducible apply Kept.ite

theorem kept_record_eq {q : List Instr} {s : State} {p : Nat} {f : RetFrame} (hs : Kept q s) {s' : State} {x'} (e' : State.record s p f = (s', x')) :
    Kept q s' := by
  unfold State.record at e'
  repeat' first
    | with_reducible assumption
    | (extract_lets +onlyGivenNames z at e'; clear_value z; revert z; intro _ e')
    | split at e'
    | with_reducible apply kept_tempReport
    | with_reducible apply kept_setReg
    | refine kept_badRecord_eq ?_ (by with_reducible assumption)
    | refine kept_identRecord_eq ?_ (by with_reducible assumption)
    | ((with_reducible refine Kept.of_pair ?_ e'); clear e')

theorem kept_record {q : List Instr} {s : State} {p : Nat} {f : RetFrame} (hs : Kept q s) : Kept q (State.record s p f).1 :=
  Kept.of_eq fun _ _ e' => kept_record_eq hs e'

theorem kept_acknowledge {q : List Instr} {s : State} {p : Nat} {l : Nat} {f : RetFrame} (hs : Kept q s) :
    Kept q (State.acknowledge s p l f) := by
  unfold State.acknowledge
  repeat' first
    | with_reducible assumption
    | (extract_lets +onlyGivenNames z; guard_hyp z : State := _; refine Kept.cut (x := z) ?_ (fun _ => ?_); rotate_left; clear_value z; revert z; intro _ _; rotate_left; unfold z; clear z)
    | (extract_lets +onlyGivenNames z; clear_value z; revert z; intro _)
    | with_reducible apply kept_bump
    | with_reducible apply kept_modLane
    | with_reducible apply kept_frameNak
    | ((with_reducible apply Kept.of); rotate_left; (iterate 6 (with_reducible exact rfl)); with_reducible assumption)
    | split

theorem kept_execSpareRecal {q : List Instr} {lane : Nat} {r : Sys2Proof.LaneRecal} {s : State} (hs : Kept q s) :
    KeptO q (execSpareRecal lane r s) := by
  unfold execSpareRecal
  repeat' first
    | intro _
    | with_reducible assumption
    | with_reducible apply kept_finish
    | with_reducible apply kept_recalLane
    | with_reducible apply Kept.ite

theorem kept_telemetry {q : List Instr} {s : State} {p : Nat} {f : RetFrame} {words : List Nat} (hs : Kept q s) :
    Kept q (State.telemetry s p f words) := by
  unfold State.telemetry
  repeat' first
    | intro _
    | with_reducible assumption
    | (extract_lets +onlyGivenNames z; guard_hyp z : State := _; refine Kept.cut (x := z) ?_ (fun _ => ?_); rotate_left; clear_value z; revert z; intro _ _; rotate_left; unfold z; clear z)
    | (extract_lets +onlyGivenNames z; clear_value z; revert z; intro _)
    | with_reducible apply kept_bump
    | with_reducible apply kept_record
    | with_reducible apply kept_mailbox
    | with_reducible apply Kept.ite
    | ((with_reducible apply Kept.of); rotate_left; (iterate 6 (with_reducible exact rfl)); with_reducible assumption)

theorem kept_checkedFrame {q : List Instr} {s : State} {p : Nat} {words : List Nat} (hs : Kept q s) :
    Kept q (State.checkedFrame s p words) := by
  unfold State.checkedFrame
  repeat' first
    | intro _
    | with_reducible assumption
    | (extract_lets +onlyGivenNames z; guard_hyp z : State := _; refine Kept.cut (x := z) ?_ (fun _ => ?_); rotate_left; clear_value z; revert z; intro _ _; rotate_left; unfold z; clear z)
    | (extract_lets +onlyGivenNames z; clear_value z; revert z; intro _)
    | with_reducible apply kept_bump
    | with_reducible apply kept_useInjection
    | with_reducible apply kept_modLane
    | with_reducible apply kept_acknowledge
    | with_reducible apply kept_telemetry
    | with_reducible apply Kept.ite

theorem kept_execReturnFrame {q : List Instr} {lane : Nat} {words : List Nat} {t : Nat} {s0 : State} (hs0 : Kept q s0) :
    KeptO q (execReturnFrame lane words t s0) := by
  unfold execReturnFrame
  repeat' first
    | intro _
    | with_reducible assumption
    | (extract_lets +onlyGivenNames z; guard_hyp z : State := _; refine KeptO.cut (x := z) ?_ (fun _ => ?_); rotate_left; clear_value z; revert z; intro _ _; rotate_left; unfold z; clear z)
    | (extract_lets +onlyGivenNames z; clear_value z; revert z; intro _)
    | with_reducible apply kept_at_
    | with_reducible apply kept_finish
    | with_reducible apply kept_bump
    | with_reducible apply kept_modLane
    | with_reducible apply kept_checkedFrame
    | with_reducible apply Kept.ite

/-! Sensors. -/

theorem kept_convert {q : List Instr} {s : State} {n : Nat} {raw : Int} (hs : Kept q s) :
    Kept q (State.convert s n raw) := by
  unfold State.convert
  repeat' first
    | (extract_lets +onlyGivenNames z; clear_value z; revert z; intro _)
    | ((with_reducible apply Kept.of); rotate_left; (iterate 6 (with_reducible exact rfl)); with_reducible assumption)

theorem kept_measureAge {q : List Instr} {s : State} {counts : List Nat} (hs : Kept q s) :
    Kept q (State.measureAge s counts) := by
  unfold State.measureAge
  repeat' first
    | intro _
    | with_reducible assumption
    | (extract_lets +onlyGivenNames z; guard_hyp z : State := _; refine Kept.cut (x := z) ?_ (fun _ => ?_); rotate_left; clear_value z; revert z; intro _ _; rotate_left; unfold z; clear z)
    | (extract_lets +onlyGivenNames z; clear_value z; revert z; intro _)
    | with_reducible apply kept_setReg
    | with_reducible apply kept_trigger
    | with_reducible apply kept_raise
    | with_reducible apply Kept.ite
    | with_reducible apply Kept.foldl
    | ((with_reducible apply Kept.of); rotate_left; (iterate 6 (with_reducible exact rfl)); with_reducible assumption)

theorem kept_execAgeingMeasure {q : List Instr} {counts : List Nat} {s : State} (hs : Kept q s) :
    KeptO q (execAgeingMeasure counts s) := by
  unfold execAgeingMeasure
  repeat' first
    | intro _
    | with_reducible assumption
    | with_reducible apply kept_finish
    | with_reducible apply kept_measureAge
    | with_reducible apply Kept.ite

theorem kept_thermal {q : List Instr} {s : State} (hs : Kept q s) :
    Kept q (State.thermal s) := by
  unfold State.thermal
  repeat' first
    | intro _
    | with_reducible assumption
    | (extract_lets +onlyGivenNames z; guard_hyp z : State := _; refine Kept.cut (x := z) ?_ (fun _ => ?_); rotate_left; clear_value z; revert z; intro _ _; rotate_left; unfold z; clear z)
    | (extract_lets +onlyGivenNames z; clear_value z; revert z; intro _)
    | with_reducible apply kept_raise
    | with_reducible apply kept_truncateNow
    | with_reducible apply Kept.ite
    | ((with_reducible apply Kept.of); rotate_left; (iterate 6 (with_reducible exact rfl)); with_reducible assumption)

theorem kept_execSensorConversion {q : List Instr} {n : Nat} {raw : Int} {t : Nat} {s0 : State} (hs0 : Kept q s0) :
    KeptO q (execSensorConversion n raw t s0) := by
  unfold execSensorConversion
  repeat' first
    | intro _
    | with_reducible assumption
    | (extract_lets +onlyGivenNames z; guard_hyp z : State := _; refine KeptO.cut (x := z) ?_ (fun _ => ?_); rotate_left; clear_value z; revert z; intro _ _; rotate_left; unfold z; clear z)
    | (extract_lets +onlyGivenNames z; clear_value z; revert z; intro _)
    | with_reducible apply kept_at_
    | with_reducible apply kept_finish
    | with_reducible apply kept_convert
    | with_reducible apply kept_powerOff
    | with_reducible apply kept_thermal
    | with_reducible apply Kept.ite
    | ((with_reducible apply Kept.of); rotate_left; (iterate 6 (with_reducible exact rfl)); with_reducible assumption)

/-! Bringup. -/

theorem kept_weaverStates {q : List Instr} {s : State} (hs : Kept q s) :
    Kept q (State.weaverStates s) := by
  unfold State.weaverStates
  repeat' first
    | (extract_lets +onlyGivenNames z; clear_value z; revert z; intro _)
    | ((with_reducible apply Kept.of); rotate_left; (iterate 6 (with_reducible exact rfl)); with_reducible assumption)

theorem kept_stepSram_eq {q : List Instr} {s : State} {u : Sys2Proof.UpsettInput} (hs : Kept q s) {s' : State} {x'} (e' : State.stepSram s u = (s', x')) :
    Kept q s' := by
  unfold State.stepSram at e'
  repeat' first
    | ((with_reducible refine Kept.of_pair ?_ e'); clear e')
    | ((with_reducible apply Kept.of); rotate_left; (iterate 6 (with_reducible exact rfl)); with_reducible assumption)

theorem kept_stepSram {q : List Instr} {s : State} {u : Sys2Proof.UpsettInput} (hs : Kept q s) : Kept q (State.stepSram s u).1 :=
  Kept.of_eq fun _ _ e' => kept_stepSram_eq hs e'

theorem kept_stepPath_eq {q : List Instr} {s : State} {u : Sys2Proof.UpsettInput} (hs : Kept q s) {s' : State} {x'} (e' : State.stepPath s u = (s', x')) :
    Kept q s' := by
  unfold State.stepPath at e'
  repeat' first
    | (extract_lets +onlyGivenNames z at e'; guard_hyp z : Dram := _; revert z; intro _ e')
    | ((with_reducible refine Kept.of_pair ?_ e'); clear e')
    | ((with_reducible apply Kept.ofMaps); rotate_left; (with_reducible exact rfl); (with_reducible first | exact smWf_resetHostRegs (Kept.regs (by with_reducible assumption)) | exact smWf_put (smWf_filter _ (Kept.regs (by with_reducible assumption))) | exact smWf_filter _ (Kept.regs (by with_reducible assumption)) | exact Kept.regs (by with_reducible assumption)); (with_reducible first | exact Kept.cells (by with_reducible assumption) | exact smWf_nil); (with_reducible exact Kept.host (by with_reducible assumption)); (with_reducible first | exact Kept.rings (by with_reducible assumption) | exact smWf_filter _ (Kept.rings (by with_reducible assumption)) | exact smWf_nil); with_reducible assumption)

theorem kept_stepPath {q : List Instr} {s : State} {u : Sys2Proof.UpsettInput} (hs : Kept q s) : Kept q (State.stepPath s u).1 :=
  Kept.of_eq fun _ _ e' => kept_stepPath_eq hs e'

theorem kept_seedDraw {q : List Instr} {s : State} (hs : Kept q s) :
    Kept q (State.seedDraw s) := by
  unfold State.seedDraw
  repeat' first
    | (extract_lets +onlyGivenNames z; clear_value z; revert z; intro _)
    | ((with_reducible apply Kept.of); rotate_left; (iterate 6 (with_reducible exact rfl)); with_reducible assumption)

theorem kept_stepFw_eq {q : List Instr} {s : State} (hs : Kept q s) {s' : State} {x'} (e' : State.stepFw s = (s', x')) :
    Kept q s' := by
  unfold State.stepFw at e'
  repeat' first
    | with_reducible assumption
    | split at e'
    | with_reducible apply kept_setReg
    | ((with_reducible refine Kept.of_pair ?_ e'); clear e')

theorem kept_stepFw {q : List Instr} {s : State} (hs : Kept q s) : Kept q (State.stepFw s).1 :=
  Kept.of_eq fun _ _ e' => kept_stepFw_eq hs e'

theorem kept_stepNor_eq {q : List Instr} {s : State} (hs : Kept q s) {s' : State} {x'} (e' : State.stepNor s = (s', x')) :
    Kept q s' := by
  unfold State.stepNor at e'
  repeat' first
    | with_reducible assumption
    | (extract_lets +onlyGivenNames z at e'; guard_hyp z : State := _; refine Kept.cut (x := z) ?_ (fun _ => ?_); rotate_left; clear_value z; revert z; intro _ e' _; rotate_left; unfold z; clear e'; clear z)
    | (extract_lets +onlyGivenNames z at e'; clear_value z; revert z; intro _ e')
    | split at e'
    | with_reducible apply kept_trigger
    | ((with_reducible refine Kept.of_pair ?_ e'); clear e')
    | ((with_reducible apply Kept.of); rotate_left; (iterate 6 (with_reducible exact rfl)); with_reducible assumption)

theorem kept_stepNor {q : List Instr} {s : State} (hs : Kept q s) : Kept q (State.stepNor s).1 :=
  Kept.of_eq fun _ _ e' => kept_stepNor_eq hs e'

theorem kept_stepWeavers_eq {q : List Instr} {s : State} {u : Sys2Proof.UpsettInput} (hs : Kept q s) {s' : State} {x'} (e' : State.stepWeavers s u = (s', x')) :
    Kept q s' := by
  unfold State.stepWeavers at e'
  repeat' first
    | intro _
    | with_reducible assumption
    | (extract_lets +onlyGivenNames z at e'; guard_hyp z : State := _; refine Kept.cut (x := z) ?_ (fun _ => ?_); rotate_left; clear_value z; revert z; intro _ e' _; rotate_left; unfold z; clear e'; clear z)
    | with_reducible apply kept_weaverStates
    | with_reducible apply kept_retireWeaver
    | with_reducible apply Kept.ite
    | with_reducible apply Kept.foldl
    | ((with_reducible refine Kept.of_pair ?_ e'); clear e')

theorem kept_stepWeavers {q : List Instr} {s : State} {u : Sys2Proof.UpsettInput} (hs : Kept q s) : Kept q (State.stepWeavers s u).1 :=
  Kept.of_eq fun _ _ e' => kept_stepWeavers_eq hs e'

theorem kept_stepRim_eq {q : List Instr} {s : State} {u : Sys2Proof.UpsettInput} (hs : Kept q s) {s' : State} {x'} (e' : State.stepRim s u = (s', x')) :
    Kept q s' := by
  unfold State.stepRim at e'
  repeat' first
    | with_reducible assumption
    | (extract_lets +onlyGivenNames z at e'; guard_hyp z : State := _; refine Kept.cut (x := z) ?_ (fun _ => ?_); rotate_left; clear_value z; revert z; intro _ e' _; rotate_left; unfold z; clear e'; clear z)
    | (extract_lets +onlyGivenNames z at e'; clear_value z; revert z; intro _ e')
    | split at e'
    | with_reducible apply kept_trainLink
    | ((with_reducible refine Kept.of_pair ?_ e'); clear e')
    | ((with_reducible apply Kept.of); rotate_left; (iterate 6 (with_reducible exact rfl)); with_reducible assumption)

theorem kept_stepRim {q : List Instr} {s : State} {u : Sys2Proof.UpsettInput} (hs : Kept q s) : Kept q (State.stepRim s u).1 :=
  Kept.of_eq fun _ _ e' => kept_stepRim_eq hs e'

theorem kept_execTrainRim {q : List Instr} {ring : Nat} {r : Sys2Proof.RimTraining} {s : State} (hs : Kept q s) :
    KeptO q (execTrainRim ring r s) := by
  unfold execTrainRim
  repeat' first
    | intro _
    | with_reducible assumption
    | (extract_lets +onlyGivenNames z; guard_hyp z : State := _; refine Kept.cut (x := z) ?_ (fun _ => ?_); rotate_left; clear_value z; revert z; intro _ _; rotate_left; unfold z; clear z)
    | with_reducible apply kept_finish
    | with_reducible apply kept_checked
    | with_reducible apply kept_awake
    | with_reducible apply kept_trainLink
    | with_reducible apply kept_setWait
    | with_reducible apply kept_answer
    | with_reducible apply Kept.ite
    | split

theorem kept_execCalibrateSensors {q : List Instr} {ring : Nat} {temps : List Int} {age : List Nat} {s : State} (hs : Kept q s) :
    KeptO q (execCalibrateSensors ring temps age s) := by
  unfold execCalibrateSensors
  repeat' first
    | intro _
    | with_reducible assumption
    | (extract_lets +onlyGivenNames z; guard_hyp z : State := _; refine Kept.cut (x := z) ?_ (fun _ => ?_); rotate_left; clear_value z; revert z; intro _ _; rotate_left; unfold z; clear z)
    | (extract_lets +onlyGivenNames z; clear_value z; revert z; intro _)
    | with_reducible apply kept_finish
    | with_reducible apply kept_checked
    | with_reducible apply kept_awake
    | with_reducible apply kept_measureAge
    | with_reducible apply kept_thermal
    | with_reducible apply kept_answer
    | ((with_reducible apply Kept.of); rotate_left; (iterate 6 (with_reducible exact rfl)); with_reducible assumption)
    | split

theorem kept_stepSensors_eq {q : List Instr} {s : State} {u : Sys2Proof.UpsettInput} (hs : Kept q s) {s' : State} {x'} (e' : State.stepSensors s u = (s', x')) :
    Kept q s' := by
  unfold State.stepSensors at e'
  repeat' first
    | with_reducible assumption
    | (extract_lets +onlyGivenNames z at e'; guard_hyp z : State := _; refine Kept.cut (x := z) ?_ (fun _ => ?_); rotate_left; clear_value z; revert z; intro _ e' _; rotate_left; unfold z; clear e'; clear z)
    | (extract_lets +onlyGivenNames z at e'; clear_value z; revert z; intro _ e')
    | with_reducible apply kept_measureAge
    | with_reducible apply kept_thermal
    | ((with_reducible refine Kept.of_pair ?_ e'); clear e')
    | ((with_reducible apply Kept.of); rotate_left; (iterate 6 (with_reducible exact rfl)); with_reducible assumption)

theorem kept_stepSensors {q : List Instr} {s : State} {u : Sys2Proof.UpsettInput} (hs : Kept q s) : Kept q (State.stepSensors s u).1 :=
  Kept.of_eq fun _ _ e' => kept_stepSensors_eq hs e'

theorem kept_execCalibrateUpsettSet {q : List Instr} {ring : Nat} {u : Sys2Proof.UpsettInput} {s : State} (hs : Kept q s) :
    KeptO q (execCalibrateUpsettSet ring u s) := by
  unfold execCalibrateUpsettSet
  repeat' first
    | intro _
    | with_reducible assumption
    | with_reducible apply kept_finish
    | with_reducible apply kept_checked
    | with_reducible apply kept_awake
    | with_reducible apply kept_answer
    | refine kept_stepWeavers_eq ?_ (by with_reducible assumption)
    | refine kept_stepSensors_eq ?_ (by with_reducible assumption)
    | split

theorem kept_stepDram_eq {q : List Instr} {s : State} {u : Sys2Proof.UpsettInput} (hs : Kept q s) {s' : State} {x'} (e' : State.stepDram s u = (s', x')) :
    Kept q s' := by
  unfold State.stepDram at e'
  repeat' first
    | intro _
    | with_reducible assumption
    | (extract_lets +onlyGivenNames z at e'; guard_hyp z : State := _; refine Kept.cut (x := z) ?_ (fun _ => ?_); rotate_left; clear_value z; revert z; intro _ e' _; rotate_left; unfold z; clear e'; clear z)
    | (extract_lets +onlyGivenNames z at e'; guard_hyp z : Dram := _; revert z; intro _ e')
    | (extract_lets +onlyGivenNames z at e'; clear_value z; revert z; intro _ e')
    | (extract_lets +onlyGivenNames z; guard_hyp z : Dram := _; revert z; intro _)
    | split at e'
    | with_reducible apply kept_eccLog
    | with_reducible apply kept_raise
    | with_reducible apply kept_trainAll
    | with_reducible apply Kept.foldl
    | ((with_reducible refine Kept.of_pair ?_ e'); clear e')
    | ((with_reducible apply Kept.of); rotate_left; (iterate 6 (with_reducible exact rfl)); with_reducible assumption)
    | ((with_reducible apply Kept.ofMaps); rotate_left; (with_reducible exact rfl); (with_reducible first | exact smWf_resetHostRegs (Kept.regs (by with_reducible assumption)) | exact smWf_put (smWf_filter _ (Kept.regs (by with_reducible assumption))) | exact smWf_filter _ (Kept.regs (by with_reducible assumption)) | exact Kept.regs (by with_reducible assumption)); (with_reducible first | exact Kept.cells (by with_reducible assumption) | exact smWf_nil); (with_reducible exact Kept.host (by with_reducible assumption)); (with_reducible first | exact Kept.rings (by with_reducible assumption) | exact smWf_filter _ (Kept.rings (by with_reducible assumption)) | exact smWf_nil); with_reducible assumption)

theorem kept_stepDram {q : List Instr} {s : State} {u : Sys2Proof.UpsettInput} (hs : Kept q s) : Kept q (State.stepDram s u).1 :=
  Kept.of_eq fun _ _ e' => kept_stepDram_eq hs e'

theorem kept_execTrainDram {q : List Instr} {ring : Nat} {r : List Sys2Proof.ChanTraining} {s : State} (hs : Kept q s) :
    KeptO q (execTrainDram ring r s) := by
  unfold execTrainDram
  repeat' first
    | intro _
    | with_reducible assumption
    | (extract_lets +onlyGivenNames z; guard_hyp z : State := _; refine Kept.cut (x := z) ?_ (fun _ => ?_); rotate_left; clear_value z; revert z; intro _ _; rotate_left; unfold z; clear z)
    | (extract_lets +onlyGivenNames z; clear_value z; revert z; intro _)
    | with_reducible apply kept_finish
    | with_reducible apply kept_checked
    | with_reducible apply kept_awake
    | with_reducible apply kept_trainAll
    | with_reducible apply kept_answer
    | split

theorem kept_execCalibrateDramRecal {q : List Instr} {ring : Nat} {r : List Sys2Proof.ChanMargins} {s : State} (hs : Kept q s) :
    KeptO q (execCalibrateDramRecal ring r s) := by
  unfold execCalibrateDramRecal
  repeat' first
    | intro _
    | with_reducible assumption
    | (extract_lets +onlyGivenNames z; clear_value z; revert z; intro _)
    | with_reducible apply kept_finish
    | with_reducible apply kept_checked
    | with_reducible apply kept_awake
    | with_reducible apply kept_answer
    | with_reducible apply kept_recalChan
    | with_reducible apply Kept.foldl
    | split

theorem kept_execCalibrateRimRecal {q : List Instr} {ring : Nat} {r : List Sys2Proof.LaneRecal} {s : State} (hs : Kept q s) :
    KeptO q (execCalibrateRimRecal ring r s) := by
  unfold execCalibrateRimRecal
  repeat' first
    | intro _
    | with_reducible assumption
    | (extract_lets +onlyGivenNames z; guard_hyp z : State × _ := _; revert z; intro _)
    | with_reducible apply kept_finish
    | with_reducible apply kept_checked
    | with_reducible apply kept_awake
    | with_reducible apply kept_answer
    | with_reducible apply Kept.foldl₂
    | refine kept_recalLane_eq ?_ (by with_reducible assumption)
    | split

theorem kept_upsettStep_eq {q : List Instr} {u : Sys2Proof.UpsettInput} {n : Nat} {s : State} (hs : Kept q s) {s' : State} {x'} (e' : State.upsettStep u n s = (s', x')) :
    Kept q s' := by
  unfold State.upsettStep at e'
  repeat' first
    | with_reducible assumption
    | split at e'
    | with_reducible apply kept_seedDraw
    | refine kept_stepFw_eq ?_ (by with_reducible assumption)
    | refine kept_stepNor_eq ?_ (by with_reducible assumption)
    | refine kept_stepSram_eq ?_ (by with_reducible assumption)
    | refine kept_stepDram_eq ?_ (by with_reducible assumption)
    | refine kept_stepWeavers_eq ?_ (by with_reducible assumption)
    | refine kept_stepRim_eq ?_ (by with_reducible assumption)
    | refine kept_stepSensors_eq ?_ (by with_reducible assumption)
    | refine kept_stepPath_eq ?_ (by with_reducible assumption)

theorem kept_upsettStep {q : List Instr} {u : Sys2Proof.UpsettInput} {n : Nat} {s : State} (hs : Kept q s) : Kept q (State.upsettStep u n s).1 :=
  Kept.of_eq fun _ _ e' => kept_upsettStep_eq hs e'

theorem kept_runSteps_eq {q : List Instr} {u : Sys2Proof.UpsettInput} {a : List Nat} {a2 : State} (ha2 : Kept q a2) {s' : State} {x'} (e' : State.runSteps u a a2 = (s', x')) :
    Kept q s' := by
  induction a generalizing u a2 with
  | nil =>
    unfold State.runSteps at e'
    repeat' first
      | with_reducible assumption
      | ((with_reducible refine Kept.of_pair ?_ e'); clear e')
  | cons y l ih =>
    unfold State.runSteps at e'
    repeat' first
      | with_reducible assumption
      | (extract_lets +onlyGivenNames z at e'; guard_hyp z : State := _; refine Kept.cut (x := z) ?_ (fun _ => ?_); rotate_left; clear_value z; revert z; intro _ e' _; rotate_left; unfold z; clear e'; clear z)
      | (extract_lets +onlyGivenNames z at e'; guard_hyp z : State × _ := _; revert z; intro _ e')
      | split at e'
      | refine ih ?_ (by with_reducible assumption)
      | with_reducible apply kept_upsettStep
      | with_reducible apply kept_setField
      | with_reducible apply kept_setReg
      | ((with_reducible refine Kept.of_pair ?_ e'); clear e')

theorem kept_runSteps {q : List Instr} {u : Sys2Proof.UpsettInput} {a : List Nat} {a2 : State} (ha2 : Kept q a2) : Kept q (State.runSteps u a a2).1 :=
  Kept.of_eq fun _ _ e' => kept_runSteps_eq ha2 e'

theorem kept_upsett_eq {q : List Instr} {s : State} {u : Sys2Proof.UpsettInput} {auto : Bool} (hs : Kept q s) {s' : State} {x'} (e' : State.upsett s u auto = (s', x')) :
    Kept q s' := by
  unfold State.upsett at e'
  repeat' first
    | intro _
    | with_reducible assumption
    | (extract_lets +onlyGivenNames z at e'; guard_hyp z : State := _; refine Kept.cut (x := z) ?_ (fun _ => ?_); rotate_left; clear_value z; revert z; intro _ e' _; rotate_left; unfold z; clear e'; clear z)
    | (extract_lets +onlyGivenNames z at e'; clear_value z; revert z; intro _ e')
    | split at e'
    | with_reducible apply kept_clearJob
    | with_reducible apply kept_enterMode
    | with_reducible apply kept_setReg
    | with_reducible apply kept_setField
    | with_reducible apply Kept.ite
    | refine kept_runSteps_eq ?_ (by with_reducible assumption)
    | ((with_reducible refine Kept.of_pair ?_ e'); clear e')
    | ((with_reducible apply Kept.of); rotate_left; (iterate 6 (with_reducible exact rfl)); with_reducible assumption)

theorem kept_upsett {q : List Instr} {s : State} {u : Sys2Proof.UpsettInput} {auto : Bool} (hs : Kept q s) : Kept q (State.upsett s u auto).1 :=
  Kept.of_eq fun _ _ e' => kept_upsett_eq hs e'

theorem kept_setMode {q : List Instr} {s : State} {r : Nat} {n : Mode} {u : Sys2Proof.UpsettInput} (hs : Kept q s) :
    Kept q (State.setMode s r n u) := by
  unfold State.setMode
  repeat' first
    | intro _
    | with_reducible assumption
    | (extract_lets +onlyGivenNames z; guard_hyp z : State := _; refine Kept.cut (x := z) ?_ (fun _ => ?_); rotate_left; clear_value z; revert z; intro _ _; rotate_left; unfold z; clear z)
    | with_reducible apply kept_autoRun
    | with_reducible apply kept_answer
    | with_reducible apply kept_enterMode
    | with_reducible apply Kept.ite
    | refine kept_upsett_eq ?_ (by with_reducible assumption)
    | split

theorem kept_execUpsettAutoStart {q : List Instr} {t : Nat} {u : Sys2Proof.UpsettInput} {s0 : State} (hs0 : Kept q s0) :
    KeptO q (execUpsettAutoStart t u s0) := by
  unfold execUpsettAutoStart
  repeat' first
    | intro _
    | with_reducible assumption
    | (extract_lets +onlyGivenNames z; guard_hyp z : State := _; refine KeptO.cut (x := z) ?_ (fun _ => ?_); rotate_left; clear_value z; revert z; intro _ _; rotate_left; unfold z; clear z)
    | with_reducible apply kept_at_
    | with_reducible apply kept_finish
    | with_reducible apply kept_upsett
    | with_reducible apply kept_autoRun
    | with_reducible apply Kept.ite

theorem kept_execSetMode {q : List Instr} {ring : Nat} {t : Nat} {u : Sys2Proof.UpsettInput} {s0 : State} (hs0 : Kept q s0) :
    KeptO q (execSetMode ring t u s0) := by
  unfold execSetMode
  repeat' first
    | intro _
    | with_reducible assumption
    | (extract_lets +onlyGivenNames z; guard_hyp z : State := _; refine KeptO.cut (x := z) ?_ (fun _ => ?_); rotate_left; clear_value z; revert z; intro _ _; rotate_left; unfold z; clear z)
    | (extract_lets +onlyGivenNames z; clear_value z; revert z; intro _)
    | with_reducible apply kept_at_
    | with_reducible apply kept_finish
    | with_reducible apply kept_checked
    | with_reducible apply kept_refuse
    | with_reducible apply kept_setMode
    | with_reducible apply Kept.ite
    | split

/-! JobKey. -/

theorem kept_installKey {q : List Instr} {s : State} {blk : List Sys2Proof.Byte} {key : List Sys2Proof.Byte} (hs : Kept q s) :
    Kept q (State.installKey s blk key) := by
  unfold State.installKey
  repeat' first
    | with_reducible assumption
    | (extract_lets +onlyGivenNames z; guard_hyp z : State := _; refine Kept.cut (x := z) ?_ (fun _ => ?_); rotate_left; clear_value z; revert z; intro _ _; rotate_left; unfold z; clear z)
    | with_reducible apply kept_clearJob
    | with_reducible apply kept_setReg
    | ((with_reducible apply Kept.of); rotate_left; (iterate 6 (with_reducible exact rfl)); with_reducible assumption)

theorem kept_useKeyBlock {q : List Instr} {s : State} {r : Nat} {blk : Sys2Proof.HostRead} (hs : Kept q s) :
    Kept q (State.useKeyBlock s r blk) := by
  unfold State.useKeyBlock
  cases blk with
  | fail b n => exact kept_refuse hs
  | data b =>
    dsimp only
    generalize unwrapBlock s.glb.kwk s.glb.kwkId.toNat 1 b = c
    cases c with
    | none => exact kept_refuse hs
    | some key => exact Kept.ite (fun _ => kept_setWait hs) fun _ => kept_answer (kept_installKey hs)

theorem kept_resumeLoadKey {q : List Instr} {s : State} (hs : Kept q s) :
    Kept q (State.resumeLoadKey s) := by
  unfold State.resumeLoadKey
  repeat' first
    | intro _
    | with_reducible assumption
    | with_reducible apply kept_useKeyBlock
    | with_reducible apply kept_dropWait
    | with_reducible apply Kept.ite
    | with_reducible apply Kept.foldl
    | split

theorem kept_execLoadJobKey {q : List Instr} {ring : Nat} {blk : Sys2Proof.HostRead} {s : State} (hs : Kept q s) :
    KeptO q (execLoadJobKey ring blk s) := by
  unfold execLoadJobKey
  repeat' first
    | intro _
    | with_reducible assumption
    | with_reducible apply kept_finish
    | with_reducible apply kept_checked
    | with_reducible apply kept_awake
    | with_reducible apply kept_useKeyBlock
    | with_reducible apply Kept.ite
    | split

end Sys2Proof.Laws
end

