-- ==== Sys2Proof/Laws/KeptHost.lean ====
section
/-! SUPPORT. What the DMA engines, the command rings and the network keep: one lemma for each operation and each command (see Kept). -/

namespace Sys2Proof.Laws

open Sys2Proof.Machine

/-! Dma. -/

theorem kept_carryPoison {q : List Instr} {s : State} {ws : List Nat} (hs : Kept q s) :
    Kept q (State.carryPoison s ws) := by
  unfold State.carryPoison
  repeat' first
    | intro _
    | with_reducible assumption
    | with_reducible apply kept_markWord
    | with_reducible apply Kept.ite
    | with_reducible apply Kept.foldl

theorem kept_deliver {q : List Instr} {s : State} {lo : Nat} {n : Nat} (hs : Kept q s) :
    Kept q (State.deliver s lo n) := by
  unfold State.deliver
  repeat' first
    | (extract_lets +onlyGivenNames z; clear_value z; revert z; intro _)
    | with_reducible apply kept_freeRing
    | ((with_reducible apply Kept.of); rotate_left; (iterate 6 (with_reducible exact rfl)); with_reducible assumption)

theorem kept_countBytes {q : List Instr} {s : State} {r : Nat} {n : Nat} (hs : Kept q s) :
    Kept q (State.countBytes s r n) := by
  unfold State.countBytes
  repeat' first
    | with_reducible assumption
    | (extract_lets +onlyGivenNames z; clear_value z; revert z; intro _)
    | with_reducible apply kept_setReg64

theorem kept_setMoved {q : List Instr} {s : State} {r : Nat} {e : CurEntry} {m : Moved} (hs : Kept q s) :
    Kept q (State.setMoved s r e m) := by
  unfold State.setMoved
  repeat' first
    | with_reducible assumption
    | (extract_lets +onlyGivenNames z; clear_value z; revert z; intro _)
    | with_reducible apply kept_setRing
    | with_reducible apply kept_countBytes

theorem kept_placeLocal {q : List Instr} {a : Nat} {a1 : State} {a2 : Desc} {a3 : Nat} {a4 : List Sys2Proof.Byte} (ha1 : Kept q a1) :
    Kept q (State.placeLocal a a1 a2 a3 a4) := by
  induction a generalizing a1 a2 a3 a4 with
  | zero =>
    unfold State.placeLocal
    repeat' (with_reducible assumption)
  | succ n ih =>
    unfold State.placeLocal
    repeat' first
      | intro _
      | with_reducible assumption
      | (extract_lets +onlyGivenNames z; clear_value z; revert z; intro _)
      | with_reducible apply ih
      | with_reducible apply kept_memWrite
      | with_reducible apply Kept.ite

theorem kept_spoilBeat {q : List Instr} {s : State} {d : Desc} {o : Nat} (hs : Kept q s) :
    Kept q (State.spoilBeat s d o) := by
  unfold State.spoilBeat
  repeat' first
    | with_reducible assumption
    | (extract_lets +onlyGivenNames z; guard_hyp z : State := _; refine Kept.cut (x := z) ?_ (fun _ => ?_); rotate_left; clear_value z; revert z; intro _ _; rotate_left; unfold z; clear z)
    | (extract_lets +onlyGivenNames z; clear_value z; revert z; intro _)
    | with_reducible apply kept_memWrite
    | ((with_reducible apply Kept.of); rotate_left; (iterate 6 (with_reducible exact rfl)); with_reducible assumption)

theorem kept_moveIn {q : List Instr} {s : State} {r : Nat} {e : CurEntry} {data : Sys2Proof.HostRead} (hs : Kept q s) :
    Kept q (State.moveIn s r e data) := by
  unfold State.moveIn
  repeat' first
    | intro _
    | with_reducible assumption
    | (extract_lets +onlyGivenNames z; guard_hyp z : State := _; refine Kept.cut (x := z) ?_ (fun _ => ?_); rotate_left; clear_value z; revert z; intro _ _; rotate_left; unfold z; clear z)
    | (extract_lets +onlyGivenNames z; clear_value z; revert z; intro _)
    | with_reducible apply kept_placeLocal
    | with_reducible apply kept_setMoved
    | with_reducible apply kept_memWrite
    | with_reducible apply Kept.foldl
    | split

theorem kept_execFigWait {q : List Instr} {ring : Nat} {data : Sys2Proof.HostRead} {s : State} (hs : Kept q s) :
    KeptO q (execFigWait ring data s) := by
  unfold execFigWait
  repeat' first
    | intro _
    | with_reducible assumption
    | with_reducible apply kept_finish
    | with_reducible apply kept_moveIn
    | with_reducible apply Kept.ite
    | split

theorem kept_moveRow {q : List Instr} {s : State} {d : Desc} {row : Nat} (hs : Kept q s) :
    Kept q (State.moveRow s d row) := by
  unfold State.moveRow
  repeat' first
    | intro _
    | with_reducible assumption
    | (extract_lets +onlyGivenNames z; guard_hyp z : State := _; refine Kept.cut (x := z) ?_ (fun _ => ?_); rotate_left; clear_value z; revert z; intro _ _; rotate_left; unfold z; clear z)
    | (extract_lets +onlyGivenNames z; guard_hyp z : Hst := _; revert z; intro _)
    | (extract_lets +onlyGivenNames z; clear_value z; revert z; intro _)
    | with_reducible apply kept_touch
    | with_reducible apply kept_hostWrite
    | with_reducible apply kept_carryPoison
    | with_reducible apply kept_memWrite
    | with_reducible apply Kept.ite
    | ((with_reducible apply Kept.of); rotate_left; (iterate 6 (with_reducible exact rfl)); with_reducible assumption)

theorem kept_moveOut {q : List Instr} {s : State} {r : Nat} {e : CurEntry} (hs : Kept q s) :
    Kept q (State.moveOut s r e) := by
  unfold State.moveOut
  repeat' first
    | intro _
    | with_reducible assumption
    | (extract_lets +onlyGivenNames z; guard_hyp z : State := _; refine Kept.cut (x := z) ?_ (fun _ => ?_); rotate_left; clear_value z; revert z; intro _ _; rotate_left; unfold z; clear z)
    | (extract_lets +onlyGivenNames z; clear_value z; revert z; intro _)
    | with_reducible apply kept_moveRow
    | with_reducible apply kept_setMoved
    | with_reducible apply Kept.foldl

theorem kept_startDesc {q : List Instr} {s : State} {r : Nat} {kind : Nat} {f : CurEntry → State} (hs : Kept q s) (hf : ∀ (x0 : CurEntry), Kept q (f x0)) :
    Kept q (State.startDesc s r kind f) := by
  unfold State.startDesc
  repeat' first
    | with_reducible assumption
    | with_reducible apply hf
    | with_reducible apply kept_refuse
    | split

theorem kept_execDmaH2F {q : List Instr} {ring : Nat} {data : Sys2Proof.HostRead} {s : State} (hs : Kept q s) :
    KeptO q (execDmaH2F ring data s) := by
  unfold execDmaH2F
  repeat' first
    | intro _
    | with_reducible assumption
    | (extract_lets +onlyGivenNames z; clear_value z; revert z; intro _)
    | with_reducible apply kept_finish
    | with_reducible apply kept_startDesc
    | with_reducible apply kept_setRing
    | with_reducible apply kept_moveIn
    | with_reducible apply Kept.ite

theorem kept_execDmaL2L {q : List Instr} {ring : Nat} {s : State} (hs : Kept q s) :
    KeptO q (execDmaL2L ring s) := by
  unfold execDmaL2L
  repeat' first
    | intro _
    | with_reducible assumption
    | with_reducible apply kept_finish
    | with_reducible apply kept_startDesc
    | with_reducible apply kept_moveOut

theorem kept_execDmaH2L {q : List Instr} {ring : Nat} {data : Sys2Proof.HostRead} {s : State} (hs : Kept q s) :
    KeptO q (execDmaH2L ring data s) := by
  unfold execDmaH2L
  repeat' first
    | intro _
    | with_reducible assumption
    | with_reducible apply kept_finish
    | with_reducible apply kept_startDesc
    | with_reducible apply kept_moveIn
    | with_reducible apply Kept.ite

theorem kept_execDmaL2H {q : List Instr} {ring : Nat} {s : State} (hs : Kept q s) :
    KeptO q (execDmaL2H ring s) := by
  unfold execDmaL2H
  repeat' first
    | intro _
    | with_reducible assumption
    | with_reducible apply kept_finish
    | with_reducible apply kept_startDesc
    | with_reducible apply kept_moveOut

theorem kept_execDescriptorComplete {q : List Instr} {ring : Nat} {errs : Sys2Proof.XferErrors} {s : State} (hs : Kept q s) :
    KeptO q (execDescriptorComplete ring errs s) := by
  unfold execDescriptorComplete
  repeat' first
    | intro _
    | with_reducible assumption
    | (extract_lets +onlyGivenNames z; guard_hyp z : State := _; refine Kept.cut (x := z) ?_ (fun _ => ?_); rotate_left; clear_value z; revert z; intro _ _; rotate_left; unfold z; clear z)
    | (extract_lets +onlyGivenNames z; clear_value z; revert z; intro _)
    | with_reducible apply kept_finish
    | with_reducible apply kept_spoilBeat
    | with_reducible apply kept_answer
    | with_reducible apply kept_resumeLoadKey
    | with_reducible apply kept_deliver
    | with_reducible apply Kept.ite
    | split

/-! Commands. -/

theorem kept_restartFigure {q : List Instr} {s : State} {off : Nat} (hs : Kept q s) :
    Kept q (State.restartFigure s off) := by
  unfold State.restartFigure
  repeat' first
    | (extract_lets +onlyGivenNames z; clear_value z; revert z; intro _)
    | ((with_reducible apply Kept.of); rotate_left; (iterate 6 (with_reducible exact rfl)); with_reducible assumption)

theorem kept_clearRc {q : List Instr} {s : State} {off : Nat} (hs : Kept q s) :
    Kept q (State.clearRc s off) := by
  unfold State.clearRc
  repeat' first
    | intro _
    | with_reducible assumption
    | with_reducible apply kept_setReg
    | with_reducible apply Kept.ite

theorem kept_wakeLanes {q : List Instr} {s : State} {serial : Nat} (hs : Kept q s) :
    Kept q (State.wakeLanes s serial) := by
  unfold State.wakeLanes
  repeat' first
    | intro _
    | with_reducible assumption
    | (extract_lets +onlyGivenNames z; guard_hyp z : State := _; refine Kept.cut (x := z) ?_ (fun _ => ?_); rotate_left; clear_value z; revert z; intro _ _; rotate_left; unfold z; clear z)
    | (extract_lets +onlyGivenNames z; clear_value z; revert z; intro _)
    | with_reducible apply kept_sendBlocks
    | with_reducible apply kept_modLane
    | with_reducible apply Kept.foldl
    | ((with_reducible apply Kept.of); rotate_left; (iterate 6 (with_reducible exact rfl)); with_reducible assumption)

theorem kept_bindRun {q : List Instr} {s : State} {r : Run} {chain : List (Nat × LedgerDesc)} {b : Bool} (hs : Kept q s) :
    Kept q (State.bindRun s r chain b) := by
  unfold State.bindRun
  repeat' first
    | with_reducible assumption
    | (extract_lets +onlyGivenNames z; guard_hyp z : State := _; refine Kept.cut (x := z) ?_ (fun _ => ?_); rotate_left; clear_value z; revert z; intro _ _; rotate_left; unfold z; clear z)
    | (extract_lets +onlyGivenNames z; clear_value z; revert z; intro _)
    | with_reducible apply kept_readOffsets
    | ((with_reducible apply Kept.of); rotate_left; (iterate 6 (with_reducible exact rfl)); with_reducible assumption)
    | split

theorem kept_armWork {q : List Instr} {s : State} {p : ArmParams} {rec_ : StripeRec} {w : Nat} {b : Bool} (hs : Kept q s) :
    Kept q (State.armWork s p rec_ w b) := by
  unfold State.armWork
  repeat' first
    | intro _
    | with_reducible assumption
    | (extract_lets +onlyGivenNames z; guard_hyp z : State := _; refine Kept.cut (x := z) ?_ (fun _ => ?_); rotate_left; clear_value z; revert z; intro _ _; rotate_left; unfold z; clear z)
    | (extract_lets +onlyGivenNames z; clear_value z; revert z; intro _)
    | with_reducible apply kept_ensureNext
    | with_reducible apply kept_abandonNext
    | with_reducible apply kept_corLog
    | with_reducible apply kept_bindTo
    | with_reducible apply kept_setChanged
    | with_reducible apply Kept.ite
    | ((with_reducible apply Kept.of); rotate_left; (iterate 6 (with_reducible exact rfl)); (first | with_reducible assumption | with_reducible apply kept_newWork))
    | split

theorem kept_setsChanged {q : List Instr} {s : State} (hs : Kept q s) :
    Kept q (State.setsChanged s) := by
  unfold State.setsChanged
  repeat' first
    | intro _
    | with_reducible assumption
    | (extract_lets +onlyGivenNames z; guard_hyp z : State := _; refine Kept.cut (x := z) ?_ (fun _ => ?_); rotate_left; clear_value z; revert z; intro _ _; rotate_left; unfold z; clear z)
    | with_reducible apply kept_setChanged
    | with_reducible apply kept_readOffsets
    | with_reducible apply Kept.ite
    | split

theorem kept_sealShadow {q : List Instr} {s : State} (hs : Kept q s) :
    Kept q (State.sealShadow s) := by
  unfold State.sealShadow
  repeat' first
    | intro _
    | with_reducible assumption
    | (extract_lets +onlyGivenNames z; clear_value z; revert z; intro _)
    | with_reducible apply kept_setsChanged
    | with_reducible apply Kept.ite
    | ((with_reducible apply Kept.of); rotate_left; (iterate 6 (with_reducible exact rfl)); with_reducible assumption)

theorem kept_readCounters {q : List Instr} {s : State} {ring : Nat} {e : CurEntry} {resp : Sys2Proof.WriteResp} (hs : Kept q s) :
    Kept q (State.readCounters s ring e resp) := by
  unfold State.readCounters
  repeat' first
    | intro _
    | with_reducible assumption
    | (extract_lets +onlyGivenNames z; guard_hyp z : State := _; refine Kept.cut (x := z) ?_ (fun _ => ?_); rotate_left; clear_value z; revert z; intro _ _; rotate_left; unfold z; clear z)
    | (extract_lets +onlyGivenNames z; clear_value z; revert z; intro _)
    | with_reducible apply kept_refuse
    | with_reducible apply kept_hostWrite
    | with_reducible apply kept_clearRc
    | with_reducible apply kept_answer
    | with_reducible apply Kept.ite
    | with_reducible apply Kept.foldl
    | split

theorem kept_retirePage {q : List Instr} {s : State} {ring : Nat} {a : Nat} {writeErr : Bool} (hs : Kept q s) :
    Kept q (State.retirePage s ring a writeErr) := by
  unfold State.retirePage
  repeat' first
    | intro _
    | with_reducible assumption
    | (extract_lets +onlyGivenNames z; guard_hyp z : State := _; refine Kept.cut (x := z) ?_ (fun _ => ?_); rotate_left; clear_value z; revert z; intro _ _; rotate_left; unfold z; clear z)
    | (extract_lets +onlyGivenNames z; clear_value z; revert z; intro _)
    | with_reducible apply kept_refuse
    | with_reducible apply kept_answer
    | with_reducible apply kept_takeReplacement
    | with_reducible apply Kept.ite
    | split

theorem kept_arm {q : List Instr} {s : State} {ring : Nat} {p : ArmParams} {rec_ : StripeRec} {chain : List (Nat × LedgerDesc)} (hs : Kept q s) :
    Kept q (State.arm s ring p rec_ chain) := by
  unfold State.arm
  repeat' first
    | intro _
    | with_reducible assumption
    | (extract_lets +onlyGivenNames z; guard_hyp z : State := _; refine Kept.cut (x := z) ?_ (fun _ => ?_); rotate_left; clear_value z; revert z; intro _ _; rotate_left; unfold z; clear z)
    | (extract_lets +onlyGivenNames z; clear_value z; revert z; intro _)
    | with_reducible apply kept_sealShadow
    | with_reducible apply kept_armWork
    | with_reducible apply kept_bindRun
    | with_reducible apply kept_wakeLanes
    | with_reducible apply kept_answer
    | with_reducible apply kept_tellBound
    | with_reducible apply Kept.ite

theorem kept_execSwapSetCancel {q : List Instr} {ring : Nat} {s : State} (hs : Kept q s) :
    KeptO q (execSwapSetCancel ring s) := by
  unfold execSwapSetCancel
  repeat' first
    | intro _
    | with_reducible assumption
    | (extract_lets +onlyGivenNames z; guard_hyp z : State := _; refine Kept.cut (x := z) ?_ (fun _ => ?_); rotate_left; clear_value z; revert z; intro _ _; rotate_left; unfold z; clear z)
    | (extract_lets +onlyGivenNames z; clear_value z; revert z; intro _)
    | with_reducible apply kept_finish
    | with_reducible apply kept_checked
    | with_reducible apply kept_setsChanged
    | with_reducible apply kept_answer
    | with_reducible apply Kept.ite
    | ((with_reducible apply Kept.of); rotate_left; (iterate 6 (with_reducible exact rfl)); with_reducible assumption)
    | split

theorem kept_execSyncRunEnd {q : List Instr} {ring : Nat} {s : State} (hs : Kept q s) :
    KeptO q (execSyncRunEnd ring s) := by
  unfold execSyncRunEnd
  repeat' first
    | intro _
    | with_reducible assumption
    | with_reducible apply kept_finish
    | with_reducible apply kept_checked
    | with_reducible apply kept_setWait
    | split

theorem kept_execSyncBarrier {q : List Instr} {ring : Nat} {s : State} (hs : Kept q s) :
    KeptO q (execSyncBarrier ring s) := by
  unfold execSyncBarrier
  repeat' first
    | intro _
    | with_reducible assumption
    | (extract_lets +onlyGivenNames z; clear_value z; revert z; intro _)
    | with_reducible apply kept_finish
    | with_reducible apply kept_checked
    | with_reducible apply kept_settleBarriers
    | with_reducible apply kept_setWait
    | split

theorem kept_execSwapSetSeal {q : List Instr} {ring : Nat} {s : State} (hs : Kept q s) :
    KeptO q (execSwapSetSeal ring s) := by
  unfold execSwapSetSeal
  repeat' first
    | intro _
    | with_reducible assumption
    | (extract_lets +onlyGivenNames z; guard_hyp z : State := _; refine Kept.cut (x := z) ?_ (fun _ => ?_); rotate_left; clear_value z; revert z; intro _ _; rotate_left; unfold z; clear z)
    | with_reducible apply kept_finish
    | with_reducible apply kept_checked
    | with_reducible apply kept_sealShadow
    | with_reducible apply kept_answer
    | split

theorem kept_execSwapSetNow {q : List Instr} {ring : Nat} {t : Nat} {s0 : State} (hs0 : Kept q s0) :
    KeptO q (execSwapSetNow ring t s0) := by
  unfold execSwapSetNow
  repeat' first
    | intro _
    | with_reducible assumption
    | (extract_lets +onlyGivenNames z; guard_hyp z : State := _; refine Kept.cut (x := z) ?_ (fun _ => ?_); rotate_left; clear_value z; revert z; intro _ _; rotate_left; unfold z; clear z)
    | (extract_lets +onlyGivenNames z; guard_hyp z : State := _; refine KeptO.cut (x := z) ?_ (fun _ => ?_); rotate_left; clear_value z; revert z; intro _ _; rotate_left; unfold z; clear z)
    | with_reducible apply kept_at_
    | with_reducible apply kept_finish
    | with_reducible apply kept_checked
    | with_reducible apply kept_setsChanged
    | with_reducible apply kept_swapRoles
    | with_reducible apply kept_answer
    | split

theorem kept_execAbort {q : List Instr} {ring : Nat} {t : Nat} {s0 : State} (hs0 : Kept q s0) :
    KeptO q (execAbort ring t s0) := by
  unfold execAbort
  repeat' first
    | intro _
    | with_reducible assumption
    | (extract_lets +onlyGivenNames z; guard_hyp z : State := _; refine Kept.cut (x := z) ?_ (fun _ => ?_); rotate_left; clear_value z; revert z; intro _ _; rotate_left; unfold z; clear z)
    | (extract_lets +onlyGivenNames z; guard_hyp z : State := _; refine KeptO.cut (x := z) ?_ (fun _ => ?_); rotate_left; clear_value z; revert z; intro _ _; rotate_left; unfold z; clear z)
    | with_reducible apply kept_at_
    | with_reducible apply kept_finish
    | with_reducible apply kept_checked
    | with_reducible apply kept_answer
    | with_reducible apply kept_setWait
    | with_reducible apply kept_truncate
    | split

theorem kept_execArmStripe {q : List Instr} {ring : Nat} {t : Nat} {s0 : State} (hs0 : Kept q s0) :
    KeptO q (execArmStripe ring t s0) := by
  unfold execArmStripe
  repeat' first
    | intro _
    | with_reducible assumption
    | (extract_lets +onlyGivenNames z; guard_hyp z : State := _; refine KeptO.cut (x := z) ?_ (fun _ => ?_); rotate_left; clear_value z; revert z; intro _ _; rotate_left; unfold z; clear z)
    | with_reducible apply kept_at_
    | with_reducible apply kept_finish
    | with_reducible apply kept_checked
    | with_reducible apply kept_refuse
    | with_reducible apply kept_arm
    | split

theorem kept_execReadCounters {q : List Instr} {ring : Nat} {t : Nat} {resp : Sys2Proof.WriteResp} {s0 : State} (hs0 : Kept q s0) :
    KeptO q (execReadCounters ring t resp s0) := by
  unfold execReadCounters
  repeat' first
    | intro _
    | with_reducible assumption
    | (extract_lets +onlyGivenNames z; guard_hyp z : State := _; refine KeptO.cut (x := z) ?_ (fun _ => ?_); rotate_left; clear_value z; revert z; intro _ _; rotate_left; unfold z; clear z)
    | with_reducible apply kept_at_
    | with_reducible apply kept_finish
    | with_reducible apply kept_checked
    | with_reducible apply kept_awake
    | with_reducible apply kept_readCounters
    | split

theorem kept_execRetirePage {q : List Instr} {ring : Nat} {writeErr : Bool} {s : State} (hs : Kept q s) :
    KeptO q (execRetirePage ring writeErr s) := by
  unfold execRetirePage
  repeat' first
    | intro _
    | with_reducible assumption
    | with_reducible apply kept_finish
    | with_reducible apply kept_checked
    | with_reducible apply kept_awake
    | with_reducible apply kept_retirePage
    | split

theorem kept_execSyncFigure {q : List Instr} {ring : Nat} {s : State} (hs : Kept q s) :
    KeptO q (execSyncFigure ring s) := by
  unfold execSyncFigure
  repeat' first
    | intro _
    | with_reducible assumption
    | (extract_lets +onlyGivenNames z; clear_value z; revert z; intro _)
    | with_reducible apply kept_finish
    | with_reducible apply kept_checked
    | with_reducible apply kept_awake
    | with_reducible apply kept_refuse
    | with_reducible apply kept_answer
    | with_reducible apply kept_restartFigure
    | with_reducible apply Kept.ite
    | split

/-! Net. -/

theorem kept_anchorPtp {q : List Instr} {s : State} {t : Nat} (hs : Kept q s) :
    Kept q (State.anchorPtp s t) := by
  unfold State.anchorPtp
  repeat' first
    | (extract_lets +onlyGivenNames z; clear_value z; revert z; intro _)
    | ((with_reducible apply Kept.of); rotate_left; (iterate 6 (with_reducible exact rfl)); with_reducible assumption)

theorem kept_popCapture {q : List Instr} {s : State} {n : Nat} (hs : Kept q s) :
    Kept q (State.popCapture s n) := by
  unfold State.popCapture
  repeat' first
    | (extract_lets +onlyGivenNames z; clear_value z; revert z; intro _)
    | ((with_reducible apply Kept.of); rotate_left; (iterate 6 (with_reducible exact rfl)); with_reducible assumption)

theorem kept_endPulse {q : List Instr} {s : State} {time : Int} (hs : Kept q s) :
    Kept q (State.endPulse s time) := by
  unfold State.endPulse
  repeat' first
    | intro _
    | with_reducible assumption
    | (extract_lets +onlyGivenNames z; clear_value z; revert z; intro _)
    | with_reducible apply Kept.ite
    | ((with_reducible apply Kept.of); rotate_left; (iterate 6 (with_reducible exact rfl)); with_reducible assumption)

theorem kept_ptpCtrlWritten {q : List Instr} {s : State} (hs : Kept q s) :
    Kept q (State.ptpCtrlWritten s) := by
  unfold State.ptpCtrlWritten
  repeat' first
    | intro _
    | with_reducible assumption
    | (extract_lets +onlyGivenNames z; clear_value z; revert z; intro _)
    | with_reducible apply Kept.ite
    | ((with_reducible apply Kept.of); rotate_left; (iterate 6 (with_reducible exact rfl)); with_reducible assumption)

theorem kept_unlockPtp {q : List Instr} {s : State} {t : Nat} (hs : Kept q s) :
    Kept q (State.unlockPtp s t) := by
  unfold State.unlockPtp
  repeat' first
    | with_reducible assumption
    | (extract_lets +onlyGivenNames z; guard_hyp z : State := _; refine Kept.cut (x := z) ?_ (fun _ => ?_); rotate_left; clear_value z; revert z; intro _ _; rotate_left; unfold z; clear z)
    | (extract_lets +onlyGivenNames z; clear_value z; revert z; intro _)
    | with_reducible apply kept_anchorPtp
    | ((with_reducible apply Kept.of); rotate_left; (iterate 6 (with_reducible exact rfl)); with_reducible assumption)

theorem kept_writePeriod {q : List Instr} {s : State} {hi : Bool} {v : Nat} {t : Nat} (hs : Kept q s) :
    Kept q (State.writePeriod s hi v t) := by
  unfold State.writePeriod
  repeat' first
    | with_reducible assumption
    | (extract_lets +onlyGivenNames z; guard_hyp z : State := _; refine Kept.cut (x := z) ?_ (fun _ => ?_); rotate_left; clear_value z; revert z; intro _ _; rotate_left; unfold z; clear z)
    | (extract_lets +onlyGivenNames z; clear_value z; revert z; intro _)
    | with_reducible apply kept_setReg
    | with_reducible apply kept_anchorPtp
    | ((with_reducible apply Kept.of); rotate_left; (iterate 6 (with_reducible exact rfl)); with_reducible assumption)

theorem kept_slewCfgWritten {q : List Instr} {s : State} {old : Nat} (hs : Kept q s) :
    Kept q (State.slewCfgWritten s old) := by
  unfold State.slewCfgWritten
  repeat' first
    | with_reducible assumption
    | (extract_lets +onlyGivenNames z; clear_value z; revert z; intro _)
    | with_reducible apply kept_setReg
    | with_reducible apply kept_anchorPtp

theorem kept_stepPulses {q : List Instr} {s : State} {old : Int} {new : Int} (hs : Kept q s) :
    Kept q (State.stepPulses s old new) := by
  unfold State.stepPulses
  repeat' first
    | intro _
    | with_reducible assumption
    | (extract_lets +onlyGivenNames z; guard_hyp z : State := _; refine Kept.cut (x := z) ?_ (fun _ => ?_); rotate_left; clear_value z; revert z; intro _ _; rotate_left; unfold z; clear z)
    | (extract_lets +onlyGivenNames z; clear_value z; revert z; intro _)
    | with_reducible apply kept_raise
    | with_reducible apply kept_bumpBy
    | with_reducible apply kept_endPulse
    | with_reducible apply Kept.ite

theorem kept_dropNote {q : List Instr} {s : State} {order : Nat} (hs : Kept q s) :
    Kept q (State.dropNote s order) := by
  unfold State.dropNote
  repeat' first
    | intro _
    | with_reducible assumption
    | (extract_lets +onlyGivenNames z; clear_value z; revert z; intro _)
    | with_reducible apply kept_raise
    | with_reducible apply Kept.ite
    | ((with_reducible apply Kept.of); rotate_left; (iterate 6 (with_reducible exact rfl)); with_reducible assumption)

theorem kept_applyDelta {q : List Instr} {s : State} {t : Nat} (hs : Kept q s) :
    Kept q (State.applyDelta s t) := by
  unfold State.applyDelta
  repeat' first
    | intro _
    | with_reducible assumption
    | (extract_lets +onlyGivenNames z; guard_hyp z : State := _; refine Kept.cut (x := z) ?_ (fun _ => ?_); rotate_left; clear_value z; revert z; intro _ _; rotate_left; unfold z; clear z)
    | (extract_lets +onlyGivenNames z; clear_value z; revert z; intro _)
    | with_reducible apply kept_anchorPtp
    | with_reducible apply kept_raise
    | with_reducible apply kept_bump
    | with_reducible apply kept_stepPulses
    | with_reducible apply Kept.ite
    | ((with_reducible apply Kept.of); rotate_left; (iterate 6 (with_reducible exact rfl)); with_reducible assumption)

theorem kept_execNetRateWindow {q : List Instr} {t : Nat} {s0 : State} (hs0 : Kept q s0) :
    KeptO q (execNetRateWindow t s0) := by
  unfold execNetRateWindow
  repeat' first
    | with_reducible assumption
    | (extract_lets +onlyGivenNames z; guard_hyp z : State := _; refine KeptO.cut (x := z) ?_ (fun _ => ?_); rotate_left; clear_value z; revert z; intro _ _; rotate_left; unfold z; clear z)
    | (extract_lets +onlyGivenNames z; clear_value z; revert z; intro _)
    | with_reducible apply kept_at_
    | with_reducible apply kept_finish
    | ((with_reducible apply Kept.of); rotate_left; (iterate 6 (with_reducible exact rfl)); with_reducible assumption)

theorem kept_execCapPop {q : List Instr} {n : Nat} {s : State} (hs : Kept q s) :
    KeptO q (execCapPop n s) := by
  unfold execCapPop
  repeat' first
    | intro _
    | with_reducible assumption
    | with_reducible apply kept_finish
    | with_reducible apply kept_command
    | with_reducible apply kept_popCapture
    | with_reducible apply Kept.ite

theorem kept_execUnlock {q : List Instr} {t : Nat} {s0 : State} (hs0 : Kept q s0) :
    KeptO q (execUnlock t s0) := by
  unfold execUnlock
  repeat' first
    | intro _
    | with_reducible assumption
    | (extract_lets +onlyGivenNames z; guard_hyp z : State := _; refine KeptO.cut (x := z) ?_ (fun _ => ?_); rotate_left; clear_value z; revert z; intro _ _; rotate_left; unfold z; clear z)
    | with_reducible apply kept_at_
    | with_reducible apply kept_finish
    | with_reducible apply kept_command
    | with_reducible apply kept_unlockPtp

theorem kept_execPtpPeriodWrite {q : List Instr} {hi : Bool} {v : Sys2Proof.Word} {t : Nat} {s0 : State} (hs0 : Kept q s0) :
    KeptO q (execPtpPeriodWrite hi v t s0) := by
  unfold execPtpPeriodWrite
  repeat' first
    | intro _
    | with_reducible assumption
    | (extract_lets +onlyGivenNames z; guard_hyp z : State := _; refine KeptO.cut (x := z) ?_ (fun _ => ?_); rotate_left; clear_value z; revert z; intro _ _; rotate_left; unfold z; clear z)
    | with_reducible apply kept_at_
    | with_reducible apply kept_finish
    | with_reducible apply kept_command
    | with_reducible apply kept_writePeriod

theorem kept_execSlewEnd {q : List Instr} {t : Nat} {s0 : State} (hs0 : Kept q s0) :
    KeptO q (execSlewEnd t s0) := by
  unfold execSlewEnd
  repeat' first
    | intro _
    | with_reducible assumption
    | (extract_lets +onlyGivenNames z; guard_hyp z : State := _; refine KeptO.cut (x := z) ?_ (fun _ => ?_); rotate_left; clear_value z; revert z; intro _ _; rotate_left; unfold z; clear z)
    | with_reducible apply kept_at_
    | with_reducible apply kept_finish
    | with_reducible apply kept_anchorPtp
    | with_reducible apply Kept.ite

theorem kept_execPpsPulse {q : List Instr} {t : Nat} {s0 : State} (hs0 : Kept q s0) :
    KeptO q (execPpsPulse t s0) := by
  unfold execPpsPulse
  repeat' first
    | intro _
    | with_reducible assumption
    | (extract_lets +onlyGivenNames z; guard_hyp z : State := _; refine KeptO.cut (x := z) ?_ (fun _ => ?_); rotate_left; clear_value z; revert z; intro _ _; rotate_left; unfold z; clear z)
    | (extract_lets +onlyGivenNames z; clear_value z; revert z; intro _)
    | with_reducible apply kept_at_
    | with_reducible apply kept_finish
    | with_reducible apply kept_endPulse
    | with_reducible apply Kept.ite
    | ((with_reducible apply Kept.of); rotate_left; (iterate 6 (with_reducible exact rfl)); with_reducible assumption)

theorem kept_execSpeedSeek {q : List Instr} {s : State} (hs : Kept q s) :
    KeptO q (execSpeedSeek s) := by
  unfold execSpeedSeek
  repeat' first
    | intro _
    | with_reducible assumption
    | (extract_lets +onlyGivenNames z; clear_value z; revert z; intro _)
    | with_reducible apply kept_finish
    | with_reducible apply Kept.ite
    | ((with_reducible apply Kept.of); rotate_left; (iterate 6 (with_reducible exact rfl)); with_reducible assumption)

theorem kept_execCaptureEvent {q : List Instr} {n : Nat} {t : Nat} {s0 : State} (hs0 : Kept q s0) :
    KeptO q (execCaptureEvent n t s0) := by
  unfold execCaptureEvent
  repeat' first
    | intro _
    | with_reducible assumption
    | (extract_lets +onlyGivenNames z; guard_hyp z : State := _; refine KeptO.cut (x := z) ?_ (fun _ => ?_); rotate_left; clear_value z; revert z; intro _ _; rotate_left; unfold z; clear z)
    | (extract_lets +onlyGivenNames z; clear_value z; revert z; intro _)
    | with_reducible apply kept_at_
    | with_reducible apply kept_finish
    | with_reducible apply kept_raise
    | with_reducible apply kept_bump
    | with_reducible apply kept_capture
    | with_reducible apply Kept.ite
    | ((with_reducible apply Kept.of); rotate_left; (iterate 6 (with_reducible exact rfl)); with_reducible assumption)

theorem kept_execApply {q : List Instr} {t : Nat} {s0 : State} (hs0 : Kept q s0) :
    KeptO q (execApply t s0) := by
  unfold execApply
  repeat' first
    | intro _
    | with_reducible assumption
    | (extract_lets +onlyGivenNames z; guard_hyp z : State := _; refine KeptO.cut (x := z) ?_ (fun _ => ?_); rotate_left; clear_value z; revert z; intro _ _; rotate_left; unfold z; clear z)
    | with_reducible apply kept_at_
    | with_reducible apply kept_finish
    | with_reducible apply kept_command
    | with_reducible apply kept_applyDelta

theorem kept_mirror {q : List Instr} {s : State} (hs : Kept q s) :
    Kept q (State.mirror s) := by
  unfold State.mirror
  repeat' first
    | intro _
    | with_reducible assumption
    | (extract_lets +onlyGivenNames z; guard_hyp z : State := _; refine Kept.cut (x := z) ?_ (fun _ => ?_); rotate_left; clear_value z; revert z; intro _ _; rotate_left; unfold z; clear z)
    | (extract_lets +onlyGivenNames z; clear_value z; revert z; intro _)
    | with_reducible apply kept_touch
    | with_reducible apply kept_bumpBy
    | with_reducible apply kept_setReg
    | with_reducible apply kept_bump
    | with_reducible apply kept_next
    | with_reducible apply Kept.ite
    | with_reducible apply Kept.foldl
    | ((with_reducible apply Kept.of); rotate_left; (iterate 6 (with_reducible exact rfl)); with_reducible assumption)

theorem kept_execMirrorSend {q : List Instr} {t : Nat} {s0 : State} (hs0 : Kept q s0) :
    KeptO q (execMirrorSend t s0) := by
  unfold execMirrorSend
  repeat' first
    | intro _
    | with_reducible assumption
    | (extract_lets +onlyGivenNames z; guard_hyp z : State := _; refine KeptO.cut (x := z) ?_ (fun _ => ?_); rotate_left; clear_value z; revert z; intro _ _; rotate_left; unfold z; clear z)
    | with_reducible apply kept_at_
    | with_reducible apply kept_finish
    | with_reducible apply kept_mirror
    | with_reducible apply Kept.ite

theorem kept_transmit {q : List Instr} {s : State} {e : CurEntry} {frame : List Sys2Proof.Byte} {t : Nat} (hs : Kept q s) :
    Kept q (State.transmit s e frame t) := by
  unfold State.transmit
  repeat' first
    | with_reducible assumption
    | (extract_lets +onlyGivenNames z; guard_hyp z : State := _; refine Kept.cut (x := z) ?_ (fun _ => ?_); rotate_left; clear_value z; revert z; intro _ _; rotate_left; unfold z; clear z)
    | (extract_lets +onlyGivenNames z; clear_value z; revert z; intro _)
    | with_reducible apply kept_hostWrite
    | with_reducible apply kept_answer
    | with_reducible apply kept_bump
    | ((with_reducible apply Kept.of); rotate_left; (iterate 6 (with_reducible exact rfl)); with_reducible assumption)

theorem kept_receive {q : List Instr} {s : State} {bs : List Sys2Proof.Byte} {t : Nat} (hs : Kept q s) :
    Kept q (State.receive s bs t) := by
  unfold State.receive
  repeat' first
    | intro _
    | with_reducible assumption
    | (extract_lets +onlyGivenNames z; guard_hyp z : State := _; refine Kept.cut (x := z) ?_ (fun _ => ?_); rotate_left; clear_value z; revert z; intro _ _; rotate_left; unfold z; clear z)
    | (extract_lets +onlyGivenNames z; clear_value z; revert z; intro _)
    | with_reducible apply kept_dropNote
    | with_reducible apply kept_bump
    | with_reducible apply kept_rxServe
    | with_reducible apply Kept.ite
    | ((with_reducible apply Kept.of); rotate_left; (iterate 6 (with_reducible exact rfl)); with_reducible assumption)
    | split

theorem kept_setLink {q : List Instr} {s : State} {up : Bool} (hs : Kept q s) :
    Kept q (State.setLink s up) := by
  unfold State.setLink
  repeat' first
    | intro _
    | with_reducible assumption
    | (extract_lets +onlyGivenNames z; guard_hyp z : State := _; refine Kept.cut (x := z) ?_ (fun _ => ?_); rotate_left; clear_value z; revert z; intro _ _; rotate_left; unfold z; clear z)
    | (extract_lets +onlyGivenNames z; clear_value z; revert z; intro _)
    | with_reducible apply kept_raise
    | with_reducible apply kept_bump
    | with_reducible apply kept_transmit
    | with_reducible apply Kept.ite
    | ((with_reducible apply Kept.of); rotate_left; (iterate 6 (with_reducible exact rfl)); with_reducible assumption)
    | split

theorem kept_takeFrame {q : List Instr} {s : State} {e : CurEntry} {frame : List Sys2Proof.Byte} {t : Nat} (hs : Kept q s) :
    Kept q (State.takeFrame s e frame t) := by
  unfold State.takeFrame
  repeat' first
    | intro _
    | with_reducible assumption
    | (extract_lets +onlyGivenNames z; clear_value z; revert z; intro _)
    | with_reducible apply kept_refuse
    | with_reducible apply kept_transmit
    | with_reducible apply Kept.ite
    | ((with_reducible apply Kept.of); rotate_left; (iterate 6 (with_reducible exact rfl)); with_reducible assumption)

theorem kept_execNetRxFrame {q : List Instr} {bytes : List Sys2Proof.Byte} {t : Nat} {s0 : State} (hs0 : Kept q s0) :
    KeptO q (execNetRxFrame bytes t s0) := by
  unfold execNetRxFrame
  repeat' first
    | intro _
    | with_reducible assumption
    | (extract_lets +onlyGivenNames z; guard_hyp z : State := _; refine KeptO.cut (x := z) ?_ (fun _ => ?_); rotate_left; clear_value z; revert z; intro _ _; rotate_left; unfold z; clear z)
    | with_reducible apply kept_at_
    | with_reducible apply kept_finish
    | with_reducible apply kept_receive
    | with_reducible apply Kept.ite

theorem kept_netCtrlWritten {q : List Instr} {s : State} {old : Nat} (hs : Kept q s) :
    Kept q (State.netCtrlWritten s old) := by
  unfold State.netCtrlWritten
  repeat' first
    | intro _
    | with_reducible assumption
    | (extract_lets +onlyGivenNames z; guard_hyp z : State := _; refine Kept.cut (x := z) ?_ (fun _ => ?_); rotate_left; clear_value z; revert z; intro _ _; rotate_left; unfold z; clear z)
    | (extract_lets +onlyGivenNames z; clear_value z; revert z; intro _)
    | with_reducible apply kept_setLink
    | with_reducible apply Kept.ite
    | ((with_reducible apply Kept.of); rotate_left; (iterate 6 (with_reducible exact rfl)); with_reducible assumption)

theorem kept_execNetLink {q : List Instr} {up : Bool} {s : State} (hs : Kept q s) :
    KeptO q (execNetLink up s) := by
  unfold execNetLink
  repeat' first
    | intro _
    | with_reducible assumption
    | with_reducible apply kept_finish
    | with_reducible apply kept_setLink
    | with_reducible apply Kept.ite

theorem kept_execNetTxEntry {q : List Instr} {frame : Sys2Proof.HostRead} {t : Nat} {s0 : State} (hs0 : Kept q s0) :
    KeptO q (execNetTxEntry frame t s0) := by
  unfold execNetTxEntry
  repeat' first
    | intro _
    | with_reducible assumption
    | (extract_lets +onlyGivenNames z; guard_hyp z : State := _; refine KeptO.cut (x := z) ?_ (fun _ => ?_); rotate_left; clear_value z; revert z; intro _ _; rotate_left; unfold z; clear z)
    | with_reducible apply kept_at_
    | with_reducible apply kept_finish
    | with_reducible apply kept_transmit
    | with_reducible apply kept_refuse
    | with_reducible apply kept_takeFrame
    | with_reducible apply Kept.ite
    | split

end Sys2Proof.Laws
end

