-- ==== Sys2Proof/Laws/KeptControl.lean ====
section
/-! SUPPORT. What register writes, the SRAM scrubber and the supplies keep: one lemma for each operation and each command (see Kept). -/

namespace Sys2Proof.Laws

open Sys2Proof.Machine

/-! RegWrite. -/

/-- Every action of a list keeps the queue and the maps. -/
def Keep (q : List Instr) (l : List (State → Host.Outcome State Fault Refusal)) : Prop :=
  ∀ f ∈ l, ∀ s, Kept q s → KeptO q (f s)

theorem Keep.nil {q : List Instr} : Keep q [] := fun _ h => absurd h (List.not_mem_nil)

theorem Keep.cons {q : List Instr} {f l} (hf : ∀ s, Kept q s → KeptO q (f s)) (hl : Keep q l) : Keep q (f :: l) := by
  intro g hg
  rcases List.mem_cons.1 hg with rfl | hg
  · exact hf
  · exact hl g hg

theorem Keep.chosen {q : List Instr} {v : Nat} {fs} (h : Keep q (fs.map (·.2))) : Keep q (chosen v fs) := by
  intro f hf
  obtain ⟨p, hp, rfl⟩ := List.mem_map.1 hf
  exact h _ (List.mem_map_of_mem (List.mem_filter.1 hp).1)

theorem kept_inTurn {q : List Instr} {l : List (State → Host.Outcome State Fault Refusal)} {s : State} (hl : Keep q l)
    (hs : Kept q s) : KeptO q (inTurn l s) := by
  induction l generalizing s with
  | nil => exact KeptO.next hs
  | cons f l ih =>
    have hf : KeptO q (f s) := hl f List.mem_cons_self s hs
    unfold inTurn
    split
    · exact ih (fun g hg => hl g (List.mem_cons_of_mem _ hg)) (hf.kept _ ‹_›)
    · exact hf

theorem kept_countedOnce {q : List Instr} {s : State} {o : Host.Outcome State Fault Refusal} (ho : KeptO q o) :
    KeptO q (countedOnce s o) := by
  unfold countedOnce
  split
  · refine KeptO.next (Kept.ite (fun _ => kept_setReg ?_) fun _ => ?_) <;> exact ho.kept _ rfl
  · exact ho

theorem kept_setWord {q : List Instr} {s : State} {off : Nat} {v : Nat} (hs : Kept q s) :
    Kept q (State.setWord s off v) := by
  unfold State.setWord
  repeat' first
    | with_reducible assumption
    | (extract_lets +onlyGivenNames z; guard_hyp z : State := _; refine Kept.cut (x := z) ?_ (fun _ => ?_); rotate_left; clear_value z; revert z; intro _ _; rotate_left; unfold z; clear z)
    | (extract_lets +onlyGivenNames z; clear_value z; revert z; intro _)
    | with_reducible apply kept_setReg
    | ((with_reducible apply Kept.of); rotate_left; (iterate 6 (with_reducible exact rfl)); with_reducible assumption)
    | split

theorem kept_readEffect {q : List Instr} {s : State} {off : Nat} (hs : Kept q s) :
    Kept q (State.readEffect s off) := by
  unfold State.readEffect
  repeat' first
    | intro _
    | with_reducible assumption
    | (extract_lets +onlyGivenNames z; clear_value z; revert z; intro _)
    | with_reducible apply kept_setReg
    | with_reducible apply kept_autoNext
    | with_reducible apply Kept.ite

theorem kept_readBar2 {q : List Instr} {s : State} {off : Nat} (hs : Kept q s) :
    Kept q (State.readBar2 s off) := by
  unfold State.readBar2
  repeat' first
    | intro _
    | with_reducible assumption
    | (extract_lets +onlyGivenNames z; guard_hyp z : State := _; refine Kept.cut (x := z) ?_ (fun _ => ?_); rotate_left; clear_value z; revert z; intro _ _; rotate_left; unfold z; clear z)
    | with_reducible apply kept_violation
    | with_reducible apply Kept.ite
    | ((with_reducible apply Kept.of); rotate_left; (iterate 6 (with_reducible exact rfl)); with_reducible assumption)

theorem kept_setAccept {q : List Instr} {s : State} {off : Nat} {v : Nat} (hs : Kept q s) :
    Kept q (State.setAccept s off v) := by
  unfold State.setAccept
  repeat' first
    | intro _
    | with_reducible assumption
    | with_reducible apply kept_setWord
    | with_reducible apply kept_violation
    | with_reducible apply kept_setReg
    | with_reducible apply kept_bump
    | with_reducible apply Kept.ite

theorem kept_readOff {q : List Instr} {s : State} {off : Nat} (hs : Kept q s) :
    Kept q (State.readOff s off) := by
  unfold State.readOff
  repeat' first
    | intro _
    | with_reducible assumption
    | (extract_lets +onlyGivenNames z; guard_hyp z : State := _; refine Kept.cut (x := z) ?_ (fun _ => ?_); rotate_left; clear_value z; revert z; intro _ _; rotate_left; unfold z; clear z)
    | with_reducible apply kept_offAccess
    | with_reducible apply kept_violation
    | with_reducible apply kept_readEffect
    | with_reducible apply Kept.ite
    | ((with_reducible apply Kept.of); rotate_left; (iterate 6 (with_reducible exact rfl)); with_reducible assumption)

theorem kept_setWrite {q : List Instr} {s : State} {off : Nat} {be : Nat} {v : Nat} (hs : Kept q s) :
    Kept q (State.setWrite s off be v) := by
  unfold State.setWrite
  repeat' first
    | intro _
    | with_reducible assumption
    | with_reducible apply kept_guardWrite
    | with_reducible apply kept_setAccept

theorem kept_execPtpNowRead {q : List Instr} {t : Nat} {s : State} (hs : Kept q s) :
    KeptO q (execPtpNowRead t s) := by
  unfold execPtpNowRead
  repeat' first
    | with_reducible assumption
    | with_reducible apply kept_finish
    | with_reducible apply kept_readOff
    | with_reducible apply kept_at_

theorem kept_execRcRead {q : List Instr} {addr : Nat} {s : State} (hs : Kept q s) :
    KeptO q (execRcRead addr s) := by
  unfold execRcRead
  repeat' first
    | intro _
    | with_reducible assumption
    | with_reducible apply kept_finish
    | with_reducible apply kept_readOff
    | with_reducible apply kept_readBar2
    | with_reducible apply Kept.ite

theorem kept_execConfigSetWrite {q : List Instr} {addr : Nat} {be : Nat} {v : Sys2Proof.Word} {s : State} (hs : Kept q s) :
    KeptO q (execConfigSetWrite addr be v s) := by
  unfold execConfigSetWrite
  repeat' first
    | intro _
    | with_reducible assumption
    | with_reducible apply kept_finish
    | with_reducible apply kept_setWrite
    | with_reducible apply Kept.ite

theorem kept_execResidencyRead {q : List Instr} {i : Nat} {t : Nat} {s : State} (hs : Kept q s) :
    KeptO q (execResidencyRead i t s) := by
  unfold execResidencyRead
  repeat' first
    | intro _
    | with_reducible assumption
    | with_reducible apply kept_finish
    | with_reducible apply kept_readOff
    | with_reducible apply kept_at_
    | with_reducible apply Kept.ite

theorem kept_execPtpFrcRead {q : List Instr} {t : Nat} {s : State} (hs : Kept q s) :
    KeptO q (execPtpFrcRead t s) := by
  unfold execPtpFrcRead
  repeat' first
    | with_reducible assumption
    | with_reducible apply kept_finish
    | with_reducible apply kept_readOff
    | with_reducible apply kept_at_

theorem kept_written {q : List Instr} {s : State} {off : Nat} {old : Nat} (hs : Kept q s) :
    Kept q (State.written s off old) := by
  unfold State.written
  repeat' first
    | intro _
    | with_reducible assumption
    | (extract_lets +onlyGivenNames z; clear_value z; revert z; intro _)
    | with_reducible apply kept_setField
    | with_reducible apply kept_stopFree
    | with_reducible apply kept_netCtrlWritten
    | with_reducible apply kept_slewCfgWritten
    | with_reducible apply kept_ptpCtrlWritten
    | with_reducible apply Kept.ite
    | ((with_reducible apply Kept.of); rotate_left; (iterate 6 (with_reducible exact rfl)); with_reducible assumption)

theorem kept_plainWrite {q : List Instr} {s : State} {off : Nat} {v : Nat} {mask : Nat} (hs : Kept q s) :
    Kept q (State.plainWrite s off v mask) := by
  unfold State.plainWrite
  repeat' first
    | intro _
    | with_reducible assumption
    | (extract_lets +onlyGivenNames z; guard_hyp z : Hst := _; revert z; intro _)
    | (extract_lets +onlyGivenNames z; clear_value z; revert z; intro _)
    | with_reducible apply kept_setReg
    | with_reducible apply kept_written
    | with_reducible apply Kept.ite
    | ((with_reducible apply Kept.of); rotate_left; (iterate 6 (with_reducible exact rfl)); with_reducible assumption)
    | split

theorem kept_cmdBits {q : List Instr} {off v t : Nat} : Keep q (cmdBits off v t) := by
  unfold cmdBits
  repeat' first
    | split
    | exact Keep.nil
    | refine Keep.chosen ?_
    | refine Keep.cons (fun _ h => ?_) ?_
    | with_reducible apply kept_execRingReset
    | with_reducible apply kept_execRingResume
    | with_reducible apply kept_execPresetSNow
    | with_reducible apply kept_execPresetSIdx
    | with_reducible apply kept_execPresetCNow
    | with_reducible apply kept_execPresetCIdx
    | with_reducible apply kept_execAnchorPw
    | with_reducible apply kept_execSimRun
    | with_reducible apply kept_execSimStop
    | with_reducible apply kept_execBindActive
    | with_reducible apply kept_execCorResume
    | with_reducible apply kept_execSnap
    | with_reducible apply kept_execShrink
    | with_reducible apply kept_execUnlock
    | with_reducible apply kept_execApply
    | with_reducible apply kept_execCapPop
    | with_reducible apply kept_execFwCommit
    | with_reducible apply kept_execWarmReset
    | with_reducible apply kept_execColdReset
    | with_reducible apply kept_execWeaverRetire
    | with_reducible apply kept_execLaneRetire
    | with_reducible apply kept_execMemChFence
    | with_reducible apply kept_execMemChRetire
    | with_reducible apply kept_finish
    | with_reducible apply kept_onlyIn
    | with_reducible assumption
    | intro _

/-- The action of an option keeps the queue and the maps. -/
def KeepSome (q : List Instr) (o : Option (State → Host.Outcome State Fault Refusal)) : Prop :=
  ∀ f, o = some f → ∀ s, Kept q s → KeptO q (f s)

theorem KeepSome.none {q : List Instr} : KeepSome q none := fun _ h => by cases h

theorem KeepSome.ite {q : List Instr} {c : Prop} [Decidable c] {f o} (hf : ∀ s, Kept q s → KeptO q (f s)) (ho : KeepSome q o) :
    KeepSome q (if c then some f else o) := by
  split
  · intro g h s hs
    cases h
    exact hf s hs
  · exact ho

theorem kept_valueCommand {q : List Instr} {off : Nat} {v : Sys2Proof.Word} {t : Nat} : KeepSome q (valueCommand off v t) := by
  unfold valueCommand
  refine KeepSome.ite (fun _ h => kept_execIrqPendClear h) ?_
  refine KeepSome.ite (fun _ h => kept_execIrqPendClear h) ?_
  refine KeepSome.ite (fun _ h => kept_execIrqEnableWrite h) ?_
  refine KeepSome.ite (fun _ h => kept_execIrqEnableWrite h) ?_
  refine KeepSome.ite (fun _ h => kept_execIrqSet h) ?_
  refine KeepSome.ite (fun _ h => kept_execIrqSet h) ?_
  refine KeepSome.ite (fun _ h => kept_execEccLogPop h) ?_
  refine KeepSome.ite (fun _ h => kept_execFigErrlogPop h) ?_
  refine KeepSome.ite (fun _ h => kept_execPwrResultPop h) ?_
  refine KeepSome.ite (fun _ h => kept_execEccFlipArm h) ?_
  refine KeepSome.ite (fun _ h => kept_execMailboxReadAdvance h) ?_
  refine KeepSome.ite (fun _ h => kept_execCursorFetch h) ?_
  refine KeepSome.ite (fun _ h => kept_execPtpPeriodWrite h) ?_
  refine KeepSome.ite (fun _ h => kept_execPtpPeriodWrite h) ?_
  refine KeepSome.ite (fun _ h => kept_execPprGo h) ?_
  refine KeepSome.ite (fun _ h => kept_execPowerRequest h) ?_
  refine KeepSome.ite (fun _ h => kept_execLaneInject h) ?_
  refine KeepSome.ite (fun _ h => kept_execLanePrbs h) ?_
  refine KeepSome.ite (fun _ h => ?_) ?_
  · split
    · exact kept_execRingEnable h
    · exact kept_execRingDisable h
  exact KeepSome.ite (fun _ h => kept_execConfigSetWrite h) KeepSome.none

theorem kept_execRegisterWrite {q : List Instr} {addr : Nat} {be : Nat} {v : Sys2Proof.Word} {s : State} (hs : Kept q s) :
    KeptO q (execRegisterWrite addr be v s) := by
  unfold execRegisterWrite
  split
  · split
    · exact kept_valueCommand _ ‹_› _ hs
    · exact KeptO.ite (fun _ => kept_countedOnce (kept_inTurn kept_cmdBits hs)) fun _ =>
        kept_finish hs (kept_guardWrite hs fun _ _ h => kept_plainWrite h)
  · exact kept_finish hs (kept_guardWrite hs fun _ _ h => h)

/-! SramScrub. -/

theorem kept_withdrawGroup {q : List Instr} {s : State} (hs : Kept q s) :
    Kept q (State.withdrawGroup s) := by
  unfold State.withdrawGroup
  repeat' first
    | with_reducible assumption
    | (extract_lets +onlyGivenNames z; clear_value z; revert z; intro _)
    | with_reducible apply kept_next
    | with_reducible apply kept_invalidateRows
    | split

theorem kept_rowsUnread {q : List Instr} {s : State} {r0 : Nat} {r1 : Nat} (hs : Kept q s) :
    Kept q (State.rowsUnread s r0 r1) := by
  unfold State.rowsUnread
  repeat' first
    | intro _
    | with_reducible assumption
    | with_reducible apply kept_hole
    | with_reducible apply Kept.ite
    | split

theorem kept_sramUe {q : List Instr} {s : State} {store : Nat} {word : Nat} (hs : Kept q s) :
    Kept q (State.sramUe s store word) := by
  unfold State.sramUe
  repeat' first
    | intro _
    | with_reducible assumption
    | (extract_lets +onlyGivenNames z; guard_hyp z : State := _; refine Kept.cut (x := z) ?_ (fun _ => ?_); rotate_left; clear_value z; revert z; intro _ _; rotate_left; unfold z; clear z)
    | (extract_lets +onlyGivenNames z; clear_value z; revert z; intro _)
    | with_reducible apply kept_next
    | with_reducible apply kept_weaverFails
    | with_reducible apply kept_decodeFails
    | with_reducible apply kept_withdrawGroup
    | with_reducible apply kept_fpPoison
    | with_reducible apply kept_rowsUnread
    | with_reducible apply kept_setRing
    | with_reducible apply Kept.ite
    | ((with_reducible apply Kept.of); rotate_left; (iterate 6 (with_reducible exact rfl)); with_reducible assumption)
    | split

theorem kept_sramError {q : List Instr} {s : State} {store : Nat} {word : Nat} {dx : Nat} {cx : Nat} (hs : Kept q s) :
    Kept q (State.sramError s store word dx cx) := by
  unfold State.sramError
  repeat' first
    | intro _
    | with_reducible assumption
    | (extract_lets +onlyGivenNames z; guard_hyp z : State := _; refine Kept.cut (x := z) ?_ (fun _ => ?_); rotate_left; clear_value z; revert z; intro _ _; rotate_left; unfold z; clear z)
    | (extract_lets +onlyGivenNames z; clear_value z; revert z; intro _)
    | with_reducible apply kept_eccLog
    | with_reducible apply kept_bump
    | with_reducible apply kept_sramUe
    | with_reducible apply kept_withyChange
    | with_reducible apply kept_raise
    | with_reducible apply Kept.ite
    | ((with_reducible apply Kept.of); rotate_left; (iterate 6 (with_reducible exact rfl)); with_reducible assumption)
    | split

theorem kept_execSramScrub {q : List Instr} {store : Nat} {word : Nat} {dx : Sys2Proof.Dword} {cx : Sys2Proof.Byte} {s : State} (hs : Kept q s) :
    KeptO q (execSramScrub store word dx cx s) := by
  unfold execSramScrub
  repeat' first
    | intro _
    | with_reducible assumption
    | with_reducible apply kept_finish
    | with_reducible apply kept_sramError
    | with_reducible apply Kept.ite

/-! Supply. -/

theorem kept_pwrFault {q : List Instr} {s : State} {code : Nat} {sub : Nat} {phase : Nat} {value : Nat} (hs : Kept q s) :
    Kept q (State.pwrFault s code sub phase value) := by
  unfold State.pwrFault
  repeat' first
    | with_reducible assumption
    | with_reducible apply kept_raise
    | with_reducible apply kept_setRegs
    | with_reducible apply kept_bump

theorem kept_execBrownoutLasting {q : List Instr} {s : State} (hs : Kept q s) :
    KeptO q (execBrownoutLasting s) := by
  unfold execBrownoutLasting
  repeat' first
    | intro _
    | with_reducible assumption
    | (extract_lets +onlyGivenNames z; guard_hyp z : State := _; refine KeptO.cut (x := z) ?_ (fun _ => ?_); rotate_left; clear_value z; revert z; intro _ _; rotate_left; unfold z; clear z)
    | (extract_lets +onlyGivenNames z; clear_value z; revert z; intro _)
    | with_reducible apply kept_finish
    | with_reducible apply kept_powerOff
    | with_reducible apply Kept.ite
    | ((with_reducible apply Kept.of); rotate_left; (iterate 6 (with_reducible exact rfl)); with_reducible assumption)

theorem kept_execLpOver {q : List Instr} {ma : Nat} {s : State} (hs : Kept q s) :
    KeptO q (execLpOver ma s) := by
  unfold execLpOver
  repeat' first
    | intro _
    | with_reducible assumption
    | (extract_lets +onlyGivenNames z; clear_value z; revert z; intro _)
    | with_reducible apply kept_finish
    | with_reducible apply kept_pwrFault
    | with_reducible apply kept_bump
    | with_reducible apply Kept.ite
    | ((with_reducible apply Kept.of); rotate_left; (iterate 6 (with_reducible exact rfl)); with_reducible assumption)

theorem kept_execPhaseFault {q : List Instr} {rail : Nat} {phase : Nat} {ma : Nat} {s : State} (hs : Kept q s) :
    KeptO q (execPhaseFault rail phase ma s) := by
  unfold execPhaseFault
  repeat' first
    | intro _
    | with_reducible assumption
    | (extract_lets +onlyGivenNames z; guard_hyp z : State := _; refine Kept.cut (x := z) ?_ (fun _ => ?_); rotate_left; clear_value z; revert z; intro _ _; rotate_left; unfold z; clear z)
    | (extract_lets +onlyGivenNames z; clear_value z; revert z; intro _)
    | with_reducible apply kept_finish
    | with_reducible apply kept_pwrFault
    | with_reducible apply kept_withyChange
    | with_reducible apply Kept.ite
    | ((with_reducible apply Kept.of); rotate_left; (iterate 6 (with_reducible exact rfl)); with_reducible assumption)
    | split

theorem kept_execVinLow {q : List Instr} {mv : Nat} {s : State} (hs : Kept q s) :
    KeptO q (execVinLow mv s) := by
  unfold execVinLow
  repeat' first
    | intro _
    | with_reducible assumption
    | (extract_lets +onlyGivenNames z; clear_value z; revert z; intro _)
    | with_reducible apply kept_finish
    | with_reducible apply kept_pwrFault
    | with_reducible apply Kept.ite
    | ((with_reducible apply Kept.of); rotate_left; (iterate 6 (with_reducible exact rfl)); with_reducible assumption)

theorem kept_execReferenceReturn {q : List Instr} {t : Nat} {s0 : State} (hs0 : Kept q s0) :
    KeptO q (execReferenceReturn t s0) := by
  unfold execReferenceReturn
  repeat' first
    | intro _
    | with_reducible assumption
    | (extract_lets +onlyGivenNames z; guard_hyp z : State := _; refine KeptO.cut (x := z) ?_ (fun _ => ?_); rotate_left; clear_value z; revert z; intro _ _; rotate_left; unfold z; clear z)
    | (extract_lets +onlyGivenNames z; clear_value z; revert z; intro _)
    | with_reducible apply kept_at_
    | with_reducible apply kept_finish
    | with_reducible apply Kept.ite
    | ((with_reducible apply Kept.of); rotate_left; (iterate 6 (with_reducible exact rfl)); with_reducible assumption)

theorem kept_execRefclkLoss {q : List Instr} {s : State} (hs : Kept q s) :
    KeptO q (execRefclkLoss s) := by
  unfold execRefclkLoss
  repeat' first
    | intro _
    | with_reducible assumption
    | (extract_lets +onlyGivenNames z; guard_hyp z : State := _; refine KeptO.cut (x := z) ?_ (fun _ => ?_); rotate_left; clear_value z; revert z; intro _ _; rotate_left; unfold z; clear z)
    | (extract_lets +onlyGivenNames z; clear_value z; revert z; intro _)
    | with_reducible apply kept_finish
    | with_reducible apply kept_portReset
    | with_reducible apply kept_bump
    | with_reducible apply Kept.ite
    | ((with_reducible apply Kept.of); rotate_left; (iterate 6 (with_reducible exact rfl)); with_reducible assumption)

theorem kept_execPllRelock {q : List Instr} {i : Nat} {t : Nat} {s0 : State} (hs0 : Kept q s0) :
    KeptO q (execPllRelock i t s0) := by
  unfold execPllRelock
  repeat' first
    | intro _
    | with_reducible assumption
    | (extract_lets +onlyGivenNames z; guard_hyp z : State := _; refine KeptO.cut (x := z) ?_ (fun _ => ?_); rotate_left; clear_value z; revert z; intro _ _; rotate_left; unfold z; clear z)
    | (extract_lets +onlyGivenNames z; guard_hyp z : Hst := _; revert z; intro _)
    | (extract_lets +onlyGivenNames z; clear_value z; revert z; intro _)
    | with_reducible apply kept_at_
    | with_reducible apply kept_finish
    | with_reducible apply kept_setDomain
    | with_reducible apply Kept.ite
    | with_reducible apply Kept.foldl
    | ((with_reducible apply Kept.of); rotate_left; (iterate 6 (with_reducible exact rfl)); with_reducible assumption)

theorem kept_execRefLost {q : List Instr} {t : Nat} {s0 : State} (hs0 : Kept q s0) :
    KeptO q (execRefLost t s0) := by
  unfold execRefLost
  repeat' first
    | intro _
    | with_reducible assumption
    | (extract_lets +onlyGivenNames z; guard_hyp z : State := _; refine KeptO.cut (x := z) ?_ (fun _ => ?_); rotate_left; clear_value z; revert z; intro _ _; rotate_left; unfold z; clear z)
    | (extract_lets +onlyGivenNames z; clear_value z; revert z; intro _)
    | with_reducible apply kept_at_
    | with_reducible apply kept_finish
    | with_reducible apply kept_pwrFault
    | with_reducible apply kept_bump
    | with_reducible apply Kept.ite
    | ((with_reducible apply Kept.of); rotate_left; (iterate 6 (with_reducible exact rfl)); with_reducible assumption)

theorem kept_abandonTransition {q : List Instr} {s : State} (hs : Kept q s) :
    Kept q (State.abandonTransition s) := by
  unfold State.abandonTransition
  repeat' first
    | intro _
    | with_reducible assumption
    | (extract_lets +onlyGivenNames z; guard_hyp z : State := _; refine Kept.cut (x := z) ?_ (fun _ => ?_); rotate_left; clear_value z; revert z; intro _ _; rotate_left; unfold z; clear z)
    | (extract_lets +onlyGivenNames z; clear_value z; revert z; intro _)
    | with_reducible apply kept_dropSlot
    | with_reducible apply kept_setDomains
    | with_reducible apply kept_next
    | with_reducible apply kept_pushResult
    | with_reducible apply Kept.ite
    | ((with_reducible apply Kept.of); rotate_left; (iterate 6 (with_reducible exact rfl)); with_reducible assumption)
    | split

theorem kept_execBrownoutClear {q : List Instr} {s : State} (hs : Kept q s) :
    KeptO q (execBrownoutClear s) := by
  unfold execBrownoutClear
  repeat' first
    | intro _
    | with_reducible assumption
    | (extract_lets +onlyGivenNames z; clear_value z; revert z; intro _)
    | with_reducible apply kept_finish
    | with_reducible apply kept_commitAll
    | with_reducible apply Kept.ite
    | ((with_reducible apply Kept.of); rotate_left; (iterate 6 (with_reducible exact rfl)); with_reducible assumption)

theorem kept_execBrownout {q : List Instr} {rail : Nat} {mv : Nat} {t : Nat} {s0 : State} (hs0 : Kept q s0) :
    KeptO q (execBrownout rail mv t s0) := by
  unfold execBrownout
  repeat' first
    | intro _
    | with_reducible assumption
    | (extract_lets +onlyGivenNames z; guard_hyp z : State := _; refine KeptO.cut (x := z) ?_ (fun _ => ?_); rotate_left; clear_value z; revert z; intro _ _; rotate_left; unfold z; clear z)
    | (extract_lets +onlyGivenNames z; clear_value z; revert z; intro _)
    | with_reducible apply kept_at_
    | with_reducible apply kept_finish
    | with_reducible apply kept_abandonTransition
    | with_reducible apply kept_truncateNow
    | with_reducible apply kept_pwrFault
    | with_reducible apply Kept.ite
    | ((with_reducible apply Kept.of); rotate_left; (iterate 6 (with_reducible exact rfl)); with_reducible assumption)

theorem kept_execHoldoverExpiry {q : List Instr} {t : Nat} {s0 : State} (hs0 : Kept q s0) :
    KeptO q (execHoldoverExpiry t s0) := by
  unfold execHoldoverExpiry
  repeat' first
    | intro _
    | with_reducible assumption
    | (extract_lets +onlyGivenNames z; guard_hyp z : State := _; refine KeptO.cut (x := z) ?_ (fun _ => ?_); rotate_left; clear_value z; revert z; intro _ _; rotate_left; unfold z; clear z)
    | with_reducible apply kept_at_
    | with_reducible apply kept_finish
    | with_reducible apply kept_truncateNow
    | with_reducible apply Kept.ite
    | split

theorem kept_execPllUnlock {q : List Instr} {i : Nat} {ppm : Nat} {t : Nat} {s0 : State} (hs0 : Kept q s0) :
    KeptO q (execPllUnlock i ppm t s0) := by
  unfold execPllUnlock
  repeat' first
    | intro _
    | with_reducible assumption
    | (extract_lets +onlyGivenNames z; guard_hyp z : State := _; refine KeptO.cut (x := z) ?_ (fun _ => ?_); rotate_left; clear_value z; revert z; intro _ _; rotate_left; unfold z; clear z)
    | (extract_lets +onlyGivenNames z; clear_value z; revert z; intro _)
    | with_reducible apply kept_at_
    | with_reducible apply kept_finish
    | with_reducible apply kept_pwrFault
    | with_reducible apply kept_bump
    | with_reducible apply kept_truncateNow
    | with_reducible apply Kept.ite
    | ((with_reducible apply Kept.of); rotate_left; (iterate 6 (with_reducible exact rfl)); with_reducible assumption)

end Sys2Proof.Laws
end

