-- ==== Sys2Proof/Laws/RegFrame.lean ====
section
/-! SUPPORT. Register frames: which blocks' registers an operation leaves as they were. Block n of BAR0 is its offsets from n MiB
up (R8). A number `W` names blocks by its bits, with bit 16 for everything above BAR0; `Rg W s0 s` says that every register of a
block that `W` does not name reads in `s` as in `s0`. The files RegFrameBase and after hold one lemma for each operation. -/

namespace Sys2Proof.Laws

open Sys2Proof.Machine

/-- The block of an offset. -/
def regBlock (off : Nat) : Nat := min (off / 2 ^ 20) 16

/-- Every register of a block that `W` does not name reads in `s` as in `s0`, and the store of registers keeps its form. -/
structure Rg (W : Nat) (s0 s : State) : Prop where
  wf : s0.regsWf = true → s.regsWf = true
  reg : s0.regsWf = true → ∀ off, W.testBit (regBlock off) = true ∨ s.reg off = s0.reg off

/-- The same of whatever next state an outcome holds. -/
structure RgO (W : Nat) (s0 : State) (o : Host.Outcome State Fault Refusal) : Prop where
  kept : ∀ t, o = .next t → Rg W s0 t

variable {W V U : Nat} {s0 : State}

theorem Rg.refl {s : State} : Rg W s s := ⟨id, fun _ _ => Or.inr rfl⟩

theorem Rg.of {s : State} {pending time free readData glb hst sets run runEnded fig wvr cor stg bmf trk lnk dram sram net ptp pwr
    clk thm rcr} (h : Rg W s0 s) :
    Rg W s0 (State.mk pending time free readData s.regs glb hst sets run runEnded fig wvr cor stg bmf trk lnk dram sram net ptp pwr clk thm rcr) := ⟨h.wf, h.reg⟩

/-- A step that writes no register. -/
theorem Rg.same {s t : State} (h : Rg W s0 s) (e : t.regs = s.regs) : Rg W s0 t := by
  refine ⟨fun k => ?_, fun k off => ?_⟩
  · have := h.wf k
    unfold State.regsWf at this ⊢
    rw [e]
    exact this
  · have := h.reg k off
    unfold State.reg at this ⊢
    rw [e]
    exact this

theorem Rg.setReg {s : State} {off v : Nat} (hb : W.testBit (regBlock off) = true) (h : Rg W s0 s) : Rg W s0 (s.setReg off v) := by
  refine ⟨fun k => regsWf_setReg s (h.wf k) off v, fun k x => ?_⟩
  by_cases e : x = off
  · exact Or.inl (e ▸ hb)
  · rcases h.reg k x with g | g
    · exact Or.inl g
    · exact Or.inr ((reg_setReg_ne s (h.wf k) v e).trans g)

theorem Rg.bumpBy {s : State} {off n : Nat} (hb : W.testBit (regBlock off) = true) (h : Rg W s0 s) : Rg W s0 (s.bumpBy off n) := by
  unfold State.bumpBy
  split
  · exact h
  · exact Rg.setReg hb h

theorem Rg.bump {s : State} {off : Nat} (hb : W.testBit (regBlock off) = true) (h : Rg W s0 s) : Rg W s0 (s.bump off) := Rg.bumpBy hb h

theorem Rg.setField {s : State} {off hi lo v : Nat} (hb : W.testBit (regBlock off) = true) (h : Rg W s0 s) :
    Rg W s0 (s.setField off hi lo v) := Rg.setReg hb h

theorem Rg.setReg64 {s : State} {lo hi v : Nat} (hb : W.testBit (regBlock lo) = true) (hc : W.testBit (regBlock hi) = true)
    (h : Rg W s0 s) : Rg W s0 (s.setReg64 lo hi v) := Rg.setReg hc (Rg.setReg hb h)

theorem Rg.setRegs {s : State} {off : Nat} {vs : List Nat} (hw : V ||| W = W)
    (hb : ((List.range vs.length).all fun k => V.testBit (regBlock (off + 4 * k))) = true) (h : Rg W s0 s) :
    Rg W s0 (s.setRegs off vs) := by
  unfold State.setRegs
  have : ∀ (l : List (Nat × Nat)) (s : State), (∀ p ∈ l, p.2 < vs.length) → Rg W s0 s →
      Rg W s0 (l.foldl (fun s p => s.setReg (off + 4 * p.2) p.1) s) := by
    intro l
    induction l with
    | nil => exact fun _ _ h => h
    | cons p l ih =>
      intro s hl hs
      refine ih _ (fun q hq => hl q (List.mem_cons_of_mem _ hq)) (Rg.setReg ?_ hs)
      exact Fr.bit hw (List.all_eq_true.1 hb _ (List.mem_range.2 (hl p List.mem_cons_self)))
  refine this _ _ (fun p hp => ?_) h
  have := List.mem_zipIdx hp
  omega

theorem Rg.cut {x b : State} (h : Rg W s0 x) (k : Rg W s0 x → Rg W s0 b) : Rg W s0 b := k h

theorem Rg.ite {c : Prop} [Decidable c] {a b : State} (ha : c → Rg W s0 a) (hb : ¬c → Rg W s0 b) :
    Rg W s0 (if c then a else b) := by
  split
  · exact ha ‹_›
  · exact hb ‹_›

theorem Rg.ite₂ {α : Type} {c : Prop} [Decidable c] {a b : State × α} (ha : c → Rg W s0 a.1) (hb : ¬c → Rg W s0 b.1) :
    Rg W s0 (if c then a else b).1 := by
  split
  · exact ha ‹_›
  · exact hb ‹_›

theorem RgO.cut {x : State} {o : Host.Outcome State Fault Refusal} (h : Rg W s0 x) (k : Rg W s0 x → RgO W s0 o) : RgO W s0 o :=
  k h

theorem RgO.ite {c : Prop} [Decidable c] {a b : Host.Outcome State Fault Refusal} (ha : c → RgO W s0 a) (hb : ¬c → RgO W s0 b) :
    RgO W s0 (if c then a else b) := by
  split
  · exact ha ‹_›
  · exact hb ‹_›

theorem Rg.foldl {α : Type} {f : State → α → State} {l : List α} {s : State} (h : Rg W s0 s)
    (hf : ∀ s x, Rg W s0 s → Rg W s0 (f s x)) : Rg W s0 (l.foldl f s) := by
  induction l generalizing s with
  | nil => exact h
  | cons x t ih => exact ih (hf s x h)

theorem Rg.foldl₂ {α β : Type} {f : State × β → α → State × β} {l : List α} {a : State × β} (h : Rg W s0 a.1)
    (hf : ∀ a x, Rg W s0 a.1 → Rg W s0 (f a x).1) : Rg W s0 (l.foldl f a).1 := by
  induction l generalizing a with
  | nil => exact h
  | cons x t ih => exact ih (hf a x h)

theorem Rg.foldl₂_eq {α β : Type} {f : State × β → α → State × β} {l : List α} {a : State × β} {s' : State} {x' : β}
    (h : Rg W s0 a.1) (hf : ∀ a x, Rg W s0 a.1 → Rg W s0 (f a x).1) (e : l.foldl f a = (s', x')) : Rg W s0 s' := by
  have := Rg.foldl₂ (l := l) h hf
  rw [e] at this
  exact this

theorem Rg.of_pair {α : Type} {a s' : State} {b x' : α} (h : Rg W s0 a) (e : (a, b) = (s', x')) : Rg W s0 s' := by
  cases e
  exact h

theorem Rg.of_some {α : Type} {a s' : State} {b x' : α} (h : Rg W s0 a) (e : some (a, b) = some (s', x')) : Rg W s0 s' := by
  cases e
  exact h

theorem Rg.of_eq {α : Type} {p : State × α} (h : ∀ s' x', p = (s', x') → Rg W s0 s') : Rg W s0 p.1 := h p.1 p.2 rfl

theorem Rg.cutF {f : State → State} {b : State} (h : ∀ x, Rg W s0 x → Rg W s0 (f x))
    (k : (∀ x, Rg W s0 x → Rg W s0 (f x)) → Rg W s0 b) : Rg W s0 b := k h

theorem Rg.cutF₂ {α : Type} {f : State → α → State} {b : State} (h : ∀ x y, Rg W s0 x → Rg W s0 (f x y))
    (k : (∀ x y, Rg W s0 x → Rg W s0 (f x y)) → Rg W s0 b) : Rg W s0 b := k h

theorem RgO.next {s : State} (h : Rg W s0 s) : RgO W s0 (.next s) := ⟨fun _ e => by cases e; exact h⟩

theorem RgO.fault {f : Fault} : RgO W s0 (.fault f) := ⟨fun _ e => by cases e⟩

theorem RgO.refused {f : Refusal} : RgO W s0 (.refused f) := ⟨fun _ e => by cases e⟩

/-! The blocks of the register arrays. -/

theorem blk_MEM_CH_CE {p : Nat} : regBlock (Reg.MEM_CH_CE (p % 64)) = 9 := by
  unfold regBlock
  have := Nat.mod_lt p (show 0 < 64 by omega)
  simp only [Reg.MEM_CH_CE]
  omega

theorem blk_MEM_CH_UE {p : Nat} : regBlock (Reg.MEM_CH_UE (p % 64)) = 9 := by
  unfold regBlock
  have := Nat.mod_lt p (show 0 < 64 by omega)
  simp only [Reg.MEM_CH_UE]
  omega

theorem blk_MEM_CH_CAPAR {p : Nat} : regBlock (Reg.MEM_CH_CAPAR (p % 64)) = 9 := by
  unfold regBlock
  have := Nat.mod_lt p (show 0 < 64 by omega)
  simp only [Reg.MEM_CH_CAPAR]
  omega

theorem blk_DMA_ENGe_DONE {p : Nat} : regBlock (Reg.DMA_ENGe_DONE (p % 8)) = 1 := by
  unfold regBlock
  have := Nat.mod_lt p (show 0 < 8 by omega)
  simp only [Reg.DMA_ENGe_DONE]
  omega

theorem blk_DMA_ENGe_BYTES_LO {p : Nat} : regBlock (Reg.DMA_ENGe_BYTES_LO (p % 8)) = 1 := by
  unfold regBlock
  have := Nat.mod_lt p (show 0 < 8 by omega)
  simp only [Reg.DMA_ENGe_BYTES_LO]
  omega

theorem blk_DMA_ENGe_BYTES_HI {p : Nat} : regBlock (Reg.DMA_ENGe_BYTES_HI (p % 8)) = 1 := by
  unfold regBlock
  have := Nat.mod_lt p (show 0 < 8 by omega)
  simp only [Reg.DMA_ENGe_BYTES_HI]
  omega

theorem blk_LNK_LN_INJ {p : Nat} : regBlock (Reg.LNK_LN_INJ (p % 72)) = 8 := by
  unfold regBlock
  have := Nat.mod_lt p (show 0 < 72 by omega)
  simp only [Reg.LNK_LN_INJ]
  omega

theorem blk_LNK_LN_PRBS {p : Nat} : regBlock (Reg.LNK_LN_PRBS (p % 72)) = 8 := by
  unfold regBlock
  have := Nat.mod_lt p (show 0 < 72 by omega)
  simp only [Reg.LNK_LN_PRBS]
  omega

theorem blk_LNK_LN_PRBS_ERR {p : Nat} : regBlock (Reg.LNK_LN_PRBS_ERR (p % 72)) = 8 := by
  unfold regBlock
  have := Nat.mod_lt p (show 0 < 72 by omega)
  simp only [Reg.LNK_LN_PRBS_ERR]
  omega

theorem blk_LNK_LN_NAK {p : Nat} : regBlock (Reg.LNK_LN_NAK (p % 72)) = 8 := by
  unfold regBlock
  have := Nat.mod_lt p (show 0 < 72 by omega)
  simp only [Reg.LNK_LN_NAK]
  omega

theorem blk_BMF_TEMP_0 {p : Nat} : regBlock (Reg.BMF_TEMP_0 (p % 4)) = 6 := by
  unfold regBlock
  have := Nat.mod_lt p (show 0 < 4 by omega)
  simp only [Reg.BMF_TEMP_0]
  omega

theorem blk_PTP_CAPn_DROP {p : Nat} : regBlock (Reg.PTP_CAPn_DROP (p % 2)) = 11 := by
  unfold regBlock
  have := Nat.mod_lt p (show 0 < 2 by omega)
  simp only [Reg.PTP_CAPn_DROP]
  omega

theorem blk_PWR_CB_REFUSE_n {p : Nat} : regBlock (Reg.PWR_CB_REFUSE_n (p % 5)) = 12 := by
  unfold regBlock
  have := Nat.mod_lt p (show 0 < 5 by omega)
  simp only [Reg.PWR_CB_REFUSE_n]
  omega

theorem blk_WVR_RW_DISAGREE {p : Nat} : regBlock (Reg.WVR_RW_DISAGREE (p % 136)) = 3 := by
  unfold regBlock
  have := Nat.mod_lt p (show 0 < 136 by omega)
  simp only [Reg.WVR_RW_DISAGREE]
  omega

theorem blk_WVR_PASSES {p : Nat} : regBlock (Reg.WVR_PASSES (p % 136)) = 3 := by
  unfold regBlock
  have := Nat.mod_lt p (show 0 < 136 by omega)
  simp only [Reg.WVR_PASSES]
  omega

theorem blk_WVR_RW_AGREE {p : Nat} : regBlock (Reg.WVR_RW_AGREE (p % 136)) = 3 := by
  unfold regBlock
  have := Nat.mod_lt p (show 0 < 136 by omega)
  simp only [Reg.WVR_RW_AGREE]
  omega

theorem blk_GLB_UPSETT_MS_1 {p : Nat} : regBlock (Reg.GLB_UPSETT_MS_1 (p % 16)) = 0 := by
  unfold regBlock
  have := Nat.mod_lt p (show 0 < 16 by omega)
  simp only [Reg.GLB_UPSETT_MS_1]
  omega

theorem blk_WVR_WDOG_COUNT {p : Nat} : regBlock (Reg.WVR_WDOG_COUNT (p % 136)) = 3 := by
  unfold regBlock
  have := Nat.mod_lt p (show 0 < 136 by omega)
  simp only [Reg.WVR_WDOG_COUNT]
  omega

theorem blk_THM_AGE_d {p : Nat} : regBlock (Reg.THM_AGE_d (p % 10)) = 12 := by
  unfold regBlock
  have := Nat.mod_lt p (show 0 < 10 by omega)
  simp only [Reg.THM_AGE_d]
  omega

theorem blk_WVR_UE_COUNT {p : Nat} : regBlock (Reg.WVR_UE_COUNT (p % 136)) = 3 := by
  unfold regBlock
  have := Nat.mod_lt p (show 0 < 136 by omega)
  simp only [Reg.WVR_UE_COUNT]
  omega

theorem blk_pendReg {v : Nat} : regBlock (pendReg v) = 15 := by
  unfold pendReg
  split <;> rfl

theorem blk_figCounter {r : Nat} : regBlock (figCounter r) = 2 := by
  unfold figCounter
  split
  · rfl
  · split <;> rfl

theorem bit_ringReg {r o : Nat} (ho : o < 64) (h : 2050 ||| W = W) : W.testBit (regBlock (ringReg r o)) = true := by
  have h1 : W.testBit 1 = true := Fr.bit h rfl
  have h2 : W.testBit 11 = true := Fr.bit h rfl
  unfold ringReg regBlock
  split
  · have : min ((0xB01000 + 0x40 * (r % 2) + o) / 2 ^ 20) 16 = 11 := by omega
    rw [this]
    exact h2
  · have : min ((0x101000 + 0x40 * r + o) / 2 ^ 20) 16 = 1 := by omega
    rw [this]
    exact h1

theorem bit_full {off : Nat} (hw : 131071 ||| W = W) : W.testBit (regBlock off) = true := by
  have hb : regBlock off ≤ 16 := by unfold regBlock; omega
  refine Fr.bit hw ?_
  generalize regBlock off = b at hb
  exact (by decide : ∀ b, b < 17 → (131071 : Nat).testBit b = true) b (by omega)

/-- An operation that may write every register. -/
theorem Rg.full {s : State} (hw : 131071 ||| W = W) (h : s0.regsWf = true → s.regsWf = true) : Rg W s0 s :=
  ⟨h, fun _ _ => Or.inl (bit_full hw)⟩

theorem Rg.fullOf {pending time free readData regs glb hst sets run runEnded fig wvr cor stg bmf trk lnk dram sram net ptp pwr
    clk thm rcr} (hw : 131071 ||| W = W) (h : s0.regsWf = true → smWf Reg.resetWord regs = true) :
    Rg W s0 (State.mk pending time free readData regs glb hst sets run runEnded fig wvr cor stg bmf trk lnk dram sram net ptp pwr
      clk thm rcr) := Rg.full hw h

theorem smGet_filterFrom {α : Type} [DecidableEq α] {d : Nat → α} {m : List (Nat × α)} {f : Nat × α → Bool} {k lo : Nat}
    (hm : smWfFrom d lo m = true) (h : ∀ x, f (k, x) = true) : smGet d (m.filter f) k = smGet d m k := by
  induction m generalizing lo with
  | nil => rfl
  | cons p t ih =>
    obtain ⟨a, w⟩ := p
    obtain ⟨h1, h2, h3⟩ := smWfFrom_cons.1 hm
    by_cases hf : f (a, w) = true
    · rw [List.filter_cons_of_pos hf]
      unfold smGet
      rw [ih h3]
    · rw [List.filter_cons_of_neg hf, ih h3]
      have e : k ≠ a := by
        rintro rfl
        exact hf (h w)
      conv => rhs; unfold smGet
      rw [if_neg e]
      split
      · exact smGet_below h3 (by omega)
      · rfl

/-! The operations that write local memory or host memory. -/

theorem rg_hostWrite {s : State} {addr : Nat} {bs : List Byte} (hs : Rg W s0 s) : Rg W s0 (s.hostWrite addr bs) := hs.same rfl

theorem rg_dram {s : State} {d : Dram} (hs : Rg W s0 s) : Rg W s0 { s with dram := d } := hs.same rfl

theorem rg_markWord {s : State} {n : Nat} (hs : Rg W s0 s) : Rg W s0 (s.markWord n) := rg_dram hs

theorem rg_zeroWord {s : State} {n : Nat} (hs : Rg W s0 s) : Rg W s0 (s.zeroWord n) := rg_dram hs

theorem rg_cleanWord {s : State} {n : Nat} (hs : Rg W s0 s) : Rg W s0 (s.cleanWord n) := rg_dram hs

end Sys2Proof.Laws
end

