-- ==== Sys2Proof/Laws/RegFrameBase.lean ====
section
/-! SUPPORT. The registers that the named operations, registers, local memory, interrupts and the host side leave as they were: one lemma for each operation and each command (see RegFrame). -/

namespace Sys2Proof.Laws

open Sys2Proof.Machine

/-! Ops. -/

theorem rg_modLane {W : Nat} {s0 : State} {s : State} {p : Nat} {f : Lane → Lane} (hs : Rg W s0 s) :
    Rg W s0 (State.modLane s p f) := by
  unfold State.modLane
  repeat' first
    | (extract_lets +onlyGivenNames z; clear_value z; revert z; intro _)
    | (with_reducible refine Rg.of ?_); with_reducible assumption

theorem rg_at_ {W : Nat} {s0 : State} {s : State} {t : Nat} (hs : Rg W s0 s) :
    Rg W s0 (State.at_ s t) := by
  unfold State.at_
  repeat' (with_reducible refine Rg.of ?_); with_reducible assumption

theorem rg_once {W : Nat} {s0 : State} {s : State} {o : Once} {f : State → State} (hs : Rg W s0 s) (hf : ∀ (x0 : State), Rg W s0 x0 → Rg W s0 (f x0)) :
    Rg W s0 (State.once s o f) := by
  unfold State.once
  repeat' first
    | intro _
    | with_reducible assumption
    | with_reducible apply hf
    | with_reducible apply Rg.ite
    | (with_reducible refine Rg.of ?_); with_reducible assumption
    | split

theorem rg_next {W : Nat} {s0 : State} {s : State} (hs : Rg W s0 s) :
    Rg W s0 (State.next s) := by
  unfold State.next
  repeat' (with_reducible refine Rg.of ?_); with_reducible assumption

theorem rg_modChan {W : Nat} {s0 : State} {s : State} {p : Nat} {f : Chan → Chan} (hs : Rg W s0 s) :
    Rg W s0 (State.modChan s p f) := by
  unfold State.modChan
  repeat' first
    | (extract_lets +onlyGivenNames z; guard_hyp z : Dram := _; revert z; intro _)
    | (with_reducible refine Rg.of ?_); with_reducible assumption

theorem rg_setRing {W : Nat} {s0 : State} {s : State} {r : Nat} {x2 : Ring} (hs : Rg W s0 s) :
    Rg W s0 (State.setRing s r x2) := by
  unfold State.setRing
  repeat' first
    | (extract_lets +onlyGivenNames z; guard_hyp z : Hst := _; revert z; intro _)
    | (with_reducible refine Rg.of ?_); with_reducible assumption

theorem rg_modRun {W : Nat} {s0 : State} {s : State} {f : Run → Run} (hs : Rg W s0 s) :
    Rg W s0 (State.modRun s f) := by
  unfold State.modRun
  repeat' (with_reducible refine Rg.of ?_); with_reducible assumption

/-! ReadPath. -/

theorem rg_modWork {W : Nat} {s0 : State} {s : State} {id : Nat} {f : Work → Work} (hs : Rg W s0 s) :
    Rg W s0 (State.modWork s id f) := by
  unfold State.modWork
  repeat' first
    | (extract_lets +onlyGivenNames z; clear_value z; revert z; intro _)
    | (with_reducible refine Rg.of ?_); with_reducible assumption

/-! Irq. -/

theorem rg_owe {W : Nat} {s0 : State} {s : State} {v : Nat} (hs : Rg W s0 s) :
    Rg W s0 (State.owe s v) := by
  unfold State.owe
  repeat' first
    | (extract_lets +onlyGivenNames z; guard_hyp z : Hst := _; revert z; intro _)
    | (with_reducible refine Rg.of ?_); with_reducible assumption

theorem rg_unowe {W : Nat} {s0 : State} {s : State} {v : Nat} (hs : Rg W s0 s) :
    Rg W s0 (State.unowe s v) := by
  unfold State.unowe
  repeat' first
    | (extract_lets +onlyGivenNames z; guard_hyp z : Hst := _; revert z; intro _)
    | (with_reducible refine Rg.of ?_); with_reducible assumption

theorem rg_shadowPut {W : Nat} {s0 : State} {s : State} {e : ShadowEntry} (hw : 8192 ||| W = W) (hs : Rg W s0 s) :
    Rg W s0 (State.shadowPut s e) := by
  unfold State.shadowPut
  repeat' first
    | intro _
    | (extract_lets +onlyGivenNames z; clear_value z; revert z; intro _)
    | with_reducible refine Rg.bump (Fr.bit hw rfl) ?_
    | with_reducible apply Rg.ite
    | (with_reducible refine Rg.of ?_); with_reducible assumption
    | split

theorem rg_trigger {W : Nat} {s0 : State} {s : State} {code : Nat} {detail : Nat} (hw : 8192 ||| W = W) (hs : Rg W s0 s) :
    Rg W s0 (State.trigger s code detail) := by
  unfold State.trigger
  repeat' first
    | intro _
    | with_reducible assumption
    | (extract_lets +onlyGivenNames z; guard_hyp z : State := _; refine Rg.cut (x := z) ?_ (fun _ => ?_); rotate_left; clear_value z; revert z; intro _ _; rotate_left; unfold z; clear z)
    | (extract_lets +onlyGivenNames z; clear_value z; revert z; intro _)
    | with_reducible refine rg_shadowPut hw ?_
    | with_reducible refine Rg.bump (Fr.bit hw rfl) ?_
    | with_reducible apply Rg.ite
    | (with_reducible refine Rg.of ?_); with_reducible assumption

theorem rg_withyChange {W : Nat} {s0 : State} {s : State} {kind : Nat} {action : Nat} {subject : Nat} {value : Nat} (hw : 8192 ||| W = W) (hs : Rg W s0 s) :
    Rg W s0 (State.withyChange s kind action subject value) := by
  unfold State.withyChange
  repeat' first
    | intro _
    | with_reducible assumption
    | (extract_lets +onlyGivenNames z; guard_hyp z : State := _; refine Rg.cut (x := z) ?_ (fun _ => ?_); rotate_left; clear_value z; revert z; intro _ _; rotate_left; unfold z; clear z)
    | (extract_lets +onlyGivenNames z; clear_value z; revert z; intro _)
    | with_reducible refine rg_trigger hw ?_
    | with_reducible apply Rg.ite
    | (with_reducible refine Rg.of ?_); with_reducible assumption

theorem rg_raiseN {W : Nat} {s0 : State} {s : State} {v : Nat} (hw : 40960 ||| W = W) (hs : Rg W s0 s) :
    Rg W s0 (State.raiseN s v) := by
  unfold State.raiseN
  repeat' first
    | intro _
    | with_reducible assumption
    | (extract_lets +onlyGivenNames z; guard_hyp z : State := _; refine Rg.cut (x := z) ?_ (fun _ => ?_); rotate_left; clear_value z; revert z; intro _ _; rotate_left; unfold z; clear z)
    | with_reducible refine Rg.bump (Fr.bit hw rfl) ?_
    | with_reducible refine Rg.setField (Fr.bit hw (by rw [blk_pendReg]; decide)) ?_
    | with_reducible refine rg_owe ?_
    | with_reducible refine rg_trigger (Fr.sub (V := 40960) rfl hw) ?_
    | with_reducible apply Rg.ite

theorem rg_raise {W : Nat} {s0 : State} {s : State} {x1 : Src} (hw : 40960 ||| W = W) (hs : Rg W s0 s) :
    Rg W s0 (State.raise s x1) := by
  unfold State.raise
  repeat' first
    | with_reducible assumption
    | with_reducible refine rg_raiseN hw ?_

theorem rg_settle {W : Nat} {s0 : State} {s'0 : State} {s : State} (hw : 40960 ||| W = W) (hs'0 : Rg W s0 s'0) (hs : Rg W s0 s) :
    Rg W s0 (State.settle s'0 s) := by
  unfold State.settle
  repeat' first
    | intro _
    | with_reducible assumption
    | with_reducible refine rg_raiseN hw ?_
    | with_reducible apply Rg.ite
    | with_reducible apply Rg.foldl

theorem rg_finish {W : Nat} {s0 : State} {s : State} {s'1 : State} (hw : 40960 ||| W = W) (hs : Rg W s0 s) (hs'1 : Rg W s0 s'1) :
    RgO W s0 (finish s s'1) := by
  unfold finish
  repeat' first
    | with_reducible assumption
    | with_reducible refine rg_settle hw ?_ ?_
    | with_reducible apply RgO.next

/-! Access. -/

theorem rg_violation {W : Nat} {s0 : State} {s : State} {kind : Nat} {off : Nat} {write : Bool} {bar2 : optParam Bool Bool.false} (hw : 4096 ||| W = W) (hs : Rg W s0 s) :
    Rg W s0 (State.violation s kind off write bar2) := by
  unfold State.violation
  repeat' first
    | with_reducible assumption
    | with_reducible refine Rg.setReg (Fr.bit hw rfl) ?_
    | with_reducible refine Rg.bump (Fr.bit hw rfl) ?_

theorem rg_offAccess {W : Nat} {s0 : State} {s : State} {off : Nat} {write : Bool} (hw : 4096 ||| W = W) (hs : Rg W s0 s) :
    Rg W s0 (State.offAccess s off write) := by
  unfold State.offAccess
  repeat' first
    | with_reducible assumption
    | with_reducible refine Rg.setReg (Fr.bit hw rfl) ?_
    | with_reducible refine Rg.bump (Fr.bit hw rfl) ?_

theorem rg_onlyIn {W : Nat} {s0 : State} {s : State} {modes : List Mode} {off : Nat} {f : State → State} (hw : 4096 ||| W = W) (hs : Rg W s0 s) (hf : ∀ (x0 : State), Rg W s0 x0 → Rg W s0 (f x0)) :
    Rg W s0 (State.onlyIn s modes off f) := by
  unfold State.onlyIn
  repeat' first
    | intro _
    | with_reducible assumption
    | with_reducible apply hf
    | with_reducible refine rg_violation hw ?_
    | with_reducible apply Rg.ite

theorem rg_guardWrite {W : Nat} {s0 : State} {s : State} {off : Nat} {be : Nat} {v : Nat} {f : State → Nat → State} (hw : 4096 ||| W = W) (hs : Rg W s0 s) (hf : ∀ (x0 : State) (x1 : Nat), Rg W s0 x0 → Rg W s0 (f x0 x1)) :
    Rg W s0 (State.guardWrite s off be v f) := by
  unfold State.guardWrite
  repeat' first
    | intro _
    | with_reducible assumption
    | with_reducible apply hf
    | with_reducible refine rg_offAccess hw ?_
    | with_reducible refine rg_violation hw ?_
    | with_reducible apply Rg.ite
    | split

theorem rg_command {W : Nat} {s0 : State} {s : State} {off : Nat} {v : Nat} {f : State → State} (hw : 4096 ||| W = W) (hs : Rg W s0 s) (hf : ∀ (x0 : State), Rg W s0 x0 → Rg W s0 (f x0)) :
    Rg W s0 (State.command s off v f) := by
  unfold State.command
  repeat' first
    | intro _
    | with_reducible assumption
    | with_reducible apply hf
    | with_reducible refine rg_guardWrite hw ?_ ?_

/-! Mem. -/

theorem rg_histBump {W : Nat} {s0 : State} {s : State} {bin : Nat} {n : Nat} (hs : Rg W s0 s) :
    Rg W s0 (State.histBump s bin n) := by
  unfold State.histBump
  repeat' first
    | (extract_lets +onlyGivenNames z; clear_value z; revert z; intro _)
    | (with_reducible refine Rg.of ?_); with_reducible assumption

theorem rg_putWord {W : Nat} {s0 : State} {s : State} {n : Nat} {data : Nat} {mark : Bool} (hw : 1024 ||| W = W) (hs : Rg W s0 s) :
    Rg W s0 (State.putWord s n data mark) := by
  unfold State.putWord
  repeat' first
    | intro _
    | with_reducible assumption
    | (extract_lets +onlyGivenNames z; guard_hyp z : State := _; refine Rg.cut (x := z) ?_ (fun _ => ?_); rotate_left; clear_value z; revert z; intro _ _; rotate_left; unfold z; clear z)
    | (extract_lets +onlyGivenNames z; guard_hyp z : Dram := _; revert z; intro _)
    | (extract_lets +onlyGivenNames z; clear_value z; revert z; intro _)
    | with_reducible refine Rg.setField (Fr.bit hw rfl) ?_
    | with_reducible apply Rg.ite
    | (with_reducible refine Rg.of ?_); with_reducible assumption

theorem rg_eccLog {W : Nat} {s0 : State} {s : State} {event : Nat} {region : Nat} {cls : Nat} {chan : Nat} {detail : Nat} {addr : Nat} (hw : 1024 ||| W = W) (hs : Rg W s0 s) :
    Rg W s0 (State.eccLog s event region cls chan detail addr) := by
  unfold State.eccLog
  repeat' first
    | intro _
    | with_reducible assumption
    | (extract_lets +onlyGivenNames z; guard_hyp z : Dram := _; revert z; intro _)
    | (extract_lets +onlyGivenNames z; clear_value z; revert z; intro _)
    | with_reducible refine Rg.bump (Fr.bit hw rfl) ?_
    | with_reducible apply Rg.ite
    | (with_reducible refine Rg.of ?_); with_reducible assumption

theorem rg_watchAdd {W : Nat} {s0 : State} {s : State} {n : Nat} (hw : 1024 ||| W = W) (hs : Rg W s0 s) :
    Rg W s0 (State.watchAdd s n) := by
  unfold State.watchAdd
  repeat' first
    | intro _
    | with_reducible assumption
    | (extract_lets +onlyGivenNames z; guard_hyp z : State := _; refine Rg.cut (x := z) ?_ (fun _ => ?_); rotate_left; clear_value z; revert z; intro _ _; rotate_left; unfold z; clear z)
    | (extract_lets +onlyGivenNames z; guard_hyp z : Dram := _; revert z; intro _)
    | (extract_lets +onlyGivenNames z; clear_value z; revert z; intro _)
    | with_reducible refine Rg.bump (Fr.bit hw rfl) ?_
    | with_reducible apply Rg.ite
    | (with_reducible refine Rg.of ?_); with_reducible assumption

theorem rg_mergeBytes {W : Nat} {s0 : State} {s : State} {n : Nat} {i : Nat} {bs : List Sys2Proof.Byte} (hw : 1024 ||| W = W) (hs : Rg W s0 s) :
    Rg W s0 (State.mergeBytes s n i bs) := by
  unfold State.mergeBytes
  repeat' first
    | intro _
    | with_reducible assumption
    | (extract_lets +onlyGivenNames z; guard_hyp z : State := _; refine Rg.cut (x := z) ?_ (fun _ => ?_); rotate_left; clear_value z; revert z; intro _ _; rotate_left; unfold z; clear z)
    | (extract_lets +onlyGivenNames z; clear_value z; revert z; intro _)
    | with_reducible refine rg_putWord hw ?_
    | with_reducible refine Rg.bump (Fr.bit hw rfl) ?_
    | with_reducible apply Rg.ite

theorem rg_writeBack {W : Nat} {s0 : State} {s : State} {n : Nat} (hw : 1024 ||| W = W) (hs : Rg W s0 s) :
    Rg W s0 (State.writeBack s n) := by
  unfold State.writeBack
  repeat' first
    | with_reducible assumption
    | with_reducible refine rg_watchAdd hw ?_
    | with_reducible refine Rg.bump (Fr.bit hw rfl) ?_
    | with_reducible refine rg_cleanWord ?_

theorem rg_writeWords {W : Nat} {s0 : State} {a : Nat} {a1 : State} {a2 : Nat} {a3 : List Sys2Proof.Byte} (hw : 1024 ||| W = W) (ha1 : Rg W s0 a1) :
    Rg W s0 (State.writeWords a a1 a2 a3) := by
  induction a generalizing a1 a2 a3 with
  | zero =>
    unfold State.writeWords
    repeat' (with_reducible assumption)
  | succ n ih =>
    unfold State.writeWords
    repeat' first
      | intro _
      | with_reducible assumption
      | (extract_lets +onlyGivenNames z; clear_value z; revert z; intro _)
      | with_reducible apply ih
      | with_reducible refine rg_mergeBytes hw ?_
      | with_reducible apply Rg.ite

theorem rg_memWrite {W : Nat} {s0 : State} {s : State} {a : Nat} {bs : List Sys2Proof.Byte} (hw : 1536 ||| W = W) (hs : Rg W s0 s) :
    Rg W s0 (State.memWrite s a bs) := by
  unfold State.memWrite
  repeat' first
    | intro _
    | with_reducible assumption
    | (extract_lets +onlyGivenNames z; guard_hyp z : State := _; refine Rg.cut (x := z) ?_ (fun _ => ?_); rotate_left; clear_value z; revert z; intro _ _; rotate_left; unfold z; clear z)
    | with_reducible refine Rg.bump (Fr.bit hw rfl) ?_
    | with_reducible refine rg_writeWords (Fr.sub (V := 1536) rfl hw) ?_
    | with_reducible apply Rg.ite
    | (with_reducible refine Rg.of ?_); with_reducible assumption

theorem rg_takeReplacement {W : Nat} {s0 : State} {s : State} {page : Nat} {idx : Nat} (hw : 9216 ||| W = W) (hs : Rg W s0 s) :
    Rg W s0 (State.takeReplacement s page idx) := by
  unfold State.takeReplacement
  repeat' first
    | intro _
    | with_reducible assumption
    | (extract_lets +onlyGivenNames z; guard_hyp z : State := _; refine Rg.cut (x := z) ?_ (fun _ => ?_); rotate_left; clear_value z; revert z; intro _ _; rotate_left; unfold z; clear z)
    | (extract_lets +onlyGivenNames z; clear_value z; revert z; intro _)
    | with_reducible refine rg_markWord ?_
    | with_reducible refine rg_cleanWord ?_
    | with_reducible refine rg_withyChange (Fr.sub (V := 9216) rfl hw) ?_
    | with_reducible refine rg_eccLog (Fr.sub (V := 9216) rfl hw) ?_
    | with_reducible apply Rg.ite
    | with_reducible apply Rg.foldl
    | split

theorem rg_memWrite64 {W : Nat} {s0 : State} {s : State} {a : Nat} {v : Nat} (hw : 1536 ||| W = W) (hs : Rg W s0 s) :
    Rg W s0 (State.memWrite64 s a v) := by
  unfold State.memWrite64
  repeat' first
    | with_reducible assumption
    | with_reducible refine rg_memWrite hw ?_

theorem rg_histAdd {W : Nat} {s0 : State} {s : State} {n : Nat} (hw : 1536 ||| W = W) (hs : Rg W s0 s) :
    Rg W s0 (State.histAdd s n) := by
  unfold State.histAdd
  repeat' first
    | with_reducible assumption
    | (extract_lets +onlyGivenNames z; clear_value z; revert z; intro _)
    | with_reducible refine rg_memWrite hw ?_

theorem rg_replaceAgain {W : Nat} {s0 : State} {s : State} {n : Nat} (hw : 9216 ||| W = W) (hs : Rg W s0 s) :
    Rg W s0 (State.replaceAgain s n) := by
  unfold State.replaceAgain
  repeat' first
    | with_reducible assumption
    | (extract_lets +onlyGivenNames z; clear_value z; revert z; intro _)
    | with_reducible refine rg_takeReplacement hw ?_
    | with_reducible refine rg_withyChange (Fr.sub (V := 9216) rfl hw) ?_
    | split

theorem rg_ceFound {W : Nat} {s0 : State} {s : State} {n : Nat} {synd : Nat} {cls : Nat} (hw : 42496 ||| W = W) (hs : Rg W s0 s) :
    Rg W s0 (State.ceFound s n synd cls) := by
  unfold State.ceFound
  repeat' first
    | intro _
    | with_reducible assumption
    | (extract_lets +onlyGivenNames z; guard_hyp z : State := _; refine Rg.cut (x := z) ?_ (fun _ => ?_); rotate_left; clear_value z; revert z; intro _ _; rotate_left; unfold z; clear z)
    | (extract_lets +onlyGivenNames z; clear_value z; revert z; intro _)
    | with_reducible refine Rg.bump (Fr.bit hw rfl) ?_
    | with_reducible refine Rg.bump (Fr.bit hw (by rw [blk_MEM_CH_CE]; decide)) ?_
    | with_reducible refine rg_histBump ?_
    | with_reducible refine rg_eccLog (Fr.sub (V := 42496) rfl hw) ?_
    | with_reducible refine rg_histAdd (Fr.sub (V := 42496) rfl hw) ?_
    | with_reducible refine rg_replaceAgain (Fr.sub (V := 42496) rfl hw) ?_
    | with_reducible refine rg_writeBack (Fr.sub (V := 42496) rfl hw) ?_
    | with_reducible refine rg_raise (Fr.sub (V := 42496) rfl hw) ?_
    | with_reducible apply Rg.ite

theorem rg_ueFound {W : Nat} {s0 : State} {s : State} {n : Nat} (hw : 9728 ||| W = W) (hs : Rg W s0 s) :
    Rg W s0 (State.ueFound s n) := by
  unfold State.ueFound
  repeat' first
    | with_reducible assumption
    | (extract_lets +onlyGivenNames z; guard_hyp z : State := _; refine Rg.cut (x := z) ?_ (fun _ => ?_); rotate_left; clear_value z; revert z; intro _ _; rotate_left; unfold z; clear z)
    | (extract_lets +onlyGivenNames z; clear_value z; revert z; intro _)
    | with_reducible refine Rg.bump (Fr.bit hw rfl) ?_
    | with_reducible refine Rg.bump (Fr.bit hw (by rw [blk_MEM_CH_UE]; decide)) ?_
    | with_reducible refine rg_markWord ?_
    | with_reducible refine rg_modChan ?_
    | with_reducible refine rg_replaceAgain (Fr.sub (V := 9728) rfl hw) ?_

theorem rg_touch {W : Nat} {s0 : State} {s : State} {cls : Sys2Proof.DramClass} {a : Nat} {n : Nat} (hw : 42496 ||| W = W) (hs : Rg W s0 s) :
    Rg W s0 (State.touch s cls a n) := by
  unfold State.touch
  repeat' first
    | intro _
    | with_reducible assumption
    | (extract_lets +onlyGivenNames z; guard_hyp z : State := _; refine Rg.cut (x := z) ?_ (fun _ => ?_); rotate_left; clear_value z; revert z; intro _ _; rotate_left; unfold z; clear z)
    | (extract_lets +onlyGivenNames z; guard_hyp z : Dram := _; revert z; intro _)
    | (extract_lets +onlyGivenNames z; clear_value z; revert z; intro _)
    | with_reducible refine Rg.bump (Fr.bit hw rfl) ?_
    | with_reducible refine rg_raise (Fr.sub (V := 42496) rfl hw) ?_
    | with_reducible refine rg_eccLog (Fr.sub (V := 42496) rfl hw) ?_
    | with_reducible refine rg_ueFound (Fr.sub (V := 42496) rfl hw) ?_
    | with_reducible refine rg_ceFound hw ?_
    | with_reducible apply Rg.ite
    | with_reducible apply Rg.foldl
    | (with_reducible refine Rg.of ?_); with_reducible assumption
    | split

/-! HostOps. -/

theorem rg_dropWait {W : Nat} {s0 : State} {s : State} {r : Nat} (hs : Rg W s0 s) :
    Rg W s0 (State.dropWait s r) := by
  unfold State.dropWait
  repeat' first
    | (extract_lets +onlyGivenNames z; guard_hyp z : Hst := _; revert z; intro _)
    | (with_reducible refine Rg.of ?_); with_reducible assumption

theorem rg_countBarriers {W : Nat} {s0 : State} {s : State} {r : Nat} (hs : Rg W s0 s) :
    Rg W s0 (State.countBarriers s r) := by
  unfold State.countBarriers
  repeat' first
    | (extract_lets +onlyGivenNames z; guard_hyp z : Hst := _; revert z; intro _)
    | (with_reducible refine Rg.of ?_); with_reducible assumption

theorem rg_tellBound {W : Nat} {s0 : State} {s : State} {serial : Nat} (hs : Rg W s0 s) :
    Rg W s0 (State.tellBound s serial) := by
  unfold State.tellBound
  repeat' first
    | (extract_lets +onlyGivenNames z; guard_hyp z : Hst := _; revert z; intro _)
    | (with_reducible refine Rg.of ?_); with_reducible assumption

theorem rg_doReset {W : Nat} {s0 : State} {s : State} {r : Nat} (hs : Rg W s0 s) :
    Rg W s0 (State.doReset s r) := by
  unfold State.doReset
  repeat' first
    | with_reducible assumption
    | (extract_lets +onlyGivenNames z; clear_value z; revert z; intro _)
    | with_reducible refine rg_setRing ?_

theorem rg_setWait {W : Nat} {s0 : State} {s : State} {r : Nat} {w : WaitFor} (hs : Rg W s0 s) :
    Rg W s0 (State.setWait s r w) := by
  unfold State.setWait
  repeat' first
    | with_reducible assumption
    | (extract_lets +onlyGivenNames z; guard_hyp z : State := _; refine Rg.cut (x := z) ?_ (fun _ => ?_); rotate_left; clear_value z; revert z; intro _ _; rotate_left; unfold z; clear z)
    | (extract_lets +onlyGivenNames z; guard_hyp z : Hst := _; revert z; intro _)
    | with_reducible refine rg_dropWait ?_
    | (with_reducible refine Rg.of ?_); with_reducible assumption

theorem rg_advanceHead {W : Nat} {s0 : State} {s : State} {r : Nat} (hw : 2050 ||| W = W) (hs : Rg W s0 s) :
    Rg W s0 (State.advanceHead s r) := by
  unfold State.advanceHead
  repeat' first
    | intro _
    | with_reducible assumption
    | (extract_lets +onlyGivenNames z; guard_hyp z : State := _; refine Rg.cut (x := z) ?_ (fun _ => ?_); rotate_left; clear_value z; revert z; intro _ _; rotate_left; unfold z; clear z)
    | (extract_lets +onlyGivenNames z; clear_value z; revert z; intro _)
    | with_reducible refine rg_setRing ?_
    | with_reducible refine Rg.bump (bit_ringReg (by decide) (Fr.sub rfl hw)) ?_
    | with_reducible refine rg_doReset ?_
    | with_reducible apply Rg.ite

theorem rg_haltRing {W : Nat} {s0 : State} {s : State} {r : Nat} {reason : Nat} (hw : 40960 ||| W = W) (hs : Rg W s0 s) :
    Rg W s0 (State.haltRing s r reason) := by
  unfold State.haltRing
  repeat' first
    | with_reducible assumption
    | (extract_lets +onlyGivenNames z; clear_value z; revert z; intro _)
    | with_reducible refine rg_raise hw ?_
    | with_reducible refine rg_setRing ?_

theorem rg_writeCompletion {W : Nat} {s0 : State} {s : State} {r : Nat} {status : Nat} {detail : Nat} {result : Nat} (hw : 43010 ||| W = W) (hs : Rg W s0 s) :
    Rg W s0 (State.writeCompletion s r status detail result) := by
  unfold State.writeCompletion
  repeat' first
    | intro _
    | with_reducible assumption
    | (extract_lets +onlyGivenNames z; guard_hyp z : State := _; refine Rg.cut (x := z) ?_ (fun _ => ?_); rotate_left; clear_value z; revert z; intro _ _; rotate_left; unfold z; clear z)
    | with_reducible refine rg_hostWrite ?_
    | with_reducible refine Rg.setReg (Fr.bit hw rfl) ?_
    | with_reducible refine Rg.bump (Fr.bit hw rfl) ?_
    | with_reducible refine Rg.bump (Fr.bit hw (by rw [blk_DMA_ENGe_DONE]; decide)) ?_
    | with_reducible refine rg_advanceHead (Fr.sub (V := 43010) rfl hw) ?_
    | with_reducible refine rg_raise (Fr.sub (V := 43010) rfl hw) ?_
    | with_reducible refine rg_haltRing (Fr.sub (V := 43010) rfl hw) ?_
    | with_reducible apply Rg.ite
    | split

theorem rg_completeRing {W : Nat} {s0 : State} {s : State} {r : Nat} {status : Nat} {detail : Nat} {result : Nat} (hw : 43010 ||| W = W) (hs : Rg W s0 s) :
    Rg W s0 (State.completeRing s r status detail result) := by
  unfold State.completeRing
  repeat' first
    | intro _
    | with_reducible assumption
    | (extract_lets +onlyGivenNames z; clear_value z; revert z; intro _)
    | with_reducible refine rg_writeCompletion hw ?_
    | with_reducible refine rg_setRing ?_
    | with_reducible apply Rg.ite
    | split

theorem rg_rejectMalformed {W : Nat} {s0 : State} {s : State} {r : Nat} (hw : 43010 ||| W = W) (hs : Rg W s0 s) :
    Rg W s0 (State.rejectMalformed s r) := by
  unfold State.rejectMalformed
  repeat' first
    | intro _
    | with_reducible assumption
    | with_reducible refine rg_completeRing hw ?_
    | with_reducible apply Rg.ite
    | split

theorem rg_completeCmd {W : Nat} {s0 : State} {s : State} {r : Nat} {status : Nat} {detail : Nat} {result : Nat} (hw : 43010 ||| W = W) (hs : Rg W s0 s) :
    Rg W s0 (State.completeCmd s r status detail result) := by
  unfold State.completeCmd
  repeat' first
    | intro _
    | with_reducible assumption
    | (extract_lets +onlyGivenNames z; guard_hyp z : State := _; refine Rg.cut (x := z) ?_ (fun _ => ?_); rotate_left; clear_value z; revert z; intro _ _; rotate_left; unfold z; clear z)
    | (extract_lets +onlyGivenNames z; clear_value z; revert z; intro _)
    | with_reducible refine rg_completeRing hw ?_
    | with_reducible refine rg_rejectMalformed hw ?_
    | with_reducible apply Rg.ite

theorem rg_settleBarriers {W : Nat} {s0 : State} {s : State} (hw : 43010 ||| W = W) (hs : Rg W s0 s) :
    Rg W s0 (State.settleBarriers s) := by
  unfold State.settleBarriers
  repeat' first
    | intro _
    | with_reducible assumption
    | with_reducible refine rg_completeCmd hw ?_
    | with_reducible refine rg_dropWait ?_
    | with_reducible apply Rg.ite
    | with_reducible apply Rg.foldl
    | split

theorem rg_tellRunEnd {W : Nat} {s0 : State} {s : State} {serial : Nat} {ending : Nat} {slot : Nat} (hw : 43010 ||| W = W) (hs : Rg W s0 s) :
    Rg W s0 (State.tellRunEnd s serial ending slot) := by
  unfold State.tellRunEnd
  repeat' first
    | intro _
    | with_reducible assumption
    | with_reducible refine rg_completeCmd hw ?_
    | with_reducible refine rg_dropWait ?_
    | with_reducible apply Rg.ite
    | with_reducible apply Rg.foldl
    | split

theorem rg_answer {W : Nat} {s0 : State} {s : State} {r : Nat} {status : Nat} {detail : Nat} {result : Nat} (hw : 43010 ||| W = W) (hs : Rg W s0 s) :
    Rg W s0 (State.answer s r status detail result) := by
  unfold State.answer
  repeat' first
    | intro _
    | with_reducible assumption
    | (extract_lets +onlyGivenNames z; guard_hyp z : State := _; refine Rg.cut (x := z) ?_ (fun _ => ?_); rotate_left; clear_value z; revert z; intro _ _; rotate_left; unfold z; clear z)
    | (extract_lets +onlyGivenNames z; clear_value z; revert z; intro _)
    | with_reducible refine rg_completeCmd hw ?_
    | with_reducible refine rg_completeRing hw ?_
    | with_reducible refine rg_settleBarriers hw ?_
    | with_reducible refine rg_countBarriers ?_
    | with_reducible apply Rg.ite

theorem rg_refuse {W : Nat} {s0 : State} {s : State} {r : Nat} {status : Nat} {detail : Nat} (hw : 43010 ||| W = W) (hs : Rg W s0 s) :
    Rg W s0 (State.refuse s r status detail) := by
  unfold State.refuse
  repeat' first
    | with_reducible assumption
    | with_reducible refine rg_answer hw ?_

theorem rg_checked {W : Nat} {s0 : State} {s : State} {r : Nat} {e : CurEntry} {format : Option Nat} {legal : List Mode} {exclusive : Bool} {f : State → State} {bound : optParam (List Mode) []} {also : optParam (Option (Nat × Nat)) Option.none} (hw : 43010 ||| W = W) (hs : Rg W s0 s) (hf : ∀ (x0 : State), Rg W s0 x0 → Rg W s0 (f x0)) :
    Rg W s0 (State.checked s r e format legal exclusive f bound also) := by
  unfold State.checked
  repeat' first
    | intro _
    | with_reducible assumption
    | with_reducible apply hf
    | with_reducible refine rg_refuse hw ?_
    | with_reducible apply Rg.ite
    | split

end Sys2Proof.Laws
end

