-- ==== Sys2Proof/Laws/RegFramePath.lean ====
section
/-! SUPPORT. The registers that the decoder, the weavers, the correction and the staging leave as they were: one lemma for each operation and each command (see RegFrame). -/

namespace Sys2Proof.Laws

open Sys2Proof.Machine

/-! Figure. -/

theorem rg_freeRing {W : Nat} {s0 : State} {s : State} (hs : Rg W s0 s) :
    Rg W s0 (State.freeRing s) := by
  unfold State.freeRing
  repeat' first
    | (extract_lets +onlyGivenNames z; clear_value z; revert z; intro _)
    | (with_reducible refine Rg.of ?_); with_reducible assumption

theorem rg_setTile {W : Nat} {s0 : State} {s : State} {id : TileId} {t : Tile} (hs : Rg W s0 s) :
    Rg W s0 (State.setTile s id t) := by
  unfold State.setTile
  repeat' first
    | (extract_lets +onlyGivenNames z; clear_value z; revert z; intro _)
    | (with_reducible refine Rg.of ?_); with_reducible assumption

theorem rg_rowDone {W : Nat} {s0 : State} {s : State} {c : RowCtx} (hs : Rg W s0 s) :
    Rg W s0 (State.rowDone s c) := by
  unfold State.rowDone
  repeat' first
    | (extract_lets +onlyGivenNames z; clear_value z; revert z; intro _)
    | (with_reducible refine Rg.of ?_); with_reducible assumption

theorem rg_stallAt {W : Nat} {s0 : State} {s : State} {id : TileId} (hw : 4 ||| W = W) (hs : Rg W s0 s) :
    Rg W s0 (State.stallAt s id) := by
  unfold State.stallAt
  repeat' first
    | intro _
    | with_reducible assumption
    | (extract_lets +onlyGivenNames z; guard_hyp z : State := _; refine Rg.cut (x := z) ?_ (fun _ => ?_); rotate_left; clear_value z; revert z; intro _ _; rotate_left; unfold z; clear z)
    | (extract_lets +onlyGivenNames z; clear_value z; revert z; intro _)
    | with_reducible refine Rg.setReg (Fr.bit hw rfl) ?_
    | with_reducible apply Rg.ite
    | (with_reducible refine Rg.of ?_); with_reducible assumption

theorem rg_figStale {W : Nat} {s0 : State} {s : State} (hw : 4 ||| W = W) (hs : Rg W s0 s) :
    Rg W s0 (State.figStale s) := by
  unfold State.figStale
  repeat' first
    | with_reducible assumption
    | with_reducible refine Rg.bump (Fr.bit hw rfl) ?_

theorem rg_figLog {W : Nat} {s0 : State} {s : State} {e : LogWords} (hw : 4 ||| W = W) (hs : Rg W s0 s) :
    Rg W s0 (State.figLog s e) := by
  unfold State.figLog
  repeat' first
    | intro _
    | with_reducible assumption
    | (extract_lets +onlyGivenNames z; clear_value z; revert z; intro _)
    | with_reducible refine Rg.bump (Fr.bit hw rfl) ?_
    | with_reducible apply Rg.ite
    | (with_reducible refine Rg.of ?_); with_reducible assumption

theorem rg_takeStripe {W : Nat} {s0 : State} {s : State} {h : KfsHeader} {b : List Sys2Proof.Byte} (hw : 4 ||| W = W) (hs : Rg W s0 s) :
    Rg W s0 (State.takeStripe s h b) := by
  unfold State.takeStripe
  repeat' first
    | intro _
    | (extract_lets +onlyGivenNames z; clear_value z; revert z; intro _)
    | with_reducible refine rg_figStale hw ?_
    | with_reducible apply Rg.ite
    | (with_reducible refine Rg.of ?_); with_reducible assumption

theorem rg_takeRow {W : Nat} {s0 : State} {s : State} {h : KfsHeader} {off : Nat} {b : List Sys2Proof.Byte} (hw : 4 ||| W = W) (hs : Rg W s0 s) :
    Rg W s0 (State.takeRow s h off b) := by
  unfold State.takeRow
  repeat' first
    | intro _
    | with_reducible assumption
    | (extract_lets +onlyGivenNames z; guard_hyp z : State := _; refine Rg.cut (x := z) ?_ (fun _ => ?_); rotate_left; clear_value z; revert z; intro _ _; rotate_left; unfold z; clear z)
    | (extract_lets +onlyGivenNames z; clear_value z; revert z; intro _)
    | with_reducible refine rg_figStale hw ?_
    | with_reducible refine rg_setTile ?_
    | with_reducible refine rg_rowDone ?_
    | with_reducible apply Rg.ite
    | with_reducible apply Rg.foldl
    | (with_reducible refine Rg.of ?_); with_reducible assumption

theorem rg_takeStruct {W : Nat} {s0 : State} {s : State} {h : KfsHeader} {off : Nat} {b : List Sys2Proof.Byte} (hw : 4 ||| W = W) (hs : Rg W s0 s) :
    Rg W s0 (State.takeStruct s h off b) := by
  unfold State.takeStruct
  repeat' first
    | with_reducible assumption
    | (extract_lets +onlyGivenNames z; guard_hyp z : State := _; refine Rg.cut (x := z) ?_ (fun _ => ?_); rotate_left; clear_value z; revert z; intro _ _; rotate_left; unfold z; clear z)
    | (extract_lets +onlyGivenNames z; clear_value z; revert z; intro _)
    | with_reducible refine rg_takeStripe hw ?_
    | with_reducible refine rg_takeRow hw ?_
    | (with_reducible refine Rg.of ?_); with_reducible assumption
    | split

theorem rg_figLogReject {W : Nat} {s0 : State} {s : State} {h : KfsHeader} {off : Nat} {r : FigReason} {unw : Bool} {halt : Bool} (hw : 40964 ||| W = W) (hs : Rg W s0 s) :
    Rg W s0 (State.figLogReject s h off r unw halt) := by
  unfold State.figLogReject
  repeat' first
    | intro _
    | with_reducible assumption
    | (extract_lets +onlyGivenNames z; guard_hyp z : State := _; refine Rg.cut (x := z) ?_ (fun _ => ?_); rotate_left; clear_value z; revert z; intro _ _; rotate_left; unfold z; clear z)
    | with_reducible refine rg_figLog (Fr.sub (V := 40964) rfl hw) ?_
    | with_reducible refine Rg.bump (Fr.bit hw rfl) ?_
    | with_reducible refine Rg.bump (Fr.bit hw (by rw [blk_figCounter]; decide)) ?_
    | with_reducible refine rg_raise (Fr.sub (V := 40964) rfl hw) ?_
    | with_reducible apply Rg.ite

theorem rg_figUnwritable {W : Nat} {s0 : State} {s : State} {id : TileId} {h : KfsHeader} {off : Nat} {r : FigReason} (hw : 40964 ||| W = W) (hs : Rg W s0 s) :
    Rg W s0 (State.figUnwritable s id h off r) := by
  unfold State.figUnwritable
  repeat' first
    | with_reducible assumption
    | with_reducible refine rg_setTile ?_
    | with_reducible refine rg_figLogReject hw ?_

theorem rg_figHalt {W : Nat} {s0 : State} {s : State} {h : KfsHeader} {off : Nat} {r : FigReason} (hw : 40964 ||| W = W) (hs : Rg W s0 s) :
    Rg W s0 (State.figHalt s h off r) := by
  unfold State.figHalt
  repeat' first
    | with_reducible assumption
    | (extract_lets +onlyGivenNames z; guard_hyp z : State := _; refine Rg.cut (x := z) ?_ (fun _ => ?_); rotate_left; clear_value z; revert z; intro _ _; rotate_left; unfold z; clear z)
    | (extract_lets +onlyGivenNames z; clear_value z; revert z; intro _)
    | with_reducible refine rg_figLogReject hw ?_
    | with_reducible refine rg_freeRing ?_
    | (with_reducible refine Rg.of ?_); with_reducible assumption

theorem rg_execFigErrlogPop {W : Nat} {s0 : State} {v : Sys2Proof.Word} {s : State} (hw : 45056 ||| W = W) (hs : Rg W s0 s) :
    RgO W s0 (execFigErrlogPop v s) := by
  unfold execFigErrlogPop
  repeat' first
    | intro _
    | with_reducible assumption
    | (extract_lets +onlyGivenNames z; clear_value z; revert z; intro _)
    | with_reducible refine rg_finish (Fr.sub (V := 45056) rfl hw) ?_ ?_
    | with_reducible refine rg_command (Fr.sub (V := 45056) rfl hw) ?_ ?_
    | with_reducible apply Rg.ite
    | (with_reducible refine Rg.of ?_); with_reducible assumption

theorem rg_refetchTile {W : Nat} {s0 : State} {s : State} {id : TileId} (hw : 40964 ||| W = W) (hs : Rg W s0 s) :
    Rg W s0 (State.refetchTile s id) := by
  unfold State.refetchTile
  repeat' first
    | intro _
    | with_reducible assumption
    | (extract_lets +onlyGivenNames z; guard_hyp z : State := _; refine Rg.cut (x := z) ?_ (fun _ => ?_); rotate_left; clear_value z; revert z; intro _ _; rotate_left; unfold z; clear z)
    | (extract_lets +onlyGivenNames z; clear_value z; revert z; intro _)
    | with_reducible refine rg_figUnwritable hw ?_
    | with_reducible refine rg_raise (Fr.sub (V := 40964) rfl hw) ?_
    | with_reducible apply Rg.ite
    | (with_reducible refine Rg.of ?_); with_reducible assumption
    | split

theorem rg_figTouch {W : Nat} {s0 : State} {s : State} {off : Nat} {n : Nat} (hw : 42496 ||| W = W) (hs : Rg W s0 s) :
    Rg W s0 (State.figTouch s off n) := by
  unfold State.figTouch
  repeat' first
    | intro _
    | with_reducible assumption
    | with_reducible refine rg_touch hw ?_
    | with_reducible apply Rg.foldl

theorem rg_verifyStruct {W : Nat} {s0 : State} {s : State} (hw : 42500 ||| W = W) (hs : Rg W s0 s) :
    Rg W s0 (State.verifyStruct s) := by
  unfold State.verifyStruct
  repeat' first
    | intro _
    | with_reducible assumption
    | (extract_lets +onlyGivenNames z; guard_hyp z : State := _; refine Rg.cut (x := z) ?_ (fun _ => ?_); rotate_left; clear_value z; revert z; intro _ _; rotate_left; unfold z; clear z)
    | (extract_lets +onlyGivenNames z; clear_value z; revert z; intro _)
    | with_reducible refine rg_figHalt (Fr.sub (V := 42500) rfl hw) ?_
    | with_reducible refine rg_figTouch (Fr.sub (V := 42500) rfl hw) ?_
    | with_reducible refine rg_freeRing ?_
    | with_reducible refine rg_takeStruct (Fr.sub (V := 42500) rfl hw) ?_
    | with_reducible apply Rg.ite
    | split

theorem rg_takeBin {W : Nat} {s0 : State} {s : State} {c : RowCtx} {col : Int} {blen : Nat} {rest : List (Int × Nat)} (hw : 42500 ||| W = W) (hs : Rg W s0 s) :
    Rg W s0 (State.takeBin s c col blen rest) := by
  unfold State.takeBin
  repeat' first
    | intro _
    | with_reducible assumption
    | (extract_lets +onlyGivenNames z; guard_hyp z : State := _; refine Rg.cut (x := z) ?_ (fun _ => ?_); rotate_left; clear_value z; revert z; intro _ _; rotate_left; unfold z; clear z)
    | (extract_lets +onlyGivenNames z; clear_value z; revert z; intro _)
    | with_reducible refine rg_figTouch (Fr.sub (V := 42500) rfl hw) ?_
    | with_reducible refine rg_figUnwritable (Fr.sub (V := 42500) rfl hw) ?_
    | with_reducible refine rg_figLogReject (Fr.sub (V := 42500) rfl hw) ?_
    | with_reducible refine rg_setTile ?_
    | with_reducible refine rg_figStale (Fr.sub (V := 42500) rfl hw) ?_
    | with_reducible refine rg_freeRing ?_
    | with_reducible refine rg_rowDone ?_
    | with_reducible apply Rg.ite
    | (with_reducible refine Rg.of ?_); with_reducible assumption
    | split

theorem rg_verifyAs {W : Nat} {s0 : State} {s : State} {ty : Nat} (hw : 42500 ||| W = W) (hs : Rg W s0 s) :
    Rg W s0 (State.verifyAs s ty) := by
  unfold State.verifyAs
  repeat' first
    | intro _
    | with_reducible assumption
    | (extract_lets +onlyGivenNames z; clear_value z; revert z; intro _)
    | with_reducible refine rg_verifyStruct hw ?_
    | with_reducible apply Rg.ite

theorem rg_verifyBin {W : Nat} {s0 : State} {s : State} (hw : 42500 ||| W = W) (hs : Rg W s0 s) :
    Rg W s0 (State.verifyBin s) := by
  unfold State.verifyBin
  repeat' first
    | intro _
    | with_reducible assumption
    | with_reducible refine rg_verifyStruct hw ?_
    | with_reducible refine rg_rowDone ?_
    | with_reducible refine rg_takeBin hw ?_
    | with_reducible apply Rg.ite
    | split

theorem rg_execVerifyTileRow {W : Nat} {s0 : State} {s : State} (hw : 42500 ||| W = W) (hs : Rg W s0 s) :
    RgO W s0 (execVerifyTileRow s) := by
  unfold execVerifyTileRow
  repeat' first
    | with_reducible assumption
    | with_reducible refine rg_finish (Fr.sub (V := 42500) rfl hw) ?_ ?_
    | with_reducible refine rg_verifyAs hw ?_

theorem rg_execVerifyClassTable {W : Nat} {s0 : State} {s : State} (hw : 42500 ||| W = W) (hs : Rg W s0 s) :
    RgO W s0 (execVerifyClassTable s) := by
  unfold execVerifyClassTable
  repeat' first
    | with_reducible assumption
    | with_reducible refine rg_finish (Fr.sub (V := 42500) rfl hw) ?_ ?_
    | with_reducible refine rg_verifyAs hw ?_

theorem rg_execVerifyJobHeader {W : Nat} {s0 : State} {s : State} (hw : 42500 ||| W = W) (hs : Rg W s0 s) :
    RgO W s0 (execVerifyJobHeader s) := by
  unfold execVerifyJobHeader
  repeat' first
    | with_reducible assumption
    | with_reducible refine rg_finish (Fr.sub (V := 42500) rfl hw) ?_ ?_
    | with_reducible refine rg_verifyAs hw ?_

theorem rg_execVerifyStripe {W : Nat} {s0 : State} {s : State} (hw : 42500 ||| W = W) (hs : Rg W s0 s) :
    RgO W s0 (execVerifyStripe s) := by
  unfold execVerifyStripe
  repeat' first
    | with_reducible assumption
    | with_reducible refine rg_finish (Fr.sub (V := 42500) rfl hw) ?_ ?_
    | with_reducible refine rg_verifyAs hw ?_

theorem rg_execVerifyJobEnd {W : Nat} {s0 : State} {s : State} (hw : 42500 ||| W = W) (hs : Rg W s0 s) :
    RgO W s0 (execVerifyJobEnd s) := by
  unfold execVerifyJobEnd
  repeat' first
    | with_reducible assumption
    | with_reducible refine rg_finish (Fr.sub (V := 42500) rfl hw) ?_ ?_
    | with_reducible refine rg_verifyAs hw ?_

theorem rg_execVerifyTileBin {W : Nat} {s0 : State} {s : State} (hw : 42500 ||| W = W) (hs : Rg W s0 s) :
    RgO W s0 (execVerifyTileBin s) := by
  unfold execVerifyTileBin
  repeat' first
    | with_reducible assumption
    | with_reducible refine rg_finish (Fr.sub (V := 42500) rfl hw) ?_ ?_
    | with_reducible refine rg_verifyBin hw ?_

/-! Works. -/

theorem rg_newWork_eq {W : Nat} {s0 : State} {s : State} {r : StripeRec} {wStart : Nat} (hs : Rg W s0 s) {s' : State} {x'} (e' : State.newWork s r wStart = (s', x')) :
    Rg W s0 s' := by
  unfold State.newWork at e'
  repeat' first
    | (extract_lets +onlyGivenNames z at e'; clear_value z; revert z; intro _ e')
    | ((with_reducible refine Rg.of_pair ?_ e'); clear e')
    | (with_reducible refine Rg.of ?_); with_reducible assumption

theorem rg_newWork {W : Nat} {s0 : State} {s : State} {r : StripeRec} {wStart : Nat} (hs : Rg W s0 s) : Rg W s0 (State.newWork s r wStart).1 :=
  Rg.of_eq fun _ _ e' => rg_newWork_eq hs e'

theorem rg_keepPasses {W : Nat} {s0 : State} {s : State} {keep : Nat → Bool} (hs : Rg W s0 s) :
    Rg W s0 (State.keepPasses s keep) := by
  unfold State.keepPasses
  repeat' first
    | (extract_lets +onlyGivenNames z; clear_value z; revert z; intro _)
    | (with_reducible refine Rg.of ?_); with_reducible assumption

theorem rg_sweepWorks {W : Nat} {s0 : State} {s : State} (hs : Rg W s0 s) :
    Rg W s0 (State.sweepWorks s) := by
  unfold State.sweepWorks
  repeat' first
    | (extract_lets +onlyGivenNames z; clear_value z; revert z; intro _)
    | (with_reducible refine Rg.of ?_); with_reducible assumption

theorem rg_takeSlot {W : Nat} {s0 : State} {s : State} {id : Nat} (hs : Rg W s0 s) :
    Rg W s0 (State.takeSlot s id) := by
  unfold State.takeSlot
  repeat' first
    | intro _
    | with_reducible assumption
    | with_reducible refine rg_modWork ?_
    | with_reducible apply Rg.ite
    | split

theorem rg_voidSample {W : Nat} {s0 : State} {s : State} {id : Nat} (hw : 8 ||| W = W) (hs : Rg W s0 s) :
    Rg W s0 (State.voidSample s id) := by
  unfold State.voidSample
  repeat' first
    | (extract_lets +onlyGivenNames z; clear_value z; revert z; intro _)
    | with_reducible refine Rg.bump (Fr.bit hw rfl) ?_
    | (with_reducible refine Rg.of ?_); with_reducible assumption

theorem rg_stgLog {W : Nat} {s0 : State} {s : State} {reason : Nat} {status : Nat} {stripe : Nat} {w : Nat} (hw : 32 ||| W = W) (hs : Rg W s0 s) :
    Rg W s0 (State.stgLog s reason status stripe w) := by
  unfold State.stgLog
  repeat' first
    | with_reducible assumption
    | with_reducible refine Rg.setRegs hw (by simp only [List.length_cons, List.length_nil]; decide) ?_
    | with_reducible refine Rg.bump (Fr.bit hw rfl) ?_

theorem rg_keepBins {W : Nat} {s0 : State} {s : State} {keep : HeldBin → Bool} (hw : 8 ||| W = W) (hs : Rg W s0 s) :
    Rg W s0 (State.keepBins s keep) := by
  unfold State.keepBins
  repeat' first
    | intro _
    | with_reducible assumption
    | (extract_lets +onlyGivenNames z; guard_hyp z : State := _; refine Rg.cut (x := z) ?_ (fun _ => ?_); rotate_left; clear_value z; revert z; intro _ _; rotate_left; unfold z; clear z)
    | (extract_lets +onlyGivenNames z; clear_value z; revert z; intro _)
    | with_reducible refine rg_freeRing ?_
    | with_reducible refine rg_voidSample hw ?_
    | with_reducible apply Rg.foldl
    | (with_reducible refine Rg.of ?_); with_reducible assumption

theorem rg_dropBins {W : Nat} {s0 : State} {s : State} (hw : 8 ||| W = W) (hs : Rg W s0 s) :
    Rg W s0 (State.dropBins s) := by
  unfold State.dropBins
  repeat' first
    | with_reducible assumption
    | with_reducible refine rg_keepBins hw ?_

theorem rg_claimRow {W : Nat} {s0 : State} {s : State} {id : Nat} {v : Int} (hw : 1536 ||| W = W) (hs : Rg W s0 s) :
    Rg W s0 (State.claimRow s id v) := by
  unfold State.claimRow
  repeat' first
    | with_reducible assumption
    | (extract_lets +onlyGivenNames z; guard_hyp z : State := _; refine Rg.cut (x := z) ?_ (fun _ => ?_); rotate_left; clear_value z; revert z; intro _ _; rotate_left; unfold z; clear z)
    | with_reducible refine rg_memWrite hw ?_
    | with_reducible refine rg_modWork ?_
    | split

theorem rg_corLog {W : Nat} {s0 : State} {s : State} {reason : Nat} {set : Bool} {halt : Bool} {stripe : Nat} {slice : Nat} (hw : 40976 ||| W = W) (hs : Rg W s0 s) :
    Rg W s0 (State.corLog s reason set halt stripe slice) := by
  unfold State.corLog
  repeat' first
    | with_reducible assumption
    | with_reducible refine rg_raise (Fr.sub (V := 40976) rfl hw) ?_
    | with_reducible refine Rg.setRegs hw (by simp only [List.length_cons, List.length_nil]; decide) ?_
    | with_reducible refine Rg.bump (Fr.bit hw rfl) ?_

theorem rg_freeChunks {W : Nat} {s0 : State} {s : State} {keep : Nat → Bool} (hw : 1536 ||| W = W) (hs : Rg W s0 s) :
    Rg W s0 (State.freeChunks s keep) := by
  unfold State.freeChunks
  repeat' first
    | intro _
    | with_reducible assumption
    | (extract_lets +onlyGivenNames z; guard_hyp z : State := _; refine Rg.cut (x := z) ?_ (fun _ => ?_); rotate_left; clear_value z; revert z; intro _ _; rotate_left; unfold z; clear z)
    | (extract_lets +onlyGivenNames z; clear_value z; revert z; intro _)
    | with_reducible refine rg_memWrite64 hw ?_
    | with_reducible apply Rg.foldl
    | (with_reducible refine Rg.of ?_); with_reducible assumption

theorem rg_rebuildRows {W : Nat} {s0 : State} {s : State} {id : Nat} {t : Int} {vs : List Int} (hw : 1552 ||| W = W) (hs : Rg W s0 s) :
    Rg W s0 (State.rebuildRows s id t vs) := by
  unfold State.rebuildRows
  repeat' first
    | intro _
    | with_reducible assumption
    | (extract_lets +onlyGivenNames z; guard_hyp z : State := _; refine Rg.cut (x := z) ?_ (fun _ => ?_); rotate_left; clear_value z; revert z; intro _ _; rotate_left; unfold z; clear z)
    | with_reducible refine Rg.bump (Fr.bit hw rfl) ?_
    | with_reducible refine rg_claimRow (Fr.sub (V := 1552) rfl hw) ?_
    | with_reducible refine rg_modWork ?_
    | with_reducible apply Rg.foldl

theorem rg_addCell {W : Nat} {s0 : State} {s : State} {id : Nat} {u : Int} {v : Int} {f : Nat} (hw : 1536 ||| W = W) (hs : Rg W s0 s) :
    Rg W s0 (State.addCell s id u v f) := by
  unfold State.addCell
  repeat' first
    | intro _
    | with_reducible assumption
    | (extract_lets +onlyGivenNames z; guard_hyp z : State := _; refine Rg.cut (x := z) ?_ (fun _ => ?_); rotate_left; clear_value z; revert z; intro _ _; rotate_left; unfold z; clear z)
    | with_reducible refine rg_claimRow hw ?_
    | with_reducible refine rg_memWrite64 hw ?_
    | with_reducible apply Rg.ite
    | split

theorem rg_resetPath {W : Nat} {s0 : State} {s : State} (hw : 42656 ||| W = W) (hs : Rg W s0 s) :
    Rg W s0 (State.resetPath s) := by
  unfold State.resetPath
  repeat' first
    | intro _
    | with_reducible assumption
    | (extract_lets +onlyGivenNames z; guard_hyp z : State := _; refine Rg.cut (x := z) ?_ (fun _ => ?_); rotate_left; clear_value z; revert z; intro _ _; rotate_left; unfold z; clear z)
    | (extract_lets +onlyGivenNames z; clear_value z; revert z; intro _)
    | with_reducible refine rg_keepPasses ?_
    | with_reducible refine rg_freeChunks (Fr.sub (V := 42656) rfl hw) ?_
    | with_reducible refine rg_raise (Fr.sub (V := 42656) rfl hw) ?_
    | with_reducible refine Rg.setReg (Fr.bit hw rfl) ?_
    | with_reducible apply Rg.ite
    | (with_reducible refine Rg.of ?_); with_reducible assumption

theorem rg_invalidateGroup {W : Nat} {s0 : State} {s : State} {id : Nat} {t : Int} {reason : Nat} {status : Nat} (hw : 1568 ||| W = W) (hs : Rg W s0 s) :
    Rg W s0 (State.invalidateGroup s id t reason status) := by
  unfold State.invalidateGroup
  repeat' first
    | intro _
    | with_reducible assumption
    | (extract_lets +onlyGivenNames z; guard_hyp z : State := _; refine Rg.cut (x := z) ?_ (fun _ => ?_); rotate_left; clear_value z; revert z; intro _ _; rotate_left; unfold z; clear z)
    | (extract_lets +onlyGivenNames z; clear_value z; revert z; intro _)
    | with_reducible refine rg_freeChunks (Fr.sub (V := 1568) rfl hw) ?_
    | with_reducible refine rg_modWork ?_
    | with_reducible refine rg_stgLog (Fr.sub (V := 1568) rfl hw) ?_
    | with_reducible apply Rg.ite
    | (with_reducible refine Rg.of ?_); with_reducible assumption
    | split

theorem rg_abandonWork {W : Nat} {s0 : State} {s : State} {id : Nat} (hw : 1536 ||| W = W) (hs : Rg W s0 s) :
    Rg W s0 (State.abandonWork s id) := by
  unfold State.abandonWork
  repeat' first
    | with_reducible assumption
    | (extract_lets +onlyGivenNames z; guard_hyp z : State := _; refine Rg.cut (x := z) ?_ (fun _ => ?_); rotate_left; clear_value z; revert z; intro _ _; rotate_left; unfold z; clear z)
    | (extract_lets +onlyGivenNames z; clear_value z; revert z; intro _)
    | with_reducible refine rg_keepPasses ?_
    | with_reducible refine rg_freeChunks hw ?_
    | (with_reducible refine Rg.of ?_); with_reducible assumption
    | split

theorem rg_releaseTo {W : Nat} {s0 : State} {s : State} {n : Nat} (hw : 1544 ||| W = W) (hs : Rg W s0 s) :
    Rg W s0 (State.releaseTo s n) := by
  unfold State.releaseTo
  repeat' first
    | intro _
    | with_reducible assumption
    | (extract_lets +onlyGivenNames z; guard_hyp z : State := _; refine Rg.cut (x := z) ?_ (fun _ => ?_); rotate_left; clear_value z; revert z; intro _ _; rotate_left; unfold z; clear z)
    | (extract_lets +onlyGivenNames z; clear_value z; revert z; intro _)
    | with_reducible refine rg_sweepWorks ?_
    | with_reducible refine rg_dropBins (Fr.sub (V := 1544) rfl hw) ?_
    | with_reducible refine rg_freeChunks (Fr.sub (V := 1544) rfl hw) ?_
    | with_reducible apply Rg.ite
    | (with_reducible refine Rg.of ?_); with_reducible assumption

theorem rg_dmapPoison {W : Nat} {s0 : State} {s : State} {id : Nat} {t : Int} {v : Int} (hw : 42512 ||| W = W) (hs : Rg W s0 s) :
    Rg W s0 (State.dmapPoison s id t v) := by
  unfold State.dmapPoison
  repeat' first
    | with_reducible assumption
    | with_reducible refine rg_corLog (Fr.sub (V := 42512) rfl hw) ?_
    | with_reducible refine rg_rebuildRows (Fr.sub (V := 42512) rfl hw) ?_
    | split

theorem rg_invalidateRows {W : Nat} {s0 : State} {s : State} {id : Nat} {ts : List Int} {reason : Nat} {status : Nat} (hw : 42528 ||| W = W) (hs : Rg W s0 s) :
    Rg W s0 (State.invalidateRows s id ts reason status) := by
  unfold State.invalidateRows
  repeat' first
    | intro _
    | with_reducible assumption
    | (extract_lets +onlyGivenNames z; guard_hyp z : State := _; refine Rg.cut (x := z) ?_ (fun _ => ?_); rotate_left; clear_value z; revert z; intro _ _; rotate_left; unfold z; clear z)
    | with_reducible refine rg_invalidateGroup (Fr.sub (V := 42528) rfl hw) ?_
    | with_reducible refine rg_raise (Fr.sub (V := 42528) rfl hw) ?_
    | with_reducible apply Rg.ite
    | with_reducible apply Rg.foldl

theorem rg_ensureNext {W : Nat} {s0 : State} {s : State} (hw : 1536 ||| W = W) (hs : Rg W s0 s) :
    Rg W s0 (State.ensureNext s) := by
  unfold State.ensureNext
  repeat' first
    | intro _
    | with_reducible assumption
    | (extract_lets +onlyGivenNames z; guard_hyp z : State := _; refine Rg.cut (x := z) ?_ (fun _ => ?_); rotate_left; clear_value z; revert z; intro _ _; rotate_left; unfold z; clear z)
    | (extract_lets +onlyGivenNames z; clear_value z; revert z; intro _)
    | with_reducible refine rg_abandonWork hw ?_
    | with_reducible apply Rg.ite
    | (with_reducible refine Rg.of ?_); (first | with_reducible refine rg_newWork ?_)
    | split

theorem rg_abandonNext {W : Nat} {s0 : State} {s : State} (hw : 1544 ||| W = W) (hs : Rg W s0 s) :
    Rg W s0 (State.abandonNext s) := by
  unfold State.abandonNext
  repeat' first
    | intro _
    | with_reducible assumption
    | (extract_lets +onlyGivenNames z; guard_hyp z : State := _; refine Rg.cut (x := z) ?_ (fun _ => ?_); rotate_left; clear_value z; revert z; intro _ _; rotate_left; unfold z; clear z)
    | (extract_lets +onlyGivenNames z; clear_value z; revert z; intro _)
    | with_reducible refine rg_abandonWork (Fr.sub (V := 1544) rfl hw) ?_
    | with_reducible refine rg_keepBins (Fr.sub (V := 1544) rfl hw) ?_
    | with_reducible apply Rg.ite
    | (with_reducible refine Rg.of ?_); with_reducible assumption
    | split

theorem rg_addFragments {W : Nat} {s0 : State} {s : State} {id : Nat} {t : Int} {c : Int} {words : List Nat} {only : Option (List (Int × Int))} (hw : 42512 ||| W = W) (hs : Rg W s0 s) :
    Rg W s0 (State.addFragments s id t c words only) := by
  unfold State.addFragments
  repeat' first
    | intro _
    | with_reducible assumption
    | (extract_lets +onlyGivenNames z; guard_hyp z : State := _; refine Rg.cut (x := z) ?_ (fun _ => ?_); rotate_left; clear_value z; revert z; intro _ _; rotate_left; unfold z; clear z)
    | (extract_lets +onlyGivenNames z; clear_value z; revert z; intro _)
    | with_reducible refine rg_takeSlot ?_
    | with_reducible refine rg_dmapPoison hw ?_
    | with_reducible refine rg_addCell (Fr.sub (V := 42512) rfl hw) ?_
    | with_reducible apply Rg.ite
    | with_reducible apply Rg.foldl
    | split

theorem rg_fillB {W : Nat} {s0 : State} {s : State} {id : Nat} {us : List Int} {vs : List Int} (hw : 42512 ||| W = W) (hs : Rg W s0 s) :
    Rg W s0 (State.fillB s id us vs) := by
  unfold State.fillB
  repeat' first
    | intro _
    | with_reducible assumption
    | (extract_lets +onlyGivenNames z; clear_value z; revert z; intro _)
    | with_reducible refine rg_dmapPoison hw ?_
    | with_reducible refine rg_memWrite64 (Fr.sub (V := 42512) rfl hw) ?_
    | with_reducible apply Rg.ite
    | with_reducible apply Rg.foldl
    | split

theorem rg_invalidateAll {W : Nat} {s0 : State} {s : State} {id : Nat} (hw : 42528 ||| W = W) (hs : Rg W s0 s) :
    Rg W s0 (State.invalidateAll s id) := by
  unfold State.invalidateAll
  repeat' first
    | with_reducible assumption
    | with_reducible refine rg_invalidateRows hw ?_
    | split

theorem rg_bindTo {W : Nat} {s0 : State} {s : State} {id : Nat} {b : Bool} (hw : 42512 ||| W = W) (hs : Rg W s0 s) :
    Rg W s0 (State.bindTo s id b) := by
  unfold State.bindTo
  repeat' first
    | with_reducible assumption
    | (extract_lets +onlyGivenNames z; guard_hyp z : State := _; refine Rg.cut (x := z) ?_ (fun _ => ?_); rotate_left; clear_value z; revert z; intro _ _; rotate_left; unfold z; clear z)
    | (extract_lets +onlyGivenNames z; clear_value z; revert z; intro _)
    | with_reducible refine rg_modWork ?_
    | with_reducible refine rg_fillB hw ?_
    | (with_reducible refine Rg.of ?_); with_reducible assumption
    | split

theorem rg_fillAround {W : Nat} {s0 : State} {s : State} {id : Nat} {t : Int} {c : Int} (hw : 42512 ||| W = W) (hs : Rg W s0 s) :
    Rg W s0 (State.fillAround s id t c) := by
  unfold State.fillAround
  repeat' first
    | with_reducible assumption
    | (extract_lets +onlyGivenNames z; clear_value z; revert z; intro _)
    | with_reducible refine rg_fillB hw ?_
    | split

theorem rg_rebind {W : Nat} {s0 : State} {s : State} {id : Nat} {b : Bool} (hw : 42544 ||| W = W) (hs : Rg W s0 s) :
    Rg W s0 (State.rebind s id b) := by
  unfold State.rebind
  repeat' first
    | intro _
    | with_reducible assumption
    | (extract_lets +onlyGivenNames z; guard_hyp z : State := _; refine Rg.cut (x := z) ?_ (fun _ => ?_); rotate_left; clear_value z; revert z; intro _ _; rotate_left; unfold z; clear z)
    | (extract_lets +onlyGivenNames z; clear_value z; revert z; intro _)
    | with_reducible refine rg_invalidateAll (Fr.sub (V := 42544) rfl hw) ?_
    | with_reducible refine rg_modWork ?_
    | with_reducible refine rg_corLog (Fr.sub (V := 42544) rfl hw) ?_
    | with_reducible refine rg_memWrite64 (Fr.sub (V := 42544) rfl hw) ?_
    | with_reducible refine rg_raise (Fr.sub (V := 42544) rfl hw) ?_
    | with_reducible refine Rg.bump (Fr.bit hw rfl) ?_
    | with_reducible refine rg_fillB (Fr.sub (V := 42544) rfl hw) ?_
    | with_reducible apply Rg.ite
    | with_reducible apply Rg.foldl
    | (with_reducible refine Rg.of ?_); with_reducible assumption
    | split

theorem rg_tryBindTo {W : Nat} {s0 : State} {s : State} {id : Nat} {b : Bool} (hw : 42512 ||| W = W) (hs : Rg W s0 s) :
    Rg W s0 (State.tryBindTo s id b) := by
  unfold State.tryBindTo
  repeat' first
    | intro _
    | with_reducible assumption
    | (extract_lets +onlyGivenNames z; guard_hyp z : State := _; refine Rg.cut (x := z) ?_ (fun _ => ?_); rotate_left; clear_value z; revert z; intro _ _; rotate_left; unfold z; clear z)
    | (extract_lets +onlyGivenNames z; clear_value z; revert z; intro _)
    | with_reducible refine rg_corLog (Fr.sub (V := 42512) rfl hw) ?_
    | with_reducible refine rg_bindTo hw ?_
    | with_reducible apply Rg.ite
    | (with_reducible refine Rg.of ?_); with_reducible assumption
    | split

theorem rg_bindNext {W : Nat} {s0 : State} {s : State} (hw : 42512 ||| W = W) (hs : Rg W s0 s) :
    Rg W s0 (State.bindNext s) := by
  unfold State.bindNext
  repeat' first
    | intro _
    | with_reducible assumption
    | (extract_lets +onlyGivenNames z; guard_hyp z : State := _; refine Rg.cut (x := z) ?_ (fun _ => ?_); rotate_left; clear_value z; revert z; intro _ _; rotate_left; unfold z; clear z)
    | (extract_lets +onlyGivenNames z; clear_value z; revert z; intro _)
    | with_reducible refine rg_ensureNext (Fr.sub (V := 42512) rfl hw) ?_
    | with_reducible refine rg_tryBindTo hw ?_
    | with_reducible apply Rg.ite
    | (with_reducible refine Rg.of ?_); with_reducible assumption
    | split

theorem rg_setChanged {W : Nat} {s0 : State} {s : State} {id : Nat} {b : Bool} (hw : 42544 ||| W = W) (hs : Rg W s0 s) :
    Rg W s0 (State.setChanged s id b) := by
  unfold State.setChanged
  repeat' first
    | intro _
    | with_reducible assumption
    | with_reducible refine rg_rebind hw ?_
    | with_reducible refine rg_tryBindTo (Fr.sub (V := 42544) rfl hw) ?_
    | with_reducible apply Rg.ite
    | split

/-! Weavers. -/

theorem rg_modWeaver {W : Nat} {s0 : State} {s : State} {w : Nat} {f : Weaver → Weaver} (hs : Rg W s0 s) :
    Rg W s0 (State.modWeaver s w f) := by
  unfold State.modWeaver
  repeat' first
    | (extract_lets +onlyGivenNames z; clear_value z; revert z; intro _)
    | (with_reducible refine Rg.of ?_); with_reducible assumption

theorem rg_dropSample {W : Nat} {s0 : State} {s : State} {id : Nat} (hs : Rg W s0 s) :
    Rg W s0 (State.dropSample s id) := by
  unfold State.dropSample
  repeat' first
    | (extract_lets +onlyGivenNames z; clear_value z; revert z; intro _)
    | (with_reducible refine Rg.of ?_); with_reducible assumption

theorem rg_modSample {W : Nat} {s0 : State} {s : State} {id : Nat} {f : Sample → Sample} (hs : Rg W s0 s) :
    Rg W s0 (State.modSample s id f) := by
  unfold State.modSample
  repeat' first
    | (extract_lets +onlyGivenNames z; clear_value z; revert z; intro _)
    | (with_reducible refine Rg.of ?_); with_reducible assumption

theorem rg_uncount {W : Nat} {s0 : State} {s : State} {id : TileId} (hs : Rg W s0 s) :
    Rg W s0 (State.uncount s id) := by
  unfold State.uncount
  repeat' first
    | intro _
    | with_reducible assumption
    | (extract_lets +onlyGivenNames z; clear_value z; revert z; intro _)
    | with_reducible apply Rg.ite
    | (with_reducible refine Rg.of ?_); with_reducible assumption

theorem rg_issueSample {W : Nat} {s0 : State} {s : State} {w : Nat} {x2 : Sample} {kind : PassKind} (hs : Rg W s0 s) :
    Rg W s0 (State.issueSample s w x2 kind) := by
  unfold State.issueSample
  repeat' first
    | with_reducible assumption
    | (extract_lets +onlyGivenNames z; guard_hyp z : State := _; refine Rg.cut (x := z) ?_ (fun _ => ?_); rotate_left; clear_value z; revert z; intro _ _; rotate_left; unfold z; clear z)
    | (extract_lets +onlyGivenNames z; clear_value z; revert z; intro _)
    | with_reducible refine rg_modSample ?_
    | with_reducible refine rg_modWeaver ?_

theorem rg_giveBack {W : Nat} {s0 : State} {s : State} {w : Nat} {avoid : List Nat} (hs : Rg W s0 s) :
    Rg W s0 (State.giveBack s w avoid) := by
  unfold State.giveBack
  repeat' first
    | with_reducible assumption
    | (extract_lets +onlyGivenNames z; guard_hyp z : State := _; refine Rg.cut (x := z) ?_ (fun _ => ?_); rotate_left; clear_value z; revert z; intro _ _; rotate_left; unfold z; clear z)
    | (extract_lets +onlyGivenNames z; guard_hyp z : State → State := _; refine Rg.cutF (f := z) ?_ (fun _ => ?_); rotate_left; clear_value z; revert z; intro _ _; rotate_left; unfold z; clear z; intro _ _; beta_reduce)
    | with_reducible refine rg_modWeaver ?_
    | with_reducible refine rg_dropSample ?_
    | with_reducible refine rg_modWork ?_
    | with_reducible refine rg_modSample ?_
    | split
    | with_reducible apply_assumption

theorem rg_needTile {W : Nat} {s0 : State} {s : State} {id : TileId} (hw : 4 ||| W = W) (hs : Rg W s0 s) :
    Rg W s0 (State.needTile s id) := by
  unfold State.needTile
  repeat' first
    | intro _
    | with_reducible assumption
    | with_reducible refine rg_stallAt hw ?_
    | with_reducible apply Rg.ite

theorem rg_issuePass {W : Nat} {s0 : State} {s : State} {w : Nat} {f : Found} (hw : 8 ||| W = W) (hs : Rg W s0 s) :
    Rg W s0 (State.issuePass s w f) := by
  unfold State.issuePass
  repeat' first
    | intro _
    | with_reducible assumption
    | (extract_lets +onlyGivenNames z; guard_hyp z : State := _; refine Rg.cut (x := z) ?_ (fun _ => ?_); rotate_left; clear_value z; revert z; intro _ _; rotate_left; unfold z; clear z)
    | (extract_lets +onlyGivenNames z; clear_value z; revert z; intro _)
    | with_reducible refine rg_modWork ?_
    | with_reducible refine rg_uncount ?_
    | with_reducible refine rg_modWeaver ?_
    | with_reducible refine Rg.bump (Fr.bit hw rfl) ?_
    | with_reducible apply Rg.ite
    | (with_reducible refine Rg.of ?_); with_reducible assumption

theorem rg_promote {W : Nat} {s0 : State} {s : State} {w : Nat} (hw : 8 ||| W = W) (hs : Rg W s0 s) :
    Rg W s0 (State.promote s w) := by
  unfold State.promote
  repeat' first
    | intro _
    | with_reducible assumption
    | (extract_lets +onlyGivenNames z; guard_hyp z : State := _; refine Rg.cut (x := z) ?_ (fun _ => ?_); rotate_left; clear_value z; revert z; intro _ _; rotate_left; unfold z; clear z)
    | with_reducible refine rg_voidSample hw ?_
    | with_reducible refine rg_modWeaver ?_
    | with_reducible refine rg_giveBack ?_
    | with_reducible apply Rg.ite
    | split

theorem rg_retireWeaver {W : Nat} {s0 : State} {s : State} {w : Nat} (hw : 40968 ||| W = W) (hs : Rg W s0 s) :
    Rg W s0 (State.retireWeaver s w) := by
  unfold State.retireWeaver
  repeat' first
    | intro _
    | with_reducible assumption
    | (extract_lets +onlyGivenNames z; guard_hyp z : State := _; refine Rg.cut (x := z) ?_ (fun _ => ?_); rotate_left; clear_value z; revert z; intro _ _; rotate_left; unfold z; clear z)
    | with_reducible refine rg_modWeaver ?_
    | with_reducible refine rg_giveBack ?_
    | with_reducible refine rg_promote (Fr.sub (V := 40968) rfl hw) ?_
    | with_reducible refine rg_raise (Fr.sub (V := 40968) rfl hw) ?_
    | with_reducible refine rg_withyChange (Fr.sub (V := 40968) rfl hw) ?_
    | with_reducible apply Rg.ite
    | split

theorem rg_wantBin {W : Nat} {s0 : State} {s : State} {k : Work} {t : Int} (hw : 40992 ||| W = W) (hs : Rg W s0 s) :
    Rg W s0 (State.wantBin s k t) := by
  unfold State.wantBin
  repeat' first
    | intro _
    | with_reducible assumption
    | (extract_lets +onlyGivenNames z; guard_hyp z : State := _; refine Rg.cut (x := z) ?_ (fun _ => ?_); rotate_left; clear_value z; revert z; intro _ _; rotate_left; unfold z; clear z)
    | (extract_lets +onlyGivenNames z; clear_value z; revert z; intro _)
    | with_reducible refine rg_stgLog (Fr.sub (V := 40992) rfl hw) ?_
    | with_reducible refine rg_raise (Fr.sub (V := 40992) rfl hw) ?_
    | with_reducible apply Rg.ite
    | (with_reducible refine Rg.of ?_); with_reducible assumption

theorem rg_suspectUp {W : Nat} {s0 : State} {s : State} {w : Nat} (hw : 40968 ||| W = W) (hs : Rg W s0 s) :
    Rg W s0 (State.suspectUp s w) := by
  unfold State.suspectUp
  repeat' first
    | intro _
    | with_reducible assumption
    | (extract_lets +onlyGivenNames z; guard_hyp z : State := _; refine Rg.cut (x := z) ?_ (fun _ => ?_); rotate_left; clear_value z; revert z; intro _ _; rotate_left; unfold z; clear z)
    | (extract_lets +onlyGivenNames z; clear_value z; revert z; intro _)
    | with_reducible refine rg_withyChange (Fr.sub (V := 40968) rfl hw) ?_
    | with_reducible refine rg_modWeaver ?_
    | with_reducible refine rg_retireWeaver hw ?_
    | with_reducible apply Rg.ite

theorem rg_seekPixel_eq {W : Nat} {s0 : State} {w : Nat} {a : List (Nat × Int × Int)} {a2 : State} (hw : 40996 ||| W = W) (ha2 : Rg W s0 a2) {s' : State} {x'} (e' : State.seekPixel w a a2 = (s', x')) :
    Rg W s0 s' := by
  induction a generalizing w a2 with
  | nil =>
    unfold State.seekPixel at e'
    repeat' first
      | with_reducible assumption
      | ((with_reducible refine Rg.of_pair ?_ e'); clear e')
  | cons y l ih =>
    unfold State.seekPixel at e'
    repeat' first
      | with_reducible assumption
      | (extract_lets +onlyGivenNames z at e'; clear_value z; revert z; intro _ e')
      | split at e'
      | refine ih ?_ (by with_reducible assumption)
      | with_reducible refine rg_needTile (Fr.sub (V := 40996) rfl hw) ?_
      | with_reducible refine rg_modWork ?_
      | with_reducible refine rg_wantBin (Fr.sub (V := 40996) rfl hw) ?_
      | ((with_reducible refine Rg.of_pair ?_ e'); clear e')

theorem rg_seekPixel {W : Nat} {s0 : State} {w : Nat} {a : List (Nat × Int × Int)} {a2 : State} (hw : 40996 ||| W = W) (ha2 : Rg W s0 a2) : Rg W s0 (State.seekPixel w a a2).1 :=
  Rg.of_eq fun _ _ e' => rg_seekPixel_eq hw ha2 e'

theorem rg_execWeaverRetire {W : Nat} {s0 : State} {w : Nat} {s : State} (hw : 45064 ||| W = W) (hs : Rg W s0 s) :
    RgO W s0 (execWeaverRetire w s) := by
  unfold execWeaverRetire
  repeat' first
    | intro _
    | with_reducible assumption
    | with_reducible refine rg_finish (Fr.sub (V := 45064) rfl hw) ?_ ?_
    | with_reducible refine rg_command (Fr.sub (V := 45064) rfl hw) ?_ ?_
    | with_reducible refine rg_retireWeaver (Fr.sub (V := 45064) rfl hw) ?_
    | with_reducible apply Rg.ite

theorem rg_weaverFails {W : Nat} {s0 : State} {s : State} {w : Nat} {counter : Nat} (hw : 40968 ||| W = W) (hs : Rg W s0 s) (hc : W.testBit (regBlock counter) = true) :
    Rg W s0 (State.weaverFails s w counter) := by
  unfold State.weaverFails
  repeat' first
    | intro _
    | with_reducible assumption
    | with_reducible refine rg_raise (Fr.sub (V := 40968) rfl hw) ?_
    | with_reducible refine rg_suspectUp hw ?_
    | with_reducible refine Rg.bump hc ?_
    | with_reducible refine rg_giveBack ?_
    | with_reducible apply Rg.ite

theorem rg_execWeaverWatchdog {W : Nat} {s0 : State} {w : Nat} {s : State} (hw : 40968 ||| W = W) (hs : Rg W s0 s) :
    RgO W s0 (execWeaverWatchdog w s) := by
  unfold execWeaverWatchdog
  repeat' first
    | with_reducible assumption
    | with_reducible refine rg_finish (Fr.sub (V := 40968) rfl hw) ?_ ?_
    | with_reducible refine rg_weaverFails hw ?_ ?_
    | exact (Fr.bit hw (by rw [blk_WVR_WDOG_COUNT]; decide))

theorem rg_execWeaverUe {W : Nat} {s0 : State} {w : Nat} {s : State} (hw : 40968 ||| W = W) (hs : Rg W s0 s) :
    RgO W s0 (execWeaverUe w s) := by
  unfold execWeaverUe
  repeat' first
    | with_reducible assumption
    | with_reducible refine rg_finish (Fr.sub (V := 40968) rfl hw) ?_ ?_
    | with_reducible refine rg_weaverFails hw ?_ ?_
    | exact (Fr.bit hw (by rw [blk_WVR_UE_COUNT]; decide))

theorem rg_redoDensity {W : Nat} {s0 : State} {s : State} {id : Nat} {tile : TileId} {avoid : List Nat} (hw : 42544 ||| W = W) (hs : Rg W s0 s) :
    Rg W s0 (State.redoDensity s id tile avoid) := by
  unfold State.redoDensity
  repeat' first
    | intro _
    | with_reducible assumption
    | (extract_lets +onlyGivenNames z; guard_hyp z : State := _; refine Rg.cut (x := z) ?_ (fun _ => ?_); rotate_left; clear_value z; revert z; intro _ _; rotate_left; unfold z; clear z)
    | (extract_lets +onlyGivenNames z; clear_value z; revert z; intro _)
    | with_reducible refine rg_memWrite64 (Fr.sub (V := 42544) rfl hw) ?_
    | with_reducible refine Rg.bumpBy (Fr.bit hw rfl) ?_
    | with_reducible refine rg_modWork ?_
    | with_reducible refine rg_invalidateRows (Fr.sub (V := 42544) rfl hw) ?_
    | with_reducible refine rg_corLog (Fr.sub (V := 42544) rfl hw) ?_
    | with_reducible apply Rg.ite
    | with_reducible apply Rg.foldl
    | split

theorem rg_decodeFails {W : Nat} {s0 : State} {s : State} {w : Nat} {p : Pass} (hw : 42500 ||| W = W) (hs : Rg W s0 s) :
    Rg W s0 (State.decodeFails s w p) := by
  unfold State.decodeFails
  repeat' first
    | intro _
    | with_reducible assumption
    | (extract_lets +onlyGivenNames z; guard_hyp z : State := _; refine Rg.cut (x := z) ?_ (fun _ => ?_); rotate_left; clear_value z; revert z; intro _ _; rotate_left; unfold z; clear z)
    | (extract_lets +onlyGivenNames z; clear_value z; revert z; intro _)
    | with_reducible refine rg_figTouch (Fr.sub (V := 42500) rfl hw) ?_
    | with_reducible refine rg_giveBack ?_
    | with_reducible refine rg_raise (Fr.sub (V := 42500) rfl hw) ?_
    | with_reducible refine rg_refetchTile (Fr.sub (V := 42500) rfl hw) ?_
    | with_reducible apply Rg.ite

theorem rg_replaceOutput_eq {W : Nat} {s0 : State} {s : State} {x1 : Sample} {avoid : List Nat} (hw : 42552 ||| W = W) (hs : Rg W s0 s) {s' : State} {x'} (e' : State.replaceOutput s x1 avoid = (s', x')) :
    Rg W s0 s' := by
  unfold State.replaceOutput at e'
  repeat' first
    | intro _
    | with_reducible assumption
    | (extract_lets +onlyGivenNames z at e'; guard_hyp z : State := _; refine Rg.cut (x := z) ?_ (fun _ => ?_); rotate_left; clear_value z; revert z; intro _ e' _; rotate_left; unfold z; clear e'; clear z)
    | (extract_lets +onlyGivenNames z at e'; clear_value z; revert z; intro _ e')
    | split at e'
    | with_reducible refine rg_modWork ?_
    | with_reducible refine rg_invalidateRows (Fr.sub (V := 42552) rfl hw) ?_
    | with_reducible refine rg_redoDensity (Fr.sub (V := 42552) rfl hw) ?_
    | with_reducible refine Rg.setRegs hw (by simp only [List.length_cons, List.length_nil]; decide) ?_
    | with_reducible refine rg_raise (Fr.sub (V := 42552) rfl hw) ?_
    | with_reducible apply Rg.ite
    | ((with_reducible refine Rg.of_pair ?_ e'); clear e')

theorem rg_replaceOutput {W : Nat} {s0 : State} {s : State} {x1 : Sample} {avoid : List Nat} (hw : 42552 ||| W = W) (hs : Rg W s0 s) : Rg W s0 (State.replaceOutput s x1 avoid).1 :=
  Rg.of_eq fun _ _ e' => rg_replaceOutput_eq hw hs e'

theorem rg_passDone {W : Nat} {s0 : State} {s : State} {w : Nat} {p : Pass} {figs : List Figure} {errs : List Sys2Proof.WordFlip} (hw : 42520 ||| W = W) (hs : Rg W s0 s) :
    Rg W s0 (State.passDone s w p figs errs) := by
  unfold State.passDone
  repeat' first
    | intro _
    | with_reducible assumption
    | (extract_lets +onlyGivenNames z; guard_hyp z : State := _; refine Rg.cut (x := z) ?_ (fun _ => ?_); rotate_left; clear_value z; revert z; intro _ _; rotate_left; unfold z; clear z)
    | (extract_lets +onlyGivenNames z; clear_value z; revert z; intro _)
    | with_reducible refine rg_figTouch (Fr.sub (V := 42520) rfl hw) ?_
    | with_reducible refine rg_modWeaver ?_
    | with_reducible refine Rg.bumpBy (Fr.bit hw rfl) ?_
    | with_reducible refine Rg.bump (Fr.bit hw (by rw [blk_WVR_PASSES]; decide)) ?_
    | with_reducible refine rg_modSample ?_
    | with_reducible refine rg_modWork ?_
    | with_reducible refine rg_fillAround (Fr.sub (V := 42520) rfl hw) ?_
    | with_reducible refine rg_addFragments (Fr.sub (V := 42520) rfl hw) ?_
    | with_reducible apply Rg.ite
    | split

theorem rg_zeroDensity {W : Nat} {s0 : State} {s : State} {id : Nat} {t : Int} {c : Int} (hw : 42520 ||| W = W) (hs : Rg W s0 s) :
    Rg W s0 (State.zeroDensity s id t c) := by
  unfold State.zeroDensity
  repeat' first
    | with_reducible assumption
    | (extract_lets +onlyGivenNames z; guard_hyp z : State := _; refine Rg.cut (x := z) ?_ (fun _ => ?_); rotate_left; clear_value z; revert z; intro _ _; rotate_left; unfold z; clear z)
    | with_reducible refine rg_takeSlot ?_
    | with_reducible refine rg_modWork ?_
    | with_reducible refine Rg.bump (Fr.bit hw rfl) ?_
    | with_reducible refine rg_fillAround (Fr.sub (V := 42520) rfl hw) ?_

theorem rg_settleSample {W : Nat} {s0 : State} {s : State} {x1 : Sample} {arb : Option (Nat × Nat)} (hw : 42552 ||| W = W) (hs : Rg W s0 s) :
    Rg W s0 (State.settleSample s x1 arb) := by
  unfold State.settleSample
  repeat' first
    | intro _
    | with_reducible assumption
    | (extract_lets +onlyGivenNames z; guard_hyp z : State := _; refine Rg.cut (x := z) ?_ (fun _ => ?_); rotate_left; clear_value z; revert z; intro _ _; rotate_left; unfold z; clear z)
    | (extract_lets +onlyGivenNames z; guard_hyp z : State → _ → State := _; refine Rg.cutF₂ (f := z) ?_ (fun _ => ?_); rotate_left; clear_value z; revert z; intro _ _; rotate_left; unfold z; clear z; intro _ _ _; beta_reduce)
    | (extract_lets +onlyGivenNames z; clear_value z; revert z; intro _)
    | with_reducible refine rg_suspectUp (Fr.sub (V := 42552) rfl hw) ?_
    | with_reducible refine Rg.bump (Fr.bit hw rfl) ?_
    | with_reducible refine Rg.bump (Fr.bit hw (by rw [blk_WVR_RW_DISAGREE]; decide)) ?_
    | with_reducible refine rg_dropSample ?_
    | with_reducible refine rg_replaceOutput hw ?_
    | with_reducible refine Rg.setRegs hw (by simp only [List.length_cons, List.length_nil]; decide) ?_
    | with_reducible refine rg_raise (Fr.sub (V := 42552) rfl hw) ?_
    | with_reducible apply Rg.ite
    | with_reducible apply Rg.ite₂
    | split
    | with_reducible apply_assumption

theorem rg_completePass {W : Nat} {s0 : State} {s : State} {w : Nat} {kind : PassKind} {errs : List Sys2Proof.WordFlip} (hw : 42524 ||| W = W) (hs : Rg W s0 s) :
    Rg W s0 (State.completePass s w kind errs) := by
  unfold State.completePass
  repeat' first
    | with_reducible assumption
    | with_reducible refine rg_decodeFails (Fr.sub (V := 42524) rfl hw) ?_
    | with_reducible refine rg_passDone (Fr.sub (V := 42524) rfl hw) ?_
    | split

theorem rg_seekDensity_eq {W : Nat} {s0 : State} {w : Nat} {a : List (Nat × Int × Int)} {a2 : State} (hw : 42556 ||| W = W) (ha2 : Rg W s0 a2) {s' : State} {x'} (e' : State.seekDensity w a a2 = (s', x')) :
    Rg W s0 s' := by
  induction a generalizing w a2 with
  | nil =>
    unfold State.seekDensity at e'
    repeat' first
      | with_reducible assumption
      | ((with_reducible refine Rg.of_pair ?_ e'); clear e')
  | cons y l ih =>
    unfold State.seekDensity at e'
    repeat' first
      | with_reducible assumption
      | (extract_lets +onlyGivenNames z at e'; clear_value z; revert z; intro _ e')
      | split at e'
      | refine ih ?_ (by with_reducible assumption)
      | with_reducible refine rg_needTile (Fr.sub (V := 42556) rfl hw) ?_
      | with_reducible refine rg_zeroDensity (Fr.sub (V := 42556) rfl hw) ?_
      | with_reducible refine rg_wantBin (Fr.sub (V := 42556) rfl hw) ?_
      | ((with_reducible refine Rg.of_pair ?_ e'); clear e')

theorem rg_seekDensity {W : Nat} {s0 : State} {w : Nat} {a : List (Nat × Int × Int)} {a2 : State} (hw : 42556 ||| W = W) (ha2 : Rg W s0 a2) : Rg W s0 (State.seekDensity w a a2).1 :=
  Rg.of_eq fun _ _ e' => rg_seekDensity_eq hw ha2 e'

theorem rg_sampleDone {W : Nat} {s0 : State} {s : State} {w : Nat} {p : Pass} {sig : Option Nat} (hw : 42552 ||| W = W) (hs : Rg W s0 s) :
    Rg W s0 (State.sampleDone s w p sig) := by
  unfold State.sampleDone
  repeat' first
    | intro _
    | with_reducible assumption
    | (extract_lets +onlyGivenNames z; guard_hyp z : State := _; refine Rg.cut (x := z) ?_ (fun _ => ?_); rotate_left; clear_value z; revert z; intro _ _; rotate_left; unfold z; clear z)
    | with_reducible refine rg_modWeaver ?_
    | with_reducible refine rg_figTouch (Fr.sub (V := 42552) rfl hw) ?_
    | with_reducible refine Rg.bump (Fr.bit hw (by rw [blk_WVR_PASSES]; decide)) ?_
    | with_reducible refine Rg.bump (Fr.bit hw (by rw [blk_WVR_RW_AGREE]; decide)) ?_
    | with_reducible refine rg_settleSample hw ?_
    | with_reducible refine rg_voidSample (Fr.sub (V := 42552) rfl hw) ?_
    | with_reducible refine rg_dropSample ?_
    | with_reducible refine rg_modSample ?_
    | with_reducible apply Rg.ite
    | split

theorem rg_expireSamples {W : Nat} {s0 : State} {s : State} (hw : 42552 ||| W = W) (hs : Rg W s0 s) :
    Rg W s0 (State.expireSamples s) := by
  unfold State.expireSamples
  repeat' first
    | intro _
    | with_reducible assumption
    | with_reducible refine rg_voidSample (Fr.sub (V := 42552) rfl hw) ?_
    | with_reducible refine rg_settleSample hw ?_
    | with_reducible apply Rg.ite
    | with_reducible apply Rg.foldl
    | split

theorem rg_giveUp {W : Nat} {s0 : State} {s : State} {w : Nat} {p : Pass} (hw : 42552 ||| W = W) (hs : Rg W s0 s) :
    Rg W s0 (State.giveUp s w p) := by
  unfold State.giveUp
  repeat' first
    | intro _
    | with_reducible assumption
    | (extract_lets +onlyGivenNames z; guard_hyp z : State := _; refine Rg.cut (x := z) ?_ (fun _ => ?_); rotate_left; clear_value z; revert z; intro _ _; rotate_left; unfold z; clear z)
    | with_reducible refine rg_modWeaver ?_
    | with_reducible refine rg_settleSample hw ?_
    | with_reducible refine rg_voidSample (Fr.sub (V := 42552) rfl hw) ?_
    | with_reducible apply Rg.ite
    | split

theorem rg_execDensityPassDone {W : Nat} {s0 : State} {w : Nat} {errs : List Sys2Proof.WordFlip} {s : State} (hw : 42524 ||| W = W) (hs : Rg W s0 s) :
    RgO W s0 (execDensityPassDone w errs s) := by
  unfold execDensityPassDone
  repeat' first
    | with_reducible assumption
    | with_reducible refine rg_finish (Fr.sub (V := 42524) rfl hw) ?_ ?_
    | with_reducible refine rg_completePass hw ?_

theorem rg_execPixelPassDone {W : Nat} {s0 : State} {w : Nat} {errs : List Sys2Proof.WordFlip} {s : State} (hw : 42524 ||| W = W) (hs : Rg W s0 s) :
    RgO W s0 (execPixelPassDone w errs s) := by
  unfold execPixelPassDone
  repeat' first
    | with_reducible assumption
    | with_reducible refine rg_finish (Fr.sub (V := 42524) rfl hw) ?_ ?_
    | with_reducible refine rg_completePass hw ?_

theorem rg_seekWork_eq {W : Nat} {s0 : State} {s : State} {w : Nat} (hw : 42556 ||| W = W) (hs : Rg W s0 s) {s' : State} {x'} (e' : State.seekWork s w = (s', x')) :
    Rg W s0 s' := by
  unfold State.seekWork at e'
  repeat' first
    | with_reducible assumption
    | split at e'
    | refine rg_seekDensity_eq hw ?_ (by with_reducible assumption)
    | refine rg_seekPixel_eq (Fr.sub (V := 42556) rfl hw) ?_ (by with_reducible assumption)
    | ((with_reducible refine Rg.of_pair ?_ e'); clear e')

theorem rg_seekWork {W : Nat} {s0 : State} {s : State} {w : Nat} (hw : 42556 ||| W = W) (hs : Rg W s0 s) : Rg W s0 (State.seekWork s w).1 :=
  Rg.of_eq fun _ _ e' => rg_seekWork_eq hw hs e'

theorem rg_completeSample {W : Nat} {s0 : State} {s : State} {w : Nat} {kind : PassKind} {errs : List Sys2Proof.WordFlip} (hw : 42552 ||| W = W) (hs : Rg W s0 s) :
    Rg W s0 (State.completeSample s w kind errs) := by
  unfold State.completeSample
  repeat' first
    | with_reducible assumption
    | with_reducible refine rg_sampleDone hw ?_
    | split

theorem rg_execReweaveHoldExpiry {W : Nat} {s0 : State} {t : Nat} {s : State} (hw : 42552 ||| W = W) (hs : Rg W s0 s) :
    RgO W s0 (execReweaveHoldExpiry t s) := by
  unfold execReweaveHoldExpiry
  repeat' first
    | with_reducible assumption
    | with_reducible refine rg_finish (Fr.sub (V := 42552) rfl hw) ?_ ?_
    | with_reducible refine rg_expireSamples hw ?_
    | with_reducible refine rg_at_ ?_

theorem rg_takePass {W : Nat} {s0 : State} {s : State} {w : Nat} (hw : 42556 ||| W = W) (hs : Rg W s0 s) :
    Rg W s0 (State.takePass s w) := by
  unfold State.takePass
  repeat' first
    | intro _
    | with_reducible assumption
    | (extract_lets +onlyGivenNames z; guard_hyp z : State := _; refine Rg.cut (x := z) ?_ (fun _ => ?_); rotate_left; clear_value z; revert z; intro _ _; rotate_left; unfold z; clear z)
    | (extract_lets +onlyGivenNames z; clear_value z; revert z; intro _)
    | with_reducible refine rg_ensureNext (Fr.sub (V := 42556) rfl hw) ?_
    | with_reducible refine rg_issuePass (Fr.sub (V := 42556) rfl hw) ?_
    | with_reducible refine rg_issueSample ?_
    | with_reducible refine rg_giveUp (Fr.sub (V := 42556) rfl hw) ?_
    | with_reducible apply Rg.ite
    | refine rg_seekWork_eq hw ?_ (by with_reducible assumption)
    | split

theorem rg_execArbiterDone {W : Nat} {s0 : State} {w : Nat} {errs : List Sys2Proof.WordFlip} {s : State} (hw : 42552 ||| W = W) (hs : Rg W s0 s) :
    RgO W s0 (execArbiterDone w errs s) := by
  unfold execArbiterDone
  repeat' first
    | with_reducible assumption
    | with_reducible refine rg_finish (Fr.sub (V := 42552) rfl hw) ?_ ?_
    | with_reducible refine rg_completeSample hw ?_

theorem rg_execReweaveDone {W : Nat} {s0 : State} {w : Nat} {errs : List Sys2Proof.WordFlip} {s : State} (hw : 42552 ||| W = W) (hs : Rg W s0 s) :
    RgO W s0 (execReweaveDone w errs s) := by
  unfold execReweaveDone
  repeat' first
    | with_reducible assumption
    | with_reducible refine rg_finish (Fr.sub (V := 42552) rfl hw) ?_ ?_
    | with_reducible refine rg_completeSample hw ?_

theorem rg_execWeaverTakePass {W : Nat} {s0 : State} {w : Nat} {s : State} (hw : 42556 ||| W = W) (hs : Rg W s0 s) :
    RgO W s0 (execWeaverTakePass w s) := by
  unfold execWeaverTakePass
  repeat' first
    | intro _
    | with_reducible assumption
    | with_reducible refine rg_finish (Fr.sub (V := 42556) rfl hw) ?_ ?_
    | with_reducible refine rg_takePass hw ?_
    | with_reducible apply Rg.ite

/-! Correction. -/

theorem rg_correctedSlice {W : Nat} {s0 : State} {s : State} {k : Work} {w : Nat} {l : List Nat} (hs : Rg W s0 s) :
    Rg W s0 (State.correctedSlice s k w l) := by
  unfold State.correctedSlice
  repeat' first
    | intro _
    | with_reducible assumption
    | (extract_lets +onlyGivenNames z; guard_hyp z : State := _; refine Rg.cut (x := z) ?_ (fun _ => ?_); rotate_left; clear_value z; revert z; intro _ _; rotate_left; unfold z; clear z)
    | (extract_lets +onlyGivenNames z; clear_value z; revert z; intro _)
    | with_reducible refine rg_modWork ?_
    | with_reducible apply Rg.ite
    | (with_reducible refine Rg.of ?_); with_reducible assumption
    | split

theorem rg_corHalt {W : Nat} {s0 : State} {s : State} {reason : Nat} {k : Work} {w : Nat} (hw : 40976 ||| W = W) (hs : Rg W s0 s) :
    Rg W s0 (State.corHalt s reason k w) := by
  unfold State.corHalt
  repeat' first
    | with_reducible assumption
    | (extract_lets +onlyGivenNames z; guard_hyp z : State := _; refine Rg.cut (x := z) ?_ (fun _ => ?_); rotate_left; clear_value z; revert z; intro _ _; rotate_left; unfold z; clear z)
    | (extract_lets +onlyGivenNames z; clear_value z; revert z; intro _)
    | with_reducible refine rg_corLog hw ?_
    | (with_reducible refine Rg.of ?_); with_reducible assumption

theorem rg_execCorResume {W : Nat} {s0 : State} {s : State} (hw : 45056 ||| W = W) (hs : Rg W s0 s) :
    RgO W s0 (execCorResume s) := by
  unfold execCorResume
  repeat' first
    | intro _
    | with_reducible assumption
    | (extract_lets +onlyGivenNames z; clear_value z; revert z; intro _)
    | with_reducible refine rg_finish (Fr.sub (V := 45056) rfl hw) ?_ ?_
    | with_reducible refine rg_command (Fr.sub (V := 45056) rfl hw) ?_ ?_
    | (with_reducible refine Rg.of ?_); with_reducible assumption

theorem rg_corTouch {W : Nat} {s0 : State} {s : State} {k : Work} {pg : Page} {y : Nat} {density : Bool} (hw : 42496 ||| W = W) (hs : Rg W s0 s) :
    Rg W s0 (State.corTouch s k pg y density) := by
  unfold State.corTouch
  repeat' first
    | intro _
    | with_reducible assumption
    | (extract_lets +onlyGivenNames z; guard_hyp z : State := _; refine Rg.cut (x := z) ?_ (fun _ => ?_); rotate_left; clear_value z; revert z; intro _ _; rotate_left; unfold z; clear z)
    | (extract_lets +onlyGivenNames z; clear_value z; revert z; intro _)
    | with_reducible refine rg_touch hw ?_
    | with_reducible apply Rg.ite
    | with_reducible apply Rg.foldl

theorem rg_prepareDensity {W : Nat} {s0 : State} {s : State} {k : Work} {y : Nat} (hw : 42512 ||| W = W) (hs : Rg W s0 s) :
    Rg W s0 (State.prepareDensity s k y) := by
  unfold State.prepareDensity
  repeat' first
    | intro _
    | with_reducible assumption
    | with_reducible refine rg_rebuildRows (Fr.sub (V := 42512) rfl hw) ?_
    | with_reducible refine rg_dmapPoison hw ?_
    | with_reducible refine rg_fillB hw ?_
    | with_reducible apply Rg.ite
    | split

theorem rg_correctSlice {W : Nat} {s0 : State} {s : State} {k : Work} {b : Bool} {w : Nat} (hw : 42512 ||| W = W) (hs : Rg W s0 s) :
    Rg W s0 (State.correctSlice s k b w) := by
  unfold State.correctSlice
  repeat' first
    | intro _
    | with_reducible assumption
    | (extract_lets +onlyGivenNames z; guard_hyp z : State := _; refine Rg.cut (x := z) ?_ (fun _ => ?_); rotate_left; clear_value z; revert z; intro _ _; rotate_left; unfold z; clear z)
    | (extract_lets +onlyGivenNames z; clear_value z; revert z; intro _)
    | with_reducible refine rg_corHalt (Fr.sub (V := 42512) rfl hw) ?_
    | with_reducible refine rg_prepareDensity hw ?_
    | with_reducible refine rg_corTouch (Fr.sub (V := 42512) rfl hw) ?_
    | with_reducible refine Rg.bumpBy (Fr.bit hw rfl) ?_
    | with_reducible refine Rg.setReg (Fr.bit hw rfl) ?_
    | with_reducible refine rg_correctedSlice ?_
    | with_reducible apply Rg.ite
    | (with_reducible refine Rg.of ?_); with_reducible assumption

theorem rg_execCorrectSlice {W : Nat} {s0 : State} {stripe : Nat} {w : Nat} {s : State} (hw : 42512 ||| W = W) (hs : Rg W s0 s) :
    RgO W s0 (execCorrectSlice stripe w s) := by
  unfold execCorrectSlice
  repeat' first
    | intro _
    | with_reducible assumption
    | with_reducible refine rg_finish (Fr.sub (V := 42512) rfl hw) ?_ ?_
    | with_reducible refine rg_correctSlice hw ?_
    | with_reducible apply Rg.ite
    | split

theorem rg_execBindActive {W : Nat} {s0 : State} {s : State} (hw : 46608 ||| W = W) (hs : Rg W s0 s) :
    RgO W s0 (execBindActive s) := by
  unfold execBindActive
  repeat' first
    | intro _
    | with_reducible assumption
    | (extract_lets +onlyGivenNames z; clear_value z; revert z; intro _)
    | with_reducible refine rg_finish (Fr.sub (V := 46608) rfl hw) ?_ ?_
    | with_reducible refine rg_command (Fr.sub (V := 46608) rfl hw) ?_ ?_
    | with_reducible refine rg_bindNext (Fr.sub (V := 46608) rfl hw) ?_
    | with_reducible apply Rg.ite
    | (with_reducible refine Rg.of ?_); with_reducible assumption

theorem rg_execBindNextStripe {W : Nat} {s0 : State} {s : State} (hw : 42512 ||| W = W) (hs : Rg W s0 s) :
    RgO W s0 (execBindNextStripe s) := by
  unfold execBindNextStripe
  repeat' first
    | with_reducible assumption
    | with_reducible refine rg_finish (Fr.sub (V := 42512) rfl hw) ?_ ?_
    | with_reducible refine rg_bindNext hw ?_

/-! Staging. -/

theorem rg_modStaged {W : Nat} {s0 : State} {s : State} {n : Nat} {f : Staged → Staged} (hs : Rg W s0 s) :
    Rg W s0 (State.modStaged s n f) := by
  unfold State.modStaged
  repeat' first
    | (extract_lets +onlyGivenNames z; clear_value z; revert z; intro _)
    | (with_reducible refine Rg.of ?_); with_reducible assumption

theorem rg_setHint {W : Nat} {s0 : State} {s : State} {v : Nat} (hw : 160 ||| W = W) (hs : Rg W s0 s) :
    Rg W s0 (State.setHint s v) := by
  unfold State.setHint
  repeat' first
    | with_reducible assumption
    | with_reducible refine Rg.setReg (Fr.bit hw rfl) ?_

theorem rg_groupCoded {W : Nat} {s0 : State} {s : State} {k : Work} {x2 : SliceOut} (hw : 32 ||| W = W) (hs : Rg W s0 s) :
    Rg W s0 (State.groupCoded s k x2) := by
  unfold State.groupCoded
  repeat' first
    | intro _
    | with_reducible assumption
    | (extract_lets +onlyGivenNames z; guard_hyp z : State := _; refine Rg.cut (x := z) ?_ (fun _ => ?_); rotate_left; clear_value z; revert z; intro _ _; rotate_left; unfold z; clear z)
    | (extract_lets +onlyGivenNames z; clear_value z; revert z; intro _)
    | with_reducible refine rg_modWork ?_
    | with_reducible refine Rg.bump (Fr.bit hw rfl) ?_
    | with_reducible apply Rg.ite

theorem rg_writeData {W : Nat} {s0 : State} {s : State} {n : Nat} {data : List Sys2Proof.Byte} {chunks : List Nat} (hw : 1536 ||| W = W) (hs : Rg W s0 s) :
    Rg W s0 (State.writeData s n data chunks) := by
  unfold State.writeData
  repeat' first
    | intro _
    | with_reducible assumption
    | (extract_lets +onlyGivenNames z; guard_hyp z : State := _; refine Rg.cut (x := z) ?_ (fun _ => ?_); rotate_left; clear_value z; revert z; intro _ _; rotate_left; unfold z; clear z)
    | (extract_lets +onlyGivenNames z; clear_value z; revert z; intro _)
    | with_reducible refine rg_memWrite hw ?_
    | with_reducible apply Rg.foldl

theorem rg_releaseHint {W : Nat} {s0 : State} {s : State} (hw : 41120 ||| W = W) (hs : Rg W s0 s) :
    Rg W s0 (State.releaseHint s) := by
  unfold State.releaseHint
  repeat' first
    | intro _
    | with_reducible assumption
    | (extract_lets +onlyGivenNames z; clear_value z; revert z; intro _)
    | with_reducible refine rg_raise (Fr.sub (V := 41120) rfl hw) ?_
    | with_reducible refine rg_setHint (Fr.sub (V := 41120) rfl hw) ?_
    | with_reducible apply Rg.ite
    | (with_reducible refine Rg.of ?_); with_reducible assumption

theorem rg_takeChunk {W : Nat} {s0 : State} {a : Nat} {a1 : State} {a2 : Nat} (hw : 1536 ||| W = W) (ha1 : Rg W s0 a1) :
    Rg W s0 (State.takeChunk a a1 a2) := by
  induction a generalizing a1 a2 with
  | zero =>
    unfold State.takeChunk
    repeat' (with_reducible assumption)
  | succ n ih =>
    unfold State.takeChunk
    repeat' first
      | intro _
      | with_reducible assumption
      | (extract_lets +onlyGivenNames z; guard_hyp z : State := _; refine Rg.cut (x := z) ?_ (fun _ => ?_); rotate_left; clear_value z; revert z; intro _ _; rotate_left; unfold z; clear z)
      | (extract_lets +onlyGivenNames z; clear_value z; revert z; intro _)
      | with_reducible apply ih
      | with_reducible refine rg_memWrite64 hw ?_
      | with_reducible apply Rg.ite
      | (with_reducible refine Rg.of ?_); with_reducible assumption

theorem rg_projectHint {W : Nat} {s0 : State} {s : State} (hw : 41120 ||| W = W) (hs : Rg W s0 s) :
    Rg W s0 (State.projectHint s) := by
  unfold State.projectHint
  repeat' first
    | intro _
    | with_reducible assumption
    | (extract_lets +onlyGivenNames z; guard_hyp z : State := _; refine Rg.cut (x := z) ?_ (fun _ => ?_); rotate_left; clear_value z; revert z; intro _ _; rotate_left; unfold z; clear z)
    | (extract_lets +onlyGivenNames z; clear_value z; revert z; intro _)
    | with_reducible refine Rg.setReg (Fr.bit hw rfl) ?_
    | with_reducible refine rg_releaseHint hw ?_
    | with_reducible refine rg_setHint (Fr.sub (V := 41120) rfl hw) ?_
    | with_reducible refine rg_raise (Fr.sub (V := 41120) rfl hw) ?_
    | with_reducible refine Rg.bump (Fr.bit hw rfl) ?_
    | with_reducible apply Rg.ite
    | (with_reducible refine Rg.of ?_); with_reducible assumption

theorem rg_takeChunks {W : Nat} {s0 : State} {a : Nat} {a1 : State} {a2 : Nat} (hw : 1536 ||| W = W) (ha1 : Rg W s0 a1) :
    Rg W s0 (State.takeChunks a a1 a2) := by
  induction a generalizing a1 a2 with
  | zero =>
    unfold State.takeChunks
    repeat' (with_reducible assumption)
  | succ n ih =>
    unfold State.takeChunks
    repeat' first
      | intro _
      | with_reducible assumption
      | (extract_lets +onlyGivenNames z; guard_hyp z : State := _; refine Rg.cut (x := z) ?_ (fun _ => ?_); rotate_left; clear_value z; revert z; intro _ _; rotate_left; unfold z; clear z)
      | with_reducible apply ih
      | with_reducible refine rg_takeChunk hw ?_
      | with_reducible apply Rg.ite

theorem rg_execHintProjection {W : Nat} {s0 : State} {t : Nat} {s : State} (hw : 41120 ||| W = W) (hs : Rg W s0 s) :
    RgO W s0 (execHintProjection t s) := by
  unfold execHintProjection
  repeat' first
    | with_reducible assumption
    | with_reducible refine rg_finish (Fr.sub (V := 41120) rfl hw) ?_ ?_
    | with_reducible refine rg_projectHint hw ?_
    | with_reducible refine rg_at_ ?_

theorem rg_yieldReplay {W : Nat} {s0 : State} {a : Nat} {a1 : State} (hw : 1576 ||| W = W) (ha1 : Rg W s0 a1) :
    Rg W s0 (State.yieldReplay a a1) := by
  induction a generalizing a1 with
  | zero =>
    unfold State.yieldReplay
    repeat' (with_reducible assumption)
  | succ n ih =>
    unfold State.yieldReplay
    repeat' first
      | intro _
      | with_reducible assumption
      | with_reducible apply ih
      | with_reducible refine Rg.bump (Fr.bit hw rfl) ?_
      | with_reducible refine rg_releaseTo (Fr.sub (V := 1576) rfl hw) ?_
      | with_reducible apply Rg.ite
      | split

theorem rg_releaseReplay {W : Nat} {s0 : State} {s : State} (hw : 1544 ||| W = W) (hs : Rg W s0 s) :
    Rg W s0 (State.releaseReplay s) := by
  unfold State.releaseReplay
  repeat' first
    | with_reducible assumption
    | (extract_lets +onlyGivenNames z; clear_value z; revert z; intro _)
    | with_reducible refine rg_releaseTo hw ?_
    | split

theorem rg_fpPoison {W : Nat} {s0 : State} {s : State} {n : Nat} (hw : 42528 ||| W = W) (hs : Rg W s0 s) :
    Rg W s0 (State.fpPoison s n) := by
  unfold State.fpPoison
  repeat' first
    | intro _
    | with_reducible assumption
    | (extract_lets +onlyGivenNames z; guard_hyp z : State := _; refine Rg.cut (x := z) ?_ (fun _ => ?_); rotate_left; clear_value z; revert z; intro _ _; rotate_left; unfold z; clear z)
    | (extract_lets +onlyGivenNames z; clear_value z; revert z; intro _)
    | with_reducible refine rg_invalidateRows hw ?_
    | with_reducible refine rg_modStaged ?_
    | with_reducible refine rg_stgLog (Fr.sub (V := 42528) rfl hw) ?_
    | with_reducible apply Rg.ite
    | (with_reducible refine Rg.of ?_); with_reducible assumption
    | split

theorem rg_stagingPoison {W : Nat} {s0 : State} {s : State} {n : Nat} {check : Bool} (hw : 42528 ||| W = W) (hs : Rg W s0 s) :
    Rg W s0 (State.stagingPoison s n check) := by
  unfold State.stagingPoison
  repeat' first
    | intro _
    | with_reducible assumption
    | (extract_lets +onlyGivenNames z; guard_hyp z : State := _; refine Rg.cut (x := z) ?_ (fun _ => ?_); rotate_left; clear_value z; revert z; intro _ _; rotate_left; unfold z; clear z)
    | (extract_lets +onlyGivenNames z; clear_value z; revert z; intro _)
    | with_reducible refine rg_raise (Fr.sub (V := 42528) rfl hw) ?_
    | with_reducible refine Rg.bump (Fr.bit hw rfl) ?_
    | with_reducible refine rg_stgLog (Fr.sub (V := 42528) rfl hw) ?_
    | with_reducible refine rg_modStaged ?_
    | with_reducible refine rg_invalidateRows hw ?_
    | with_reducible apply Rg.ite
    | split

theorem rg_yields {W : Nat} {s0 : State} {s : State} (hw : 1576 ||| W = W) (hs : Rg W s0 s) :
    Rg W s0 (State.yields s) := by
  unfold State.yields
  repeat' first
    | with_reducible assumption
    | with_reducible refine rg_yieldReplay hw ?_

theorem rg_expand {W : Nat} {s0 : State} {s : State} {n : Nat} (hw : 42528 ||| W = W) (hs : Rg W s0 s) :
    Rg W s0 (State.expand s n) := by
  unfold State.expand
  repeat' first
    | intro _
    | with_reducible assumption
    | (extract_lets +onlyGivenNames z; guard_hyp z : State := _; refine Rg.cut (x := z) ?_ (fun _ => ?_); rotate_left; clear_value z; revert z; intro _ _; rotate_left; unfold z; clear z)
    | (extract_lets +onlyGivenNames z; clear_value z; revert z; intro _)
    | with_reducible refine rg_touch (Fr.sub (V := 42528) rfl hw) ?_
    | with_reducible refine rg_stagingPoison hw ?_
    | with_reducible refine rg_modStaged ?_
    | with_reducible refine rg_memWrite (Fr.sub (V := 42528) rfl hw) ?_
    | with_reducible apply Rg.ite
    | with_reducible apply Rg.foldl
    | (with_reducible refine Rg.of ?_); with_reducible assumption
    | split

theorem rg_codeSlice {W : Nat} {s0 : State} {s : State} {k : Work} {nb : Nat} {x3 : SliceOut} (hw : 42664 ||| W = W) (hs : Rg W s0 s) :
    Rg W s0 (State.codeSlice s k nb x3) := by
  unfold State.codeSlice
  repeat' first
    | intro _
    | with_reducible assumption
    | (extract_lets +onlyGivenNames z; guard_hyp z : State := _; refine Rg.cut (x := z) ?_ (fun _ => ?_); rotate_left; clear_value z; revert z; intro _ _; rotate_left; unfold z; clear z)
    | (extract_lets +onlyGivenNames z; clear_value z; revert z; intro _)
    | with_reducible refine rg_groupCoded (Fr.sub (V := 42664) rfl hw) ?_
    | with_reducible refine rg_yields (Fr.sub (V := 42664) rfl hw) ?_
    | with_reducible refine rg_takeChunks (Fr.sub (V := 42664) rfl hw) ?_
    | with_reducible refine Rg.bump (Fr.bit hw rfl) ?_
    | with_reducible refine rg_memWrite (Fr.sub (V := 42664) rfl hw) ?_
    | with_reducible refine rg_writeData (Fr.sub (V := 42664) rfl hw) ?_
    | with_reducible refine Rg.bumpBy (Fr.bit hw rfl) ?_
    | with_reducible refine rg_stgLog (Fr.sub (V := 42664) rfl hw) ?_
    | with_reducible refine rg_releaseHint (Fr.sub (V := 42664) rfl hw) ?_
    | with_reducible apply Rg.ite
    | (with_reducible refine Rg.of ?_); with_reducible assumption

theorem rg_execExpandSlice {W : Nat} {s0 : State} {n : Nat} {s : State} (hw : 42528 ||| W = W) (hs : Rg W s0 s) :
    RgO W s0 (execExpandSlice n s) := by
  unfold execExpandSlice
  repeat' first
    | with_reducible assumption
    | with_reducible refine rg_finish (Fr.sub (V := 42528) rfl hw) ?_ ?_
    | with_reducible refine rg_expand hw ?_

theorem rg_encode {W : Nat} {s0 : State} {s : State} {id : Nat} {w : Nat} (hw : 42664 ||| W = W) (hs : Rg W s0 s) :
    Rg W s0 (State.encode s id w) := by
  unfold State.encode
  repeat' first
    | intro _
    | with_reducible assumption
    | with_reducible refine rg_codeSlice hw ?_
    | with_reducible apply Rg.ite
    | split

theorem rg_execSliceCoded {W : Nat} {s0 : State} {stripe : Nat} {w : Nat} {s : State} (hw : 42664 ||| W = W) (hs : Rg W s0 s) :
    RgO W s0 (execSliceCoded stripe w s) := by
  unfold execSliceCoded
  repeat' first
    | with_reducible assumption
    | with_reducible refine rg_finish (Fr.sub (V := 42664) rfl hw) ?_ ?_
    | with_reducible refine rg_encode hw ?_
    | split

theorem rg_execEncoderResume {W : Nat} {s0 : State} {s : State} (hw : 42664 ||| W = W) (hs : Rg W s0 s) :
    RgO W s0 (execEncoderResume s) := by
  unfold execEncoderResume
  repeat' first
    | with_reducible assumption
    | with_reducible refine rg_finish (Fr.sub (V := 42664) rfl hw) ?_ ?_
    | with_reducible refine rg_encode hw ?_
    | split

end Sys2Proof.Laws
end

