-- ==== Sys2Proof/Laws/RegFrameRun.lean ====
section
/-! SUPPORT. The registers that the beam feed's ledger, the bound run and the memory channels leave as they were: one lemma for each operation and each command (see RegFrame). -/

namespace Sys2Proof.Laws

open Sys2Proof.Machine

/-! Run. -/

theorem rg_sendBlocks {W : Nat} {s0 : State} {s : State} {bs : List (Nat × Nat)} (hs : Rg W s0 s) :
    Rg W s0 (State.sendBlocks s bs) := by
  unfold State.sendBlocks
  repeat' first
    | (extract_lets +onlyGivenNames z; clear_value z; revert z; intro _)
    | (with_reducible refine Rg.of ?_); with_reducible assumption

theorem rg_failLane {W : Nat} {s0 : State} {s : State} {p : Nat} {code : Nat} {st : LaneState} (hw : 256 ||| W = W) (hs : Rg W s0 s) :
    Rg W s0 (State.failLane s p code st) := by
  unfold State.failLane
  repeat' first
    | with_reducible assumption
    | with_reducible refine Rg.setReg (Fr.bit hw (by rw [blk_LNK_LN_INJ]; decide)) ?_
    | with_reducible refine rg_modLane ?_

theorem rg_laneLost {W : Nat} {s0 : State} {s : State} {p : Nat} (hs : Rg W s0 s) :
    Rg W s0 (State.laneLost s p) := by
  unfold State.laneLost
  repeat' first
    | with_reducible assumption
    | with_reducible refine rg_histBump ?_

theorem rg_sendEnd {W : Nat} {s0 : State} {s : State} (hs : Rg W s0 s) :
    Rg W s0 (State.sendEnd s) := by
  unfold State.sendEnd
  repeat' first
    | intro _
    | with_reducible assumption
    | (extract_lets +onlyGivenNames z; guard_hyp z : State := _; refine Rg.cut (x := z) ?_ (fun _ => ?_); rotate_left; clear_value z; revert z; intro _ _; rotate_left; unfold z; clear z)
    | (extract_lets +onlyGivenNames z; clear_value z; revert z; intro _)
    | with_reducible refine rg_modRun ?_
    | with_reducible refine rg_sendBlocks ?_
    | with_reducible apply Rg.ite
    | (with_reducible refine Rg.of ?_); with_reducible assumption
    | split

theorem rg_trkLog {W : Nat} {s0 : State} {s : State} {code : Nat} {stop : Bool} (hw : 128 ||| W = W) (hs : Rg W s0 s) :
    Rg W s0 (State.trkLog s code stop) := by
  unfold State.trkLog
  repeat' first
    | with_reducible assumption
    | with_reducible refine Rg.setRegs hw (by simp only [List.length_cons, List.length_nil]; decide) ?_

theorem rg_lnkLog {W : Nat} {s0 : State} {s : State} {code : Nat} {lane : Nat} {llane : Nat} (hw : 256 ||| W = W) (hs : Rg W s0 s) :
    Rg W s0 (State.lnkLog s code lane llane) := by
  unfold State.lnkLog
  repeat' first
    | with_reducible assumption
    | with_reducible refine Rg.setRegs hw (by simp only [List.length_cons, List.length_nil]; decide) ?_
    | with_reducible refine Rg.bump (Fr.bit hw rfl) ?_

theorem rg_nakCount {W : Nat} {s0 : State} {s : State} {p : Nat} (hw : 256 ||| W = W) (hs : Rg W s0 s) :
    Rg W s0 (State.nakCount s p) := by
  unfold State.nakCount
  repeat' first
    | with_reducible assumption
    | with_reducible refine rg_laneLost ?_
    | with_reducible refine Rg.bump (Fr.bit hw rfl) ?_
    | with_reducible refine Rg.bump (Fr.bit hw (by rw [blk_LNK_LN_NAK]; decide)) ?_

theorem rg_laneDown {W : Nat} {s0 : State} {s : State} {l : Nat} {p : Nat} (hw : 256 ||| W = W) (hs : Rg W s0 s) :
    Rg W s0 (State.laneDown s l p) := by
  unfold State.laneDown
  repeat' first
    | (extract_lets +onlyGivenNames z; clear_value z; revert z; intro _)
    | with_reducible refine rg_lnkLog hw ?_
    | (with_reducible refine Rg.of ?_); with_reducible assumption

theorem rg_retireLane {W : Nat} {s0 : State} {s : State} {p : Nat} (hw : 8192 ||| W = W) (hs : Rg W s0 s) :
    Rg W s0 (State.retireLane s p) := by
  unfold State.retireLane
  repeat' first
    | with_reducible assumption
    | with_reducible refine rg_withyChange hw ?_
    | with_reducible refine rg_modLane ?_

theorem rg_writeEntry {W : Nat} {s0 : State} {s : State} {r : Run} {es : List HoleEntry} (hw : 1600 ||| W = W) (hs : Rg W s0 s) :
    Rg W s0 (State.writeEntry s r es) := by
  unfold State.writeEntry
  repeat' first
    | with_reducible assumption
    | with_reducible refine Rg.setReg (Fr.bit hw rfl) ?_
    | with_reducible refine rg_memWrite (Fr.sub (V := 1600) rfl hw) ?_
    | split

theorem rg_swapOut {W : Nat} {s0 : State} {s : State} {p : Nat} (hw : 8192 ||| W = W) (hs : Rg W s0 s) :
    Rg W s0 (State.swapOut s p) := by
  unfold State.swapOut
  repeat' first
    | intro _
    | with_reducible assumption
    | (extract_lets +onlyGivenNames z; guard_hyp z : State := _; refine Rg.cut (x := z) ?_ (fun _ => ?_); rotate_left; clear_value z; revert z; intro _ _; rotate_left; unfold z; clear z)
    | (extract_lets +onlyGivenNames z; clear_value z; revert z; intro _)
    | with_reducible refine rg_withyChange hw ?_
    | with_reducible refine rg_retireLane hw ?_
    | with_reducible apply Rg.ite

theorem rg_addShots {W : Nat} {s0 : State} {s : State} {n : Nat} (hw : 41024 ||| W = W) (hs : Rg W s0 s) :
    Rg W s0 (State.addShots s n) := by
  unfold State.addShots
  repeat' first
    | intro _
    | with_reducible assumption
    | with_reducible refine rg_once ?_ ?_
    | with_reducible refine rg_modRun ?_
    | with_reducible refine Rg.bumpBy (Fr.bit hw rfl) ?_
    | with_reducible refine rg_raise (Fr.sub (V := 41024) rfl hw) ?_
    | with_reducible apply Rg.ite

theorem rg_bmfLog {W : Nat} {s0 : State} {s : State} {reason : Nat} {quad : Nat} {tick : Nat} (hw : 41024 ||| W = W) (hs : Rg W s0 s) :
    Rg W s0 (State.bmfLog s reason quad tick) := by
  unfold State.bmfLog
  repeat' first
    | with_reducible assumption
    | with_reducible refine rg_raise (Fr.sub (V := 41024) rfl hw) ?_
    | with_reducible refine Rg.setRegs hw (by simp only [List.length_cons, List.length_nil]; decide) ?_
    | with_reducible refine Rg.bump (Fr.bit hw rfl) ?_

theorem rg_addShort {W : Nat} {s0 : State} {s : State} {n : Nat} (hw : 41024 ||| W = W) (hs : Rg W s0 s) :
    Rg W s0 (State.addShort s n) := by
  unfold State.addShort
  repeat' first
    | intro _
    | with_reducible assumption
    | with_reducible refine rg_once ?_ ?_
    | with_reducible refine rg_modRun ?_
    | with_reducible refine Rg.bumpBy (Fr.bit hw rfl) ?_
    | with_reducible refine rg_raise (Fr.sub (V := 41024) rfl hw) ?_
    | with_reducible apply Rg.ite

theorem rg_giveSpare {W : Nat} {s0 : State} {s : State} {l : Nat} {p : Nat} {sp : Nat} (hw : 41216 ||| W = W) (hs : Rg W s0 s) :
    Rg W s0 (State.giveSpare s l p sp) := by
  unfold State.giveSpare
  repeat' first
    | with_reducible assumption
    | (extract_lets +onlyGivenNames z; guard_hyp z : State := _; refine Rg.cut (x := z) ?_ (fun _ => ?_); rotate_left; clear_value z; revert z; intro _ _; rotate_left; unfold z; clear z)
    | (extract_lets +onlyGivenNames z; clear_value z; revert z; intro _)
    | (extract_lets +onlyGivenNames z; revert z; intro _)
    | with_reducible refine rg_modLane ?_
    | with_reducible refine rg_sendBlocks ?_
    | with_reducible refine rg_raise (Fr.sub (V := 41216) rfl hw) ?_
    | with_reducible refine rg_swapOut (Fr.sub (V := 41216) rfl hw) ?_
    | with_reducible refine Rg.bump (Fr.bit hw rfl) ?_
    | split

theorem rg_takeShorts {W : Nat} {s0 : State} {s : State} {m : HoleMark} (hw : 41024 ||| W = W) (hs : Rg W s0 s) :
    Rg W s0 (State.takeShorts s m) := by
  unfold State.takeShorts
  repeat' first
    | (extract_lets +onlyGivenNames z; clear_value z; revert z; intro _)
    | with_reducible refine rg_addShort hw ?_
    | (with_reducible refine Rg.of ?_); with_reducible assumption

theorem rg_holeRaw {W : Nat} {s0 : State} {s : State} {c : HoleCause} {k : Nat} {r0 : Nat} {r1 : Nat} (hw : 42560 ||| W = W) (hs : Rg W s0 s) :
    Rg W s0 (State.holeRaw s c k r0 r1) := by
  unfold State.holeRaw
  repeat' first
    | intro _
    | with_reducible assumption
    | (extract_lets +onlyGivenNames z; guard_hyp z : State := _; refine Rg.cut (x := z) ?_ (fun _ => ?_); rotate_left; clear_value z; revert z; intro _ _; rotate_left; unfold z; clear z)
    | (extract_lets +onlyGivenNames z; clear_value z; revert z; intro _)
    | with_reducible refine rg_takeShorts (Fr.sub (V := 42560) rfl hw) ?_
    | with_reducible refine rg_addShots (Fr.sub (V := 42560) rfl hw) ?_
    | with_reducible refine rg_writeEntry (Fr.sub (V := 42560) rfl hw) ?_
    | with_reducible refine rg_modRun ?_
    | with_reducible apply Rg.ite
    | (with_reducible refine Rg.of ?_); with_reducible assumption
    | split

theorem rg_truncateAt {W : Nat} {s0 : State} {s : State} {r : Run} {src : Nat} {t : Int} {stop : Bool} (hw : 41025 ||| W = W) (hs : Rg W s0 s) :
    Rg W s0 (State.truncateAt s r src t stop) := by
  unfold State.truncateAt
  repeat' first
    | intro _
    | with_reducible assumption
    | (extract_lets +onlyGivenNames z; guard_hyp z : State := _; refine Rg.cut (x := z) ?_ (fun _ => ?_); rotate_left; clear_value z; revert z; intro _ _; rotate_left; unfold z; clear z)
    | (extract_lets +onlyGivenNames z; clear_value z; revert z; intro _)
    | with_reducible refine Rg.setRegs hw (by simp only [List.length_cons, List.length_nil]; decide) ?_
    | with_reducible refine Rg.bump (Fr.bit hw rfl) ?_
    | with_reducible refine rg_modRun ?_
    | with_reducible refine rg_takeShorts (Fr.sub (V := 41025) rfl hw) ?_
    | with_reducible refine rg_addShots (Fr.sub (V := 41025) rfl hw) ?_
    | with_reducible refine rg_sendEnd ?_
    | with_reducible apply Rg.ite
    | (with_reducible refine Rg.of ?_); with_reducible assumption

theorem rg_closeRun {W : Nat} {s0 : State} {s : State} {r : Run} {ending : Nat} (hw : 43170 ||| W = W) (hs : Rg W s0 s) :
    Rg W s0 (State.closeRun s r ending) := by
  unfold State.closeRun
  repeat' first
    | with_reducible assumption
    | (extract_lets +onlyGivenNames z; guard_hyp z : State := _; refine Rg.cut (x := z) ?_ (fun _ => ?_); rotate_left; clear_value z; revert z; intro _ _; rotate_left; unfold z; clear z)
    | (extract_lets +onlyGivenNames z; clear_value z; revert z; intro _)
    | with_reducible refine rg_releaseHint (Fr.sub (V := 43170) rfl hw) ?_
    | with_reducible refine rg_tellRunEnd (Fr.sub (V := 43170) rfl hw) ?_
    | with_reducible refine rg_trigger (Fr.sub (V := 43170) rfl hw) ?_
    | (with_reducible refine Rg.of ?_); with_reducible assumption

theorem rg_endRun {W : Nat} {s0 : State} {s : State} (hw : 44770 ||| W = W) (hs : Rg W s0 s) :
    Rg W s0 (State.endRun s) := by
  unfold State.endRun
  repeat' first
    | intro _
    | with_reducible assumption
    | (extract_lets +onlyGivenNames z; guard_hyp z : State := _; refine Rg.cut (x := z) ?_ (fun _ => ?_); rotate_left; clear_value z; revert z; intro _ _; rotate_left; unfold z; clear z)
    | (extract_lets +onlyGivenNames z; clear_value z; revert z; intro _)
    | with_reducible refine rg_writeEntry (Fr.sub (V := 44770) rfl hw) ?_
    | with_reducible refine rg_modRun ?_
    | with_reducible refine rg_memWrite (Fr.sub (V := 44770) rfl hw) ?_
    | with_reducible refine rg_modWork ?_
    | with_reducible refine rg_keepPasses ?_
    | with_reducible refine rg_sweepWorks ?_
    | with_reducible refine rg_closeRun (Fr.sub (V := 44770) rfl hw) ?_
    | with_reducible apply Rg.ite
    | (with_reducible refine Rg.of ?_); with_reducible assumption
    | split

theorem rg_abandonRun {W : Nat} {s0 : State} {s : State} {r : Run} {src : Nat} (hw : 44707 ||| W = W) (hs : Rg W s0 s) :
    Rg W s0 (State.abandonRun s r src) := by
  unfold State.abandonRun
  repeat' first
    | with_reducible assumption
    | (extract_lets +onlyGivenNames z; guard_hyp z : State := _; refine Rg.cut (x := z) ?_ (fun _ => ?_); rotate_left; clear_value z; revert z; intro _ _; rotate_left; unfold z; clear z)
    | with_reducible refine rg_next ?_
    | with_reducible refine Rg.setRegs hw (by simp only [List.length_cons, List.length_nil]; decide) ?_
    | with_reducible refine Rg.bump (Fr.bit hw rfl) ?_
    | with_reducible refine rg_abandonWork (Fr.sub (V := 44707) rfl hw) ?_
    | with_reducible refine rg_closeRun (Fr.sub (V := 44707) rfl hw) ?_
    | split

theorem rg_truncate {W : Nat} {s0 : State} {s : State} {src : Nat} {t : Run → Int} {stop : Bool} (hw : 44771 ||| W = W) (hs : Rg W s0 s) :
    Rg W s0 (State.truncate s src t stop) := by
  unfold State.truncate
  repeat' first
    | intro _
    | with_reducible assumption
    | with_reducible refine rg_abandonRun (Fr.sub (V := 44771) rfl hw) ?_
    | with_reducible refine rg_truncateAt (Fr.sub (V := 44771) rfl hw) ?_
    | with_reducible apply Rg.ite
    | split

theorem rg_condition {W : Nat} {s0 : State} {s : State} {code : Nat} {same : optParam Bool Bool.false} (hw : 44771 ||| W = W) (hs : Rg W s0 s) :
    Rg W s0 (State.condition s code same) := by
  unfold State.condition
  repeat' first
    | intro _
    | with_reducible assumption
    | (extract_lets +onlyGivenNames z; guard_hyp z : State := _; refine Rg.cut (x := z) ?_ (fun _ => ?_); rotate_left; clear_value z; revert z; intro _ _; rotate_left; unfold z; clear z)
    | (extract_lets +onlyGivenNames z; clear_value z; revert z; intro _)
    | with_reducible refine rg_raise (Fr.sub (V := 44771) rfl hw) ?_
    | with_reducible refine rg_trkLog (Fr.sub (V := 44771) rfl hw) ?_
    | with_reducible refine Rg.setReg64 (Fr.bit hw rfl) (Fr.bit hw rfl) ?_
    | with_reducible refine rg_truncate hw ?_
    | with_reducible refine rg_modRun ?_
    | with_reducible apply Rg.ite
    | split

theorem rg_truncateNow {W : Nat} {s0 : State} {s : State} {src : Nat} (hw : 44771 ||| W = W) (hs : Rg W s0 s) :
    Rg W s0 (State.truncateNow s src) := by
  unfold State.truncateNow
  repeat' first
    | with_reducible assumption
    | with_reducible refine rg_truncate hw ?_

theorem rg_hole {W : Nat} {s0 : State} {s : State} {c : HoleCause} {k : Nat} {r0 : Nat} {r1 : Nat} (hw : 44771 ||| W = W) (hs : Rg W s0 s) :
    Rg W s0 (State.hole s c k r0 r1) := by
  unfold State.hole
  repeat' first
    | intro _
    | with_reducible assumption
    | (extract_lets +onlyGivenNames z; guard_hyp z : State := _; refine Rg.cut (x := z) ?_ (fun _ => ?_); rotate_left; clear_value z; revert z; intro _ _; rotate_left; unfold z; clear z)
    | with_reducible refine rg_holeRaw (Fr.sub (V := 44771) rfl hw) ?_
    | with_reducible refine rg_once ?_ ?_
    | with_reducible refine rg_truncateNow hw ?_
    | with_reducible refine rg_raise (Fr.sub (V := 44771) rfl hw) ?_
    | with_reducible refine rg_bmfLog (Fr.sub (V := 44771) rfl hw) ?_
    | with_reducible apply Rg.ite
    | split

theorem rg_frameLost {W : Nat} {s0 : State} {s : State} {l : Nat} {k : Nat} {rows : List (Nat × Nat)} (hw : 45027 ||| W = W) (hs : Rg W s0 s) :
    Rg W s0 (State.frameLost s l k rows) := by
  unfold State.frameLost
  repeat' first
    | intro _
    | with_reducible assumption
    | (extract_lets +onlyGivenNames z; guard_hyp z : State := _; refine Rg.cut (x := z) ?_ (fun _ => ?_); rotate_left; clear_value z; revert z; intro _ _; rotate_left; unfold z; clear z)
    | (extract_lets +onlyGivenNames z; clear_value z; revert z; intro _)
    | with_reducible refine Rg.bump (Fr.bit hw rfl) ?_
    | with_reducible refine rg_hole (Fr.sub (V := 45027) rfl hw) ?_
    | with_reducible refine rg_once ?_ ?_
    | with_reducible refine rg_raise (Fr.sub (V := 45027) rfl hw) ?_
    | with_reducible apply Rg.foldl
    | (with_reducible refine Rg.of ?_); with_reducible assumption

theorem rg_loseAll {W : Nat} {s0 : State} {s : State} {l : Nat} {p : Nat} (hw : 45027 ||| W = W) (hs : Rg W s0 s) :
    Rg W s0 (State.loseAll s l p) := by
  unfold State.loseAll
  repeat' first
    | intro _
    | with_reducible assumption
    | with_reducible refine rg_frameLost hw ?_
    | with_reducible refine rg_nakCount (Fr.sub (V := 45027) rfl hw) ?_
    | with_reducible apply Rg.foldl

theorem rg_laneFault {W : Nat} {s0 : State} {s : State} {p : Nat} {code : Nat} (hw : 45027 ||| W = W) (hs : Rg W s0 s) :
    Rg W s0 (State.laneFault s p code) := by
  unfold State.laneFault
  repeat' first
    | intro _
    | with_reducible assumption
    | (extract_lets +onlyGivenNames z; guard_hyp z : State := _; refine Rg.cut (x := z) ?_ (fun _ => ?_); rotate_left; clear_value z; revert z; intro _ _; rotate_left; unfold z; clear z)
    | (extract_lets +onlyGivenNames z; clear_value z; revert z; intro _)
    | with_reducible refine rg_failLane (Fr.sub (V := 45027) rfl hw) ?_
    | with_reducible refine rg_loseAll hw ?_
    | with_reducible refine rg_raise (Fr.sub (V := 45027) rfl hw) ?_
    | with_reducible refine rg_lnkLog (Fr.sub (V := 45027) rfl hw) ?_
    | with_reducible refine rg_laneDown (Fr.sub (V := 45027) rfl hw) ?_
    | with_reducible refine rg_giveSpare (Fr.sub (V := 45027) rfl hw) ?_
    | with_reducible refine rg_truncateNow (Fr.sub (V := 45027) rfl hw) ?_
    | with_reducible apply Rg.ite
    | (with_reducible refine Rg.of ?_); with_reducible assumption
    | split

theorem rg_frameNak {W : Nat} {s0 : State} {s : State} {l : Nat} {k : Nat} {rows : List (Nat × Nat)} (hw : 45027 ||| W = W) (hs : Rg W s0 s) :
    Rg W s0 (State.frameNak s l k rows) := by
  unfold State.frameNak
  repeat' first
    | intro _
    | with_reducible assumption
    | (extract_lets +onlyGivenNames z; guard_hyp z : State := _; refine Rg.cut (x := z) ?_ (fun _ => ?_); rotate_left; clear_value z; revert z; intro _ _; rotate_left; unfold z; clear z)
    | with_reducible refine rg_frameLost hw ?_
    | with_reducible refine rg_nakCount (Fr.sub (V := 45027) rfl hw) ?_
    | with_reducible refine rg_modLane ?_
    | with_reducible refine rg_laneFault hw ?_
    | with_reducible apply Rg.ite
    | split

theorem rg_lateFrames {W : Nat} {s0 : State} {s : State} {k : Nat} (hw : 45027 ||| W = W) (hs : Rg W s0 s) :
    Rg W s0 (State.lateFrames s k) := by
  unfold State.lateFrames
  repeat' first
    | intro _
    | with_reducible assumption
    | (extract_lets +onlyGivenNames z; guard_hyp z : State := _; refine Rg.cut (x := z) ?_ (fun _ => ?_); rotate_left; clear_value z; revert z; intro _ _; rotate_left; unfold z; clear z)
    | with_reducible refine rg_frameLost hw ?_
    | with_reducible refine Rg.bump (Fr.bit hw rfl) ?_
    | with_reducible refine rg_modLane ?_
    | with_reducible refine rg_laneLost ?_
    | with_reducible refine rg_laneFault hw ?_
    | with_reducible apply Rg.ite
    | with_reducible apply Rg.foldl
    | split

/-! Channels. -/

theorem rg_advanceScrub {W : Nat} {s0 : State} {s : State} {l : Nat} (hs : Rg W s0 s) :
    Rg W s0 (State.advanceScrub s l) := by
  unfold State.advanceScrub
  repeat' first
    | intro _
    | (extract_lets +onlyGivenNames z; guard_hyp z : Dram := _; revert z; intro _)
    | (extract_lets +onlyGivenNames z; clear_value z; revert z; intro _)
    | with_reducible apply Rg.ite
    | (with_reducible refine Rg.of ?_); with_reducible assumption

theorem rg_passWatch {W : Nat} {s0 : State} {s : State} {l : Nat} {b : Nat} {before : List Watch} (hs : Rg W s0 s) :
    Rg W s0 (State.passWatch s l b before) := by
  unfold State.passWatch
  repeat' first
    | (extract_lets +onlyGivenNames z; guard_hyp z : Dram := _; revert z; intro _)
    | (extract_lets +onlyGivenNames z; clear_value z; revert z; intro _)
    | (with_reducible refine Rg.of ?_); with_reducible assumption

theorem rg_refreshDue {W : Nat} {s0 : State} {s : State} {p : Nat} {pc : Nat} {busy : Bool} (hw : 512 ||| W = W) (hs : Rg W s0 s) :
    Rg W s0 (State.refreshDue s p pc busy) := by
  unfold State.refreshDue
  repeat' first
    | intro _
    | with_reducible assumption
    | (extract_lets +onlyGivenNames z; clear_value z; revert z; intro _)
    | with_reducible refine rg_modChan ?_
    | with_reducible refine Rg.bump (Fr.bit hw rfl) ?_
    | with_reducible apply Rg.ite

theorem rg_promoteScrub {W : Nat} {s0 : State} {s : State} {l : Nat} (hw : 1024 ||| W = W) (hs : Rg W s0 s) :
    Rg W s0 (State.promoteScrub s l) := by
  unfold State.promoteScrub
  repeat' first
    | intro _
    | with_reducible assumption
    | (extract_lets +onlyGivenNames z; guard_hyp z : Dram := _; revert z; intro _)
    | (extract_lets +onlyGivenNames z; clear_value z; revert z; intro _)
    | with_reducible refine rg_eccLog hw ?_
    | with_reducible apply Rg.ite
    | (with_reducible refine Rg.of ?_); with_reducible assumption

theorem rg_countFence {W : Nat} {s0 : State} {s : State} {p : Nat} (hw : 8192 ||| W = W) (hs : Rg W s0 s) :
    Rg W s0 (State.countFence s p) := by
  unfold State.countFence
  repeat' first
    | with_reducible assumption
    | with_reducible refine rg_withyChange hw ?_

theorem rg_failChan {W : Nat} {s0 : State} {s : State} {p : Nat} (hw : 8192 ||| W = W) (hs : Rg W s0 s) :
    Rg W s0 (State.failChan s p) := by
  unfold State.failChan
  repeat' first
    | with_reducible assumption
    | with_reducible refine rg_withyChange hw ?_
    | with_reducible refine rg_modChan ?_

theorem rg_autoRetire {W : Nat} {s0 : State} {s : State} {n : Nat} (hw : 9216 ||| W = W) (hs : Rg W s0 s) :
    Rg W s0 (State.autoRetire s n) := by
  unfold State.autoRetire
  repeat' first
    | intro _
    | with_reducible assumption
    | (extract_lets +onlyGivenNames z; clear_value z; revert z; intro _)
    | with_reducible refine Rg.bump (Fr.bit hw rfl) ?_
    | with_reducible refine rg_eccLog (Fr.sub (V := 9216) rfl hw) ?_
    | with_reducible refine rg_takeReplacement hw ?_
    | with_reducible apply Rg.ite
    | split

theorem rg_moveTo {W : Nat} {s0 : State} {s : State} {p : Nat} {sp : Nat} {l : Nat} (hw : 8192 ||| W = W) (hs : Rg W s0 s) :
    Rg W s0 (State.moveTo s p sp l) := by
  unfold State.moveTo
  repeat' first
    | with_reducible assumption
    | (extract_lets +onlyGivenNames z; guard_hyp z : State := _; refine Rg.cut (x := z) ?_ (fun _ => ?_); rotate_left; clear_value z; revert z; intro _ _; rotate_left; unfold z; clear z)
    | (extract_lets +onlyGivenNames z; guard_hyp z : Dram := _; revert z; intro _)
    | with_reducible refine rg_failChan hw ?_
    | with_reducible refine rg_modChan ?_
    | (with_reducible refine Rg.of ?_); with_reducible assumption

theorem rg_jobUe {W : Nat} {s0 : State} {s : State} {n : Nat} (hw : 1536 ||| W = W) (hs : Rg W s0 s) :
    Rg W s0 (State.jobUe s n) := by
  unfold State.jobUe
  repeat' first
    | intro _
    | with_reducible assumption
    | (extract_lets +onlyGivenNames z; clear_value z; revert z; intro _)
    | with_reducible refine rg_memWrite64 hw ?_
    | with_reducible apply Rg.ite

theorem rg_execRefreshDue {W : Nat} {s0 : State} {p : Nat} {pc : Nat} {busy : Bool} {s : State} (hw : 41472 ||| W = W) (hs : Rg W s0 s) :
    RgO W s0 (execRefreshDue p pc busy s) := by
  unfold execRefreshDue
  repeat' first
    | intro _
    | with_reducible assumption
    | with_reducible refine rg_finish (Fr.sub (V := 41472) rfl hw) ?_ ?_
    | with_reducible refine rg_refreshDue (Fr.sub (V := 41472) rfl hw) ?_
    | with_reducible apply Rg.ite

theorem rg_execWritebackQueue {W : Nat} {s0 : State} {p : Nat} {s : State} (hw : 41984 ||| W = W) (hs : Rg W s0 s) :
    RgO W s0 (execWritebackQueue p s) := by
  unfold execWritebackQueue
  repeat' first
    | intro _
    | with_reducible assumption
    | (extract_lets +onlyGivenNames z; guard_hyp z : State := _; refine Rg.cut (x := z) ?_ (fun _ => ?_); rotate_left; clear_value z; revert z; intro _ _; rotate_left; unfold z; clear z)
    | (extract_lets +onlyGivenNames z; guard_hyp z : Dram := _; revert z; intro _)
    | with_reducible refine rg_finish (Fr.sub (V := 41984) rfl hw) ?_ ?_
    | with_reducible refine rg_writeBack (Fr.sub (V := 41984) rfl hw) ?_
    | with_reducible apply Rg.ite
    | (with_reducible refine Rg.of ?_); with_reducible assumption
    | split

theorem rg_execMemChRetire {W : Nat} {s0 : State} {p : Nat} {s : State} (hw : 45056 ||| W = W) (hs : Rg W s0 s) :
    RgO W s0 (execMemChRetire p s) := by
  unfold execMemChRetire
  repeat' first
    | intro _
    | with_reducible assumption
    | with_reducible refine rg_finish (Fr.sub (V := 45056) rfl hw) ?_ ?_
    | with_reducible refine rg_command (Fr.sub (V := 45056) rfl hw) ?_ ?_
    | with_reducible refine rg_onlyIn (Fr.sub (V := 45056) rfl hw) ?_ ?_
    | with_reducible refine rg_withyChange (Fr.sub (V := 45056) rfl hw) ?_
    | with_reducible refine rg_modChan ?_
    | with_reducible refine rg_violation (Fr.sub (V := 45056) rfl hw) ?_
    | with_reducible apply Rg.ite

theorem rg_execEccFlipArm {W : Nat} {s0 : State} {v : Sys2Proof.Word} {s : State} (hw : 46080 ||| W = W) (hs : Rg W s0 s) :
    RgO W s0 (execEccFlipArm v s) := by
  unfold execEccFlipArm
  repeat' first
    | intro _
    | with_reducible assumption
    | with_reducible refine rg_finish (Fr.sub (V := 46080) rfl hw) ?_ ?_
    | with_reducible refine rg_command (Fr.sub (V := 46080) rfl hw) ?_ ?_
    | with_reducible refine rg_onlyIn (Fr.sub (V := 46080) rfl hw) ?_ ?_
    | with_reducible refine Rg.setReg (Fr.bit hw rfl) ?_
    | with_reducible apply Rg.ite

theorem rg_execPprGo {W : Nat} {s0 : State} {v : Sys2Proof.Word} {s : State} (hw : 45568 ||| W = W) (hs : Rg W s0 s) :
    RgO W s0 (execPprGo v s) := by
  unfold execPprGo
  repeat' first
    | intro _
    | with_reducible assumption
    | (extract_lets +onlyGivenNames z; guard_hyp z : Dram := _; revert z; intro _)
    | with_reducible refine rg_finish (Fr.sub (V := 45568) rfl hw) ?_ ?_
    | with_reducible refine rg_command (Fr.sub (V := 45568) rfl hw) ?_ ?_
    | with_reducible refine rg_violation (Fr.sub (V := 45568) rfl hw) ?_
    | with_reducible refine Rg.setReg (Fr.bit hw rfl) ?_
    | with_reducible apply Rg.ite
    | (with_reducible refine Rg.of ?_); with_reducible assumption

theorem rg_execPprDone {W : Nat} {s0 : State} {code : Nat} {s : State} (hw : 41472 ||| W = W) (hs : Rg W s0 s) :
    RgO W s0 (execPprDone code s) := by
  unfold execPprDone
  repeat' first
    | intro _
    | with_reducible assumption
    | (extract_lets +onlyGivenNames z; guard_hyp z : State := _; refine RgO.cut (x := z) ?_ (fun _ => ?_); rotate_left; clear_value z; revert z; intro _ _; rotate_left; unfold z; clear z)
    | (extract_lets +onlyGivenNames z; guard_hyp z : Dram := _; revert z; intro _)
    | with_reducible refine rg_finish (Fr.sub (V := 41472) rfl hw) ?_ ?_
    | with_reducible refine rg_withyChange (Fr.sub (V := 41472) rfl hw) ?_
    | with_reducible refine Rg.setReg (Fr.bit hw rfl) ?_
    | with_reducible apply Rg.ite
    | (with_reducible refine Rg.of ?_); with_reducible assumption
    | split

theorem rg_execEccLogPop {W : Nat} {s0 : State} {v : Sys2Proof.Word} {s : State} (hw : 45056 ||| W = W) (hs : Rg W s0 s) :
    RgO W s0 (execEccLogPop v s) := by
  unfold execEccLogPop
  repeat' first
    | intro _
    | with_reducible assumption
    | (extract_lets +onlyGivenNames z; guard_hyp z : Dram := _; revert z; intro _)
    | with_reducible refine rg_finish (Fr.sub (V := 45056) rfl hw) ?_ ?_
    | with_reducible refine rg_command (Fr.sub (V := 45056) rfl hw) ?_ ?_
    | with_reducible apply Rg.ite
    | (with_reducible refine Rg.of ?_); with_reducible assumption

theorem rg_execAgePromotion {W : Nat} {s0 : State} {cls : Sys2Proof.DramClass} {s : State} (hw : 41472 ||| W = W) (hs : Rg W s0 s) :
    RgO W s0 (execAgePromotion cls s) := by
  unfold execAgePromotion
  repeat' first
    | intro _
    | with_reducible assumption
    | with_reducible refine rg_finish (Fr.sub (V := 41472) rfl hw) ?_ ?_
    | with_reducible refine Rg.bump (Fr.bit hw rfl) ?_
    | with_reducible apply Rg.ite

theorem rg_execDramPowerDown {W : Nat} {s0 : State} {p : Nat} {pc : Nat} {s : State} (hw : 40960 ||| W = W) (hs : Rg W s0 s) :
    RgO W s0 (execDramPowerDown p pc s) := by
  unfold execDramPowerDown
  repeat' first
    | intro _
    | with_reducible assumption
    | with_reducible refine rg_finish hw ?_ ?_
    | with_reducible refine rg_modChan ?_
    | with_reducible apply Rg.ite

theorem rg_corrmapUe {W : Nat} {s0 : State} {s : State} {n : Nat} (hw : 42512 ||| W = W) (hs : Rg W s0 s) :
    Rg W s0 (State.corrmapUe s n) := by
  unfold State.corrmapUe
  repeat' first
    | intro _
    | with_reducible assumption
    | with_reducible refine rg_raise (Fr.sub (V := 42512) rfl hw) ?_
    | with_reducible refine rg_dmapPoison hw ?_
    | with_reducible apply Rg.foldl
    | split

theorem rg_figureUe {W : Nat} {s0 : State} {s : State} {n : Nat} (hw : 41988 ||| W = W) (hs : Rg W s0 s) :
    Rg W s0 (State.figureUe s n) := by
  unfold State.figureUe
  repeat' first
    | intro _
    | with_reducible assumption
    | (extract_lets +onlyGivenNames z; guard_hyp z : State := _; refine Rg.cut (x := z) ?_ (fun _ => ?_); rotate_left; clear_value z; revert z; intro _ _; rotate_left; unfold z; clear z)
    | (extract_lets +onlyGivenNames z; clear_value z; revert z; intro _)
    | with_reducible refine rg_refetchTile (Fr.sub (V := 41988) rfl hw) ?_
    | with_reducible refine Rg.setRegs hw (by simp only [List.length_cons, List.length_nil]; decide) ?_
    | with_reducible apply Rg.foldl
    | split

theorem rg_ueByRegion {W : Nat} {s0 : State} {s : State} {n : Nat} (hw : 42548 ||| W = W) (hs : Rg W s0 s) :
    Rg W s0 (State.ueByRegion s n) := by
  unfold State.ueByRegion
  repeat' first
    | intro _
    | with_reducible assumption
    | with_reducible refine rg_autoRetire (Fr.sub (V := 42548) rfl hw) ?_
    | with_reducible refine rg_stagingPoison (Fr.sub (V := 42548) rfl hw) ?_
    | with_reducible refine rg_fpPoison (Fr.sub (V := 42548) rfl hw) ?_
    | with_reducible refine rg_figureUe (Fr.sub (V := 42548) rfl hw) ?_
    | with_reducible refine rg_corrmapUe (Fr.sub (V := 42548) rfl hw) ?_
    | with_reducible refine rg_jobUe (Fr.sub (V := 42548) rfl hw) ?_
    | with_reducible apply Rg.ite
    | with_reducible apply Rg.foldl
    | split

theorem rg_execFenceCopyDone {W : Nat} {s0 : State} {stack : Nat} {s : State} (hw : 42548 ||| W = W) (hs : Rg W s0 s) :
    RgO W s0 (execFenceCopyDone stack s) := by
  unfold execFenceCopyDone
  repeat' first
    | intro _
    | with_reducible assumption
    | (extract_lets +onlyGivenNames z; guard_hyp z : State := _; refine Rg.cut (x := z) ?_ (fun _ => ?_); rotate_left; clear_value z; revert z; intro _ _; rotate_left; unfold z; clear z)
    | (extract_lets +onlyGivenNames z; clear_value z; revert z; intro _)
    | with_reducible refine rg_finish (Fr.sub (V := 42548) rfl hw) ?_ ?_
    | with_reducible refine rg_ueFound (Fr.sub (V := 42548) rfl hw) ?_
    | with_reducible refine rg_cleanWord ?_
    | with_reducible refine rg_moveTo (Fr.sub (V := 42548) rfl hw) ?_
    | with_reducible refine rg_ueByRegion hw ?_
    | with_reducible refine rg_raise (Fr.sub (V := 42548) rfl hw) ?_
    | with_reducible refine rg_eccLog (Fr.sub (V := 42548) rfl hw) ?_
    | with_reducible apply Rg.ite
    | with_reducible apply Rg.foldl
    | split

theorem rg_sweepBeat {W : Nat} {s0 : State} {s : State} {b : Nat} (hw : 42548 ||| W = W) (hs : Rg W s0 s) :
    Rg W s0 (State.sweepBeat s b) := by
  unfold State.sweepBeat
  repeat' first
    | intro _
    | with_reducible assumption
    | (extract_lets +onlyGivenNames z; guard_hyp z : State := _; refine Rg.cut (x := z) ?_ (fun _ => ?_); rotate_left; clear_value z; revert z; intro _ _; rotate_left; unfold z; clear z)
    | with_reducible refine rg_zeroWord ?_
    | with_reducible refine Rg.bump (Fr.bit hw rfl) ?_
    | with_reducible refine Rg.bump (Fr.bit hw (by rw [blk_MEM_CH_UE]; decide)) ?_
    | with_reducible refine rg_ueByRegion hw ?_
    | with_reducible apply Rg.foldl

theorem rg_execRebuildSweepDone {W : Nat} {s0 : State} {l : Nat} {s : State} (hw : 42548 ||| W = W) (hs : Rg W s0 s) :
    RgO W s0 (execRebuildSweepDone l s) := by
  unfold execRebuildSweepDone
  repeat' first
    | intro _
    | with_reducible assumption
    | (extract_lets +onlyGivenNames z; guard_hyp z : State := _; refine Rg.cut (x := z) ?_ (fun _ => ?_); rotate_left; clear_value z; revert z; intro _ _; rotate_left; unfold z; clear z)
    | (extract_lets +onlyGivenNames z; guard_hyp z : Dram := _; revert z; intro _)
    | (extract_lets +onlyGivenNames z; clear_value z; revert z; intro _)
    | with_reducible refine rg_finish (Fr.sub (V := 42548) rfl hw) ?_ ?_
    | with_reducible refine rg_sweepBeat hw ?_
    | with_reducible refine rg_raise (Fr.sub (V := 42548) rfl hw) ?_
    | with_reducible apply Rg.foldl
    | (with_reducible refine Rg.of ?_); with_reducible assumption
    | split

theorem rg_unback {W : Nat} {s0 : State} {s : State} {p : Nat} {l : Nat} {cause : Nat} (hw : 44771 ||| W = W) (hs : Rg W s0 s) :
    Rg W s0 (State.unback s p l cause) := by
  unfold State.unback
  repeat' first
    | with_reducible assumption
    | (extract_lets +onlyGivenNames z; guard_hyp z : State := _; refine Rg.cut (x := z) ?_ (fun _ => ?_); rotate_left; clear_value z; revert z; intro _ _; rotate_left; unfold z; clear z)
    | (extract_lets +onlyGivenNames z; guard_hyp z : Dram := _; revert z; intro _)
    | with_reducible refine rg_failChan (Fr.sub (V := 44771) rfl hw) ?_
    | with_reducible refine rg_truncateNow hw ?_
    | with_reducible refine rg_raise (Fr.sub (V := 44771) rfl hw) ?_
    | with_reducible refine rg_eccLog (Fr.sub (V := 44771) rfl hw) ?_
    | (with_reducible refine Rg.of ?_); with_reducible assumption

theorem rg_hardFence {W : Nat} {s0 : State} {s : State} {p : Nat} {cause : Nat} (hw : 44771 ||| W = W) (hs : Rg W s0 s) :
    Rg W s0 (State.hardFence s p cause) := by
  unfold State.hardFence
  repeat' first
    | with_reducible assumption
    | (extract_lets +onlyGivenNames z; guard_hyp z : State := _; refine Rg.cut (x := z) ?_ (fun _ => ?_); rotate_left; clear_value z; revert z; intro _ _; rotate_left; unfold z; clear z)
    | (extract_lets +onlyGivenNames z; guard_hyp z : Dram := _; revert z; intro _)
    | (extract_lets +onlyGivenNames z; clear_value z; revert z; intro _)
    | with_reducible refine rg_countFence (Fr.sub (V := 44771) rfl hw) ?_
    | with_reducible refine rg_modChan ?_
    | with_reducible refine rg_eccLog (Fr.sub (V := 44771) rfl hw) ?_
    | with_reducible refine rg_unback hw ?_
    | with_reducible refine rg_raise (Fr.sub (V := 44771) rfl hw) ?_
    | with_reducible refine rg_moveTo (Fr.sub (V := 44771) rfl hw) ?_
    | (with_reducible refine Rg.of ?_); with_reducible assumption
    | split

theorem rg_plannedFence {W : Nat} {s0 : State} {s : State} {p : Nat} {cause : Nat} (hw : 44771 ||| W = W) (hs : Rg W s0 s) :
    Rg W s0 (State.plannedFence s p cause) := by
  unfold State.plannedFence
  repeat' first
    | intro _
    | with_reducible assumption
    | (extract_lets +onlyGivenNames z; guard_hyp z : State := _; refine Rg.cut (x := z) ?_ (fun _ => ?_); rotate_left; clear_value z; revert z; intro _ _; rotate_left; unfold z; clear z)
    | (extract_lets +onlyGivenNames z; guard_hyp z : Dram := _; revert z; intro _)
    | (extract_lets +onlyGivenNames z; clear_value z; revert z; intro _)
    | with_reducible refine rg_raise (Fr.sub (V := 44771) rfl hw) ?_
    | with_reducible refine rg_eccLog (Fr.sub (V := 44771) rfl hw) ?_
    | with_reducible refine rg_countFence (Fr.sub (V := 44771) rfl hw) ?_
    | with_reducible refine rg_modChan ?_
    | with_reducible refine rg_unback hw ?_
    | with_reducible apply Rg.ite
    | (with_reducible refine Rg.of ?_); with_reducible assumption
    | split

theorem rg_execCapar {W : Nat} {s0 : State} {p : Nat} {n : Nat} {s : State} (hw : 44771 ||| W = W) (hs : Rg W s0 s) :
    RgO W s0 (execCapar p n s) := by
  unfold execCapar
  repeat' first
    | intro _
    | with_reducible assumption
    | (extract_lets +onlyGivenNames z; guard_hyp z : State := _; refine RgO.cut (x := z) ?_ (fun _ => ?_); rotate_left; clear_value z; revert z; intro _ _; rotate_left; unfold z; clear z)
    | with_reducible refine rg_finish (Fr.sub (V := 44771) rfl hw) ?_ ?_
    | with_reducible refine Rg.bumpBy (Fr.bit hw (by rw [blk_MEM_CH_CAPAR]; decide)) ?_
    | with_reducible refine rg_hardFence hw ?_
    | with_reducible refine rg_raise (Fr.sub (V := 44771) rfl hw) ?_
    | with_reducible apply Rg.ite

theorem rg_execReadTimeout {W : Nat} {s0 : State} {p : Nat} {s : State} (hw : 44771 ||| W = W) (hs : Rg W s0 s) :
    RgO W s0 (execReadTimeout p s) := by
  unfold execReadTimeout
  repeat' first
    | intro _
    | with_reducible assumption
    | with_reducible refine rg_finish (Fr.sub (V := 44771) rfl hw) ?_ ?_
    | with_reducible refine rg_hardFence hw ?_
    | with_reducible apply Rg.ite

theorem rg_trainChan {W : Nat} {s0 : State} {s : State} {x1 : Sys2Proof.ChanTraining} (hw : 44771 ||| W = W) (hs : Rg W s0 s) :
    Rg W s0 (State.trainChan s x1) := by
  unfold State.trainChan
  repeat' first
    | with_reducible assumption
    | (extract_lets +onlyGivenNames z; guard_hyp z : State := _; refine Rg.cut (x := z) ?_ (fun _ => ?_); rotate_left; clear_value z; revert z; intro _ _; rotate_left; unfold z; clear z)
    | (extract_lets +onlyGivenNames z; clear_value z; revert z; intro _)
    | with_reducible refine rg_modChan ?_
    | with_reducible refine rg_eccLog (Fr.sub (V := 44771) rfl hw) ?_
    | with_reducible refine rg_hardFence hw ?_
    | with_reducible refine rg_failChan (Fr.sub (V := 44771) rfl hw) ?_
    | with_reducible refine rg_withyChange (Fr.sub (V := 44771) rfl hw) ?_
    | split

theorem rg_burst {W : Nat} {s0 : State} {s : State} {p : Nat} (hw : 44771 ||| W = W) (hs : Rg W s0 s) :
    Rg W s0 (State.burst s p) := by
  unfold State.burst
  repeat' first
    | intro _
    | with_reducible assumption
    | (extract_lets +onlyGivenNames z; clear_value z; revert z; intro _)
    | with_reducible refine rg_hardFence hw ?_
    | with_reducible apply Rg.ite

theorem rg_plannedCause {W : Nat} {s0 : State} {s : State} {p : Nat} {cause : Nat} (hw : 44771 ||| W = W) (hs : Rg W s0 s) :
    Rg W s0 (State.plannedCause s p cause) := by
  unfold State.plannedCause
  repeat' first
    | intro _
    | with_reducible assumption
    | with_reducible refine rg_plannedFence hw ?_
    | with_reducible refine rg_raise (Fr.sub (V := 44771) rfl hw) ?_
    | with_reducible refine rg_eccLog (Fr.sub (V := 44771) rfl hw) ?_
    | with_reducible apply Rg.ite

theorem rg_execMemChFence {W : Nat} {s0 : State} {p : Nat} {s : State} (hw : 48867 ||| W = W) (hs : Rg W s0 s) :
    RgO W s0 (execMemChFence p s) := by
  unfold execMemChFence
  repeat' first
    | intro _
    | with_reducible assumption
    | with_reducible refine rg_finish (Fr.sub (V := 48867) rfl hw) ?_ ?_
    | with_reducible refine rg_command (Fr.sub (V := 48867) rfl hw) ?_ ?_
    | with_reducible refine rg_onlyIn (Fr.sub (V := 48867) rfl hw) ?_ ?_
    | with_reducible refine rg_plannedFence (Fr.sub (V := 48867) rfl hw) ?_
    | with_reducible apply Rg.ite

theorem rg_trainAll {W : Nat} {s0 : State} {s : State} {r : List Sys2Proof.ChanTraining} (hw : 44771 ||| W = W) (hs : Rg W s0 s) :
    Rg W s0 (State.trainAll s r) := by
  unfold State.trainAll
  repeat' first
    | intro _
    | with_reducible assumption
    | (extract_lets +onlyGivenNames z; guard_hyp z : State := _; refine Rg.cut (x := z) ?_ (fun _ => ?_); rotate_left; clear_value z; revert z; intro _ _; rotate_left; unfold z; clear z)
    | (extract_lets +onlyGivenNames z; guard_hyp z : Dram := _; revert z; intro _)
    | with_reducible refine rg_trainChan hw ?_
    | with_reducible refine rg_raise (Fr.sub (V := 44771) rfl hw) ?_
    | with_reducible apply Rg.foldl
    | (with_reducible refine Rg.of ?_); with_reducible assumption

theorem rg_scrubWord {W : Nat} {s0 : State} {s : State} {n : Nat} (hw : 44791 ||| W = W) (hs : Rg W s0 s) :
    Rg W s0 (State.scrubWord s n) := by
  unfold State.scrubWord
  repeat' first
    | intro _
    | with_reducible assumption
    | (extract_lets +onlyGivenNames z; guard_hyp z : State := _; refine Rg.cut (x := z) ?_ (fun _ => ?_); rotate_left; clear_value z; revert z; intro _ _; rotate_left; unfold z; clear z)
    | (extract_lets +onlyGivenNames z; clear_value z; revert z; intro _)
    | with_reducible refine rg_raise (Fr.sub (V := 44791) rfl hw) ?_
    | with_reducible refine rg_eccLog (Fr.sub (V := 44791) rfl hw) ?_
    | with_reducible refine rg_ueFound (Fr.sub (V := 44791) rfl hw) ?_
    | with_reducible refine rg_withyChange (Fr.sub (V := 44791) rfl hw) ?_
    | with_reducible refine rg_ueByRegion (Fr.sub (V := 44791) rfl hw) ?_
    | with_reducible refine rg_burst (Fr.sub (V := 44791) rfl hw) ?_
    | with_reducible refine rg_ceFound (Fr.sub (V := 44791) rfl hw) ?_
    | with_reducible refine rg_writeBack (Fr.sub (V := 44791) rfl hw) ?_
    | with_reducible apply Rg.ite
    | split

theorem rg_execDemandReadError {W : Nat} {s0 : State} {a : Nat} {cls : Sys2Proof.DramClass} {dx : Sys2Proof.Dword} {cx : Sys2Proof.Byte} {t : Nat} {sx : State} (hw : 44787 ||| W = W) (hsx : Rg W s0 sx) :
    RgO W s0 (execDemandReadError a cls dx cx t sx) := by
  unfold execDemandReadError
  repeat' first
    | intro _
    | with_reducible assumption
    | (extract_lets +onlyGivenNames z; guard_hyp z : State := _; refine RgO.cut (x := z) ?_ (fun _ => ?_); rotate_left; clear_value z; revert z; intro _ _; rotate_left; unfold z; clear z)
    | (extract_lets +onlyGivenNames z; clear_value z; revert z; intro _)
    | (extract_lets +onlyGivenNames z; revert z; intro _)
    | with_reducible refine rg_at_ ?_
    | with_reducible refine rg_finish (Fr.sub (V := 44787) rfl hw) ?_ ?_
    | with_reducible refine rg_touch (Fr.sub (V := 44787) rfl hw) ?_
    | with_reducible refine rg_corrmapUe (Fr.sub (V := 44787) rfl hw) ?_
    | with_reducible refine rg_burst (Fr.sub (V := 44787) rfl hw) ?_
    | with_reducible apply Rg.ite
    | (with_reducible refine Rg.of ?_); with_reducible assumption

theorem rg_recalChan {W : Nat} {s0 : State} {s : State} {m : Sys2Proof.ChanMargins} (hw : 44771 ||| W = W) (hs : Rg W s0 s) :
    Rg W s0 (State.recalChan s m) := by
  unfold State.recalChan
  repeat' first
    | intro _
    | with_reducible assumption
    | (extract_lets +onlyGivenNames z; guard_hyp z : State := _; refine Rg.cut (x := z) ?_ (fun _ => ?_); rotate_left; clear_value z; revert z; intro _ _; rotate_left; unfold z; clear z)
    | (extract_lets +onlyGivenNames z; clear_value z; revert z; intro _)
    | with_reducible refine rg_modChan ?_
    | with_reducible refine rg_plannedCause hw ?_
    | with_reducible apply Rg.ite

theorem rg_execCeRate {W : Nat} {s0 : State} {p : Nat} {rate : Nat} {s : State} (hw : 44771 ||| W = W) (hs : Rg W s0 s) :
    RgO W s0 (execCeRate p rate s) := by
  unfold execCeRate
  repeat' first
    | intro _
    | with_reducible assumption
    | with_reducible refine rg_finish (Fr.sub (V := 44771) rfl hw) ?_ ?_
    | with_reducible refine rg_plannedCause hw ?_
    | with_reducible apply Rg.ite

theorem rg_execMemChRetrain {W : Nat} {s0 : State} {p : Nat} {r : Sys2Proof.ChanTraining} {s : State} (hw : 48867 ||| W = W) (hs : Rg W s0 s) :
    RgO W s0 (execMemChRetrain p r s) := by
  unfold execMemChRetrain
  repeat' first
    | intro _
    | with_reducible assumption
    | with_reducible refine rg_finish (Fr.sub (V := 48867) rfl hw) ?_ ?_
    | with_reducible refine rg_command (Fr.sub (V := 48867) rfl hw) ?_ ?_
    | with_reducible refine rg_onlyIn (Fr.sub (V := 48867) rfl hw) ?_ ?_
    | with_reducible refine rg_trainAll (Fr.sub (V := 48867) rfl hw) ?_
    | with_reducible apply Rg.ite

theorem rg_execScrubRead {W : Nat} {s0 : State} {l : Nat} {flips : List Sys2Proof.WordFlip} {t : Nat} {sx : State} (hw : 44791 ||| W = W) (hsx : Rg W s0 sx) :
    RgO W s0 (execScrubRead l flips t sx) := by
  unfold execScrubRead
  repeat' first
    | intro _
    | with_reducible assumption
    | (extract_lets +onlyGivenNames z; guard_hyp z : State := _; refine Rg.cut (x := z) ?_ (fun _ => ?_); rotate_left; clear_value z; revert z; intro _ _; rotate_left; unfold z; clear z)
    | (extract_lets +onlyGivenNames z; guard_hyp z : State := _; refine RgO.cut (x := z) ?_ (fun _ => ?_); rotate_left; clear_value z; revert z; intro _ _; rotate_left; unfold z; clear z)
    | (extract_lets +onlyGivenNames z; clear_value z; revert z; intro _)
    | with_reducible refine rg_at_ ?_
    | with_reducible refine rg_finish (Fr.sub (V := 44791) rfl hw) ?_ ?_
    | with_reducible refine rg_promoteScrub (Fr.sub (V := 44791) rfl hw) ?_
    | with_reducible refine rg_scrubWord hw ?_
    | with_reducible refine rg_passWatch ?_
    | with_reducible refine rg_advanceScrub ?_
    | with_reducible apply Rg.ite
    | with_reducible apply Rg.foldl
    | (with_reducible refine Rg.of ?_); with_reducible assumption
    | split

theorem rg_execDramRecalPeriodic {W : Nat} {s0 : State} {p : Nat} {m : Sys2Proof.ChanMargins} {s : State} (hw : 44771 ||| W = W) (hs : Rg W s0 s) :
    RgO W s0 (execDramRecalPeriodic p m s) := by
  unfold execDramRecalPeriodic
  repeat' first
    | intro _
    | with_reducible assumption
    | with_reducible refine rg_finish (Fr.sub (V := 44771) rfl hw) ?_ ?_
    | with_reducible refine rg_recalChan hw ?_
    | with_reducible apply Rg.ite

end Sys2Proof.Laws
end

