-- ==== Sys2Proof/Laws/RegFrameStores.lean ====
section
/-! SUPPORT. The registers that the recorder and the rings leave as they were: one lemma for each operation and each command (see RegFrame). -/

namespace Sys2Proof.Laws

open Sys2Proof.Machine

/-! Recorder. -/

theorem rg_inventoryGrow {W : Nat} {s0 : State} {s : State} {n : Nat} (hs : Rg W s0 s) :
    Rg W s0 (State.inventoryGrow s n) := by
  unfold State.inventoryGrow
  repeat' first
    | intro _
    | (extract_lets +onlyGivenNames z; clear_value z; revert z; intro _)
    | with_reducible apply Rg.ite
    | (with_reducible refine Rg.of ?_); with_reducible assumption

theorem rg_startFetch {W : Nat} {s0 : State} {s : State} {region : Nat} {seq : Nat} (hs : Rg W s0 s) :
    Rg W s0 (State.startFetch s region seq) := by
  unfold State.startFetch
  repeat' first
    | (extract_lets +onlyGivenNames z; clear_value z; revert z; intro _)
    | (with_reducible refine Rg.of ?_); with_reducible assumption

theorem rg_histSecond {W : Nat} {s0 : State} {s : State} {power : Nat} (hs : Rg W s0 s) :
    Rg W s0 (State.histSecond s power) := by
  unfold State.histSecond
  repeat' first
    | intro _
    | with_reducible assumption
    | (extract_lets +onlyGivenNames z; guard_hyp z : State := _; refine Rg.cut (x := z) ?_ (fun _ => ?_); rotate_left; clear_value z; revert z; intro _ _; rotate_left; unfold z; clear z)
    | (extract_lets +onlyGivenNames z; clear_value z; revert z; intro _)
    | with_reducible refine rg_histBump ?_
    | with_reducible apply Rg.ite
    | with_reducible apply Rg.foldl

theorem rg_inventoryPut {W : Nat} {s0 : State} {s : State} {e : InvEntry} (hs : Rg W s0 s) :
    Rg W s0 (State.inventoryPut s e) := by
  unfold State.inventoryPut
  repeat' first
    | with_reducible assumption
    | (extract_lets +onlyGivenNames z; guard_hyp z : State := _; refine Rg.cut (x := z) ?_ (fun _ => ?_); rotate_left; clear_value z; revert z; intro _ _; rotate_left; unfold z; clear z)
    | (extract_lets +onlyGivenNames z; clear_value z; revert z; intro _)
    | with_reducible refine rg_inventoryGrow ?_
    | (with_reducible refine Rg.of ?_); with_reducible assumption

theorem rg_checkpoint {W : Nat} {s0 : State} {s : State} (hs : Rg W s0 s) :
    Rg W s0 (State.checkpoint s) := by
  unfold State.checkpoint
  repeat' first
    | with_reducible assumption
    | (extract_lets +onlyGivenNames z; guard_hyp z : State := _; refine Rg.cut (x := z) ?_ (fun _ => ?_); rotate_left; clear_value z; revert z; intro _ _; rotate_left; unfold z; clear z)
    | (extract_lets +onlyGivenNames z; clear_value z; revert z; intro _)
    | with_reducible refine rg_inventoryGrow ?_
    | (with_reducible refine Rg.of ?_); with_reducible assumption

theorem rg_autoNext {W : Nat} {s0 : State} {s : State} (hs : Rg W s0 s) :
    Rg W s0 (State.autoNext s) := by
  unfold State.autoNext
  repeat' first
    | intro _
    | with_reducible assumption
    | (extract_lets +onlyGivenNames z; clear_value z; revert z; intro _)
    | with_reducible refine rg_startFetch ?_
    | with_reducible apply Rg.ite

theorem rg_inventoryAll {W : Nat} {s0 : State} {s : State} (hs : Rg W s0 s) :
    Rg W s0 (State.inventoryAll s) := by
  unfold State.inventoryAll
  repeat' first
    | intro _
    | with_reducible assumption
    | (extract_lets +onlyGivenNames z; clear_value z; revert z; intro _)
    | with_reducible refine rg_inventoryPut ?_
    | with_reducible apply Rg.foldl
    | (with_reducible refine Rg.of ?_); with_reducible assumption

theorem rg_replaceSector {W : Nat} {s0 : State} {s : State} {n : Nat} (hw : 8192 ||| W = W) (hs : Rg W s0 s) {s' : State} {x'} (e' : State.replaceSector s n = some (s', x')) :
    Rg W s0 s' := by
  unfold State.replaceSector at e'
  repeat' first
    | (extract_lets +onlyGivenNames z at e'; clear_value z; revert z; intro _ e')
    | split at e'
    | (with_reducible exact absurd e'.symm (Option.some_ne_none _))
    | with_reducible refine rg_inventoryAll ?_
    | with_reducible refine rg_withyChange hw ?_
    | ((with_reducible refine Rg.of_some ?_ e'); clear e')
    | (with_reducible refine Rg.of ?_); with_reducible assumption

theorem rg_eraseSector {W : Nat} {s0 : State} {s : State} {n : Nat} (hw : 8192 ||| W = W) (hs : Rg W s0 s) :
    Rg W s0 (State.eraseSector s n) := by
  unfold State.eraseSector
  repeat' first
    | intro _
    | with_reducible assumption
    | (extract_lets +onlyGivenNames z; guard_hyp z : State := _; refine Rg.cut (x := z) ?_ (fun _ => ?_); rotate_left; clear_value z; revert z; intro _ _; rotate_left; unfold z; clear z)
    | (extract_lets +onlyGivenNames z; clear_value z; revert z; intro _)
    | with_reducible refine rg_trigger hw ?_
    | with_reducible apply Rg.ite
    | refine rg_replaceSector hw ?_ (by with_reducible assumption)
    | (with_reducible refine Rg.of ?_); with_reducible assumption
    | split

theorem rg_sectorFault_eq {W : Nat} {s0 : State} {s : State} {n : Nat} (hw : 40960 ||| W = W) (hs : Rg W s0 s) {s' : State} {x'} (e' : State.sectorFault s n = (s', x')) :
    Rg W s0 s' := by
  unfold State.sectorFault at e'
  repeat' first
    | with_reducible assumption
    | (extract_lets +onlyGivenNames z at e'; guard_hyp z : State := _; refine Rg.cut (x := z) ?_ (fun _ => ?_); rotate_left; clear_value z; revert z; intro _ e' _; rotate_left; unfold z; clear e'; clear z)
    | (extract_lets +onlyGivenNames z at e'; clear_value z; revert z; intro _ e')
    | split at e'
    | with_reducible refine rg_raise hw ?_
    | with_reducible refine Rg.setReg (Fr.bit hw rfl) ?_
    | refine rg_replaceSector (Fr.sub (V := 40960) rfl hw) ?_ (by with_reducible assumption)
    | ((with_reducible refine Rg.of_pair ?_ e'); clear e')
    | (with_reducible refine Rg.of ?_); with_reducible assumption

theorem rg_sectorFault {W : Nat} {s0 : State} {s : State} {n : Nat} (hw : 40960 ||| W = W) (hs : Rg W s0 s) : Rg W s0 (State.sectorFault s n).1 :=
  Rg.of_eq fun _ _ e' => rg_sectorFault_eq hw hs e'

theorem rg_rollingRoom {W : Nat} {s0 : State} {s : State} (hw : 8192 ||| W = W) (hs : Rg W s0 s) :
    Rg W s0 (State.rollingRoom s) := by
  unfold State.rollingRoom
  repeat' first
    | intro _
    | with_reducible assumption
    | (extract_lets +onlyGivenNames z; clear_value z; revert z; intro _)
    | with_reducible refine rg_eraseSector hw ?_
    | with_reducible apply Rg.ite
    | split

theorem rg_refreshSector {W : Nat} {s0 : State} {s : State} {n : Nat} {verifyOk : Bool} (hw : 40960 ||| W = W) (hs : Rg W s0 s) :
    Rg W s0 (State.refreshSector s n verifyOk) := by
  unfold State.refreshSector
  repeat' first
    | intro _
    | with_reducible assumption
    | (extract_lets +onlyGivenNames z; guard_hyp z : State := _; refine Rg.cut (x := z) ?_ (fun _ => ?_); rotate_left; clear_value z; revert z; intro _ _; rotate_left; unfold z; clear z)
    | (extract_lets +onlyGivenNames z; clear_value z; revert z; intro _)
    | with_reducible refine rg_trigger (Fr.sub (V := 40960) rfl hw) ?_
    | with_reducible refine rg_sectorFault hw ?_
    | with_reducible apply Rg.ite
    | refine rg_replaceSector (Fr.sub (V := 40960) rfl hw) ?_ (by with_reducible assumption)
    | (with_reducible refine Rg.of ?_); with_reducible assumption
    | split

theorem rg_execSnap {W : Nat} {s0 : State} {s : State} (hw : 45056 ||| W = W) (hs : Rg W s0 s) :
    RgO W s0 (execSnap s) := by
  unfold execSnap
  repeat' first
    | intro _
    | with_reducible assumption
    | with_reducible refine rg_finish (Fr.sub (V := 45056) rfl hw) ?_ ?_
    | with_reducible refine rg_command (Fr.sub (V := 45056) rfl hw) ?_ ?_
    | with_reducible refine rg_trigger (Fr.sub (V := 45056) rfl hw) ?_

theorem rg_execInventoryCommit {W : Nat} {s0 : State} {progOk : Bool} {s : State} (hw : 40960 ||| W = W) (hs : Rg W s0 s) :
    RgO W s0 (execInventoryCommit progOk s) := by
  unfold execInventoryCommit
  repeat' first
    | intro _
    | with_reducible assumption
    | (extract_lets +onlyGivenNames z; guard_hyp z : State → State := _; refine Rg.cutF (f := z) ?_ (fun _ => ?_); rotate_left; clear_value z; revert z; intro _ _; rotate_left; unfold z; clear z; intro _ _; beta_reduce)
    | (extract_lets +onlyGivenNames z; clear_value z; revert z; intro _)
    | with_reducible refine rg_finish hw ?_ ?_
    | with_reducible refine rg_inventoryPut ?_
    | with_reducible refine rg_sectorFault hw ?_
    | with_reducible apply Rg.ite
    | (with_reducible refine Rg.of ?_); with_reducible assumption
    | split
    | with_reducible apply_assumption

theorem rg_execOperatingSecond {W : Nat} {s0 : State} {power : Nat} {s : State} (hw : 45056 ||| W = W) (hs : Rg W s0 s) :
    RgO W s0 (execOperatingSecond power s) := by
  unfold execOperatingSecond
  repeat' first
    | intro _
    | with_reducible assumption
    | (extract_lets +onlyGivenNames z; guard_hyp z : State := _; refine RgO.cut (x := z) ?_ (fun _ => ?_); rotate_left; clear_value z; revert z; intro _ _; rotate_left; unfold z; clear z)
    | (extract_lets +onlyGivenNames z; clear_value z; revert z; intro _)
    | with_reducible refine rg_finish (Fr.sub (V := 45056) rfl hw) ?_ ?_
    | with_reducible refine Rg.setReg (Fr.bit hw rfl) ?_
    | with_reducible refine rg_histSecond ?_
    | with_reducible apply Rg.ite
    | (with_reducible refine Rg.of ?_); with_reducible assumption

theorem rg_execAgeTrigger {W : Nat} {s0 : State} {s : State} (hw : 40960 ||| W = W) (hs : Rg W s0 s) :
    RgO W s0 (execAgeTrigger s) := by
  unfold execAgeTrigger
  repeat' first
    | intro _
    | with_reducible assumption
    | (extract_lets +onlyGivenNames z; clear_value z; revert z; intro _)
    | with_reducible refine rg_finish hw ?_ ?_
    | with_reducible refine rg_trigger (Fr.sub (V := 40960) rfl hw) ?_
    | with_reducible apply Rg.ite
    | (with_reducible refine Rg.of ?_); with_reducible assumption

theorem rg_execAutoInc {W : Nat} {s0 : State} {s : State} (hw : 45056 ||| W = W) (hs : Rg W s0 s) :
    RgO W s0 (execAutoInc s) := by
  unfold execAutoInc
  repeat' first
    | intro _
    | with_reducible assumption
    | with_reducible refine rg_finish (Fr.sub (V := 45056) rfl hw) ?_ ?_
    | with_reducible refine rg_offAccess (Fr.sub (V := 45056) rfl hw) ?_
    | with_reducible refine rg_autoNext ?_
    | with_reducible apply Rg.ite
    | (with_reducible refine Rg.of ?_); with_reducible assumption

theorem rg_execHistogramCheckpoint {W : Nat} {s0 : State} {s : State} (hw : 40960 ||| W = W) (hs : Rg W s0 s) :
    RgO W s0 (execHistogramCheckpoint s) := by
  unfold execHistogramCheckpoint
  repeat' first
    | intro _
    | with_reducible assumption
    | with_reducible refine rg_finish hw ?_ ?_
    | with_reducible refine rg_checkpoint ?_
    | with_reducible apply Rg.ite

theorem rg_execCursorFetch {W : Nat} {s0 : State} {v : Sys2Proof.Word} {s : State} (hw : 45056 ||| W = W) (hs : Rg W s0 s) :
    RgO W s0 (execCursorFetch v s) := by
  unfold execCursorFetch
  repeat' first
    | intro _
    | with_reducible assumption
    | (extract_lets +onlyGivenNames z; guard_hyp z : State := _; refine Rg.cut (x := z) ?_ (fun _ => ?_); rotate_left; clear_value z; revert z; intro _ _; rotate_left; unfold z; clear z)
    | with_reducible refine rg_finish (Fr.sub (V := 45056) rfl hw) ?_ ?_
    | with_reducible refine rg_command (Fr.sub (V := 45056) rfl hw) ?_ ?_
    | with_reducible refine Rg.setReg (Fr.bit hw rfl) ?_
    | with_reducible refine rg_startFetch ?_

theorem rg_execCursorFetchDone {W : Nat} {s0 : State} {s : State} (hw : 40960 ||| W = W) (hs : Rg W s0 s) :
    RgO W s0 (execCursorFetchDone s) := by
  unfold execCursorFetchDone
  repeat' first
    | intro _
    | with_reducible assumption
    | (extract_lets +onlyGivenNames z; clear_value z; revert z; intro _)
    | with_reducible refine rg_finish hw ?_ ?_
    | with_reducible apply Rg.ite
    | (with_reducible refine Rg.of ?_); with_reducible assumption
    | split

theorem rg_commitTo {W : Nat} {s0 : State} {s : State} {n : Nat} {x2 : Record} (hw : 40960 ||| W = W) (hs : Rg W s0 s) :
    Rg W s0 (State.commitTo s n x2) := by
  unfold State.commitTo
  repeat' first
    | with_reducible refine rg_rollingRoom (Fr.sub (V := 40960) rfl hw) ?_
    | with_reducible refine rg_raise hw ?_
    | (with_reducible refine Rg.of ?_); with_reducible assumption

theorem rg_execRetentionCheck {W : Nat} {s0 : State} {sector : Nat} {marginOk : Bool} {verifyOk : Bool} {s : State} (hw : 40960 ||| W = W) (hs : Rg W s0 s) :
    RgO W s0 (execRetentionCheck sector marginOk verifyOk s) := by
  unfold execRetentionCheck
  repeat' first
    | intro _
    | with_reducible assumption
    | (extract_lets +onlyGivenNames z; clear_value z; revert z; intro _)
    | with_reducible refine rg_finish hw ?_ ?_
    | with_reducible refine rg_refreshSector hw ?_
    | with_reducible apply Rg.ite
    | (with_reducible refine Rg.of ?_); with_reducible assumption

theorem rg_commitNext {W : Nat} {s0 : State} {s : State} {progOk : Bool} (hw : 40960 ||| W = W) (hs : Rg W s0 s) :
    Rg W s0 (State.commitNext s progOk) := by
  unfold State.commitNext
  repeat' first
    | intro _
    | with_reducible assumption
    | (extract_lets +onlyGivenNames z; clear_value z; revert z; intro _)
    | with_reducible refine rg_commitTo hw ?_
    | with_reducible apply Rg.ite
    | refine rg_sectorFault_eq hw ?_ (by with_reducible assumption)
    | split

theorem rg_execRecordCommit {W : Nat} {s0 : State} {progOk : Bool} {s : State} (hw : 40960 ||| W = W) (hs : Rg W s0 s) :
    RgO W s0 (execRecordCommit progOk s) := by
  unfold execRecordCommit
  repeat' first
    | intro _
    | with_reducible assumption
    | with_reducible refine rg_finish hw ?_ ?_
    | with_reducible refine rg_commitNext hw ?_
    | with_reducible apply Rg.ite

theorem rg_commitAll {W : Nat} {s0 : State} {s : State} {a : Nat} (hw : 40960 ||| W = W) (hs : Rg W s0 s) :
    Rg W s0 (State.commitAll s a) := by
  induction a generalizing s with
  | zero =>
    unfold State.commitAll
    repeat' (with_reducible assumption)
  | succ n ih =>
    unfold State.commitAll
    repeat' first
      | intro _
      | with_reducible assumption
      | with_reducible apply ih
      | with_reducible refine rg_commitNext hw ?_
      | with_reducible refine rg_inventoryAll ?_
      | with_reducible apply Rg.ite

theorem rg_shrink {W : Nat} {s0 : State} {s : State} (hw : 40960 ||| W = W) (hs : Rg W s0 s) :
    Rg W s0 (State.shrink s) := by
  unfold State.shrink
  repeat' first
    | intro _
    | with_reducible assumption
    | (extract_lets +onlyGivenNames z; guard_hyp z : State := _; refine Rg.cut (x := z) ?_ (fun _ => ?_); rotate_left; clear_value z; revert z; intro _ _; rotate_left; unfold z; clear z)
    | (extract_lets +onlyGivenNames z; clear_value z; revert z; intro _)
    | with_reducible refine rg_commitAll hw ?_
    | with_reducible apply Rg.ite
    | refine rg_replaceSector (Fr.sub (V := 40960) rfl hw) ?_ (by with_reducible assumption)
    | (with_reducible refine Rg.of ?_); with_reducible assumption
    | split

theorem rg_execShrink {W : Nat} {s0 : State} {s : State} (hw : 45056 ||| W = W) (hs : Rg W s0 s) :
    RgO W s0 (execShrink s) := by
  unfold execShrink
  repeat' first
    | intro _
    | with_reducible assumption
    | with_reducible refine rg_finish (Fr.sub (V := 45056) rfl hw) ?_ ?_
    | with_reducible refine rg_command (Fr.sub (V := 45056) rfl hw) ?_ ?_
    | with_reducible refine rg_onlyIn (Fr.sub (V := 45056) rfl hw) ?_ ?_
    | with_reducible refine rg_violation (Fr.sub (V := 45056) rfl hw) ?_
    | with_reducible refine rg_shrink (Fr.sub (V := 45056) rfl hw) ?_
    | with_reducible apply Rg.ite

/-! Rings. -/

theorem rg_abandonEntries {W : Nat} {s0 : State} {s : State} {r : Nat} {left : Nat} (hs : Rg W s0 s) :
    Rg W s0 (State.abandonEntries s r left) := by
  unfold State.abandonEntries
  repeat' first
    | (extract_lets +onlyGivenNames z; guard_hyp z : Hst := _; revert z; intro _)
    | (with_reducible refine Rg.of ?_); with_reducible assumption

theorem rg_portReset {W : Nat} {s0 s : State} {kind : Sys2Proof.PortReset} (hw : 2 ||| W = W) (hs : Rg W s0 s) :
    Rg W s0 (State.portReset s kind) := by
  refine ⟨fun k => smWf_filter _ (hs.wf k), fun k off => ?_⟩
  rcases hs.reg k off with g | g
  · exact Or.inl g
  · by_cases hb : regBlock off = 1
    · exact Or.inl (hb ▸ Fr.bit hw rfl)
    · refine Or.inr (Eq.trans ?_ g)
      unfold State.reg State.portReset resetHostRegs
      dsimp only
      rw [smGet_filterFrom (hs.wf k)]
      intro x
      unfold regBlock at hb
      simp only [Bool.or_eq_true, Bool.not_eq_true', decide_eq_false_iff_not, decide_eq_true_eq]
      omega

theorem rg_resumeRing {W : Nat} {s0 : State} {s : State} {r : Nat} (hs : Rg W s0 s) :
    Rg W s0 (State.resumeRing s r) := by
  unfold State.resumeRing
  repeat' first
    | with_reducible assumption
    | (extract_lets +onlyGivenNames z; clear_value z; revert z; intro _)
    | with_reducible refine rg_setRing ?_

theorem rg_enableWrite {W : Nat} {s0 : State} {s : State} {hi : Bool} {v : Nat} (hw : 32768 ||| W = W) (hs : Rg W s0 s) :
    Rg W s0 (State.enableWrite s hi v) := by
  unfold State.enableWrite
  dsimp only
  repeat' first
    | intro _
    | with_reducible assumption
    | with_reducible refine Rg.setReg (by split <;> exact Fr.bit hw rfl) ?_
    | with_reducible refine rg_owe ?_
    | with_reducible refine rg_unowe ?_
    | with_reducible apply Rg.ite
    | with_reducible apply Rg.foldl

theorem rg_pendClear {W : Nat} {s0 : State} {s : State} {hi : Bool} {v : Nat} (hw : 32768 ||| W = W) (hs : Rg W s0 s) :
    Rg W s0 (State.pendClear s hi v) := by
  unfold State.pendClear
  repeat' first
    | intro _
    | with_reducible assumption
    | with_reducible refine rg_unowe ?_
    | with_reducible refine Rg.setField (Fr.bit hw (by rw [blk_pendReg]; decide)) ?_
    | with_reducible apply Rg.ite
    | with_reducible apply Rg.foldl

theorem rg_rxTrim {W : Nat} {s0 : State} {s : State} (hw : 2048 ||| W = W) (hs : Rg W s0 s) :
    Rg W s0 (State.rxTrim s) := by
  unfold State.rxTrim
  repeat' first
    | (extract_lets +onlyGivenNames z; clear_value z; revert z; intro _)
    | with_reducible refine Rg.bumpBy (Fr.bit hw rfl) ?_
    | (with_reducible refine Rg.of ?_); with_reducible assumption

theorem rg_ringBell {W : Nat} {s0 : State} {s : State} {r : Nat} {v : Nat} (hw : 2 ||| W = W) (hs : Rg W s0 s) :
    Rg W s0 (State.ringBell s r v) := by
  unfold State.ringBell
  repeat' first
    | intro _
    | with_reducible assumption
    | (extract_lets +onlyGivenNames z; clear_value z; revert z; intro _)
    | with_reducible refine rg_setRing ?_
    | with_reducible refine Rg.setReg (Fr.bit hw rfl) ?_
    | with_reducible refine Rg.bump (Fr.bit hw rfl) ?_
    | with_reducible apply Rg.ite

theorem rg_enableRing {W : Nat} {s0 : State} {s : State} {r : Nat} {v : Nat} (hw : 6146 ||| W = W) (hs : Rg W s0 s) :
    Rg W s0 (State.enableRing s r v) := by
  unfold State.enableRing
  dsimp only
  repeat' first
    | intro _
    | with_reducible assumption
    | with_reducible refine rg_violation (Fr.sub (V := 6146) rfl hw) ?_
    | with_reducible refine Rg.setField (bit_ringReg (by decide) (Fr.sub rfl hw)) ?_
    | with_reducible refine Rg.setReg (bit_ringReg (by decide) (Fr.sub rfl hw)) ?_
    | with_reducible refine rg_setRing ?_
    | with_reducible apply Rg.ite

theorem rg_bar2Write {W : Nat} {s0 : State} {s : State} {page : Nat} {off : Nat} {be : Nat} {v : Nat} (hw : 4098 ||| W = W) (hs : Rg W s0 s) :
    Rg W s0 (State.bar2Write s page off be v) := by
  unfold State.bar2Write
  repeat' first
    | intro _
    | with_reducible assumption
    | with_reducible refine rg_violation (Fr.sub (V := 4098) rfl hw) ?_
    | with_reducible refine rg_ringBell (Fr.sub (V := 4098) rfl hw) ?_
    | with_reducible apply Rg.ite

theorem rg_setSources {W : Nat} {s0 : State} {s : State} {hi : Bool} {v : Nat} (hw : 40960 ||| W = W) (hs : Rg W s0 s) :
    Rg W s0 (State.setSources s hi v) := by
  unfold State.setSources
  repeat' first
    | intro _
    | with_reducible assumption
    | with_reducible refine rg_raiseN hw ?_
    | with_reducible apply Rg.foldl

theorem rg_execIrqSet {W : Nat} {s0 : State} {hi : Bool} {v : Sys2Proof.Word} {s : State} (hw : 45056 ||| W = W) (hs : Rg W s0 s) :
    RgO W s0 (execIrqSet hi v s) := by
  unfold execIrqSet
  repeat' first
    | intro _
    | with_reducible assumption
    | with_reducible refine rg_finish (Fr.sub (V := 45056) rfl hw) ?_ ?_
    | with_reducible refine rg_command (Fr.sub (V := 45056) rfl hw) ?_ ?_
    | with_reducible refine rg_setSources (Fr.sub (V := 45056) rfl hw) ?_

theorem rg_execIrqPendClear {W : Nat} {s0 : State} {hi : Bool} {v : Sys2Proof.Word} {s : State} (hw : 45056 ||| W = W) (hs : Rg W s0 s) :
    RgO W s0 (execIrqPendClear hi v s) := by
  unfold execIrqPendClear
  repeat' first
    | intro _
    | with_reducible assumption
    | with_reducible refine rg_finish (Fr.sub (V := 45056) rfl hw) ?_ ?_
    | with_reducible refine rg_command (Fr.sub (V := 45056) rfl hw) ?_ ?_
    | with_reducible refine rg_pendClear (Fr.sub (V := 45056) rfl hw) ?_

theorem rg_execHostPortReset {W : Nat} {s0 : State} {kind : Sys2Proof.PortReset} {s : State} (hw : 40962 ||| W = W) (hs : Rg W s0 s) :
    RgO W s0 (execHostPortReset kind s) := by
  unfold execHostPortReset
  repeat' first
    | with_reducible assumption
    | with_reducible refine rg_finish (Fr.sub (V := 40962) rfl hw) ?_ ?_
    | with_reducible refine rg_portReset (Fr.sub (V := 40962) rfl hw) ?_

theorem rg_execIrqEnableWrite {W : Nat} {s0 : State} {hi : Bool} {v : Sys2Proof.Word} {s : State} (hw : 45056 ||| W = W) (hs : Rg W s0 s) :
    RgO W s0 (execIrqEnableWrite hi v s) := by
  unfold execIrqEnableWrite
  repeat' first
    | intro _
    | with_reducible assumption
    | with_reducible refine rg_finish (Fr.sub (V := 45056) rfl hw) ?_ ?_
    | with_reducible refine rg_command (Fr.sub (V := 45056) rfl hw) ?_ ?_
    | with_reducible refine rg_enableWrite (Fr.sub (V := 45056) rfl hw) ?_

theorem rg_execDoorbell {W : Nat} {s0 : State} {page : Nat} {off : Nat} {be : Nat} {v : Sys2Proof.Word} {s : State} (hw : 45058 ||| W = W) (hs : Rg W s0 s) :
    RgO W s0 (execDoorbell page off be v s) := by
  unfold execDoorbell
  repeat' first
    | with_reducible assumption
    | with_reducible refine rg_finish (Fr.sub (V := 45058) rfl hw) ?_ ?_
    | with_reducible refine rg_bar2Write (Fr.sub (V := 45058) rfl hw) ?_

theorem rg_execRingResume {W : Nat} {s0 : State} {ring : Nat} {s : State} (hw : 45056 ||| W = W) (hs : Rg W s0 s) :
    RgO W s0 (execRingResume ring s) := by
  unfold execRingResume
  repeat' first
    | intro _
    | with_reducible assumption
    | with_reducible refine rg_finish (Fr.sub (V := 45056) rfl hw) ?_ ?_
    | with_reducible refine rg_command (Fr.sub (V := 45056) rfl hw) ?_ ?_
    | with_reducible refine rg_resumeRing ?_
    | with_reducible apply Rg.ite

theorem rg_execIrqMessageSend {W : Nat} {s0 : State} {v : Sys2Proof.Word} {s : State} (hw : 40960 ||| W = W) (hs : Rg W s0 s) :
    RgO W s0 (execIrqMessageSend v s) := by
  unfold execIrqMessageSend
  repeat' first
    | intro _
    | with_reducible assumption
    | (extract_lets +onlyGivenNames z; guard_hyp z : State := _; refine RgO.cut (x := z) ?_ (fun _ => ?_); rotate_left; clear_value z; revert z; intro _ _; rotate_left; unfold z; clear z)
    | (extract_lets +onlyGivenNames z; guard_hyp z : Hst := _; revert z; intro _)
    | (extract_lets +onlyGivenNames z; clear_value z; revert z; intro _)
    | with_reducible refine rg_finish hw ?_ ?_
    | with_reducible refine Rg.bump (Fr.bit hw rfl) ?_
    | with_reducible refine rg_unowe ?_
    | with_reducible apply Rg.ite
    | (with_reducible refine Rg.of ?_); with_reducible assumption

theorem rg_resetRing {W : Nat} {s0 : State} {s : State} {r : Nat} (hw : 43010 ||| W = W) (hs : Rg W s0 s) :
    Rg W s0 (State.resetRing s r) := by
  unfold State.resetRing
  repeat' first
    | intro _
    | with_reducible assumption
    | (extract_lets +onlyGivenNames z; guard_hyp z : State := _; refine Rg.cut (x := z) ?_ (fun _ => ?_); rotate_left; clear_value z; revert z; intro _ _; rotate_left; unfold z; clear z)
    | (extract_lets +onlyGivenNames z; clear_value z; revert z; intro _)
    | with_reducible refine rg_abandonEntries ?_
    | with_reducible refine rg_setRing ?_
    | with_reducible refine rg_doReset ?_
    | with_reducible refine rg_settleBarriers hw ?_
    | with_reducible refine rg_rxTrim (Fr.sub (V := 43010) rfl hw) ?_
    | with_reducible apply Rg.ite
    | (with_reducible refine Rg.of ?_); with_reducible assumption

theorem rg_rxServe {W : Nat} {s0 : State} {s : State} (hw : 43010 ||| W = W) (hs : Rg W s0 s) :
    Rg W s0 (State.rxServe s) := by
  unfold State.rxServe
  repeat' first
    | intro _
    | with_reducible assumption
    | (extract_lets +onlyGivenNames z; guard_hyp z : State := _; refine Rg.cut (x := z) ?_ (fun _ => ?_); rotate_left; clear_value z; revert z; intro _ _; rotate_left; unfold z; clear z)
    | (extract_lets +onlyGivenNames z; clear_value z; revert z; intro _)
    | with_reducible refine rg_hostWrite ?_
    | with_reducible refine rg_answer hw ?_
    | with_reducible apply Rg.ite
    | (with_reducible refine Rg.of ?_); with_reducible assumption
    | split

theorem rg_releaseHeld {W : Nat} {s0 : State} {s : State} (hw : 43010 ||| W = W) (hs : Rg W s0 s) :
    Rg W s0 (State.releaseHeld s) := by
  unfold State.releaseHeld
  repeat' first
    | intro _
    | with_reducible assumption
    | with_reducible refine rg_answer hw ?_
    | with_reducible apply Rg.foldl
    | split

theorem rg_disableRing {W : Nat} {s0 : State} {s : State} {r : Nat} {v : Nat} (hw : 47106 ||| W = W) (hs : Rg W s0 s) :
    Rg W s0 (State.disableRing s r v) := by
  unfold State.disableRing
  dsimp only
  repeat' first
    | intro _
    | with_reducible assumption
    | with_reducible refine rg_violation (Fr.sub (V := 47106) rfl hw) ?_
    | with_reducible refine rg_resetRing (Fr.sub (V := 47106) rfl hw) ?_
    | with_reducible refine Rg.setField (bit_ringReg (by decide) (Fr.sub rfl hw)) ?_
    | with_reducible refine Rg.setReg (bit_ringReg (by decide) (Fr.sub rfl hw)) ?_
    | with_reducible apply Rg.ite

theorem rg_execRingReset {W : Nat} {s0 : State} {ring : Nat} {s : State} (hw : 47106 ||| W = W) (hs : Rg W s0 s) :
    RgO W s0 (execRingReset ring s) := by
  unfold execRingReset
  repeat' first
    | intro _
    | with_reducible assumption
    | with_reducible refine rg_finish (Fr.sub (V := 47106) rfl hw) ?_ ?_
    | with_reducible refine rg_command (Fr.sub (V := 47106) rfl hw) ?_ ?_
    | with_reducible refine rg_resetRing (Fr.sub (V := 47106) rfl hw) ?_
    | with_reducible apply Rg.ite

theorem rg_takeEntry {W : Nat} {s0 : State} {s : State} {r : Nat} {b : List Sys2Proof.Byte} (hw : 43010 ||| W = W) (hs : Rg W s0 s) :
    Rg W s0 (State.takeEntry s r b) := by
  unfold State.takeEntry
  repeat' first
    | intro _
    | with_reducible assumption
    | (extract_lets +onlyGivenNames z; guard_hyp z : State := _; refine Rg.cut (x := z) ?_ (fun _ => ?_); rotate_left; clear_value z; revert z; intro _ _; rotate_left; unfold z; clear z)
    | (extract_lets +onlyGivenNames z; guard_hyp z : Hst := _; revert z; intro _)
    | (extract_lets +onlyGivenNames z; clear_value z; revert z; intro _)
    | with_reducible refine rg_setRing ?_
    | with_reducible refine rg_rejectMalformed hw ?_
    | with_reducible refine rg_refuse hw ?_
    | with_reducible refine rg_rxServe hw ?_
    | with_reducible apply Rg.ite
    | (with_reducible refine Rg.of ?_); with_reducible assumption
    | split

theorem rg_execBusMasterEnable {W : Nat} {s0 : State} {on : Bool} {s : State} (hw : 43010 ||| W = W) (hs : Rg W s0 s) :
    RgO W s0 (execBusMasterEnable on s) := by
  unfold execBusMasterEnable
  repeat' first
    | intro _
    | with_reducible assumption
    | (extract_lets +onlyGivenNames z; guard_hyp z : State := _; refine RgO.cut (x := z) ?_ (fun _ => ?_); rotate_left; clear_value z; revert z; intro _ _; rotate_left; unfold z; clear z)
    | (extract_lets +onlyGivenNames z; guard_hyp z : Hst := _; revert z; intro _)
    | with_reducible refine rg_finish (Fr.sub (V := 43010) rfl hw) ?_ ?_
    | with_reducible refine rg_rxServe hw ?_
    | with_reducible refine rg_releaseHeld hw ?_
    | with_reducible apply Rg.ite
    | (with_reducible refine Rg.of ?_); with_reducible assumption

theorem rg_writeRingCfg {W : Nat} {s0 : State} {s : State} {r : Nat} {v : Nat} (hw : 47106 ||| W = W) (hs : Rg W s0 s) :
    Rg W s0 (State.writeRingCfg s r v) := by
  unfold State.writeRingCfg
  repeat' first
    | intro _
    | with_reducible assumption
    | with_reducible refine rg_enableRing (Fr.sub (V := 47106) rfl hw) ?_
    | with_reducible refine rg_disableRing hw ?_
    | with_reducible apply Rg.ite

theorem rg_fetched {W : Nat} {s0 : State} {s : State} {r : Nat} {e : Sys2Proof.EntryRead} (hw : 43010 ||| W = W) (hs : Rg W s0 s) :
    Rg W s0 (State.fetched s r e) := by
  unfold State.fetched
  repeat' first
    | intro _
    | with_reducible assumption
    | (extract_lets +onlyGivenNames z; clear_value z; revert z; intro _)
    | with_reducible refine rg_settleBarriers hw ?_
    | with_reducible refine rg_haltRing (Fr.sub (V := 43010) rfl hw) ?_
    | with_reducible refine rg_setRing ?_
    | with_reducible refine rg_takeEntry hw ?_
    | with_reducible apply Rg.ite
    | split

theorem rg_execRingDisable {W : Nat} {s0 : State} {ring : Nat} {v : Sys2Proof.Word} {s : State} (hw : 47106 ||| W = W) (hs : Rg W s0 s) :
    RgO W s0 (execRingDisable ring v s) := by
  unfold execRingDisable
  repeat' first
    | intro _
    | with_reducible assumption
    | with_reducible refine rg_finish (Fr.sub (V := 47106) rfl hw) ?_ ?_
    | with_reducible refine rg_command (Fr.sub (V := 47106) rfl hw) ?_ ?_
    | with_reducible refine rg_writeRingCfg hw ?_
    | with_reducible apply Rg.ite

theorem rg_execRingEnable {W : Nat} {s0 : State} {ring : Nat} {v : Sys2Proof.Word} {s : State} (hw : 47106 ||| W = W) (hs : Rg W s0 s) :
    RgO W s0 (execRingEnable ring v s) := by
  unfold execRingEnable
  repeat' first
    | intro _
    | with_reducible assumption
    | with_reducible refine rg_finish (Fr.sub (V := 47106) rfl hw) ?_ ?_
    | with_reducible refine rg_command (Fr.sub (V := 47106) rfl hw) ?_ ?_
    | with_reducible refine rg_writeRingCfg hw ?_
    | with_reducible apply Rg.ite

theorem rg_execEntryFetch {W : Nat} {s0 : State} {ring : Nat} {e : Sys2Proof.EntryRead} {s : State} (hw : 43010 ||| W = W) (hs : Rg W s0 s) :
    RgO W s0 (execEntryFetch ring e s) := by
  unfold execEntryFetch
  repeat' first
    | intro _
    | with_reducible assumption
    | with_reducible refine rg_finish (Fr.sub (V := 43010) rfl hw) ?_ ?_
    | with_reducible refine rg_fetched hw ?_
    | with_reducible apply Rg.ite

theorem rg_execPhaseRefetch {W : Nat} {s0 : State} {ring : Nat} {e : Sys2Proof.EntryRead} {s : State} (hw : 43010 ||| W = W) (hs : Rg W s0 s) :
    RgO W s0 (execPhaseRefetch ring e s) := by
  unfold execPhaseRefetch
  repeat' first
    | intro _
    | with_reducible assumption
    | with_reducible refine rg_finish (Fr.sub (V := 43010) rfl hw) ?_ ?_
    | with_reducible refine rg_fetched hw ?_
    | with_reducible apply Rg.ite

end Sys2Proof.Laws
end

