-- ==== Sys2Proof/Laws/RegFrameTicks.lean ====
section
/-! SUPPORT. The registers that ticks, frames and the plate leave as they were: one lemma for each operation and each command (see RegFrame). -/

namespace Sys2Proof.Laws

open Sys2Proof.Machine

/-! Ticks. -/

theorem rg_modAxis {W : Nat} {s0 : State} {s : State} {x1 : Sys2Proof.AxisName} {f : Axis → Axis} (hs : Rg W s0 s) :
    Rg W s0 (State.modAxis s x1 f) := by
  unfold State.modAxis
  repeat' first
    | (extract_lets +onlyGivenNames z; clear_value z; revert z; intro _)
    | (with_reducible refine Rg.of ?_); with_reducible assumption
    | split

theorem rg_stopFree {W : Nat} {s0 : State} {s : State} (hs : Rg W s0 s) :
    Rg W s0 (State.stopFree s) := by
  unfold State.stopFree
  repeat' first
    | (extract_lets +onlyGivenNames z; clear_value z; revert z; intro _)
    | (with_reducible refine Rg.of ?_); with_reducible assumption

theorem rg_readOffsets {W : Nat} {s0 : State} {s : State} {b : Bool} (hs : Rg W s0 s) :
    Rg W s0 (State.readOffsets s b) := by
  unfold State.readOffsets
  repeat' first
    | with_reducible assumption
    | (extract_lets +onlyGivenNames z; clear_value z; revert z; intro _)
    | with_reducible refine rg_modRun ?_

theorem rg_noteBelow {W : Nat} {s0 : State} {s : State} {c : Nat} (hs : Rg W s0 s) :
    Rg W s0 (State.noteBelow s c) := by
  unfold State.noteBelow
  repeat' first
    | intro _
    | with_reducible assumption
    | with_reducible refine rg_modRun ?_
    | with_reducible apply Rg.ite
    | split

theorem rg_presetNow {W : Nat} {s0 : State} {s : State} {axis : Sys2Proof.AxisName} (hs : Rg W s0 s) :
    Rg W s0 (State.presetNow s axis) := by
  unfold State.presetNow
  repeat' first
    | with_reducible assumption
    | with_reducible refine rg_modAxis ?_

theorem rg_presetIdx {W : Nat} {s0 : State} {s : State} {axis : Sys2Proof.AxisName} (hs : Rg W s0 s) :
    Rg W s0 (State.presetIdx s axis) := by
  unfold State.presetIdx
  repeat' first
    | with_reducible assumption
    | with_reducible refine rg_modAxis ?_

theorem rg_countTick {W : Nat} {s0 : State} {s : State} {t64 : Nat} {dt : Option Nat} (hw : 128 ||| W = W) (hs : Rg W s0 s) :
    Rg W s0 (State.countTick s t64 dt) := by
  unfold State.countTick
  repeat' first
    | with_reducible assumption
    | (extract_lets +onlyGivenNames z; guard_hyp z : State := _; refine Rg.cut (x := z) ?_ (fun _ => ?_); rotate_left; clear_value z; revert z; intro _ _; rotate_left; unfold z; clear z)
    | (extract_lets +onlyGivenNames z; clear_value z; revert z; intro _)
    | with_reducible refine Rg.setReg64 (Fr.bit hw rfl) (Fr.bit hw rfl) ?_
    | with_reducible refine Rg.setReg (Fr.bit hw rfl) ?_
    | (with_reducible refine Rg.of ?_); with_reducible assumption
    | split

theorem rg_anchorCommand {W : Nat} {s0 : State} {s : State} {v : Nat} {f : State → State} (hw : 4096 ||| W = W) (hs : Rg W s0 s) (hf : ∀ (x0 : State), Rg W s0 x0 → Rg W s0 (f x0)) :
    Rg W s0 (State.anchorCommand s v f) := by
  unfold State.anchorCommand
  repeat' first
    | intro _
    | with_reducible assumption
    | with_reducible apply hf
    | with_reducible refine rg_command hw ?_ ?_
    | with_reducible refine rg_violation hw ?_
    | with_reducible apply Rg.ite

theorem rg_capture {W : Nat} {s0 : State} {s : State} {n : Nat} {t : Nat} (hw : 43008 ||| W = W) (hs : Rg W s0 s) :
    Rg W s0 (State.capture s n t) := by
  unfold State.capture
  repeat' first
    | intro _
    | with_reducible assumption
    | (extract_lets +onlyGivenNames z; clear_value z; revert z; intro _)
    | with_reducible refine rg_raise (Fr.sub (V := 43008) rfl hw) ?_
    | with_reducible refine Rg.bump (Fr.bit hw (by rw [blk_PTP_CAPn_DROP]; decide)) ?_
    | with_reducible apply Rg.ite
    | (with_reducible refine Rg.of ?_); with_reducible assumption

theorem rg_captureAll {W : Nat} {s0 : State} {s : State} {src : Nat} {t : Nat} (hw : 43008 ||| W = W) (hs : Rg W s0 s) :
    Rg W s0 (State.captureAll s src t) := by
  unfold State.captureAll
  repeat' first
    | intro _
    | with_reducible assumption
    | with_reducible refine rg_capture hw ?_
    | with_reducible apply Rg.ite
    | with_reducible apply Rg.foldl

theorem rg_execTickTrimUpdate {W : Nat} {s0 : State} {s : State} (hw : 40960 ||| W = W) (hs : Rg W s0 s) :
    RgO W s0 (execTickTrimUpdate s) := by
  unfold execTickTrimUpdate
  repeat' first
    | intro _
    | with_reducible assumption
    | (extract_lets +onlyGivenNames z; guard_hyp z : State := _; refine RgO.cut (x := z) ?_ (fun _ => ?_); rotate_left; clear_value z; revert z; intro _ _; rotate_left; unfold z; clear z)
    | (extract_lets +onlyGivenNames z; clear_value z; revert z; intro _)
    | with_reducible refine rg_finish hw ?_ ?_
    | with_reducible refine rg_next ?_
    | with_reducible apply Rg.ite
    | (with_reducible refine Rg.of ?_); with_reducible assumption

theorem rg_execPresetSIdx {W : Nat} {s0 : State} {s : State} (hw : 45056 ||| W = W) (hs : Rg W s0 s) :
    RgO W s0 (execPresetSIdx s) := by
  unfold execPresetSIdx
  repeat' first
    | intro _
    | with_reducible assumption
    | with_reducible refine rg_finish (Fr.sub (V := 45056) rfl hw) ?_ ?_
    | with_reducible refine rg_anchorCommand (Fr.sub (V := 45056) rfl hw) ?_ ?_
    | with_reducible refine rg_presetIdx ?_

theorem rg_execIndexEdge {W : Nat} {s0 : State} {axis : Sys2Proof.AxisName} {t : Nat} {sx : State} (hw : 41088 ||| W = W) (hsx : Rg W s0 sx) :
    RgO W s0 (execIndexEdge axis t sx) := by
  unfold execIndexEdge
  repeat' first
    | intro _
    | with_reducible assumption
    | (extract_lets +onlyGivenNames z; guard_hyp z : State := _; refine RgO.cut (x := z) ?_ (fun _ => ?_); rotate_left; clear_value z; revert z; intro _ _; rotate_left; unfold z; clear z)
    | (extract_lets +onlyGivenNames z; clear_value z; revert z; intro _)
    | with_reducible refine rg_at_ ?_
    | with_reducible refine rg_finish (Fr.sub (V := 41088) rfl hw) ?_ ?_
    | with_reducible refine rg_modAxis ?_
    | with_reducible refine Rg.setField (Fr.bit hw rfl) ?_
    | with_reducible refine Rg.setReg64 (Fr.bit hw rfl) (Fr.bit hw rfl) ?_
    | with_reducible apply Rg.ite
    | split

theorem rg_execPresetCIdx {W : Nat} {s0 : State} {s : State} (hw : 45056 ||| W = W) (hs : Rg W s0 s) :
    RgO W s0 (execPresetCIdx s) := by
  unfold execPresetCIdx
  repeat' first
    | intro _
    | with_reducible assumption
    | with_reducible refine rg_finish (Fr.sub (V := 45056) rfl hw) ?_ ?_
    | with_reducible refine rg_anchorCommand (Fr.sub (V := 45056) rfl hw) ?_ ?_
    | with_reducible refine rg_presetIdx ?_

theorem rg_execAnchorPw {W : Nat} {s0 : State} {s : State} (hw : 45056 ||| W = W) (hs : Rg W s0 s) :
    RgO W s0 (execAnchorPw s) := by
  unfold execAnchorPw
  repeat' first
    | intro _
    | with_reducible assumption
    | (extract_lets +onlyGivenNames z; clear_value z; revert z; intro _)
    | with_reducible refine rg_finish (Fr.sub (V := 45056) rfl hw) ?_ ?_
    | with_reducible refine rg_anchorCommand (Fr.sub (V := 45056) rfl hw) ?_ ?_
    | (with_reducible refine Rg.of ?_); with_reducible assumption

theorem rg_execSimStop {W : Nat} {s0 : State} {s : State} (hw : 45056 ||| W = W) (hs : Rg W s0 s) :
    RgO W s0 (execSimStop s) := by
  unfold execSimStop
  repeat' first
    | intro _
    | with_reducible assumption
    | with_reducible refine rg_finish (Fr.sub (V := 45056) rfl hw) ?_ ?_
    | with_reducible refine rg_command (Fr.sub (V := 45056) rfl hw) ?_ ?_
    | with_reducible refine rg_stopFree ?_

theorem rg_execPresetSNow {W : Nat} {s0 : State} {s : State} (hw : 45056 ||| W = W) (hs : Rg W s0 s) :
    RgO W s0 (execPresetSNow s) := by
  unfold execPresetSNow
  repeat' first
    | intro _
    | with_reducible assumption
    | with_reducible refine rg_finish (Fr.sub (V := 45056) rfl hw) ?_ ?_
    | with_reducible refine rg_anchorCommand (Fr.sub (V := 45056) rfl hw) ?_ ?_
    | with_reducible refine rg_presetNow ?_

theorem rg_execPresetCNow {W : Nat} {s0 : State} {s : State} (hw : 45056 ||| W = W) (hs : Rg W s0 s) :
    RgO W s0 (execPresetCNow s) := by
  unfold execPresetCNow
  repeat' first
    | intro _
    | with_reducible assumption
    | with_reducible refine rg_finish (Fr.sub (V := 45056) rfl hw) ?_ ?_
    | with_reducible refine rg_anchorCommand (Fr.sub (V := 45056) rfl hw) ?_ ?_
    | with_reducible refine rg_presetNow ?_

theorem rg_execSimFreeTick {W : Nat} {s0 : State} {t : Nat} {sx : State} (hw : 41088 ||| W = W) (hsx : Rg W s0 sx) :
    RgO W s0 (execSimFreeTick t sx) := by
  unfold execSimFreeTick
  repeat' first
    | intro _
    | with_reducible assumption
    | (extract_lets +onlyGivenNames z; guard_hyp z : State := _; refine Rg.cut (x := z) ?_ (fun _ => ?_); rotate_left; clear_value z; revert z; intro _ _; rotate_left; unfold z; clear z)
    | (extract_lets +onlyGivenNames z; guard_hyp z : State := _; refine RgO.cut (x := z) ?_ (fun _ => ?_); rotate_left; clear_value z; revert z; intro _ _; rotate_left; unfold z; clear z)
    | (extract_lets +onlyGivenNames z; clear_value z; revert z; intro _)
    | with_reducible refine rg_at_ ?_
    | with_reducible refine rg_finish (Fr.sub (V := 41088) rfl hw) ?_ ?_
    | with_reducible refine rg_countTick (Fr.sub (V := 41088) rfl hw) ?_
    | with_reducible refine Rg.bump (Fr.bit hw rfl) ?_
    | with_reducible apply Rg.ite
    | (with_reducible refine Rg.of ?_); with_reducible assumption
    | split

theorem rg_execSimRun {W : Nat} {s0 : State} {t : Nat} {sx : State} (hw : 45056 ||| W = W) (hsx : Rg W s0 sx) :
    RgO W s0 (execSimRun t sx) := by
  unfold execSimRun
  repeat' first
    | intro _
    | with_reducible assumption
    | (extract_lets +onlyGivenNames z; clear_value z; revert z; intro _)
    | with_reducible refine rg_finish (Fr.sub (V := 45056) rfl hw) ?_ ?_
    | with_reducible refine rg_command (Fr.sub (V := 45056) rfl hw) ?_ ?_
    | with_reducible refine rg_at_ ?_
    | with_reducible refine rg_violation (Fr.sub (V := 45056) rfl hw) ?_
    | with_reducible apply Rg.ite
    | (with_reducible refine Rg.of ?_); with_reducible assumption

theorem rg_swapRoles {W : Nat} {s0 : State} {s : State} (hw : 59392 ||| W = W) (hs : Rg W s0 s) :
    Rg W s0 (State.swapRoles s) := by
  unfold State.swapRoles
  repeat' first
    | with_reducible assumption
    | (extract_lets +onlyGivenNames z; guard_hyp z : State := _; refine Rg.cut (x := z) ?_ (fun _ => ?_); rotate_left; clear_value z; revert z; intro _ _; rotate_left; unfold z; clear z)
    | (extract_lets +onlyGivenNames z; clear_value z; revert z; intro _)
    | with_reducible refine rg_captureAll (Fr.sub (V := 59392) rfl hw) ?_
    | with_reducible refine rg_raise (Fr.sub (V := 59392) rfl hw) ?_
    | with_reducible refine Rg.setReg (Fr.bit hw rfl) ?_
    | (with_reducible refine Rg.of ?_); with_reducible assumption

theorem rg_loadStore {W : Nat} {s0 : State} {s : State} (hw : 42560 ||| W = W) (hs : Rg W s0 s) :
    Rg W s0 (State.loadStore s) := by
  unfold State.loadStore
  repeat' first
    | intro _
    | with_reducible assumption
    | (extract_lets +onlyGivenNames z; guard_hyp z : State := _; refine Rg.cut (x := z) ?_ (fun _ => ?_); rotate_left; clear_value z; revert z; intro _ _; rotate_left; unfold z; clear z)
    | (extract_lets +onlyGivenNames z; clear_value z; revert z; intro _)
    | with_reducible refine rg_touch (Fr.sub (V := 42560) rfl hw) ?_
    | with_reducible refine Rg.bumpBy (Fr.bit hw rfl) ?_
    | with_reducible refine Rg.setReg (Fr.bit hw rfl) ?_
    | with_reducible refine rg_bmfLog (Fr.sub (V := 42560) rfl hw) ?_
    | with_reducible apply Rg.ite
    | (with_reducible refine Rg.of ?_); with_reducible assumption

theorem rg_depthAfter {W : Nat} {s0 : State} {s : State} (hw : 44771 ||| W = W) (hs : Rg W s0 s) :
    Rg W s0 (State.depthAfter s) := by
  unfold State.depthAfter
  repeat' first
    | intro _
    | with_reducible assumption
    | (extract_lets +onlyGivenNames z; guard_hyp z : State := _; refine Rg.cut (x := z) ?_ (fun _ => ?_); rotate_left; clear_value z; revert z; intro _ _; rotate_left; unfold z; clear z)
    | (extract_lets +onlyGivenNames z; clear_value z; revert z; intro _)
    | with_reducible refine Rg.bump (Fr.bit hw rfl) ?_
    | with_reducible refine Rg.setReg (Fr.bit hw rfl) ?_
    | with_reducible refine rg_condition hw ?_
    | with_reducible apply Rg.ite
    | (with_reducible refine Rg.of ?_); with_reducible assumption
    | split

theorem rg_pwCondition {W : Nat} {s0 : State} {s : State} {code : Nat} (hw : 44771 ||| W = W) (hs : Rg W s0 s) :
    Rg W s0 (State.pwCondition s code) := by
  unfold State.pwCondition
  repeat' first
    | intro _
    | with_reducible assumption
    | with_reducible refine rg_condition hw ?_
    | with_reducible refine rg_raise (Fr.sub (V := 44771) rfl hw) ?_
    | with_reducible apply Rg.ite

theorem rg_execEncoderLos {W : Nat} {s0 : State} {pair : Sys2Proof.EncoderPair} {t : Nat} {sx : State} (hw : 44771 ||| W = W) (hsx : Rg W s0 sx) :
    RgO W s0 (execEncoderLos pair t sx) := by
  unfold execEncoderLos
  repeat' first
    | intro _
    | with_reducible assumption
    | (extract_lets +onlyGivenNames z; guard_hyp z : State := _; refine RgO.cut (x := z) ?_ (fun _ => ?_); rotate_left; clear_value z; revert z; intro _ _; rotate_left; unfold z; clear z)
    | with_reducible refine rg_at_ ?_
    | with_reducible refine rg_finish (Fr.sub (V := 44771) rfl hw) ?_ ?_
    | with_reducible refine rg_modAxis ?_
    | with_reducible refine Rg.bump (Fr.bit hw rfl) ?_
    | with_reducible refine rg_condition hw ?_
    | with_reducible apply Rg.ite

theorem rg_loadChain {W : Nat} {s0 : State} {s : State} (hw : 44771 ||| W = W) (hs : Rg W s0 s) :
    Rg W s0 (State.loadChain s) := by
  unfold State.loadChain
  repeat' first
    | intro _
    | with_reducible assumption
    | (extract_lets +onlyGivenNames z; guard_hyp z : State := _; refine Rg.cut (x := z) ?_ (fun _ => ?_); rotate_left; clear_value z; revert z; intro _ _; rotate_left; unfold z; clear z)
    | (extract_lets +onlyGivenNames z; clear_value z; revert z; intro _)
    | with_reducible refine rg_touch (Fr.sub (V := 44771) rfl hw) ?_
    | with_reducible refine rg_once ?_ ?_
    | with_reducible refine rg_truncateNow hw ?_
    | with_reducible refine rg_bmfLog (Fr.sub (V := 44771) rfl hw) ?_
    | with_reducible apply Rg.ite
    | with_reducible apply Rg.foldl
    | (with_reducible refine Rg.of ?_); with_reducible assumption

theorem rg_tickStops {W : Nat} {s0 : State} {s : State} {r : Run} {k : Nat} {ovs : Bool} {sat : Bool} (hw : 44771 ||| W = W) (hs : Rg W s0 s) :
    Rg W s0 (State.tickStops s r k ovs sat) := by
  unfold State.tickStops
  repeat' first
    | intro _
    | with_reducible assumption
    | (extract_lets +onlyGivenNames z; guard_hyp z : State := _; refine Rg.cut (x := z) ?_ (fun _ => ?_); rotate_left; clear_value z; revert z; intro _ _; rotate_left; unfold z; clear z)
    | (extract_lets +onlyGivenNames z; clear_value z; revert z; intro _)
    | with_reducible refine rg_condition hw ?_
    | with_reducible refine rg_truncateNow hw ?_
    | with_reducible refine rg_modRun ?_
    | with_reducible apply Rg.ite

theorem rg_execEncoderEdge {W : Nat} {s0 : State} {axis : Sys2Proof.AxisName} {a : Bool} {b : Bool} {t : Nat} {sx : State} (hw : 44771 ||| W = W) (hsx : Rg W s0 sx) :
    RgO W s0 (execEncoderEdge axis a b t sx) := by
  unfold execEncoderEdge
  repeat' first
    | intro _
    | with_reducible assumption
    | (extract_lets +onlyGivenNames z; guard_hyp z : State := _; refine Rg.cut (x := z) ?_ (fun _ => ?_); rotate_left; clear_value z; revert z; intro _ _; rotate_left; unfold z; clear z)
    | (extract_lets +onlyGivenNames z; guard_hyp z : State := _; refine RgO.cut (x := z) ?_ (fun _ => ?_); rotate_left; clear_value z; revert z; intro _ _; rotate_left; unfold z; clear z)
    | (extract_lets +onlyGivenNames z; clear_value z; revert z; intro _)
    | with_reducible refine rg_at_ ?_
    | with_reducible refine rg_modAxis ?_
    | with_reducible refine rg_finish (Fr.sub (V := 44771) rfl hw) ?_ ?_
    | with_reducible refine rg_noteBelow ?_
    | with_reducible refine rg_depthAfter hw ?_
    | with_reducible refine rg_condition hw ?_
    | with_reducible refine Rg.bump (Fr.bit hw rfl) ?_
    | with_reducible apply Rg.ite
    | split

theorem rg_checkWord {W : Nat} {s0 : State} {s : State} {d : Int} {t : Nat} (hw : 44771 ||| W = W) (hs : Rg W s0 s) :
    Rg W s0 (State.checkWord s d t) := by
  unfold State.checkWord
  repeat' first
    | intro _
    | with_reducible assumption
    | (extract_lets +onlyGivenNames z; guard_hyp z : State := _; refine Rg.cut (x := z) ?_ (fun _ => ?_); rotate_left; clear_value z; revert z; intro _ _; rotate_left; unfold z; clear z)
    | (extract_lets +onlyGivenNames z; clear_value z; revert z; intro _)
    | with_reducible refine rg_pwCondition hw ?_
    | with_reducible refine Rg.bump (Fr.bit hw rfl) ?_
    | with_reducible refine rg_modAxis ?_
    | with_reducible apply Rg.ite
    | (with_reducible refine Rg.of ?_); with_reducible assumption

theorem rg_execPositionWordLoss {W : Nat} {s0 : State} {t : Nat} {sx : State} (hw : 44771 ||| W = W) (hsx : Rg W s0 sx) :
    RgO W s0 (execPositionWordLoss t sx) := by
  unfold execPositionWordLoss
  repeat' first
    | intro _
    | with_reducible assumption
    | (extract_lets +onlyGivenNames z; guard_hyp z : State := _; refine RgO.cut (x := z) ?_ (fun _ => ?_); rotate_left; clear_value z; revert z; intro _ _; rotate_left; unfold z; clear z)
    | with_reducible refine rg_at_ ?_
    | with_reducible refine rg_finish (Fr.sub (V := 44771) rfl hw) ?_ ?_
    | with_reducible refine rg_pwCondition hw ?_
    | with_reducible apply Rg.ite

theorem rg_overspeed {W : Nat} {s0 : State} {s : State} {k : Nat} (hw : 44771 ||| W = W) (hs : Rg W s0 s) :
    Rg W s0 (State.overspeed s k) := by
  unfold State.overspeed
  repeat' first
    | intro _
    | with_reducible assumption
    | (extract_lets +onlyGivenNames z; guard_hyp z : State := _; refine Rg.cut (x := z) ?_ (fun _ => ?_); rotate_left; clear_value z; revert z; intro _ _; rotate_left; unfold z; clear z)
    | with_reducible refine rg_hole hw ?_
    | with_reducible refine Rg.bump (Fr.bit hw rfl) ?_
    | with_reducible refine rg_once ?_ ?_
    | with_reducible refine rg_raise (Fr.sub (V := 44771) rfl hw) ?_
    | with_reducible refine rg_modRun ?_

theorem rg_beginRun {W : Nat} {s0 : State} {s : State} (hw : 61171 ||| W = W) (hs : Rg W s0 s) :
    Rg W s0 (State.beginRun s) := by
  unfold State.beginRun
  repeat' first
    | intro _
    | with_reducible assumption
    | (extract_lets +onlyGivenNames z; guard_hyp z : State := _; refine Rg.cut (x := z) ?_ (fun _ => ?_); rotate_left; clear_value z; revert z; intro _ _; rotate_left; unfold z; clear z)
    | (extract_lets +onlyGivenNames z; clear_value z; revert z; intro _)
    | with_reducible refine rg_swapRoles (Fr.sub (V := 61171) rfl hw) ?_
    | with_reducible refine rg_setChanged (Fr.sub (V := 61171) rfl hw) ?_
    | with_reducible refine rg_modRun ?_
    | with_reducible refine rg_readOffsets ?_
    | with_reducible refine Rg.setRegs hw (by simp only [List.length_cons, List.length_nil]; decide) ?_
    | with_reducible refine rg_memWrite (Fr.sub (V := 61171) rfl hw) ?_
    | with_reducible refine rg_loadChain (Fr.sub (V := 61171) rfl hw) ?_
    | with_reducible refine rg_loadStore (Fr.sub (V := 61171) rfl hw) ?_
    | with_reducible apply Rg.ite
    | (with_reducible refine Rg.of ?_); with_reducible assumption
    | split

theorem rg_execPositionWord {W : Nat} {s0 : State} {bits : List Bool} {t : Nat} {sx : State} (hw : 44771 ||| W = W) (hsx : Rg W s0 sx) :
    RgO W s0 (execPositionWord bits t sx) := by
  unfold execPositionWord
  repeat' first
    | intro _
    | with_reducible assumption
    | (extract_lets +onlyGivenNames z; guard_hyp z : State := _; refine Rg.cut (x := z) ?_ (fun _ => ?_); rotate_left; clear_value z; revert z; intro _ _; rotate_left; unfold z; clear z)
    | (extract_lets +onlyGivenNames z; guard_hyp z : State := _; refine RgO.cut (x := z) ?_ (fun _ => ?_); rotate_left; clear_value z; revert z; intro _ _; rotate_left; unfold z; clear z)
    | with_reducible refine rg_at_ ?_
    | with_reducible refine rg_finish (Fr.sub (V := 44771) rfl hw) ?_ ?_
    | with_reducible refine Rg.bump (Fr.bit hw rfl) ?_
    | with_reducible refine Rg.setReg64 (Fr.bit hw rfl) (Fr.bit hw rfl) ?_
    | with_reducible refine rg_checkWord hw ?_
    | with_reducible apply Rg.ite
    | split

theorem rg_markTick {W : Nat} {s0 : State} {s : State} {r : Run} {k : Nat} {t64 : Nat} {dt : Nat} {cxw : Int} {sat : Bool} (hw : 44779 ||| W = W) (hs : Rg W s0 s) :
    Rg W s0 (State.markTick s r k t64 dt cxw sat) := by
  unfold State.markTick
  repeat' first
    | intro _
    | with_reducible assumption
    | (extract_lets +onlyGivenNames z; guard_hyp z : State := _; refine Rg.cut (x := z) ?_ (fun _ => ?_); rotate_left; clear_value z; revert z; intro _ _; rotate_left; unfold z; clear z)
    | (extract_lets +onlyGivenNames z; clear_value z; revert z; intro _)
    | with_reducible refine rg_overspeed (Fr.sub (V := 44779) rfl hw) ?_
    | with_reducible refine rg_modRun ?_
    | with_reducible refine rg_yields (Fr.sub (V := 44779) rfl hw) ?_
    | with_reducible refine rg_releaseReplay (Fr.sub (V := 44779) rfl hw) ?_
    | with_reducible refine Rg.bump (Fr.bit hw rfl) ?_
    | with_reducible refine rg_tickStops (Fr.sub (V := 44779) rfl hw) ?_
    | with_reducible apply Rg.ite
    | (with_reducible refine Rg.of ?_); with_reducible assumption

theorem rg_takeTick {W : Nat} {s0 : State} {s : State} {t64 : Nat} {k : Nat} {dt : Option Nat} (hw : 61427 ||| W = W) (hs : Rg W s0 s) :
    Rg W s0 (State.takeTick s t64 k dt) := by
  unfold State.takeTick
  repeat' first
    | intro _
    | with_reducible assumption
    | (extract_lets +onlyGivenNames z; guard_hyp z : State := _; refine Rg.cut (x := z) ?_ (fun _ => ?_); rotate_left; clear_value z; revert z; intro _ _; rotate_left; unfold z; clear z)
    | with_reducible refine rg_countTick (Fr.sub (V := 61427) rfl hw) ?_
    | with_reducible refine rg_modRun ?_
    | with_reducible refine Rg.setReg (Fr.bit hw rfl) ?_
    | with_reducible refine rg_beginRun (Fr.sub (V := 61427) rfl hw) ?_
    | with_reducible refine rg_captureAll (Fr.sub (V := 61427) rfl hw) ?_
    | with_reducible refine rg_lateFrames (Fr.sub (V := 61427) rfl hw) ?_
    | with_reducible apply Rg.ite

theorem rg_issueTick {W : Nat} {s0 : State} {s : State} {t64 : Nat} {cx : Nat → Int × Bool} (hw : 61435 ||| W = W) (hs : Rg W s0 s) :
    Rg W s0 (State.issueTick s t64 cx) := by
  unfold State.issueTick
  repeat' first
    | with_reducible assumption
    | (extract_lets +onlyGivenNames z; guard_hyp z : State := _; refine Rg.cut (x := z) ?_ (fun _ => ?_); rotate_left; clear_value z; revert z; intro _ _; rotate_left; unfold z; clear z)
    | (extract_lets +onlyGivenNames z; clear_value z; revert z; intro _)
    | with_reducible refine rg_takeTick (Fr.sub (V := 61435) rfl hw) ?_
    | with_reducible refine rg_markTick (Fr.sub (V := 61435) rfl hw) ?_
    | split

theorem rg_execSimTick {W : Nat} {s0 : State} {t : Nat} {sx : State} (hw : 61435 ||| W = W) (hsx : Rg W s0 sx) :
    RgO W s0 (execSimTick t sx) := by
  unfold execSimTick
  repeat' first
    | intro _
    | with_reducible assumption
    | (extract_lets +onlyGivenNames z; guard_hyp z : State := _; refine Rg.cut (x := z) ?_ (fun _ => ?_); rotate_left; clear_value z; revert z; intro _ _; rotate_left; unfold z; clear z)
    | (extract_lets +onlyGivenNames z; guard_hyp z : State := _; refine RgO.cut (x := z) ?_ (fun _ => ?_); rotate_left; clear_value z; revert z; intro _ _; rotate_left; unfold z; clear z)
    | (extract_lets +onlyGivenNames z; clear_value z; revert z; intro _)
    | with_reducible refine rg_at_ ?_
    | with_reducible refine rg_finish (Fr.sub (V := 61435) rfl hw) ?_ ?_
    | with_reducible refine rg_issueTick hw ?_
    | with_reducible apply Rg.ite
    | (with_reducible refine Rg.of ?_); with_reducible assumption
    | split

theorem rg_execTickIssue {W : Nat} {s0 : State} {t : Nat} {sx : State} (hw : 61435 ||| W = W) (hsx : Rg W s0 sx) :
    RgO W s0 (execTickIssue t sx) := by
  unfold execTickIssue
  repeat' first
    | intro _
    | with_reducible assumption
    | (extract_lets +onlyGivenNames z; guard_hyp z : State := _; refine RgO.cut (x := z) ?_ (fun _ => ?_); rotate_left; clear_value z; revert z; intro _ _; rotate_left; unfold z; clear z)
    | (extract_lets +onlyGivenNames z; clear_value z; revert z; intro _)
    | with_reducible refine rg_at_ ?_
    | with_reducible refine rg_finish (Fr.sub (V := 61435) rfl hw) ?_ ?_
    | with_reducible refine rg_issueTick hw ?_
    | with_reducible refine rg_modRun ?_
    | with_reducible apply Rg.ite
    | split

/-! Launch. -/

theorem rg_deposit {W : Nat} {s0 : State} {s : State} {r : Run} {k : Nat} {levels : List (Nat × Nat)} (hs : Rg W s0 s) :
    Rg W s0 (State.deposit s r k levels) := by
  unfold State.deposit
  repeat' first
    | (extract_lets +onlyGivenNames z; clear_value z; revert z; intro _)
    | (with_reducible refine Rg.of ?_); with_reducible assumption

theorem rg_useInjection {W : Nat} {s0 : State} {s : State} {p : Nat} (hw : 256 ||| W = W) (hs : Rg W s0 s) :
    Rg W s0 (State.useInjection s p) := by
  unfold State.useInjection
  repeat' first
    | intro _
    | with_reducible assumption
    | (extract_lets +onlyGivenNames z; clear_value z; revert z; intro _)
    | with_reducible refine Rg.setReg (Fr.bit hw (by rw [blk_LNK_LN_INJ]; decide)) ?_
    | with_reducible apply Rg.ite

theorem rg_formTable {W : Nat} {s0 : State} {s : State} (hw : 64 ||| W = W) (hs : Rg W s0 s) :
    Rg W s0 (State.formTable s) := by
  unfold State.formTable
  repeat' first
    | intro _
    | with_reducible assumption
    | (extract_lets +onlyGivenNames z; guard_hyp z : State := _; refine Rg.cut (x := z) ?_ (fun _ => ?_); rotate_left; clear_value z; revert z; intro _ _; rotate_left; unfold z; clear z)
    | (extract_lets +onlyGivenNames z; clear_value z; revert z; intro _)
    | with_reducible refine Rg.setReg (Fr.bit hw (by rw [blk_BMF_TEMP_0]; decide)) ?_
    | with_reducible apply Rg.foldl
    | (with_reducible refine Rg.of ?_); with_reducible assumption

theorem rg_phase_eq {W : Nat} {s0 : State} {s : State} {r : Run} {x2 : TickRec} (hs : Rg W s0 s) {s' : State} {x'} (e' : State.phase s r x2 = (s', x')) :
    Rg W s0 s' := by
  unfold State.phase at e'
  repeat' first
    | with_reducible assumption
    | (extract_lets +onlyGivenNames z at e'; clear_value z; revert z; intro _ e')
    | split at e'
    | with_reducible refine rg_next ?_
    | ((with_reducible refine Rg.of_pair ?_ e'); clear e')

theorem rg_phase {W : Nat} {s0 : State} {s : State} {r : Run} {x2 : TickRec} (hs : Rg W s0 s) : Rg W s0 (State.phase s r x2).1 :=
  Rg.of_eq fun _ _ e' => rg_phase_eq hs e'

theorem rg_headFrame {W : Nat} {s0 : State} {s : State} {r : Run} {x2 : TickRec} {levels : List (Nat × Nat)} (hw : 128 ||| W = W) (hs : Rg W s0 s) :
    Rg W s0 (State.headFrame s r x2 levels) := by
  unfold State.headFrame
  repeat' first
    | with_reducible assumption
    | (extract_lets +onlyGivenNames z; guard_hyp z : State := _; refine Rg.cut (x := z) ?_ (fun _ => ?_); rotate_left; clear_value z; revert z; intro _ _; rotate_left; unfold z; clear z)
    | (extract_lets +onlyGivenNames z; guard_hyp z : State × _ := _; revert z; intro _)
    | (extract_lets +onlyGivenNames z; clear_value z; revert z; intro _)
    | with_reducible refine rg_phase ?_
    | with_reducible refine Rg.setReg (Fr.bit hw rfl) ?_
    | (with_reducible refine Rg.of ?_); with_reducible assumption

theorem rg_strandLate {W : Nat} {s0 : State} {s : State} {w : Nat} (hw : 40992 ||| W = W) (hs : Rg W s0 s) :
    Rg W s0 (State.strandLate s w) := by
  unfold State.strandLate
  repeat' first
    | with_reducible assumption
    | with_reducible refine rg_raise (Fr.sub (V := 40992) rfl hw) ?_
    | with_reducible refine Rg.setReg (Fr.bit hw rfl) ?_
    | with_reducible refine Rg.bump (Fr.bit hw rfl) ?_

theorem rg_assembleLevels {W : Nat} {s0 : State} {s : State} {r : Run} {k : Nat} (hw : 41024 ||| W = W) (hs : Rg W s0 s) :
    Rg W s0 (State.assembleLevels s r k) := by
  unfold State.assembleLevels
  repeat' first
    | with_reducible assumption
    | (extract_lets +onlyGivenNames z; guard_hyp z : State := _; refine Rg.cut (x := z) ?_ (fun _ => ?_); rotate_left; clear_value z; revert z; intro _ _; rotate_left; unfold z; clear z)
    | (extract_lets +onlyGivenNames z; clear_value z; revert z; intro _)
    | with_reducible refine Rg.bumpBy (Fr.bit hw rfl) ?_
    | with_reducible refine rg_addShort hw ?_
    | (with_reducible refine Rg.of ?_); with_reducible assumption

theorem rg_execTempStale {W : Nat} {s0 : State} {q0 : Nat} {t : Nat} {sx : State} (hw : 41024 ||| W = W) (hsx : Rg W s0 sx) :
    RgO W s0 (execTempStale q0 t sx) := by
  unfold execTempStale
  repeat' first
    | intro _
    | with_reducible assumption
    | (extract_lets +onlyGivenNames z; guard_hyp z : State := _; refine RgO.cut (x := z) ?_ (fun _ => ?_); rotate_left; clear_value z; revert z; intro _ _; rotate_left; unfold z; clear z)
    | with_reducible refine rg_at_ ?_
    | with_reducible refine rg_finish (Fr.sub (V := 41024) rfl hw) ?_ ?_
    | with_reducible refine rg_once ?_ ?_
    | with_reducible refine Rg.setField (Fr.bit hw (by rw [blk_BMF_TEMP_0]; decide)) ?_
    | with_reducible refine rg_bmfLog hw ?_
    | with_reducible apply Rg.ite

theorem rg_execWorkingTableUpdate {W : Nat} {s0 : State} {s : State} (hw : 41024 ||| W = W) (hs : Rg W s0 s) :
    RgO W s0 (execWorkingTableUpdate s) := by
  unfold execWorkingTableUpdate
  repeat' first
    | intro _
    | with_reducible assumption
    | with_reducible refine rg_finish (Fr.sub (V := 41024) rfl hw) ?_ ?_
    | with_reducible refine rg_formTable (Fr.sub (V := 41024) rfl hw) ?_
    | with_reducible apply Rg.ite

theorem rg_execThermalDecay {W : Nat} {s0 : State} {s : State} (hw : 40960 ||| W = W) (hs : Rg W s0 s) :
    RgO W s0 (execThermalDecay s) := by
  unfold execThermalDecay
  repeat' first
    | with_reducible assumption
    | (extract_lets +onlyGivenNames z; clear_value z; revert z; intro _)
    | with_reducible refine rg_finish hw ?_ ?_
    | (with_reducible refine Rg.of ?_); with_reducible assumption

theorem rg_execBeamStoreLoadDone {W : Nat} {s0 : State} {s : State} (hw : 42560 ||| W = W) (hs : Rg W s0 s) :
    RgO W s0 (execBeamStoreLoadDone s) := by
  unfold execBeamStoreLoadDone
  repeat' first
    | intro _
    | with_reducible assumption
    | (extract_lets +onlyGivenNames z; guard_hyp z : State := _; refine Rg.cut (x := z) ?_ (fun _ => ?_); rotate_left; clear_value z; revert z; intro _ _; rotate_left; unfold z; clear z)
    | (extract_lets +onlyGivenNames z; clear_value z; revert z; intro _)
    | with_reducible refine rg_finish (Fr.sub (V := 42560) rfl hw) ?_ ?_
    | with_reducible refine rg_memWrite (Fr.sub (V := 42560) rfl hw) ?_
    | with_reducible refine rg_formTable (Fr.sub (V := 42560) rfl hw) ?_
    | with_reducible apply Rg.ite
    | (with_reducible refine Rg.of ?_); with_reducible assumption
    | split

theorem rg_fetchStrand_eq {W : Nat} {s0 : State} {s : State} {k : Work} {nb : Nat} {w : Nat} {i : Nat} (hw : 42528 ||| W = W) (hs : Rg W s0 s) {s' : State} {x'} (e' : State.fetchStrand s k nb w i = (s', x')) :
    Rg W s0 s' := by
  unfold State.fetchStrand at e'
  repeat' first
    | with_reducible assumption
    | (extract_lets +onlyGivenNames z at e'; clear_value z; revert z; intro _ e')
    | split at e'
    | with_reducible refine rg_strandLate (Fr.sub (V := 42528) rfl hw) ?_
    | with_reducible refine rg_fpPoison hw ?_
    | with_reducible refine rg_touch (Fr.sub (V := 42528) rfl hw) ?_
    | ((with_reducible refine Rg.of_pair ?_ e'); clear e')

theorem rg_fetchStrand {W : Nat} {s0 : State} {s : State} {k : Work} {nb : Nat} {w : Nat} {i : Nat} (hw : 42528 ||| W = W) (hs : Rg W s0 s) : Rg W s0 (State.fetchStrand s k nb w i).1 :=
  Rg.of_eq fun _ _ e' => rg_fetchStrand_eq hw hs e'

theorem rg_fetchRow_eq {W : Nat} {s0 : State} {s : State} {r : Run} {tick : Nat} {i : Nat} (hw : 42528 ||| W = W) (hs : Rg W s0 s) {s' : State} {x'} (e' : State.fetchRow s r tick i = (s', x')) :
    Rg W s0 s' := by
  unfold State.fetchRow at e'
  repeat' first
    | with_reducible assumption
    | split at e'
    | with_reducible refine rg_strandLate (Fr.sub (V := 42528) rfl hw) ?_
    | refine rg_fetchStrand_eq hw ?_ (by with_reducible assumption)
    | ((with_reducible refine Rg.of_pair ?_ e'); clear e')

theorem rg_fetchRow {W : Nat} {s0 : State} {s : State} {r : Run} {tick : Nat} {i : Nat} (hw : 42528 ||| W = W) (hs : Rg W s0 s) : Rg W s0 (State.fetchRow s r tick i).1 :=
  Rg.of_eq fun _ _ e' => rg_fetchRow_eq hw hs e'

theorem rg_fetchStrands {W : Nat} {s0 : State} {s : State} {r : Run} {tick : Nat} (hw : 42528 ||| W = W) (hs : Rg W s0 s) :
    Rg W s0 (State.fetchStrands s r tick) := by
  unfold State.fetchStrands
  repeat' first
    | intro _
    | with_reducible assumption
    | (extract_lets +onlyGivenNames z; guard_hyp z : State := _; refine Rg.cut (x := z) ?_ (fun _ => ?_); rotate_left; clear_value z; revert z; intro _ _; rotate_left; unfold z; clear z)
    | (extract_lets +onlyGivenNames z; guard_hyp z : State × _ := _; revert z; intro _)
    | (extract_lets +onlyGivenNames z; clear_value z; revert z; intro _)
    | with_reducible refine rg_fetchRow hw ?_
    | with_reducible apply Rg.foldl₂
    | (with_reducible refine Rg.of ?_); with_reducible assumption

theorem rg_assemble {W : Nat} {s0 : State} {s : State} {k : Nat} (hw : 44771 ||| W = W) (hs : Rg W s0 s) :
    Rg W s0 (State.assemble s k) := by
  unfold State.assemble
  repeat' first
    | intro _
    | with_reducible assumption
    | (extract_lets +onlyGivenNames z; guard_hyp z : State := _; refine Rg.cut (x := z) ?_ (fun _ => ?_); rotate_left; clear_value z; revert z; intro _ _; rotate_left; unfold z; clear z)
    | (extract_lets +onlyGivenNames z; clear_value z; revert z; intro _)
    | with_reducible refine rg_fetchStrands (Fr.sub (V := 44771) rfl hw) ?_
    | with_reducible refine rg_hole hw ?_
    | with_reducible refine rg_once ?_ ?_
    | with_reducible refine rg_truncateNow hw ?_
    | with_reducible refine rg_bmfLog (Fr.sub (V := 44771) rfl hw) ?_
    | with_reducible refine rg_assembleLevels (Fr.sub (V := 44771) rfl hw) ?_
    | with_reducible apply Rg.ite
    | with_reducible apply Rg.foldl
    | (with_reducible refine Rg.of ?_); with_reducible assumption
    | split

theorem rg_deadlines {W : Nat} {s0 : State} {s : State} {r : Run} {k : Nat} {missed : List Nat} (hw : 44771 ||| W = W) (hs : Rg W s0 s) :
    Rg W s0 (State.deadlines s r k missed) := by
  unfold State.deadlines
  repeat' first
    | intro _
    | with_reducible assumption
    | (extract_lets +onlyGivenNames z; guard_hyp z : State := _; refine Rg.cut (x := z) ?_ (fun _ => ?_); rotate_left; clear_value z; revert z; intro _ _; rotate_left; unfold z; clear z)
    | with_reducible refine rg_once ?_ ?_
    | with_reducible refine rg_hole hw ?_
    | with_reducible refine Rg.bump (Fr.bit hw rfl) ?_
    | with_reducible refine rg_bmfLog (Fr.sub (V := 44771) rfl hw) ?_
    | with_reducible apply Rg.ite
    | with_reducible apply Rg.foldl

theorem rg_sendFrame {W : Nat} {s0 : State} {s : State} {k : Nat} {l : Nat} (hw : 45027 ||| W = W) (hs : Rg W s0 s) :
    Rg W s0 (State.sendFrame s k l) := by
  unfold State.sendFrame
  repeat' first
    | intro _
    | with_reducible assumption
    | (extract_lets +onlyGivenNames z; guard_hyp z : State := _; refine Rg.cut (x := z) ?_ (fun _ => ?_); rotate_left; clear_value z; revert z; intro _ _; rotate_left; unfold z; clear z)
    | (extract_lets +onlyGivenNames z; clear_value z; revert z; intro _)
    | with_reducible refine rg_frameLost hw ?_
    | with_reducible refine rg_hole (Fr.sub (V := 45027) rfl hw) ?_
    | with_reducible refine rg_useInjection (Fr.sub (V := 45027) rfl hw) ?_
    | with_reducible apply Rg.ite
    | (with_reducible refine Rg.of ?_); with_reducible assumption
    | split

theorem rg_launchTick {W : Nat} {s0 : State} {s : State} {r : Run} {x2 : TickRec} {rest : List TickRec} {missed : List Nat} (hw : 45027 ||| W = W) (hs : Rg W s0 s) :
    Rg W s0 (State.launchTick s r x2 rest missed) := by
  unfold State.launchTick
  repeat' first
    | intro _
    | with_reducible assumption
    | (extract_lets +onlyGivenNames z; guard_hyp z : State := _; refine Rg.cut (x := z) ?_ (fun _ => ?_); rotate_left; clear_value z; revert z; intro _ _; rotate_left; unfold z; clear z)
    | (extract_lets +onlyGivenNames z; clear_value z; revert z; intro _)
    | with_reducible refine rg_deadlines (Fr.sub (V := 45027) rfl hw) ?_
    | with_reducible refine rg_headFrame (Fr.sub (V := 45027) rfl hw) ?_
    | with_reducible refine rg_deposit ?_
    | with_reducible refine rg_modRun ?_
    | with_reducible refine rg_sendEnd ?_
    | with_reducible refine rg_sendFrame hw ?_
    | with_reducible refine rg_assemble (Fr.sub (V := 45027) rfl hw) ?_
    | with_reducible apply Rg.ite
    | with_reducible apply Rg.foldl

theorem rg_launch {W : Nat} {s0 : State} {s : State} {missed : List Nat} (hw : 45027 ||| W = W) (hs : Rg W s0 s) :
    Rg W s0 (State.launch s missed) := by
  unfold State.launch
  repeat' first
    | with_reducible assumption
    | with_reducible refine rg_launchTick hw ?_
    | split

theorem rg_execFrameLaunch {W : Nat} {s0 : State} {t : Nat} {missed : List Nat} {sx : State} (hw : 45027 ||| W = W) (hsx : Rg W s0 sx) :
    RgO W s0 (execFrameLaunch t missed sx) := by
  unfold execFrameLaunch
  repeat' first
    | intro _
    | with_reducible assumption
    | (extract_lets +onlyGivenNames z; guard_hyp z : State := _; refine RgO.cut (x := z) ?_ (fun _ => ?_); rotate_left; clear_value z; revert z; intro _ _; rotate_left; unfold z; clear z)
    | (extract_lets +onlyGivenNames z; clear_value z; revert z; intro _)
    | with_reducible refine rg_at_ ?_
    | with_reducible refine rg_finish (Fr.sub (V := 45027) rfl hw) ?_ ?_
    | with_reducible refine rg_launch hw ?_
    | with_reducible apply Rg.ite
    | (with_reducible refine Rg.of ?_); with_reducible assumption
    | split

/-! Plate. -/

theorem rg_planTruncation {W : Nat} {s0 : State} {s : State} {r : Run} {k : Work} {peak : Int} (hw : 44771 ||| W = W) (hs : Rg W s0 s) :
    Rg W s0 (State.planTruncation s r k peak) := by
  unfold State.planTruncation
  repeat' first
    | intro _
    | with_reducible assumption
    | (extract_lets +onlyGivenNames z; guard_hyp z : State := _; refine Rg.cut (x := z) ?_ (fun _ => ?_); rotate_left; clear_value z; revert z; intro _ _; rotate_left; unfold z; clear z)
    | (extract_lets +onlyGivenNames z; clear_value z; revert z; intro _)
    | with_reducible refine Rg.setReg (Fr.bit hw rfl) ?_
    | with_reducible refine Rg.setField (Fr.bit hw rfl) ?_
    | with_reducible refine rg_truncateNow hw ?_
    | with_reducible apply Rg.ite
    | (with_reducible refine Rg.of ?_); with_reducible assumption
    | split

theorem rg_plateSample {W : Nat} {s0 : State} {s : State} (hw : 44771 ||| W = W) (hs : Rg W s0 s) :
    Rg W s0 (State.plateSample s) := by
  unfold State.plateSample
  repeat' first
    | intro _
    | with_reducible assumption
    | (extract_lets +onlyGivenNames z; guard_hyp z : State := _; refine Rg.cut (x := z) ?_ (fun _ => ?_); rotate_left; clear_value z; revert z; intro _ _; rotate_left; unfold z; clear z)
    | (extract_lets +onlyGivenNames z; clear_value z; revert z; intro _)
    | with_reducible refine rg_raise (Fr.sub (V := 44771) rfl hw) ?_
    | with_reducible refine Rg.setField (Fr.bit hw rfl) ?_
    | with_reducible refine rg_truncateNow hw ?_
    | with_reducible apply Rg.ite
    | (with_reducible refine Rg.of ?_); with_reducible assumption

theorem rg_execPlateForecast {W : Nat} {s0 : State} {t : Nat} {sx : State} (hw : 44771 ||| W = W) (hsx : Rg W s0 sx) :
    RgO W s0 (execPlateForecast t sx) := by
  unfold execPlateForecast
  repeat' first
    | intro _
    | with_reducible assumption
    | (extract_lets +onlyGivenNames z; guard_hyp z : State := _; refine Rg.cut (x := z) ?_ (fun _ => ?_); rotate_left; clear_value z; revert z; intro _ _; rotate_left; unfold z; clear z)
    | (extract_lets +onlyGivenNames z; guard_hyp z : State := _; refine RgO.cut (x := z) ?_ (fun _ => ?_); rotate_left; clear_value z; revert z; intro _ _; rotate_left; unfold z; clear z)
    | (extract_lets +onlyGivenNames z; clear_value z; revert z; intro _)
    | with_reducible refine rg_at_ ?_
    | with_reducible refine rg_finish (Fr.sub (V := 44771) rfl hw) ?_ ?_
    | with_reducible refine Rg.setField (Fr.bit hw rfl) ?_
    | with_reducible refine rg_planTruncation hw ?_
    | with_reducible apply Rg.ite
    | (with_reducible refine Rg.of ?_); with_reducible assumption
    | split

end Sys2Proof.Laws
end

