-- ==== Sys2Proof/Laws/RegFrameResets.lean ====
section
/-! SUPPORT. The registers that link training, resets and power domains leave as they were: one lemma for each operation and each command (see RegFrame). -/

namespace Sys2Proof.Laws

open Sys2Proof.Machine

/-! RimTrain. -/

theorem rg_reviveDown {W : Nat} {s0 : State} {s : State} (hs : Rg W s0 s) :
    Rg W s0 (State.reviveDown s) := by
  unfold State.reviveDown
  repeat' first
    | intro _
    | with_reducible assumption
    | (extract_lets +onlyGivenNames z; guard_hyp z : State := _; refine Rg.cut (x := z) ?_ (fun _ => ?_); rotate_left; clear_value z; revert z; intro _ _; rotate_left; unfold z; clear z)
    | (extract_lets +onlyGivenNames z; clear_value z; revert z; intro _)
    | with_reducible refine rg_modLane ?_
    | with_reducible apply Rg.ite
    | with_reducible apply Rg.foldl
    | (with_reducible refine Rg.of ?_); with_reducible assumption
    | split

theorem rg_sendChallenge {W : Nat} {s0 : State} {s : State} {nm : Nat} (hs : Rg W s0 s) :
    Rg W s0 (State.sendChallenge s nm) := by
  unfold State.sendChallenge
  repeat' first
    | with_reducible assumption
    | with_reducible refine rg_sendBlocks ?_

theorem rg_identPasses {W : Nat} {s0 : State} {s : State} {pid : Nat} {mac : List Sys2Proof.Byte} (hw : 256 ||| W = W) (hs : Rg W s0 s) :
    Rg W s0 (State.identPasses s pid mac) := by
  unfold State.identPasses
  repeat' first
    | with_reducible assumption
    | (extract_lets +onlyGivenNames z; guard_hyp z : State := _; refine Rg.cut (x := z) ?_ (fun _ => ?_); rotate_left; clear_value z; revert z; intro _ _; rotate_left; unfold z; clear z)
    | (extract_lets +onlyGivenNames z; clear_value z; revert z; intro _)
    | with_reducible refine Rg.setReg64 (Fr.bit hw rfl) (Fr.bit hw rfl) ?_
    | with_reducible refine rg_sendBlocks ?_
    | (with_reducible refine Rg.of ?_); with_reducible assumption

theorem rg_trainLane {W : Nat} {s0 : State} {s : State} {p : Nat} {x2 : Sys2Proof.LaneTraining} {r : Except Nat Sys2Proof.LaneTaps} (hw : 256 ||| W = W) (hs : Rg W s0 s) :
    Rg W s0 (State.trainLane s p x2 r) := by
  unfold State.trainLane
  repeat' first
    | intro _
    | with_reducible assumption
    | (extract_lets +onlyGivenNames z; guard_hyp z : State := _; refine Rg.cut (x := z) ?_ (fun _ => ?_); rotate_left; clear_value z; revert z; intro _ _; rotate_left; unfold z; clear z)
    | with_reducible refine rg_modLane ?_
    | with_reducible refine rg_failLane hw ?_
    | with_reducible apply Rg.ite
    | split

theorem rg_retrainLane {W : Nat} {s0 : State} {s : State} {p : Nat} {r : Sys2Proof.LaneTraining} (hw : 256 ||| W = W) (hs : Rg W s0 s) :
    Rg W s0 (State.retrainLane s p r) := by
  unfold State.retrainLane
  repeat' first
    | with_reducible assumption
    | (extract_lets +onlyGivenNames z; guard_hyp z : State := _; refine Rg.cut (x := z) ?_ (fun _ => ?_); rotate_left; clear_value z; revert z; intro _ _; rotate_left; unfold z; clear z)
    | (extract_lets +onlyGivenNames z; clear_value z; revert z; intro _)
    | with_reducible refine rg_trainLane hw ?_
    | with_reducible refine rg_reviveDown ?_
    | with_reducible refine rg_modLane ?_
    | with_reducible refine rg_lnkLog hw ?_
    | split

theorem rg_identFails {W : Nat} {s0 : State} {s : State} {exchange : Bool} (hw : 41216 ||| W = W) (hs : Rg W s0 s) :
    Rg W s0 (State.identFails s exchange) := by
  unfold State.identFails
  repeat' first
    | intro _
    | with_reducible assumption
    | (extract_lets +onlyGivenNames z; guard_hyp z : State := _; refine Rg.cut (x := z) ?_ (fun _ => ?_); rotate_left; clear_value z; revert z; intro _ _; rotate_left; unfold z; clear z)
    | (extract_lets +onlyGivenNames z; clear_value z; revert z; intro _)
    | with_reducible refine Rg.bump (Fr.bit hw rfl) ?_
    | with_reducible refine rg_raise (Fr.sub (V := 41216) rfl hw) ?_
    | with_reducible refine rg_lnkLog (Fr.sub (V := 41216) rfl hw) ?_
    | with_reducible apply Rg.ite
    | (with_reducible refine Rg.of ?_); with_reducible assumption

theorem rg_linkUpNow {W : Nat} {s0 : State} {s : State} (hw : 40960 ||| W = W) (hs : Rg W s0 s) :
    Rg W s0 (State.linkUpNow s) := by
  unfold State.linkUpNow
  repeat' first
    | intro _
    | with_reducible assumption
    | (extract_lets +onlyGivenNames z; guard_hyp z : State := _; refine Rg.cut (x := z) ?_ (fun _ => ?_); rotate_left; clear_value z; revert z; intro _ _; rotate_left; unfold z; clear z)
    | (extract_lets +onlyGivenNames z; clear_value z; revert z; intro _)
    | with_reducible refine rg_modLane ?_
    | with_reducible refine rg_raise hw ?_
    | with_reducible apply Rg.foldl
    | (with_reducible refine Rg.of ?_); with_reducible assumption

theorem rg_identAnswer {W : Nat} {s0 s : State} {nm : Nat} {x : Sys2Proof.Ident} (hw : 41216 ||| W = W) (hs : Rg W s0 s) :
    Rg W s0 (State.identAnswer s nm x) := by
  unfold State.identAnswer
  generalize s.checkIdent nm x = c
  cases c with
  | some mac => exact rg_linkUpNow (Fr.sub rfl hw) (rg_identPasses (Fr.sub rfl hw) hs)
  | none => exact rg_linkUpNow (Fr.sub rfl hw) (rg_identFails (Fr.sub rfl hw) hs)

theorem rg_identify {W : Nat} {s0 : State} {s : State} {nm : Nat} {ident : Option Sys2Proof.Ident} {wait : Bool} (hw : 41216 ||| W = W) (hs : Rg W s0 s) :
    Rg W s0 (State.identify s nm ident wait) := by
  unfold State.identify
  repeat' first
    | intro _
    | with_reducible assumption
    | (extract_lets +onlyGivenNames z; guard_hyp z : State := _; refine Rg.cut (x := z) ?_ (fun _ => ?_); rotate_left; clear_value z; revert z; intro _ _; rotate_left; unfold z; clear z)
    | (extract_lets +onlyGivenNames z; clear_value z; revert z; intro _)
    | with_reducible refine rg_linkUpNow (Fr.sub (V := 41216) rfl hw) ?_
    | with_reducible refine rg_identFails hw ?_
    | with_reducible refine rg_sendChallenge ?_
    | with_reducible refine rg_identAnswer hw ?_
    | with_reducible apply Rg.ite
    | (with_reducible refine Rg.of ?_); with_reducible assumption
    | split

theorem rg_trainLink {W : Nat} {s0 : State} {s : State} {r : Sys2Proof.RimTraining} {wait : Bool} (hw : 41216 ||| W = W) (hs : Rg W s0 s) :
    Rg W s0 (State.trainLink s r wait) := by
  unfold State.trainLink
  repeat' first
    | intro _
    | with_reducible assumption
    | (extract_lets +onlyGivenNames z; guard_hyp z : State := _; refine Rg.cut (x := z) ?_ (fun _ => ?_); rotate_left; clear_value z; revert z; intro _ _; rotate_left; unfold z; clear z)
    | (extract_lets +onlyGivenNames z; clear_value z; revert z; intro _)
    | with_reducible refine rg_trainLane (Fr.sub (V := 41216) rfl hw) ?_
    | with_reducible refine rg_lnkLog (Fr.sub (V := 41216) rfl hw) ?_
    | with_reducible refine rg_raise (Fr.sub (V := 41216) rfl hw) ?_
    | with_reducible refine rg_identify hw ?_
    | with_reducible apply Rg.ite
    | with_reducible apply Rg.foldl
    | (with_reducible refine Rg.of ?_); with_reducible assumption

theorem rg_recalLane_eq {W : Nat} {s0 : State} {s : State} {r : Sys2Proof.LaneRecal} (hw : 45027 ||| W = W) (hs : Rg W s0 s) {s' : State} {x'} (e' : State.recalLane s r = (s', x')) :
    Rg W s0 s' := by
  unfold State.recalLane at e'
  repeat' first
    | with_reducible assumption
    | (extract_lets +onlyGivenNames z at e'; clear_value z; revert z; intro _ e')
    | split at e'
    | with_reducible refine rg_modLane ?_
    | with_reducible refine rg_laneFault hw ?_
    | ((with_reducible refine Rg.of_pair ?_ e'); clear e')

theorem rg_recalLane {W : Nat} {s0 : State} {s : State} {r : Sys2Proof.LaneRecal} (hw : 45027 ||| W = W) (hs : Rg W s0 s) : Rg W s0 (State.recalLane s r).1 :=
  Rg.of_eq fun _ _ e' => rg_recalLane_eq hw hs e'

/-! Resets. -/

theorem rg_powerOff {W : Nat} {s0 s : State} (hw : 131071 ||| W = W) (hs : Rg W s0 s) : Rg W s0 (State.powerOff s) := by
  unfold State.powerOff
  extract_lets
  exact Rg.fullOf hw fun _ => smWf_put rfl

theorem rg_boot {W : Nat} {s0 : State} {s : State} (hs : Rg W s0 s) :
    Rg W s0 (State.boot s) := by
  unfold State.boot
  repeat' first
    | (extract_lets +onlyGivenNames z; guard_hyp z : Hst := _; revert z; intro _)
    | (extract_lets +onlyGivenNames z; clear_value z; revert z; intro _)
    | (with_reducible refine Rg.of ?_); with_reducible assumption

theorem rg_closeStay {W : Nat} {s0 : State} {s : State} (hs : Rg W s0 s) :
    Rg W s0 (State.closeStay s) := by
  unfold State.closeStay
  repeat' first
    | intro _
    | (extract_lets +onlyGivenNames z; clear_value z; revert z; intro _)
    | with_reducible apply Rg.ite
    | (with_reducible refine Rg.of ?_); with_reducible assumption

theorem rg_clearLanes {W : Nat} {s0 s : State} {reg : Nat → Nat} (hw : 256 ||| W = W) (hs : Rg W s0 s)
    (hc : ∀ p, p < 72 → (256 : Nat).testBit (regBlock (reg p)) = true) : Rg W s0 (State.clearLanes s reg) := by
  unfold State.clearLanes
  have : ∀ (l : List Nat) (s : State), (∀ p ∈ l, p < 72) → Rg W s0 s → Rg W s0 (l.foldl (fun s p => s.setReg (reg p) 0) s) := by
    intro l
    induction l with
    | nil => exact fun _ _ h => h
    | cons p l ih =>
      intro s hl hs
      exact ih _ (fun q hq => hl q (List.mem_cons_of_mem _ hq)) (Rg.setReg (Fr.bit hw (hc p (hl p List.mem_cons_self))) hs)
  exact this _ _ (fun p hp => List.mem_range.1 hp) hs

theorem rg_coldStart {W : Nat} {s0 : State} {s : State} {code : Nat} (hw : 1 ||| W = W) (hs : Rg W s0 s) :
    Rg W s0 (State.coldStart s code) := by
  unfold State.coldStart
  repeat' first
    | intro _
    | with_reducible assumption
    | (extract_lets +onlyGivenNames z; guard_hyp z : State := _; refine Rg.cut (x := z) ?_ (fun _ => ?_); rotate_left; clear_value z; revert z; intro _ _; rotate_left; unfold z; clear z)
    | (extract_lets +onlyGivenNames z; clear_value z; revert z; intro _)
    | with_reducible refine Rg.setReg (Fr.bit hw rfl) ?_
    | with_reducible refine rg_boot ?_
    | with_reducible apply Rg.ite
    | (with_reducible refine Rg.of ?_); with_reducible assumption

theorem rg_cancelTests {W : Nat} {s0 : State} {s : State} {m : Mode} (hw : 1280 ||| W = W) (hs : Rg W s0 s) :
    Rg W s0 (State.cancelTests s m) := by
  unfold State.cancelTests
  repeat' first
    | intro _
    | with_reducible assumption
    | (extract_lets +onlyGivenNames z; guard_hyp z : State := _; refine Rg.cut (x := z) ?_ (fun _ => ?_); rotate_left; clear_value z; revert z; intro _ _; rotate_left; unfold z; clear z)
    | (extract_lets +onlyGivenNames z; clear_value z; revert z; intro _)
    | with_reducible refine rg_clearLanes (Fr.sub (V := 1280) rfl hw) ?_ (by decide)
    | with_reducible refine Rg.setField (Fr.bit hw rfl) ?_
    | with_reducible apply Rg.ite
    | (with_reducible refine Rg.of ?_); with_reducible assumption

theorem rg_warmReset {W : Nat} {s0 s : State} {code : Nat} {link : Bool} (hw : 131071 ||| W = W) (hs : Rg W s0 s) :
    Rg W s0 (State.warmReset s code link) :=
  Rg.full hw fun k => smWf_put (smWf_filter _ ((rg_closeStay (rg_trigger (Fr.sub rfl hw) hs)).wf k))

theorem rg_glbCmd {W : Nat} {s0 : State} {s : State} {v : Nat} {modes : List Mode} {f : State → State} (hw : 4096 ||| W = W) (hs : Rg W s0 s) (hf : ∀ (x0 : State), Rg W s0 x0 → Rg W s0 (f x0)) :
    Rg W s0 (State.glbCmd s v modes f) := by
  unfold State.glbCmd
  repeat' first
    | intro _
    | with_reducible assumption
    | with_reducible apply hf
    | with_reducible refine rg_command hw ?_ ?_
    | with_reducible refine rg_violation hw ?_
    | with_reducible apply Rg.ite

theorem rg_execResetNRising {W : Nat} {s0 : State} {auto : Bool} {img : Bool} {s : State} (hw : 40960 ||| W = W) (hs : Rg W s0 s) :
    RgO W s0 (execResetNRising auto img s) := by
  unfold execResetNRising
  repeat' first
    | intro _
    | with_reducible assumption
    | (extract_lets +onlyGivenNames z; guard_hyp z : State := _; refine RgO.cut (x := z) ?_ (fun _ => ?_); rotate_left; clear_value z; revert z; intro _ _; rotate_left; unfold z; clear z)
    | (extract_lets +onlyGivenNames z; clear_value z; revert z; intro _)
    | with_reducible refine rg_finish hw ?_ ?_
    | with_reducible refine rg_boot ?_
    | with_reducible apply Rg.ite
    | (with_reducible refine Rg.of ?_); with_reducible assumption

theorem rg_execFwCommit {W : Nat} {s0 : State} {s : State} (hw : 45056 ||| W = W) (hs : Rg W s0 s) :
    RgO W s0 (execFwCommit s) := by
  unfold execFwCommit
  repeat' first
    | intro _
    | with_reducible assumption
    | (extract_lets +onlyGivenNames z; clear_value z; revert z; intro _)
    | with_reducible refine rg_finish (Fr.sub (V := 45056) rfl hw) ?_ ?_
    | with_reducible refine rg_command (Fr.sub (V := 45056) rfl hw) ?_ ?_
    | with_reducible refine rg_onlyIn (Fr.sub (V := 45056) rfl hw) ?_ ?_
    | (with_reducible refine Rg.of ?_); with_reducible assumption

theorem rg_execResetN {W : Nat} {s0 : State} {t : Nat} {sx : State} (hw : 131071 ||| W = W) (hsx : Rg W s0 sx) :
    RgO W s0 (execResetN t sx) := by
  unfold execResetN
  repeat' first
    | intro _
    | with_reducible assumption
    | (extract_lets +onlyGivenNames z; guard_hyp z : State := _; refine RgO.cut (x := z) ?_ (fun _ => ?_); rotate_left; clear_value z; revert z; intro _ _; rotate_left; unfold z; clear z)
    | (extract_lets +onlyGivenNames z; clear_value z; revert z; intro _)
    | with_reducible refine rg_at_ ?_
    | with_reducible refine rg_finish (Fr.sub (V := 131071) rfl hw) ?_ ?_
    | with_reducible refine rg_warmReset hw ?_
    | with_reducible apply Rg.ite
    | (with_reducible refine Rg.of ?_); with_reducible assumption

theorem rg_execVauxReturn {W : Nat} {s0 : State} {mv : Nat} {s : State} (hw : 40961 ||| W = W) (hs : Rg W s0 s) :
    RgO W s0 (execVauxReturn mv s) := by
  unfold execVauxReturn
  repeat' first
    | intro _
    | with_reducible assumption
    | (extract_lets +onlyGivenNames z; guard_hyp z : State := _; refine RgO.cut (x := z) ?_ (fun _ => ?_); rotate_left; clear_value z; revert z; intro _ _; rotate_left; unfold z; clear z)
    | (extract_lets +onlyGivenNames z; clear_value z; revert z; intro _)
    | with_reducible refine rg_finish (Fr.sub (V := 40961) rfl hw) ?_ ?_
    | with_reducible refine rg_coldStart (Fr.sub (V := 40961) rfl hw) ?_
    | with_reducible apply RgO.ite
    | with_reducible apply Rg.ite
    | with_reducible exact RgO.fault
    | (with_reducible refine Rg.of ?_); with_reducible assumption

theorem rg_execVauxLoss {W : Nat} {s0 : State} {s : State} (hw : 40960 ||| W = W) (hs : Rg W s0 s) :
    RgO W s0 (execVauxLoss s) := by
  unfold execVauxLoss
  repeat' first
    | with_reducible assumption
    | (extract_lets +onlyGivenNames z; clear_value z; revert z; intro _)
    | with_reducible refine rg_finish hw ?_ ?_
    | with_reducible refine Rg.setReg (Fr.bit hw rfl) ?_
    | (with_reducible refine Rg.of ?_); with_reducible assumption

theorem rg_execColdStart {W : Nat} {s0 : State} {mv : Nat} {s : State} (hw : 40961 ||| W = W) (hs : Rg W s0 s) :
    RgO W s0 (execColdStart mv s) := by
  unfold execColdStart
  repeat' first
    | intro _
    | with_reducible assumption
    | (extract_lets +onlyGivenNames z; guard_hyp z : State := _; refine RgO.cut (x := z) ?_ (fun _ => ?_); rotate_left; clear_value z; revert z; intro _ _; rotate_left; unfold z; clear z)
    | (extract_lets +onlyGivenNames z; clear_value z; revert z; intro _)
    | with_reducible refine rg_finish (Fr.sub (V := 40961) rfl hw) ?_ ?_
    | with_reducible refine rg_coldStart (Fr.sub (V := 40961) rfl hw) ?_
    | with_reducible apply RgO.ite
    | with_reducible apply Rg.ite
    | with_reducible exact RgO.fault
    | (with_reducible refine Rg.of ?_); with_reducible assumption

theorem rg_execWarmReset {W : Nat} {s0 : State} {t : Nat} {sx : State} (hw : 131071 ||| W = W) (hsx : Rg W s0 sx) :
    RgO W s0 (execWarmReset t sx) := by
  unfold execWarmReset
  repeat' first
    | intro _
    | with_reducible assumption
    | with_reducible refine rg_finish (Fr.sub (V := 131071) rfl hw) ?_ ?_
    | with_reducible refine rg_glbCmd (Fr.sub (V := 131071) rfl hw) ?_ ?_
    | with_reducible refine rg_at_ ?_
    | with_reducible refine rg_boot ?_
    | with_reducible refine rg_warmReset hw ?_

theorem rg_clearJob {W : Nat} {s0 : State} {s : State} (hw : 42656 ||| W = W) (hs : Rg W s0 s) :
    Rg W s0 (State.clearJob s) := by
  unfold State.clearJob
  repeat' first
    | with_reducible assumption
    | (extract_lets +onlyGivenNames z; guard_hyp z : State := _; refine Rg.cut (x := z) ?_ (fun _ => ?_); rotate_left; clear_value z; revert z; intro _ _; rotate_left; unfold z; clear z)
    | (extract_lets +onlyGivenNames z; clear_value z; revert z; intro _)
    | with_reducible refine rg_resetPath hw ?_
    | (with_reducible refine Rg.of ?_); with_reducible assumption

theorem rg_enterMode {W : Nat} {s0 : State} {s : State} {m : Mode} (hw : 42912 ||| W = W) (hs : Rg W s0 s) :
    Rg W s0 (State.enterMode s m) := by
  unfold State.enterMode
  repeat' first
    | intro _
    | with_reducible assumption
    | (extract_lets +onlyGivenNames z; guard_hyp z : State := _; refine Rg.cut (x := z) ?_ (fun _ => ?_); rotate_left; clear_value z; revert z; intro _ _; rotate_left; unfold z; clear z)
    | (extract_lets +onlyGivenNames z; clear_value z; revert z; intro _)
    | with_reducible refine rg_clearJob (Fr.sub (V := 42912) rfl hw) ?_
    | with_reducible refine rg_raise (Fr.sub (V := 42912) rfl hw) ?_
    | with_reducible refine rg_cancelTests (Fr.sub (V := 42912) rfl hw) ?_
    | with_reducible apply Rg.ite
    | (with_reducible refine Rg.of ?_); with_reducible assumption

theorem rg_commitOff {W : Nat} {s0 : State} {s : State} (hw : 40960 ||| W = W) (hs : Rg W s0 s) :
    Rg W s0 (State.commitOff s) := by
  unfold State.commitOff
  repeat' first
    | intro _
    | with_reducible assumption
    | (extract_lets +onlyGivenNames z; guard_hyp z : State := _; refine Rg.cut (x := z) ?_ (fun _ => ?_); rotate_left; clear_value z; revert z; intro _ _; rotate_left; unfold z; clear z)
    | with_reducible refine rg_checkpoint ?_
    | with_reducible refine rg_inventoryAll ?_
    | with_reducible refine rg_commitAll hw ?_
    | with_reducible refine rg_trigger (Fr.sub (V := 40960) rfl hw) ?_
    | with_reducible apply Rg.ite

theorem rg_execMgtWatchdog {W : Nat} {s0 : State} {s : State} (hw : 43267 ||| W = W) (hs : Rg W s0 s) :
    RgO W s0 (execMgtWatchdog s) := by
  unfold execMgtWatchdog
  repeat' first
    | intro _
    | with_reducible assumption
    | (extract_lets +onlyGivenNames z; guard_hyp z : State := _; refine RgO.cut (x := z) ?_ (fun _ => ?_); rotate_left; clear_value z; revert z; intro _ _; rotate_left; unfold z; clear z)
    | with_reducible refine rg_finish (Fr.sub (V := 43267) rfl hw) ?_ ?_
    | with_reducible refine Rg.bump (Fr.bit hw rfl) ?_
    | with_reducible refine rg_linkUpNow (Fr.sub (V := 43267) rfl hw) ?_
    | with_reducible refine rg_identFails (Fr.sub (V := 43267) rfl hw) ?_
    | with_reducible refine rg_completeCmd (Fr.sub (V := 43267) rfl hw) ?_
    | with_reducible refine rg_dropWait ?_
    | with_reducible apply Rg.ite
    | with_reducible apply Rg.foldl

theorem rg_execColdReset {W : Nat} {s0 : State} {t : Nat} {sx : State} (hw : 131071 ||| W = W) (hsx : Rg W s0 sx) :
    RgO W s0 (execColdReset t sx) := by
  unfold execColdReset
  repeat' first
    | intro _
    | with_reducible assumption
    | with_reducible refine rg_finish (Fr.sub (V := 131071) rfl hw) ?_ ?_
    | with_reducible refine rg_glbCmd (Fr.sub (V := 131071) rfl hw) ?_ ?_
    | with_reducible refine rg_at_ ?_
    | with_reducible refine rg_coldStart (Fr.sub (V := 131071) rfl hw) ?_
    | with_reducible refine rg_powerOff hw ?_
    | with_reducible refine rg_commitOff (Fr.sub (V := 131071) rfl hw) ?_

/-! Power. -/

theorem rg_setPlls {W : Nat} {s0 : State} {s : State} {target : Nat} (hs : Rg W s0 s) :
    Rg W s0 (State.setPlls s target) := by
  unfold State.setPlls
  repeat' first
    | (extract_lets +onlyGivenNames z; clear_value z; revert z; intro _)
    | (with_reducible refine Rg.of ?_); with_reducible assumption

theorem rg_coldDomain {W : Nat} {s0 s : State} {d : Nat} (hw : 131071 ||| W = W) (hs : Rg W s0 s) :
    Rg W s0 (State.coldDomain s d) := by
  have h : Rg W s0 { s with regs := s.regs.filter fun p => domainOf p.1 ≠ d } := Rg.full hw fun k => smWf_filter _ (hs.wf k)
  unfold State.coldDomain
  extract_lets z
  have hz : Rg W s0 z := h
  clear_value z
  split <;> exact hz.same rfl

theorem rg_lanesOff {W : Nat} {s0 : State} {s : State} (hs : Rg W s0 s) :
    Rg W s0 (State.lanesOff s) := by
  unfold State.lanesOff
  repeat' first
    | (extract_lets +onlyGivenNames z; clear_value z; revert z; intro _)
    | (with_reducible refine Rg.of ?_); with_reducible assumption

theorem rg_wake {W : Nat} {s0 : State} {s : State} (hs : Rg W s0 s) :
    Rg W s0 (State.wake s) := by
  unfold State.wake
  repeat' first
    | (extract_lets +onlyGivenNames z; clear_value z; revert z; intro _)
    | (with_reducible refine Rg.of ?_); with_reducible assumption

theorem rg_enterOn {W : Nat} {s0 : State} {s : State} {d : Nat} {old : Nat} (hw : 131071 ||| W = W) (hs : Rg W s0 s) :
    Rg W s0 (State.enterOn s d old) := by
  unfold State.enterOn
  repeat' first
    | intro _
    | with_reducible assumption
    | (extract_lets +onlyGivenNames z; guard_hyp z : State := _; refine Rg.cut (x := z) ?_ (fun _ => ?_); rotate_left; clear_value z; revert z; intro _ _; rotate_left; unfold z; clear z)
    | (extract_lets +onlyGivenNames z; clear_value z; revert z; intro _)
    | with_reducible refine rg_coldDomain hw ?_
    | with_reducible apply Rg.ite
    | (with_reducible refine Rg.of ?_); with_reducible assumption

theorem rg_leaveOn {W : Nat} {s0 : State} {s : State} {d : Nat} (hs : Rg W s0 s) :
    Rg W s0 (State.leaveOn s d) := by
  unfold State.leaveOn
  repeat' first
    | with_reducible assumption
    | (extract_lets +onlyGivenNames z; clear_value z; revert z; intro _)
    | with_reducible refine rg_lanesOff ?_
    | (with_reducible refine Rg.of ?_); with_reducible assumption
    | split

theorem rg_setDomain {W : Nat} {s0 : State} {s : State} {d : Nat} {code : Nat} (hw : 131071 ||| W = W) (hs : Rg W s0 s) :
    Rg W s0 (State.setDomain s d code) := by
  unfold State.setDomain
  repeat' first
    | intro _
    | with_reducible assumption
    | (extract_lets +onlyGivenNames z; guard_hyp z : State := _; refine Rg.cut (x := z) ?_ (fun _ => ?_); rotate_left; clear_value z; revert z; intro _ _; rotate_left; unfold z; clear z)
    | (extract_lets +onlyGivenNames z; clear_value z; revert z; intro _)
    | with_reducible refine rg_leaveOn ?_
    | with_reducible refine rg_enterOn hw ?_
    | with_reducible apply Rg.ite
    | (with_reducible refine Rg.of ?_); with_reducible assumption

theorem rg_setDomains {W : Nat} {s0 : State} {s : State} {codes : List Nat} (hw : 131071 ||| W = W) (hs : Rg W s0 s) :
    Rg W s0 (State.setDomains s codes) := by
  unfold State.setDomains
  repeat' first
    | intro _
    | with_reducible assumption
    | with_reducible refine rg_setDomain hw ?_
    | with_reducible apply Rg.foldl

theorem rg_enterPower {W : Nat} {s0 : State} {s : State} {target : Nat} {doms : Nat} (hw : 131071 ||| W = W) (hs : Rg W s0 s) :
    Rg W s0 (State.enterPower s target doms) := by
  unfold State.enterPower
  repeat' first
    | intro _
    | with_reducible assumption
    | (extract_lets +onlyGivenNames z; guard_hyp z : State := _; refine Rg.cut (x := z) ?_ (fun _ => ?_); rotate_left; clear_value z; revert z; intro _ _; rotate_left; unfold z; clear z)
    | (extract_lets +onlyGivenNames z; clear_value z; revert z; intro _)
    | with_reducible refine rg_closeStay ?_
    | with_reducible refine rg_setDomains hw ?_
    | with_reducible refine rg_setPlls ?_
    | with_reducible apply Rg.ite
    | (with_reducible refine Rg.of ?_); with_reducible assumption

theorem rg_pushResult {W : Nat} {s0 : State} {s : State} {x1 : PwrResult} (hw : 45056 ||| W = W) (hs : Rg W s0 s) :
    Rg W s0 (State.pushResult s x1) := by
  unfold State.pushResult
  repeat' first
    | intro _
    | with_reducible assumption
    | (extract_lets +onlyGivenNames z; guard_hyp z : State := _; refine Rg.cut (x := z) ?_ (fun _ => ?_); rotate_left; clear_value z; revert z; intro _ _; rotate_left; unfold z; clear z)
    | (extract_lets +onlyGivenNames z; clear_value z; revert z; intro _)
    | with_reducible refine Rg.bump (Fr.bit hw rfl) ?_
    | with_reducible refine rg_raise (Fr.sub (V := 45056) rfl hw) ?_
    | with_reducible apply Rg.ite
    | (with_reducible refine Rg.of ?_); with_reducible assumption

theorem rg_dropSlot {W : Nat} {s0 : State} {s : State} (hw : 45056 ||| W = W) (hs : Rg W s0 s) :
    Rg W s0 (State.dropSlot s) := by
  unfold State.dropSlot
  repeat' first
    | with_reducible assumption
    | (extract_lets +onlyGivenNames z; clear_value z; revert z; intro _)
    | with_reducible refine rg_pushResult hw ?_
    | (with_reducible refine Rg.of ?_); with_reducible assumption
    | split

theorem rg_takeUp {W : Nat} {s0 : State} {s : State} {q1 : PwrReq} (hw : 45056 ||| W = W) (hs : Rg W s0 s) :
    Rg W s0 (State.takeUp s q1) := by
  unfold State.takeUp
  repeat' first
    | intro _
    | with_reducible assumption
    | (extract_lets +onlyGivenNames z; guard_hyp z : State := _; refine Rg.cut (x := z) ?_ (fun _ => ?_); rotate_left; clear_value z; revert z; intro _ _; rotate_left; unfold z; clear z)
    | (extract_lets +onlyGivenNames z; clear_value z; revert z; intro _)
    | with_reducible refine Rg.bump (Fr.bit hw (by rw [blk_PWR_CB_REFUSE_n]; decide)) ?_
    | with_reducible refine rg_pushResult hw ?_
    | with_reducible apply Rg.ite
    | (with_reducible refine Rg.of ?_); with_reducible assumption
    | split

theorem rg_execPwrResultPop {W : Nat} {s0 : State} {v : Sys2Proof.Word} {s : State} (hw : 45056 ||| W = W) (hs : Rg W s0 s) :
    RgO W s0 (execPwrResultPop v s) := by
  unfold execPwrResultPop
  repeat' first
    | intro _
    | with_reducible assumption
    | (extract_lets +onlyGivenNames z; clear_value z; revert z; intro _)
    | with_reducible refine rg_finish (Fr.sub (V := 45056) rfl hw) ?_ ?_
    | with_reducible refine rg_command (Fr.sub (V := 45056) rfl hw) ?_ ?_
    | with_reducible apply Rg.ite
    | (with_reducible refine Rg.of ?_); with_reducible assumption

theorem rg_execWakeTimer {W : Nat} {s0 : State} {t : Nat} {sx : State} (hw : 40960 ||| W = W) (hsx : Rg W s0 sx) :
    RgO W s0 (execWakeTimer t sx) := by
  unfold execWakeTimer
  repeat' first
    | intro _
    | with_reducible assumption
    | (extract_lets +onlyGivenNames z; guard_hyp z : State := _; refine RgO.cut (x := z) ?_ (fun _ => ?_); rotate_left; clear_value z; revert z; intro _ _; rotate_left; unfold z; clear z)
    | with_reducible refine rg_at_ ?_
    | with_reducible refine rg_finish hw ?_ ?_
    | with_reducible refine rg_wake ?_
    | with_reducible apply Rg.ite

theorem rg_request {W : Nat} {s0 : State} {s : State} {target : Nat} (hw : 45056 ||| W = W) (hs : Rg W s0 s) :
    Rg W s0 (State.request s target) := by
  unfold State.request
  repeat' first
    | intro _
    | with_reducible assumption
    | (extract_lets +onlyGivenNames z; guard_hyp z : State := _; refine Rg.cut (x := z) ?_ (fun _ => ?_); rotate_left; clear_value z; revert z; intro _ _; rotate_left; unfold z; clear z)
    | (extract_lets +onlyGivenNames z; clear_value z; revert z; intro _)
    | with_reducible refine Rg.setReg (Fr.bit hw rfl) ?_
    | with_reducible refine rg_dropSlot hw ?_
    | with_reducible refine rg_takeUp hw ?_
    | with_reducible apply Rg.ite
    | (with_reducible refine Rg.of ?_); with_reducible assumption

theorem rg_nextRequest {W : Nat} {s0 : State} {s : State} (hw : 45056 ||| W = W) (hs : Rg W s0 s) :
    Rg W s0 (State.nextRequest s) := by
  unfold State.nextRequest
  repeat' first
    | with_reducible assumption
    | (extract_lets +onlyGivenNames z; clear_value z; revert z; intro _)
    | with_reducible refine rg_takeUp hw ?_
    | (with_reducible refine Rg.of ?_); with_reducible assumption
    | split

theorem rg_execWakePin {W : Nat} {s0 : State} {low : Bool} {t : Nat} {sx : State} (hw : 45057 ||| W = W) (hsx : Rg W s0 sx) :
    RgO W s0 (execWakePin low t sx) := by
  unfold execWakePin
  repeat' first
    | intro _
    | with_reducible assumption
    | (extract_lets +onlyGivenNames z; guard_hyp z : State := _; refine RgO.cut (x := z) ?_ (fun _ => ?_); rotate_left; clear_value z; revert z; intro _ _; rotate_left; unfold z; clear z)
    | (extract_lets +onlyGivenNames z; clear_value z; revert z; intro _)
    | with_reducible refine rg_at_ ?_
    | with_reducible refine rg_finish (Fr.sub (V := 45057) rfl hw) ?_ ?_
    | with_reducible refine rg_request (Fr.sub (V := 45057) rfl hw) ?_
    | with_reducible refine rg_wake ?_
    | with_reducible refine rg_coldStart (Fr.sub (V := 45057) rfl hw) ?_
    | with_reducible apply Rg.ite
    | (with_reducible refine Rg.of ?_); with_reducible assumption
    | split

theorem rg_execPowerRequest {W : Nat} {s0 : State} {v : Sys2Proof.Word} {t : Nat} {sx : State} (hw : 45056 ||| W = W) (hsx : Rg W s0 sx) :
    RgO W s0 (execPowerRequest v t sx) := by
  unfold execPowerRequest
  repeat' first
    | intro _
    | with_reducible assumption
    | with_reducible refine rg_finish (Fr.sub (V := 45056) rfl hw) ?_ ?_
    | with_reducible refine rg_command (Fr.sub (V := 45056) rfl hw) ?_ ?_
    | with_reducible refine rg_at_ ?_
    | with_reducible refine rg_request hw ?_

theorem rg_execDeepGraceExpiry {W : Nat} {s0 : State} {t : Nat} {sx : State} (hw : 131071 ||| W = W) (hsx : Rg W s0 sx) :
    RgO W s0 (execDeepGraceExpiry t sx) := by
  unfold execDeepGraceExpiry
  repeat' first
    | intro _
    | with_reducible assumption
    | (extract_lets +onlyGivenNames z; guard_hyp z : State := _; refine RgO.cut (x := z) ?_ (fun _ => ?_); rotate_left; clear_value z; revert z; intro _ _; rotate_left; unfold z; clear z)
    | (extract_lets +onlyGivenNames z; guard_hyp z : Hst := _; revert z; intro _)
    | (extract_lets +onlyGivenNames z; clear_value z; revert z; intro _)
    | with_reducible refine rg_at_ ?_
    | with_reducible refine rg_finish (Fr.sub (V := 131071) rfl hw) ?_ ?_
    | with_reducible refine rg_setDomain hw ?_
    | with_reducible refine rg_setPlls ?_
    | with_reducible refine rg_closeStay ?_
    | with_reducible refine rg_nextRequest (Fr.sub (V := 131071) rfl hw) ?_
    | with_reducible refine rg_powerOff hw ?_
    | with_reducible refine rg_coldStart (Fr.sub (V := 131071) rfl hw) ?_
    | with_reducible apply Rg.ite
    | (with_reducible refine Rg.of ?_); with_reducible assumption
    | split

theorem rg_linkBack {W : Nat} {s0 : State} {s : State} (hw : 43010 ||| W = W) (hs : Rg W s0 s) :
    Rg W s0 (State.linkBack s) := by
  unfold State.linkBack
  repeat' first
    | intro _
    | with_reducible assumption
    | (extract_lets +onlyGivenNames z; guard_hyp z : Hst := _; revert z; intro _)
    | with_reducible refine rg_releaseHeld hw ?_
    | with_reducible apply Rg.ite
    | (with_reducible refine Rg.of ?_); with_reducible assumption

theorem rg_autoRun {W : Nat} {s0 : State} {s : State} (hw : 131071 ||| W = W) (hs : Rg W s0 s) :
    Rg W s0 (State.autoRun s) := by
  unfold State.autoRun
  repeat' first
    | intro _
    | with_reducible assumption
    | (extract_lets +onlyGivenNames z; guard_hyp z : State := _; refine Rg.cut (x := z) ?_ (fun _ => ?_); rotate_left; clear_value z; revert z; intro _ _; rotate_left; unfold z; clear z)
    | (extract_lets +onlyGivenNames z; clear_value z; revert z; intro _)
    | with_reducible refine rg_enterPower hw ?_
    | with_reducible refine rg_dropSlot (Fr.sub (V := 131071) rfl hw) ?_
    | with_reducible refine rg_linkBack (Fr.sub (V := 131071) rfl hw) ?_
    | with_reducible refine rg_pushResult (Fr.sub (V := 131071) rfl hw) ?_
    | with_reducible apply Rg.ite

theorem rg_awake {W : Nat} {s0 : State} {s : State} {f : State → State} (hw : 131071 ||| W = W) (hs : Rg W s0 s) (hf : ∀ (x0 : State), Rg W s0 x0 → Rg W s0 (f x0)) :
    Rg W s0 (State.awake s f) := by
  unfold State.awake
  repeat' first
    | intro _
    | with_reducible assumption
    | with_reducible apply hf
    | with_reducible refine rg_autoRun hw ?_
    | with_reducible apply Rg.ite

theorem rg_recalAfterRest {W : Nat} {s0 : State} {s : State} {r : List Sys2Proof.ChanMargins} (hw : 44771 ||| W = W) (hs : Rg W s0 s) :
    Rg W s0 (State.recalAfterRest s r) := by
  unfold State.recalAfterRest
  repeat' first
    | intro _
    | with_reducible assumption
    | with_reducible refine rg_recalChan hw ?_
    | with_reducible apply Rg.ite
    | with_reducible apply Rg.foldl

theorem rg_execPowerTransitionEnd {W : Nat} {s0 : State} {t : Nat} {r : List Sys2Proof.ChanMargins} {sx : State} (hw : 131071 ||| W = W) (hsx : Rg W s0 sx) :
    RgO W s0 (execPowerTransitionEnd t r sx) := by
  unfold execPowerTransitionEnd
  repeat' first
    | intro _
    | with_reducible assumption
    | (extract_lets +onlyGivenNames z; guard_hyp z : State := _; refine Rg.cut (x := z) ?_ (fun _ => ?_); rotate_left; clear_value z; revert z; intro _ _; rotate_left; unfold z; clear z)
    | (extract_lets +onlyGivenNames z; guard_hyp z : State := _; refine RgO.cut (x := z) ?_ (fun _ => ?_); rotate_left; clear_value z; revert z; intro _ _; rotate_left; unfold z; clear z)
    | (extract_lets +onlyGivenNames z; clear_value z; revert z; intro _)
    | with_reducible refine rg_at_ ?_
    | with_reducible refine rg_finish (Fr.sub (V := 131071) rfl hw) ?_ ?_
    | with_reducible refine rg_setDomains hw ?_
    | with_reducible refine rg_commitOff (Fr.sub (V := 131071) rfl hw) ?_
    | with_reducible refine rg_pushResult (Fr.sub (V := 131071) rfl hw) ?_
    | with_reducible refine rg_enterPower hw ?_
    | with_reducible refine rg_recalAfterRest (Fr.sub (V := 131071) rfl hw) ?_
    | with_reducible refine rg_linkBack (Fr.sub (V := 131071) rfl hw) ?_
    | with_reducible refine rg_nextRequest (Fr.sub (V := 131071) rfl hw) ?_
    | with_reducible apply Rg.ite
    | (with_reducible refine Rg.of ?_); with_reducible assumption
    | split

end Sys2Proof.Laws
end

