-- ==== Sys2Proof/Laws/RegFrameRim.lean ====
section
/-! SUPPORT. The registers that the Rim link, the sensors, Upsett and the job key leave as they were: one lemma for each operation and each command (see RegFrame). -/

namespace Sys2Proof.Laws

open Sys2Proof.Machine

/-! Rim. -/

theorem rg_lpreq {W : Nat} {s0 : State} {s : State} {p : Nat} {st : Nat} (hs : Rg W s0 s) :
    Rg W s0 (State.lpreq s p st) := by
  unfold State.lpreq
  repeat' first
    | intro _
    | with_reducible assumption
    | (extract_lets +onlyGivenNames z; clear_value z; revert z; intro _)
    | with_reducible refine rg_modLane ?_
    | with_reducible apply Rg.ite

theorem rg_mirrorFollow {W : Nat} {s0 : State} {s : State} (hw : 2048 ||| W = W) (hs : Rg W s0 s) :
    Rg W s0 (State.mirrorFollow s) := by
  unfold State.mirrorFollow
  repeat' first
    | intro _
    | with_reducible assumption
    | (extract_lets +onlyGivenNames z; guard_hyp z : State := _; refine Rg.cut (x := z) ?_ (fun _ => ?_); rotate_left; clear_value z; revert z; intro _ _; rotate_left; unfold z; clear z)
    | (extract_lets +onlyGivenNames z; clear_value z; revert z; intro _)
    | with_reducible refine Rg.bumpBy (Fr.bit hw rfl) ?_
    | with_reducible refine Rg.setReg (Fr.bit hw rfl) ?_
    | with_reducible apply Rg.ite
    | (with_reducible refine Rg.of ?_); with_reducible assumption

theorem rg_mailbox {W : Nat} {s0 : State} {s : State} {p : Nat} {words : List Nat} {bad : Bool} (hw : 1792 ||| W = W) (hs : Rg W s0 s) :
    Rg W s0 (State.mailbox s p words bad) := by
  unfold State.mailbox
  repeat' first
    | intro _
    | with_reducible assumption
    | (extract_lets +onlyGivenNames z; guard_hyp z : State := _; refine Rg.cut (x := z) ?_ (fun _ => ?_); rotate_left; clear_value z; revert z; intro _ _; rotate_left; unfold z; clear z)
    | (extract_lets +onlyGivenNames z; clear_value z; revert z; intro _)
    | with_reducible refine Rg.bump (Fr.bit hw rfl) ?_
    | with_reducible refine rg_memWrite (Fr.sub (V := 1792) rfl hw) ?_
    | with_reducible refine Rg.setReg (Fr.bit hw rfl) ?_
    | with_reducible apply Rg.ite
    | (with_reducible refine Rg.of ?_); with_reducible assumption

theorem rg_badRecord_eq {W : Nat} {s0 : State} {s : State} {off : Nat} (hw : 40960 ||| W = W) (hs : Rg W s0 s) (hc : W.testBit (regBlock off) = true) {s' : State} {x'} (e' : State.badRecord s off = (s', x')) :
    Rg W s0 s' := by
  unfold State.badRecord at e'
  repeat' first
    | with_reducible assumption
    | with_reducible refine rg_raise hw ?_
    | with_reducible refine Rg.bump hc ?_
    | ((with_reducible refine Rg.of_pair ?_ e'); clear e')

theorem rg_badRecord {W : Nat} {s0 : State} {s : State} {off : Nat} (hw : 40960 ||| W = W) (hs : Rg W s0 s) (hc : W.testBit (regBlock off) = true) : Rg W s0 (State.badRecord s off).1 :=
  Rg.of_eq fun _ _ e' => rg_badRecord_eq hw hs hc e'

theorem rg_expireTemps {W : Nat} {s0 : State} {s : State} {slack : Nat} (hw : 41216 ||| W = W) (hs : Rg W s0 s) :
    Rg W s0 (State.expireTemps s slack) := by
  unfold State.expireTemps
  repeat' first
    | intro _
    | with_reducible assumption
    | (extract_lets +onlyGivenNames z; guard_hyp z : State := _; refine Rg.cut (x := z) ?_ (fun _ => ?_); rotate_left; clear_value z; revert z; intro _ _; rotate_left; unfold z; clear z)
    | (extract_lets +onlyGivenNames z; clear_value z; revert z; intro _)
    | with_reducible refine rg_raise (Fr.sub (V := 41216) rfl hw) ?_
    | with_reducible refine Rg.bump (Fr.bit hw rfl) ?_
    | with_reducible apply Rg.ite
    | with_reducible apply Rg.foldl
    | (with_reducible refine Rg.of ?_); with_reducible assumption

theorem rg_execLaneLpIdle {W : Nat} {s0 : State} {t : Nat} {sx : State} (hw : 40960 ||| W = W) (hsx : Rg W s0 sx) :
    RgO W s0 (execLaneLpIdle t sx) := by
  unfold execLaneLpIdle
  repeat' first
    | intro _
    | with_reducible assumption
    | (extract_lets +onlyGivenNames z; guard_hyp z : State := _; refine RgO.cut (x := z) ?_ (fun _ => ?_); rotate_left; clear_value z; revert z; intro _ _; rotate_left; unfold z; clear z)
    | (extract_lets +onlyGivenNames z; clear_value z; revert z; intro _)
    | with_reducible refine rg_at_ ?_
    | with_reducible refine rg_finish hw ?_ ?_
    | with_reducible refine rg_sendBlocks ?_
    | with_reducible refine rg_modLane ?_
    | with_reducible apply Rg.ite
    | with_reducible apply Rg.foldl

theorem rg_execControlBlockRx {W : Nat} {s0 : State} {lane : Nat} {block : Nat} {s : State} (hw : 41216 ||| W = W) (hs : Rg W s0 s) :
    RgO W s0 (execControlBlockRx lane block s) := by
  unfold execControlBlockRx
  repeat' first
    | intro _
    | with_reducible assumption
    | with_reducible refine rg_finish (Fr.sub (V := 41216) rfl hw) ?_ ?_
    | with_reducible refine Rg.bump (Fr.bit hw rfl) ?_
    | with_reducible refine rg_lpreq ?_
    | with_reducible apply Rg.ite

theorem rg_execLaneRetrain {W : Nat} {s0 : State} {lane : Nat} {r : Sys2Proof.LaneTraining} {s : State} (hw : 45312 ||| W = W) (hs : Rg W s0 s) :
    RgO W s0 (execLaneRetrain lane r s) := by
  unfold execLaneRetrain
  repeat' first
    | intro _
    | with_reducible assumption
    | with_reducible refine rg_finish (Fr.sub (V := 45312) rfl hw) ?_ ?_
    | with_reducible refine rg_command (Fr.sub (V := 45312) rfl hw) ?_ ?_
    | with_reducible refine rg_retrainLane (Fr.sub (V := 45312) rfl hw) ?_
    | with_reducible apply Rg.ite

theorem rg_execLaneInject {W : Nat} {s0 : State} {lane : Nat} {v : Sys2Proof.Word} {s : State} (hw : 45312 ||| W = W) (hs : Rg W s0 s) :
    RgO W s0 (execLaneInject lane v s) := by
  unfold execLaneInject
  repeat' first
    | intro _
    | with_reducible assumption
    | (extract_lets +onlyGivenNames z; clear_value z; revert z; intro _)
    | with_reducible refine rg_finish (Fr.sub (V := 45312) rfl hw) ?_ ?_
    | with_reducible refine rg_command (Fr.sub (V := 45312) rfl hw) ?_ ?_
    | with_reducible refine rg_onlyIn (Fr.sub (V := 45312) rfl hw) ?_ ?_
    | with_reducible refine Rg.setReg (Fr.bit hw (by rw [blk_LNK_LN_INJ]; decide)) ?_

theorem rg_execLanePrbs {W : Nat} {s0 : State} {lane : Nat} {v : Sys2Proof.Word} {s : State} (hw : 45312 ||| W = W) (hs : Rg W s0 s) :
    RgO W s0 (execLanePrbs lane v s) := by
  unfold execLanePrbs
  repeat' first
    | intro _
    | with_reducible assumption
    | (extract_lets +onlyGivenNames z; guard_hyp z : State := _; refine Rg.cut (x := z) ?_ (fun _ => ?_); rotate_left; clear_value z; revert z; intro _ _; rotate_left; unfold z; clear z)
    | (extract_lets +onlyGivenNames z; clear_value z; revert z; intro _)
    | with_reducible refine rg_finish (Fr.sub (V := 45312) rfl hw) ?_ ?_
    | with_reducible refine rg_command (Fr.sub (V := 45312) rfl hw) ?_ ?_
    | with_reducible refine rg_violation (Fr.sub (V := 45312) rfl hw) ?_
    | with_reducible refine Rg.setReg (Fr.bit hw (by rw [blk_LNK_LN_PRBS]; decide)) ?_
    | with_reducible refine rg_next ?_
    | with_reducible refine Rg.bumpBy (Fr.bit hw (by rw [blk_LNK_LN_PRBS_ERR]; decide)) ?_
    | with_reducible apply Rg.ite

theorem rg_execTelRateWindow {W : Nat} {s0 : State} {s : State} (hw : 40960 ||| W = W) (hs : Rg W s0 s) :
    RgO W s0 (execTelRateWindow s) := by
  unfold execTelRateWindow
  repeat' first
    | with_reducible assumption
    | (extract_lets +onlyGivenNames z; clear_value z; revert z; intro _)
    | with_reducible refine rg_finish hw ?_ ?_
    | (with_reducible refine Rg.of ?_); with_reducible assumption

theorem rg_execTempQuorumTimeout {W : Nat} {s0 : State} {t : Nat} {sx : State} (hw : 41216 ||| W = W) (hsx : Rg W s0 sx) :
    RgO W s0 (execTempQuorumTimeout t sx) := by
  unfold execTempQuorumTimeout
  repeat' first
    | with_reducible assumption
    | with_reducible refine rg_finish (Fr.sub (V := 41216) rfl hw) ?_ ?_
    | with_reducible refine rg_expireTemps hw ?_
    | with_reducible refine rg_at_ ?_

theorem rg_execMailboxReadAdvance {W : Nat} {s0 : State} {v : Sys2Proof.Word} {s : State} (hw : 47360 ||| W = W) (hs : Rg W s0 s) :
    RgO W s0 (execMailboxReadAdvance v s) := by
  unfold execMailboxReadAdvance
  repeat' first
    | intro _
    | with_reducible assumption
    | with_reducible refine rg_finish (Fr.sub (V := 47360) rfl hw) ?_ ?_
    | with_reducible refine rg_command (Fr.sub (V := 47360) rfl hw) ?_ ?_
    | with_reducible refine rg_mirrorFollow (Fr.sub (V := 47360) rfl hw) ?_
    | with_reducible refine Rg.setReg (Fr.bit hw rfl) ?_

theorem rg_execLpreq {W : Nat} {s0 : State} {lane : Nat} {st : Nat} {s : State} (hw : 40960 ||| W = W) (hs : Rg W s0 s) :
    RgO W s0 (execLpreq lane st s) := by
  unfold execLpreq
  repeat' first
    | intro _
    | with_reducible assumption
    | with_reducible refine rg_finish hw ?_ ?_
    | with_reducible refine rg_lpreq ?_
    | with_reducible apply Rg.ite

theorem rg_trainDone {W : Nat} {s0 : State} {s : State} (hw : 43010 ||| W = W) (hs : Rg W s0 s) :
    Rg W s0 (State.trainDone s) := by
  unfold State.trainDone
  repeat' first
    | intro _
    | with_reducible assumption
    | with_reducible refine rg_completeCmd hw ?_
    | with_reducible refine rg_dropWait ?_
    | with_reducible apply Rg.foldl
    | split

theorem rg_identRecord_eq {W : Nat} {s0 : State} {s : State} {f : RetFrame} (hw : 43266 ||| W = W) (hs : Rg W s0 s) {s' : State} {x'} (e' : State.identRecord s f = (s', x')) :
    Rg W s0 s' := by
  unfold State.identRecord at e'
  repeat' first
    | with_reducible assumption
    | (extract_lets +onlyGivenNames z at e'; clear_value z; revert z; intro _ e')
    | split at e'
    | with_reducible refine rg_trainDone (Fr.sub (V := 43266) rfl hw) ?_
    | with_reducible refine rg_linkUpNow (Fr.sub (V := 43266) rfl hw) ?_
    | with_reducible refine rg_identPasses (Fr.sub (V := 43266) rfl hw) ?_
    | exact (Fr.bit hw rfl)
    | refine rg_badRecord_eq (Fr.sub (V := 43266) rfl hw) ?_ ?_ (by with_reducible assumption)
    | ((with_reducible refine Rg.of_pair ?_ e'); clear e')

theorem rg_identRecord {W : Nat} {s0 : State} {s : State} {f : RetFrame} (hw : 43266 ||| W = W) (hs : Rg W s0 s) : Rg W s0 (State.identRecord s f).1 :=
  Rg.of_eq fun _ _ e' => rg_identRecord_eq hw hs e'

theorem rg_execChallengeResend {W : Nat} {s0 : State} {t : Nat} {sx : State} (hw : 43266 ||| W = W) (hsx : Rg W s0 sx) :
    RgO W s0 (execChallengeResend t sx) := by
  unfold execChallengeResend
  repeat' first
    | intro _
    | with_reducible assumption
    | (extract_lets +onlyGivenNames z; guard_hyp z : State := _; refine RgO.cut (x := z) ?_ (fun _ => ?_); rotate_left; clear_value z; revert z; intro _ _; rotate_left; unfold z; clear z)
    | (extract_lets +onlyGivenNames z; clear_value z; revert z; intro _)
    | with_reducible refine rg_at_ ?_
    | with_reducible refine rg_finish (Fr.sub (V := 43266) rfl hw) ?_ ?_
    | with_reducible refine rg_trainDone (Fr.sub (V := 43266) rfl hw) ?_
    | with_reducible refine rg_linkUpNow (Fr.sub (V := 43266) rfl hw) ?_
    | with_reducible refine rg_identFails (Fr.sub (V := 43266) rfl hw) ?_
    | with_reducible refine rg_sendChallenge ?_
    | with_reducible apply Rg.ite
    | (with_reducible refine Rg.of ?_); with_reducible assumption
    | split

theorem rg_execRunEnd {W : Nat} {s0 : State} {t : Nat} {sx : State} (hw : 44770 ||| W = W) (hsx : Rg W s0 sx) :
    RgO W s0 (execRunEnd t sx) := by
  unfold execRunEnd
  repeat' first
    | intro _
    | with_reducible assumption
    | (extract_lets +onlyGivenNames z; guard_hyp z : State := _; refine RgO.cut (x := z) ?_ (fun _ => ?_); rotate_left; clear_value z; revert z; intro _ _; rotate_left; unfold z; clear z)
    | with_reducible refine rg_at_ ?_
    | with_reducible refine rg_finish (Fr.sub (V := 44770) rfl hw) ?_ ?_
    | with_reducible refine rg_endRun hw ?_
    | with_reducible apply Rg.ite
    | split

theorem rg_takeTemps {W : Nat} {s0 : State} {s : State} {meds : List Int} (hw : 45027 ||| W = W) (hs : Rg W s0 s) :
    Rg W s0 (State.takeTemps s meds) := by
  unfold State.takeTemps
  repeat' first
    | intro _
    | with_reducible assumption
    | (extract_lets +onlyGivenNames z; guard_hyp z : State := _; refine Rg.cut (x := z) ?_ (fun _ => ?_); rotate_left; clear_value z; revert z; intro _ _; rotate_left; unfold z; clear z)
    | (extract_lets +onlyGivenNames z; clear_value z; revert z; intro _)
    | with_reducible refine Rg.bumpBy (Fr.bit hw rfl) ?_
    | with_reducible refine rg_raise (Fr.sub (V := 45027) rfl hw) ?_
    | with_reducible refine Rg.setReg (Fr.bit hw rfl) ?_
    | with_reducible refine Rg.setField (Fr.bit hw (by rw [blk_BMF_TEMP_0]; decide)) ?_
    | with_reducible refine rg_plateSample (Fr.sub (V := 45027) rfl hw) ?_
    | with_reducible apply Rg.ite
    | with_reducible apply Rg.foldl
    | (with_reducible refine Rg.of ?_); with_reducible assumption

theorem rg_execAckDrainTimeout {W : Nat} {s0 : State} {t : Nat} {sx : State} (hw : 45027 ||| W = W) (hsx : Rg W s0 sx) :
    RgO W s0 (execAckDrainTimeout t sx) := by
  unfold execAckDrainTimeout
  repeat' first
    | intro _
    | with_reducible assumption
    | (extract_lets +onlyGivenNames z; guard_hyp z : State := _; refine Rg.cut (x := z) ?_ (fun _ => ?_); rotate_left; clear_value z; revert z; intro _ _; rotate_left; unfold z; clear z)
    | (extract_lets +onlyGivenNames z; guard_hyp z : State := _; refine RgO.cut (x := z) ?_ (fun _ => ?_); rotate_left; clear_value z; revert z; intro _ _; rotate_left; unfold z; clear z)
    | with_reducible refine rg_at_ ?_
    | with_reducible refine rg_finish (Fr.sub (V := 45027) rfl hw) ?_ ?_
    | with_reducible refine rg_laneLost ?_
    | with_reducible refine rg_frameLost hw ?_
    | with_reducible apply Rg.ite
    | with_reducible apply Rg.foldl
    | split

theorem rg_settleTemps {W : Nat} {s0 : State} {s : State} {rs : List TempReport} (hw : 45027 ||| W = W) (hs : Rg W s0 s) :
    Rg W s0 (State.settleTemps s rs) := by
  unfold State.settleTemps
  repeat' first
    | intro _
    | with_reducible assumption
    | (extract_lets +onlyGivenNames z; clear_value z; revert z; intro _)
    | with_reducible refine rg_takeTemps hw ?_
    | with_reducible refine rg_raise (Fr.sub (V := 45027) rfl hw) ?_
    | with_reducible refine Rg.bumpBy (Fr.bit hw rfl) ?_
    | with_reducible apply Rg.ite

theorem rg_tempReport {W : Nat} {s0 : State} {s : State} {l : Nat} {sample : Nat} {vals : List Int} (hw : 45027 ||| W = W) (hs : Rg W s0 s) :
    Rg W s0 (State.tempReport s l sample vals) := by
  unfold State.tempReport
  repeat' first
    | intro _
    | with_reducible assumption
    | (extract_lets +onlyGivenNames z; guard_hyp z : State := _; refine Rg.cut (x := z) ?_ (fun _ => ?_); rotate_left; clear_value z; revert z; intro _ _; rotate_left; unfold z; clear z)
    | (extract_lets +onlyGivenNames z; clear_value z; revert z; intro _)
    | with_reducible refine rg_expireTemps (Fr.sub (V := 45027) rfl hw) ?_
    | with_reducible refine rg_settleTemps hw ?_
    | with_reducible apply Rg.ite
    | (with_reducible refine Rg.of ?_); with_reducible assumption

theorem rg_execLaneRetire {W : Nat} {s0 : State} {lane : Nat} {t : Nat} {sx : State} (hw : 49123 ||| W = W) (hsx : Rg W s0 sx) :
    RgO W s0 (execLaneRetire lane t sx) := by
  unfold execLaneRetire
  repeat' first
    | intro _
    | with_reducible assumption
    | (extract_lets +onlyGivenNames z; guard_hyp z : State := _; refine Rg.cut (x := z) ?_ (fun _ => ?_); rotate_left; clear_value z; revert z; intro _ _; rotate_left; unfold z; clear z)
    | (extract_lets +onlyGivenNames z; guard_hyp z : State := _; refine RgO.cut (x := z) ?_ (fun _ => ?_); rotate_left; clear_value z; revert z; intro _ _; rotate_left; unfold z; clear z)
    | with_reducible refine rg_at_ ?_
    | with_reducible refine rg_finish (Fr.sub (V := 49123) rfl hw) ?_ ?_
    | with_reducible refine rg_command (Fr.sub (V := 49123) rfl hw) ?_ ?_
    | with_reducible refine rg_laneFault (Fr.sub (V := 49123) rfl hw) ?_
    | with_reducible refine rg_retireLane (Fr.sub (V := 49123) rfl hw) ?_
    | with_reducible apply Rg.ite

theorem rg_execLaneLock {W : Nat} {s0 : State} {lane : Nat} {t : Nat} {sx : State} (hw : 45027 ||| W = W) (hsx : Rg W s0 sx) :
    RgO W s0 (execLaneLock lane t sx) := by
  unfold execLaneLock
  repeat' first
    | intro _
    | with_reducible assumption
    | (extract_lets +onlyGivenNames z; guard_hyp z : State := _; refine RgO.cut (x := z) ?_ (fun _ => ?_); rotate_left; clear_value z; revert z; intro _ _; rotate_left; unfold z; clear z)
    | with_reducible refine rg_at_ ?_
    | with_reducible refine rg_finish (Fr.sub (V := 45027) rfl hw) ?_ ?_
    | with_reducible refine rg_laneFault hw ?_
    | with_reducible apply Rg.ite

theorem rg_execLaneLos {W : Nat} {s0 : State} {lane : Nat} {t : Nat} {sx : State} (hw : 45027 ||| W = W) (hsx : Rg W s0 sx) :
    RgO W s0 (execLaneLos lane t sx) := by
  unfold execLaneLos
  repeat' first
    | intro _
    | with_reducible assumption
    | (extract_lets +onlyGivenNames z; guard_hyp z : State := _; refine RgO.cut (x := z) ?_ (fun _ => ?_); rotate_left; clear_value z; revert z; intro _ _; rotate_left; unfold z; clear z)
    | with_reducible refine rg_at_ ?_
    | with_reducible refine rg_finish (Fr.sub (V := 45027) rfl hw) ?_ ?_
    | with_reducible refine rg_laneFault hw ?_
    | with_reducible apply Rg.ite

theorem rg_execLaneRelockTimeout {W : Nat} {s0 : State} {lane : Nat} {t : Nat} {sx : State} (hw : 45027 ||| W = W) (hsx : Rg W s0 sx) :
    RgO W s0 (execLaneRelockTimeout lane t sx) := by
  unfold execLaneRelockTimeout
  repeat' first
    | intro _
    | with_reducible assumption
    | (extract_lets +onlyGivenNames z; guard_hyp z : State := _; refine Rg.cut (x := z) ?_ (fun _ => ?_); rotate_left; clear_value z; revert z; intro _ _; rotate_left; unfold z; clear z)
    | (extract_lets +onlyGivenNames z; guard_hyp z : State := _; refine RgO.cut (x := z) ?_ (fun _ => ?_); rotate_left; clear_value z; revert z; intro _ _; rotate_left; unfold z; clear z)
    | (extract_lets +onlyGivenNames z; clear_value z; revert z; intro _)
    | with_reducible refine rg_at_ ?_
    | with_reducible refine rg_finish (Fr.sub (V := 45027) rfl hw) ?_ ?_
    | with_reducible refine rg_laneFault hw ?_
    | with_reducible refine rg_sendBlocks ?_
    | with_reducible refine rg_modLane ?_
    | with_reducible apply Rg.ite
    | with_reducible apply Rg.foldl
    | (with_reducible refine Rg.of ?_); with_reducible assumption
    | split

theorem rg_execRetSilent {W : Nat} {s0 : State} {lane : Nat} {t : Nat} {sx : State} (hw : 45027 ||| W = W) (hsx : Rg W s0 sx) :
    RgO W s0 (execRetSilent lane t sx) := by
  unfold execRetSilent
  repeat' first
    | intro _
    | with_reducible assumption
    | (extract_lets +onlyGivenNames z; guard_hyp z : State := _; refine RgO.cut (x := z) ?_ (fun _ => ?_); rotate_left; clear_value z; revert z; intro _ _; rotate_left; unfold z; clear z)
    | (extract_lets +onlyGivenNames z; clear_value z; revert z; intro _)
    | with_reducible refine rg_at_ ?_
    | with_reducible refine rg_finish (Fr.sub (V := 45027) rfl hw) ?_ ?_
    | with_reducible refine rg_laneFault hw ?_
    | with_reducible apply Rg.ite

theorem rg_record_eq {W : Nat} {s0 : State} {s : State} {p : Nat} {f : RetFrame} (hw : 45027 ||| W = W) (hs : Rg W s0 s) {s' : State} {x'} (e' : State.record s p f = (s', x')) :
    Rg W s0 s' := by
  unfold State.record at e'
  repeat' first
    | with_reducible assumption
    | (extract_lets +onlyGivenNames z at e'; clear_value z; revert z; intro _ e')
    | split at e'
    | with_reducible refine rg_tempReport hw ?_
    | with_reducible refine Rg.setReg (Fr.bit hw rfl) ?_
    | exact (Fr.bit hw rfl)
    | refine rg_badRecord_eq (Fr.sub (V := 45027) rfl hw) ?_ ?_ (by with_reducible assumption)
    | refine rg_identRecord_eq (Fr.sub (V := 45027) rfl hw) ?_ (by with_reducible assumption)
    | ((with_reducible refine Rg.of_pair ?_ e'); clear e')

theorem rg_record {W : Nat} {s0 : State} {s : State} {p : Nat} {f : RetFrame} (hw : 45027 ||| W = W) (hs : Rg W s0 s) : Rg W s0 (State.record s p f).1 :=
  Rg.of_eq fun _ _ e' => rg_record_eq hw hs e'

theorem rg_acknowledge {W : Nat} {s0 : State} {s : State} {p : Nat} {l : Nat} {f : RetFrame} (hw : 45027 ||| W = W) (hs : Rg W s0 s) :
    Rg W s0 (State.acknowledge s p l f) := by
  unfold State.acknowledge
  repeat' first
    | with_reducible assumption
    | (extract_lets +onlyGivenNames z; guard_hyp z : State := _; refine Rg.cut (x := z) ?_ (fun _ => ?_); rotate_left; clear_value z; revert z; intro _ _; rotate_left; unfold z; clear z)
    | (extract_lets +onlyGivenNames z; clear_value z; revert z; intro _)
    | with_reducible refine Rg.bump (Fr.bit hw rfl) ?_
    | with_reducible refine rg_modLane ?_
    | with_reducible refine rg_frameNak hw ?_
    | (with_reducible refine Rg.of ?_); with_reducible assumption
    | split

theorem rg_execSpareRecal {W : Nat} {s0 : State} {lane : Nat} {r : Sys2Proof.LaneRecal} {s : State} (hw : 45027 ||| W = W) (hs : Rg W s0 s) :
    RgO W s0 (execSpareRecal lane r s) := by
  unfold execSpareRecal
  repeat' first
    | intro _
    | with_reducible assumption
    | with_reducible refine rg_finish (Fr.sub (V := 45027) rfl hw) ?_ ?_
    | with_reducible refine rg_recalLane hw ?_
    | with_reducible apply Rg.ite

theorem rg_telemetry {W : Nat} {s0 : State} {s : State} {p : Nat} {f : RetFrame} {words : List Nat} (hw : 45027 ||| W = W) (hs : Rg W s0 s) :
    Rg W s0 (State.telemetry s p f words) := by
  unfold State.telemetry
  repeat' first
    | intro _
    | with_reducible assumption
    | (extract_lets +onlyGivenNames z; guard_hyp z : State := _; refine Rg.cut (x := z) ?_ (fun _ => ?_); rotate_left; clear_value z; revert z; intro _ _; rotate_left; unfold z; clear z)
    | (extract_lets +onlyGivenNames z; clear_value z; revert z; intro _)
    | with_reducible refine Rg.bump (Fr.bit hw rfl) ?_
    | with_reducible refine rg_record hw ?_
    | with_reducible refine rg_mailbox (Fr.sub (V := 45027) rfl hw) ?_
    | with_reducible apply Rg.ite
    | (with_reducible refine Rg.of ?_); with_reducible assumption

theorem rg_checkedFrame {W : Nat} {s0 : State} {s : State} {p : Nat} {words : List Nat} (hw : 45027 ||| W = W) (hs : Rg W s0 s) :
    Rg W s0 (State.checkedFrame s p words) := by
  unfold State.checkedFrame
  repeat' first
    | intro _
    | with_reducible assumption
    | (extract_lets +onlyGivenNames z; guard_hyp z : State := _; refine Rg.cut (x := z) ?_ (fun _ => ?_); rotate_left; clear_value z; revert z; intro _ _; rotate_left; unfold z; clear z)
    | (extract_lets +onlyGivenNames z; clear_value z; revert z; intro _)
    | with_reducible refine Rg.bump (Fr.bit hw rfl) ?_
    | with_reducible refine rg_useInjection (Fr.sub (V := 45027) rfl hw) ?_
    | with_reducible refine rg_modLane ?_
    | with_reducible refine rg_acknowledge hw ?_
    | with_reducible refine rg_telemetry hw ?_
    | with_reducible apply Rg.ite

theorem rg_execReturnFrame {W : Nat} {s0 : State} {lane : Nat} {words : List Nat} {t : Nat} {sx : State} (hw : 45027 ||| W = W) (hsx : Rg W s0 sx) :
    RgO W s0 (execReturnFrame lane words t sx) := by
  unfold execReturnFrame
  repeat' first
    | intro _
    | with_reducible assumption
    | (extract_lets +onlyGivenNames z; guard_hyp z : State := _; refine RgO.cut (x := z) ?_ (fun _ => ?_); rotate_left; clear_value z; revert z; intro _ _; rotate_left; unfold z; clear z)
    | (extract_lets +onlyGivenNames z; clear_value z; revert z; intro _)
    | with_reducible refine rg_at_ ?_
    | with_reducible refine rg_finish (Fr.sub (V := 45027) rfl hw) ?_ ?_
    | with_reducible refine Rg.bump (Fr.bit hw rfl) ?_
    | with_reducible refine rg_modLane ?_
    | with_reducible refine rg_checkedFrame hw ?_
    | with_reducible apply Rg.ite

/-! Sensors. -/

theorem rg_convert {W : Nat} {s0 : State} {s : State} {n : Nat} {raw : Int} (hs : Rg W s0 s) :
    Rg W s0 (State.convert s n raw) := by
  unfold State.convert
  repeat' first
    | (extract_lets +onlyGivenNames z; clear_value z; revert z; intro _)
    | (with_reducible refine Rg.of ?_); with_reducible assumption

theorem rg_measureAge {W : Nat} {s0 : State} {s : State} {counts : List Nat} (hw : 45056 ||| W = W) (hs : Rg W s0 s) :
    Rg W s0 (State.measureAge s counts) := by
  unfold State.measureAge
  repeat' first
    | intro _
    | with_reducible assumption
    | (extract_lets +onlyGivenNames z; guard_hyp z : State := _; refine Rg.cut (x := z) ?_ (fun _ => ?_); rotate_left; clear_value z; revert z; intro _ _; rotate_left; unfold z; clear z)
    | (extract_lets +onlyGivenNames z; clear_value z; revert z; intro _)
    | with_reducible refine Rg.setReg (Fr.bit hw (by rw [blk_THM_AGE_d]; decide)) ?_
    | with_reducible refine rg_trigger (Fr.sub (V := 45056) rfl hw) ?_
    | with_reducible refine rg_raise (Fr.sub (V := 45056) rfl hw) ?_
    | with_reducible apply Rg.ite
    | with_reducible apply Rg.foldl
    | (with_reducible refine Rg.of ?_); with_reducible assumption

theorem rg_execAgeingMeasure {W : Nat} {s0 : State} {counts : List Nat} {s : State} (hw : 45056 ||| W = W) (hs : Rg W s0 s) :
    RgO W s0 (execAgeingMeasure counts s) := by
  unfold execAgeingMeasure
  repeat' first
    | intro _
    | with_reducible assumption
    | with_reducible refine rg_finish (Fr.sub (V := 45056) rfl hw) ?_ ?_
    | with_reducible refine rg_measureAge hw ?_
    | with_reducible apply Rg.ite

theorem rg_thermal {W : Nat} {s0 : State} {s : State} (hw : 44771 ||| W = W) (hs : Rg W s0 s) :
    Rg W s0 (State.thermal s) := by
  unfold State.thermal
  repeat' first
    | intro _
    | with_reducible assumption
    | (extract_lets +onlyGivenNames z; guard_hyp z : State := _; refine Rg.cut (x := z) ?_ (fun _ => ?_); rotate_left; clear_value z; revert z; intro _ _; rotate_left; unfold z; clear z)
    | (extract_lets +onlyGivenNames z; clear_value z; revert z; intro _)
    | with_reducible refine rg_raise (Fr.sub (V := 44771) rfl hw) ?_
    | with_reducible refine rg_truncateNow hw ?_
    | with_reducible apply Rg.ite
    | (with_reducible refine Rg.of ?_); with_reducible assumption

theorem rg_execSensorConversion {W : Nat} {s0 : State} {n : Nat} {raw : Int} {t : Nat} {sx : State} (hw : 131071 ||| W = W) (hsx : Rg W s0 sx) :
    RgO W s0 (execSensorConversion n raw t sx) := by
  unfold execSensorConversion
  repeat' first
    | intro _
    | with_reducible assumption
    | (extract_lets +onlyGivenNames z; guard_hyp z : State := _; refine RgO.cut (x := z) ?_ (fun _ => ?_); rotate_left; clear_value z; revert z; intro _ _; rotate_left; unfold z; clear z)
    | (extract_lets +onlyGivenNames z; clear_value z; revert z; intro _)
    | with_reducible refine rg_at_ ?_
    | with_reducible refine rg_finish (Fr.sub (V := 131071) rfl hw) ?_ ?_
    | with_reducible refine rg_convert ?_
    | with_reducible refine rg_powerOff hw ?_
    | with_reducible refine rg_thermal (Fr.sub (V := 131071) rfl hw) ?_
    | with_reducible apply Rg.ite
    | (with_reducible refine Rg.of ?_); with_reducible assumption

/-! Bringup. -/

theorem rg_weaverStates {W : Nat} {s0 : State} {s : State} (hs : Rg W s0 s) :
    Rg W s0 (State.weaverStates s) := by
  unfold State.weaverStates
  repeat' first
    | (extract_lets +onlyGivenNames z; clear_value z; revert z; intro _)
    | (with_reducible refine Rg.of ?_); with_reducible assumption

theorem rg_stepSram_eq {W : Nat} {s0 : State} {s : State} {u : Sys2Proof.UpsettInput} (hs : Rg W s0 s) {s' : State} {x'} (e' : State.stepSram s u = (s', x')) :
    Rg W s0 s' := by
  unfold State.stepSram at e'
  repeat' first
    | ((with_reducible refine Rg.of_pair ?_ e'); clear e')
    | (with_reducible refine Rg.of ?_); with_reducible assumption

theorem rg_stepSram {W : Nat} {s0 : State} {s : State} {u : Sys2Proof.UpsettInput} (hs : Rg W s0 s) : Rg W s0 (State.stepSram s u).1 :=
  Rg.of_eq fun _ _ e' => rg_stepSram_eq hs e'

theorem rg_stepPath_eq {W : Nat} {s0 : State} {s : State} {u : Sys2Proof.UpsettInput} (hs : Rg W s0 s) {s' : State} {x'} (e' : State.stepPath s u = (s', x')) :
    Rg W s0 s' := by
  unfold State.stepPath at e'
  repeat' first
    | (extract_lets +onlyGivenNames z at e'; guard_hyp z : Dram := _; revert z; intro _ e')
    | ((with_reducible refine Rg.of_pair ?_ e'); clear e')
    | (with_reducible refine Rg.of ?_); with_reducible assumption

theorem rg_stepPath {W : Nat} {s0 : State} {s : State} {u : Sys2Proof.UpsettInput} (hs : Rg W s0 s) : Rg W s0 (State.stepPath s u).1 :=
  Rg.of_eq fun _ _ e' => rg_stepPath_eq hs e'

theorem rg_seedDraw {W : Nat} {s0 : State} {s : State} (hs : Rg W s0 s) :
    Rg W s0 (State.seedDraw s) := by
  unfold State.seedDraw
  repeat' first
    | (extract_lets +onlyGivenNames z; clear_value z; revert z; intro _)
    | (with_reducible refine Rg.of ?_); with_reducible assumption

theorem rg_stepFw_eq {W : Nat} {s0 : State} {s : State} (hw : 1 ||| W = W) (hs : Rg W s0 s) {s' : State} {x'} (e' : State.stepFw s = (s', x')) :
    Rg W s0 s' := by
  unfold State.stepFw at e'
  repeat' first
    | with_reducible assumption
    | split at e'
    | with_reducible refine Rg.setReg (Fr.bit hw rfl) ?_
    | ((with_reducible refine Rg.of_pair ?_ e'); clear e')

theorem rg_stepFw {W : Nat} {s0 : State} {s : State} (hw : 1 ||| W = W) (hs : Rg W s0 s) : Rg W s0 (State.stepFw s).1 :=
  Rg.of_eq fun _ _ e' => rg_stepFw_eq hw hs e'

theorem rg_stepNor_eq {W : Nat} {s0 : State} {s : State} (hw : 8192 ||| W = W) (hs : Rg W s0 s) {s' : State} {x'} (e' : State.stepNor s = (s', x')) :
    Rg W s0 s' := by
  unfold State.stepNor at e'
  repeat' first
    | with_reducible assumption
    | (extract_lets +onlyGivenNames z at e'; guard_hyp z : State := _; refine Rg.cut (x := z) ?_ (fun _ => ?_); rotate_left; clear_value z; revert z; intro _ e' _; rotate_left; unfold z; clear e'; clear z)
    | (extract_lets +onlyGivenNames z at e'; clear_value z; revert z; intro _ e')
    | split at e'
    | with_reducible refine rg_trigger hw ?_
    | ((with_reducible refine Rg.of_pair ?_ e'); clear e')
    | (with_reducible refine Rg.of ?_); with_reducible assumption

theorem rg_stepNor {W : Nat} {s0 : State} {s : State} (hw : 8192 ||| W = W) (hs : Rg W s0 s) : Rg W s0 (State.stepNor s).1 :=
  Rg.of_eq fun _ _ e' => rg_stepNor_eq hw hs e'

theorem rg_stepWeavers_eq {W : Nat} {s0 : State} {s : State} {u : Sys2Proof.UpsettInput} (hw : 40968 ||| W = W) (hs : Rg W s0 s) {s' : State} {x'} (e' : State.stepWeavers s u = (s', x')) :
    Rg W s0 s' := by
  unfold State.stepWeavers at e'
  repeat' first
    | intro _
    | with_reducible assumption
    | (extract_lets +onlyGivenNames z at e'; guard_hyp z : State := _; refine Rg.cut (x := z) ?_ (fun _ => ?_); rotate_left; clear_value z; revert z; intro _ e' _; rotate_left; unfold z; clear e'; clear z)
    | with_reducible refine rg_weaverStates ?_
    | with_reducible refine rg_retireWeaver hw ?_
    | with_reducible apply Rg.ite
    | with_reducible apply Rg.foldl
    | ((with_reducible refine Rg.of_pair ?_ e'); clear e')

theorem rg_stepWeavers {W : Nat} {s0 : State} {s : State} {u : Sys2Proof.UpsettInput} (hw : 40968 ||| W = W) (hs : Rg W s0 s) : Rg W s0 (State.stepWeavers s u).1 :=
  Rg.of_eq fun _ _ e' => rg_stepWeavers_eq hw hs e'

theorem rg_stepRim_eq {W : Nat} {s0 : State} {s : State} {u : Sys2Proof.UpsettInput} (hw : 41216 ||| W = W) (hs : Rg W s0 s) {s' : State} {x'} (e' : State.stepRim s u = (s', x')) :
    Rg W s0 s' := by
  unfold State.stepRim at e'
  repeat' first
    | with_reducible assumption
    | (extract_lets +onlyGivenNames z at e'; guard_hyp z : State := _; refine Rg.cut (x := z) ?_ (fun _ => ?_); rotate_left; clear_value z; revert z; intro _ e' _; rotate_left; unfold z; clear e'; clear z)
    | (extract_lets +onlyGivenNames z at e'; clear_value z; revert z; intro _ e')
    | split at e'
    | with_reducible refine rg_trainLink hw ?_
    | ((with_reducible refine Rg.of_pair ?_ e'); clear e')
    | (with_reducible refine Rg.of ?_); with_reducible assumption

theorem rg_stepRim {W : Nat} {s0 : State} {s : State} {u : Sys2Proof.UpsettInput} (hw : 41216 ||| W = W) (hs : Rg W s0 s) : Rg W s0 (State.stepRim s u).1 :=
  Rg.of_eq fun _ _ e' => rg_stepRim_eq hw hs e'

theorem rg_execTrainRim {W : Nat} {s0 : State} {ring : Nat} {r : Sys2Proof.RimTraining} {s : State} (hw : 131071 ||| W = W) (hs : Rg W s0 s) :
    RgO W s0 (execTrainRim ring r s) := by
  unfold execTrainRim
  repeat' first
    | intro _
    | with_reducible assumption
    | (extract_lets +onlyGivenNames z; guard_hyp z : State := _; refine Rg.cut (x := z) ?_ (fun _ => ?_); rotate_left; clear_value z; revert z; intro _ _; rotate_left; unfold z; clear z)
    | with_reducible refine rg_finish (Fr.sub (V := 131071) rfl hw) ?_ ?_
    | with_reducible refine rg_checked (Fr.sub (V := 131071) rfl hw) ?_ ?_
    | with_reducible refine rg_awake hw ?_ ?_
    | with_reducible refine rg_trainLink (Fr.sub (V := 131071) rfl hw) ?_
    | with_reducible refine rg_setWait ?_
    | with_reducible refine rg_answer (Fr.sub (V := 131071) rfl hw) ?_
    | with_reducible apply Rg.ite
    | split

theorem rg_execCalibrateSensors {W : Nat} {s0 : State} {ring : Nat} {temps : List Int} {age : List Nat} {s : State} (hw : 131071 ||| W = W) (hs : Rg W s0 s) :
    RgO W s0 (execCalibrateSensors ring temps age s) := by
  unfold execCalibrateSensors
  repeat' first
    | intro _
    | with_reducible assumption
    | (extract_lets +onlyGivenNames z; guard_hyp z : State := _; refine Rg.cut (x := z) ?_ (fun _ => ?_); rotate_left; clear_value z; revert z; intro _ _; rotate_left; unfold z; clear z)
    | (extract_lets +onlyGivenNames z; clear_value z; revert z; intro _)
    | with_reducible refine rg_finish (Fr.sub (V := 131071) rfl hw) ?_ ?_
    | with_reducible refine rg_checked (Fr.sub (V := 131071) rfl hw) ?_ ?_
    | with_reducible refine rg_awake hw ?_ ?_
    | with_reducible refine rg_measureAge (Fr.sub (V := 131071) rfl hw) ?_
    | with_reducible refine rg_thermal (Fr.sub (V := 131071) rfl hw) ?_
    | with_reducible refine rg_answer (Fr.sub (V := 131071) rfl hw) ?_
    | (with_reducible refine Rg.of ?_); with_reducible assumption
    | split

theorem rg_stepSensors_eq {W : Nat} {s0 : State} {s : State} {u : Sys2Proof.UpsettInput} (hw : 48867 ||| W = W) (hs : Rg W s0 s) {s' : State} {x'} (e' : State.stepSensors s u = (s', x')) :
    Rg W s0 s' := by
  unfold State.stepSensors at e'
  repeat' first
    | with_reducible assumption
    | (extract_lets +onlyGivenNames z at e'; guard_hyp z : State := _; refine Rg.cut (x := z) ?_ (fun _ => ?_); rotate_left; clear_value z; revert z; intro _ e' _; rotate_left; unfold z; clear e'; clear z)
    | (extract_lets +onlyGivenNames z at e'; clear_value z; revert z; intro _ e')
    | with_reducible refine rg_measureAge (Fr.sub (V := 48867) rfl hw) ?_
    | with_reducible refine rg_thermal (Fr.sub (V := 48867) rfl hw) ?_
    | ((with_reducible refine Rg.of_pair ?_ e'); clear e')
    | (with_reducible refine Rg.of ?_); with_reducible assumption

theorem rg_stepSensors {W : Nat} {s0 : State} {s : State} {u : Sys2Proof.UpsettInput} (hw : 48867 ||| W = W) (hs : Rg W s0 s) : Rg W s0 (State.stepSensors s u).1 :=
  Rg.of_eq fun _ _ e' => rg_stepSensors_eq hw hs e'

theorem rg_execCalibrateUpsettSet {W : Nat} {s0 : State} {ring : Nat} {u : Sys2Proof.UpsettInput} {s : State} (hw : 131071 ||| W = W) (hs : Rg W s0 s) :
    RgO W s0 (execCalibrateUpsettSet ring u s) := by
  unfold execCalibrateUpsettSet
  repeat' first
    | intro _
    | with_reducible assumption
    | with_reducible refine rg_finish (Fr.sub (V := 131071) rfl hw) ?_ ?_
    | with_reducible refine rg_checked (Fr.sub (V := 131071) rfl hw) ?_ ?_
    | with_reducible refine rg_awake hw ?_ ?_
    | with_reducible refine rg_answer (Fr.sub (V := 131071) rfl hw) ?_
    | refine rg_stepWeavers_eq (Fr.sub (V := 131071) rfl hw) ?_ (by with_reducible assumption)
    | refine rg_stepSensors_eq (Fr.sub (V := 131071) rfl hw) ?_ (by with_reducible assumption)
    | split

theorem rg_stepDram_eq {W : Nat} {s0 : State} {s : State} {u : Sys2Proof.UpsettInput} (hw : 44771 ||| W = W) (hs : Rg W s0 s) {s' : State} {x'} (e' : State.stepDram s u = (s', x')) :
    Rg W s0 s' := by
  unfold State.stepDram at e'
  repeat' first
    | intro _
    | with_reducible assumption
    | (extract_lets +onlyGivenNames z at e'; guard_hyp z : State := _; refine Rg.cut (x := z) ?_ (fun _ => ?_); rotate_left; clear_value z; revert z; intro _ e' _; rotate_left; unfold z; clear e'; clear z)
    | (extract_lets +onlyGivenNames z at e'; guard_hyp z : Dram := _; revert z; intro _ e')
    | (extract_lets +onlyGivenNames z at e'; clear_value z; revert z; intro _ e')
    | (extract_lets +onlyGivenNames z; guard_hyp z : Dram := _; revert z; intro _)
    | split at e'
    | with_reducible refine rg_eccLog (Fr.sub (V := 44771) rfl hw) ?_
    | with_reducible refine rg_raise (Fr.sub (V := 44771) rfl hw) ?_
    | with_reducible refine rg_trainAll hw ?_
    | with_reducible apply Rg.foldl
    | ((with_reducible refine Rg.of_pair ?_ e'); clear e')
    | (with_reducible refine Rg.of ?_); with_reducible assumption

theorem rg_stepDram {W : Nat} {s0 : State} {s : State} {u : Sys2Proof.UpsettInput} (hw : 44771 ||| W = W) (hs : Rg W s0 s) : Rg W s0 (State.stepDram s u).1 :=
  Rg.of_eq fun _ _ e' => rg_stepDram_eq hw hs e'

theorem rg_execTrainDram {W : Nat} {s0 : State} {ring : Nat} {r : List Sys2Proof.ChanTraining} {s : State} (hw : 131071 ||| W = W) (hs : Rg W s0 s) :
    RgO W s0 (execTrainDram ring r s) := by
  unfold execTrainDram
  repeat' first
    | intro _
    | with_reducible assumption
    | (extract_lets +onlyGivenNames z; guard_hyp z : State := _; refine Rg.cut (x := z) ?_ (fun _ => ?_); rotate_left; clear_value z; revert z; intro _ _; rotate_left; unfold z; clear z)
    | (extract_lets +onlyGivenNames z; clear_value z; revert z; intro _)
    | with_reducible refine rg_finish (Fr.sub (V := 131071) rfl hw) ?_ ?_
    | with_reducible refine rg_checked (Fr.sub (V := 131071) rfl hw) ?_ ?_
    | with_reducible refine rg_awake hw ?_ ?_
    | with_reducible refine rg_trainAll (Fr.sub (V := 131071) rfl hw) ?_
    | with_reducible refine rg_answer (Fr.sub (V := 131071) rfl hw) ?_
    | split

theorem rg_execCalibrateDramRecal {W : Nat} {s0 : State} {ring : Nat} {r : List Sys2Proof.ChanMargins} {s : State} (hw : 131071 ||| W = W) (hs : Rg W s0 s) :
    RgO W s0 (execCalibrateDramRecal ring r s) := by
  unfold execCalibrateDramRecal
  repeat' first
    | intro _
    | with_reducible assumption
    | (extract_lets +onlyGivenNames z; clear_value z; revert z; intro _)
    | with_reducible refine rg_finish (Fr.sub (V := 131071) rfl hw) ?_ ?_
    | with_reducible refine rg_checked (Fr.sub (V := 131071) rfl hw) ?_ ?_
    | with_reducible refine rg_awake hw ?_ ?_
    | with_reducible refine rg_answer (Fr.sub (V := 131071) rfl hw) ?_
    | with_reducible refine rg_recalChan (Fr.sub (V := 131071) rfl hw) ?_
    | with_reducible apply Rg.foldl
    | split

theorem rg_execCalibrateRimRecal {W : Nat} {s0 : State} {ring : Nat} {r : List Sys2Proof.LaneRecal} {s : State} (hw : 131071 ||| W = W) (hs : Rg W s0 s) :
    RgO W s0 (execCalibrateRimRecal ring r s) := by
  unfold execCalibrateRimRecal
  repeat' first
    | intro _
    | with_reducible assumption
    | (extract_lets +onlyGivenNames z; guard_hyp z : State × _ := _; revert z; intro _)
    | with_reducible refine rg_finish (Fr.sub (V := 131071) rfl hw) ?_ ?_
    | with_reducible refine rg_checked (Fr.sub (V := 131071) rfl hw) ?_ ?_
    | with_reducible refine rg_awake hw ?_ ?_
    | with_reducible refine rg_answer (Fr.sub (V := 131071) rfl hw) ?_
    | with_reducible apply Rg.foldl₂
    | refine rg_recalLane_eq (Fr.sub (V := 131071) rfl hw) ?_ (by with_reducible assumption)
    | split

theorem rg_upsettStep_eq {W : Nat} {s0 : State} {u : Sys2Proof.UpsettInput} {n : Nat} {s : State} (hw : 49131 ||| W = W) (hs : Rg W s0 s) {s' : State} {x'} (e' : State.upsettStep u n s = (s', x')) :
    Rg W s0 s' := by
  unfold State.upsettStep at e'
  repeat' first
    | with_reducible assumption
    | split at e'
    | with_reducible refine rg_seedDraw ?_
    | refine rg_stepFw_eq (Fr.sub (V := 49131) rfl hw) ?_ (by with_reducible assumption)
    | refine rg_stepNor_eq (Fr.sub (V := 49131) rfl hw) ?_ (by with_reducible assumption)
    | refine rg_stepSram_eq ?_ (by with_reducible assumption)
    | refine rg_stepDram_eq (Fr.sub (V := 49131) rfl hw) ?_ (by with_reducible assumption)
    | refine rg_stepWeavers_eq (Fr.sub (V := 49131) rfl hw) ?_ (by with_reducible assumption)
    | refine rg_stepRim_eq (Fr.sub (V := 49131) rfl hw) ?_ (by with_reducible assumption)
    | refine rg_stepSensors_eq (Fr.sub (V := 49131) rfl hw) ?_ (by with_reducible assumption)
    | refine rg_stepPath_eq ?_ (by with_reducible assumption)

theorem rg_upsettStep {W : Nat} {s0 : State} {u : Sys2Proof.UpsettInput} {n : Nat} {s : State} (hw : 49131 ||| W = W) (hs : Rg W s0 s) : Rg W s0 (State.upsettStep u n s).1 :=
  Rg.of_eq fun _ _ e' => rg_upsettStep_eq hw hs e'

theorem rg_runSteps_eq {W : Nat} {s0 : State} {u : Sys2Proof.UpsettInput} {a : List Nat} {a2 : State} (hw : 49131 ||| W = W) (ha2 : Rg W s0 a2) {s' : State} {x'} (e' : State.runSteps u a a2 = (s', x')) :
    Rg W s0 s' := by
  induction a generalizing u a2 with
  | nil =>
    unfold State.runSteps at e'
    repeat' first
      | with_reducible assumption
      | ((with_reducible refine Rg.of_pair ?_ e'); clear e')
  | cons y l ih =>
    unfold State.runSteps at e'
    repeat' first
      | with_reducible assumption
      | (extract_lets +onlyGivenNames z at e'; guard_hyp z : State := _; refine Rg.cut (x := z) ?_ (fun _ => ?_); rotate_left; clear_value z; revert z; intro _ e' _; rotate_left; unfold z; clear e'; clear z)
      | (extract_lets +onlyGivenNames z at e'; guard_hyp z : State × _ := _; revert z; intro _ e')
      | split at e'
      | refine ih ?_ (by with_reducible assumption)
      | with_reducible refine rg_upsettStep hw ?_
      | with_reducible refine Rg.setField (Fr.bit hw rfl) ?_
      | with_reducible refine Rg.setReg (Fr.bit hw (by rw [blk_GLB_UPSETT_MS_1]; decide)) ?_
      | ((with_reducible refine Rg.of_pair ?_ e'); clear e')

theorem rg_runSteps {W : Nat} {s0 : State} {u : Sys2Proof.UpsettInput} {a : List Nat} {a2 : State} (hw : 49131 ||| W = W) (ha2 : Rg W s0 a2) : Rg W s0 (State.runSteps u a a2).1 :=
  Rg.of_eq fun _ _ e' => rg_runSteps_eq hw ha2 e'

theorem rg_upsett_eq {W : Nat} {s0 : State} {s : State} {u : Sys2Proof.UpsettInput} {auto : Bool} (hw : 49131 ||| W = W) (hs : Rg W s0 s) {s' : State} {x'} (e' : State.upsett s u auto = (s', x')) :
    Rg W s0 s' := by
  unfold State.upsett at e'
  repeat' first
    | intro _
    | with_reducible assumption
    | (extract_lets +onlyGivenNames z at e'; guard_hyp z : State := _; refine Rg.cut (x := z) ?_ (fun _ => ?_); rotate_left; clear_value z; revert z; intro _ e' _; rotate_left; unfold z; clear e'; clear z)
    | (extract_lets +onlyGivenNames z at e'; clear_value z; revert z; intro _ e')
    | split at e'
    | with_reducible refine rg_clearJob (Fr.sub (V := 49131) rfl hw) ?_
    | with_reducible refine rg_enterMode (Fr.sub (V := 49131) rfl hw) ?_
    | with_reducible refine Rg.setReg (Fr.bit hw rfl) ?_
    | with_reducible refine Rg.setField (Fr.bit hw rfl) ?_
    | with_reducible apply Rg.ite
    | refine rg_runSteps_eq hw ?_ (by with_reducible assumption)
    | ((with_reducible refine Rg.of_pair ?_ e'); clear e')
    | (with_reducible refine Rg.of ?_); with_reducible assumption

theorem rg_upsett {W : Nat} {s0 : State} {s : State} {u : Sys2Proof.UpsettInput} {auto : Bool} (hw : 49131 ||| W = W) (hs : Rg W s0 s) : Rg W s0 (State.upsett s u auto).1 :=
  Rg.of_eq fun _ _ e' => rg_upsett_eq hw hs e'

theorem rg_setMode {W : Nat} {s0 : State} {s : State} {r : Nat} {n : Mode} {u : Sys2Proof.UpsettInput} (hw : 131071 ||| W = W) (hs : Rg W s0 s) :
    Rg W s0 (State.setMode s r n u) := by
  unfold State.setMode
  repeat' first
    | intro _
    | with_reducible assumption
    | (extract_lets +onlyGivenNames z; guard_hyp z : State := _; refine Rg.cut (x := z) ?_ (fun _ => ?_); rotate_left; clear_value z; revert z; intro _ _; rotate_left; unfold z; clear z)
    | with_reducible refine rg_autoRun hw ?_
    | with_reducible refine rg_answer (Fr.sub (V := 131071) rfl hw) ?_
    | with_reducible refine rg_enterMode (Fr.sub (V := 131071) rfl hw) ?_
    | with_reducible apply Rg.ite
    | refine rg_upsett_eq (Fr.sub (V := 131071) rfl hw) ?_ (by with_reducible assumption)
    | split

theorem rg_execUpsettAutoStart {W : Nat} {s0 : State} {t : Nat} {u : Sys2Proof.UpsettInput} {sx : State} (hw : 131071 ||| W = W) (hsx : Rg W s0 sx) :
    RgO W s0 (execUpsettAutoStart t u sx) := by
  unfold execUpsettAutoStart
  repeat' first
    | intro _
    | with_reducible assumption
    | (extract_lets +onlyGivenNames z; guard_hyp z : State := _; refine RgO.cut (x := z) ?_ (fun _ => ?_); rotate_left; clear_value z; revert z; intro _ _; rotate_left; unfold z; clear z)
    | with_reducible refine rg_at_ ?_
    | with_reducible refine rg_finish (Fr.sub (V := 131071) rfl hw) ?_ ?_
    | with_reducible refine rg_upsett (Fr.sub (V := 131071) rfl hw) ?_
    | with_reducible refine rg_autoRun hw ?_
    | with_reducible apply Rg.ite

theorem rg_execSetMode {W : Nat} {s0 : State} {ring : Nat} {t : Nat} {u : Sys2Proof.UpsettInput} {sx : State} (hw : 131071 ||| W = W) (hsx : Rg W s0 sx) :
    RgO W s0 (execSetMode ring t u sx) := by
  unfold execSetMode
  repeat' first
    | intro _
    | with_reducible assumption
    | (extract_lets +onlyGivenNames z; guard_hyp z : State := _; refine RgO.cut (x := z) ?_ (fun _ => ?_); rotate_left; clear_value z; revert z; intro _ _; rotate_left; unfold z; clear z)
    | (extract_lets +onlyGivenNames z; clear_value z; revert z; intro _)
    | with_reducible refine rg_at_ ?_
    | with_reducible refine rg_finish (Fr.sub (V := 131071) rfl hw) ?_ ?_
    | with_reducible refine rg_checked (Fr.sub (V := 131071) rfl hw) ?_ ?_
    | with_reducible refine rg_refuse (Fr.sub (V := 131071) rfl hw) ?_
    | with_reducible refine rg_setMode hw ?_
    | with_reducible apply Rg.ite
    | split

/-! JobKey. -/

theorem rg_installKey {W : Nat} {s0 : State} {s : State} {blk : List Sys2Proof.Byte} {key : List Sys2Proof.Byte} (hw : 59040 ||| W = W) (hs : Rg W s0 s) :
    Rg W s0 (State.installKey s blk key) := by
  unfold State.installKey
  repeat' first
    | with_reducible assumption
    | (extract_lets +onlyGivenNames z; guard_hyp z : State := _; refine Rg.cut (x := z) ?_ (fun _ => ?_); rotate_left; clear_value z; revert z; intro _ _; rotate_left; unfold z; clear z)
    | with_reducible refine rg_clearJob (Fr.sub (V := 59040) rfl hw) ?_
    | with_reducible refine Rg.setReg (Fr.bit hw rfl) ?_
    | (with_reducible refine Rg.of ?_); with_reducible assumption

theorem rg_useKeyBlock {W : Nat} {s0 s : State} {r : Nat} {blk : Sys2Proof.HostRead} (hw : 61090 ||| W = W) (hs : Rg W s0 s) :
    Rg W s0 (State.useKeyBlock s r blk) := by
  unfold State.useKeyBlock
  cases blk with
  | fail b n => exact rg_refuse (Fr.sub rfl hw) hs
  | data b =>
    dsimp only
    generalize unwrapBlock s.glb.kwk s.glb.kwkId.toNat 1 b = c
    cases c with
    | none => exact rg_refuse (Fr.sub rfl hw) hs
    | some key => exact Rg.ite (fun _ => rg_setWait hs) fun _ => rg_answer (Fr.sub rfl hw) (rg_installKey (Fr.sub rfl hw) hs)

theorem rg_resumeLoadKey {W : Nat} {s0 : State} {s : State} (hw : 61090 ||| W = W) (hs : Rg W s0 s) :
    Rg W s0 (State.resumeLoadKey s) := by
  unfold State.resumeLoadKey
  repeat' first
    | intro _
    | with_reducible assumption
    | with_reducible refine rg_useKeyBlock hw ?_
    | with_reducible refine rg_dropWait ?_
    | with_reducible apply Rg.ite
    | with_reducible apply Rg.foldl
    | split

theorem rg_execLoadJobKey {W : Nat} {s0 : State} {ring : Nat} {blk : Sys2Proof.HostRead} {s : State} (hw : 131071 ||| W = W) (hs : Rg W s0 s) :
    RgO W s0 (execLoadJobKey ring blk s) := by
  unfold execLoadJobKey
  repeat' first
    | intro _
    | with_reducible assumption
    | with_reducible refine rg_finish (Fr.sub (V := 131071) rfl hw) ?_ ?_
    | with_reducible refine rg_checked (Fr.sub (V := 131071) rfl hw) ?_ ?_
    | with_reducible refine rg_awake hw ?_ ?_
    | with_reducible refine rg_useKeyBlock (Fr.sub (V := 131071) rfl hw) ?_
    | with_reducible apply Rg.ite
    | split

end Sys2Proof.Laws
end

