-- ==== Sys2Proof/Laws/RegFrameHost.lean ====
section
/-! SUPPORT. The registers that the DMA engines, the command rings and the network leave as they were: one lemma for each operation and each command (see RegFrame). -/

namespace Sys2Proof.Laws

open Sys2Proof.Machine

/-! Dma. -/

theorem rg_carryPoison {W : Nat} {s0 : State} {s : State} {ws : List Nat} (hs : Rg W s0 s) :
    Rg W s0 (State.carryPoison s ws) := by
  unfold State.carryPoison
  repeat' first
    | intro _
    | with_reducible assumption
    | with_reducible refine rg_markWord ?_
    | with_reducible apply Rg.ite
    | with_reducible apply Rg.foldl

theorem rg_deliver {W : Nat} {s0 : State} {s : State} {lo : Nat} {n : Nat} (hs : Rg W s0 s) :
    Rg W s0 (State.deliver s lo n) := by
  unfold State.deliver
  repeat' first
    | (extract_lets +onlyGivenNames z; clear_value z; revert z; intro _)
    | with_reducible refine rg_freeRing ?_
    | (with_reducible refine Rg.of ?_); with_reducible assumption

theorem rg_countBytes {W : Nat} {s0 : State} {s : State} {r : Nat} {n : Nat} (hw : 2 ||| W = W) (hs : Rg W s0 s) :
    Rg W s0 (State.countBytes s r n) := by
  unfold State.countBytes
  dsimp only
  repeat' first
    | with_reducible assumption
    | with_reducible refine Rg.setReg64 (Fr.bit hw (by rw [blk_DMA_ENGe_BYTES_LO]; decide)) (Fr.bit hw (by rw [blk_DMA_ENGe_BYTES_HI]; decide)) ?_

theorem rg_setMoved {W : Nat} {s0 : State} {s : State} {r : Nat} {e : CurEntry} {m : Moved} (hw : 2 ||| W = W) (hs : Rg W s0 s) :
    Rg W s0 (State.setMoved s r e m) := by
  unfold State.setMoved
  repeat' first
    | with_reducible assumption
    | (extract_lets +onlyGivenNames z; clear_value z; revert z; intro _)
    | with_reducible refine rg_setRing ?_
    | with_reducible refine rg_countBytes hw ?_

theorem rg_placeLocal {W : Nat} {s0 : State} {a : Nat} {a1 : State} {a2 : Desc} {a3 : Nat} {a4 : List Sys2Proof.Byte} (hw : 1536 ||| W = W) (ha1 : Rg W s0 a1) :
    Rg W s0 (State.placeLocal a a1 a2 a3 a4) := by
  induction a generalizing a1 a2 a3 a4 with
  | zero =>
    unfold State.placeLocal
    repeat' (with_reducible assumption)
  | succ n ih =>
    unfold State.placeLocal
    repeat' first
      | intro _
      | with_reducible assumption
      | (extract_lets +onlyGivenNames z; clear_value z; revert z; intro _)
      | with_reducible apply ih
      | with_reducible refine rg_memWrite hw ?_
      | with_reducible apply Rg.ite

theorem rg_spoilBeat {W : Nat} {s0 : State} {s : State} {d : Desc} {o : Nat} (hw : 1536 ||| W = W) (hs : Rg W s0 s) :
    Rg W s0 (State.spoilBeat s d o) := by
  unfold State.spoilBeat
  repeat' first
    | with_reducible assumption
    | (extract_lets +onlyGivenNames z; guard_hyp z : State := _; refine Rg.cut (x := z) ?_ (fun _ => ?_); rotate_left; clear_value z; revert z; intro _ _; rotate_left; unfold z; clear z)
    | (extract_lets +onlyGivenNames z; clear_value z; revert z; intro _)
    | with_reducible refine rg_memWrite hw ?_
    | (with_reducible refine Rg.of ?_); with_reducible assumption

theorem rg_moveIn {W : Nat} {s0 : State} {s : State} {r : Nat} {e : CurEntry} {data : Sys2Proof.HostRead} (hw : 1538 ||| W = W) (hs : Rg W s0 s) :
    Rg W s0 (State.moveIn s r e data) := by
  unfold State.moveIn
  repeat' first
    | intro _
    | with_reducible assumption
    | (extract_lets +onlyGivenNames z; guard_hyp z : State := _; refine Rg.cut (x := z) ?_ (fun _ => ?_); rotate_left; clear_value z; revert z; intro _ _; rotate_left; unfold z; clear z)
    | (extract_lets +onlyGivenNames z; clear_value z; revert z; intro _)
    | with_reducible refine rg_placeLocal (Fr.sub (V := 1538) rfl hw) ?_
    | with_reducible refine rg_setMoved (Fr.sub (V := 1538) rfl hw) ?_
    | with_reducible refine rg_memWrite (Fr.sub (V := 1538) rfl hw) ?_
    | with_reducible apply Rg.foldl
    | split

theorem rg_execFigWait {W : Nat} {s0 : State} {ring : Nat} {data : Sys2Proof.HostRead} {s : State} (hw : 42498 ||| W = W) (hs : Rg W s0 s) :
    RgO W s0 (execFigWait ring data s) := by
  unfold execFigWait
  repeat' first
    | intro _
    | with_reducible assumption
    | with_reducible refine rg_finish (Fr.sub (V := 42498) rfl hw) ?_ ?_
    | with_reducible refine rg_moveIn (Fr.sub (V := 42498) rfl hw) ?_
    | with_reducible apply Rg.ite
    | split

theorem rg_moveRow {W : Nat} {s0 : State} {s : State} {d : Desc} {row : Nat} (hw : 42496 ||| W = W) (hs : Rg W s0 s) :
    Rg W s0 (State.moveRow s d row) := by
  unfold State.moveRow
  repeat' first
    | intro _
    | with_reducible assumption
    | (extract_lets +onlyGivenNames z; guard_hyp z : State := _; refine Rg.cut (x := z) ?_ (fun _ => ?_); rotate_left; clear_value z; revert z; intro _ _; rotate_left; unfold z; clear z)
    | (extract_lets +onlyGivenNames z; guard_hyp z : Hst := _; revert z; intro _)
    | (extract_lets +onlyGivenNames z; clear_value z; revert z; intro _)
    | with_reducible refine rg_touch hw ?_
    | with_reducible refine rg_hostWrite ?_
    | with_reducible refine rg_carryPoison ?_
    | with_reducible refine rg_memWrite (Fr.sub (V := 42496) rfl hw) ?_
    | with_reducible apply Rg.ite
    | (with_reducible refine Rg.of ?_); with_reducible assumption

theorem rg_moveOut {W : Nat} {s0 : State} {s : State} {r : Nat} {e : CurEntry} (hw : 42498 ||| W = W) (hs : Rg W s0 s) :
    Rg W s0 (State.moveOut s r e) := by
  unfold State.moveOut
  repeat' first
    | intro _
    | with_reducible assumption
    | (extract_lets +onlyGivenNames z; guard_hyp z : State := _; refine Rg.cut (x := z) ?_ (fun _ => ?_); rotate_left; clear_value z; revert z; intro _ _; rotate_left; unfold z; clear z)
    | (extract_lets +onlyGivenNames z; clear_value z; revert z; intro _)
    | with_reducible refine rg_moveRow (Fr.sub (V := 42498) rfl hw) ?_
    | with_reducible refine rg_setMoved (Fr.sub (V := 42498) rfl hw) ?_
    | with_reducible apply Rg.foldl

theorem rg_startDesc {W : Nat} {s0 : State} {s : State} {r : Nat} {kind : Nat} {f : CurEntry → State} (hw : 43010 ||| W = W) (hs : Rg W s0 s) (hf : ∀ (x0 : CurEntry), Rg W s0 (f x0)) :
    Rg W s0 (State.startDesc s r kind f) := by
  unfold State.startDesc
  repeat' first
    | with_reducible assumption
    | with_reducible apply hf
    | with_reducible refine rg_refuse hw ?_
    | split

theorem rg_execDmaH2F {W : Nat} {s0 : State} {ring : Nat} {data : Sys2Proof.HostRead} {s : State} (hw : 44546 ||| W = W) (hs : Rg W s0 s) :
    RgO W s0 (execDmaH2F ring data s) := by
  unfold execDmaH2F
  repeat' first
    | intro _
    | with_reducible assumption
    | (extract_lets +onlyGivenNames z; clear_value z; revert z; intro _)
    | with_reducible refine rg_finish (Fr.sub (V := 44546) rfl hw) ?_ ?_
    | with_reducible refine rg_startDesc (Fr.sub (V := 44546) rfl hw) ?_ ?_
    | with_reducible refine rg_setRing ?_
    | with_reducible refine rg_moveIn (Fr.sub (V := 44546) rfl hw) ?_
    | with_reducible apply Rg.ite

theorem rg_execDmaL2L {W : Nat} {s0 : State} {ring : Nat} {s : State} (hw : 44546 ||| W = W) (hs : Rg W s0 s) :
    RgO W s0 (execDmaL2L ring s) := by
  unfold execDmaL2L
  repeat' first
    | intro _
    | with_reducible assumption
    | with_reducible refine rg_finish (Fr.sub (V := 44546) rfl hw) ?_ ?_
    | with_reducible refine rg_startDesc (Fr.sub (V := 44546) rfl hw) ?_ ?_
    | with_reducible refine rg_moveOut (Fr.sub (V := 44546) rfl hw) ?_

theorem rg_execDmaH2L {W : Nat} {s0 : State} {ring : Nat} {data : Sys2Proof.HostRead} {s : State} (hw : 44546 ||| W = W) (hs : Rg W s0 s) :
    RgO W s0 (execDmaH2L ring data s) := by
  unfold execDmaH2L
  repeat' first
    | intro _
    | with_reducible assumption
    | with_reducible refine rg_finish (Fr.sub (V := 44546) rfl hw) ?_ ?_
    | with_reducible refine rg_startDesc (Fr.sub (V := 44546) rfl hw) ?_ ?_
    | with_reducible refine rg_moveIn (Fr.sub (V := 44546) rfl hw) ?_
    | with_reducible apply Rg.ite

theorem rg_execDmaL2H {W : Nat} {s0 : State} {ring : Nat} {s : State} (hw : 44546 ||| W = W) (hs : Rg W s0 s) :
    RgO W s0 (execDmaL2H ring s) := by
  unfold execDmaL2H
  repeat' first
    | intro _
    | with_reducible assumption
    | with_reducible refine rg_finish (Fr.sub (V := 44546) rfl hw) ?_ ?_
    | with_reducible refine rg_startDesc (Fr.sub (V := 44546) rfl hw) ?_ ?_
    | with_reducible refine rg_moveOut (Fr.sub (V := 44546) rfl hw) ?_

theorem rg_execDescriptorComplete {W : Nat} {s0 : State} {ring : Nat} {errs : Sys2Proof.XferErrors} {s : State} (hw : 61090 ||| W = W) (hs : Rg W s0 s) :
    RgO W s0 (execDescriptorComplete ring errs s) := by
  unfold execDescriptorComplete
  repeat' first
    | intro _
    | with_reducible assumption
    | (extract_lets +onlyGivenNames z; guard_hyp z : State := _; refine Rg.cut (x := z) ?_ (fun _ => ?_); rotate_left; clear_value z; revert z; intro _ _; rotate_left; unfold z; clear z)
    | (extract_lets +onlyGivenNames z; clear_value z; revert z; intro _)
    | with_reducible refine rg_finish (Fr.sub (V := 61090) rfl hw) ?_ ?_
    | with_reducible refine rg_spoilBeat (Fr.sub (V := 61090) rfl hw) ?_
    | with_reducible refine rg_answer (Fr.sub (V := 61090) rfl hw) ?_
    | with_reducible refine rg_resumeLoadKey hw ?_
    | with_reducible refine rg_deliver ?_
    | with_reducible apply Rg.ite
    | split

/-! Commands. -/

theorem rg_restartFigure {W : Nat} {s0 : State} {s : State} {off : Nat} (hs : Rg W s0 s) :
    Rg W s0 (State.restartFigure s off) := by
  unfold State.restartFigure
  repeat' first
    | (extract_lets +onlyGivenNames z; clear_value z; revert z; intro _)
    | (with_reducible refine Rg.of ?_); with_reducible assumption

theorem rg_clearRc {W : Nat} {s0 : State} {s : State} {off : Nat} (hw : 131071 ||| W = W) (hs : Rg W s0 s) :
    Rg W s0 (State.clearRc s off) := by
  unfold State.clearRc
  repeat' first
    | intro _
    | with_reducible assumption
    | with_reducible refine Rg.setReg (bit_full (Fr.sub rfl hw)) ?_
    | with_reducible apply Rg.ite

theorem rg_wakeLanes {W : Nat} {s0 : State} {s : State} {serial : Nat} (hs : Rg W s0 s) :
    Rg W s0 (State.wakeLanes s serial) := by
  unfold State.wakeLanes
  repeat' first
    | intro _
    | with_reducible assumption
    | (extract_lets +onlyGivenNames z; guard_hyp z : State := _; refine Rg.cut (x := z) ?_ (fun _ => ?_); rotate_left; clear_value z; revert z; intro _ _; rotate_left; unfold z; clear z)
    | (extract_lets +onlyGivenNames z; clear_value z; revert z; intro _)
    | with_reducible refine rg_sendBlocks ?_
    | with_reducible refine rg_modLane ?_
    | with_reducible apply Rg.foldl
    | (with_reducible refine Rg.of ?_); with_reducible assumption

theorem rg_bindRun {W : Nat} {s0 : State} {s : State} {r : Run} {chain : List (Nat × LedgerDesc)} {b : Bool} (hs : Rg W s0 s) :
    Rg W s0 (State.bindRun s r chain b) := by
  unfold State.bindRun
  repeat' first
    | with_reducible assumption
    | (extract_lets +onlyGivenNames z; guard_hyp z : State := _; refine Rg.cut (x := z) ?_ (fun _ => ?_); rotate_left; clear_value z; revert z; intro _ _; rotate_left; unfold z; clear z)
    | (extract_lets +onlyGivenNames z; clear_value z; revert z; intro _)
    | with_reducible refine rg_readOffsets ?_
    | (with_reducible refine Rg.of ?_); with_reducible assumption
    | split

theorem rg_armWork {W : Nat} {s0 : State} {s : State} {p : ArmParams} {rec_ : StripeRec} {w : Nat} {b : Bool} (hw : 42552 ||| W = W) (hs : Rg W s0 s) :
    Rg W s0 (State.armWork s p rec_ w b) := by
  unfold State.armWork
  repeat' first
    | intro _
    | with_reducible assumption
    | (extract_lets +onlyGivenNames z; guard_hyp z : State := _; refine Rg.cut (x := z) ?_ (fun _ => ?_); rotate_left; clear_value z; revert z; intro _ _; rotate_left; unfold z; clear z)
    | (extract_lets +onlyGivenNames z; clear_value z; revert z; intro _)
    | with_reducible refine rg_ensureNext (Fr.sub (V := 42552) rfl hw) ?_
    | with_reducible refine rg_abandonNext (Fr.sub (V := 42552) rfl hw) ?_
    | with_reducible refine rg_corLog (Fr.sub (V := 42552) rfl hw) ?_
    | with_reducible refine rg_bindTo (Fr.sub (V := 42552) rfl hw) ?_
    | with_reducible refine rg_setChanged (Fr.sub (V := 42552) rfl hw) ?_
    | with_reducible apply Rg.ite
    | (with_reducible refine Rg.of ?_); (first | with_reducible assumption | with_reducible refine rg_newWork ?_)
    | split

theorem rg_setsChanged {W : Nat} {s0 : State} {s : State} (hw : 42544 ||| W = W) (hs : Rg W s0 s) :
    Rg W s0 (State.setsChanged s) := by
  unfold State.setsChanged
  repeat' first
    | intro _
    | with_reducible assumption
    | (extract_lets +onlyGivenNames z; guard_hyp z : State := _; refine Rg.cut (x := z) ?_ (fun _ => ?_); rotate_left; clear_value z; revert z; intro _ _; rotate_left; unfold z; clear z)
    | with_reducible refine rg_setChanged hw ?_
    | with_reducible refine rg_readOffsets ?_
    | with_reducible apply Rg.ite
    | split

theorem rg_sealShadow {W : Nat} {s0 : State} {s : State} (hw : 42544 ||| W = W) (hs : Rg W s0 s) :
    Rg W s0 (State.sealShadow s) := by
  unfold State.sealShadow
  repeat' first
    | intro _
    | with_reducible assumption
    | (extract_lets +onlyGivenNames z; clear_value z; revert z; intro _)
    | with_reducible refine rg_setsChanged hw ?_
    | with_reducible apply Rg.ite
    | (with_reducible refine Rg.of ?_); with_reducible assumption

theorem rg_readCounters {W : Nat} {s0 : State} {s : State} {ring : Nat} {e : CurEntry} {resp : Sys2Proof.WriteResp} (hw : 131071 ||| W = W) (hs : Rg W s0 s) :
    Rg W s0 (State.readCounters s ring e resp) := by
  unfold State.readCounters
  repeat' first
    | intro _
    | with_reducible assumption
    | (extract_lets +onlyGivenNames z; guard_hyp z : State := _; refine Rg.cut (x := z) ?_ (fun _ => ?_); rotate_left; clear_value z; revert z; intro _ _; rotate_left; unfold z; clear z)
    | (extract_lets +onlyGivenNames z; clear_value z; revert z; intro _)
    | with_reducible refine rg_refuse (Fr.sub (V := 131071) rfl hw) ?_
    | with_reducible refine rg_hostWrite ?_
    | with_reducible refine rg_clearRc hw ?_
    | with_reducible refine rg_answer (Fr.sub (V := 131071) rfl hw) ?_
    | with_reducible apply Rg.ite
    | with_reducible apply Rg.foldl
    | split

theorem rg_retirePage {W : Nat} {s0 : State} {s : State} {ring : Nat} {a : Nat} {writeErr : Bool} (hw : 44034 ||| W = W) (hs : Rg W s0 s) :
    Rg W s0 (State.retirePage s ring a writeErr) := by
  unfold State.retirePage
  repeat' first
    | intro _
    | with_reducible assumption
    | (extract_lets +onlyGivenNames z; guard_hyp z : State := _; refine Rg.cut (x := z) ?_ (fun _ => ?_); rotate_left; clear_value z; revert z; intro _ _; rotate_left; unfold z; clear z)
    | (extract_lets +onlyGivenNames z; clear_value z; revert z; intro _)
    | with_reducible refine rg_refuse (Fr.sub (V := 44034) rfl hw) ?_
    | with_reducible refine rg_answer (Fr.sub (V := 44034) rfl hw) ?_
    | with_reducible refine rg_takeReplacement (Fr.sub (V := 44034) rfl hw) ?_
    | with_reducible apply Rg.ite
    | split

theorem rg_arm {W : Nat} {s0 : State} {s : State} {ring : Nat} {p : ArmParams} {rec_ : StripeRec} {chain : List (Nat × LedgerDesc)} (hw : 44602 ||| W = W) (hs : Rg W s0 s) :
    Rg W s0 (State.arm s ring p rec_ chain) := by
  unfold State.arm
  repeat' first
    | intro _
    | with_reducible assumption
    | (extract_lets +onlyGivenNames z; guard_hyp z : State := _; refine Rg.cut (x := z) ?_ (fun _ => ?_); rotate_left; clear_value z; revert z; intro _ _; rotate_left; unfold z; clear z)
    | (extract_lets +onlyGivenNames z; clear_value z; revert z; intro _)
    | with_reducible refine rg_sealShadow (Fr.sub (V := 44602) rfl hw) ?_
    | with_reducible refine rg_armWork (Fr.sub (V := 44602) rfl hw) ?_
    | with_reducible refine rg_bindRun ?_
    | with_reducible refine rg_wakeLanes ?_
    | with_reducible refine rg_answer (Fr.sub (V := 44602) rfl hw) ?_
    | with_reducible refine rg_tellBound ?_
    | with_reducible apply Rg.ite

theorem rg_execSwapSetCancel {W : Nat} {s0 : State} {ring : Nat} {s : State} (hw : 44594 ||| W = W) (hs : Rg W s0 s) :
    RgO W s0 (execSwapSetCancel ring s) := by
  unfold execSwapSetCancel
  repeat' first
    | intro _
    | with_reducible assumption
    | (extract_lets +onlyGivenNames z; guard_hyp z : State := _; refine Rg.cut (x := z) ?_ (fun _ => ?_); rotate_left; clear_value z; revert z; intro _ _; rotate_left; unfold z; clear z)
    | (extract_lets +onlyGivenNames z; clear_value z; revert z; intro _)
    | with_reducible refine rg_finish (Fr.sub (V := 44594) rfl hw) ?_ ?_
    | with_reducible refine rg_checked (Fr.sub (V := 44594) rfl hw) ?_ ?_
    | with_reducible refine rg_setsChanged (Fr.sub (V := 44594) rfl hw) ?_
    | with_reducible refine rg_answer (Fr.sub (V := 44594) rfl hw) ?_
    | with_reducible apply Rg.ite
    | (with_reducible refine Rg.of ?_); with_reducible assumption
    | split

theorem rg_execSyncRunEnd {W : Nat} {s0 : State} {ring : Nat} {s : State} (hw : 43010 ||| W = W) (hs : Rg W s0 s) :
    RgO W s0 (execSyncRunEnd ring s) := by
  unfold execSyncRunEnd
  repeat' first
    | intro _
    | with_reducible assumption
    | with_reducible refine rg_finish (Fr.sub (V := 43010) rfl hw) ?_ ?_
    | with_reducible refine rg_checked hw ?_ ?_
    | with_reducible refine rg_setWait ?_
    | split

theorem rg_execSyncBarrier {W : Nat} {s0 : State} {ring : Nat} {s : State} (hw : 43010 ||| W = W) (hs : Rg W s0 s) :
    RgO W s0 (execSyncBarrier ring s) := by
  unfold execSyncBarrier
  repeat' first
    | intro _
    | with_reducible assumption
    | (extract_lets +onlyGivenNames z; clear_value z; revert z; intro _)
    | with_reducible refine rg_finish (Fr.sub (V := 43010) rfl hw) ?_ ?_
    | with_reducible refine rg_checked hw ?_ ?_
    | with_reducible refine rg_settleBarriers hw ?_
    | with_reducible refine rg_setWait ?_
    | split

theorem rg_execSwapSetSeal {W : Nat} {s0 : State} {ring : Nat} {s : State} (hw : 44594 ||| W = W) (hs : Rg W s0 s) :
    RgO W s0 (execSwapSetSeal ring s) := by
  unfold execSwapSetSeal
  repeat' first
    | intro _
    | with_reducible assumption
    | (extract_lets +onlyGivenNames z; guard_hyp z : State := _; refine Rg.cut (x := z) ?_ (fun _ => ?_); rotate_left; clear_value z; revert z; intro _ _; rotate_left; unfold z; clear z)
    | with_reducible refine rg_finish (Fr.sub (V := 44594) rfl hw) ?_ ?_
    | with_reducible refine rg_checked (Fr.sub (V := 44594) rfl hw) ?_ ?_
    | with_reducible refine rg_sealShadow (Fr.sub (V := 44594) rfl hw) ?_
    | with_reducible refine rg_answer (Fr.sub (V := 44594) rfl hw) ?_
    | split

theorem rg_execSwapSetNow {W : Nat} {s0 : State} {ring : Nat} {t : Nat} {sx : State} (hw : 60978 ||| W = W) (hsx : Rg W s0 sx) :
    RgO W s0 (execSwapSetNow ring t sx) := by
  unfold execSwapSetNow
  repeat' first
    | intro _
    | with_reducible assumption
    | (extract_lets +onlyGivenNames z; guard_hyp z : State := _; refine Rg.cut (x := z) ?_ (fun _ => ?_); rotate_left; clear_value z; revert z; intro _ _; rotate_left; unfold z; clear z)
    | (extract_lets +onlyGivenNames z; guard_hyp z : State := _; refine RgO.cut (x := z) ?_ (fun _ => ?_); rotate_left; clear_value z; revert z; intro _ _; rotate_left; unfold z; clear z)
    | with_reducible refine rg_at_ ?_
    | with_reducible refine rg_finish (Fr.sub (V := 60978) rfl hw) ?_ ?_
    | with_reducible refine rg_checked (Fr.sub (V := 60978) rfl hw) ?_ ?_
    | with_reducible refine rg_setsChanged (Fr.sub (V := 60978) rfl hw) ?_
    | with_reducible refine rg_swapRoles (Fr.sub (V := 60978) rfl hw) ?_
    | with_reducible refine rg_answer (Fr.sub (V := 60978) rfl hw) ?_
    | split

theorem rg_execAbort {W : Nat} {s0 : State} {ring : Nat} {t : Nat} {sx : State} (hw : 44771 ||| W = W) (hsx : Rg W s0 sx) :
    RgO W s0 (execAbort ring t sx) := by
  unfold execAbort
  repeat' first
    | intro _
    | with_reducible assumption
    | (extract_lets +onlyGivenNames z; guard_hyp z : State := _; refine Rg.cut (x := z) ?_ (fun _ => ?_); rotate_left; clear_value z; revert z; intro _ _; rotate_left; unfold z; clear z)
    | (extract_lets +onlyGivenNames z; guard_hyp z : State := _; refine RgO.cut (x := z) ?_ (fun _ => ?_); rotate_left; clear_value z; revert z; intro _ _; rotate_left; unfold z; clear z)
    | with_reducible refine rg_at_ ?_
    | with_reducible refine rg_finish (Fr.sub (V := 44771) rfl hw) ?_ ?_
    | with_reducible refine rg_checked (Fr.sub (V := 44771) rfl hw) ?_ ?_
    | with_reducible refine rg_answer (Fr.sub (V := 44771) rfl hw) ?_
    | with_reducible refine rg_setWait ?_
    | with_reducible refine rg_truncate hw ?_
    | split

theorem rg_execArmStripe {W : Nat} {s0 : State} {ring : Nat} {t : Nat} {sx : State} (hw : 44602 ||| W = W) (hsx : Rg W s0 sx) :
    RgO W s0 (execArmStripe ring t sx) := by
  unfold execArmStripe
  repeat' first
    | intro _
    | with_reducible assumption
    | (extract_lets +onlyGivenNames z; guard_hyp z : State := _; refine RgO.cut (x := z) ?_ (fun _ => ?_); rotate_left; clear_value z; revert z; intro _ _; rotate_left; unfold z; clear z)
    | with_reducible refine rg_at_ ?_
    | with_reducible refine rg_finish (Fr.sub (V := 44602) rfl hw) ?_ ?_
    | with_reducible refine rg_checked (Fr.sub (V := 44602) rfl hw) ?_ ?_
    | with_reducible refine rg_refuse (Fr.sub (V := 44602) rfl hw) ?_
    | with_reducible refine rg_arm hw ?_
    | split

theorem rg_execReadCounters {W : Nat} {s0 : State} {ring : Nat} {t : Nat} {resp : Sys2Proof.WriteResp} {sx : State} (hw : 131071 ||| W = W) (hsx : Rg W s0 sx) :
    RgO W s0 (execReadCounters ring t resp sx) := by
  unfold execReadCounters
  repeat' first
    | intro _
    | with_reducible assumption
    | (extract_lets +onlyGivenNames z; guard_hyp z : State := _; refine RgO.cut (x := z) ?_ (fun _ => ?_); rotate_left; clear_value z; revert z; intro _ _; rotate_left; unfold z; clear z)
    | with_reducible refine rg_at_ ?_
    | with_reducible refine rg_finish (Fr.sub (V := 131071) rfl hw) ?_ ?_
    | with_reducible refine rg_checked (Fr.sub (V := 131071) rfl hw) ?_ ?_
    | with_reducible refine rg_awake hw ?_ ?_
    | with_reducible refine rg_readCounters hw ?_
    | split

theorem rg_execRetirePage {W : Nat} {s0 : State} {ring : Nat} {writeErr : Bool} {s : State} (hw : 131071 ||| W = W) (hs : Rg W s0 s) :
    RgO W s0 (execRetirePage ring writeErr s) := by
  unfold execRetirePage
  repeat' first
    | intro _
    | with_reducible assumption
    | with_reducible refine rg_finish (Fr.sub (V := 131071) rfl hw) ?_ ?_
    | with_reducible refine rg_checked (Fr.sub (V := 131071) rfl hw) ?_ ?_
    | with_reducible refine rg_awake hw ?_ ?_
    | with_reducible refine rg_retirePage (Fr.sub (V := 131071) rfl hw) ?_
    | split

theorem rg_execSyncFigure {W : Nat} {s0 : State} {ring : Nat} {s : State} (hw : 131071 ||| W = W) (hs : Rg W s0 s) :
    RgO W s0 (execSyncFigure ring s) := by
  unfold execSyncFigure
  repeat' first
    | intro _
    | with_reducible assumption
    | (extract_lets +onlyGivenNames z; clear_value z; revert z; intro _)
    | with_reducible refine rg_finish (Fr.sub (V := 131071) rfl hw) ?_ ?_
    | with_reducible refine rg_checked (Fr.sub (V := 131071) rfl hw) ?_ ?_
    | with_reducible refine rg_awake hw ?_ ?_
    | with_reducible refine rg_refuse (Fr.sub (V := 131071) rfl hw) ?_
    | with_reducible refine rg_answer (Fr.sub (V := 131071) rfl hw) ?_
    | with_reducible refine rg_restartFigure ?_
    | with_reducible apply Rg.ite
    | split

/-! Net. -/

theorem rg_anchorPtp {W : Nat} {s0 : State} {s : State} {t : Nat} (hs : Rg W s0 s) :
    Rg W s0 (State.anchorPtp s t) := by
  unfold State.anchorPtp
  repeat' first
    | (extract_lets +onlyGivenNames z; clear_value z; revert z; intro _)
    | (with_reducible refine Rg.of ?_); with_reducible assumption

theorem rg_popCapture {W : Nat} {s0 : State} {s : State} {n : Nat} (hs : Rg W s0 s) :
    Rg W s0 (State.popCapture s n) := by
  unfold State.popCapture
  repeat' first
    | (extract_lets +onlyGivenNames z; clear_value z; revert z; intro _)
    | (with_reducible refine Rg.of ?_); with_reducible assumption

theorem rg_endPulse {W : Nat} {s0 : State} {s : State} {time : Int} (hs : Rg W s0 s) :
    Rg W s0 (State.endPulse s time) := by
  unfold State.endPulse
  repeat' first
    | intro _
    | with_reducible assumption
    | (extract_lets +onlyGivenNames z; clear_value z; revert z; intro _)
    | with_reducible apply Rg.ite
    | (with_reducible refine Rg.of ?_); with_reducible assumption

theorem rg_ptpCtrlWritten {W : Nat} {s0 : State} {s : State} (hs : Rg W s0 s) :
    Rg W s0 (State.ptpCtrlWritten s) := by
  unfold State.ptpCtrlWritten
  repeat' first
    | intro _
    | with_reducible assumption
    | (extract_lets +onlyGivenNames z; clear_value z; revert z; intro _)
    | with_reducible apply Rg.ite
    | (with_reducible refine Rg.of ?_); with_reducible assumption

theorem rg_unlockPtp {W : Nat} {s0 : State} {s : State} {t : Nat} (hs : Rg W s0 s) :
    Rg W s0 (State.unlockPtp s t) := by
  unfold State.unlockPtp
  repeat' first
    | with_reducible assumption
    | (extract_lets +onlyGivenNames z; guard_hyp z : State := _; refine Rg.cut (x := z) ?_ (fun _ => ?_); rotate_left; clear_value z; revert z; intro _ _; rotate_left; unfold z; clear z)
    | (extract_lets +onlyGivenNames z; clear_value z; revert z; intro _)
    | with_reducible refine rg_anchorPtp ?_
    | (with_reducible refine Rg.of ?_); with_reducible assumption

theorem rg_writePeriod {W : Nat} {s0 : State} {s : State} {hi : Bool} {v : Nat} {t : Nat} (hw : 2048 ||| W = W) (hs : Rg W s0 s) :
    Rg W s0 (State.writePeriod s hi v t) := by
  unfold State.writePeriod
  repeat' first
    | with_reducible assumption
    | (extract_lets +onlyGivenNames z; guard_hyp z : State := _; refine Rg.cut (x := z) ?_ (fun _ => ?_); rotate_left; clear_value z; revert z; intro _ _; rotate_left; unfold z; clear z)
    | (extract_lets +onlyGivenNames z; clear_value z; revert z; intro _)
    | with_reducible refine Rg.setReg (Fr.bit hw rfl) ?_
    | with_reducible refine rg_anchorPtp ?_
    | (with_reducible refine Rg.of ?_); with_reducible assumption
    | split

theorem rg_slewCfgWritten {W : Nat} {s0 : State} {s : State} {old : Nat} (hw : 2048 ||| W = W) (hs : Rg W s0 s) :
    Rg W s0 (State.slewCfgWritten s old) := by
  unfold State.slewCfgWritten
  repeat' first
    | with_reducible assumption
    | (extract_lets +onlyGivenNames z; clear_value z; revert z; intro _)
    | with_reducible refine Rg.setReg (Fr.bit hw rfl) ?_
    | with_reducible refine rg_anchorPtp ?_

theorem rg_stepPulses {W : Nat} {s0 : State} {s : State} {old : Int} {new : Int} (hw : 43008 ||| W = W) (hs : Rg W s0 s) :
    Rg W s0 (State.stepPulses s old new) := by
  unfold State.stepPulses
  repeat' first
    | intro _
    | with_reducible assumption
    | (extract_lets +onlyGivenNames z; guard_hyp z : State := _; refine Rg.cut (x := z) ?_ (fun _ => ?_); rotate_left; clear_value z; revert z; intro _ _; rotate_left; unfold z; clear z)
    | (extract_lets +onlyGivenNames z; clear_value z; revert z; intro _)
    | with_reducible refine rg_raise (Fr.sub (V := 43008) rfl hw) ?_
    | with_reducible refine Rg.bumpBy (Fr.bit hw rfl) ?_
    | with_reducible refine rg_endPulse ?_
    | with_reducible apply Rg.ite

theorem rg_dropNote {W : Nat} {s0 : State} {s : State} {order : Nat} (hw : 40960 ||| W = W) (hs : Rg W s0 s) :
    Rg W s0 (State.dropNote s order) := by
  unfold State.dropNote
  repeat' first
    | intro _
    | with_reducible assumption
    | (extract_lets +onlyGivenNames z; clear_value z; revert z; intro _)
    | with_reducible refine rg_raise hw ?_
    | with_reducible apply Rg.ite
    | (with_reducible refine Rg.of ?_); with_reducible assumption

theorem rg_applyDelta {W : Nat} {s0 : State} {s : State} {t : Nat} (hw : 43008 ||| W = W) (hs : Rg W s0 s) :
    Rg W s0 (State.applyDelta s t) := by
  unfold State.applyDelta
  repeat' first
    | intro _
    | with_reducible assumption
    | (extract_lets +onlyGivenNames z; guard_hyp z : State := _; refine Rg.cut (x := z) ?_ (fun _ => ?_); rotate_left; clear_value z; revert z; intro _ _; rotate_left; unfold z; clear z)
    | (extract_lets +onlyGivenNames z; clear_value z; revert z; intro _)
    | with_reducible refine rg_anchorPtp ?_
    | with_reducible refine rg_raise (Fr.sub (V := 43008) rfl hw) ?_
    | with_reducible refine Rg.bump (Fr.bit hw rfl) ?_
    | with_reducible refine rg_stepPulses hw ?_
    | with_reducible apply Rg.ite
    | (with_reducible refine Rg.of ?_); with_reducible assumption

theorem rg_execNetRateWindow {W : Nat} {s0 : State} {t : Nat} {sx : State} (hw : 40960 ||| W = W) (hsx : Rg W s0 sx) :
    RgO W s0 (execNetRateWindow t sx) := by
  unfold execNetRateWindow
  repeat' first
    | with_reducible assumption
    | (extract_lets +onlyGivenNames z; guard_hyp z : State := _; refine RgO.cut (x := z) ?_ (fun _ => ?_); rotate_left; clear_value z; revert z; intro _ _; rotate_left; unfold z; clear z)
    | (extract_lets +onlyGivenNames z; clear_value z; revert z; intro _)
    | with_reducible refine rg_at_ ?_
    | with_reducible refine rg_finish hw ?_ ?_
    | (with_reducible refine Rg.of ?_); with_reducible assumption

theorem rg_execCapPop {W : Nat} {s0 : State} {n : Nat} {s : State} (hw : 45056 ||| W = W) (hs : Rg W s0 s) :
    RgO W s0 (execCapPop n s) := by
  unfold execCapPop
  repeat' first
    | intro _
    | with_reducible assumption
    | with_reducible refine rg_finish (Fr.sub (V := 45056) rfl hw) ?_ ?_
    | with_reducible refine rg_command (Fr.sub (V := 45056) rfl hw) ?_ ?_
    | with_reducible refine rg_popCapture ?_
    | with_reducible apply Rg.ite

theorem rg_execUnlock {W : Nat} {s0 : State} {t : Nat} {sx : State} (hw : 45056 ||| W = W) (hsx : Rg W s0 sx) :
    RgO W s0 (execUnlock t sx) := by
  unfold execUnlock
  repeat' first
    | intro _
    | with_reducible assumption
    | (extract_lets +onlyGivenNames z; guard_hyp z : State := _; refine RgO.cut (x := z) ?_ (fun _ => ?_); rotate_left; clear_value z; revert z; intro _ _; rotate_left; unfold z; clear z)
    | with_reducible refine rg_at_ ?_
    | with_reducible refine rg_finish (Fr.sub (V := 45056) rfl hw) ?_ ?_
    | with_reducible refine rg_command (Fr.sub (V := 45056) rfl hw) ?_ ?_
    | with_reducible refine rg_unlockPtp ?_

theorem rg_execPtpPeriodWrite {W : Nat} {s0 : State} {hi : Bool} {v : Sys2Proof.Word} {t : Nat} {sx : State} (hw : 47104 ||| W = W) (hsx : Rg W s0 sx) :
    RgO W s0 (execPtpPeriodWrite hi v t sx) := by
  unfold execPtpPeriodWrite
  repeat' first
    | intro _
    | with_reducible assumption
    | (extract_lets +onlyGivenNames z; guard_hyp z : State := _; refine RgO.cut (x := z) ?_ (fun _ => ?_); rotate_left; clear_value z; revert z; intro _ _; rotate_left; unfold z; clear z)
    | with_reducible refine rg_at_ ?_
    | with_reducible refine rg_finish (Fr.sub (V := 47104) rfl hw) ?_ ?_
    | with_reducible refine rg_command (Fr.sub (V := 47104) rfl hw) ?_ ?_
    | with_reducible refine rg_writePeriod (Fr.sub (V := 47104) rfl hw) ?_

theorem rg_execSlewEnd {W : Nat} {s0 : State} {t : Nat} {sx : State} (hw : 40960 ||| W = W) (hsx : Rg W s0 sx) :
    RgO W s0 (execSlewEnd t sx) := by
  unfold execSlewEnd
  repeat' first
    | intro _
    | with_reducible assumption
    | (extract_lets +onlyGivenNames z; guard_hyp z : State := _; refine RgO.cut (x := z) ?_ (fun _ => ?_); rotate_left; clear_value z; revert z; intro _ _; rotate_left; unfold z; clear z)
    | with_reducible refine rg_at_ ?_
    | with_reducible refine rg_finish hw ?_ ?_
    | with_reducible refine rg_anchorPtp ?_
    | with_reducible apply Rg.ite

theorem rg_execPpsPulse {W : Nat} {s0 : State} {t : Nat} {sx : State} (hw : 40960 ||| W = W) (hsx : Rg W s0 sx) :
    RgO W s0 (execPpsPulse t sx) := by
  unfold execPpsPulse
  repeat' first
    | intro _
    | with_reducible assumption
    | (extract_lets +onlyGivenNames z; guard_hyp z : State := _; refine RgO.cut (x := z) ?_ (fun _ => ?_); rotate_left; clear_value z; revert z; intro _ _; rotate_left; unfold z; clear z)
    | (extract_lets +onlyGivenNames z; clear_value z; revert z; intro _)
    | with_reducible refine rg_at_ ?_
    | with_reducible refine rg_finish hw ?_ ?_
    | with_reducible refine rg_endPulse ?_
    | with_reducible apply Rg.ite
    | (with_reducible refine Rg.of ?_); with_reducible assumption

theorem rg_execSpeedSeek {W : Nat} {s0 : State} {s : State} (hw : 40960 ||| W = W) (hs : Rg W s0 s) :
    RgO W s0 (execSpeedSeek s) := by
  unfold execSpeedSeek
  repeat' first
    | intro _
    | with_reducible assumption
    | (extract_lets +onlyGivenNames z; clear_value z; revert z; intro _)
    | with_reducible refine rg_finish hw ?_ ?_
    | with_reducible apply Rg.ite
    | (with_reducible refine Rg.of ?_); with_reducible assumption

theorem rg_execCaptureEvent {W : Nat} {s0 : State} {n : Nat} {t : Nat} {sx : State} (hw : 43008 ||| W = W) (hsx : Rg W s0 sx) :
    RgO W s0 (execCaptureEvent n t sx) := by
  unfold execCaptureEvent
  repeat' first
    | intro _
    | with_reducible assumption
    | (extract_lets +onlyGivenNames z; guard_hyp z : State := _; refine RgO.cut (x := z) ?_ (fun _ => ?_); rotate_left; clear_value z; revert z; intro _ _; rotate_left; unfold z; clear z)
    | (extract_lets +onlyGivenNames z; clear_value z; revert z; intro _)
    | with_reducible refine rg_at_ ?_
    | with_reducible refine rg_finish (Fr.sub (V := 43008) rfl hw) ?_ ?_
    | with_reducible refine rg_raise (Fr.sub (V := 43008) rfl hw) ?_
    | with_reducible refine Rg.bump (Fr.bit hw (by rw [blk_PTP_CAPn_DROP]; decide)) ?_
    | with_reducible refine rg_capture hw ?_
    | with_reducible apply Rg.ite
    | (with_reducible refine Rg.of ?_); with_reducible assumption

theorem rg_execApply {W : Nat} {s0 : State} {t : Nat} {sx : State} (hw : 47104 ||| W = W) (hsx : Rg W s0 sx) :
    RgO W s0 (execApply t sx) := by
  unfold execApply
  repeat' first
    | intro _
    | with_reducible assumption
    | (extract_lets +onlyGivenNames z; guard_hyp z : State := _; refine RgO.cut (x := z) ?_ (fun _ => ?_); rotate_left; clear_value z; revert z; intro _ _; rotate_left; unfold z; clear z)
    | with_reducible refine rg_at_ ?_
    | with_reducible refine rg_finish (Fr.sub (V := 47104) rfl hw) ?_ ?_
    | with_reducible refine rg_command (Fr.sub (V := 47104) rfl hw) ?_ ?_
    | with_reducible refine rg_applyDelta (Fr.sub (V := 47104) rfl hw) ?_

theorem rg_mirror {W : Nat} {s0 : State} {s : State} (hw : 44544 ||| W = W) (hs : Rg W s0 s) :
    Rg W s0 (State.mirror s) := by
  unfold State.mirror
  repeat' first
    | intro _
    | with_reducible assumption
    | (extract_lets +onlyGivenNames z; guard_hyp z : State := _; refine Rg.cut (x := z) ?_ (fun _ => ?_); rotate_left; clear_value z; revert z; intro _ _; rotate_left; unfold z; clear z)
    | (extract_lets +onlyGivenNames z; clear_value z; revert z; intro _)
    | with_reducible refine rg_touch (Fr.sub (V := 44544) rfl hw) ?_
    | with_reducible refine Rg.bumpBy (Fr.bit hw rfl) ?_
    | with_reducible refine Rg.setReg (Fr.bit hw rfl) ?_
    | with_reducible refine Rg.bump (Fr.bit hw rfl) ?_
    | with_reducible refine rg_next ?_
    | with_reducible apply Rg.ite
    | with_reducible apply Rg.foldl
    | (with_reducible refine Rg.of ?_); with_reducible assumption

theorem rg_execMirrorSend {W : Nat} {s0 : State} {t : Nat} {sx : State} (hw : 44544 ||| W = W) (hsx : Rg W s0 sx) :
    RgO W s0 (execMirrorSend t sx) := by
  unfold execMirrorSend
  repeat' first
    | intro _
    | with_reducible assumption
    | (extract_lets +onlyGivenNames z; guard_hyp z : State := _; refine RgO.cut (x := z) ?_ (fun _ => ?_); rotate_left; clear_value z; revert z; intro _ _; rotate_left; unfold z; clear z)
    | with_reducible refine rg_at_ ?_
    | with_reducible refine rg_finish (Fr.sub (V := 44544) rfl hw) ?_ ?_
    | with_reducible refine rg_mirror hw ?_
    | with_reducible apply Rg.ite

theorem rg_transmit {W : Nat} {s0 : State} {s : State} {e : CurEntry} {frame : List Sys2Proof.Byte} {t : Nat} (hw : 43010 ||| W = W) (hs : Rg W s0 s) :
    Rg W s0 (State.transmit s e frame t) := by
  unfold State.transmit
  repeat' first
    | with_reducible assumption
    | (extract_lets +onlyGivenNames z; guard_hyp z : State := _; refine Rg.cut (x := z) ?_ (fun _ => ?_); rotate_left; clear_value z; revert z; intro _ _; rotate_left; unfold z; clear z)
    | (extract_lets +onlyGivenNames z; clear_value z; revert z; intro _)
    | with_reducible refine rg_hostWrite ?_
    | with_reducible refine rg_answer hw ?_
    | with_reducible refine Rg.bump (Fr.bit hw rfl) ?_
    | (with_reducible refine Rg.of ?_); with_reducible assumption

theorem blk_receiveCheck {s : State} {bs : List Byte} {o c : Nat} (h : s.receiveCheck bs = .error (o, c)) : regBlock c = 11 := by
  unfold State.receiveCheck at h
  extract_lets at h
  repeat' split at h
  all_goals first | (cases h; rfl) | cases h

theorem rg_receive {W : Nat} {s0 : State} {s : State} {bs : List Sys2Proof.Byte} {t : Nat} (hw : 43010 ||| W = W) (hs : Rg W s0 s) :
    Rg W s0 (State.receive s bs t) := by
  unfold State.receive
  repeat' first
    | intro _
    | with_reducible assumption
    | (extract_lets +onlyGivenNames z; guard_hyp z : State := _; refine Rg.cut (x := z) ?_ (fun _ => ?_); rotate_left; clear_value z; revert z; intro _ _; rotate_left; unfold z; clear z)
    | (extract_lets +onlyGivenNames z; clear_value z; revert z; intro _)
    | with_reducible refine rg_dropNote (Fr.sub (V := 43010) rfl hw) ?_
    | with_reducible refine Rg.bump (Fr.bit hw rfl) ?_
    | with_reducible refine Rg.bump (Fr.bit hw (by rw [blk_receiveCheck (by assumption)]; decide)) ?_
    | with_reducible refine rg_rxServe hw ?_
    | with_reducible apply Rg.ite
    | (with_reducible refine Rg.of ?_); with_reducible assumption
    | split

theorem rg_setLink {W : Nat} {s0 : State} {s : State} {up : Bool} (hw : 43010 ||| W = W) (hs : Rg W s0 s) :
    Rg W s0 (State.setLink s up) := by
  unfold State.setLink
  repeat' first
    | intro _
    | with_reducible assumption
    | (extract_lets +onlyGivenNames z; guard_hyp z : State := _; refine Rg.cut (x := z) ?_ (fun _ => ?_); rotate_left; clear_value z; revert z; intro _ _; rotate_left; unfold z; clear z)
    | (extract_lets +onlyGivenNames z; clear_value z; revert z; intro _)
    | with_reducible refine rg_raise (Fr.sub (V := 43010) rfl hw) ?_
    | with_reducible refine Rg.bump (Fr.bit hw rfl) ?_
    | with_reducible refine rg_transmit hw ?_
    | with_reducible apply Rg.ite
    | (with_reducible refine Rg.of ?_); with_reducible assumption
    | split

theorem rg_takeFrame {W : Nat} {s0 : State} {s : State} {e : CurEntry} {frame : List Sys2Proof.Byte} {t : Nat} (hw : 43010 ||| W = W) (hs : Rg W s0 s) :
    Rg W s0 (State.takeFrame s e frame t) := by
  unfold State.takeFrame
  repeat' first
    | intro _
    | with_reducible assumption
    | (extract_lets +onlyGivenNames z; clear_value z; revert z; intro _)
    | with_reducible refine rg_refuse hw ?_
    | with_reducible refine rg_transmit hw ?_
    | with_reducible apply Rg.ite
    | (with_reducible refine Rg.of ?_); with_reducible assumption

theorem rg_execNetRxFrame {W : Nat} {s0 : State} {bytes : List Sys2Proof.Byte} {t : Nat} {sx : State} (hw : 43010 ||| W = W) (hsx : Rg W s0 sx) :
    RgO W s0 (execNetRxFrame bytes t sx) := by
  unfold execNetRxFrame
  repeat' first
    | intro _
    | with_reducible assumption
    | (extract_lets +onlyGivenNames z; guard_hyp z : State := _; refine RgO.cut (x := z) ?_ (fun _ => ?_); rotate_left; clear_value z; revert z; intro _ _; rotate_left; unfold z; clear z)
    | with_reducible refine rg_at_ ?_
    | with_reducible refine rg_finish (Fr.sub (V := 43010) rfl hw) ?_ ?_
    | with_reducible refine rg_receive hw ?_
    | with_reducible apply Rg.ite

theorem rg_netCtrlWritten {W : Nat} {s0 : State} {s : State} {old : Nat} (hw : 43010 ||| W = W) (hs : Rg W s0 s) :
    Rg W s0 (State.netCtrlWritten s old) := by
  unfold State.netCtrlWritten
  repeat' first
    | intro _
    | with_reducible assumption
    | (extract_lets +onlyGivenNames z; guard_hyp z : State := _; refine Rg.cut (x := z) ?_ (fun _ => ?_); rotate_left; clear_value z; revert z; intro _ _; rotate_left; unfold z; clear z)
    | (extract_lets +onlyGivenNames z; clear_value z; revert z; intro _)
    | with_reducible refine rg_setLink hw ?_
    | with_reducible apply Rg.ite
    | (with_reducible refine Rg.of ?_); with_reducible assumption

theorem rg_execNetLink {W : Nat} {s0 : State} {up : Bool} {s : State} (hw : 43010 ||| W = W) (hs : Rg W s0 s) :
    RgO W s0 (execNetLink up s) := by
  unfold execNetLink
  repeat' first
    | intro _
    | with_reducible assumption
    | with_reducible refine rg_finish (Fr.sub (V := 43010) rfl hw) ?_ ?_
    | with_reducible refine rg_setLink hw ?_
    | with_reducible apply Rg.ite

theorem rg_execNetTxEntry {W : Nat} {s0 : State} {frame : Sys2Proof.HostRead} {t : Nat} {sx : State} (hw : 43010 ||| W = W) (hsx : Rg W s0 sx) :
    RgO W s0 (execNetTxEntry frame t sx) := by
  unfold execNetTxEntry
  repeat' first
    | intro _
    | with_reducible assumption
    | (extract_lets +onlyGivenNames z; guard_hyp z : State := _; refine RgO.cut (x := z) ?_ (fun _ => ?_); rotate_left; clear_value z; revert z; intro _ _; rotate_left; unfold z; clear z)
    | with_reducible refine rg_at_ ?_
    | with_reducible refine rg_finish (Fr.sub (V := 43010) rfl hw) ?_ ?_
    | with_reducible refine rg_transmit hw ?_
    | with_reducible refine rg_refuse hw ?_
    | with_reducible refine rg_takeFrame hw ?_
    | with_reducible apply Rg.ite
    | split

end Sys2Proof.Laws
end

