-- ==== Sys2Proof/Laws/RegFrameControl.lean ====
section
/-! SUPPORT. The registers that register writes, the SRAM scrubber and the supplies leave as they were: one lemma for each operation and each command (see RegFrame). -/

namespace Sys2Proof.Laws

open Sys2Proof.Machine

/-! RegWrite. -/

theorem rg_setWord {W : Nat} {s0 : State} {s : State} {off : Nat} {v : Nat} (hw : 131071 ||| W = W) (hs : Rg W s0 s) :
    Rg W s0 (State.setWord s off v) := by
  unfold State.setWord
  repeat' first
    | with_reducible assumption
    | (extract_lets +onlyGivenNames z; guard_hyp z : State := _; refine Rg.cut (x := z) ?_ (fun _ => ?_); rotate_left; clear_value z; revert z; intro _ _; rotate_left; unfold z; clear z)
    | (extract_lets +onlyGivenNames z; clear_value z; revert z; intro _)
    | with_reducible refine Rg.setReg (bit_full (Fr.sub rfl hw)) ?_
    | (with_reducible refine Rg.of ?_); with_reducible assumption
    | split

theorem rg_readEffect {W : Nat} {s0 : State} {s : State} {off : Nat} (hw : 131071 ||| W = W) (hs : Rg W s0 s) :
    Rg W s0 (State.readEffect s off) := by
  unfold State.readEffect
  repeat' first
    | intro _
    | with_reducible assumption
    | (extract_lets +onlyGivenNames z; clear_value z; revert z; intro _)
    | with_reducible refine Rg.setReg (Fr.bit hw rfl) ?_
    | with_reducible refine Rg.setReg (bit_full (Fr.sub rfl hw)) ?_
    | with_reducible refine rg_autoNext ?_
    | with_reducible apply Rg.ite

theorem rg_readBar2 {W : Nat} {s0 : State} {s : State} {off : Nat} (hw : 4096 ||| W = W) (hs : Rg W s0 s) :
    Rg W s0 (State.readBar2 s off) := by
  unfold State.readBar2
  repeat' first
    | intro _
    | with_reducible assumption
    | (extract_lets +onlyGivenNames z; guard_hyp z : State := _; refine Rg.cut (x := z) ?_ (fun _ => ?_); rotate_left; clear_value z; revert z; intro _ _; rotate_left; unfold z; clear z)
    | with_reducible refine rg_violation hw ?_
    | with_reducible apply Rg.ite
    | (with_reducible refine Rg.of ?_); with_reducible assumption

theorem rg_setAccept {W : Nat} {s0 : State} {s : State} {off : Nat} {v : Nat} (hw : 131071 ||| W = W) (hs : Rg W s0 s) :
    Rg W s0 (State.setAccept s off v) := by
  unfold State.setAccept
  repeat' first
    | intro _
    | with_reducible assumption
    | with_reducible refine rg_setWord hw ?_
    | with_reducible refine rg_violation (Fr.sub (V := 131071) rfl hw) ?_
    | with_reducible refine Rg.setReg (Fr.bit hw rfl) ?_
    | with_reducible refine Rg.bump (Fr.bit hw rfl) ?_
    | with_reducible apply Rg.ite

theorem rg_readOff {W : Nat} {s0 : State} {s : State} {off : Nat} (hw : 131071 ||| W = W) (hs : Rg W s0 s) :
    Rg W s0 (State.readOff s off) := by
  unfold State.readOff
  repeat' first
    | intro _
    | with_reducible assumption
    | (extract_lets +onlyGivenNames z; guard_hyp z : State := _; refine Rg.cut (x := z) ?_ (fun _ => ?_); rotate_left; clear_value z; revert z; intro _ _; rotate_left; unfold z; clear z)
    | with_reducible refine rg_offAccess (Fr.sub (V := 131071) rfl hw) ?_
    | with_reducible refine rg_violation (Fr.sub (V := 131071) rfl hw) ?_
    | with_reducible refine rg_readEffect hw ?_
    | with_reducible apply Rg.ite
    | (with_reducible refine Rg.of ?_); with_reducible assumption

theorem rg_setWrite {W : Nat} {s0 : State} {s : State} {off : Nat} {be : Nat} {v : Nat} (hw : 131071 ||| W = W) (hs : Rg W s0 s) :
    Rg W s0 (State.setWrite s off be v) := by
  unfold State.setWrite
  repeat' first
    | intro _
    | with_reducible assumption
    | with_reducible refine rg_guardWrite (Fr.sub (V := 131071) rfl hw) ?_ ?_
    | with_reducible refine rg_setAccept hw ?_

theorem rg_execPtpNowRead {W : Nat} {s0 : State} {t : Nat} {s : State} (hw : 131071 ||| W = W) (hs : Rg W s0 s) :
    RgO W s0 (execPtpNowRead t s) := by
  unfold execPtpNowRead
  repeat' first
    | with_reducible assumption
    | with_reducible refine rg_finish (Fr.sub (V := 131071) rfl hw) ?_ ?_
    | with_reducible refine rg_readOff hw ?_
    | with_reducible refine rg_at_ ?_

theorem rg_execRcRead {W : Nat} {s0 : State} {addr : Nat} {s : State} (hw : 131071 ||| W = W) (hs : Rg W s0 s) :
    RgO W s0 (execRcRead addr s) := by
  unfold execRcRead
  repeat' first
    | intro _
    | with_reducible assumption
    | with_reducible refine rg_finish (Fr.sub (V := 131071) rfl hw) ?_ ?_
    | with_reducible refine rg_readOff hw ?_
    | with_reducible refine rg_readBar2 (Fr.sub (V := 131071) rfl hw) ?_
    | with_reducible apply Rg.ite

theorem rg_execConfigSetWrite {W : Nat} {s0 : State} {addr : Nat} {be : Nat} {v : Sys2Proof.Word} {s : State} (hw : 131071 ||| W = W) (hs : Rg W s0 s) :
    RgO W s0 (execConfigSetWrite addr be v s) := by
  unfold execConfigSetWrite
  repeat' first
    | intro _
    | with_reducible assumption
    | with_reducible refine rg_finish (Fr.sub (V := 131071) rfl hw) ?_ ?_
    | with_reducible refine rg_setWrite hw ?_
    | with_reducible apply Rg.ite

theorem rg_execResidencyRead {W : Nat} {s0 : State} {i : Nat} {t : Nat} {s : State} (hw : 131071 ||| W = W) (hs : Rg W s0 s) :
    RgO W s0 (execResidencyRead i t s) := by
  unfold execResidencyRead
  repeat' first
    | intro _
    | with_reducible assumption
    | with_reducible refine rg_finish (Fr.sub (V := 131071) rfl hw) ?_ ?_
    | with_reducible refine rg_readOff hw ?_
    | with_reducible refine rg_at_ ?_
    | with_reducible apply Rg.ite

theorem rg_execPtpFrcRead {W : Nat} {s0 : State} {t : Nat} {s : State} (hw : 131071 ||| W = W) (hs : Rg W s0 s) :
    RgO W s0 (execPtpFrcRead t s) := by
  unfold execPtpFrcRead
  repeat' first
    | with_reducible assumption
    | with_reducible refine rg_finish (Fr.sub (V := 131071) rfl hw) ?_ ?_
    | with_reducible refine rg_readOff hw ?_
    | with_reducible refine rg_at_ ?_

theorem rg_written {W : Nat} {s0 : State} {s : State} {off : Nat} {old : Nat} (hw : 43042 ||| W = W) (hs : Rg W s0 s) :
    Rg W s0 (State.written s off old) := by
  unfold State.written
  repeat' first
    | intro _
    | with_reducible assumption
    | (extract_lets +onlyGivenNames z; clear_value z; revert z; intro _)
    | with_reducible refine Rg.setField (Fr.bit hw rfl) ?_
    | with_reducible refine rg_stopFree ?_
    | with_reducible refine rg_netCtrlWritten (Fr.sub (V := 43042) rfl hw) ?_
    | with_reducible refine rg_slewCfgWritten (Fr.sub (V := 43042) rfl hw) ?_
    | with_reducible refine rg_ptpCtrlWritten ?_
    | with_reducible apply Rg.ite
    | (with_reducible refine Rg.of ?_); with_reducible assumption

theorem rg_plainWrite {W : Nat} {s0 : State} {s : State} {off : Nat} {v : Nat} {mask : Nat} (hw : 131071 ||| W = W) (hs : Rg W s0 s) :
    Rg W s0 (State.plainWrite s off v mask) := by
  unfold State.plainWrite
  repeat' first
    | intro _
    | with_reducible assumption
    | (extract_lets +onlyGivenNames z; guard_hyp z : Hst := _; revert z; intro _)
    | (extract_lets +onlyGivenNames z; clear_value z; revert z; intro _)
    | with_reducible refine Rg.setReg (bit_full (Fr.sub rfl hw)) ?_
    | with_reducible refine rg_written (Fr.sub (V := 131071) rfl hw) ?_
    | with_reducible apply Rg.ite
    | (with_reducible refine Rg.of ?_); with_reducible assumption
    | split

/-! SramScrub. -/

theorem rg_withdrawGroup {W : Nat} {s0 : State} {s : State} (hw : 42528 ||| W = W) (hs : Rg W s0 s) :
    Rg W s0 (State.withdrawGroup s) := by
  unfold State.withdrawGroup
  repeat' first
    | with_reducible assumption
    | (extract_lets +onlyGivenNames z; clear_value z; revert z; intro _)
    | with_reducible refine rg_next ?_
    | with_reducible refine rg_invalidateRows hw ?_
    | split

theorem rg_rowsUnread {W : Nat} {s0 : State} {s : State} {r0 : Nat} {r1 : Nat} (hw : 44771 ||| W = W) (hs : Rg W s0 s) :
    Rg W s0 (State.rowsUnread s r0 r1) := by
  unfold State.rowsUnread
  repeat' first
    | intro _
    | with_reducible assumption
    | with_reducible refine rg_hole hw ?_
    | with_reducible apply Rg.ite
    | split

theorem rg_sramUe {W : Nat} {s0 : State} {s : State} {store : Nat} {word : Nat} (hw : 44783 ||| W = W) (hs : Rg W s0 s) :
    Rg W s0 (State.sramUe s store word) := by
  unfold State.sramUe
  repeat' first
    | intro _
    | with_reducible assumption
    | (extract_lets +onlyGivenNames z; guard_hyp z : State := _; refine Rg.cut (x := z) ?_ (fun _ => ?_); rotate_left; clear_value z; revert z; intro _ _; rotate_left; unfold z; clear z)
    | (extract_lets +onlyGivenNames z; clear_value z; revert z; intro _)
    | with_reducible refine rg_next ?_
    | with_reducible refine rg_weaverFails (Fr.sub (V := 44783) rfl hw) ?_ ?_
    | with_reducible refine rg_decodeFails (Fr.sub (V := 44783) rfl hw) ?_
    | with_reducible refine rg_withdrawGroup (Fr.sub (V := 44783) rfl hw) ?_
    | with_reducible refine rg_fpPoison (Fr.sub (V := 44783) rfl hw) ?_
    | with_reducible refine rg_rowsUnread (Fr.sub (V := 44783) rfl hw) ?_
    | with_reducible refine rg_setRing ?_
    | exact (Fr.bit hw (by rw [blk_WVR_UE_COUNT]; decide))
    | with_reducible apply Rg.ite
    | (with_reducible refine Rg.of ?_); with_reducible assumption
    | split

theorem rg_sramError {W : Nat} {s0 : State} {s : State} {store : Nat} {word : Nat} {dx : Nat} {cx : Nat} (hw : 44783 ||| W = W) (hs : Rg W s0 s) :
    Rg W s0 (State.sramError s store word dx cx) := by
  unfold State.sramError
  repeat' first
    | intro _
    | with_reducible assumption
    | (extract_lets +onlyGivenNames z; guard_hyp z : State := _; refine Rg.cut (x := z) ?_ (fun _ => ?_); rotate_left; clear_value z; revert z; intro _ _; rotate_left; unfold z; clear z)
    | (extract_lets +onlyGivenNames z; clear_value z; revert z; intro _)
    | with_reducible refine rg_eccLog (Fr.sub (V := 44783) rfl hw) ?_
    | with_reducible refine Rg.bump (Fr.bit hw rfl) ?_
    | with_reducible refine rg_sramUe hw ?_
    | with_reducible refine rg_withyChange (Fr.sub (V := 44783) rfl hw) ?_
    | with_reducible refine rg_raise (Fr.sub (V := 44783) rfl hw) ?_
    | with_reducible apply Rg.ite
    | (with_reducible refine Rg.of ?_); with_reducible assumption
    | split

theorem rg_execSramScrub {W : Nat} {s0 : State} {store : Nat} {word : Nat} {dx : Sys2Proof.Dword} {cx : Sys2Proof.Byte} {s : State} (hw : 44783 ||| W = W) (hs : Rg W s0 s) :
    RgO W s0 (execSramScrub store word dx cx s) := by
  unfold execSramScrub
  repeat' first
    | intro _
    | with_reducible assumption
    | with_reducible refine rg_finish (Fr.sub (V := 44783) rfl hw) ?_ ?_
    | with_reducible refine rg_sramError hw ?_
    | with_reducible apply Rg.ite

/-! Supply. -/

theorem rg_pwrFault {W : Nat} {s0 : State} {s : State} {code : Nat} {sub : Nat} {phase : Nat} {value : Nat} (hw : 45056 ||| W = W) (hs : Rg W s0 s) :
    Rg W s0 (State.pwrFault s code sub phase value) := by
  unfold State.pwrFault
  repeat' first
    | with_reducible assumption
    | with_reducible refine rg_raise (Fr.sub (V := 45056) rfl hw) ?_
    | with_reducible refine Rg.setRegs hw (by simp only [List.length_cons, List.length_nil]; decide) ?_
    | with_reducible refine Rg.bump (Fr.bit hw rfl) ?_

theorem rg_execBrownoutLasting {W : Nat} {s0 : State} {s : State} (hw : 131071 ||| W = W) (hs : Rg W s0 s) :
    RgO W s0 (execBrownoutLasting s) := by
  unfold execBrownoutLasting
  repeat' first
    | intro _
    | with_reducible assumption
    | (extract_lets +onlyGivenNames z; guard_hyp z : State := _; refine RgO.cut (x := z) ?_ (fun _ => ?_); rotate_left; clear_value z; revert z; intro _ _; rotate_left; unfold z; clear z)
    | (extract_lets +onlyGivenNames z; clear_value z; revert z; intro _)
    | with_reducible refine rg_finish (Fr.sub (V := 131071) rfl hw) ?_ ?_
    | with_reducible refine rg_powerOff hw ?_
    | with_reducible apply Rg.ite
    | (with_reducible refine Rg.of ?_); with_reducible assumption

theorem rg_execLpOver {W : Nat} {s0 : State} {ma : Nat} {s : State} (hw : 45056 ||| W = W) (hs : Rg W s0 s) :
    RgO W s0 (execLpOver ma s) := by
  unfold execLpOver
  repeat' first
    | intro _
    | with_reducible assumption
    | (extract_lets +onlyGivenNames z; clear_value z; revert z; intro _)
    | with_reducible refine rg_finish (Fr.sub (V := 45056) rfl hw) ?_ ?_
    | with_reducible refine rg_pwrFault hw ?_
    | with_reducible refine Rg.bump (Fr.bit hw rfl) ?_
    | with_reducible apply Rg.ite
    | (with_reducible refine Rg.of ?_); with_reducible assumption

theorem rg_execPhaseFault {W : Nat} {s0 : State} {rail : Nat} {phase : Nat} {ma : Nat} {s : State} (hw : 45056 ||| W = W) (hs : Rg W s0 s) :
    RgO W s0 (execPhaseFault rail phase ma s) := by
  unfold execPhaseFault
  repeat' first
    | intro _
    | with_reducible assumption
    | (extract_lets +onlyGivenNames z; guard_hyp z : State := _; refine Rg.cut (x := z) ?_ (fun _ => ?_); rotate_left; clear_value z; revert z; intro _ _; rotate_left; unfold z; clear z)
    | (extract_lets +onlyGivenNames z; clear_value z; revert z; intro _)
    | with_reducible refine rg_finish (Fr.sub (V := 45056) rfl hw) ?_ ?_
    | with_reducible refine rg_pwrFault hw ?_
    | with_reducible refine rg_withyChange (Fr.sub (V := 45056) rfl hw) ?_
    | with_reducible apply Rg.ite
    | (with_reducible refine Rg.of ?_); with_reducible assumption
    | split

theorem rg_execVinLow {W : Nat} {s0 : State} {mv : Nat} {s : State} (hw : 45056 ||| W = W) (hs : Rg W s0 s) :
    RgO W s0 (execVinLow mv s) := by
  unfold execVinLow
  repeat' first
    | intro _
    | with_reducible assumption
    | (extract_lets +onlyGivenNames z; clear_value z; revert z; intro _)
    | with_reducible refine rg_finish (Fr.sub (V := 45056) rfl hw) ?_ ?_
    | with_reducible refine rg_pwrFault hw ?_
    | with_reducible apply Rg.ite
    | (with_reducible refine Rg.of ?_); with_reducible assumption

theorem rg_execReferenceReturn {W : Nat} {s0 : State} {t : Nat} {sx : State} (hw : 40960 ||| W = W) (hsx : Rg W s0 sx) :
    RgO W s0 (execReferenceReturn t sx) := by
  unfold execReferenceReturn
  repeat' first
    | intro _
    | with_reducible assumption
    | (extract_lets +onlyGivenNames z; guard_hyp z : State := _; refine RgO.cut (x := z) ?_ (fun _ => ?_); rotate_left; clear_value z; revert z; intro _ _; rotate_left; unfold z; clear z)
    | (extract_lets +onlyGivenNames z; clear_value z; revert z; intro _)
    | with_reducible refine rg_at_ ?_
    | with_reducible refine rg_finish hw ?_ ?_
    | with_reducible apply Rg.ite
    | (with_reducible refine Rg.of ?_); with_reducible assumption

theorem rg_execRefclkLoss {W : Nat} {s0 : State} {s : State} (hw : 45058 ||| W = W) (hs : Rg W s0 s) :
    RgO W s0 (execRefclkLoss s) := by
  unfold execRefclkLoss
  repeat' first
    | intro _
    | with_reducible assumption
    | (extract_lets +onlyGivenNames z; guard_hyp z : State := _; refine RgO.cut (x := z) ?_ (fun _ => ?_); rotate_left; clear_value z; revert z; intro _ _; rotate_left; unfold z; clear z)
    | (extract_lets +onlyGivenNames z; clear_value z; revert z; intro _)
    | with_reducible refine rg_finish (Fr.sub (V := 45058) rfl hw) ?_ ?_
    | with_reducible refine rg_portReset (Fr.sub (V := 45058) rfl hw) ?_
    | with_reducible refine Rg.bump (Fr.bit hw rfl) ?_
    | with_reducible apply Rg.ite
    | (with_reducible refine Rg.of ?_); with_reducible assumption

theorem rg_execPllRelock {W : Nat} {s0 : State} {i : Nat} {t : Nat} {sx : State} (hw : 131071 ||| W = W) (hsx : Rg W s0 sx) :
    RgO W s0 (execPllRelock i t sx) := by
  unfold execPllRelock
  repeat' first
    | intro _
    | with_reducible assumption
    | (extract_lets +onlyGivenNames z; guard_hyp z : State := _; refine RgO.cut (x := z) ?_ (fun _ => ?_); rotate_left; clear_value z; revert z; intro _ _; rotate_left; unfold z; clear z)
    | (extract_lets +onlyGivenNames z; guard_hyp z : Hst := _; revert z; intro _)
    | (extract_lets +onlyGivenNames z; clear_value z; revert z; intro _)
    | with_reducible refine rg_at_ ?_
    | with_reducible refine rg_finish (Fr.sub (V := 131071) rfl hw) ?_ ?_
    | with_reducible refine rg_setDomain hw ?_
    | with_reducible apply Rg.ite
    | with_reducible apply Rg.foldl
    | (with_reducible refine Rg.of ?_); with_reducible assumption

theorem rg_execRefLost {W : Nat} {s0 : State} {t : Nat} {sx : State} (hw : 45056 ||| W = W) (hsx : Rg W s0 sx) :
    RgO W s0 (execRefLost t sx) := by
  unfold execRefLost
  repeat' first
    | intro _
    | with_reducible assumption
    | (extract_lets +onlyGivenNames z; guard_hyp z : State := _; refine RgO.cut (x := z) ?_ (fun _ => ?_); rotate_left; clear_value z; revert z; intro _ _; rotate_left; unfold z; clear z)
    | (extract_lets +onlyGivenNames z; clear_value z; revert z; intro _)
    | with_reducible refine rg_at_ ?_
    | with_reducible refine rg_finish (Fr.sub (V := 45056) rfl hw) ?_ ?_
    | with_reducible refine rg_pwrFault hw ?_
    | with_reducible refine Rg.bump (Fr.bit hw rfl) ?_
    | with_reducible apply Rg.ite
    | (with_reducible refine Rg.of ?_); with_reducible assumption

theorem rg_abandonTransition {W : Nat} {s0 : State} {s : State} (hw : 131071 ||| W = W) (hs : Rg W s0 s) :
    Rg W s0 (State.abandonTransition s) := by
  unfold State.abandonTransition
  repeat' first
    | intro _
    | with_reducible assumption
    | (extract_lets +onlyGivenNames z; guard_hyp z : State := _; refine Rg.cut (x := z) ?_ (fun _ => ?_); rotate_left; clear_value z; revert z; intro _ _; rotate_left; unfold z; clear z)
    | (extract_lets +onlyGivenNames z; clear_value z; revert z; intro _)
    | with_reducible refine rg_dropSlot (Fr.sub (V := 131071) rfl hw) ?_
    | with_reducible refine rg_setDomains hw ?_
    | with_reducible refine rg_next ?_
    | with_reducible refine rg_pushResult (Fr.sub (V := 131071) rfl hw) ?_
    | with_reducible apply Rg.ite
    | (with_reducible refine Rg.of ?_); with_reducible assumption
    | split

theorem rg_execBrownoutClear {W : Nat} {s0 : State} {s : State} (hw : 40960 ||| W = W) (hs : Rg W s0 s) :
    RgO W s0 (execBrownoutClear s) := by
  unfold execBrownoutClear
  repeat' first
    | intro _
    | with_reducible assumption
    | (extract_lets +onlyGivenNames z; clear_value z; revert z; intro _)
    | with_reducible refine rg_finish hw ?_ ?_
    | with_reducible refine rg_commitAll hw ?_
    | with_reducible apply Rg.ite
    | (with_reducible refine Rg.of ?_); with_reducible assumption

theorem rg_execBrownout {W : Nat} {s0 : State} {rail : Nat} {mv : Nat} {t : Nat} {sx : State} (hw : 131071 ||| W = W) (hsx : Rg W s0 sx) :
    RgO W s0 (execBrownout rail mv t sx) := by
  unfold execBrownout
  repeat' first
    | intro _
    | with_reducible assumption
    | (extract_lets +onlyGivenNames z; guard_hyp z : State := _; refine RgO.cut (x := z) ?_ (fun _ => ?_); rotate_left; clear_value z; revert z; intro _ _; rotate_left; unfold z; clear z)
    | (extract_lets +onlyGivenNames z; clear_value z; revert z; intro _)
    | with_reducible refine rg_at_ ?_
    | with_reducible refine rg_finish (Fr.sub (V := 131071) rfl hw) ?_ ?_
    | with_reducible refine rg_abandonTransition hw ?_
    | with_reducible refine rg_truncateNow (Fr.sub (V := 131071) rfl hw) ?_
    | with_reducible refine rg_pwrFault (Fr.sub (V := 131071) rfl hw) ?_
    | with_reducible apply Rg.ite
    | (with_reducible refine Rg.of ?_); with_reducible assumption

theorem rg_execHoldoverExpiry {W : Nat} {s0 : State} {t : Nat} {sx : State} (hw : 44771 ||| W = W) (hsx : Rg W s0 sx) :
    RgO W s0 (execHoldoverExpiry t sx) := by
  unfold execHoldoverExpiry
  repeat' first
    | intro _
    | with_reducible assumption
    | (extract_lets +onlyGivenNames z; guard_hyp z : State := _; refine RgO.cut (x := z) ?_ (fun _ => ?_); rotate_left; clear_value z; revert z; intro _ _; rotate_left; unfold z; clear z)
    | with_reducible refine rg_at_ ?_
    | with_reducible refine rg_finish (Fr.sub (V := 44771) rfl hw) ?_ ?_
    | with_reducible refine rg_truncateNow hw ?_
    | with_reducible apply Rg.ite
    | split

theorem rg_execPllUnlock {W : Nat} {s0 : State} {i : Nat} {ppm : Nat} {t : Nat} {sx : State} (hw : 48867 ||| W = W) (hsx : Rg W s0 sx) :
    RgO W s0 (execPllUnlock i ppm t sx) := by
  unfold execPllUnlock
  repeat' first
    | intro _
    | with_reducible assumption
    | (extract_lets +onlyGivenNames z; guard_hyp z : State := _; refine RgO.cut (x := z) ?_ (fun _ => ?_); rotate_left; clear_value z; revert z; intro _ _; rotate_left; unfold z; clear z)
    | (extract_lets +onlyGivenNames z; clear_value z; revert z; intro _)
    | with_reducible refine rg_at_ ?_
    | with_reducible refine rg_finish (Fr.sub (V := 48867) rfl hw) ?_ ?_
    | with_reducible refine rg_pwrFault (Fr.sub (V := 48867) rfl hw) ?_
    | with_reducible refine Rg.bump (Fr.bit hw rfl) ?_
    | with_reducible refine rg_truncateNow (Fr.sub (V := 48867) rfl hw) ?_
    | with_reducible apply Rg.ite
    | (with_reducible refine Rg.of ?_); with_reducible assumption

end Sys2Proof.Laws
end

