-- ==== Sys2Proof/WellFormed.lean ====
section
/-! DEFINITION. The operands a sender can form: the numbers of rings, lanes, weavers, channels and the rest lie in the ranges
the spec gives them, and register words in 32 bits. -/

namespace Sys2Proof

/-- The rings there are: 0 to 127 DMA channels, 128 and 129 command rings, 192 and 193 the network rings (R253, R327). -/
def ringNumber (ring : Nat) : Bool := decide (ring < 130) || decide (ring = 192) || decide (ring = 193)

/-- The operands of a command lie in their ranges. -/
def Instr.wellFormed (i : Instr) : Bool :=
  match i with
  | .loadJobKey ring _ => ringNumber ring
  | .setMode ring _ _ => ringNumber ring
  | .armStripe ring _ => ringNumber ring
  | .abort ring _ => ringNumber ring
  | .swapSetSeal ring => ringNumber ring
  | .swapSetCancel ring => ringNumber ring
  | .swapSetNow ring _ => ringNumber ring
  | .trainRim ring _ => ringNumber ring
  | .trainDram ring _ => ringNumber ring
  | .calibrateUpsettSet ring _ => ringNumber ring
  | .calibrateRimRecal ring _ => ringNumber ring
  | .calibrateSensors ring _ _ => ringNumber ring
  | .calibrateDramRecal ring _ => ringNumber ring
  | .retirePage ring _ => ringNumber ring
  | .readCounters ring _ _ => ringNumber ring
  | .syncBarrier ring => ringNumber ring
  | .syncFigure ring => ringNumber ring
  | .syncRunEnd ring => ringNumber ring
  | .doorbell page off be _ => decide (page < 256) && decide (off < 4096) && decide (be < 16)
  | .entryFetch ring _ => ringNumber ring
  | .phaseRefetch ring _ => ringNumber ring
  | .ringReset ring => ringNumber ring
  | .ringResume ring => ringNumber ring
  | .ringEnable ring _ => ringNumber ring
  | .ringDisable ring _ => ringNumber ring
  | .dmaH2L ring _ => ringNumber ring
  | .dmaL2H ring => ringNumber ring
  | .dmaL2L ring => ringNumber ring
  | .dmaH2F ring _ => ringNumber ring
  | .figWait ring _ => ringNumber ring
  | .descriptorComplete ring _ => ringNumber ring
  | .hostPortReset _ => true
  | .busMasterEnable _ => true
  | .irqMessageSend _ => true
  | .irqPendClear _ _ => true
  | .irqEnableWrite _ _ => true
  | .irqSet _ _ => true
  | .rcRead addr => decide (addr < 2 ^ 24 + 2 ^ 20)
  | .registerWrite addr be _ => decide (addr < 2 ^ 24) && decide (be < 16)
  | .ptpNowRead _ => true
  | .ptpFrcRead _ => true
  | .residencyRead i _ => decide (i < 5)
  | .configSetWrite addr be _ => decide (addr < 2 ^ 24) && decide (be < 16)
  | .verifyJobHeader => true
  | .verifyClassTable => true
  | .verifyStripe => true
  | .verifyTileRow => true
  | .verifyTileBin => true
  | .verifyJobEnd => true
  | .figErrlogPop _ => true
  | .weaverTakePass w => decide (w < 136)
  | .densityPassDone w _ => decide (w < 136)
  | .pixelPassDone w _ => decide (w < 136)
  | .reweaveDone w _ => decide (w < 136)
  | .arbiterDone w _ => decide (w < 136)
  | .reweaveHoldExpiry _ => true
  | .weaverUe w => decide (w < 136)
  | .weaverWatchdog w => decide (w < 136)
  | .weaverRetire w => decide (w < 136)
  | .correctSlice stripe w => decide (stripe < 512) && decide (w < 2 ^ 25)
  | .bindNextStripe => true
  | .bindActive => true
  | .corResume => true
  | .sliceCoded stripe w => decide (stripe < 512) && decide (w < 2 ^ 25)
  | .encoderResume => true
  | .expandSlice _ => true
  | .hintProjection _ => true
  | .tickIssue _ => true
  | .beamStoreLoadDone => true
  | .workingTableUpdate => true
  | .thermalDecay => true
  | .tempStale q _ => decide (q < 4)
  | .frameLaunch _ _ => true
  | .encoderEdge _ _ _ _ => true
  | .encoderLos _ _ => true
  | .indexEdge _ _ => true
  | .presetSNow => true
  | .presetSIdx => true
  | .presetCNow => true
  | .presetCIdx => true
  | .anchorPw => true
  | .positionWord _ _ => true
  | .positionWordLoss _ => true
  | .tickTrimUpdate => true
  | .simRun _ => true
  | .simStop => true
  | .simTick _ => true
  | .simFreeTick _ => true
  | .returnFrame lane words _ => decide (lane < 72) && words.all (· < 2 ^ 64)
  | .tempQuorumTimeout _ => true
  | .telRateWindow => true
  | .ackDrainTimeout _ => true
  | .runEnd _ => true
  | .controlBlockRx lane block => decide (lane < 72) && decide (block < 2 ^ 64)
  | .lpreq lane state => decide (lane < 72) && decide (state < 4)
  | .laneLos lane _ => decide (lane < 72)
  | .laneLock lane _ => decide (lane < 72)
  | .retSilent lane _ => decide (lane < 72)
  | .laneRetire lane _ => decide (lane < 72)
  | .laneRetrain lane _ => decide (lane < 72)
  | .laneInject lane _ => decide (lane < 72)
  | .lanePrbs lane _ => decide (lane < 72)
  | .challengeResend _ => true
  | .spareRecal lane _ => decide (lane < 72)
  | .laneLpIdle _ => true
  | .laneRelockTimeout lane _ => decide (lane < 72)
  | .mailboxReadAdvance _ => true
  | .refreshDue p pc _ => decide (p < 64) && decide (pc < 2)
  | .agePromotion _ => true
  | .dramPowerDown p pc => decide (p < 64) && decide (pc < 2)
  | .dramRecalPeriodic p _ => decide (p < 64)
  | .scrubRead l _ _ => decide (l < 60)
  | .demandReadError a _ _ _ _ => decide (a < 0x1800000000)
  | .writebackQueue p => decide (p < 64)
  | .sramScrub _ _ _ _ => true
  | .capar p _ => decide (p < 64)
  | .readTimeout p => decide (p < 64)
  | .ceRate p _ => decide (p < 64)
  | .memChFence p => decide (p < 64)
  | .fenceCopyDone stack => decide (stack < 4)
  | .rebuildSweepDone l => decide (l < 60)
  | .memChRetrain p _ => decide (p < 64)
  | .memChRetire p => decide (p < 64)
  | .pprGo _ => true
  | .pprDone _ => true
  | .eccFlipArm _ => true
  | .eccLogPop _ => true
  | .netRxFrame _ _ => true
  | .netTxEntry _ _ => true
  | .netLink _ => true
  | .speedSeek => true
  | .netRateWindow _ => true
  | .apply _ => true
  | .unlock _ => true
  | .ptpPeriodWrite _ _ _ => true
  | .slewEnd _ => true
  | .ppsPulse _ => true
  | .captureEvent n _ => decide (n < 2)
  | .capPop n => decide (n < 2)
  | .mirrorSend _ => true
  | .powerRequest _ _ => true
  | .powerTransitionEnd _ _ => true
  | .pwrResultPop _ => true
  | .deepGraceExpiry _ => true
  | .wakePin _ _ => true
  | .wakeTimer _ => true
  | .refLost _ => true
  | .holdoverExpiry _ => true
  | .pllUnlock i _ _ => decide (i < 7)
  | .pllRelock i _ => decide (i < 7)
  | .refclkLoss => true
  | .phaseFault rail _ _ => decide (rail < 8)
  | .lpOver _ => true
  | .vinLow _ => true
  | .brownout rail _ _ => decide (rail < 8)
  | .brownoutLasting => true
  | .brownoutClear => true
  | .sensorConversion n _ _ => decide (n < 28)
  | .ageingMeasure _ => true
  | .vauxLoss => true
  | .coldStart _ => true
  | .resetN _ => true
  | .warmReset _ => true
  | .coldReset _ => true
  | .fwCommit => true
  | .upsettAutoStart _ _ => true
  | .mgtWatchdog => true
  | .plateForecast _ => true
  | .recordCommit _ => true
  | .inventoryCommit _ => true
  | .operatingSecond _ => true
  | .ageTrigger => true
  | .histogramCheckpoint => true
  | .retentionCheck sector _ _ => decide (sector < 2048)
  | .snap => true
  | .shrink => true
  | .cursorFetch _ => true
  | .cursorFetchDone => true
  | .autoInc => true
  | .referenceReturn _ => true
  | .resetNRising _ _ => true
  | .vauxReturn _ => true

end Sys2Proof
end

