-- ==== Sys2Proof/Tests/Slice0.lean ====
section
/-! SUPPORT. Tests: commands with an operand out of its range are refused, and concrete states that meet the hypotheses of the
statements. Expected results are worked out by hand from the rules named. -/

namespace Sys2Proof.Tests

open Sys2Proof Sys2Proof.Machine

theorem test_ill_formed_ring_1 :
    (∀ (blk : HostRead), (Instr.loadJobKey 130 blk).wellFormed = false) ∧
    (∀ (t : Nat) (u : UpsettInput), (Instr.setMode 130 t u).wellFormed = false) ∧
    (∀ (t : Nat), (Instr.armStripe 130 t).wellFormed = false) ∧
    (∀ (t : Nat), (Instr.abort 130 t).wellFormed = false) ∧
    (Instr.swapSetSeal 130).wellFormed = false ∧
    (Instr.swapSetCancel 130).wellFormed = false ∧
    (∀ (t : Nat), (Instr.swapSetNow 130 t).wellFormed = false) ∧
    (∀ (r : RimTraining), (Instr.trainRim 130 r).wellFormed = false) ∧
    (∀ (r : List ChanTraining), (Instr.trainDram 130 r).wellFormed = false) ∧
    (∀ (u : UpsettInput), (Instr.calibrateUpsettSet 130 u).wellFormed = false) ∧
    (∀ (r : List LaneRecal), (Instr.calibrateRimRecal 130 r).wellFormed = false) ∧
    (∀ (temps : List Int) (age : List Nat), (Instr.calibrateSensors 130 temps age).wellFormed = false) := by
  refine ⟨?_, ?_, ?_, ?_, ?_, ?_, ?_, ?_, ?_, ?_, ?_, ?_⟩ <;> intros <;> first | rfl | simp [Instr.wellFormed]

theorem test_ill_formed_ring_2 :
    (∀ (r : List ChanMargins), (Instr.calibrateDramRecal 130 r).wellFormed = false) ∧
    (∀ (writeErr : Bool), (Instr.retirePage 130 writeErr).wellFormed = false) ∧
    (∀ (t : Nat) (resp : WriteResp), (Instr.readCounters 130 t resp).wellFormed = false) ∧
    (Instr.syncBarrier 130).wellFormed = false ∧
    (Instr.syncFigure 130).wellFormed = false ∧
    (Instr.syncRunEnd 130).wellFormed = false ∧
    (∀ (e : EntryRead), (Instr.entryFetch 130 e).wellFormed = false) ∧
    (∀ (e : EntryRead), (Instr.phaseRefetch 130 e).wellFormed = false) ∧
    (Instr.ringReset 130).wellFormed = false ∧
    (Instr.ringResume 130).wellFormed = false ∧
    (∀ (v : Word), (Instr.ringEnable 130 v).wellFormed = false) ∧
    (∀ (v : Word), (Instr.ringDisable 130 v).wellFormed = false) := by
  refine ⟨?_, ?_, ?_, ?_, ?_, ?_, ?_, ?_, ?_, ?_, ?_, ?_⟩ <;> intros <;> first | rfl | simp [Instr.wellFormed]

theorem test_ill_formed_ring_3 :
    (∀ (data : HostRead), (Instr.dmaH2L 130 data).wellFormed = false) ∧
    (Instr.dmaL2H 130).wellFormed = false ∧
    (Instr.dmaL2L 130).wellFormed = false ∧
    (∀ (data : HostRead), (Instr.dmaH2F 130 data).wellFormed = false) ∧
    (∀ (data : HostRead), (Instr.figWait 130 data).wellFormed = false) ∧
    (∀ (errs : XferErrors), (Instr.descriptorComplete 130 errs).wellFormed = false) := by
  refine ⟨?_, ?_, ?_, ?_, ?_, ?_⟩ <;> intros <;> first | rfl | simp [Instr.wellFormed]

theorem test_ill_formed_page :
    ∀ (off : Nat) (be : Nat) (v : Word), (Instr.doorbell 256 off be v).wellFormed = false := by
  first | rfl | (intros; first | rfl | simp [Instr.wellFormed])

theorem test_ill_formed_page_offset :
    ∀ (page : Nat) (be : Nat) (v : Word), (Instr.doorbell page 4096 be v).wellFormed = false := by
  first | rfl | (intros; first | rfl | simp [Instr.wellFormed])

theorem test_ill_formed_byte_enables :
    (∀ (page : Nat) (off : Nat) (v : Word), (Instr.doorbell page off 16 v).wellFormed = false) ∧
    (∀ (addr : Nat) (v : Word), (Instr.registerWrite addr 16 v).wellFormed = false) ∧
    (∀ (addr : Nat) (v : Word), (Instr.configSetWrite addr 16 v).wellFormed = false) := by
  refine ⟨?_, ?_, ?_⟩ <;> intros <;> first | rfl | simp [Instr.wellFormed]

theorem test_ill_formed_address :
    (Instr.rcRead (2 ^ 24 + 2 ^ 20)).wellFormed = false ∧
    (∀ (be : Nat) (v : Word), (Instr.registerWrite (2 ^ 24) be v).wellFormed = false) ∧
    (∀ (be : Nat) (v : Word), (Instr.configSetWrite (2 ^ 24) be v).wellFormed = false) := by
  refine ⟨?_, ?_, ?_⟩ <;> intros <;> first | rfl | simp [Instr.wellFormed]

theorem test_ill_formed_register_number :
    (∀ (t : Nat), (Instr.residencyRead 5 t).wellFormed = false) ∧
    (∀ (ppm : Nat) (t : Nat), (Instr.pllUnlock 7 ppm t).wellFormed = false) ∧
    (∀ (t : Nat), (Instr.pllRelock 7 t).wellFormed = false) := by
  refine ⟨?_, ?_, ?_⟩ <;> intros <;> first | rfl | simp [Instr.wellFormed]

theorem test_ill_formed_weaver :
    (Instr.weaverTakePass 136).wellFormed = false ∧
    (∀ (errs : List WordFlip), (Instr.densityPassDone 136 errs).wellFormed = false) ∧
    (∀ (errs : List WordFlip), (Instr.pixelPassDone 136 errs).wellFormed = false) ∧
    (∀ (errs : List WordFlip), (Instr.reweaveDone 136 errs).wellFormed = false) ∧
    (∀ (errs : List WordFlip), (Instr.arbiterDone 136 errs).wellFormed = false) ∧
    (Instr.weaverUe 136).wellFormed = false ∧
    (Instr.weaverWatchdog 136).wellFormed = false ∧
    (Instr.weaverRetire 136).wellFormed = false ∧
    (∀ (stripe : Nat), (Instr.correctSlice stripe (2 ^ 25)).wellFormed = false) ∧
    (∀ (stripe : Nat), (Instr.sliceCoded stripe (2 ^ 25)).wellFormed = false) := by
  refine ⟨?_, ?_, ?_, ?_, ?_, ?_, ?_, ?_, ?_, ?_⟩ <;> intros <;> first | rfl | simp [Instr.wellFormed]

theorem test_ill_formed_stripe :
    (∀ (w : Nat), (Instr.correctSlice 512 w).wellFormed = false) ∧
    (∀ (w : Nat), (Instr.sliceCoded 512 w).wellFormed = false) := by
  refine ⟨?_, ?_⟩ <;> intros <;> first | rfl | simp [Instr.wellFormed]

theorem test_ill_formed_quadrant :
    ∀ (t : Nat), (Instr.tempStale 4 t).wellFormed = false := by
  first | rfl | (intros; first | rfl | simp [Instr.wellFormed])

theorem test_ill_formed_lane :
    (∀ (words : List Nat) (t : Nat), (Instr.returnFrame 72 words t).wellFormed = false) ∧
    (∀ (block : Nat), (Instr.controlBlockRx 72 block).wellFormed = false) ∧
    (∀ (state : Nat), (Instr.lpreq 72 state).wellFormed = false) ∧
    (∀ (t : Nat), (Instr.laneLos 72 t).wellFormed = false) ∧
    (∀ (t : Nat), (Instr.laneLock 72 t).wellFormed = false) ∧
    (∀ (t : Nat), (Instr.retSilent 72 t).wellFormed = false) ∧
    (∀ (t : Nat), (Instr.laneRetire 72 t).wellFormed = false) ∧
    (∀ (r : LaneTraining), (Instr.laneRetrain 72 r).wellFormed = false) ∧
    (∀ (v : Word), (Instr.laneInject 72 v).wellFormed = false) ∧
    (∀ (v : Word), (Instr.lanePrbs 72 v).wellFormed = false) ∧
    (∀ (r : LaneRecal), (Instr.spareRecal 72 r).wellFormed = false) ∧
    (∀ (t : Nat), (Instr.laneRelockTimeout 72 t).wellFormed = false) := by
  refine ⟨?_, ?_, ?_, ?_, ?_, ?_, ?_, ?_, ?_, ?_, ?_, ?_⟩ <;> intros <;> first | rfl | simp [Instr.wellFormed]

theorem test_ill_formed_frame_words :
    ∀ (lane : Nat) (t : Nat), (Instr.returnFrame lane ([2 ^ 64]) t).wellFormed = false := by
  first | rfl | (intros; first | rfl | simp [Instr.wellFormed])

theorem test_ill_formed_control_block :
    ∀ (lane : Nat), (Instr.controlBlockRx lane (2 ^ 64)).wellFormed = false := by
  first | rfl | (intros; first | rfl | simp [Instr.wellFormed])

theorem test_ill_formed_lane_state :
    ∀ (lane : Nat), (Instr.lpreq lane 4).wellFormed = false := by
  first | rfl | (intros; first | rfl | simp [Instr.wellFormed])

theorem test_ill_formed_channel :
    (∀ (pc : Nat) (busy : Bool), (Instr.refreshDue 64 pc busy).wellFormed = false) ∧
    (∀ (pc : Nat), (Instr.dramPowerDown 64 pc).wellFormed = false) ∧
    (∀ (m : ChanMargins), (Instr.dramRecalPeriodic 64 m).wellFormed = false) ∧
    (Instr.writebackQueue 64).wellFormed = false ∧
    (∀ (n : Nat), (Instr.capar 64 n).wellFormed = false) ∧
    (Instr.readTimeout 64).wellFormed = false ∧
    (∀ (rate : Nat), (Instr.ceRate 64 rate).wellFormed = false) ∧
    (Instr.memChFence 64).wellFormed = false ∧
    (∀ (r : ChanTraining), (Instr.memChRetrain 64 r).wellFormed = false) ∧
    (Instr.memChRetire 64).wellFormed = false := by
  refine ⟨?_, ?_, ?_, ?_, ?_, ?_, ?_, ?_, ?_, ?_⟩ <;> intros <;> first | rfl | simp [Instr.wellFormed]

theorem test_ill_formed_pseudo_channel :
    (∀ (p : Nat) (busy : Bool), (Instr.refreshDue p 2 busy).wellFormed = false) ∧
    (∀ (p : Nat), (Instr.dramPowerDown p 2).wellFormed = false) := by
  refine ⟨?_, ?_⟩ <;> intros <;> first | rfl | simp [Instr.wellFormed]

theorem test_ill_formed_logical_channel :
    (∀ (flips : List WordFlip) (t : Nat), (Instr.scrubRead 60 flips t).wellFormed = false) ∧
    (Instr.rebuildSweepDone 60).wellFormed = false := by
  refine ⟨?_, ?_⟩ <;> intros <;> first | rfl | simp [Instr.wellFormed]

theorem test_ill_formed_memory_address :
    ∀ (cls : DramClass) (dx : Dword) (cx : Byte) (t : Nat), (Instr.demandReadError 0x1800000000 cls dx cx t).wellFormed = false := by
  first | rfl | (intros; first | rfl | simp [Instr.wellFormed])

theorem test_ill_formed_stack :
    (Instr.fenceCopyDone 4).wellFormed = false := by
  first | rfl | (intros; first | rfl | simp [Instr.wellFormed])

theorem test_ill_formed_unit_number :
    (∀ (t : Nat), (Instr.captureEvent 2 t).wellFormed = false) ∧
    (Instr.capPop 2).wellFormed = false ∧
    (∀ (raw : Int) (t : Nat), (Instr.sensorConversion 28 raw t).wellFormed = false) := by
  refine ⟨?_, ?_, ?_⟩ <;> intros <;> first | rfl | simp [Instr.wellFormed]

theorem test_ill_formed_rail :
    (∀ (phase : Nat) (ma : Nat), (Instr.phaseFault 8 phase ma).wellFormed = false) ∧
    (∀ (mv : Nat) (t : Nat), (Instr.brownout 8 mv t).wellFormed = false) := by
  refine ⟨?_, ?_⟩ <;> intros <;> first | rfl | simp [Instr.wellFormed]

theorem test_ill_formed_sector :
    ∀ (marginOk : Bool) (verifyOk : Bool), (Instr.retentionCheck 2048 marginOk verifyOk).wellFormed = false := by
  first | rfl | (intros; first | rfl | simp [Instr.wellFormed])

end Sys2Proof.Tests
end

section
/-! PROOFS. Reads and plain writes of BAR0's registers (R10, R11, R357): one law for each way a read or a write passes the access
policy, and the three obligations that these laws settle. -/

namespace Sys2Proof.Proofs

open Sys2Proof Sys2Proof.Machine Sys2Proof.Laws

variable {s : State}

/-! The arms of the dispatch. -/

theorem exec_rcRead (off : Nat) (h : off < 2 ^ 24) : exec (.rcRead off) s = finish s (s.readOff off) := by
  show execRcRead off s = _
  unfold execRcRead
  rw [if_pos h]

/-- A write that no command of its own takes goes to the register. -/
theorem exec_registerWrite_plain {off be m : Nat} {v : Word} (hv : s.writeVerdict off be v.toNat = .ok m false)
    (hc : valueCommand off v s.time = none) (hb : isCmd off = false) :
    exec (.registerWrite off be v) s = finish s (s.plainWrite off v.toNat m) := by
  show execRegisterWrite off be v s = _
  unfold execRegisterWrite
  simp only [hv, hc, hb, guard_ok hv, Bool.false_eq_true, if_false]

/-! What a settled step leaves of the registers. -/

/-- Outside the interrupt registers a settled state reads as the state that was settled. -/
theorem reg_settle {s' : State} (h : s'.regsWf = true) {o : Nat} (ho : o ∉ Claims.interruptRegs) :
    (s'.settle s).reg o = s'.reg o :=
  quiet_settle.reg h o ho

/-- Where no level source's condition changed, settling does nothing (R342). -/
theorem settle_eq_self {s' : State} (h : ∀ v, s'.level v = s.level v) : s'.settle s = s' := by
  simp [State.settle, levelSources, h]

/-! The registers of PD_AON decide no level source. -/

theorem field_setReg_ne (h : s.regsWf = true) {off o : Nat} (v hi lo : Nat) (hn : o ≠ off) :
    (s.setReg off v).field o hi lo = s.field o hi lo := by
  unfold State.field
  rw [reg_setReg_ne s h v hn]

theorem regions_setReg_power (h : s.regsWf = true) {off : Nat} (v : Nat) (hp : off / 0x100000 = 12) :
    (s.setReg off v).regions = s.regions := by
  refine List.map_congr_left fun n hn => ?_
  have hn := List.mem_range.1 hn
  have h0 : Reg.MEM_REGION_n_0 n ≠ off := by unfold Reg.MEM_REGION_n_0; omega
  have h1 : Reg.MEM_REGION_n_1 n ≠ off := by unfold Reg.MEM_REGION_n_1; omega
  simp only [field_setReg_ne h v _ _ h0, field_setReg_ne h v _ _ h1]

theorem bankBase_setReg_power (h : s.regsWf = true) {off : Nat} (v : Nat) (hp : off / 0x100000 = 12) :
    (s.setReg off v).bankBase = s.bankBase := by
  have hne : ∀ o, o / 0x100000 ≠ 12 → (s.setReg off v).reg o = s.reg o := fun o ho =>
    reg_setReg_ne s h v fun e => ho (e ▸ hp)
  funext b
  unfold State.bankBase State.reg64
  rw [hne _ (by decide), hne _ (by decide), hne _ (by decide), hne _ (by decide)]

theorem reload_setReg_power (h : s.regsWf = true) {off : Nat} (v : Nat) (hp : off / 0x100000 = 12) :
    (s.setReg off v).reload = s.reload := by
  unfold State.reload State.tableMarks State.regionAt
  rw [regions_setReg_power h v hp, bankBase_setReg_power h v hp]
  rfl

theorem lowWorking_setReg_power (h : s.regsWf = true) {off : Nat} (v : Nat) (hp : off / 0x100000 = 12) :
    (s.setReg off v).lowWorking = s.lowWorking := by
  have hn : Reg.WVR_LIMITS ≠ off := by unfold Reg.WVR_LIMITS; omega
  unfold State.lowWorking
  rw [field_setReg_ne h v _ _ hn]
  rfl

theorem level_setReg_power (h : s.regsWf = true) {off : Nat} (v : Nat) (hp : off / 0x100000 = 12) (n : Nat) :
    (s.setReg off v).level n = s.level n := by
  simp only [State.level, reload_setReg_power h v hp, lowWorking_setReg_power h v hp]
  rfl

/-- Counting an access to a block that is off changes no level source's condition. -/
theorem level_offAccess (h : s.regsWf = true) (off : Nat) (w : Bool) (n : Nat) : (s.offAccess off w).level n = s.level n := by
  unfold State.offAccess
  rw [level_setReg_power (regsWf_bump s h _) _ (by decide), bump_eq, level_setReg_power h _ (by decide)]

theorem reg_offAccess_ne (h : s.regsWf = true) (off : Nat) (w : Bool) {o : Nat} (h1 : o ≠ Reg.PWR_OFF_ACCESS)
    (h2 : o ≠ Reg.PWR_OFF_ACCESS_AT) : (s.offAccess off w).reg o = s.reg o := by
  unfold State.offAccess
  rw [reg_setReg_ne _ (regsWf_bump s h _) _ h2, reg_bump s h, if_neg h1]

/-- PD_AON has no PLL and IDLE leaves its clock on: its block is never off while its domain is ON (Tables 12.1, 12.6). -/
theorem accessOff_power (h : s.domOn 0 = true) {off : Nat} (hp : off / 0x100000 = 12) : s.accessOff off = false := by
  have hd : domainOf off = 0 := by simp [domainOf, hp]
  simp [State.accessOff, State.clockOff, hd, hp, h, domainPlls]

/-! Reads (R11, R357). -/

theorem readOff_blocked {off : Nat} (h : s.accessOff off = true) :
    s.readOff off = ({ s with readData := 0 } : State).offAccess off false := by
  unfold State.readOff
  rw [if_pos h]

theorem readOff_defined {off : Nat} (h : s.accessOff off = false) (hd : offsetDefined off = true) :
    s.readOff off = ({ s with readData := BitVec.ofNat 32 (s.readReg off) } : State).readEffect off := by
  simp only [State.readOff, h, hd, Bool.false_eq_true, Bool.not_true, if_false]

/-- What a read does beside returning its word leaves that word. -/
@[simp] theorem readEffect_readData (off : Nat) : (s.readEffect off).readData = s.readData :=
  ((fr_readEffect Fr.refl : Fr 0 s _).readData).resolve_left (by decide)

theorem readEffect_rc {off : Nat} (h : (Reg.row? off).map (·.access) = some .rc) : s.readEffect off = s.setReg off 0 := by
  unfold State.readEffect
  rw [if_pos h]

theorem readEffect_rc_clears (h : s.regsWf = true) {off : Nat} {s0 : State}
    (hrc : (Reg.row? off).map (·.access) = some .rc) (hirq : off ∉ Claims.interruptRegs) :
    ((s.readEffect off).settle s0).reg off = 0 := by
  rw [readEffect_rc hrc, reg_settle (regsWf_setReg s h _ _) hirq, reg_setReg_self s h, Nat.zero_mod]

/-- Settles O18: the read's word stands before its effect, and the effect of an RC register is to be 0 (R11). -/
theorem registerReadCompletes : Obligations.RegisterReadCompletes := by
  intro s off hwf hlt hon hdef
  refine ⟨_, exec_rcRead off hlt, ?_, fun hrc hirq => ?_⟩
  · rw [settle_readData, readOff_defined hon hdef, readEffect_readData]
  · rw [readOff_defined hon hdef]
    refine readEffect_rc_clears ?_ hrc hirq
    exact hwf

/-- Settles O39: a blocked read writes the two registers of the count of such accesses only (R357), which are never blocked
themselves and raise no source. -/
theorem blockedReadClearsNothing : Obligations.BlockedReadClearsNothing := by
  intro s off hwf haon hlt hoff
  have hne : ∀ o, o / 0x100000 = 12 → off ≠ o := fun o ho e => by
    rw [e, accessOff_power haon ho] at hoff
    cases hoff
  have hsettle : (s.readOff off).settle s = s.readOff off := by
    rw [readOff_blocked hoff]
    exact settle_eq_self fun v => level_offAccess (s := { s with readData := 0 }) hwf off false v
  refine ⟨_, exec_rcRead off hlt, ?_, ?_⟩
  · rw [hsettle, readOff_blocked hoff]
    rfl
  · rw [hsettle, readOff_blocked hoff]
    exact reg_offAccess_ne (s := { s with readData := 0 }) hwf off false (hne _ (by decide)) (hne _ (by decide))

/-! Plain writes (R10). -/

theorem plainWrite_row {off v m : Nat} {r : RegRow} (hr : Reg.row? off = some r) (ha : r.access ≠ .w1c) :
    s.plainWrite off v m = (s.setReg off (normalised off (mergeWord (s.reg off) v m))).written off (s.reg off) := by
  unfold State.plainWrite
  simp only [hr, ha, if_false]

/-- What follows a plain write writes no register, but for the control registers whose writes do more. -/
theorem written_regs {off : Nat} (old : Nat)
    (h : off ∉ [Reg.STG_CTRL, Reg.TRK_CTRL, Reg.NET_CTRL, Reg.PTP_SLEW_CFG, Reg.PTP_CTRL]) :
    (s.written off old).regs = s.regs := by
  simp only [List.mem_cons, List.not_mem_nil, or_false, not_or] at h
  obtain ⟨hstg, htrk, hnet, hslew, hptp⟩ := h
  simp only [State.written, hstg, htrk, hnet, hslew, hptp, if_false]
  split
  · rfl
  · split <;> rfl

/-- Settles O21: the write stores its word, and neither what follows it nor the sources it raises write another register than
those of the interrupts. -/
theorem registerWriteCompletes : Obligations.RegisterWriteCompletes := by
  intro s off be v m r hwf hv hc hb hr ha hx
  have hplain : ∀ o, (s.plainWrite off v.toNat m).reg o
      = (s.setReg off (normalised off (mergeWord (s.reg off) v.toNat m))).reg o := fun o => by
    rw [plainWrite_row hr ha, reg_of_regs (written_regs _ hx)]
  have hwf' : (s.plainWrite off v.toNat m).regsWf = true := by
    rw [plainWrite_row hr ha, State.regsWf, written_regs _ hx]
    exact regsWf_setReg s hwf _ _
  refine ⟨_, exec_registerWrite_plain hv hc hb, fun hirq => ?_, fun o hirq hne => ?_⟩
  · rw [reg_settle hwf' hirq, hplain, reg_setReg_self s hwf]
  · rw [reg_settle hwf' hirq, hplain, reg_setReg_ne s hwf _ hne]

/-! The three statements at a concrete state: after reset, with 5 counted in FIG_AUTH_COUNT, an RC register of the figure
decoder. -/

/-- After reset, with 5 in FIG_AUTH_COUNT. -/
def countedFive : State := State.reset.setReg Reg.FIG_AUTH_COUNT 5

/-- The same in IDLE, where the figure decoder is clock-off (R347). -/
def countedFiveOff : State := { countedFive with pwr := { countedFive.pwr with state := 1 } }

theorem reset_regsWf : State.reset.regsWf = true := rfl

theorem countedFive_regsWf : countedFive.regsWf = true := regsWf_setReg State.reset reset_regsWf _ _

theorem registerReadCompletes_witness :
    ∃ t, exec (.rcRead Reg.FIG_AUTH_COUNT) countedFive = .next t ∧ t.readData = 5 ∧ t.reg Reg.FIG_AUTH_COUNT = 0 := by
  obtain ⟨t, ht, hd, hz⟩ :=
    registerReadCompletes countedFive Reg.FIG_AUTH_COUNT countedFive_regsWf (by decide) (by decide) (by decide)
  exact ⟨t, ht, hd.trans (by decide), hz (by decide) (by decide)⟩

theorem blockedReadClearsNothing_witness :
    ∃ t, exec (.rcRead Reg.FIG_AUTH_COUNT) countedFiveOff = .next t ∧ t.readData = 0 ∧ t.reg Reg.FIG_AUTH_COUNT = 5 := by
  obtain ⟨t, ht, hd, hz⟩ :=
    blockedReadClearsNothing countedFiveOff Reg.FIG_AUTH_COUNT countedFive_regsWf (by decide) (by decide) (by decide)
  exact ⟨t, ht, hd, hz.trans (by decide)⟩

theorem registerWriteCompletes_witness :
    ∃ t, exec (.registerWrite Reg.WVR_LIMITS 15 0) countedFive = .next t ∧ t.reg Reg.WVR_LIMITS = 1 ∧
      t.reg Reg.FIG_AUTH_COUNT = 5 := by
  obtain ⟨t, ht, hw, ho⟩ := registerWriteCompletes countedFive Reg.WVR_LIMITS 15 0 16711935
    (Reg.row? Reg.WVR_LIMITS |>.get (by decide)) countedFive_regsWf (by decide) (by decide) (by decide) (by decide) (by decide)
    (by decide)
  exact ⟨t, ht, (hw (by decide)).trans (by decide), (ho Reg.FIG_AUTH_COUNT (by decide) (by decide)).trans (by decide)⟩

end Sys2Proof.Proofs
end

section
/-! PROOFS. The figure decoder's operations: what they read, count and change (R36, R48 to R58, R276). -/

namespace Sys2Proof.Proofs

open Sys2Proof Sys2Proof.Machine Sys2Proof.Laws

variable {s : State}

/-! Reading and freeing the figure ring. -/

theorem reg_bump_at (h : s.regsWf = true) (off o : Nat) :
    (s.bump off).reg o = if o = off then min (s.reg o + 1) 0xFFFFFFFF else s.reg o := by
  rw [reg_bump s h]
  split
  · rename_i e
    rw [e]
  · rfl

@[simp] theorem figTouch_fig (off n : Nat) : (s.figTouch off n).fig = s.fig :=
  ((fr_figTouch (W := 98304) rfl Fr.refl).fig).resolve_left (by decide)

theorem regsWf_figTouch (h : s.regsWf = true) (off n : Nat) : (s.figTouch off n).regsWf = true :=
  (rg_figTouch (W := 42496) rfl Rg.refl).wf h

/-- Reading the figure ring counts in no register of the decoder. -/
theorem reg_figTouch (h : s.regsWf = true) (off n : Nat) {o : Nat} (ho : regBlock o = 2) :
    (s.figTouch off n).reg o = s.reg o :=
  ((rg_figTouch (W := 42496) rfl Rg.refl).reg h o).resolve_left (by rw [ho]; decide)

/-- Freeing the ring moves the release point only. -/
theorem freeRing_fig : s.freeRing.fig = { s.fig with released := s.freeRing.fig.released } := rfl

@[simp] theorem freeRing_pos : s.freeRing.fig.pos = s.fig.pos := rfl
@[simp] theorem freeRing_expect : s.freeRing.fig.expect = s.fig.expect := rfl
@[simp] theorem freeRing_job : s.freeRing.fig.job = s.fig.job := rfl
@[simp] theorem freeRing_classes : s.freeRing.fig.classes = s.fig.classes := rfl
@[simp] theorem freeRing_sending : s.freeRing.fig.sending = s.fig.sending := rfl
@[simp] theorem freeRing_ended : s.freeRing.fig.ended = s.fig.ended := rfl
@[simp] theorem freeRing_row : s.freeRing.fig.row = s.fig.row := rfl
@[simp] theorem stripeRec_freeRing (j : Nat) : s.freeRing.stripeRec j = s.stripeRec j := rfl
@[simp] theorem rowGen_freeRing (j : Nat) (r : Int) : s.freeRing.rowGen j r = s.rowGen j r := rfl

/-! Rejections (R53, R58). -/

theorem figLog_fig (e : LogWords) : (s.figLog e).fig =
    { s.fig with errlog := if 64 ≤ s.fig.errlog.length then s.fig.errlog else s.fig.errlog ++ [e] } := by
  unfold State.figLog
  split <;> rfl

theorem reg_figLog_ne (hwf : s.regsWf = true) (e : LogWords) {o : Nat} (ho : o ≠ Reg.FIG_ERRLOG_LOST) :
    (s.figLog e).reg o = s.reg o := by
  unfold State.figLog
  split
  · rw [reg_bump s hwf, if_neg ho]
  · rfl

theorem regsWf_figLog (hwf : s.regsWf = true) (e : LogWords) : (s.figLog e).regsWf = true :=
  (rg_figLog (W := 4) rfl Rg.refl).wf hwf

/-- A rejection writes an entry, counts and raises FIG_ERR (R53). -/
theorem figLogReject_eq (h : KfsHeader) (off : Nat) (r : FigReason) (unw halt : Bool) :
    ∃ e, s.figLogReject h off r unw halt =
      (bif unw then ((s.figLog e).bump (figCounter r.status)).bump Reg.FIG_UNWRITABLE_COUNT
        else (s.figLog e).bump (figCounter r.status)).raise .figErr := by
  cases unw <;> exact ⟨_, rfl⟩

/-- A rejection changes nothing of the decoder's own state but its log, which takes one entry while it has room (R58). -/
theorem figLogReject_fig (h : KfsHeader) (off : Nat) (r : FigReason) (unw halt : Bool) :
    ∃ e, (s.figLogReject h off r unw halt).fig =
      { s.fig with errlog := if 64 ≤ s.fig.errlog.length then s.fig.errlog else s.fig.errlog ++ [e] } := by
  obtain ⟨e, he⟩ := figLogReject_eq (s := s) h off r unw halt
  refine ⟨e, ?_⟩
  rw [he, raise_fig]
  cases unw <;> exact figLog_fig e

theorem regsWf_figLogReject (hwf : s.regsWf = true) (h : KfsHeader) (off : Nat) (r : FigReason) (unw halt : Bool) :
    (s.figLogReject h off r unw halt).regsWf = true :=
  (rg_figLogReject (W := 40964) rfl Rg.refl).wf hwf

theorem figCounter_cases (n : Nat) :
    figCounter n = Reg.FIG_AUTH_COUNT ∨ figCounter n = Reg.FIG_INTEGRITY_COUNT ∨ figCounter n = Reg.FIG_FORMAT_COUNT := by
  unfold figCounter
  split
  · exact .inl rfl
  · split
    · exact .inr (.inl rfl)
    · exact .inr (.inr rfl)

theorem figCounter_ne_unwritable (n : Nat) : figCounter n ≠ Reg.FIG_UNWRITABLE_COUNT := by
  rcases figCounter_cases n with e | e | e <;> rw [e] <;> decide

/-- The counters of a rejection are registers of the decoder, apart from the count of lost log entries. -/
theorem figCounts_apart {n o : Nat} (ho : o = figCounter n ∨ o = Reg.FIG_UNWRITABLE_COUNT) :
    o ∉ Claims.interruptRegs ∧ o ≠ Reg.FIG_ERRLOG_LOST ∧ regBlock o = 2 := by
  have hcases := figCounter_cases n
  have : o ∈ [Reg.FIG_AUTH_COUNT, Reg.FIG_INTEGRITY_COUNT, Reg.FIG_FORMAT_COUNT, Reg.FIG_UNWRITABLE_COUNT] := by
    simp only [List.mem_cons, List.not_mem_nil, or_false]
    omega
  exact (by decide : ∀ o ∈ [Reg.FIG_AUTH_COUNT, Reg.FIG_INTEGRITY_COUNT, Reg.FIG_FORMAT_COUNT, Reg.FIG_UNWRITABLE_COUNT],
    o ∉ Claims.interruptRegs ∧ o ≠ Reg.FIG_ERRLOG_LOST ∧ regBlock o = 2) o this

/-- What a rejection counts (R53): its reason's status, and the tile when it loses its bin. A full log counts apart. -/
theorem reg_figLogReject (hwf : s.regsWf = true) (h : KfsHeader) (off : Nat) (r : FigReason) (unw halt : Bool) {o : Nat}
    (ho : o ∉ Claims.interruptRegs) (hlost : o ≠ Reg.FIG_ERRLOG_LOST) :
    (s.figLogReject h off r unw halt).reg o =
      if o = figCounter r.status ∨ unw = true ∧ o = Reg.FIG_UNWRITABLE_COUNT then min (s.reg o + 1) 0xFFFFFFFF
      else s.reg o := by
  obtain ⟨e, he⟩ := figLogReject_eq (s := s) h off r unw halt
  have w1 := regsWf_figLog hwf e
  have w2 := regsWf_bump _ w1 (figCounter r.status)
  have e2 : ((s.figLog e).bump (figCounter r.status)).reg o =
      if o = figCounter r.status then min (s.reg o + 1) 0xFFFFFFFF else s.reg o := by
    rw [reg_bump_at w1, reg_figLog_ne hwf e hlost]
  rw [he]
  cases unw with
  | false =>
    rw [cond_false, quiet_raise.reg w2 o ho, e2]
    simp
  | true =>
    have hne := figCounter_ne_unwritable r.status
    rw [cond_true, quiet_raise.reg (regsWf_bump _ w2 _) o ho, reg_bump_at w2, e2]
    by_cases hu : o = Reg.FIG_UNWRITABLE_COUNT <;> simp [hu, hne.symm]

/-- What a halt leaves of the decoder's own state (R53, R54). -/
theorem figHalt_fig (h : KfsHeader) (off : Nat) (r : FigReason) :
    ∃ e n, (s.figHalt h off r).fig = { s.fig with
      halted := true, reason := r.code, pos := off, row := none, released := n,
      errlog := if 64 ≤ s.fig.errlog.length then s.fig.errlog else s.fig.errlog ++ [e] } := by
  obtain ⟨e, he⟩ := figLogReject_fig (s := s) h off r false true
  unfold State.figHalt
  exact ⟨e, _, by rw [freeRing_fig, he]⟩

/-- A halt counts as the rejection that it is. -/
theorem reg_figHalt (h : KfsHeader) (off : Nat) (r : FigReason) (o : Nat) :
    (s.figHalt h off r).reg o = (s.figLogReject h off r false true).reg o := rfl

theorem regsWf_figHalt (hwf : s.regsWf = true) (h : KfsHeader) (off : Nat) (r : FigReason) :
    (s.figHalt h off r).regsWf = true := regsWf_figLogReject hwf h off r false true

/-- Settling leaves the counters that are no interrupt registers. -/
theorem settled_counted {s s' s0 : State} {o n : Nat} (hwf : s'.regsWf = true) (ho : o ∉ Claims.interruptRegs)
    (h : Claims.counted s s' o n) : Claims.counted s (s'.settle s0) o n :=
  (reg_settle hwf ho).trans h

/-! Tiles. -/

@[simp] theorem setTile_pos (id : TileId) (t : Tile) : (s.setTile id t).fig.pos = s.fig.pos := rfl
@[simp] theorem setTile_held (id : TileId) (t : Tile) : (s.setTile id t).fig.held = s.fig.held := rfl
@[simp] theorem setTile_halted (id : TileId) (t : Tile) : (s.setTile id t).fig.halted = s.fig.halted := rfl

theorem tile?_setTile (id : TileId) (t : Tile) : (s.setTile id t).tile? id = some t := by
  simp [State.tile?, State.setTile]

theorem tile?_of_tiles {u : State} (h : u.fig.tiles = s.fig.tiles) (id : TileId) : u.tile? id = s.tile? id := by
  unfold State.tile?
  rw [h]

@[simp] theorem tile?_settle (s' : State) (id : TileId) : (s'.settle s).tile? id = s'.tile? id :=
  tile?_of_tiles (by rw [settle_fig]) id

/-! Bins. -/

/-- The tile of a bin of a row. -/
def binTile (c : RowCtx) (col : Int) : TileId := { stripe := c.stripe, trow := c.trow, tcol := col }

/-- The verify pass has read a bin of `n` bytes and passed it; `rest` are the bins of the row that follow. -/
def passBin (s : State) (c : RowCtx) (n : Nat) (rest : List (Int × Nat)) : State :=
  { s.figTouch s.fig.pos n with
    fig := { (s.figTouch s.fig.pos n).fig with pos := s.fig.pos + n, row := some { c with bins := rest } } }

/-- A bin has been dealt with: its row ends with it when no bin follows. -/
def closeBin (s : State) (c : RowCtx) (rest : List (Int × Nat)) : State :=
  (if rest = [] then s.rowDone { c with bins := rest } else s).freeRing

theorem passBin_fig (c : RowCtx) (n : Nat) (rest : List (Int × Nat)) :
    (passBin s c n rest).fig = { s.fig with pos := s.fig.pos + n, row := some { c with bins := rest } } := by
  unfold passBin
  rw [figTouch_fig]

theorem regsWf_passBin (hwf : s.regsWf = true) (c : RowCtx) (n : Nat) (rest : List (Int × Nat)) :
    (passBin s c n rest).regsWf = true := regsWf_figTouch hwf ..

theorem reg_passBin (hwf : s.regsWf = true) (c : RowCtx) (n : Nat) (rest : List (Int × Nat)) {o : Nat} (ho : regBlock o = 2) :
    (passBin s c n rest).reg o = s.reg o := reg_figTouch hwf _ _ ho

@[simp] theorem closeBin_pos (c : RowCtx) (rest : List (Int × Nat)) : (closeBin s c rest).fig.pos = s.fig.pos := by
  unfold closeBin
  split <;> rfl

@[simp] theorem closeBin_halted (c : RowCtx) (rest : List (Int × Nat)) :
    (closeBin s c rest).fig.halted = s.fig.halted := by
  unfold closeBin
  split <;> rfl

@[simp] theorem closeBin_held (c : RowCtx) (rest : List (Int × Nat)) : (closeBin s c rest).fig.held = s.fig.held := by
  unfold closeBin
  split <;> rfl

@[simp] theorem tile?_closeBin (c : RowCtx) (rest : List (Int × Nat)) (id : TileId) :
    (closeBin s c rest).tile? id = s.tile? id := by
  unfold closeBin
  split <;> rfl

theorem closeBin_regs (c : RowCtx) (rest : List (Int × Nat)) : (closeBin s c rest).regs = s.regs := by
  unfold closeBin
  split <;> rfl

theorem verifyBin_next {c : RowCtx} {col : Int} {n : Nat} {rest : List (Int × Nat)} (hruns : s.figRuns = true)
    (hrow : s.fig.row = some c) (hbins : c.bins = (col, n) :: rest) (hdel : s.fig.pos + n ≤ s.fig.delivered) :
    s.verifyBin = s.takeBin c col n rest := by
  have hdel : ¬ s.fig.delivered < s.fig.pos + n := by omega
  simp only [State.verifyBin, hruns, hrow, hbins, hdel, Bool.not_true, Bool.false_eq_true, if_false]

/-- A bin of a row in sequence that fails a check (R53). -/
theorem takeBin_reject {c : RowCtx} {col : Int} {n : Nat} (rest : List (Int × Nat)) {r : FigReason}
    (hr : s.binReason c col n s.fig.pos = some r) (hrep : c.replace = false) :
    ∃ h, s.takeBin c col n rest =
      closeBin ((passBin s c n rest).figUnwritable (binTile c col) h s.fig.pos r) c rest := by
  unfold State.takeBin
  extract_lets off id reason h need s1 c' f1 s2 held issued bin f2 s3 s4
  have hneed : need = true := by simp [need, hrep]
  have h4 : s4 = s2.figUnwritable id h off r := by
    simp only [s4, show reason = some r from hr, hneed, if_true]
  rw [h4]
  exact ⟨h, rfl⟩

/-- A bin of a row in sequence that fails no check (R48). -/
theorem takeBin_accept {c : RowCtx} {col : Int} {n : Nat} (rest : List (Int × Nat))
    (hr : s.binReason c col n s.fig.pos = none) (hrep : c.replace = false) :
    ∃ (u : State) (counted : Bool), s.takeBin c col n rest =
        closeBin (u.setTile (binTile c col) { gen := c.gen, pos := s.fig.pos, len := n, writable := true, counted := counted })
          c rest ∧
      u.fig.pos = s.fig.pos + n ∧
      u.fig.held = s.fig.held ++ [{ tile := binTile c col, gen := c.gen, pos := s.fig.pos, len := n }] := by
  unfold State.takeBin
  extract_lets off id reason h need s1 c' f1 s2 held issued bin f2 s3 s4
  have hneed : need = true := by simp [need, hrep]
  have hheld : held = s.fig.held := by simp [held, hrep, s2, f1, s1]
  have h4 : s4 = s3.setTile id { gen := c.gen, pos := off, len := n, writable := true, counted := !issued } := by
    simp only [s4, show reason = none from hr, hneed, if_true]
  rw [h4]
  exact ⟨s3, _, rfl, rfl, congrArg (· ++ [bin]) hheld⟩

/-- A bin that is rejected leaves its tile unwritable and the decoder running (R53, R55). -/
theorem takeBin_reject_state {c : RowCtx} {col : Int} {n : Nat} (rest : List (Int × Nat)) {r : FigReason}
    (hr : s.binReason c col n s.fig.pos = some r) (hrep : c.replace = false) :
    (s.takeBin c col n rest).fig.halted = s.fig.halted ∧ (s.takeBin c col n rest).fig.pos = s.fig.pos + n ∧
      ∃ x, (s.takeBin c col n rest).tile? (binTile c col) = some x ∧ x.writable = false := by
  obtain ⟨h, htake⟩ := takeBin_reject rest hr hrep
  obtain ⟨e, hlog⟩ := figLogReject_fig (s := passBin s c n rest) h s.fig.pos r true false
  rw [htake, closeBin_halted, closeBin_pos, tile?_closeBin]
  unfold State.figUnwritable
  refine ⟨?_, ?_, _, tile?_setTile .., rfl⟩
  · rw [setTile_halted, hlog, passBin_fig]
  · rw [setTile_pos, hlog, passBin_fig]

/-- A bin that is rejected counts its reason's status and its tile (R53). -/
theorem takeBin_reject_counted (hwf : s.regsWf = true) {c : RowCtx} {col : Int} {n : Nat} (rest : List (Int × Nat))
    {r : FigReason} (hr : s.binReason c col n s.fig.pos = some r) (hrep : c.replace = false) {o : Nat}
    (ho : o = figCounter r.status ∨ o = Reg.FIG_UNWRITABLE_COUNT) : Claims.counted s (s.takeBin c col n rest) o 1 := by
  obtain ⟨h, htake⟩ := takeBin_reject rest hr hrep
  obtain ⟨hirq, hlost, hblk⟩ := figCounts_apart ho
  have hreg : (s.takeBin c col n rest).reg o = ((passBin s c n rest).figLogReject h s.fig.pos r true false).reg o := by
    rw [htake, reg_of_regs (closeBin_regs c rest)]
    rfl
  unfold Claims.counted
  rw [hreg, reg_figLogReject (regsWf_passBin hwf c n rest) _ _ _ _ _ hirq hlost, if_pos (by simpa using ho),
    reg_passBin hwf c n rest hblk]

/-- A bin that is taken stands in the queue and is held in the figure ring (R48). -/
theorem takeBin_accept_state {c : RowCtx} {col : Int} {n : Nat} (rest : List (Int × Nat))
    (hr : s.binReason c col n s.fig.pos = none) (hrep : c.replace = false) :
    (s.takeBin c col n rest).fig.pos = s.fig.pos + n ∧
      (∃ x, (s.takeBin c col n rest).tile? (binTile c col) = some x ∧ x.gen = c.gen ∧ x.pos = s.fig.pos ∧ x.len = n ∧
        x.writable = true) ∧
      ({ tile := binTile c col, gen := c.gen, pos := s.fig.pos, len := n } : HeldBin) ∈ (s.takeBin c col n rest).fig.held := by
  obtain ⟨u, counted, htake, hpos, hheld⟩ := takeBin_accept rest hr hrep
  rw [htake, closeBin_pos, tile?_closeBin, closeBin_held, setTile_pos, setTile_held, hpos, hheld]
  exact ⟨rfl, ⟨_, tile?_setTile .., rfl, rfl, rfl, rfl⟩, List.mem_append_right _ (List.mem_singleton_self _)⟩

/-! Records of the stream. -/

/-- An entry that replaces those of its kind in a list, or stands at its end when it has none, is the one found. -/
theorem find?_replace_or_append {α : Type} {l : List α} {p q : α → Bool} {f : α → α} {r : α} (hq : ∀ x, q x = p x)
    (hr : p r = true) (hf : ∀ x, p x = true → f x = r) (hk : ∀ x, p x = false → f x = x) :
    (if l.any q = true then l.map f else l ++ [r]).find? p = some r := by
  obtain rfl : q = p := funext hq
  have hmap : l.any q = true → (l.map f).find? q = some r := by
    induction l with
    | nil => simp
    | cons x t ih =>
      intro h
      cases hx : q x with
      | true => simp [hf x hx, hr]
      | false =>
        rw [List.any_cons, hx, Bool.false_or] at h
        rw [List.map_cons, hk x hx, List.find?_cons_of_neg (by simp [hx]), ih h]
  split
  · exact hmap ‹_›
  · rename_i h
    have hnone : l.find? q = none := by simpa using h
    simp [hnone, hr]

theorem stripeRec_of_fig {u : State} (h : u.fig.stripes = s.fig.stripes) (j : Nat) : u.stripeRec j = s.stripeRec j := by
  unfold State.stripeRec
  rw [h]

theorem rowGen_of_fig {u : State} (h : u.fig.rows = s.fig.rows) (j : Nat) (r : Int) : u.rowGen j r = s.rowGen j r := by
  unfold State.rowGen
  rw [h]

@[simp] theorem stripeRec_settle (s' : State) (j : Nat) : (s'.settle s).stripeRec j = s'.stripeRec j :=
  stripeRec_of_fig (by rw [settle_fig]) j

@[simp] theorem rowGen_settle (s' : State) (j : Nat) (r : Int) : (s'.settle s).rowGen j r = s'.rowGen j r :=
  rowGen_of_fig (by rw [settle_fig]) j r

/-- A STRIPE record of a new generation becomes the stripe's record, and its rows are those that must follow (R36, R56). -/
theorem takeStripe_new {h : KfsHeader} {b : List Byte} (hgen : staleGen h.gen ((s.stripeRec h.stripe).map (·.gen)) = false) :
    (s.takeStripe h b).fig.pos = s.fig.pos ∧ (s.takeStripe h b).fig.expect = .row ∧
      (s.takeStripe h b).stripeRec h.stripe = some (Claims.stripeOf h b) ∧
      (s.takeStripe h b).fig.sending = some
        { desc := Claims.stripeOf h b, rows := (Claims.stripeOf h b).rowList, stale := false } := by
  have hfound := find?_replace_or_append (l := s.fig.stripes) (q := fun x => x.stripe == h.stripe)
    (p := fun x => decide (x.stripe = h.stripe)) (f := fun x => if x.stripe = h.stripe then Claims.stripeOf h b else x)
    (r := Claims.stripeOf h b) (fun x => beq_eq_decide _ _) (decide_eq_true rfl) (fun x hx => if_pos (of_decide_eq_true hx))
    (fun x hx => if_neg (of_decide_eq_false hx))
  simp only [State.takeStripe, hgen, Bool.false_eq_true, if_false]
  exact ⟨trivial, trivial, hfound, trivial⟩

/-! Tile rows. -/

/-- The bins that a TILE_ROW's directory names: column and length (R36). -/
def rowBins (b : List Byte) : List (Int × Nat) :=
  (((List.range 20).map fun i => fieldLE b (4 * i) 4).zipIdx.filter fun p => p.1 ≠ 0).map fun p => ((p.2 : Int) - 2, p.1)

theorem mem_rowBins {b : List Byte} {k n : Nat} (hk : k < 20) (hn : n ≠ 0) :
    ((k : Int) - 2, n) ∈ rowBins b ↔ fieldLE b (4 * k) 4 = n := by
  simp only [rowBins, List.mem_map, List.mem_filter, List.mem_zipIdx_iff_getElem?, List.getElem?_map, Prod.mk.injEq,
    decide_eq_true_eq]
  constructor
  · rintro ⟨⟨l, i⟩, ⟨hl, -⟩, hcol, rfl⟩
    obtain rfl : i = k := by omega
    simpa [List.getElem?_range hk] using hl
  · rintro rfl
    exact ⟨(fieldLE b (4 * k) 4, k), ⟨by simp [List.getElem?_range hk], hn⟩, rfl, rfl⟩

theorem rowBins_ne_nil {b : List Byte} (h : ∃ k, k < 20 ∧ fieldLE b (4 * k) 4 ≠ 0) : rowBins b ≠ [] := by
  obtain ⟨k, hk, hn⟩ := h
  exact List.ne_nil_of_mem ((mem_rowBins hk hn).2 rfl)

/-- Storing the tiles of a row's zero-length bins changes neither the position nor the rows (R62). -/
theorem foldl_setTile_fig {α : Type} (id : α → TileId) (x : α → Tile) (l : List α) (s : State) :
    (l.foldl (fun s p => s.setTile (id p) (x p)) s).fig.pos = s.fig.pos ∧
      (l.foldl (fun s p => s.setTile (id p) (x p)) s).fig.row = s.fig.row ∧
      (l.foldl (fun s p => s.setTile (id p) (x p)) s).fig.rows = s.fig.rows := by
  induction l generalizing s with
  | nil => exact ⟨rfl, rfl, rfl⟩
  | cons p t ih => exact ih (s.setTile (id p) (x p))

/-- The rows with the generation of one of them remembered (R56). -/
def rememberRow (rows : List (Nat × Int × Nat)) (j : Nat) (r : Int) (gen : Nat) : List (Nat × Int × Nat) :=
  if rows.any fun x => x.1 == j && x.2.1 == r then
    rows.map fun (x : Nat × Int × Nat) => if x.1 = j ∧ x.2.1 = r then (x.1, x.2.1, gen) else x
  else rows ++ [(j, r, gen)]

theorem find?_rememberRow (rows : List (Nat × Int × Nat)) (j : Nat) (r : Int) (gen : Nat) :
    (rememberRow rows j r gen).find? (fun x => decide (x.1 = j ∧ x.2.1 = r)) = some (j, r, gen) := by
  refine find?_replace_or_append (fun x => by simp [Bool.beq_eq_decide_eq]) (by simp) (fun x hx => ?_)
    (fun x hx => if_neg (of_decide_eq_false hx))
  have hx := of_decide_eq_true hx
  rw [if_pos hx, hx.1, hx.2]

theorem afterRow_rows (f : Fig) (replace : Bool) : (f.afterRow replace).rows = f.rows := by
  cases replace <;> rfl

/-- A TILE_ROW record in sequence, of a new generation and with a bin in its directory, opens its row (R36, R56). -/
theorem takeRow_new {h : KfsHeader} {b : List Byte} (off : Nat) (hgen : staleGen h.gen (s.rowGen h.stripe h.trow) = false)
    (hrep : h.replace = false) (hsend : s.fig.sending.any (·.stale) = false) (hbins : rowBins b ≠ []) :
    (s.takeRow h off b).fig.pos = off + 112 ∧ (s.takeRow h off b).fig.rows = rememberRow s.fig.rows h.stripe h.trow h.gen ∧
      ∃ e, (s.takeRow h off b).fig.row =
        some { stripe := h.stripe, trow := h.trow, gen := h.gen, replace := h.replace, bins := rowBins b, rowEnd := e } := by
  unfold State.takeRow
  extract_lets lens start stop stale s1 f1 known f2 bins c s2 s3
  have hstale : stale = false := by
    cases hs : s.fig.sending with
    | none => simp [stale, hgen, hs]
    | some x =>
      rw [hs, Option.any_some] at hsend
      simp [stale, hgen, hs, hsend]
  have hrows : s2.fig.rows = rememberRow s.fig.rows h.stripe h.trow h.gen := by
    show rememberRow (s.fig.afterRow h.replace).rows _ _ _ = _
    rw [afterRow_rows]
  obtain ⟨hpos3, hrow3, hrows3⟩ : s3.fig.pos = s2.fig.pos ∧ s3.fig.row = s2.fig.row ∧ s3.fig.rows = s2.fig.rows := by
    rw [show s3 = _ from if_neg (by simp [hrep])]
    exact foldl_setTile_fig ..
  rw [hstale, if_neg Bool.false_ne_true, if_neg (show bins ≠ [] from hbins), hpos3, hrow3, hrows3]
  exact ⟨rfl, hrows, stop, rfl⟩

end Sys2Proof.Proofs
end

section
/-! PROOFS. The verify pass (R34 to R36, R48, R53 to R56, R429): which record is taken or rejected, and the obligations on the
figure stream. -/

namespace Sys2Proof.Proofs

open Sys2Proof Sys2Proof.Machine Sys2Proof.Laws

variable {s : State}

theorem not_halted (h : s.figRuns = true) : s.fig.halted = false := by
  simp only [State.figRuns, Bool.and_eq_true, Bool.not_eq_true'] at h
  exact h.1.2

/-- The command of a record's own type takes the record (R35). -/
theorem verifyAs_own {ty : Nat} (hruns : s.figRuns = true) (hrow : s.fig.row = none) (hdel : s.fig.pos + 16 ≤ s.fig.delivered)
    (hty : (kfsHeader (s.figBytes s.fig.pos 16)).type = ty) : s.verifyAs ty = s.verifyStruct := by
  have hdel : ¬ s.fig.delivered < s.fig.pos + 16 := by omega
  simp [State.verifyAs, hruns, hrow, hdel, hty]

/-- A record whose header fails a check halts the decoder (R53). -/
theorem verifyStruct_reject {h : KfsHeader} {r : FigReason} (hdel : s.fig.pos + 16 ≤ s.fig.delivered)
    (hh : h = kfsHeader (s.figBytes s.fig.pos 16)) (hkey : s.fig.key ≠ none) (hr : s.headerReason h = some r) :
    s.verifyStruct = s.figHalt h s.fig.pos r := by
  obtain ⟨key, hkey⟩ := Option.ne_none_iff_exists'.1 hkey
  have hdel : ¬ s.fig.delivered < s.fig.pos + 16 := by omega
  simp only [State.verifyStruct, hdel, if_false, ← hh, hkey, hr]

/-- A genuine record meets no limit, and none of its checks is lost to the reading of the ring: it is taken (R429). -/
theorem verifyStruct_genuine {h : KfsHeader} (hg : Claims.genuine s h) : s.verifyStruct =
    ((s.figTouch s.fig.pos (32 + h.bodyLen)).takeStruct h s.fig.pos (Claims.figBody s h)).freeRing := by
  obtain ⟨-, -, hh, hdel, hr, hwait, hpoison, hbody, key, hkey, hopen⟩ := hg
  have hdel16 : ¬ s.fig.delivered < s.fig.pos + 16 := by omega
  have hdel' : ¬ s.fig.delivered < s.fig.pos + 32 + h.bodyLen := by omega
  have hbody' : (s.figTouch s.fig.pos (32 + h.bodyLen)).bodyReason h (Claims.figBody s h) = none := by
    rw [← hbody]
    simp only [State.bodyReason, figTouch_fig]
  have hwait' : (h.type == 4 && !h.replace &&
      decide (s.rowsTaken + s.field Reg.FIG_CTRL 31 16 < s.fig.rows.length)) = false := by
    by_contra hw
    simp only [Bool.not_eq_false, Bool.and_eq_true, beq_iff_eq, Bool.not_eq_true', decide_eq_true_eq] at hw
    obtain ⟨⟨htype, hrep⟩, hlt⟩ := hw
    exact Nat.not_lt.2 (hwait htype hrep) hlt
  have hopen' := Option.isNone_eq_false_iff.2 hopen
  simp only [State.verifyStruct, hdel16, if_false, ← hh, hkey, hr, hwait', hdel', decide_false, Bool.or_false, hpoison,
    figTouch_fig, hopen', Bool.false_eq_true, hbody']

/-- The record that a genuine header stands for is taken, and the ring freed up to it (R48). -/
theorem verifyAs_genuine {h : KfsHeader} {ty : Nat} (hg : Claims.genuine s h) (hty : h.type = ty) : s.verifyAs ty =
    ((s.figTouch s.fig.pos (32 + h.bodyLen)).takeStruct h s.fig.pos (Claims.figBody s h)).freeRing := by
  rw [← verifyStruct_genuine hg]
  obtain ⟨hruns, hrow, hh, hdel, -⟩ := hg
  exact verifyAs_own hruns hrow (by omega) (hh ▸ hty)

/-- The verify pass has read the structural record at `off` under header `h` and passed it. -/
def passRecord (s : State) (h : KfsHeader) (off : Nat) : State :=
  { s with fig := { s.fig with pos := off + 32 + h.bodyLen } }

variable {h : KfsHeader}

theorem takeStruct_jobHeader (ht : h.type = 1) (off : Nat) (b : List Byte) :
    (s.takeStruct h off b).fig = { (passRecord s h off).fig with
      expect := .classes, job := some (fieldLE b 16 4, fieldLE b 20 2) } := by
  simp only [State.takeStruct, ht]
  rfl

theorem takeStruct_classTable (ht : h.type = 2) (off : Nat) (b : List Byte) :
    (s.takeStruct h off b).fig = { (passRecord s h off).fig with
      expect := .body, classes := (List.range 16).map fun c => fieldLE b (8 * c) 4 } := by
  simp only [State.takeStruct, ht]
  rfl

theorem takeStruct_stripe (ht : h.type = 3) (off : Nat) (b : List Byte) :
    s.takeStruct h off b = (passRecord s h off).takeStripe h b := by
  simp only [State.takeStruct, ht]
  rfl

theorem takeStruct_row (ht : h.type = 4) (off : Nat) (b : List Byte) :
    s.takeStruct h off b = (passRecord s h off).takeRow h off b := by
  simp only [State.takeStruct, ht]
  rfl

theorem takeStruct_jobEnd (ht : h.type = 6) (off : Nat) (b : List Byte) :
    (s.takeStruct h off b).fig = { (passRecord s h off).fig with ended := true } := by
  simp only [State.takeStruct, ht]
  rfl

/-- A record that is read and passed moves FIG_POS only. -/
theorem passRecord_figTouch_fig (h : KfsHeader) (off n m : Nat) :
    (passRecord (s.figTouch n m) h off).fig = { s.fig with pos := off + 32 + h.bodyLen } := by
  unfold passRecord
  rw [figTouch_fig]

/-- Settles O22: each type's record is read, passed and taken, and what it gives stands in the decoder's state. -/
theorem jobRecordsComplete : Obligations.JobRecordsComplete := by
  intro s h hg
  refine ⟨fun ht => ⟨_, rfl, ?_⟩, fun ht => ⟨_, rfl, ?_⟩, fun ht hgen => ⟨_, rfl, ?_⟩, fun ht => ⟨_, rfl, ?_⟩⟩
  · rw [settle_fig, verifyAs_genuine hg ht, freeRing_pos, freeRing_expect, freeRing_job, takeStruct_jobHeader ht,
      passRecord_figTouch_fig]
    exact ⟨rfl, rfl, rfl⟩
  · rw [settle_fig, verifyAs_genuine hg ht, freeRing_pos, freeRing_expect, freeRing_classes, takeStruct_classTable ht,
      passRecord_figTouch_fig]
    exact ⟨rfl, rfl, fun c hc => by simp [hc]⟩
  · have hgen' : staleGen h.gen
        (((passRecord (s.figTouch s.fig.pos (32 + h.bodyLen)) h s.fig.pos).stripeRec h.stripe).map (·.gen)) = false := by
      rw [stripeRec_of_fig (s := s) (by rw [passRecord_figTouch_fig])]
      exact hgen
    obtain ⟨hpos, hexpect, hrec, hsend⟩ := takeStripe_new (b := Claims.figBody s h) hgen'
    rw [settle_fig, stripeRec_settle, verifyAs_genuine hg ht, takeStruct_stripe ht, freeRing_pos, freeRing_expect,
      stripeRec_freeRing, freeRing_sending]
    exact ⟨hpos, hexpect, hrec, hsend⟩
  · rw [settle_fig, verifyAs_genuine hg ht, freeRing_pos, freeRing_ended, takeStruct_jobEnd ht, passRecord_figTouch_fig]
    exact ⟨rfl, rfl⟩

/-- Settles O23: a row's directory is its list of bins, and a bin that passes its checks stands in the queue. -/
theorem tileRecordsComplete : Obligations.TileRecordsComplete := by
  intro s
  refine ⟨fun h hg ht hgen hrep hsend hbins => ⟨_, rfl, ?_⟩, fun c col n rest hruns hrow hbins hdel hr hrep => ⟨_, rfl, ?_⟩⟩
  · have hfig := passRecord_figTouch_fig (s := s) h s.fig.pos s.fig.pos (32 + h.bodyLen)
    obtain ⟨hpos, hrows, e, hrow⟩ :=
      takeRow_new (s := passRecord (s.figTouch s.fig.pos (32 + h.bodyLen)) h s.fig.pos) s.fig.pos
        (by rw [rowGen_of_fig (s := s) (by rw [hfig])]; exact hgen) hrep (by rw [hfig]; exact hsend) (rowBins_ne_nil hbins)
    rw [settle_fig, rowGen_settle, verifyAs_genuine hg ht, takeStruct_row ht, freeRing_pos, freeRing_row, rowGen_freeRing]
    refine ⟨hpos, ?_, _, hrow, rfl, rfl, rfl, fun k n hk hn => mem_rowBins hk hn⟩
    rw [State.rowGen, hrows, find?_rememberRow]
    rfl
  · obtain ⟨hpos, htile, hheld⟩ := takeBin_accept_state rest hr hrep
    rw [settle_fig, tile?_settle, verifyBin_next hruns hrow hbins hdel]
    exact ⟨hpos, htile, hheld⟩

/-- Settles O24: a pop that no rule drops takes the front entry off the log and nothing else. -/
theorem figErrlogPopCompletes : Obligations.FigErrlogPopCompletes := by
  rintro s v ⟨m, hv⟩ hbit
  refine ⟨_, rfl, ?_⟩
  rw [settle_fig, command_ok hv, if_pos hbit]

/-- Settles O25: whatever the record's type, its command finds the failing header and halts. -/
theorem rejectedRecordHalts : Obligations.RejectedRecordHalts := by
  intro s h r hwf hruns hrow hdel hh hkey hr h1 h6 h5
  have hverify : ∀ ty, h.type = ty → s.verifyAs ty = s.figHalt h s.fig.pos r := fun ty hty => by
    rw [verifyAs_own hruns hrow hdel (hh ▸ hty), verifyStruct_reject hdel hh hkey hr]
  obtain ⟨hirq, hlost, -⟩ := figCounts_apart (.inl rfl : figCounter r.status = figCounter r.status ∨ _)
  have hcount : Claims.counted s ((s.figHalt h s.fig.pos r).settle s) (figCounter r.status) 1 := by
    refine settled_counted (regsWf_figHalt hwf ..) hirq ?_
    unfold Claims.counted
    rw [reg_figHalt, reg_figLogReject hwf _ _ _ _ _ hirq hlost, if_pos (.inl rfl)]
  obtain ⟨e, n, hfig⟩ := figHalt_fig (s := s) h s.fig.pos r
  have hty : h.type = 1 ∨ h.type = 2 ∨ h.type = 3 ∨ h.type = 4 ∨ h.type = 6 := by omega
  refine ⟨(s.figHalt h s.fig.pos r).settle s, ?_, ?_⟩
  · rcases hty with e | e | e | e | e <;> rw [← hverify _ e, e] <;> rfl
  · rw [settle_fig, hfig]
    refine ⟨rfl, rfl, rfl, rfl, rfl, hcount, fun hlen => ?_⟩
    simp [Nat.not_le.2 hlen]

/-- Settles O26: the rejection takes the tile and counts twice, and what halts the decoder is not touched. -/
theorem rejectedBinIsUnwritable : Obligations.RejectedBinIsUnwritable := by
  intro s c col n rest r hwf hruns hrow hbins hdel hr hrep
  have hwf' : (s.takeBin c col n rest).regsWf = true := (rg_takeBin (W := 42500) rfl Rg.refl).wf hwf
  obtain ⟨hhalted, hpos, htile⟩ := takeBin_reject_state rest hr hrep
  have hcount : ∀ o, o = figCounter r.status ∨ o = Reg.FIG_UNWRITABLE_COUNT →
      Claims.counted s ((s.takeBin c col n rest).settle s) o 1 := fun o ho =>
    settled_counted hwf' (figCounts_apart ho).1 (takeBin_reject_counted hwf rest hr hrep ho)
  refine ⟨(s.takeBin c col n rest).settle s, ?_, ?_, ?_, ?_, hcount _ (.inr rfl), hcount _ (.inl rfl)⟩
  · rw [← verifyBin_next hruns hrow hbins hdel]
    rfl
  · rw [settle_fig, hhalted, not_halted hruns]
  · rw [settle_fig, hpos]
  · rw [tile?_settle]
    exact htile

end Sys2Proof.Proofs
end

section
/-! PROOFS. LOAD_JOB_KEY (R37, R38, R275). -/

namespace Sys2Proof.Proofs

open Sys2Proof Sys2Proof.Machine Sys2Proof.Laws

variable {s : State}

/-- A command that does not find the module in a sleeping IDLE starts at once (R5). -/
theorem awake_run (h : Claims.awakeNow s) (f : State → State) : s.awake f = f s := by
  unfold State.awake
  refine if_neg fun hidle => ?_
  rcases h with h | ⟨h1, h2⟩
  · exact h hidle.1
  · exact hidle.2.elim h1 h2

theorem waitOf_setWait (r : Nat) (w : WaitFor) : (s.setWait r w).waitOf r = some w := by
  have hnone : (s.dropWait r).hst.waits.find? (fun x => decide (x.1 = r)) = none := by
    simp [State.dropWait, List.find?_eq_none]
  simp only [State.waitOf, State.setWait, List.find?_append, hnone]
  simp

theorem waitOf_of_waits {t : State} (e : t.hst.waits = s.hst.waits) (r : Nat) : t.waitOf r = s.waitOf r := by
  unfold State.waitOf
  rw [e]

theorem linkReady_of {t : State} (hb : t.hst.bme = s.hst.bme) (hw : t.hst.width = s.hst.width) (hp : t.pwr = s.pwr) :
    t.linkReady = s.linkReady := by
  unfold State.linkReady State.domOn
  rw [hb, hw, hp]

/-- A job key that is installed restarts the decoder (R38). -/
theorem installKey_fig (b key : List Byte) : ∃ log, (s.installKey b key).fig =
    { key := some key, jobId := fieldLE b 16 8, salt := fieldLE b 24 4, errlog := log } := ⟨_, rfl⟩

theorem answer_fig (r st d res : Nat) : (s.answer r st d res).fig = s.fig :=
  ((fr_answer (W := 41943048) rfl Fr.refl).fig).resolve_left (by decide)

/-- In READY a well-formed LOAD_JOB_KEY passes the checks of R263 and goes on to its key block. -/
theorem execLoadJobKey_ready {ring : Nat} {e : CurEntry} {b : List Byte} (hfront : Claims.front s ring 0x01 none e)
    (hformat : loadKeyFormat e = none) (hmode : s.glb.mode = .ready) (hawake : Claims.awakeNow s) (hlen : b.length = 88) :
    exec (.loadJobKey ring (.data b)) s = finish s (s.useKeyBlock ring (.data b)) := by
  obtain ⟨hcmd, hclean, hfree⟩ := hfront
  have hfits : keyBlockFits (.data b) = true := beq_iff_eq.2 hlen
  show execLoadJobKey ring (.data b) s = _
  unfold execLoadJobKey
  rw [hcmd]
  dsimp only
  rw [hformat, checked_run hclean (by simp [hmode]) (by simp) hfree, if_pos hfits, awake_run hawake]

theorem useKeyBlock_install {ring : Nat} {b key : List Byte}
    (hunwrap : unwrapBlock s.glb.kwk s.glb.kwkId.toNat 1 b = some key) (hidle : s.h2fFlying = false) :
    s.useKeyBlock ring (.data b) = (s.installKey b key).answer ring Stat.ok 0 0 := by
  simp only [State.useKeyBlock, hunwrap, hidle, Bool.false_eq_true, if_false]

theorem useKeyBlock_wait {ring : Nat} {b key : List Byte}
    (hunwrap : unwrapBlock s.glb.kwk s.glb.kwkId.toNat 1 b = some key) (hfly : s.h2fFlying = true) :
    s.useKeyBlock ring (.data b) = s.setWait ring (.loadKey (.data b)) := by
  simp only [State.useKeyBlock, hunwrap, hfly, if_true]

/-- Installing a key takes no part of the ring that asked for it. -/
theorem cur_installKey_answer (hrings : s.ringsWf = true) {ring : Nat} {e : CurEntry} {b key : List Byte} {st d res : Nat}
    (hring : isCmdRing ring = true) (hcur : (s.ring ring).cur = some e) (hlink : s.linkReady = true) :
    (((s.installKey b key).answer ring st d res).ring ring).cur = none := by
  have hfr : Fr 106240 s (s.installKey b key) := fr_installKey rfl Fr.refl
  have hrings' : (s.installKey b key).hst.rings = s.hst.rings := hfr.rings.resolve_left (by decide)
  obtain ⟨hwidth, hbme⟩ := hfr.conf.resolve_left (by decide)
  have hpwr := hfr.pwr.resolve_left (by decide)
  exact cur_answer (ringsWf_of_rings hrings hrings') hring ((linkReady_of hbme hwidth hpwr).trans hlink)
    ((congrArg Ring.cur (ring_of_rings hrings' ring)).trans hcur)

/-- Settles O7: past the checks the key block unwraps, and what follows turns on the H2F descriptors in flight. -/
theorem loadJobKeyCompletes : Obligations.LoadJobKeyCompletes := by
  intro s ring e b key hregs hrings hfront hformat hmode hawake hlen hunwrap
  obtain ⟨hring, hcur, hlink, -⟩ := command_spec hfront.1
  rw [execLoadJobKey_ready hfront hformat hmode hawake hlen]
  refine ⟨fun hidle => ?_, fun hfly => ?_⟩
  · obtain ⟨log, hfig⟩ := installKey_fig (s := s) b key
    refine ⟨_, rfl, ?_⟩
    rw [useKeyBlock_install hunwrap hidle, settle_fig, settle_ring, answer_fig, hfig]
    exact ⟨rfl, rfl, rfl, rfl, rfl, cur_installKey_answer hrings hring hcur hlink⟩
  · refine ⟨_, rfl, ?_⟩
    rw [useKeyBlock_wait hunwrap hfly, settle_fig, waitOf_of_waits (settle_waits ..)]
    exact ⟨rfl, waitOf_setWait ..⟩

end Sys2Proof.Proofs
end

section
/-! PROOFS. The statements on the figure stream at concrete states. A record's tag stands in them as the term that computes it
(R39): nothing here runs the cipher. -/

namespace Sys2Proof.Proofs

open Sys2Proof Sys2Proof.Machine Sys2Proof.Laws

variable {s : State}

/-! Local memory without a fault delivers what it stores (R292, R304). -/

/-- The bytes of a number are those it was formed of. -/
theorem byte_leNat (bs : List Byte) (i : Nat) : BitVec.ofNat 8 (leNat bs / 2 ^ (8 * i)) = bs.getD i 0 := by
  induction bs generalizing i with
  | nil => simp [leNat]
  | cons b t ih =>
    cases i with
    | zero =>
      refine BitVec.eq_of_toNat_eq ?_
      have := b.isLt
      simp [leNat]
      omega
    | succ i =>
      rw [show 2 ^ (8 * (i + 1)) = 256 * 2 ^ (8 * i) by rw [show 8 * (i + 1) = 8 + 8 * i by ring, pow_add]; rfl,
        ← Nat.div_div_eq_div_mul, show leNat (b :: t) / 256 = leNat t by have := b.isLt; simp [leNat]; omega, ih]
      rfl

theorem classed_sound (n : Nat) : (classed n false 0 0).data = n := by
  unfold classed
  rw [show eccClass (eccSyndrome false 0 0) = .clean by decide]
  exact Nat.xor_zero n

/-- Without flips, marks and lost words a word reads as it is stored. -/
theorem wordAt_sound (hflips : s.dram.flips = []) (hmarks : s.dram.marks = []) (hunbacked : s.dram.unbacked = [])
    (hsweeps : s.dram.sweeps = []) {n : Nat} (hregion : s.regionAt (8 * n) ≠ .reserve) :
    (s.wordAt n).data = s.dram.wordRaw n := by
  have hlost : s.dram.lostWord n = false := by simp [Dram.lostWord, hunbacked, hsweeps]
  simp only [State.wordAt, hregion, if_false, Dram.readWord, hlost, Bool.false_eq_true, hflips, hmarks, smGet,
    List.contains_nil, classed_sound]

theorem bytesAt_sound (hflips : s.dram.flips = []) (hmarks : s.dram.marks = []) (hunbacked : s.dram.unbacked = [])
    (hsweeps : s.dram.sweeps = []) {a n : Nat} (hregion : ∀ i < n, s.regionAt (8 * ((a + i) / 8)) ≠ .reserve) :
    s.bytesAt a n = (List.range n).map fun i => s.dram.byte (a + i) := by
  refine List.map_congr_left fun i hi => ?_
  dsimp only
  rw [wordAt_sound hflips hmarks hunbacked hsweeps (hregion i (List.mem_range.1 hi)), Dram.wordRaw, byte_leNat]
  have hlt : (a + i) % 8 < 8 := Nat.mod_lt _ (by decide)
  rw [List.getD_eq_getElem?_getD, List.getElem?_map, List.getElem?_range hlt]
  simp [Nat.div_add_mod]

theorem poisonedWord_sound (hflips : s.dram.flips = []) (hmarks : s.dram.marks = []) (hunbacked : s.dram.unbacked = [])
    (hsweeps : s.dram.sweeps = []) (n : Nat) : s.poisonedWord n = false := by
  have hclass : s.dram.wordClass n = .clean := by
    have hlost : s.dram.lostWord n = false := by simp [Dram.lostWord, hunbacked, hsweeps]
    simp only [Dram.wordClass, hlost, Bool.false_eq_true, if_false, hflips, hmarks, smGet, List.contains_nil]
    decide
  simp [State.poisonedWord, hclass]

theorem figPoison_sound (hflips : s.dram.flips = []) (hmarks : s.dram.marks = []) (hunbacked : s.dram.unbacked = [])
    (hsweeps : s.dram.sweeps = []) (off n : Nat) : s.figPoison off n = false := by
  simp [State.figPoison, State.poisonIn, poisonedWord_sound hflips hmarks hunbacked hsweeps]

theorem smGet_cellsFrom (f : Nat → Byte) (a i : Nat) (bs : List Byte) :
    smGet f (cellsFrom f a bs) (a + i) = bs.getD i (f (a + i)) := by
  induction bs generalizing a i with
  | nil => rfl
  | cons b t ih =>
    unfold cellsFrom
    cases i with
    | zero =>
      split
      · rename_i hb
        rw [smGet_below (cellsFrom_wf t (a + 1)).1 (by omega), List.getD_cons_zero, hb]
        rfl
      · simp [smGet]
    | succ i =>
      rw [show a + (i + 1) = a + 1 + i by omega, List.getD_cons_succ, ← ih]
      split
      · rfl
      · rw [smGet, if_neg (by omega), if_neg (by omega)]

/-! The figure ring of a state that holds a record. -/

/-- After reset, with the decoder enabled. -/
def enabledFig : State := State.reset.setReg Reg.FIG_CTRL 1

/-- The same in READY with the decoder's state `f`, and `bs` at the start of the figure ring. -/
def decoding (f : Fig) (bs : List Byte) : State :=
  { enabledFig with
    glb := { State.reset.glb with mode := .ready }
    fig := f
    dram := { State.reset.dram with cells := cellsFrom (fun _ => 0) 62277025792 bs } }

theorem regsWf_decoding (f : Fig) (bs : List Byte) : (decoding f bs).regsWf = true :=
  regsWf_setReg State.reset reset_regsWf Reg.FIG_CTRL 1

theorem figBytes_decoding (f : Fig) {bs : List Byte} {n : Nat} (hn : n ≤ 128) (hlen : n ≤ bs.length) :
    (decoding f bs).figBytes 0 n = bs.take n := by
  have hregion : ∀ j < 16, enabledFig.regionAt (8 * (7784628224 + j)) ≠ .reserve := by decide
  have hparts : (decoding f bs).figParts 0 n = [(62277025792, n)] := by
    have hsize : enabledFig.figSize = 2 ^ 34 := by decide
    have haddr : enabledFig.figAddr 0 = 62277025792 := by decide
    show (if n ≤ enabledFig.figSize - 0 % enabledFig.figSize then [(enabledFig.figAddr 0, n)] else _) = _
    rw [hsize, haddr]
    exact if_pos (by omega)
  have hread : (decoding f bs).bytesAt 62277025792 n =
      (List.range n).map fun i => (decoding f bs).dram.byte (62277025792 + i) := by
    refine bytesAt_sound rfl rfl rfl rfl fun i hi => ?_
    rw [show (62277025792 + i) / 8 = 7784628224 + i / 8 by omega]
    exact hregion (i / 8) (by omega)
  rw [State.figBytes, hparts, List.flatMap_cons, List.flatMap_nil, List.append_nil, hread]
  refine List.ext_getElem (by simp [hlen]) fun i h1 h2 => ?_
  have hi : i < bs.length := by simp at h2; omega
  rw [List.getElem_map, List.getElem_range, List.getElem_take]
  exact (smGet_cellsFrom _ _ _ _).trans (List.getD_eq_getElem _ _ hi)

theorem figBytes_decoding_head (f : Fig) {a : List Byte} (b c : List Byte) (ha : a.length = 16) :
    (decoding f (a ++ b ++ c)).figBytes 0 16 = a := by
  rw [figBytes_decoding f (by decide) (by simp only [List.length_append]; omega), List.append_assoc, ← ha, List.take_left]

theorem slice_mid (a b c : List Byte) {i n : Nat} (hi : a.length = i) (hn : b.length = n) :
    slice (a ++ b ++ c) i n = b := by
  subst hi hn
  simp [slice]

theorem slice_first (a b c : List Byte) {n : Nat} (hn : a.length = n) : slice (a ++ b ++ c) 0 n = a := by
  rw [List.append_assoc]
  exact slice_mid [] a _ rfl hn

theorem slice_last (a b c : List Byte) {i n : Nat} (hi : a.length + b.length = i) (hn : c.length = n) :
    slice (a ++ b ++ c) i n = c := by
  rw [← List.append_nil (a ++ b ++ c)]
  exact slice_mid (a ++ b) c [] (List.length_append.trans hi) hn

/-- Data opens under the tag that is computed for it (R39). -/
theorem gcmOpen_gcmTag (key iv aad ct : List Byte) :
    gcmOpen key iv aad ct (gcmTag key iv aad ct) = some (gcmCrypt key iv ct) := if_pos rfl

theorem gcmTag_length (iv aad ct : List Byte) : (gcmTag [] iv aad ct).length = 16 := rfl

/-- A structural record under the empty key and salt 0: header, body and the tag over both (R39). -/
def sealedRecord (hdr body : List Byte) : List Byte :=
  hdr ++ body ++ gcmTag [] (kfsNonce 0 (kfsHeader hdr)) (hdr ++ body) []

/-- A sealed record whose header and body pass their checks is genuine. -/
theorem genuine_sealedRecord {f : Fig} {hdr body : List Byte} (hhdr : hdr.length = 16)
    (hbody : body.length = (kfsHeader hdr).bodyLen) (hlen : body.length ≤ 96)
    (hruns : (decoding f (sealedRecord hdr body)).figRuns = true) (hrow : f.row = none) (hpos : f.pos = 0)
    (hkey : f.key = some []) (hsalt : f.salt = 0) (hrows : f.rows = []) (hdel : 32 + body.length ≤ f.delivered)
    (hheader : (decoding f (sealedRecord hdr body)).headerReason (kfsHeader hdr) = none)
    (hreason : (decoding f (sealedRecord hdr body)).bodyReason (kfsHeader hdr) body = none) :
    Claims.genuine (decoding f (sealedRecord hdr body)) (kfsHeader hdr) ∧
      Claims.figBody (decoding f (sealedRecord hdr body)) (kfsHeader hdr) = body := by
  have htag := gcmTag_length (kfsNonce 0 (kfsHeader hdr)) (hdr ++ body) []
  have hlength : (sealedRecord hdr body).length = 32 + body.length := by
    simp only [sealedRecord, List.length_append, hhdr, htag]
    omega
  have hpos' : (decoding f (sealedRecord hdr body)).fig.pos = 0 := hpos
  have hall : (decoding f (sealedRecord hdr body)).figBytes 0 (32 + (kfsHeader hdr).bodyLen) = sealedRecord hdr body := by
    rw [← hbody, figBytes_decoding f (by omega) (by omega), ← hlength, List.take_length]
  have hhead : (decoding f (sealedRecord hdr body)).figBytes 0 16 = hdr := figBytes_decoding_head f body _ hhdr
  have hfig : Claims.figBody (decoding f (sealedRecord hdr body)) (kfsHeader hdr) = body := by
    rw [Claims.figBody, hpos', hall]
    exact slice_mid hdr body _ hhdr hbody
  refine ⟨⟨hruns, hrow, ?_, ?_, hheader, ?_, ?_, ?_, [], hkey, ?_⟩, hfig⟩
  · rw [hpos', hhead]
  · rw [hpos', ← hbody]
    exact hdel
  · intro _ _
    simp [decoding, hrows]
  · exact figPoison_sound rfl rfl rfl rfl _ _
  · rw [hfig]
    exact hreason
  · have haad : slice (sealedRecord hdr body) 0 (16 + (kfsHeader hdr).bodyLen) = hdr ++ body :=
      slice_mid [] (hdr ++ body) _ rfl (by rw [List.length_append, hhdr, hbody])
    have htag' : slice (sealedRecord hdr body) (16 + (kfsHeader hdr).bodyLen) 16 =
        gcmTag [] (kfsNonce 0 (kfsHeader hdr)) (hdr ++ body) [] :=
      slice_last hdr body _ (by rw [hhdr, hbody]) htag
    rw [hpos', hall, haad, htag']
    show (gcmOpen [] (kfsNonce f.salt _) _ _ _).isSome = true
    rw [hsalt, gcmOpen_gcmTag]
    rfl

theorem xorBytes_xorBytes (a k : List Byte) (h : a.length ≤ k.length) : xorBytes (xorBytes a k) k = a := by
  induction a generalizing k with
  | nil => rfl
  | cons b t ih =>
    cases k with
    | nil => simp at h
    | cons x k =>
      have hb : b ^^^ x ^^^ x = b := by rw [BitVec.xor_assoc, BitVec.xor_self, BitVec.xor_zero]
      simpa [xorBytes, hb] using ih k (by simpa using h)

/-! The statements at these states. -/

/-- The header and body of a JOB_END of a job without stripes, and the decoder that meets it. -/
def endHeader : List Byte := [6, 0, 0, 0, 16, 0, 0, 0, 255, 255, 0, 0, 0, 0, 0, 0]
def endBody : List Byte := List.replicate 16 0
def endFig : Fig := { key := some [], expect := .body, delivered := 48 }

theorem jobRecordsComplete_witness : ∃ t, exec .verifyJobEnd (decoding endFig (sealedRecord endHeader endBody)) = .next t ∧
    t.fig.pos = 48 ∧ t.fig.ended = true := by
  obtain ⟨hg, -⟩ := genuine_sealedRecord (f := endFig) (hdr := endHeader) (body := endBody) rfl rfl (by decide) (by decide)
    rfl rfl rfl rfl rfl (by decide) (by decide) (by decide)
  obtain ⟨-, -, -, hend⟩ := jobRecordsComplete _ _ hg
  exact hend rfl

/-- A TILE_ROW of row 0 of stripe 0 whose directory names a bin of 41 bytes in column -2, and the decoder that meets it. -/
def rowHeader : List Byte := [4, 0, 0, 0, 80, 0, 0, 0, 0, 0, 0, 0, 0, 0, 0, 0]
def rowBody : List Byte := 41 :: List.replicate 79 0
def rowFig : Fig :=
  { key := some [], expect := .row, delivered := 112,
    sending := some { desc := { stripe := 0, gen := 0, down := false, s0 := 0, len := 1 }, rows := [0], stale := false } }

theorem tileRecordsComplete_witness_row : ∃ t, exec .verifyTileRow (decoding rowFig (sealedRecord rowHeader rowBody)) = .next t ∧
    t.fig.pos = 112 ∧ t.rowGen 0 0 = some 0 ∧ ∃ c, t.fig.row = some c ∧ ((-2, 41) : Int × Nat) ∈ c.bins := by
  obtain ⟨hg, hbody⟩ := genuine_sealedRecord (f := rowFig) (hdr := rowHeader) (body := rowBody) rfl rfl (by decide) (by decide)
    rfl rfl rfl rfl rfl (by decide) (by decide) (by decide)
  obtain ⟨hrow, -⟩ := tileRecordsComplete (decoding rowFig (sealedRecord rowHeader rowBody))
  obtain ⟨t, ht, hpos, hgen, c, hc, -, -, -, hbins⟩ :=
    hrow _ hg rfl (by decide) (by decide) (by decide) ⟨0, by decide, by rw [hbody]; decide⟩
  exact ⟨t, ht, hpos, hgen, c, hc, (hbins 0 41 (by decide) (by decide)).2 (by rw [hbody]; decide)⟩

/-- A bin of one record that sets class 0: its header, its plaintext, and the bin as it stands in the ring. -/
def binHead : List Byte := [5, 0, 0, 0, 9, 0, 0, 0, 0, 0, 0, 0, 0, 0, 0, 0]
def binPlain : List Byte := [1, 0, 0, 0, 0, 0, 0, 0, 0x60]
def binCipher : List Byte := gcmCrypt [] (kfsNonce 0 (kfsHeader binHead)) binPlain
def binBytes : List Byte := binHead ++ binCipher ++ gcmTag [] (kfsNonce 0 (kfsHeader binHead)) binHead binCipher
def binRow : RowCtx := { stripe := 0, trow := 0, gen := 0, replace := false, bins := [(0, 41)], rowEnd := 41 }
def binFig : Fig := { key := some [], classes := [1], delivered := 41, row := some binRow }

theorem binCipher_opens : gcmOpen [] (kfsNonce 0 (kfsHeader binHead)) binHead binCipher
    (gcmTag [] (kfsNonce 0 (kfsHeader binHead)) binHead binCipher) = some binPlain := by
  rw [gcmOpen_gcmTag]
  exact congrArg some (xorBytes_xorBytes binPlain _ (by decide))

theorem binReason_witness : (decoding binFig binBytes).binReason binRow 0 41 0 = none := by
  have htag := gcmTag_length (kfsNonce 0 (kfsHeader binHead)) binHead binCipher
  have hlen : binBytes.length = 41 := rfl
  have hhead : (decoding binFig binBytes).figBytes 0 16 = binHead := figBytes_decoding_head _ binCipher _ rfl
  have hall : (decoding binFig binBytes).figBytes 0 41 = binBytes := by
    rw [figBytes_decoding _ (by decide) (by rw [hlen]), ← hlen, List.take_length]
  have haad : slice binBytes 0 16 = binHead := slice_first binHead binCipher _ rfl
  have hct : slice binBytes 16 (kfsHeader binHead).bodyLen = binCipher := slice_mid binHead binCipher _ rfl rfl
  have htag' : slice binBytes (16 + (kfsHeader binHead).bodyLen) 16 =
      gcmTag [] (kfsNonce 0 (kfsHeader binHead)) binHead binCipher := slice_last binHead binCipher _ rfl htag
  have hopen : gcmOpen [] (kfsNonce 0 (kfsHeader binHead)) (slice binBytes 0 16)
      (slice binBytes 16 (kfsHeader binHead).bodyLen) (slice binBytes (16 + (kfsHeader binHead).bodyLen) 16) =
        some binPlain := by
    rw [haad, hct, htag', binCipher_opens]
  have hpoison : (decoding binFig binBytes).figPoison 0 41 = false := figPoison_sound rfl rfl rfl rfl 0 41
  have hfig : (decoding binFig binBytes).fig = binFig := rfl
  have hkey : binFig.key = some [] := rfl
  have hsalt : binFig.salt = 0 := rfl
  unfold State.binReason
  simp only [hhead, hall, hfig, hkey, hsalt, hopen, hpoison]
  decide

theorem tileRecordsComplete_witness_bin : ∃ t, exec .verifyTileBin (decoding binFig binBytes) = .next t ∧ t.fig.pos = 41 ∧
    ∃ x, t.tile? { stripe := 0, trow := 0, tcol := 0 } = some x ∧ x.writable = true := by
  obtain ⟨-, hbin⟩ := tileRecordsComplete (decoding binFig binBytes)
  obtain ⟨t, ht, hpos, ⟨x, hx, -, -, -, hw⟩, -⟩ :=
    hbin binRow 0 41 [] rfl rfl rfl (by decide) binReason_witness rfl
  exact ⟨t, ht, hpos, x, hx, hw⟩

/-- A log of two entries, of which a pop leaves the second. -/
theorem figErrlogPopCompletes_witness :
    ∃ t, exec (.figErrlogPop 1) (decoding { errlog := [[1], [2]] } []) = .next t ∧ t.fig.errlog = [[2]] := by
  obtain ⟨t, ht, hfig⟩ := figErrlogPopCompletes (decoding { errlog := [[1], [2]] } []) 1 ⟨1, by decide⟩ (by decide)
  exact ⟨t, ht, by rw [hfig]; rfl⟩

/-- A JOB_HEADER whose STRIPE field is 0, which Table 2.2 does not allow. -/
def badHead : List Byte := 1 :: List.replicate 15 0
def badState : State := decoding { key := some [], delivered := 16 } badHead

theorem rejectedRecordHalts_witness : ∃ t, exec .verifyJobHeader badState = .next t ∧
    t.fig.halted = true ∧ t.fig.reason = 2 ∧ t.reg Reg.FIG_FORMAT_COUNT = 1 := by
  obtain ⟨t, ht, hhalt, hreason, -, -, -, hcount, -⟩ :=
    rejectedRecordHalts badState (kfsHeader badHead) .badHeader (regsWf_decoding _ _) (by decide) rfl (by decide) (by decide)
      (by decide) (by decide) (by decide) (by decide) (by decide)
  exact ⟨t, ht, hhalt, hreason, hcount.trans (by decide)⟩

/-- A row whose bin is too short for a record (Table 2.10, BIN_SHORT). -/
def shortRow : RowCtx := { stripe := 0, trow := 0, gen := 0, replace := false, bins := [(0, 40)], rowEnd := 40 }
def shortState : State := decoding { delivered := 40, row := some shortRow } []

theorem rejectedBinIsUnwritable_witness : ∃ t, exec .verifyTileBin shortState = .next t ∧
    t.fig.halted = false ∧ t.fig.pos = 40 ∧ t.reg Reg.FIG_UNWRITABLE_COUNT = 1 := by
  obtain ⟨t, ht, hrun, hpos, -, hcount, -⟩ :=
    rejectedBinIsUnwritable shortState shortRow 0 40 [] .binShort (regsWf_decoding _ _) (by decide) rfl rfl (by decide)
      (by decide) rfl
  exact ⟨t, ht, hrun, hpos, hcount.trans (by decide)⟩

/-- The LOAD_JOB_KEY entry of address 0, at the front of command ring 128 after reset. -/
def keyEntry : CurEntry := { bytes := 1 :: List.replicate 63 0, order := 0 }
def keyState : State :=
  { decoding {} [] with hst := { rings := [(128, { enabled := true, cur := some keyEntry })], bme := true } }

/-- A key block under the wrapping key after reset. -/
def keyHead : List Byte := 1 :: List.replicate 39 0
def keyCipher : List Byte := List.replicate 32 0
def keyBlock : List Byte := keyHead ++ keyCipher ++ gcmTag State.reset.glb.kwk (List.replicate 12 0) keyHead keyCipher

theorem keyBlock_unwraps : (unwrapBlock State.reset.glb.kwk State.reset.glb.kwkId.toNat 1 keyBlock).isSome = true := by
  have htag : (gcmTag State.reset.glb.kwk (List.replicate 12 0) keyHead keyCipher).length = 16 := rfl
  have hiv : slice keyBlock 28 12 = List.replicate 12 0 := rfl
  have haad : slice keyBlock 0 40 = keyHead := slice_first keyHead keyCipher _ rfl
  have hct : slice keyBlock 40 32 = keyCipher := slice_mid keyHead keyCipher _ rfl rfl
  have htag' : slice keyBlock 72 16 = gcmTag State.reset.glb.kwk (List.replicate 12 0) keyHead keyCipher :=
    slice_last keyHead keyCipher _ rfl htag
  rw [unwrapBlock, if_pos ⟨rfl, rfl, rfl⟩, hiv, haad, hct, htag', gcmOpen_gcmTag]
  rfl

theorem loadJobKeyCompletes_witness : ∃ t key, exec (.loadJobKey 128 (.data keyBlock)) keyState = .next t ∧
    t.fig.key = some key ∧ (t.ring 128).cur = none := by
  obtain ⟨key, hkey⟩ := Option.isSome_iff_exists.1 keyBlock_unwraps
  obtain ⟨hinstall, -⟩ := loadJobKeyCompletes keyState 128 keyEntry keyBlock key (regsWf_decoding {} [])
    (by decide) ⟨by decide, by decide, by decide⟩ (by decide) rfl (.inl (by decide)) rfl hkey
  obtain ⟨t, ht, hk, -, -, -, -, hcur⟩ := hinstall (by decide)
  exact ⟨t, key, ht, hk, hcur⟩

end Sys2Proof.Proofs
end

section
/-! PROOFS. The weavers' faults (R83 to R85, R88): what giving back a pass, a suspect count and a retirement change, and the
obligation on them. -/

namespace Sys2Proof.Proofs

open Sys2Proof Sys2Proof.Machine Sys2Proof.Laws

variable {s : State}

/-! Weavers by their number. -/

theorem weaver_of_weavers {t : State} (h : t.wvr.weavers = s.wvr.weavers) (v : Nat) : t.weaver v = s.weaver v := by
  unfold State.weaver
  rw [h]

theorem weaver_modWeaver {w : Nat} (f : Weaver → Weaver) (h : w < s.wvr.weavers.length) :
    (s.modWeaver w f).weaver w = f (s.weaver w) := by
  unfold State.weaver State.modWeaver
  simp [List.getD, h]

theorem weaver_modWeaver_ne {w v : Nat} (f : Weaver → Weaver) (h : v ≠ w) : (s.modWeaver w f).weaver v = s.weaver v := by
  unfold State.weaver State.modWeaver
  simp [List.getD, h.symm]

@[simp] theorem length_modWeaver (w : Nat) (f : Weaver → Weaver) :
    (s.modWeaver w f).wvr.weavers.length = s.wvr.weavers.length := List.length_modify ..

@[simp] theorem withyChange_wvr (kind action subject value : Nat) : (s.withyChange kind action subject value).wvr = s.wvr :=
  ((fr_withyChange Fr.refl : Fr 0 s _).wvr).resolve_left (by decide)

@[simp] theorem weaver_withyChange (kind action subject value v : Nat) :
    (s.withyChange kind action subject value).weaver v = s.weaver v := weaver_of_weavers (by rw [withyChange_wvr]) v

@[simp] theorem weaver_raise (x : Src) (v : Nat) : (s.raise x).weaver v = s.weaver v :=
  weaver_of_weavers (by rw [raise_wvr]) v

@[simp] theorem weaver_settle (s0 : State) (v : Nat) : (s.settle s0).weaver v = s.weaver v :=
  weaver_of_weavers (by rw [settle_wvr]) v

@[simp] theorem weaver_bump (off v : Nat) : (s.bump off).weaver v = s.weaver v := rfl

/-- Only a weaver that exists is the SPARE of a skein. -/
theorem lt_length_of_spare {v : Nat} (h : (s.weaver v).st = .spare) : v < s.wvr.weavers.length := by
  by_contra hv
  simp [State.weaver, List.getD, List.getElem?_eq_none (Nat.le_of_not_lt hv)] at h

/-! The SPARE of a skein. -/

theorem spareOf_spare {k x : Nat} (h : s.spareOf k = some x) : (s.weaver x).st = .spare :=
  of_decide_eq_true (List.find?_some (p := fun w => decide ((s.weaver w).st = .spare)) h)

theorem spare_ne_working {w k x : Nat} (hst : (s.weaver w).st = .working) (hx : s.spareOf k = some x) : x ≠ w := by
  rintro rfl
  simp [spareOf_spare hx] at hst

theorem spareOf_congr {t : State} (h : ∀ v, (t.weaver v).st = .spare ↔ (s.weaver v).st = .spare) (k : Nat) :
    t.spareOf k = s.spareOf k := by
  unfold State.spareOf
  simp only [h]

/-! Giving back a pass (R83). -/

/-- Of the weavers a pass that is given back leaves all but its own. -/
theorem giveBack_weavers {w : Nat} {p : Pass} (avoid : List Nat) (hp : (s.weaver w).pass = some p) :
    (s.giveBack w avoid).wvr.weavers = (s.modWeaver w fun v => { v with pass := none }).wvr.weavers := by
  unfold State.giveBack
  rw [hp]
  obtain ⟨kind, pixel, tile, pos, len, work, sample⟩ := p
  cases kind <;> cases sample <;> rfl

theorem giveBack_free {w : Nat} (avoid : List Nat) (hp : (s.weaver w).pass = none) : s.giveBack w avoid = s := by
  unfold State.giveBack
  rw [hp]

theorem length_giveBack (w : Nat) (avoid : List Nat) :
    (s.giveBack w avoid).wvr.weavers.length = s.wvr.weavers.length := by
  cases hp : (s.weaver w).pass with
  | none => rw [giveBack_free avoid hp]
  | some p => rw [giveBack_weavers avoid hp, length_modWeaver]

theorem weaver_giveBack {w : Nat} (avoid : List Nat) (h : w < s.wvr.weavers.length) :
    (s.giveBack w avoid).weaver w = { s.weaver w with pass := none } := by
  cases hp : (s.weaver w).pass with
  | none => rw [giveBack_free avoid hp, ← hp]
  | some p => rw [weaver_of_weavers (giveBack_weavers avoid hp), weaver_modWeaver _ h]

theorem weaver_giveBack_ne {w v : Nat} (avoid : List Nat) (h : v ≠ w) : (s.giveBack w avoid).weaver v = s.weaver v := by
  cases hp : (s.weaver w).pass with
  | none => rw [giveBack_free avoid hp]
  | some p => rw [weaver_of_weavers (giveBack_weavers avoid hp), weaver_modWeaver_ne _ h]

theorem rg_giveBack_none (w : Nat) (avoid : List Nat) : Rg 0 s (s.giveBack w avoid) := rg_giveBack Rg.refl

theorem regsWf_giveBack (hwf : s.regsWf = true) (w : Nat) (avoid : List Nat) : (s.giveBack w avoid).regsWf = true :=
  (rg_giveBack_none w avoid).wf hwf

/-- Giving back a pass writes no register. -/
theorem reg_giveBack (hwf : s.regsWf = true) (w : Nat) (avoid : List Nat) (o : Nat) :
    (s.giveBack w avoid).reg o = s.reg o :=
  ((rg_giveBack_none w avoid).reg hwf o).resolve_left (by simp)

/-! Retirement (R84, R85). -/

/-- The spare of a skein that weaves nothing is promoted by its state alone. -/
theorem promote_free {x : Nat} (hp : (s.weaver x).pass = none) : s.promote x = s.modWeaver x fun v => { v with st := .working } := by
  unfold State.promote
  rw [hp]

/-- A weaver of which the pass is given back and which is out of use. -/
def withdrawn (s : State) (w : Nat) : State := (s.giveBack w []).modWeaver w fun v => { v with st := .retired }

theorem weaver_withdrawn {w : Nat} (h : w < s.wvr.weavers.length) :
    (withdrawn s w).weaver w = { s.weaver w with pass := none, st := .retired } := by
  unfold withdrawn
  rw [weaver_modWeaver _ (by rwa [length_giveBack]), weaver_giveBack [] h]

theorem weaver_withdrawn_ne {w v : Nat} (h : v ≠ w) : (withdrawn s w).weaver v = s.weaver v := by
  unfold withdrawn
  rw [weaver_modWeaver_ne _ h, weaver_giveBack_ne [] h]

/-- A WORKING weaver's withdrawal leaves every skein its spare. -/
theorem spareOf_withdrawn {w : Nat} (h : w < s.wvr.weavers.length) (hst : (s.weaver w).st = .working) (k : Nat) :
    (withdrawn s w).spareOf k = s.spareOf k := by
  refine spareOf_congr (fun v => ?_) k
  by_cases hv : v = w
  · subst hv
    simp [weaver_withdrawn h, hst]
  · rw [weaver_withdrawn_ne hv]

/-- A WORKING weaver whose skein has a free spare is withdrawn, and the spare works in its place (R84). -/
theorem retireWeaver_working {w x : Nat} (h : w < s.wvr.weavers.length) (hst : (s.weaver w).st = .working)
    (hx : s.spareOf (w / 17) = some x) (hfree : (s.weaver x).pass = none) : s.retireWeaver w =
      (((withdrawn s w).modWeaver x fun v => { v with st := .working }).withyChange 0 2 w 2).raise .wvrSwap := by
  have hne := spare_ne_working hst hx
  have hx' : ((s.giveBack w []).modWeaver w fun v => { v with st := .retired }).spareOf (w / 17) = some x :=
    (spareOf_withdrawn h hst _).trans hx
  have hfree' : ((withdrawn s w).weaver x).pass = none := by rw [weaver_withdrawn_ne hne, hfree]
  rw [← promote_free hfree']
  unfold State.retireWeaver
  rw [if_neg (by simp [hst])]
  simp only [hx']
  rfl

/-- After it the weaver is RETIRED and the spare WORKING. -/
theorem retireWeaver_states {w x : Nat} (h : w < s.wvr.weavers.length) (hst : (s.weaver w).st = .working)
    (hx : s.spareOf (w / 17) = some x) (hfree : (s.weaver x).pass = none) :
    ((s.retireWeaver w).weaver w).st = .retired ∧ ((s.retireWeaver w).weaver x).st = .working := by
  have hne := spare_ne_working hst hx
  have hlen : x < (withdrawn s w).wvr.weavers.length :=
    lt_length_of_spare (by rw [weaver_withdrawn_ne hne, spareOf_spare hx])
  rw [retireWeaver_working h hst hx hfree, weaver_raise, weaver_raise, weaver_withyChange, weaver_withyChange,
    weaver_modWeaver_ne _ hne.symm, weaver_withdrawn h, weaver_modWeaver _ hlen]
  exact ⟨rfl, rfl⟩

/-! Suspects (R84). -/

/-- The registers of the weavers are those of block 3 (Table 3.5), none of which a change of the pool or a source writes. -/
theorem not_interrupt_of_weavers {o : Nat} (ho : regBlock o = 3) : o ∉ Claims.interruptRegs := by
  have : ∀ r ∈ Claims.interruptRegs, regBlock r ≠ 3 := by decide
  exact fun h => this o h ho

theorem regsWf_withyChange (hwf : s.regsWf = true) (kind action subject value : Nat) :
    (s.withyChange kind action subject value).regsWf = true :=
  (rg_withyChange (W := 8192) rfl Rg.refl).wf hwf

theorem reg_withyChange (hwf : s.regsWf = true) (kind action subject value : Nat) {o : Nat} (ho : regBlock o = 3) :
    (s.withyChange kind action subject value).reg o = s.reg o :=
  ((rg_withyChange (W := 8192) rfl Rg.refl).reg hwf o).resolve_left (by rw [ho]; decide)

/-- A suspect count goes into the pool as it goes up. -/
def suspected (s : State) (w : Nat) : State :=
  (s.modWeaver w fun v => { v with suspect := min 255 ((s.weaver w).suspect + 1) }).withyChange 0 4 w
    (min 255 ((s.weaver w).suspect + 1))

theorem weaver_suspected {w : Nat} (h : w < s.wvr.weavers.length) :
    (suspected s w).weaver w = { s.weaver w with suspect := min 255 ((s.weaver w).suspect + 1) } := by
  unfold suspected
  rw [weaver_withyChange, weaver_modWeaver _ h]

theorem regsWf_suspected (hwf : s.regsWf = true) (w : Nat) : (suspected s w).regsWf = true := by
  unfold suspected
  exact regsWf_withyChange (s := s.modWeaver w _) hwf ..

theorem reg_suspected (hwf : s.regsWf = true) (w : Nat) {o : Nat} (ho : regBlock o = 3) :
    (suspected s w).reg o = s.reg o := by
  unfold suspected
  exact reg_withyChange (s := s.modWeaver w _) hwf 0 4 w _ ho

/-- Below SUSPECT_LIMIT the count goes up and the weaver stays in use. -/
theorem suspectUp_below (hwf : s.regsWf = true) {w : Nat}
    (h : (s.weaver w).suspect + 1 < atLeast1 (s.field Reg.WVR_LIMITS 7 0)) : s.suspectUp w = suspected s w := by
  have hlimit : (suspected s w).field Reg.WVR_LIMITS 7 0 = s.field Reg.WVR_LIMITS 7 0 := by
    unfold State.field
    rw [reg_suspected hwf w (by decide)]
  show (if atLeast1 ((suspected s w).field Reg.WVR_LIMITS 7 0) ≤ _ then _ else suspected s w) = _
  rw [hlimit, if_neg (by omega)]

/-! Failed passes (R83). -/

/-- The pass of a weaver has failed: it is given back and the failure counted. -/
def passFailed (s : State) (w counter : Nat) : State := (s.giveBack w [8 + w]).bump counter

theorem weaver_passFailed {w : Nat} (counter : Nat) (h : w < s.wvr.weavers.length) :
    (passFailed s w counter).weaver w = { s.weaver w with pass := none } := weaver_giveBack _ h

theorem regsWf_passFailed (hwf : s.regsWf = true) (w counter : Nat) : (passFailed s w counter).regsWf = true :=
  regsWf_bump _ (regsWf_giveBack hwf ..) _

theorem reg_passFailed (hwf : s.regsWf = true) (w counter o : Nat) :
    (passFailed s w counter).reg o = if o = counter then min (s.reg o + 1) 0xFFFFFFFF else s.reg o := by
  unfold passFailed
  rw [reg_bump_at (regsWf_giveBack hwf ..), reg_giveBack hwf]

/-- A failed pass below SUSPECT_LIMIT counts in its counter and in its weaver's suspect count (R83, R84). -/
theorem weaverFails_below (hwf : s.regsWf = true) {w counter : Nat} {p : Pass} (hp : (s.weaver w).pass = some p)
    (hw : w < s.wvr.weavers.length) (hlimit : (s.weaver w).suspect + 1 < atLeast1 (s.field Reg.WVR_LIMITS 7 0))
    (hc : counter ≠ Reg.WVR_LIMITS) : s.weaverFails w counter = (suspected (passFailed s w counter) w).raise .wvrErr := by
  have hlimit' : (passFailed s w counter).field Reg.WVR_LIMITS 7 0 = s.field Reg.WVR_LIMITS 7 0 := by
    unfold State.field
    rw [reg_passFailed hwf, if_neg hc.symm]
  have hbelow : (passFailed s w counter).suspectUp w = suspected (passFailed s w counter) w := by
    refine suspectUp_below (regsWf_passFailed hwf ..) ?_
    rw [weaver_passFailed counter hw, hlimit']
    exact hlimit
  rw [← hbelow]
  exact if_neg (by simp [hp])

/-- The two counters of failed passes are registers of the weavers and not WVR_LIMITS. -/
theorem failCounters_apart {w : Nat} (hw : w < 136) {o : Nat} (ho : o = Reg.WVR_UE_COUNT w ∨ o = Reg.WVR_WDOG_COUNT w) :
    o ≠ Reg.WVR_LIMITS ∧ regBlock o = 3 := by
  unfold regBlock
  rcases ho with rfl | rfl
  · simp only [Reg.WVR_UE_COUNT, Reg.WVR_LIMITS]
    omega
  · simp only [Reg.WVR_WDOG_COUNT, Reg.WVR_LIMITS]
    omega

/-- What such a failure leaves of the weaver and the counter, once the step is settled. -/
theorem weaverFails_below_state (hwf : s.regsWf = true) {w counter : Nat} {p : Pass} (hp : (s.weaver w).pass = some p)
    (hlen : s.wvr.weavers.length = 136) (hw : w < 136)
    (hlimit : (s.weaver w).suspect + 1 < atLeast1 (s.field Reg.WVR_LIMITS 7 0))
    (hc : counter = Reg.WVR_UE_COUNT w ∨ counter = Reg.WVR_WDOG_COUNT w) :
    (((s.weaverFails w counter).settle s).weaver w).pass = none ∧
      (((s.weaverFails w counter).settle s).weaver w).suspect = min 255 ((s.weaver w).suspect + 1) ∧
      Claims.counted s ((s.weaverFails w counter).settle s) counter 1 := by
  obtain ⟨hne, hblk⟩ := failCounters_apart hw hc
  have hw : w < s.wvr.weavers.length := hlen.symm ▸ hw
  have hlen' : w < (passFailed s w counter).wvr.weavers.length := hw.trans_eq (length_giveBack w [8 + w]).symm
  have hwf' := regsWf_suspected (regsWf_passFailed hwf w counter) w
  rw [weaver_settle, weaverFails_below hwf hp hw hlimit hne, weaver_raise, weaver_suspected hlen', weaver_passFailed counter hw]
  refine ⟨rfl, rfl, settled_counted (quiet_raise.wf hwf') (not_interrupt_of_weavers hblk) ?_⟩
  unfold Claims.counted
  rw [quiet_raise.reg hwf' _ (not_interrupt_of_weavers hblk), reg_suspected (regsWf_passFailed hwf ..) w hblk, reg_passFailed hwf,
    if_pos rfl]

/-! Samples (R88). -/

/-- The only sample, without a re-weaver when its time is over, is void. -/
theorem expireSamples_late {x : Sample} {d : Nat} (hx : s.wvr.samples = [x]) (hd : x.doneAt = some d)
    (hlate : d + msTu (s.field Reg.WVR_RW_CFG 31 16) ≤ s.time) (hrw : x.rw = none) :
    s.expireSamples = s.voidSample x.id := by
  simp [State.expireSamples, hx, hd, Nat.not_lt.2 hlate, hrw]

theorem voidSample_only {x : Sample} (hx : s.wvr.samples = [x]) : (s.voidSample x.id).wvr.samples = [] := by
  show s.wvr.samples.filter (fun y => y.id ≠ x.id) = []
  simp [hx]

theorem voidSample_counted (hwf : s.regsWf = true) (id : Nat) : Claims.counted s (s.voidSample id) Reg.WVR_RW_VOID 1 := by
  have hregs : (s.voidSample id).regs = (s.bump Reg.WVR_RW_VOID).regs := rfl
  unfold Claims.counted
  rw [reg_of_regs hregs, reg_bump_at hwf, if_pos rfl]

/-! The arms of the dispatch. -/

theorem exec_weaverUe {w : Nat} (hw : w < 136) :
    exec (.weaverUe w) s = finish s (s.weaverFails w (Reg.WVR_UE_COUNT w)) := by
  show finish s (s.weaverFails w (Reg.WVR_UE_COUNT (w % 136))) = _
  rw [Nat.mod_eq_of_lt hw]

theorem exec_weaverWatchdog {w : Nat} (hw : w < 136) :
    exec (.weaverWatchdog w) s = finish s (s.weaverFails w (Reg.WVR_WDOG_COUNT w)) := by
  show finish s (s.weaverFails w (Reg.WVR_WDOG_COUNT (w % 136))) = _
  rw [Nat.mod_eq_of_lt hw]

/-- A write of RETIRE that no rule drops retires the weaver. -/
theorem exec_weaverRetire {w m : Nat} (hw : w < 136) (hm : s.writeVerdict (Reg.WVR_CMD w) 15 1 = .ok m false) :
    exec (.weaverRetire w) s = finish s (s.retireWeaver w) := by
  show finish s (if w < 136 then _ else s) = _
  rw [if_pos hw, command_ok hm]

/-- Settles O28: the sample is void when its time is over, a failure below SUSPECT_LIMIT is given back and counted twice, and a
retirement takes the weaver and puts the spare in its place. -/
theorem weaverFaultsComplete : Obligations.WeaverFaultsComplete := by
  intro s w hwf hlen hw
  refine ⟨fun t0 x d hx hd hlate hrw => ?_, fun p hp hlimit => ?_, fun x htaken hst hx hfree => ?_⟩
  · have hvoid : (s.at_ t0).expireSamples = (s.at_ t0).voidSample x.id := expireSamples_late hx hd hlate hrw
    have hwf' : ((s.at_ t0).voidSample x.id).regsWf = true := (rg_voidSample (W := 8) rfl Rg.refl).wf hwf
    refine ⟨((s.at_ t0).expireSamples).settle s, rfl, ?_, ?_⟩
    · rw [settle_wvr, hvoid, voidSample_only (s := s.at_ t0) hx]
    · rw [hvoid]
      exact settled_counted hwf' (by decide) (voidSample_counted (s := s.at_ t0) hwf _)
  · exact ⟨⟨_, exec_weaverUe hw, weaverFails_below_state hwf hp hlen hw hlimit (.inl rfl)⟩,
      ⟨_, exec_weaverWatchdog hw, weaverFails_below_state hwf hp hlen hw hlimit (.inr rfl)⟩⟩
  · obtain ⟨m, hm⟩ := htaken
    refine ⟨_, exec_weaverRetire hw hm, ?_⟩
    rw [weaver_settle, weaver_settle]
    exact retireWeaver_states (hlen.symm ▸ hw) hst hx hfree

/-! The statement at a concrete state: after reset, in READY, weaver 0 weaves a density pass and the sample of an earlier one
waits for a re-weaver. -/

def flyingPass : Pass :=
  { kind := .density, pixel := false, tile := { stripe := 0, trow := 0, tcol := 0 }, pos := 0, len := 64, work := 0, sample := none }

def waitingSample : Sample :=
  { id := 7, pixel := false, tile := { stripe := 0, trow := 0, tcol := 1 }, pos := 64, len := 64, work := 0, working := 1,
    doneAt := some 0 }

def weavingState : State :=
  { State.reset with
    glb := { State.reset.glb with mode := .ready }
    wvr := { State.reset.wvr with
      weavers := State.reset.wvr.weavers.modify 0 fun v => { v with pass := some flyingPass }
      samples := [waitingSample] } }

theorem length_weavingState : weavingState.wvr.weavers.length = 136 :=
  (List.length_modify ..).trans ((List.length_map _).trans List.length_range)

/-- HOLD_MS is 100 after reset: the sample is void at 100 ms exactly. -/
theorem reweaveHoldExpiry_witness : ∃ t, exec (.reweaveHoldExpiry (msTu 100)) weavingState = .next t ∧ t.wvr.samples = [] ∧
    t.reg Reg.WVR_RW_VOID = 1 := by
  obtain ⟨hvoid, -, -⟩ := weaverFaultsComplete weavingState 0 reset_regsWf length_weavingState (by decide)
  obtain ⟨t, ht, hsamples, hcount⟩ := hvoid (msTu 100) waitingSample 0 rfl rfl (by decide) rfl
  exact ⟨t, ht, hsamples, hcount.trans (by decide)⟩

theorem weaverFails_witness :
    (∃ t, exec (.weaverUe 0) weavingState = .next t ∧ (t.weaver 0).suspect = 1 ∧ t.reg (Reg.WVR_UE_COUNT 0) = 1) ∧
      ∃ t, exec (.weaverWatchdog 0) weavingState = .next t ∧ (t.weaver 0).suspect = 1 ∧ t.reg (Reg.WVR_WDOG_COUNT 0) = 1 := by
  obtain ⟨-, hfails, -⟩ := weaverFaultsComplete weavingState 0 reset_regsWf length_weavingState (by decide)
  obtain ⟨⟨t, ht, -, hsuspect, hcount⟩, u, hu, -, hsuspect', hcount'⟩ := hfails flyingPass rfl (by decide)
  exact ⟨⟨t, ht, hsuspect.trans (by decide), hcount.trans (by decide)⟩,
    u, hu, hsuspect'.trans (by decide), hcount'.trans (by decide)⟩

/-- Weaver 0 retires in the middle of its pass, and weaver 16 works in its place. -/
theorem weaverRetire_witness : ∃ t, exec (.weaverRetire 0) weavingState = .next t ∧ (t.weaver 0).st = .retired ∧
    (t.weaver 16).st = .working := by
  obtain ⟨-, -, hretire⟩ := weaverFaultsComplete weavingState 0 reset_regsWf length_weavingState (by decide)
  exact hretire 16 ⟨1, by decide⟩ (by decide) (by decide) (by decide)

end Sys2Proof.Proofs
end

section
/-! PROOFS. The rings of the host interface (R253 to R259, R270): doorbells, fetches and ring control. -/

namespace Sys2Proof.Proofs

open Sys2Proof Sys2Proof.Machine Sys2Proof.Laws

variable {s : State}

/-! Rings and waits. -/

theorem ring_setRing_self (h : s.ringsWf = true) (r : Nat) (x : Ring) : (s.setRing r x).ring r = x := by
  rw [ring_setRing s h, if_pos rfl]

theorem ring_setRing_ne (h : s.ringsWf = true) {r q : Nat} (hq : q ≠ r) (x : Ring) : (s.setRing r x).ring q = s.ring q := by
  rw [ring_setRing s h, if_neg hq]

/-- A halt marks the ring and gives its reason (R259). -/
theorem ring_haltRing (h : s.ringsWf = true) (r reason : Nat) :
    (s.haltRing r reason).ring r = { s.ring r with halted := true, reason := reason } := by
  unfold State.haltRing
  rw [raise_ring, ring_setRing_self h]

theorem haltRing_waits (r reason : Nat) : (s.haltRing r reason).hst.waits = s.hst.waits := raise_waits ..

/-- Where no command waits, no barrier does. -/
theorem settleBarriers_idle (h : s.hst.waits = []) : s.settleBarriers = s := by
  unfold State.settleBarriers
  rw [h]
  rfl

/-! Doorbells (R256). -/

theorem exec_doorbell {r : Nat} (hon : s.domOn 1 = true) (hr : ringOk r = true) (v : Word) :
    exec (.doorbell r 0 15 v) s = finish s (s.ringBell r v.toNat) := by
  show finish s (s.bar2Write r 0 15 v.toNat) = _
  simp [State.bar2Write, hon, hr]

/-- A doorbell with an index that the ring has room for moves the tail. -/
theorem ringBell_taken {r v : Nat} (hv : v < 131072) (hruns : s.ringRuns r = true)
    (hnew : ¬(v % 65536 = (s.ring r).tailSlot ∧ bitOf v 16 = (s.ring r).tailPhase))
    (hfits : s.tailFits r (v % 65536) (bitOf v 16) = true) :
    s.ringBell r v = s.setRing r { s.ring r with tailSlot := v % 65536, tailPhase := bitOf v 16 } := by
  unfold State.ringBell
  exact (if_neg fun h => hnew h.2).trans (if_pos ⟨hv, hruns, hfits⟩)

/-- Any other doorbell is counted with its ring. -/
theorem ringBell_bad {r v : Nat}
    (hnew : ¬(v % 65536 = (s.ring r).tailSlot ∧ bitOf v 16 = (s.ring r).tailPhase))
    (hbad : ¬(v < 131072 ∧ s.ringRuns r = true ∧ s.tailFits r (v % 65536) (bitOf v 16) = true)) :
    s.ringBell r v = (s.bump Reg.HST_DB_BAD).setReg Reg.HST_DB_BAD_AT r := by
  unfold State.ringBell
  exact (if_neg fun h => hnew h.2).trans (if_neg hbad)

/-- Settles O11: the doorbell's three conditions decide between the new tail and the count. -/
theorem doorbellCompletes : Obligations.DoorbellCompletes := by
  intro s r v hregs hrings hon hr hnew
  rw [exec_doorbell hon hr]
  refine ⟨fun hv hruns hfits => ⟨_, rfl, ?_, fun q hq => ?_⟩, fun hbad => ⟨_, rfl, ?_, ?_, fun q => ?_⟩⟩
  · rw [settle_ring, ringBell_taken hv hruns hnew hfits, ring_setRing_self hrings]
  · rw [settle_ring, ringBell_taken hv hruns hnew hfits, ring_setRing_ne hrings hq]
  all_goals
    have hbell := ringBell_bad hnew fun ⟨hv, hruns, hfits⟩ => by simp [hruns, hfits, Nat.not_le.2 hv] at hbad
    have hwf := regsWf_bump s hregs Reg.HST_DB_BAD
  · rw [hbell]
    refine settled_counted (regsWf_setReg _ hwf ..) (by decide) ?_
    unfold Claims.counted
    rw [reg_setReg_ne _ hwf _ (by decide), reg_bump s hregs, if_pos rfl]
  · have hlt : r < 2 ^ 32 := by simp [ringOk] at hr; omega
    rw [hbell, reg_settle (regsWf_setReg _ hwf ..) (by decide), reg_setReg_self _ hwf, Nat.mod_eq_of_lt hlt]
  · rw [settle_ring, hbell, ring_setReg, ring_bump]

/-! Fetches (R257, R270). -/

/-- The entry that a fetch of `b` puts in progress. -/
def fetchedEntry (s : State) (b : List Byte) : CurEntry := { bytes := b, order := s.hst.nextOrder }

/-- The engine or command unit of ring `r` has the fetched entry in progress, and has not looked at it. -/
def entryTaken (s : State) (r : Nat) (b : List Byte) : State :=
  { s.setRing r { s.ring r with cur := some (fetchedEntry s b), tries := 0 } with
    hst := { (s.setRing r { s.ring r with cur := some (fetchedEntry s b), tries := 0 }).hst with
      nextOrder := s.hst.nextOrder + 1
      lastChan := if isDmaRing r then s.hst.lastChan.set (r / 16) (r % 16) else s.hst.lastChan } }

theorem ring_entryTaken (h : s.ringsWf = true) (r : Nat) (b : List Byte) :
    (entryTaken s r b).ring r = { s.ring r with cur := some (fetchedEntry s b), tries := 0 } :=
  (ring_of_rings rfl r).trans (ring_setRing_self h r _)

/-- A command that names a command of the table stays in progress (R263). -/
theorem takeEntry_command (h : s.ringsWf = true) {r : Nat} {b : List Byte} (hr : isCmdRing r = true)
    (hb : malformed? (fetchedEntry s b) = none) : s.takeEntry r b = entryTaken s r b := by
  show (if isCmdRing r = true then (entryTaken s r b).rejectMalformed r else _) = _
  simp only [hr, if_true, State.rejectMalformed, ring_entryTaken h, hb]

theorem not_cmdRing_of_dma {r : Nat} (hr : isDmaRing r = true) : isCmdRing r = false := by
  simp [isDmaRing, isCmdRing] at hr ⊢
  omega

/-- A descriptor of a kind that there is stays in progress (R272). -/
theorem takeEntry_descriptor {r : Nat} {b : List Byte} (hr : isDmaRing r = true) (h1 : 1 ≤ fieldLE b 0 1)
    (h4 : fieldLE b 0 1 ≤ 4) : s.takeEntry r b = entryTaken s r b := by
  have hkind : ¬(fieldLE b 0 1 = 0 ∨ 4 < fieldLE b 0 1) := by omega
  show (if isCmdRing r = true then _ else if isDmaRing r = true then
    (if fieldLE b 0 1 = 0 ∨ 4 < fieldLE b 0 1 then _ else entryTaken s r b) else _) = _
  rw [if_neg (by simp [not_cmdRing_of_dma hr]), if_pos hr, if_neg hkind]

theorem fetched_phase {r : Nat} {b : List Byte} (h : bitOf (fieldLE b 0 4) 31 = (s.ring r).headPhase) :
    s.fetched r (.bytes b) = s.takeEntry r b := by
  unfold State.fetched
  exact if_pos h

/-- An entry of the other phase is tried again (R257). -/
theorem fetched_retry {r : Nat} {b : List Byte} (h : bitOf (fieldLE b 0 4) 31 ≠ (s.ring r).headPhase)
    (ht : (s.ring r).tries < 3) : s.fetched r (.bytes b) = s.setRing r { s.ring r with tries := (s.ring r).tries + 1 } := by
  unfold State.fetched
  exact (if_neg h).trans (if_neg (Nat.not_le.2 ht))

/-- A ring that gives up a fetch halts, with no try counted. -/
def fetchHalted (s : State) (r reason : Nat) : State := (s.setRing r { s.ring r with tries := 0 }).haltRing r reason

theorem ring_fetchHalted (h : s.ringsWf = true) (r reason : Nat) :
    (fetchHalted s r reason).ring r = { s.ring r with tries := 0, halted := true, reason := reason } := by
  unfold fetchHalted
  rw [ring_haltRing (ringsWf_setRing s h ..), ring_setRing_self h]

theorem fetchHalted_settled (h : s.hst.waits = []) (r reason : Nat) :
    (fetchHalted s r reason).settleBarriers = fetchHalted s r reason :=
  settleBarriers_idle ((haltRing_waits ..).trans h)

theorem fetched_giveUp (hw : s.hst.waits = []) {r : Nat} {b : List Byte}
    (h : bitOf (fieldLE b 0 4) 31 ≠ (s.ring r).headPhase) (ht : 3 ≤ (s.ring r).tries) :
    s.fetched r (.bytes b) = fetchHalted s r 1 := by
  rw [← fetchHalted_settled hw]
  unfold State.fetched
  exact (if_neg h).trans (if_pos ht)

theorem fetched_failed (hw : s.hst.waits = []) (r : Nat) : s.fetched r .failed = fetchHalted s r 2 :=
  fetchHalted_settled hw r 2

/-- A first fetch of a ring that can fetch; of a DMA ring when it is its engine's turn. -/
theorem exec_entryFetch {r : Nat} (hcan : s.canFetch r = true) (ht : (s.ring r).tries = 0)
    (hdma : isDmaRing r = true → s.engineFree (r / 16) = true ∧ s.engineTurn (r / 16) = some r) (e : EntryRead) :
    exec (.entryFetch r e) s = finish s (s.fetched r e) := by
  show execEntryFetch r e s = _
  unfold execEntryFetch
  rw [if_pos]
  cases hd : isDmaRing r with
  | false => simp [hcan, ht]
  | true => simp [hcan, ht, hdma hd]

/-- A fetch again of an entry whose phase was the other one. -/
theorem exec_phaseRefetch {r : Nat} (hcan : s.canFetch r = true) (ht : 0 < (s.ring r).tries)
    (hdma : isDmaRing r = true → s.engineFree (r / 16) = true) (e : EntryRead) :
    exec (.phaseRefetch r e) s = finish s (s.fetched r e) := by
  show execPhaseRefetch r e s = _
  unfold execPhaseRefetch
  rw [if_pos]
  cases hd : isDmaRing r with
  | false => simp [hcan, ht]
  | true => simp [hcan, ht, hdma hd]

/-- An entry of the head's phase that its unit takes is in progress. -/
theorem cur_fetched (h : s.ringsWf = true) {r : Nat} {b : List Byte}
    (hb : (isCmdRing r = true ∧ malformed? (fetchedEntry s b) = none) ∨
      (isDmaRing r = true ∧ 1 ≤ fieldLE b 0 1 ∧ fieldLE b 0 1 ≤ 4))
    (hp : bitOf (fieldLE b 0 4) 31 = (s.ring r).headPhase) :
    ((s.fetched r (.bytes b)).ring r).cur = some (fetchedEntry s b) := by
  have htaken : s.takeEntry r b = entryTaken s r b := by
    rcases hb with ⟨hr, hb⟩ | ⟨hr, h1, h4⟩
    · exact takeEntry_command h hr hb
    · exact takeEntry_descriptor hr h1 h4
  rw [fetched_phase hp, htaken, ring_entryTaken h]

/-- Settles O12: what the fetch brings decides between the entry in progress, another try and a halt. -/
theorem entryFetchCompletes : Obligations.EntryFetchCompletes := by
  intro s r hrings hwaits hcan
  have hcmd : isCmdRing r = true → ¬isDmaRing r = true := fun hr hd => by simp [not_cmdRing_of_dma hd] at hr
  refine ⟨fun b hb hp => ?_, fun b hr hp => ⟨fun ht => ?_, fun hpos ht => ?_, fun ht => ?_⟩, fun hr ht => ?_⟩
  · have hcur := cur_fetched hrings (hb.imp_right fun ⟨hr, h1, h4, _⟩ => ⟨hr, h1, h4⟩) hp
    have hfree : isDmaRing r = true → s.engineFree (r / 16) = true := fun hd =>
      hb.elim (fun hb => absurd hd (hcmd hb.1)) fun hb => hb.2.2.2
    refine ⟨fun ht hturn => ?_, fun ht => ?_⟩
    · exact ⟨_, exec_entryFetch hcan ht (fun hd => ⟨hfree hd, hturn hd⟩) _, by rw [settle_ring, hcur]; rfl⟩
    · exact ⟨_, exec_phaseRefetch hcan ht hfree _, by rw [settle_ring, hcur]; rfl⟩
  · refine ⟨_, exec_entryFetch hcan ht (fun hd => absurd hd (hcmd hr)) _, ?_⟩
    rw [settle_ring, fetched_retry hp (by omega), ring_setRing_self hrings, ht]
  · refine ⟨_, exec_phaseRefetch hcan hpos (fun hd => absurd hd (hcmd hr)) _, ?_⟩
    rw [settle_ring, fetched_retry hp ht, ring_setRing_self hrings]
  · refine ⟨_, exec_phaseRefetch hcan (by omega) (fun hd => absurd hd (hcmd hr)) _, ?_⟩
    rw [settle_ring, fetched_giveUp hwaits hp ht, ring_fetchHalted hrings]
  · refine ⟨_, exec_entryFetch hcan ht (fun hd => absurd hd (hcmd hr)) _, ?_⟩
    rw [settle_ring, fetched_failed hwaits, ring_fetchHalted hrings, ← ht]

/-! Ring control (R254, R255, R259). -/

theorem cmdRing_cases {r : Nat} (hr : isCmdRing r = true) : r = 128 ∨ r = 129 := by
  simpa [isCmdRing] using hr

theorem ringOk_cmdRing {r : Nat} (hr : isCmdRing r = true) : ringOk r = true := by
  rcases cmdRing_cases hr with rfl | rfl <;> rfl

theorem ringCfg_apart {r : Nat} (hr : isCmdRing r = true) : ringReg r 8 ∉ Claims.interruptRegs := by
  rcases cmdRing_cases hr with rfl | rfl <;> decide

/-- RESET of a command ring without an entry in progress, while no barrier waits, returns its indices at once. -/
theorem resetRing_idle (h : s.ringsWf = true) (hw : s.hst.waits = []) {r : Nat} (hr : isCmdRing r = true)
    (hc : (s.ring r).cur = none) :
    (s.resetRing r).ring r = { s.ring r with
      headSlot := 0, headPhase := true, tailSlot := 0, tailPhase := true, resetDue := false, tries := 0,
      enabled := (s.ring r).enabled && s.bit (ringReg r 8) 8 } := by
  have hstart : s.started r = false := by simp [State.started, hc]
  have hne : r ≠ 192 ∧ r ≠ 193 := by rcases cmdRing_cases hr with rfl | rfl <;> decide
  have hreset : s.resetRing r = ((s.setRing r { s.ring r with cur := none }).doReset r).abandonEntries r 0 := by
    have hidle : (((s.setRing r { s.ring r with cur := none }).doReset r).abandonEntries r 0).hst.waits = [] :=
      congrArg (List.map _) hw
    simp only [State.resetRing, hstart, hne.1, hne.2, if_false, Bool.false_eq_true]
    exact settleBarriers_idle hidle
  have hwf := ringsWf_setRing s h r { s.ring r with cur := none }
  rw [hreset]
  refine (ring_of_rings rfl r).trans ((ring_setRing_self hwf r _).trans ?_)
  rw [ring_setRing_self h, ← hc]
  rfl

theorem exec_ringReset {r m : Nat} (hr : ringOk r = true) (hm : s.writeVerdict (ringReg r 0x0C) 15 1 = .ok m false) :
    exec (.ringReset r) s = finish s (s.resetRing r) := by
  show finish s (if ringOk r = true then _ else s) = _
  rw [if_pos hr, command_ok hm]

theorem exec_ringResume {r m : Nat} (hr : ringOk r = true) (hm : s.writeVerdict (ringReg r 0x0C) 15 2 = .ok m false) :
    exec (.ringResume r) s = finish s (s.setRing r { s.ring r with halted := false }) := by
  show finish s (if ringOk r = true then _ else s) = _
  rw [if_pos hr, command_ok hm]
  rfl

theorem exec_ringEnable {r m : Nat} {v : Word} (hr : ringOk r = true)
    (hm : s.writeVerdict (ringReg r 8) 15 v.toNat = .ok m false) (hv : v.getLsbD 8 = true) :
    exec (.ringEnable r v) s = finish s (s.enableRing r v.toNat) := by
  have hbit : bitOf v.toNat 8 = true := hv
  show finish s (if (ringOk r && v.getLsbD 8) = true then _ else s) = _
  rw [if_pos (by simp [hr, hv]), command_ok hm, State.writeRingCfg, if_pos hbit]

theorem exec_ringDisable {r m : Nat} {v : Word} (hr : ringOk r = true)
    (hm : s.writeVerdict (ringReg r 8) 15 v.toNat = .ok m false) (hv : v.getLsbD 8 = false) :
    exec (.ringDisable r v) s = finish s (s.disableRing r v.toNat) := by
  have hbit : bitOf v.toNat 8 = false := hv
  show finish s (if (ringOk r && !v.getLsbD 8) = true then _ else s) = _
  rw [if_pos (by rw [hr, hv]; rfl), command_ok hm, State.writeRingCfg, if_neg (by simp [hbit])]

/-- A valid enable of a disabled command ring starts an empty ring of the size written (R254). -/
theorem enableRing_valid {r v : Nat} (hr : isCmdRing r = true) (hoff : (s.ring r).enabled = false) (h4 : 4 ≤ v % 32)
    (h16 : v % 32 ≤ 16) : s.enableRing r v = (s.setReg (ringReg r 8) (256 + v % 32)).setRing r { enabled := true } := by
  have hdma : isDmaRing r = false := by rcases cmdRing_cases hr with rfl | rfl <;> rfl
  have hgeom : s.geometryOk r (v % 32) = true := by simp [State.geometryOk, hdma, h4, h16]
  simp only [State.enableRing, hoff, hgeom, if_true, Bool.false_eq_true, if_false]

/-- A number less its bit `i` has that bit clear. -/
theorem testBit_sub_bit (n i : Nat) : (n - n / 2 ^ i % 2 * 2 ^ i).testBit i = false := by
  have hdiv : (n - n / 2 ^ i % 2 * 2 ^ i) / 2 ^ i = n / 2 ^ i - n / 2 ^ i % 2 := by
    rw [Nat.mul_comm, Nat.sub_mul_div]
  simp only [Nat.testBit_eq_decide_div_mod_eq, hdiv, decide_eq_false_iff_not]
  omega

theorem bit_setField_zero (h : s.regsWf = true) (off i : Nat) : (s.setField off i i 0).bit off i = false := by
  have hval : s.reg off - s.field off i i * 2 ^ i + 0 % 2 ^ (i + 1 - i) * 2 ^ i
      = s.reg off - s.reg off / 2 ^ i % 2 * 2 ^ i := by
    simp [State.field, bitsOf]
  show ((s.setReg off _).reg off).testBit i = false
  rw [reg_setReg_self s h, hval, Nat.mod_eq_of_lt (Nat.lt_of_le_of_lt (Nat.sub_le ..) (reg_lt s off)), testBit_sub_bit]

/-- A write of ENABLE = 0 counts at most an access violation, clears the bit and resets the ring (R259). -/
theorem disableRing_enabled (hregs : s.regsWf = true) {r v : Nat} (hon : (s.ring r).enabled = true) :
    ∃ u : State, s.disableRing r v = u.resetRing r ∧ u.hst = s.hst ∧ u.bit (ringReg r 8) 8 = false := by
  have hwf : (if v % 32 = s.reg (ringReg r 8) % 32 then s else s.violation 4 (ringReg r 8) true).regsWf = true := by
    split
    · exact hregs
    · exact regsWf_setReg _ (regsWf_bump s hregs _) ..
  refine ⟨_, ?_, ?_, bit_setField_zero hwf (ringReg r 8) 8⟩
  · simp only [State.disableRing, hon, if_true]
  · show (if _ then s else s.violation 4 (ringReg r 8) true).hst = s.hst
    split <;> rfl

/-- Settles O13: each write passes the access policy, and a command ring without an entry in progress resets at once. -/
theorem ringControlCompletes : Obligations.RingControlCompletes := by
  intro s r hregs hrings hwaits hr
  have hok := ringOk_cmdRing hr
  refine ⟨fun ⟨m, hm⟩ hcur => ⟨_, exec_ringReset hok hm, ?_⟩, fun ⟨m, hm⟩ => ⟨_, exec_ringResume hok hm, ?_⟩,
    fun v ⟨m, hm⟩ hv hoff h4 h16 => ⟨_, exec_ringEnable hok hm hv, ?_, ?_⟩,
    fun v ⟨m, hm⟩ hv hon hcur => ⟨_, exec_ringDisable hok hm hv, ?_⟩⟩
  · rw [settle_ring, resetRing_idle hrings hwaits hr hcur]
    exact ⟨rfl, rfl, rfl, rfl, hcur⟩
  · rw [settle_ring, ring_setRing_self hrings]
  · rw [settle_ring, enableRing_valid hr hoff h4 h16]
    exact ring_setRing_self (s := s.setReg _ _) hrings r _
  · have hwf : ((s.setReg (ringReg r 8) (256 + v.toNat % 32)).setRing r { enabled := true }).regsWf = true :=
      regsWf_setReg s hregs ..
    rw [enableRing_valid hr hoff h4 h16, reg_settle hwf (ringCfg_apart hr), reg_setRing, reg_setReg_self s hregs]
    omega
  · obtain ⟨u, hu, hhst, hbit⟩ := disableRing_enabled hregs (v := v.toNat) hon
    have hring : u.ring r = s.ring r := ring_of_rings (congrArg Hst.rings hhst) r
    have hcur' : (u.ring r).cur = none := hring ▸ hcur
    rw [settle_ring, hu, resetRing_idle (ringsWf_of_rings hrings (congrArg Hst.rings hhst)) (hhst ▸ hwaits) hr hcur', hbit]
    exact ⟨Bool.and_false _, rfl, rfl⟩

/-! The statements at concrete states: after reset, with command ring 128 enabled and of 16 entries. -/

/-- After reset, with the bus master enabled and command ring 128 as given and 16 entries long. -/
def ringState (x : Ring) : State :=
  ({ State.reset.setReg (ringReg 128 8) 260 with hst := { State.reset.hst with bme := true } } : State).setRing 128
    { x with enabled := true }

theorem regsWf_ringState (x : Ring) : (ringState x).regsWf = true :=
  regsWf_setReg State.reset reset_regsWf (ringReg 128 8) 260

theorem ringsWf_ringState (x : Ring) : (ringState x).ringsWf = true :=
  ringsWf_setRing { State.reset with hst := { State.reset.hst with bme := true } } rfl 128 { x with enabled := true }

/-- The doorbell that makes the empty ring full is taken, and the next one counts. -/
theorem doorbellCompletes_witness :
    (∃ t, exec (.doorbell 128 0 15 0) (ringState {}) = .next t ∧ (t.ring 128).tailSlot = 0 ∧ (t.ring 128).tailPhase = false) ∧
      ∃ t, exec (.doorbell 128 0 15 1) (ringState {}) = .next t ∧ t.reg Reg.HST_DB_BAD = 1 ∧ t.reg Reg.HST_DB_BAD_AT = 128 := by
  obtain ⟨htaken, -⟩ := doorbellCompletes (ringState {}) 128 0 (regsWf_ringState _) (ringsWf_ringState _) (by decide)
    (by decide) (by decide)
  obtain ⟨-, hbad⟩ := doorbellCompletes (ringState {}) 128 1 (regsWf_ringState _) (ringsWf_ringState _) (by decide)
    (by decide) (by decide)
  obtain ⟨t, ht, hring, -⟩ := htaken (by decide) (by decide) (by decide)
  obtain ⟨u, hu, hcount, hat, -⟩ := hbad (.inr (.inr (by decide)))
  exact ⟨⟨t, ht, by rw [hring]; rfl, by rw [hring]; rfl⟩, u, hu, hcount.trans (by decide), hat⟩

/-- An ABORT entry of phase 1. -/
def abortBytes : List Byte := 4 :: 0 :: 0 :: 128 :: List.replicate 60 0

/-- The ring with one entry, whose fetch has been tried `n` times. -/
def fetchState (n : Nat) : State := ringState { tailSlot := 1, tries := n }

/-- The entry is taken at once or at the third try more, and an entry of phase 0 halts the ring there. -/
theorem entryFetchCompletes_witness :
    (∃ t, exec (.entryFetch 128 (.bytes abortBytes)) (fetchState 0) = .next t ∧
      (t.ring 128).cur = some { bytes := abortBytes, order := 0 }) ∧
    (∃ t, exec (.phaseRefetch 128 (.bytes abortBytes)) (fetchState 3) = .next t ∧
      (t.ring 128).cur = some { bytes := abortBytes, order := 0 }) ∧
    (∃ t, exec (.phaseRefetch 128 (.bytes [])) (fetchState 3) = .next t ∧ (t.ring 128).halted = true ∧
      (t.ring 128).reason = 1) ∧
    ∃ t, exec (.entryFetch 128 .failed) (fetchState 0) = .next t ∧ (t.ring 128).halted = true ∧ (t.ring 128).reason = 2 := by
  obtain ⟨hfirst, -, hfail⟩ := entryFetchCompletes (fetchState 0) 128 (ringsWf_ringState _) rfl (by decide)
  obtain ⟨hagain, hother, -⟩ := entryFetchCompletes (fetchState 3) 128 (ringsWf_ringState _) rfl (by decide)
  obtain ⟨t, ht, hhalt⟩ := (hother [] (by decide) (by decide)).2.2 (by decide)
  obtain ⟨u, hu, hhalt'⟩ := hfail (by decide) (by decide)
  exact ⟨(hfirst abortBytes (.inl (by decide)) (by decide)).1 (by decide) (by decide),
    (hagain abortBytes (.inl (by decide)) (by decide)).2 (by decide),
    ⟨t, ht, by rw [hhalt], by rw [hhalt]⟩, u, hu, by rw [hhalt'], by rw [hhalt']⟩

/-- Ring 128 halts, is resumed, reset and disabled, and ring 129 starts with the largest size. -/
theorem ringControlCompletes_witness :
    (∃ t, exec (.ringReset 128) (ringState { headSlot := 3, tailSlot := 5 }) = .next t ∧ (t.ring 128).headSlot = 0 ∧
      (t.ring 128).tailSlot = 0) ∧
    (∃ t, exec (.ringResume 128) (ringState { halted := true }) = .next t ∧ (t.ring 128).halted = false) ∧
    (∃ t, exec (.ringEnable 129 272) (ringState {}) = .next t ∧ (t.ring 129).enabled = true ∧ t.ringSize 129 = 65536) ∧
    ∃ t, exec (.ringDisable 128 4) (ringState { headSlot := 3 }) = .next t ∧ (t.ring 128).enabled = false ∧
      (t.ring 128).headSlot = 0 := by
  obtain ⟨hreset, -, -, -⟩ := ringControlCompletes (ringState { headSlot := 3, tailSlot := 5 }) 128 (regsWf_ringState _)
    (ringsWf_ringState _) rfl (by decide)
  obtain ⟨-, hresume, -, -⟩ := ringControlCompletes (ringState { halted := true }) 128 (regsWf_ringState _)
    (ringsWf_ringState _) rfl (by decide)
  obtain ⟨-, -, henable, -⟩ := ringControlCompletes (ringState {}) 129 (regsWf_ringState _) (ringsWf_ringState _) rfl (by decide)
  obtain ⟨-, -, -, hdisable⟩ := ringControlCompletes (ringState { headSlot := 3 }) 128 (regsWf_ringState _)
    (ringsWf_ringState _) rfl (by decide)
  obtain ⟨t, ht, hhead, -, htail, -⟩ := hreset ⟨3, by decide⟩ rfl
  obtain ⟨u, hu, hring⟩ := hresume ⟨3, by decide⟩
  obtain ⟨v, hv, hring', hcfg⟩ := henable 272 ⟨0x11F, by decide⟩ (by decide) (by decide) (by decide) (by decide)
  obtain ⟨w, hw, hoff, hhead', -⟩ := hdisable 4 ⟨0x11F, by decide⟩ (by decide) (by decide) rfl
  exact ⟨⟨t, ht, hhead, htail⟩, ⟨u, hu, by rw [hring]⟩,
    ⟨v, hv, by rw [hring'], by rw [State.ringSize, hcfg]; rfl⟩, w, hw, hoff, hhead'⟩

end Sys2Proof.Proofs
end

section
/-! PROOFS. The configuration sets (R279 to R282): writes of their words, and SWAP_SET. -/

namespace Sys2Proof.Proofs

open Sys2Proof Sys2Proof.Machine Sys2Proof.Laws

variable {s : State}

/-! Writes of a set's words (R280). -/

/-- The windows of the sets hold none of the registers that count what is dropped, and none of the interrupts. -/
theorem setWindow_apart {off o : Nat} (h : inSetWindow off = true)
    (ho : o ∈ [Reg.PWR_VIOL, Reg.PWR_VIOL_AT, Reg.SET_LATE_WRITES, Reg.SET_LATE_AT] ++ Claims.interruptRegs) : off ≠ o := by
  have hout : ∀ o ∈ [Reg.PWR_VIOL, Reg.PWR_VIOL_AT, Reg.SET_LATE_WRITES, Reg.SET_LATE_AT] ++ Claims.interruptRegs,
      inSetWindow o = false := by decide
  intro e
  rw [← e] at ho
  simp [hout off ho] at h

theorem exec_configSetWrite {off m : Nat} {v : Word} (hwin : inSetWindow off = true)
    (hm : s.writeVerdict off 15 v.toNat = .ok m false) :
    exec (.configSetWrite off 15 v) s = finish s (s.setAccept off v.toNat) := by
  show finish s (if inSetWindow off = true then s.setWrite off 15 v.toNat else s) = _
  rw [if_pos hwin, State.setWrite, guard_ok hm]

/-- A word whose mark is clear is stored and marks nothing. -/
theorem setWord_unmarked {off : Nat} (v : Nat) (h : s.setMarked off = false) : s.setWord off v = s.setReg off v := by
  have hnone : s.sets.marks.find? (fun m => m.setB == setOf off && m.word == off % 0x10000 / 8) = none :=
    List.find?_eq_none.2 fun m hm => by
      have := List.any_eq_false.1 h m hm
      exact this
  show (match s.sets.marks.find? fun m => m.setB == setOf off && m.word == off % 0x10000 / 8 with
    | none => s.setReg off v | some m => _) = _
  rw [hnone]

/-- The three answers to a write of a word without a mark (R280). -/
theorem setAccept_shadow {off : Nat} (v : Nat) (h : s.setMarked off = false) (hmode : s.glb.mode ≠ .dormant)
    (hset : setOf off ≠ s.sets.active) (hopen : s.sets.sealed = false) : s.setAccept off v = s.setReg off v := by
  simp only [State.setAccept, h, hmode, hset, hopen, setWord_unmarked, decide_false, Bool.or_self, Bool.false_eq_true,
    if_false]

theorem setAccept_active {off : Nat} (v : Nat) (h : s.setMarked off = false) (hmode : s.glb.mode ≠ .dormant)
    (hset : setOf off = s.sets.active) : s.setAccept off v = s.violation 3 off true := by
  simp only [State.setAccept, h, hmode, hset, decide_false, Bool.or_self, Bool.false_eq_true, if_false, if_true]

theorem setAccept_late {off : Nat} (v : Nat) (h : s.setMarked off = false) (hmode : s.glb.mode ≠ .dormant)
    (hset : setOf off ≠ s.sets.active) (hsealed : s.sets.sealed = true) :
    s.setAccept off v = (s.bump Reg.SET_LATE_WRITES).setReg Reg.SET_LATE_AT (off % 2 ^ 24) := by
  simp only [State.setAccept, h, hmode, hset, hsealed, decide_false, Bool.or_self, Bool.false_eq_true, if_false, if_true]

/-- What counting an event and noting a value beside it leaves of the registers, once the step is settled. -/
theorem reg_bump_setReg_settled (hwf : s.regsWf = true) {c o v : Nat} (hne : c ≠ o) (hc : c ∉ Claims.interruptRegs)
    (ho : o ∉ Claims.interruptRegs) :
    Claims.counted s (((s.bump c).setReg o v).settle s) c 1 ∧ (((s.bump c).setReg o v).settle s).reg o = v % 2 ^ 32 ∧
      ∀ x, x ≠ c → x ≠ o → x ∉ Claims.interruptRegs → (((s.bump c).setReg o v).settle s).reg x = s.reg x := by
  have hbump := regsWf_bump s hwf c
  have hwf' := regsWf_setReg _ hbump o v
  refine ⟨settled_counted hwf' hc ?_, ?_, fun x hxc hxo hx => ?_⟩
  · unfold Claims.counted
    rw [reg_setReg_ne _ hbump _ hne, reg_bump s hwf, if_pos rfl]
  · rw [reg_settle hwf' ho, reg_setReg_self _ hbump]
  · rw [reg_settle hwf' hx, reg_setReg_ne _ hbump _ hxo, reg_bump s hwf, if_neg hxc]

/-- Settles O20: the write passes the access policy, and its set's role decides what becomes of it. -/
theorem configSetWriteCompletes : Obligations.ConfigSetWriteCompletes := by
  intro s off v m hwf hwin hm hmark hmode
  have hirq : off ∉ Claims.interruptRegs := fun h => setWindow_apart hwin (List.mem_append_right _ h) rfl
  have hlt : off < 2 ^ 24 := by simp [inSetWindow] at hwin; omega
  refine ⟨fun hset hopen => ⟨_, exec_configSetWrite hwin hm, ?_, fun o ho hne => ?_⟩,
    fun hset => ⟨_, exec_configSetWrite hwin hm, ?_⟩, fun hset hsealed => ⟨_, exec_configSetWrite hwin hm, ?_⟩⟩
  · rw [setAccept_shadow _ hmark hmode hset hopen, reg_settle (regsWf_setReg s hwf ..) hirq, reg_setReg_self s hwf,
      Nat.mod_eq_of_lt v.isLt]
  · rw [setAccept_shadow _ hmark hmode hset hopen, reg_settle (regsWf_setReg s hwf ..) ho, reg_setReg_ne s hwf _ hne]
  · rw [setAccept_active _ hmark hmode hset]
    obtain ⟨hcount, -, hrest⟩ := reg_bump_setReg_settled hwf (c := Reg.PWR_VIOL) (o := Reg.PWR_VIOL_AT) (by decide) (by decide)
      (by decide)
    exact ⟨hcount, hrest off (setWindow_apart hwin (by simp)) (setWindow_apart hwin (by simp)) hirq⟩
  · rw [setAccept_late _ hmark hmode hset hsealed]
    obtain ⟨hcount, hat, hrest⟩ := reg_bump_setReg_settled hwf (c := Reg.SET_LATE_WRITES) (o := Reg.SET_LATE_AT)
      (v := off % 2 ^ 24) (by decide) (by decide) (by decide)
    refine ⟨hcount, hat.trans ?_, hrest off (setWindow_apart hwin (by simp)) (setWindow_apart hwin (by simp)) hirq⟩
    omega

/-! SWAP_SET (R281, R282). -/

/-- A command of ring `r` is in progress in `s`, and the link takes its completion. -/
structure InProgress (s : State) (r : Nat) : Prop where
  rings : s.ringsWf = true
  ring : isCmdRing r = true
  cur : ∃ e, (s.ring r).cur = some e
  link : s.linkReady = true

theorem InProgress.of_front {r op : Nat} {sel : Option (Nat × Nat)} {e : CurEntry} (hrings : s.ringsWf = true)
    (h : Claims.front s r op sel e) : InProgress s r := by
  obtain ⟨hring, hcur, hlink, -⟩ := command_spec h.1
  exact ⟨hrings, hring, ⟨e, hcur⟩, hlink⟩

/-- It stays in progress while no operation writes the rings, the link or the power state. -/
theorem InProgress.of_fr {W r : Nat} {t : State} (h : InProgress s r) (hfr : Fr W s t) (hw : W.testBit 20 = false)
    (hw' : W.testBit 23 = false) (hw'' : W.testBit 24 = false) : InProgress t r := by
  have hpwr := hfr.pwr.resolve_left (by simp [hw])
  have hrings := hfr.rings.resolve_left (by simp [hw'])
  obtain ⟨hwidth, hbme⟩ := hfr.conf.resolve_left (by simp [hw''])
  obtain ⟨e, he⟩ := h.cur
  exact ⟨ringsWf_of_rings h.rings hrings, h.ring, ⟨e, (congrArg Ring.cur (ring_of_rings hrings r)).trans he⟩,
    (linkReady_of hbme hwidth hpwr).trans h.link⟩

/-- A command in progress that is answered completes. -/
theorem InProgress.cur_answer {r : Nat} (h : InProgress s r) (st d res : Nat) : ((s.answer r st d res).ring r).cur = none := by
  obtain ⟨e, he⟩ := h.cur
  exact Laws.cur_answer h.rings h.ring h.link he

@[simp] theorem answer_sets (r st d res : Nat) : (s.answer r st d res).sets = s.sets :=
  ((fr_answer (W := 41943048) rfl Fr.refl).sets).resolve_left (by decide)

theorem setsChanged_sets : s.setsChanged.sets = s.sets :=
  ((fr_setsChanged (W := 101440) rfl Fr.refl).sets).resolve_left (by decide)

/-- Sealing the shadow changes no other role (R281). -/
theorem sealShadow_sets : s.sealShadow.sets = { s.sets with sealed := true } := by
  unfold State.sealShadow
  split
  · rename_i h
    rw [← h]
  · exact setsChanged_sets

/-- The seal taken off, where there is one (R282). -/
def unsealed (s : State) : State :=
  if s.sets.sealed then ({ s with sets := { s.sets with sealed := false } } : State).setsChanged else s

theorem fr_unsealed : Fr 101472 s (unsealed s) := by
  unfold unsealed
  split
  · exact fr_setsChanged rfl { Fr.refl with sets := .inl rfl }
  · exact Fr.refl

theorem unsealed_sets : (unsealed s).sets = { s.sets with sealed := false } := by
  unfold unsealed
  split
  · exact setsChanged_sets
  · rename_i h
    rw [← Bool.eq_false_of_not_eq_true h]

theorem swapRoles_sets :
    s.swapRoles.sets = { s.sets with active := !s.sets.active, sealed := false, swappedAt := some s.time } := by
  unfold State.swapRoles
  extract_lets s1
  rw [((fr_captureAll (W := 524288) rfl Fr.refl).sets).resolve_left (by decide), raise_sets]
  rfl

theorem execSwapSetSeal_run {r : Nat} {e : CurEntry} (hfront : Claims.front s r 0x05 (some (8, 0)) e)
    (hformat : swapFormat e = none) (hmode : s.glb.mode ∈ [Mode.ready, .expose, .dryrun]) :
    exec (.swapSetSeal r) s = finish s (s.sealShadow.answer r Stat.ok 0 s.sealShadow.swapResult) := by
  obtain ⟨hcmd, hclean, hfree⟩ := hfront
  show execSwapSetSeal r s = _
  unfold execSwapSetSeal
  rw [hcmd]
  dsimp only
  rw [hformat, checked_run hclean hmode (by simp) hfree]

theorem execSwapSetCancel_run {r : Nat} {e : CurEntry} (hfront : Claims.front s r 0x05 (some (8, 1)) e)
    (hformat : swapFormat e = none) (hmode : s.glb.mode ∈ [Mode.ready, .expose, .dryrun]) :
    exec (.swapSetCancel r) s = finish s ((unsealed s).answer r Stat.ok 0 (unsealed s).swapResult) := by
  obtain ⟨hcmd, hclean, hfree⟩ := hfront
  show execSwapSetCancel r s = _
  unfold execSwapSetCancel
  rw [hcmd]
  dsimp only
  rw [hformat, checked_run hclean hmode (by simp) hfree]
  rfl

theorem execSwapSetNow_run {r t : Nat} {e : CurEntry} (hfront : Claims.front s r 0x05 (some (8, 2)) e)
    (hformat : swapFormat e = none) (hmode : s.glb.mode ≠ .upsett)
    (hrun : s.glb.mode = .expose ∨ s.glb.mode = .dryrun → s.run = none) :
    exec (.swapSetNow r t) s = finish s ((s.at_ t).swapRoles.setsChanged.answer r Stat.ok 0
      (s.at_ t).swapRoles.setsChanged.swapResult) := by
  obtain ⟨hcmd, hclean, hfree⟩ := hfront
  have hlegal : s.glb.mode ∈ [Mode.dormant, .ready, .expose, .dryrun, .service] := by
    cases h : s.glb.mode <;> simp_all
  have hbound : ¬(s.glb.mode ∈ [Mode.expose, .dryrun] ∧ s.run.isSome = true) := fun ⟨hm, hr⟩ => by
    simp [hrun (by simpa using hm)] at hr
  show execSwapSetNow r t s = _
  unfold execSwapSetNow
  dsimp only
  rw [command_at, hcmd]
  dsimp only
  rw [hformat, checked_run (s := s.at_ t) hclean hlegal hbound hfree]

/-- Settles O6: each action passes the checks, changes the roles, leaves its ring and link alone and is answered. -/
theorem swapSetCompletes : Obligations.SwapSetCompletes := by
  intro s r e hrings hformat
  refine ⟨fun hfront hmode => ⟨_, execSwapSetSeal_run hfront hformat hmode, ?_, ?_⟩,
    fun hfront hmode => ⟨_, execSwapSetCancel_run hfront hformat hmode, ?_, ?_⟩,
    fun t hfront hmode hrun => ⟨_, execSwapSetNow_run hfront hformat hmode hrun, ?_, ?_⟩⟩
  · rw [settle_sets, answer_sets, sealShadow_sets]
  · rw [settle_ring]
    exact ((InProgress.of_front hrings hfront).of_fr (fr_sealShadow (W := 101472) rfl Fr.refl) rfl rfl rfl).cur_answer ..
  · rw [settle_sets, answer_sets, unsealed_sets]
  · rw [settle_ring]
    exact ((InProgress.of_front hrings hfront).of_fr fr_unsealed rfl rfl rfl).cur_answer ..
  · rw [settle_ring]
    exact ((InProgress.of_front hrings hfront).of_fr
      (fr_setsChanged rfl (fr_swapRoles rfl (fr_at_ (W := 625761) rfl Fr.refl))) rfl rfl rfl).cur_answer ..
  · rw [settle_sets, answer_sets, setsChanged_sets, swapRoles_sets]
    rfl

/-! The statements at concrete states. -/

/-- A command of opcode `op` and selector `sel` whose other bytes are zero. -/
def commandEntry (op sel : Byte) : CurEntry := { bytes := op :: List.replicate 7 0 ++ sel :: List.replicate 55 0, order := 0 }

/-- After reset in mode `m`, with the bus master enabled and an entry at the front of command ring 128. -/
def commandState (m : Mode) (e : CurEntry) : State :=
  { State.reset with
    glb := { State.reset.glb with mode := m }
    hst := { rings := [(128, { enabled := true, cur := some e })], bme := true } }

/-- After reset in READY, with the shadow sealed or not. -/
def setsState (b : Bool) : State :=
  { State.reset with glb := { State.reset.glb with mode := .ready }, sets := { sealed := b } }

/-- The first word of a page of set B is written while B is the shadow, unsealed and sealed, and one of set A while A is active. -/
theorem configSetWriteCompletes_witness :
    (∃ t, exec (.configSetWrite 0xE12000 15 7) (setsState false) = .next t ∧ t.reg 0xE12000 = 7) ∧
    (∃ t, exec (.configSetWrite 0xE02000 15 7) (setsState false) = .next t ∧ t.reg Reg.PWR_VIOL = 1 ∧ t.reg 0xE02000 = 0) ∧
    ∃ t, exec (.configSetWrite 0xE12000 15 7) (setsState true) = .next t ∧ t.reg Reg.SET_LATE_WRITES = 1 ∧
      t.reg Reg.SET_LATE_AT = 0xE12000 ∧ t.reg 0xE12000 = 0 := by
  obtain ⟨hheld, -, -⟩ := configSetWriteCompletes (setsState false) 0xE12000 7 0xFFFFFFFF reset_regsWf (by decide) (by decide)
    (by decide) (by decide)
  obtain ⟨-, hactive, -⟩ := configSetWriteCompletes (setsState false) 0xE02000 7 0xFFFFFFFF reset_regsWf (by decide) (by decide)
    (by decide) (by decide)
  obtain ⟨-, -, hlate⟩ := configSetWriteCompletes (setsState true) 0xE12000 7 0xFFFFFFFF reset_regsWf (by decide) (by decide)
    (by decide) (by decide)
  obtain ⟨t, ht, hword, -⟩ := hheld (by decide) (by decide)
  obtain ⟨u, hu, hviol, hkept⟩ := hactive (by decide)
  obtain ⟨v, hv, hcount, hat, hkept'⟩ := hlate (by decide) (by decide)
  exact ⟨⟨t, ht, hword⟩, ⟨u, hu, hviol.trans (by decide), hkept.trans (by decide)⟩,
    v, hv, hcount.trans (by decide), hat, hkept'.trans (by decide)⟩

theorem swapSetCompletes_witness :
    (∃ t, exec (.swapSetSeal 128) (commandState .ready (commandEntry 5 0)) = .next t ∧ t.sets.sealed = true) ∧
    (∃ t, exec (.swapSetCancel 128) (commandState .expose (commandEntry 5 1)) = .next t ∧ t.sets.sealed = false) ∧
    ∃ t, exec (.swapSetNow 128 9) (commandState .dormant (commandEntry 5 2)) = .next t ∧ t.sets.active = true ∧
      t.sets.swappedAt = some 9 ∧ (t.ring 128).cur = none := by
  obtain ⟨hseal, -, -⟩ := swapSetCompletes (commandState .ready (commandEntry 5 0)) 128 (commandEntry 5 0)
    (by decide) (by decide)
  obtain ⟨-, hcancel, -⟩ := swapSetCompletes (commandState .expose (commandEntry 5 1)) 128 (commandEntry 5 1)
    (by decide) (by decide)
  obtain ⟨-, -, hnow⟩ := swapSetCompletes (commandState .dormant (commandEntry 5 2)) 128 (commandEntry 5 2)
    (by decide) (by decide)
  obtain ⟨t, ht, hsets, -⟩ := hseal ⟨by decide, by decide, by decide⟩ (by decide)
  obtain ⟨u, hu, hsets', -⟩ := hcancel ⟨by decide, by decide, by decide⟩ (by decide)
  obtain ⟨v, hv, hcur, hsets''⟩ := hnow 9 ⟨by decide, by decide, by decide⟩ (by decide) (by decide)
  exact ⟨⟨t, ht, by rw [hsets]⟩, ⟨u, hu, by rw [hsets']⟩, v, hv, by rw [hsets'']; rfl, by rw [hsets'']; rfl, hcur⟩

end Sys2Proof.Proofs
end

section
/-! PROOFS. READ_COUNTERS and SYNC (R54, R268, R269). -/

namespace Sys2Proof.Proofs

open Sys2Proof Sys2Proof.Machine Sys2Proof.Laws

variable {s : State}

/-! Host memory as the module writes it. -/

@[simp] theorem length_leBytes (n v : Nat) : (leBytes n v).length = n := by
  induction n generalizing v with
  | zero => rfl
  | succ n ih => exact congrArg (· + 1) (ih (v / 256))

@[simp] theorem length_slice (bs : List Byte) (off n : Nat) : (slice bs off n).length = n := by
  simp only [slice, List.length_append, List.length_take, List.length_drop, List.length_replicate]
  omega

/-- Bytes stored one after the other read back at their addresses, and no other byte changes. -/
theorem smGet_putBytes (a : Nat) (bs : List Byte) (k : Nat) {m : List Host.Cell} (h : smWf hostDefault m = true) (x : Nat) :
    smGet hostDefault ((bs.zipIdx k).foldl (fun m p => smPut hostDefault (a + p.2) p.1 m) m) x =
      if a + k ≤ x ∧ x < a + k + bs.length then bs.getD (x - (a + k)) 0 else smGet hostDefault m x := by
  induction bs generalizing k m with
  | nil => rw [if_neg fun hx => by simp at hx; omega]; rfl
  | cons b t ih =>
    rw [List.zipIdx_cons, List.foldl_cons, ih (k + 1) (smWf_put h), smGet_put h, List.length_cons]
    by_cases hx : x = a + k
    · rw [if_neg (by omega), if_pos hx, if_pos (by omega), hx, Nat.sub_self, List.getD_cons_zero]
    · by_cases hin : a + (k + 1) ≤ x ∧ x < a + (k + 1) + t.length
      · rw [if_pos hin, if_pos (by omega), show x - (a + k) = x - (a + (k + 1)) + 1 by omega, List.getD_cons_succ]
      · rw [if_neg hin, if_neg hx, if_neg (by omega)]

theorem mem_hostWrite (h : s.hostWf = true) (a : Nat) (bs : List Byte) (x : Nat) :
    smGet hostDefault (s.hostWrite a bs).hst.mem x =
      if a ≤ x ∧ x < a + bs.length then bs.getD (x - a) 0 else smGet hostDefault s.hst.mem x :=
  smGet_putBytes a bs 0 h x

theorem headAddr_hostWrite (a : Nat) (bs : List Byte) (r : Nat) : (s.hostWrite a bs).headAddr r = s.headAddr r := rfl

theorem headAddr_at (t r : Nat) : (s.at_ t).headAddr r = s.headAddr r := rfl

theorem smWf_putBytes (a : Nat) (l : List (Byte × Nat)) {m : List Host.Cell} (h : smWf hostDefault m = true) :
    smWf hostDefault (l.foldl (fun m p => smPut hostDefault (a + p.2) p.1 m) m) = true := by
  induction l generalizing m with
  | nil => exact h
  | cons p t ih => exact ih (smWf_put h)

theorem hostWf_hostWrite (h : s.hostWf = true) (a : Nat) (bs : List Byte) : (s.hostWrite a bs).hostWf = true :=
  smWf_putBytes a bs.zipIdx h

/-! Completions (R258). -/

theorem length_recordBytes (r : Nat) (e : CurEntry) (st d res : Nat) : (s.recordBytes r e st d res).length = 16 := by
  simp [State.recordBytes]

/-- A completion writes its record and nothing else of host memory. -/
theorem writeCompletion_mem {r : Nat} {e : CurEntry} (hc : (s.ring r).cur = some e) (st d res : Nat) :
    (s.writeCompletion r st d res).hst.mem = (s.hostWrite (s.headAddr r + 48) (s.recordBytes r e st d res)).hst.mem := by
  have hfr : Fr 8388608 (s.hostWrite (s.headAddr r + 48) (s.recordBytes r e st d res)) (s.writeCompletion r st d res) := by
    unfold State.writeCompletion
    split
    · rename_i hnone
      cases hnone.symm.trans hc
    rename_i e' he
    obtain rfl : e' = e := Option.some.inj (he.symm.trans hc)
    extract_lets s1 s2 s3 s4 s5
    have h2 : Fr 8388608 s1 s2 := Fr.ite (fun _ => fr_setReg (fr_bump Fr.refl)) fun _ => Fr.refl
    have h4 : Fr 8388608 s1 s4 := Fr.ite (fun _ => fr_bump (fr_advanceHead rfl h2)) fun _ => fr_advanceHead rfl h2
    have h5 : Fr 8388608 s1 s5 := Fr.ite (fun _ => fr_raise h4) fun _ => h4
    exact Fr.ite (fun _ => fr_haltRing rfl h5) fun _ => h5
  exact hfr.hmem.resolve_left (by decide)

theorem rejectMalformed_none {r : Nat} (h : (s.ring r).cur = none) : s.rejectMalformed r = s := by
  unfold State.rejectMalformed
  rw [h]

/-- The answer to a command writes its record alone while the other command ring has no entry in progress. -/
theorem answer_mem (hrings : s.ringsWf = true) {r : Nat} {e : CurEntry} (hr : isCmdRing r = true) (hl : s.linkReady = true)
    (hc : (s.ring r).cur = some e) (ho : (s.ring (otherRing r)).cur = none) (st d res : Nat) :
    (s.answer r st d res).hst.mem = (s.hostWrite (s.headAddr r + 48) (s.recordBytes r e st d res)).hst.mem := by
  have hother : ((s.writeCompletion r st d res).ring (otherRing r)).cur = none := by
    rw [ring_writeCompletion_ne hrings (otherRing_ne hr).symm, ho]
  rw [← writeCompletion_mem hc, ← congrArg (·.hst.mem) (rejectMalformed_none hother)]
  simp only [State.answer, State.completeCmd, State.completeRing, hr, hl, if_true]

/-! READ_COUNTERS (R269). -/

theorem mem_all (m : Mode) : m ∈ Mode.all := by
  cases m <;> decide

/-- The bytes of a snapshot. -/
def snapshotBytes (words : List Nat) : List Byte := words.flatMap fun w => leBytes 4 w

theorem length_snapshotBytes (words : List Nat) : (snapshotBytes words).length = 4 * words.length := by
  simp [snapshotBytes, List.length_flatMap, Nat.mul_comm]

/-- The snapshot of the blocks of `mask` stands in the buffer at `a`; with CLEAR the counters are cleared. -/
def snapshotTaken (s : State) (a mask : Nat) (clear : Bool) : State :=
  let w := s.hostWrite a (snapshotBytes (s.counterSnapshot mask))
  if clear then ((maskBlocks mask).flatMap rcOffsets).foldl State.clearRc w else w

theorem fr_snapshotTaken {W : Nat} {s0 : State} (a mask : Nat) (clear : Bool) (hw : 8 ||| W = W) (hs : Fr W s0 s) :
    Fr W s0 (snapshotTaken s a mask clear) :=
  have h : Fr W s0 (s.hostWrite a (snapshotBytes (s.counterSnapshot mask))) := fr_hostWrite hw hs
  Fr.ite (fun _ => Fr.foldl h fun _ _ => fr_clearRc) fun _ => h

/-- Without CLEAR the snapshot is stored and no counter changes. -/
theorem snapshotTaken_keep (a mask : Nat) :
    snapshotTaken s a mask false = s.hostWrite a (snapshotBytes (s.counterSnapshot mask)) := rfl

theorem readCounters_fits {r : Nat} {e : CurEntry}
    (hfits : 4 * (s.counterSnapshot (fieldLE e.bytes 20 2)).length ≤ fieldLE e.bytes 16 4) :
    s.readCounters r e .ok =
      (snapshotTaken s (fieldLE e.bytes 8 8) (fieldLE e.bytes 20 2) (bitOf (fieldLE e.bytes 22 1) 0)).answer r Stat.ok 0
        (4 * (s.counterSnapshot (fieldLE e.bytes 20 2)).length) := by
  unfold State.readCounters
  exact if_neg (Nat.not_lt.2 hfits)

theorem execReadCounters_run {r t : Nat} {e : CurEntry} (hfront : Claims.front s r 0x09 none e)
    (hformat : countersFormat e = none) (hawake : Claims.awakeNow s) :
    exec (.readCounters r t .ok) s = finish s ((s.at_ t).readCounters r e .ok) := by
  obtain ⟨hcmd, hclean, hfree⟩ := hfront
  show execReadCounters r t .ok s = _
  unfold execReadCounters
  dsimp only
  rw [command_at, hcmd]
  dsimp only
  rw [hformat, checked_run (s := s.at_ t) hclean (mem_all _) (by simp) hfree, awake_run (s := s.at_ t) hawake]

/-- Settles O9: the snapshot is written before the record that answers the command, so only that record covers it. -/
theorem readCountersCompletes : Obligations.ReadCountersCompletes := by
  intro s r t e hhost hrings hfront hformat hawake hother hfits
  rw [execReadCounters_run hfront hformat hawake, readCounters_fits (s := s.at_ t) hfits]
  have hgo := (InProgress.of_front hrings hfront).of_fr
    (fr_snapshotTaken (fieldLE e.bytes 8 8) (fieldLE e.bytes 20 2) (bitOf (fieldLE e.bytes 22 1) 0) rfl
      (fr_at_ (t := t) (W := 9) rfl Fr.refl)) rfl rfl rfl
  refine ⟨_, rfl, ?_, fun x hclear hlo hhi hrecord => ?_⟩
  · rw [settle_ring]
    exact hgo.cur_answer ..
  · obtain ⟨hring, hcur, hlink, -⟩ := command_spec hfront.1
    have hmem := answer_mem (s := (s.at_ t).hostWrite (fieldLE e.bytes 8 8)
      (snapshotBytes ((s.at_ t).counterSnapshot (fieldLE e.bytes 20 2)))) hrings hring hlink hcur hother
    rw [settle_mem_, hclear, snapshotTaken_keep, hmem, headAddr_hostWrite, headAddr_at,
      mem_hostWrite (hostWf_hostWrite (s := s.at_ t) hhost ..), length_recordBytes, if_neg hrecord,
      mem_hostWrite (s := s.at_ t) hhost, length_snapshotBytes, if_pos ⟨hlo, hhi⟩]
    rfl

/-! SYNC (R54, R268). -/

/-- The DMA rings that a barrier's mask names. -/
def namedRings (e : CurEntry) : List Nat := (List.range 128).filter fun r => bitOf (fieldLE e.bytes 16 16) r

theorem mem_namedRings {e : CurEntry} {r : Nat} : r ∈ namedRings e ↔ r < 128 ∧ bitOf (fieldLE e.bytes 16 16) r = true := by
  simp [namedRings]

/-- A barrier waits for the entries that the rings it names hold now. -/
def barrierWait (s : State) (r : Nat) (e : CurEntry) : State :=
  s.setWait r (.barrier ((namedRings e).map fun q => (q, s.ringHeld q)) (namedRings e))

theorem barrierWait_waits (h : s.hst.waits = []) (r : Nat) (e : CurEntry) : (barrierWait s r e).hst.waits =
    [(r, .barrier ((namedRings e).map fun q => (q, s.ringHeld q)) (namedRings e))] := by
  simp [barrierWait, State.setWait, State.dropWait, h]

/-- The barrier completes at once when each of its rings has none left or is drained. -/
theorem settleBarriers_barrierWait (h : s.hst.waits = []) (r : Nat) (e : CurEntry) : (barrierWait s r e).settleBarriers =
      if (((namedRings e).map fun q => (q, s.ringHeld q)).all fun p => p.2 == 0 || s.drained p.1) = true then
        ((barrierWait s r e).dropWait r).completeCmd r Stat.ok 0 ((namedRings e).filter fun q => (s.ring q).halted).length
      else barrierWait s r e := by
  unfold State.settleBarriers
  rw [barrierWait_waits h]
  rfl

theorem exec_syncBarrier {r : Nat} {e : CurEntry} (hfront : Claims.front s r 0x0A (some (8, 0)) e)
    (h9 : zeroBytes e 9 7 = true) (h32 : zeroBytes e 32 16 = true) :
    exec (.syncBarrier r) s = finish s (barrierWait s r e).settleBarriers := by
  obtain ⟨hcmd, hclean, hfree⟩ := hfront
  show execSyncBarrier r s = _
  unfold execSyncBarrier
  rw [hcmd]
  dsimp only
  rw [h9, h32, Bool.and_self, if_pos rfl, checked_run hclean (mem_all _) (by simp) hfree]
  rfl

/-- Each ring that the mask names has none left or is drained. -/
theorem barrier_all (e : CurEntry) : (((namedRings e).map fun q => (q, s.ringHeld q)).all fun p => p.2 == 0 || s.drained p.1) =
      true ↔ ∀ q, q < 128 → bitOf (fieldLE e.bytes 16 16) q = true → s.ringHeld q = 0 ∨ s.drained q = true := by
  simp only [List.all_map, List.all_eq_true, mem_namedRings, Function.comp_apply, Bool.or_eq_true, beq_iff_eq, and_imp]

/-- A barrier with nothing to wait for is answered at once. -/
theorem syncBarrier_completes (h : s.hst.waits = []) {r : Nat} (hgo : InProgress s r) {e : CurEntry}
    (hall : ∀ q, q < 128 → bitOf (fieldLE e.bytes 16 16) q = true → s.ringHeld q = 0 ∨ s.drained q = true) :
    ((barrierWait s r e).settleBarriers.ring r).cur = none := by
  have hidle : InProgress ((barrierWait s r e).dropWait r) r :=
    hgo.of_fr (fr_dropWait rfl (fr_setWait (W := 33554432) rfl Fr.refl)) rfl rfl rfl
  have hanswer := hidle.cur_answer Stat.ok 0 ((namedRings e).filter fun q => (s.ring q).halted).length
  rw [settleBarriers_barrierWait h, if_pos ((barrier_all e).2 hall)]
  unfold State.answer at hanswer
  rwa [if_pos hgo.ring] at hanswer

theorem syncBarrier_waits (h : s.hst.waits = []) (r : Nat) {e : CurEntry}
    (hsome : ∃ q, q < 128 ∧ bitOf (fieldLE e.bytes 16 16) q = true ∧ s.ringHeld q ≠ 0 ∧ s.drained q = false) :
    (barrierWait s r e).settleBarriers = barrierWait s r e := by
  obtain ⟨q, hq, hnamed, hheld, hdrained⟩ := hsome
  rw [settleBarriers_barrierWait h, if_neg]
  intro hall
  have := (barrier_all (s := s) e).1 hall q hq hnamed
  simp [hheld, hdrained] at this

theorem exec_syncFigure {r : Nat} {e : CurEntry} (hfront : Claims.front s r 0x0A (some (8, 1)) e)
    (h9 : zeroBytes e 9 7 = true) (h24 : zeroBytes e 24 24 = true) (hmode : s.glb.mode ∈ [Mode.ready, .expose, .dryrun])
    (hawake : Claims.awakeNow s) (hhalt : s.fig.halted = true) (hlo : s.fig.released ≤ fieldLE e.bytes 16 8)
    (hhi : fieldLE e.bytes 16 8 < 2 ^ 48) : exec (.syncFigure r) s =
      finish s ((s.restartFigure (fieldLE e.bytes 16 8)).answer r Stat.ok 0 (fieldLE e.bytes 16 8)) := by
  obtain ⟨hcmd, hclean, hfree⟩ := hfront
  have hin : ¬(fieldLE e.bytes 16 8 < s.fig.released ∨ 2 ^ 48 ≤ fieldLE e.bytes 16 8) := by omega
  show execSyncFigure r s = _
  unfold execSyncFigure
  rw [hcmd]
  dsimp only
  rw [h9, h24, Bool.and_self, if_pos rfl, checked_run hclean hmode (by simp) hfree, awake_run hawake, if_neg (by simp [hhalt]),
    if_neg hin]

theorem exec_syncRunEnd {r : Nat} {e : CurEntry} (hfront : Claims.front s r 0x0A (some (8, 2)) e)
    (h9 : zeroBytes e 9 7 = true) (h16 : zeroBytes e 16 32 = true) (hmode : s.glb.mode ∈ [Mode.expose, .dryrun]) :
    exec (.syncRunEnd r) s = finish s (s.setWait r (.runEnd (s.run.map (·.serial)))) := by
  obtain ⟨hcmd, hclean, hfree⟩ := hfront
  show execSyncRunEnd r s = _
  unfold execSyncRunEnd
  rw [hcmd]
  dsimp only
  rw [h9, h16, Bool.and_self, if_pos rfl, checked_run hclean hmode (by simp) hfree]

/-- Settles O10: a barrier is answered or waits by what its rings hold, the decoder restarts, and a run's end is waited for. -/
theorem syncCompletes : Obligations.SyncCompletes := by
  intro s r e hrings hwaits
  refine ⟨fun hfront h9 h32 => ⟨fun hall => ⟨_, exec_syncBarrier hfront h9 h32, ?_⟩,
      fun hsome => ⟨_, (namedRings e).map fun q => (q, s.ringHeld q), namedRings e, exec_syncBarrier hfront h9 h32, ?_⟩⟩,
    fun hfront h9 h24 hmode hawake hhalt hlo hhi =>
      ⟨_, exec_syncFigure hfront h9 h24 hmode hawake hhalt hlo hhi, ?_⟩,
    fun hfront h9 h16 hmode => ⟨_, exec_syncRunEnd hfront h9 h16 (by simpa using hmode), ?_⟩⟩
  · rw [settle_ring]
    exact syncBarrier_completes hwaits (InProgress.of_front hrings hfront) hall
  · rw [waitOf_of_waits (settle_waits ..), syncBarrier_waits hwaits r hsome]
    exact waitOf_setWait r _
  · have hgo := (InProgress.of_front hrings hfront).of_fr
      (fr_restartFigure (off := fieldLE e.bytes 16 8) (W := 256) rfl Fr.refl) rfl rfl rfl
    rw [settle_fig, answer_fig, settle_ring]
    exact ⟨rfl, rfl, hgo.cur_answer ..⟩
  · rw [waitOf_of_waits (settle_waits ..)]
    exact waitOf_setWait ..

/-! The statements at concrete states. -/

/-- READ_COUNTERS of no block, into the 32 bytes at address 0x1000 that the snapshot's head takes. -/
def countersEntry : CurEntry :=
  { bytes := 9 :: List.replicate 7 0 ++ [0, 16, 0, 0, 0, 0, 0, 0, 32, 0, 0, 0] ++ List.replicate 44 0, order := 0 }

/-- The word at offset 24 is the snapshot's length. -/
theorem readCountersCompletes_witness : ∃ t, exec (.readCounters 128 5 .ok) (commandState .dormant countersEntry) = .next t ∧
    (t.ring 128).cur = none ∧ smGet hostDefault t.hst.mem 0x1018 = 32 := by
  have hlen : (((commandState .dormant countersEntry).at_ 5).counterSnapshot (fieldLE countersEntry.bytes 20 2)).length = 8 := by
    decide
  obtain ⟨t, ht, hcur, hmem⟩ := readCountersCompletes (commandState .dormant countersEntry) 128 5 countersEntry rfl (by decide)
    ⟨by decide, by decide, by decide⟩ (by decide) (.inl (by decide)) (by decide) (by rw [hlen]; decide)
  exact ⟨t, ht, hcur, (hmem 0x1018 (by decide) (by decide) (by rw [hlen]; decide) (by decide)).trans (by decide)⟩

/-- SYNC BARRIER of ring 0 at the front of ring 128 after reset, with ring 0 as given. -/
def barrierEntry : CurEntry :=
  { bytes := 10 :: List.replicate 15 0 ++ 1 :: List.replicate 47 0, order := 0 }

def barrierState (x : Ring) : State :=
  { commandState .ready barrierEntry with
    hst := { rings := [(0, x), (128, { enabled := true, cur := some barrierEntry })], bme := true } }

/-- The barrier does not wait for a halted ring, and waits for one that holds an entry. -/
theorem syncBarrier_witness :
    (∃ t, exec (.syncBarrier 128) (barrierState { enabled := true, halted := true, tailPhase := false }) = .next t ∧
      (t.ring 128).cur = none) ∧
    ∃ t left named, exec (.syncBarrier 128) (barrierState { enabled := true, tailPhase := false }) = .next t ∧
      t.waitOf 128 = some (.barrier left named) := by
  obtain ⟨hhalted, -⟩ := syncCompletes (barrierState { enabled := true, halted := true, tailPhase := false }) 128 barrierEntry
    (by decide) rfl
  obtain ⟨hholds, -⟩ := syncCompletes (barrierState { enabled := true, tailPhase := false }) 128 barrierEntry (by decide) rfl
  have hmask : fieldLE barrierEntry.bytes 16 16 = 1 := by decide
  refine ⟨(hhalted ⟨by decide, by decide, by decide⟩ (by decide) (by decide)).1 fun q _ hq => ?_,
    (hholds ⟨by decide, by decide, by decide⟩ (by decide) (by decide)).2 ⟨0, by decide⟩⟩
  obtain rfl : q = 0 := by simpa [bitOf, hmask, Nat.testBit_one_eq_true_iff_self_eq_zero] using hq
  decide

/-- A halted decoder, and SYNC FIGURE of offset 0. -/
theorem syncFigure_witness :
    ∃ t, exec (.syncFigure 128) { commandState .ready (commandEntry 10 1) with fig := { halted := true } } = .next t ∧
      t.fig.halted = false ∧ t.fig.pos = 0 ∧ (t.ring 128).cur = none := by
  obtain ⟨-, hfigure, -⟩ := syncCompletes { commandState .ready (commandEntry 10 1) with fig := { halted := true } } 128
    (commandEntry 10 1) (by decide) rfl
  exact hfigure ⟨by decide, by decide, by decide⟩ (by decide) (by decide) (by decide) (.inl (by decide)) rfl (by decide)
    (by decide)

/-- SYNC RUN_END without a run waits for the next one. -/
theorem syncRunEnd_witness : ∃ t, exec (.syncRunEnd 128) (commandState .expose (commandEntry 10 2)) = .next t ∧
    t.waitOf 128 = some (.runEnd none) := by
  obtain ⟨-, -, hrunEnd⟩ := syncCompletes (commandState .expose (commandEntry 10 2)) 128 (commandEntry 10 2) (by decide) rfl
  exact hrunEnd ⟨by decide, by decide, by decide⟩ (by decide) (by decide) (.inl rfl)

end Sys2Proof.Proofs
end

section
/-! PROOFS. ARM_STRIPE and ABORT (R266, R267, R405, R406). -/

namespace Sys2Proof.Proofs

open Sys2Proof Sys2Proof.Machine Sys2Proof.Laws

variable {s : State}

/-! Binding a run (R266). -/

/-- A run that is bound has the fields it is bound with, but for the offsets and the flags that the position decides. -/
theorem bindRun_run (q : Run) (chain : List (Nat × LedgerDesc)) (b : Bool) : ∃ yoff xoff below waitStart,
    (s.bindRun q chain b).run = some { q with yoff := yoff, xoff := xoff, below := below, waitStart := waitStart } :=
  ⟨_, _, _, _, rfl⟩

theorem bindRun_serial (q : Run) (chain : List (Nat × LedgerDesc)) (b : Bool) :
    (s.bindRun q chain b).bmf.serial = q.serial := rfl

/-- What follows the binding: the lanes wake, those who wait for a run are told, and the command is answered. -/
def armed (s : State) (ring : Nat) (q : Run) : State :=
  ((s.wakeLanes q.serial).tellBound q.serial).answer ring Stat.ok 0 (q.serial + q.slot * 2 ^ 32)

theorem fr_armed {W : Nat} {s0 : State} (ring : Nat) (q : Run) (hw : 41959432 ||| W = W) (hs : Fr W s0 s) :
    Fr W s0 (armed s ring q) :=
  fr_answer (Fr.sub (by decide) hw) (fr_tellBound (Fr.sub (by decide) hw) (fr_wakeLanes (Fr.sub (by decide) hw) hs))

/-- With AUTO the shadow is sealed first. -/
def autoSealed (s : State) (p : ArmParams) : State := if p.auto then s.sealShadow else s

theorem fr_autoSealed {W : Nat} {s0 : State} (p : ArmParams) (hw : 101472 ||| W = W) (hs : Fr W s0 s) :
    Fr W s0 (autoSealed s p) :=
  Fr.ite (fun _ => fr_sealShadow hw hs) fun _ => hs

theorem autoSealed_sets (p : ArmParams) :
    (autoSealed s p).sets = { s.sets with sealed := s.sets.sealed || p.auto } := by
  unfold autoSealed
  split
  · rename_i h
    rw [sealShadow_sets, h, Bool.or_true]
  · rename_i h
    rw [Bool.eq_false_of_not_eq_true h, Bool.or_false]

/-- The new run is bound, in the state that the seal and the run's work leave. -/
def runBound (s : State) (p : ArmParams) (x : StripeRec) (chain : List (Nat × LedgerDesc)) (w depth : Nat) (b : Bool) : State :=
  ((autoSealed s p).armWork p x w b).bindRun ((autoSealed s p).newRun p w depth) chain b

theorem arm_eq (ring : Nat) (p : ArmParams) (x : StripeRec) (chain : List (Nat × LedgerDesc)) : ∃ w depth b,
    s.arm ring p x chain = armed (runBound s p x chain w depth b) ring ((autoSealed s p).newRun p w depth) :=
  ⟨_, _, _, rfl⟩

theorem runBound_sets (p : ArmParams) (x : StripeRec) (chain : List (Nat × LedgerDesc)) (w depth : Nat) (b : Bool) :
    (runBound s p x chain w depth b).sets = { s.sets with sealed := s.sets.sealed || p.auto } := by
  unfold runBound
  rw [(fr_bindRun rfl (fr_armWork (W := 114496) rfl Fr.refl)).sets.resolve_left (by decide), autoSealed_sets]

/-- The run that stands then has the entry's parameters and the next serial. -/
theorem runBound_run (p : ArmParams) (x : StripeRec) (chain : List (Nat × LedgerDesc)) (w depth : Nat) (b : Bool) :
    ∃ q, (runBound s p x chain w depth b).run = some q ∧ q.stripe = p.stripe ∧ q.kind = p.kind ∧ q.down = p.down ∧
      q.s0 = p.s0 ∧ q.len = p.len ∧ q.serial = (s.bmf.serial + 1) % 2 ^ 32 ∧ q.dry = decide (s.glb.mode = .dryrun) ∧
      q.issued = 0 ∧ (runBound s p x chain w depth b).bmf.serial = q.serial := by
  have hseal : Fr 101472 s (autoSealed s p) := fr_autoSealed p rfl Fr.refl
  have hserial : ((autoSealed s p).newRun p w depth).serial = (s.bmf.serial + 1) % 2 ^ 32 := by
    rw [← hseal.bmf.resolve_left (by decide)]
    rfl
  have hdry : ((autoSealed s p).newRun p w depth).dry = decide (s.glb.mode = .dryrun) := by
    rw [← hseal.glb.resolve_left (by decide)]
    rfl
  obtain ⟨yoff, xoff, below, waitStart, hrun⟩ :=
    bindRun_run (s := (autoSealed s p).armWork p x w b) ((autoSealed s p).newRun p w depth) chain b
  exact ⟨_, hrun, rfl, rfl, rfl, rfl, rfl, hserial, hdry, rfl, bindRun_serial ..⟩

theorem exec_armStripe {ring t : Nat} {e : CurEntry} {x : StripeRec} {chain : List (Nat × LedgerDesc)}
    (hfront : Claims.front s ring 0x03 none e) (hformat : armFormat e = none)
    (hmode : s.glb.mode = .expose ∨ s.glb.mode = .dryrun) (hrun : s.run = none) (hstate : (s.at_ t).armState = none)
    (hcheck : (s.at_ t).armCheck e.arm = .ok chain) (hrec : (s.at_ t).stripeRec e.arm.stripe = some x) :
    exec (.armStripe ring t) s = finish s ((s.at_ t).arm ring e.arm x chain) := by
  obtain ⟨hcmd, hclean, hfree⟩ := hfront
  show execArmStripe ring t s = _
  unfold execArmStripe
  dsimp only
  rw [command_at, hcmd]
  dsimp only
  rw [hformat, hstate, checked_run (s := s.at_ t) hclean (by simpa using hmode) (by simp [hrun]) hfree, hcheck]
  dsimp only
  rw [hrec]

/-- Settles O4: past the checks the run is bound with the entry's parameters, and nothing after the binding writes it. -/
theorem armStripeCompletes : Obligations.ArmStripeCompletes := by
  intro s ring t e x chain hfront hformat hmode hrun hstate hcheck hrec
  obtain ⟨w, depth, b, harm⟩ := arm_eq (s := s.at_ t) ring e.arm x chain
  obtain ⟨q, hq, hstripe, hkind, hdown, hs0, hlen, hserial, hdry, hissued, hlast⟩ :=
    runBound_run (s := s.at_ t) e.arm x chain w depth b
  have hend := fr_armed ring ((autoSealed (s.at_ t) e.arm).newRun e.arm w depth) (W := 41959432) rfl
    (Fr.refl (s := runBound (s.at_ t) e.arm x chain w depth b))
  refine ⟨_, q, exec_armStripe hfront hformat hmode hrun hstate hcheck hrec, ?_⟩
  rw [harm, settle_run, settle_sets, settle_bmf, hend.run.resolve_left (by decide), hend.sets.resolve_left (by decide),
    hend.bmf.resolve_left (by decide), runBound_sets]
  exact ⟨hq, hstripe, hkind, hdown, hs0, hlen, hserial, hdry, hissued, rfl, rfl, hlast⟩

/-! Ending a run (R177, R405, R406). -/

/-- A run is unbound and its end noted; nobody has been told yet. -/
def unbound (s : State) (q : Run) (ending : Nat) : State :=
  { s with run := none, runEnded := some { serial := q.serial, ending := ending, slot := q.slot },
           glb := { s.glb with planAt := none },
           lnk := { s.lnk with idleSince := s.time, noSpare := false },
           trk := { s.trk with simNext := none, depth := 0 } }

theorem closeRun_eq (q : Run) (ending : Nat) : s.closeRun q ending =
    ((unbound s q ending).releaseHint.trigger 0x42 q.serial).tellRunEnd q.serial ending q.slot := rfl

theorem closeRun_run (q : Run) (ending : Nat) : (s.closeRun q ending).run = none ∧
    (s.closeRun q ending).runEnded = some { serial := q.serial, ending := ending, slot := q.slot } := by
  have hfr : Fr 41945096 (unbound s q ending) (s.closeRun q ending) := by
    rw [closeRun_eq]
    exact fr_tellRunEnd rfl (fr_trigger (fr_releaseHint rfl Fr.refl))
  exact ⟨hfr.run.resolve_left (by decide), hfr.runEnded.resolve_left (by decide)⟩

/-- A run that is abandoned ends ABANDONED (R406). -/
theorem abandonRun_run (q : Run) (src : Nat) : (s.abandonRun q src).run = none ∧
    (s.abandonRun q src).runEnded = some { serial := q.serial, ending := 3, slot := q.slot } := closeRun_run ..

theorem truncate_before {q : Run} (hrun : s.run = some q) (htrunc : q.trunc = none) (hissued : q.issued = 0) (src : Nat)
    (t : Run → Int) (stop : Bool) : s.truncate src t stop = s.abandonRun q src := by
  simp only [State.truncate, hrun, htrunc, hissued, Option.isSome_none, Bool.false_eq_true, if_false, if_true]

theorem truncate_within {q : Run} (hrun : s.run = some q) (htrunc : q.trunc = none) (hissued : q.issued ≠ 0)
    (hlast : q.issued ≤ q.lastTick) (src : Nat) (t : Run → Int) (stop : Bool) :
    s.truncate src t stop = s.truncateAt q src (t q) stop := by
  simp only [State.truncate, hrun, htrunc, hissued, Nat.not_lt.2 hlast, Option.isSome_none, decide_false, Bool.and_false,
    Bool.false_eq_true, if_false]

/-- The end that the bound run's truncation has given it. -/
def runTrunc (s : State) : Option (Option (Int × Nat)) := s.run.map (·.trunc)

theorem runTrunc_of_run {u : State} (h : u.run = s.run) : runTrunc u = runTrunc s :=
  congrArg (Option.map _) h

theorem runTrunc_modRun {f : Run → Run} (hf : ∀ q, (f q).trunc = q.trunc) : runTrunc (s.modRun f) = runTrunc s := by
  simp only [runTrunc, State.modRun, Option.map_map, Function.comp_def, hf]

theorem runTrunc_once (o : Once) {f : State → State} (hf : ∀ u, (f u).run = u.run) : runTrunc (s.once o f) = runTrunc s := by
  unfold State.once
  split
  · rename_i q hq
    split
    · rfl
    · rw [runTrunc_of_run (hf _)]
      simp only [runTrunc, hq, Option.map_some]
  · rfl

theorem bumpBy_run (off n : Nat) : (s.bumpBy off n).run = s.run := by
  unfold State.bumpBy
  split <;> rfl

theorem runTrunc_addShort (n : Nat) : runTrunc (s.addShort n) = runTrunc s := by
  unfold State.addShort
  split
  · rfl
  · rw [runTrunc_once _ fun u => raise_run .., runTrunc_modRun, runTrunc_of_run (bumpBy_run ..)]
    exact fun q => rfl

theorem runTrunc_addShots (n : Nat) : runTrunc (s.addShots n) = runTrunc s := by
  unfold State.addShots
  split
  · rfl
  · rw [runTrunc_once _ fun u => raise_run .., runTrunc_modRun, runTrunc_of_run (bumpBy_run ..)]
    exact fun q => rfl

theorem runTrunc_takeShorts (m : HoleMark) : runTrunc (s.takeShorts m) = runTrunc s := by
  unfold State.takeShorts
  rw [runTrunc_addShort]
  exact runTrunc_of_run rfl

theorem runTrunc_sendBlocks (bs : List (Nat × Nat)) : runTrunc (s.sendBlocks bs) = runTrunc s := rfl

theorem runTrunc_lnk (l : Lnk) : runTrunc { s with lnk := l } = runTrunc s := rfl

theorem runTrunc_sendEnd : runTrunc s.sendEnd = runTrunc s := by
  unfold State.sendEnd
  split
  · rfl
  · split
    · rfl
    · dsimp only
      rw [runTrunc_modRun, runTrunc_sendBlocks, runTrunc_lnk]
      exact fun q => rfl

/-- A truncation is decided: it is logged, stands in the run, and drops a planned end (R405). -/
def truncDecided (s : State) (q : Run) (src : Nat) (t : Int) (stop : Bool) (last : Nat) : State :=
  { ((s.bump Reg.GLB_TRUNCS).setRegs (Reg.GLB_TRUNC_LOG_0 0) [src + 256, q.stripe, unsignedOf 26 t]).modRun fun r =>
      { r with trunc := some (t, src), lastFrame := last, noTicks := stop } with
    glb := { ((s.bump Reg.GLB_TRUNCS).setRegs (Reg.GLB_TRUNC_LOG_0 0) [src + 256, q.stripe, unsignedOf 26 t]).glb with
      planAt := none } }

/-- All rows are marked from a tick on. -/
def endMarked (s : State) (m : HoleMark) (n : Nat) : State :=
  ({ s.takeShorts m with bmf := { (s.takeShorts m).bmf with holes := (s.takeShorts m).bmf.holes ++ [m] } } : State).addShots n

theorem truncateAt_eq (q : Run) (src : Nat) (t : Int) (stop : Bool) : ∃ last m n, s.truncateAt q src t stop =
    (if (t + 2).toNat ≤ q.lastTick then endMarked (truncDecided s q src t stop last) m n
      else truncDecided s q src t stop last).sendEnd :=
  ⟨_, _, _, rfl⟩

theorem runTrunc_truncDecided {q : Run} (hrun : s.run = some q) (src : Nat) (t : Int) (stop : Bool) (last : Nat) :
    runTrunc (truncDecided s q src t stop last) = some (some (t, src)) := by
  have hlog : ((s.bump Reg.GLB_TRUNCS).setRegs (Reg.GLB_TRUNC_LOG_0 0) [src + 256, q.stripe, unsignedOf 26 t]).run = some q :=
    ((fr_setRegs (fr_bump Fr.refl) : Fr 0 s _).run.resolve_left (by decide)).trans hrun
  simp only [runTrunc, truncDecided, State.modRun, hlog, Option.map_some]

theorem runTrunc_endMarked (m : HoleMark) (n : Nat) : runTrunc (endMarked s m n) = runTrunc s :=
  (runTrunc_addShots n).trans ((runTrunc_of_run rfl).trans (runTrunc_takeShorts m))

/-- A truncation stands in the run with its t and its source, whatever it marks and sends. -/
theorem truncateAt_run {q : Run} (hrun : s.run = some q) (src : Nat) (t : Int) (stop : Bool) :
    ∃ q', (s.truncateAt q src t stop).run = some q' ∧ q'.trunc = some (t, src) := by
  obtain ⟨last, m, n, heq⟩ := truncateAt_eq (s := s) q src t stop
  refine Option.map_eq_some_iff.1 (?_ : runTrunc _ = _)
  rw [heq, runTrunc_sendEnd]
  split
  · rw [runTrunc_endMarked, runTrunc_truncDecided hrun]
  · exact runTrunc_truncDecided hrun ..

/-! ABORT (R267). -/

theorem exec_abort_idle {r t : Nat} {e : CurEntry} (hfront : Claims.front s r 0x04 none e) (hzero : zeroBytes e 8 40 = true)
    (hrun : s.run = none) : exec (.abort r t) s = finish s ((s.at_ t).answer r Stat.ok 0 0) := by
  obtain ⟨hcmd, hclean, hfree⟩ := hfront
  show execAbort r t s = _
  unfold execAbort
  dsimp only
  rw [command_at, hcmd]
  dsimp only
  rw [hzero, if_pos rfl, checked_run (s := s.at_ t) hclean (mem_all _) (by simp) hfree, at_run, hrun]

theorem exec_abort_run {r t : Nat} {e : CurEntry} {q : Run} (hfront : Claims.front s r 0x04 none e)
    (hzero : zeroBytes e 8 40 = true) (hrun : s.run = some q) : exec (.abort r t) s =
      finish s (((s.at_ t).setWait r (.abort q.serial)).truncate 0x0C (fun q => (q.launched : Int) - 2) false) := by
  obtain ⟨hcmd, hclean, hfree⟩ := hfront
  show execAbort r t s = _
  unfold execAbort
  dsimp only
  rw [command_at, hcmd]
  dsimp only
  rw [hzero, if_pos rfl, checked_run (s := s.at_ t) hclean (mem_all _) (by simp) hfree, at_run, hrun]

/-- Settles O5: the command is answered, unbinds the run or truncates it by how far the run has come. -/
theorem abortCompletes : Obligations.AbortCompletes := by
  intro s r t e hrings hfront hzero
  refine ⟨fun hrun => ⟨_, exec_abort_idle hfront hzero hrun, ?_, ?_⟩,
    fun q hrun htrunc hissued => ⟨_, exec_abort_run hfront hzero hrun, ?_⟩,
    fun q hrun htrunc hissued hlast => ?_⟩
  · rw [settle_run, ((fr_answer (W := 41943048) rfl Fr.refl).run).resolve_left (by decide)]
    exact hrun
  · rw [settle_ring]
    exact ((InProgress.of_front hrings hfront).of_fr (fr_at_ (W := 1) rfl Fr.refl) rfl rfl rfl).cur_answer ..
  · rw [settle_run, settle_runEnded, truncate_before (s := (s.at_ t).setWait r _) hrun htrunc hissued]
    exact abandonRun_run ..
  · have hwithin := truncate_within (s := (s.at_ t).setWait r (.abort q.serial)) hrun htrunc hissued hlast 0x0C
      (fun q => (q.launched : Int) - 2) false
    obtain ⟨q', hrun', htrunc'⟩ := truncateAt_run (s := (s.at_ t).setWait r (.abort q.serial)) hrun 0x0C
      ((q.launched : Int) - 2) false
    refine ⟨_, q', exec_abort_run hfront hzero hrun, ?_⟩
    rw [settle_run, waitOf_of_waits (settle_waits ..), hwithin, waitOf_of_waits
      ((fr_truncateAt (W := 20560) rfl Fr.refl).waits.resolve_left (by decide))]
    exact ⟨hrun', htrunc', waitOf_setWait ..⟩

/-! The statement at concrete states: ABORT in EXPOSE, without a run, and with a run of 10 slices and `n` ticks issued, of which
one frame has not left. -/

def abortState (q : Option Run) : State := { commandState .expose (commandEntry 4 0) with run := q }

def abortedRun (n : Nat) : Run :=
  { stripe := 1, kind := 0, down := false, s0 := 0, len := 10, wStart := 0, serial := 7, slot := 3, depth := 0, predSlot := 0,
    predSerial := 0, dry := false, issued := n, launched := n - 1, lastFrame := 131081 }

theorem abortCompletes_witness :
    (∃ t, exec (.abort 128 9) (abortState none) = .next t ∧ (t.ring 128).cur = none) ∧
    (∃ t, exec (.abort 128 9) (abortState (some (abortedRun 0))) = .next t ∧ t.run = none ∧
      t.runEnded = some { serial := 7, ending := 3, slot := 3 }) ∧
    ∃ t q, exec (.abort 128 9) (abortState (some (abortedRun 131081))) = .next t ∧ t.run = some q ∧
      q.trunc = some (131078, 0x0C) ∧ t.waitOf 128 = some (.abort 7) := by
  have hfront : ∀ q, Claims.front (abortState q) 128 0x04 none (commandEntry 4 0) := fun q =>
    ⟨rfl, by decide, rfl⟩
  obtain ⟨hidle, -, -⟩ := abortCompletes (abortState none) 128 9 _ (by decide) (hfront _) (by decide)
  obtain ⟨-, hbefore, -⟩ := abortCompletes (abortState (some (abortedRun 0))) 128 9 _ (by decide) (hfront _) (by decide)
  obtain ⟨-, -, hwithin⟩ := abortCompletes (abortState (some (abortedRun 131081))) 128 9 _ (by decide) (hfront _) (by decide)
  obtain ⟨t, ht, -, hcur⟩ := hidle rfl
  exact ⟨⟨t, ht, hcur⟩, hbefore _ rfl rfl rfl, hwithin _ rfl rfl (by decide) (by decide)⟩

end Sys2Proof.Proofs
end

section
/-! PROOFS. The DRAM channels by their number: what a change of one of them, the integrity log, the withy pool and the raised
sources leave of the others (R286, R287, R319 to R322). -/

namespace Sys2Proof.Proofs

open Sys2Proof Sys2Proof.Machine Sys2Proof.Laws

variable {s : State}

theorem chan_of_chans {t : State} (h : t.dram.chans = s.dram.chans) (q : Nat) : t.chan q = s.chan q := by
  unfold State.chan
  rw [h]

@[simp] theorem eccLog_chans (event region cls chan detail addr : Nat) :
    (s.eccLog event region cls chan detail addr).dram.chans = s.dram.chans := by
  unfold State.eccLog
  split <;> rfl

@[simp] theorem withyChange_dram (kind action subject value : Nat) :
    (s.withyChange kind action subject value).dram = s.dram :=
  ((fr_withyChange Fr.refl : Fr 0 s _).dram).resolve_left (by decide)

theorem bumpBy_pos {n : Nat} (h : 0 < n) (off : Nat) : s.bumpBy off n = s.setReg off (min (s.reg off + n) 0xFFFFFFFF) :=
  if_neg (Nat.ne_of_gt h)

@[simp] theorem length_modChan (p : Nat) (f : Chan → Chan) : (s.modChan p f).dram.chans.length = s.dram.chans.length :=
  List.length_modify ..

@[simp] theorem chan_setReg (off v q : Nat) : (s.setReg off v).chan q = s.chan q := rfl

@[simp] theorem chan_bump (off q : Nat) : (s.bump off).chan q = s.chan q := rfl

@[simp] theorem chan_eccLog (event region cls chan detail addr q : Nat) :
    (s.eccLog event region cls chan detail addr).chan q = s.chan q := chan_of_chans (eccLog_chans ..) q

@[simp] theorem chan_withyChange (kind action subject value q : Nat) :
    (s.withyChange kind action subject value).chan q = s.chan q := chan_of_chans (by rw [withyChange_dram]) q

@[simp] theorem chan_settle (s0 : State) (q : Nat) : (s.settle s0).chan q = s.chan q :=
  chan_of_chans (by rw [settle_dram]) q

/-- Only a channel that exists is in another state than OFF. -/
theorem lt_length_of_state {q : Nat} (h : (s.chan q).state ≠ .off) : q < s.dram.chans.length := by
  by_contra hq
  exact h (by simp [State.chan, List.getD, List.getElem?_eq_none (Nat.le_of_not_lt hq)])

theorem lt_length_of_inUse {q : Nat} (h : (s.chan q).inUse = true) : q < s.dram.chans.length :=
  lt_length_of_state fun hoff => by simp [Chan.inUse, hoff] at h

/-- The spare of a stack depends on the channels' states alone. -/
theorem spareChan_congr {t : State} (h : ∀ q, (t.chan q).state = (s.chan q).state) (k : Nat) :
    t.spareChan k = s.spareChan k := by
  unfold State.spareChan
  simp only [h]

theorem spareChan_state {k sp : Nat} (h : s.spareChan k = some sp) : (s.chan sp).state = .spare :=
  of_decide_eq_true (List.find?_some (p := fun q => decide ((s.chan q).state = .spare)) h)

/-- A change of one channel that leaves its state leaves every state. -/
theorem state_modChan {f : Chan → Chan} (hf : ∀ c, (f c).state = c.state) (p q : Nat) :
    ((s.modChan p f).chan q).state = (s.chan q).state := by
  by_cases hq : q = p
  · subst hq
    by_cases hlt : q < s.dram.chans.length
    · rw [chan_modChan s f hlt, hf]
    · simp [State.chan, State.modChan, List.getD, List.getElem?_eq_none (Nat.le_of_not_lt hlt)]
  · rw [chan_modChan_ne s f hq]

/-- A channel that carries a logical channel is ACTIVE or FENCING (R286). -/
theorem carried_state {p l : Nat} (h : s.carried p = some l) : (s.chan p).state = .active ∨ (s.chan p).state = .fencing := by
  unfold State.carried at h
  dsimp only at h
  rw [Option.ite_none_right_eq_some] at h
  exact h.1.1

theorem carried_inUse {p l : Nat} (h : s.carried p = some l) : (s.chan p).inUse = true :=
  decide_eq_true ((carried_state h).imp_right Or.inr)

/-- A spare is another channel than one that carries a logical channel. -/
theorem spareChan_ne_carried {p l k sp : Nat} (hl : s.carried p = some l) (hsp : s.spareChan k = some sp) : sp ≠ p := by
  rintro rfl
  simpa [spareChan_state hsp] using carried_state hl

end Sys2Proof.Proofs
end

section
/-! PROOFS. Refresh, power-down, ageing and periodic recalibration (R295, R297, R300, R302). -/

namespace Sys2Proof.Proofs

open Sys2Proof Sys2Proof.Machine Sys2Proof.Laws

variable {s : State}

@[simp] theorem getPair_setPair {α : Type} (x : α × α) (pc : Nat) (v : α) : getPair (setPair x pc v) pc = v := by
  unfold getPair setPair
  split <;> rfl

/-! Refresh and power-down. -/

/-- A channel of which pseudo-channel `pc` owes `n` refreshes and has left power-down. -/
def owing (pc n : Nat) (c : Chan) : Chan := { c with owed := setPair c.owed pc n, pd := setPair c.pd pc false }

theorem refreshDue_issued {p pc : Nat} {busy : Bool} (h : (busy || (s.chan p).panic) = false) :
    s.refreshDue p pc busy = s.modChan p (owing pc (getPair (s.chan p).owed pc - 1)) := if_neg (by simp [h])

theorem refreshDue_postponed {p pc : Nat} {busy : Bool} (h : (busy || (s.chan p).panic) = true)
    (hmax : getPair (s.chan p).owed pc < s.postponeMax) :
    s.refreshDue p pc busy = s.modChan p (owing pc (getPair (s.chan p).owed pc + 1)) := (if_pos h).trans (if_pos hmax)

theorem refreshDue_forced {p pc : Nat} {busy : Bool} (h : (busy || (s.chan p).panic) = true)
    (hmax : s.postponeMax ≤ getPair (s.chan p).owed pc) :
    s.refreshDue p pc busy = (s.bump Reg.MEM_FORCED_REF).modChan p fun c => { c with pd := setPair c.pd pc false } :=
  (if_pos h).trans (if_neg (Nat.not_lt.2 hmax))

/-- What a refresh that is issued or postponed leaves: what is owed, and every other channel and byte. -/
theorem modChan_owing_settled {p : Nat} (hp : p < s.dram.chans.length) (pc n : Nat) (s0 : State) :
    getPair (((s.modChan p (owing pc n)).settle s0).chan p).owed pc = n ∧
      getPair (((s.modChan p (owing pc n)).settle s0).chan p).pd pc = false ∧
      (∀ q, q ≠ p → ((s.modChan p (owing pc n)).settle s0).chan q = s.chan q) ∧
      ((s.modChan p (owing pc n)).settle s0).dram.cells = s.dram.cells := by
  rw [chan_settle, chan_modChan s _ hp, settle_dram]
  exact ⟨getPair_setPair .., getPair_setPair .., fun q hq => by rw [chan_settle, chan_modChan_ne s _ hq], rfl⟩

theorem exec_refreshDue {p : Nat} (hmem : s.memRuns = true) (huse : (s.chan p).inUse = true) (pc : Nat) (busy : Bool) :
    exec (.refreshDue p pc busy) s = finish s (s.refreshDue p pc busy) := by
  show finish s (if _ then _ else _) = _
  rw [if_pos (by simp [hmem, huse])]

theorem exec_dramPowerDown {p : Nat} (hmem : s.memRuns = true) (huse : (s.chan p).inUse = true)
    (hctrl : s.bit Reg.MEM_CTRL 4 = true) (hpd : 0 < s.field Reg.MEM_PD 15 0) (hcalm : (s.chan p).panic = false) (pc : Nat) :
    exec (.dramPowerDown p pc) s = finish s (s.modChan p fun c => { c with pd := setPair c.pd pc true }) := by
  show finish s (if _ then _ else _) = _
  rw [if_pos (by simp [hmem, huse, hctrl, hpd, hcalm])]

/-- Settles O30: what is owed and what waits decide between the three ways of a refresh, and each writes its own channel only. -/
theorem refreshAndPowerDownComplete : Obligations.RefreshAndPowerDownComplete := by
  intro s p pc hwf hmem huse
  have hp := lt_length_of_inUse huse
  refine ⟨fun busy hcalm => ⟨_, exec_refreshDue hmem huse pc busy, ?_⟩,
    fun busy hwait hmax => ⟨_, exec_refreshDue hmem huse pc busy, ?_⟩,
    fun busy hwait hmax => ⟨_, exec_refreshDue hmem huse pc busy, ?_⟩,
    fun hctrl hpd hcalm => ⟨_, exec_dramPowerDown hmem huse hctrl hpd hcalm pc, ?_⟩⟩
  · rw [refreshDue_issued hcalm]
    exact modChan_owing_settled hp ..
  · rw [refreshDue_postponed hwait hmax]
    exact modChan_owing_settled hp ..
  · rw [refreshDue_forced hwait hmax, chan_settle, chan_modChan (s.bump _) _ hp, settle_dram]
    refine ⟨rfl, getPair_setPair .., settled_counted (regsWf_bump s hwf _) (by decide) ?_, rfl⟩
    unfold Claims.counted
    rw [reg_modChan, reg_bump_at hwf, if_pos rfl]
  · rw [chan_settle, chan_modChan s _ hp, settle_dram]
    exact ⟨getPair_setPair .., fun q hq => by rw [chan_settle, chan_modChan_ne s _ hq], rfl⟩

/-! Ageing and recalibration. -/

theorem exec_agePromotion {cls : DramClass} (hmem : s.memRuns = true) (hcls : cls = .ingest ∨ cls = .background) :
    exec (.agePromotion cls) s = finish s (s.bump Reg.MEM_AGED) := by
  show finish s (if _ then _ else _) = _
  rw [if_pos (by simp [hmem, hcls])]

/-- A recalibration with margins that pass shows them and does no more (R302). -/
theorem recalChan_pass {m : ChanMargins} (hread : s.minWidth ≤ m.readWidth) (hwrite : s.minWidth ≤ m.writeWidth)
    (hheight : s.minHeight ≤ m.height) : s.recalChan m =
      s.modChan m.chan fun c => { c with eye := eyeWord m.readWidth m.writeWidth m.height (c.eye / 2 ^ 24) } :=
  if_neg fun hlow => by
    rcases hlow with hlow | hlow | hlow
    · exact Nat.not_lt.2 hread hlow
    · exact Nat.not_lt.2 hwrite hlow
    · exact Nat.not_lt.2 hheight hlow

theorem exec_dramRecalPeriodic {p : Nat} (hmem : s.memRuns = true) (hctrl : s.bit Reg.MEM_CTRL 6 = true)
    (htakes : s.recals p = true) (hcalm : (s.chan p).panic = false) (m : ChanMargins) :
    exec (.dramRecalPeriodic p m) s = finish s (s.recalChan { m with chan := p }) := by
  show finish s (if _ then _ else _) = _
  rw [if_pos (by simp [hmem, hctrl, htakes, hcalm])]

theorem lt_length_of_recals {p : Nat} (h : s.recals p = true) : p < s.dram.chans.length :=
  lt_length_of_state fun hoff => by simp [State.recals, hoff] at h

/-- Settles O31: the promotion writes its counter only, and the recalibration the eye of its channel only. -/
theorem ageingAndRecalibrationComplete : Obligations.AgeingAndRecalibrationComplete := by
  intro s hwf hmem
  refine ⟨fun cls hcls => ⟨_, exec_agePromotion hmem hcls, ?_, ?_⟩,
    fun p m hctrl htakes hcalm hread hwrite hheight => ⟨_, exec_dramRecalPeriodic hmem hctrl htakes hcalm m, ?_⟩⟩
  · refine settled_counted (regsWf_bump s hwf _) (by decide) ?_
    unfold Claims.counted
    rw [reg_bump_at hwf, if_pos rfl]
  · rw [settle_dram]
    rfl
  · have hpass := recalChan_pass (s := s) (m := { m with chan := p }) hread hwrite hheight
    rw [hpass, chan_settle, chan_modChan s _ (lt_length_of_recals htakes)]
    exact ⟨rfl, rfl, fun q hq => by rw [chan_settle, chan_modChan_ne s _ hq]⟩

/-! The two statements at concrete states: after reset, in READY, with the channels given; POSTPONE_MAX is then 8, the margins
16, 16 and 12. -/

/-- After reset, in mode `m`, with memory that an Upsett has set up with channels `cs`. -/
def memoryState (m : Mode) (cs : List Chan) : State :=
  { State.reset with
    glb := { State.reset.glb with mode := m }
    dram := { State.reset.dram with chans := cs, usable := true } }

theorem memRuns_memoryState (m : Mode) (cs : List Chan) : (memoryState m cs).memRuns = true := by
  show (State.reset.domOn 6 && !State.reset.pllOff 3 && true) = true
  decide

/-- A channel that carries the first logical channel of its stack and owes `n` refreshes of its first pseudo-channel. -/
def carrying (n : Nat) : Chan := { state := .active, logical := 0, owed := (n, 0) }

/-- A refresh is issued, postponed up to the limit, and forced at it. -/
theorem refreshAndPowerDownComplete_witness :
    (∃ t, exec (.refreshDue 0 0 false) (memoryState .ready [carrying 8]) = .next t ∧ getPair (t.chan 0).owed 0 = 7) ∧
    (∃ t, exec (.refreshDue 0 0 true) (memoryState .ready [carrying 7]) = .next t ∧ getPair (t.chan 0).owed 0 = 8) ∧
    (∃ t, exec (.refreshDue 0 0 true) (memoryState .ready [carrying 8]) = .next t ∧ (t.chan 0).owed = (8, 0) ∧
      t.reg Reg.MEM_FORCED_REF = 1) ∧
    ∃ t, exec (.dramPowerDown 0 0) (memoryState .ready [carrying 8]) = .next t ∧ getPair (t.chan 0).pd 0 = true := by
  have hall := fun n => refreshAndPowerDownComplete (memoryState .ready [carrying n]) 0 0 reset_regsWf
    (memRuns_memoryState ..) rfl
  obtain ⟨hissued, -, hforced, hdown⟩ := hall 8
  obtain ⟨-, hpostponed, -⟩ := hall 7
  obtain ⟨t, ht, howed, -⟩ := hissued false rfl
  obtain ⟨u, hu, howed', -⟩ := hpostponed true rfl (by decide)
  obtain ⟨v, hv, howed'', -, hcount, -⟩ := hforced true rfl (by decide)
  obtain ⟨w, hw, hpd, -⟩ := hdown (by decide) (by decide) rfl
  exact ⟨⟨t, ht, howed⟩, ⟨u, hu, howed'⟩, ⟨v, hv, howed'', hcount.trans (by decide)⟩, w, hw, hpd⟩

/-- A promotion is counted, and margins that just pass are shown. -/
theorem ageingAndRecalibrationComplete_witness :
    (∃ t, exec (.agePromotion .ingest) (memoryState .ready [carrying 0]) = .next t ∧ t.reg Reg.MEM_AGED = 1) ∧
    ∃ t, exec (.dramRecalPeriodic 0 { chan := 0, readWidth := 16, writeWidth := 16, height := 12 })
      (memoryState .ready [carrying 0]) = .next t ∧ (t.chan 0).eye = 0x0C1010 ∧ (t.chan 0).state = .active := by
  obtain ⟨hage, hrecal⟩ := ageingAndRecalibrationComplete (memoryState .ready [carrying 0]) reset_regsWf
    (memRuns_memoryState ..)
  obtain ⟨t, ht, hcount, -⟩ := hage .ingest (.inl rfl)
  obtain ⟨u, hu, heye, hst, -⟩ := hrecal 0 { chan := 0, readWidth := 16, writeWidth := 16, height := 12 } (by decide)
    (by decide) rfl (by decide) (by decide) (by decide)
  exact ⟨⟨t, ht, hcount.trans (by decide)⟩, u, hu, heye.trans (by decide), hst⟩

end Sys2Proof.Proofs
end

section
/-! PROOFS. Hard fences, rebuild sweeps and the channel commands (R319, R321, R322). -/

namespace Sys2Proof.Proofs

open Sys2Proof Sys2Proof.Machine Sys2Proof.Laws

variable {s : State}

/-! Hard fences. -/

/-- A channel that becomes FAILED carries no logical channel. -/
theorem chan_failChan {p : Nat} (h : p < s.dram.chans.length) :
    (s.failChan p).chan p = { s.chan p with state := .failed, logical := 15 } := by
  unfold State.failChan
  rw [chan_withyChange, chan_modChan s _ h]

theorem chan_failChan_ne {p q : Nat} (h : q ≠ p) : (s.failChan p).chan q = s.chan q := by
  unfold State.failChan
  rw [chan_withyChange, chan_modChan_ne s _ h]

theorem length_failChan (p : Nat) : (s.failChan p).dram.chans.length = s.dram.chans.length := by
  unfold State.failChan
  rw [withyChange_dram, length_modChan]

/-- The move to the spare changes the channel and the spare only (R321). -/
theorem chan_moveTo {p sp : Nat} (hp : p < s.dram.chans.length) (hsp : sp < s.dram.chans.length) (hne : sp ≠ p) (l : Nat) :
    (s.moveTo p sp l).chan p = { s.chan p with state := .failed, logical := 15 } ∧
      (s.moveTo p sp l).chan sp = { s.chan sp with state := .active, logical := l % 15, pd := (false, false) } ∧
      ∀ q, q ≠ p → q ≠ sp → (s.moveTo p sp l).chan q = s.chan q := by
  have hmove : ∀ q, (s.moveTo p sp l).chan q =
      ((s.failChan p).modChan sp fun c => { c with state := .active, logical := l % 15, pd := (false, false) }).chan q :=
    fun _ => rfl
  refine ⟨?_, ?_, fun q hqp hqsp => ?_⟩
  · rw [hmove, chan_modChan_ne _ _ hne.symm, chan_failChan hp]
  · rw [hmove, chan_modChan _ _ (by rwa [length_failChan]), chan_failChan_ne hne]
  · rw [hmove, chan_modChan_ne _ _ hqsp, chan_failChan_ne hqp]

/-- The cause of a hard fence stands in its channel, its count and the log. -/
def faultNoted (s : State) (p cause : Nat) : State :=
  ((s.modChan p fun c => { c with fault := cause }).countFence p).eccLog 0x09 0 5 p cause 0

theorem faultNoted_chans (p cause : Nat) :
    (faultNoted s p cause).dram.chans = (s.modChan p fun c => { c with fault := cause }).dram.chans := by
  unfold faultNoted State.countFence
  rw [eccLog_chans, withyChange_dram]

theorem spareChan_faultNoted (p cause k : Nat) : (faultNoted s p cause).spareChan k = s.spareChan k :=
  spareChan_congr (fun q => (congrArg Chan.state (chan_of_chans (faultNoted_chans p cause) q)).trans
    (state_modChan (f := fun c => { c with fault := cause }) (fun _ => rfl) p q)) k

/-- A hard fence with a spare in the stack moves the logical channel at once (R321). -/
theorem hardFence_chans {p l sp : Nat} (hl : s.carried p = some l) (hsp : s.spareChan (p / 16) = some sp) (cause : Nat) :
    (s.hardFence p cause).dram.chans = ((faultNoted s p cause).moveTo p sp l).dram.chans := by
  have hsp' := (spareChan_faultNoted p cause (p / 16)).trans hsp
  unfold faultNoted at hsp' ⊢
  simp only [State.hardFence, hl, hsp', raise_dram]

/-- What such a fence leaves of the channels, once the step is settled. -/
theorem hardFence_settled {p l sp : Nat} (hl : s.carried p = some l) (hsp : s.spareChan (p / 16) = some sp) (cause : Nat)
    (s0 : State) :
    (((s.hardFence p cause).settle s0).chan p).state = .failed ∧ (((s.hardFence p cause).settle s0).chan p).fault = cause ∧
      (((s.hardFence p cause).settle s0).chan sp).state = .active ∧
      (((s.hardFence p cause).settle s0).chan sp).logical = l % 15 ∧
      ∀ q, q ≠ p → q ≠ sp → ((s.hardFence p cause).settle s0).chan q = s.chan q := by
  have hp := lt_length_of_inUse (carried_inUse hl)
  have hsplt := lt_length_of_state (s := s) (q := sp) (by simp [spareChan_state hsp])
  have hlen : (faultNoted s p cause).dram.chans.length = s.dram.chans.length := by rw [faultNoted_chans, length_modChan]
  have hfence : ∀ q, ((s.hardFence p cause).settle s0).chan q = ((faultNoted s p cause).moveTo p sp l).chan q := fun q => by
    rw [chan_settle, chan_of_chans (hardFence_chans hl hsp cause)]
  obtain ⟨hchan, hspare, hrest⟩ := chan_moveTo (s := faultNoted s p cause) (hlen ▸ hp) (hlen ▸ hsplt)
    (spareChan_ne_carried hl hsp) l
  rw [hfence, hfence, hchan, hspare]
  refine ⟨rfl, ?_, rfl, rfl, fun q hqp hqsp => ?_⟩
  · show ((faultNoted s p cause).chan p).fault = cause
    rw [chan_of_chans (faultNoted_chans p cause), chan_modChan s _ hp]
  · rw [hfence, hrest q hqp hqsp, chan_of_chans (faultNoted_chans p cause), chan_modChan_ne s _ hqp]

/-! CAPAR and READ_TIMEOUT. -/

/-- `n` CAPAR errors of channel `p` are counted. -/
def caparCounted (s : State) (p n : Nat) : State := s.bumpBy (Reg.MEM_CH_CAPAR p) n

theorem caparCounted_eq {n : Nat} (hn : 0 < n) (p : Nat) :
    caparCounted s p n = s.setReg (Reg.MEM_CH_CAPAR p) (min (s.reg (Reg.MEM_CH_CAPAR p) + n) 0xFFFFFFFF) := bumpBy_pos hn _

/-- The counters of CAPAR errors are none of the interrupt registers. -/
theorem capar_apart {p : Nat} (hp : p < 64) : Reg.MEM_CH_CAPAR p ∉ Claims.interruptRegs := by
  have hblock : regBlock (Reg.MEM_CH_CAPAR p) = 9 := by
    unfold regBlock Reg.MEM_CH_CAPAR
    omega
  have hirq : ∀ o ∈ Claims.interruptRegs, regBlock o ≠ 9 := by decide
  exact fun h => hirq _ h hblock

/-- CAPAR errors of a channel in use are counted, and those that reach the threshold are a hard cause (R319). -/
theorem exec_capar {p l n : Nat} (hp : p < 64) (hwf : s.regsWf = true) (hmem : s.memRuns = true)
    (hl : s.carried p = some l) (hn : 0 < n) : exec (.capar p n) s =
      finish s (if atLeast1 (s.field Reg.MEM_FENCE_CFG 15 8) ≤ n then (caparCounted s p n).hardFence p 0x02
        else (caparCounted s p n).raise .memErr) := by
  have hcfg : Reg.MEM_FENCE_CFG ≠ Reg.MEM_CH_CAPAR p := by
    unfold Reg.MEM_FENCE_CFG Reg.MEM_CH_CAPAR
    omega
  have hfield : (caparCounted s p n).field Reg.MEM_FENCE_CFG 15 8 = s.field Reg.MEM_FENCE_CFG 15 8 := by
    rw [caparCounted_eq hn, field_setReg_ne hwf _ _ _ hcfg]
  have hl' : ((caparCounted s p n).carried p).isSome = true := by
    rw [caparCounted_eq hn]
    exact Option.isSome_of_eq_some hl
  have hmod : s.bumpBy (Reg.MEM_CH_CAPAR (p % 64)) n = caparCounted s p n := by
    unfold caparCounted
    rw [Nat.mod_eq_of_lt hp]
  show finish s (if _ then _ else _) = _
  rw [if_neg (by simp [hmem, carried_inUse hl, Nat.ne_of_gt hn])]
  dsimp only
  rw [hmod]
  simp only [hfield, hl', and_true]

theorem exec_readTimeout (hmem : s.memRuns = true) (p : Nat) :
    exec (.readTimeout p) s = finish s (s.hardFence p 0x03) := by
  show finish s (if _ then _ else _) = _
  rw [if_pos hmem]

/-- Settles O32: a hard cause moves the logical channel at once, and fewer CAPAR errors write their counter and a source. -/
theorem hardFenceCompletes : Obligations.HardFenceCompletes := by
  intro s p l sp hp hwf hmem hl hsp
  refine ⟨fun n hn => ?_, fun n hpos hn => ⟨_, exec_capar hp hwf hmem hl hpos, ?_, ?_⟩,
    _, exec_readTimeout hmem p, hardFence_settled hl hsp ..⟩
  · have hpos : 0 < n := by
      unfold atLeast1 at hn
      split at hn <;> omega
    refine ⟨_, exec_capar hp hwf hmem hl hpos, ?_⟩
    rw [if_pos hn, caparCounted_eq hpos]
    exact hardFence_settled (s := s.setReg _ _) hl hsp ..
  all_goals rw [if_neg (Nat.not_le.2 hn), caparCounted_eq hpos]
  · have hset := regsWf_setReg s hwf (Reg.MEM_CH_CAPAR p) (min (s.reg (Reg.MEM_CH_CAPAR p) + n) 0xFFFFFFFF)
    refine settled_counted (quiet_raise.wf hset) (capar_apart hp) ?_
    unfold Claims.counted
    rw [quiet_raise.reg hset _ (capar_apart hp), reg_setReg_self s hwf]
    omega
  · rw [settle_dram, raise_dram]
    rfl

/-! Rebuild sweeps. -/

/-- The rebuilds that a rebuild's end leaves: one of them takes the bitmap that it frees (R321). -/
def sweepsLeft (sweeps : List Sweep) (l : Nat) : List Sweep :=
  let rest := sweeps.filter fun x => x.lch ≠ l
  match rest.findIdx? fun x => !x.bitmap with
  | some i => rest.modify i fun x => { x with bitmap := true }
  | none => rest

/-- Changing one element of a list keeps what holds of all and what the change keeps. -/
theorem forall_mem_modify {α : Type} {P : α → Prop} {f : α → α} (hf : ∀ x, P x → P (f x)) {xs : List α}
    (h : ∀ x ∈ xs, P x) (i : Nat) : ∀ x ∈ xs.modify i f, P x := by
  intro x hx
  obtain ⟨k, hk, rfl⟩ := List.mem_iff_getElem.1 hx
  rw [List.getElem_modify]
  split
  · exact hf _ (h _ (List.getElem_mem _))
  · exact h _ (List.getElem_mem _)

theorem lch_sweepsLeft (sweeps : List Sweep) (l : Nat) : ∀ x ∈ sweepsLeft sweeps l, x.lch ≠ l := by
  have hrest : ∀ x ∈ sweeps.filter (fun x : Sweep => x.lch ≠ l), x.lch ≠ l := fun x hx => by
    simpa using (List.mem_filter.1 hx).2
  unfold sweepsLeft
  dsimp only
  split
  · exact forall_mem_modify (P := fun x : Sweep => x.lch ≠ l) (f := fun x => { x with bitmap := true }) (fun _ => id) hrest _
  · exact hrest

/-- The beats that a rebuild of a logical channel finds void are written (R321). -/
def voidWritten (s : State) (l : Nat) (w : Sweep) : State :=
  (((List.range (channelSpan s.dram.order l / 64)).map fun i => addrOfOffset s.dram.order l (64 * i) / 64).filter
    fun b => !w.valid.contains b).foldl (fun s b => s.sweepBeat b) s

/-- A rebuild that ends writes the void beats and is taken from the list. -/
theorem exec_rebuildSweepDone {l : Nat} {w : Sweep} (h : s.dram.sweeps.find? (fun w => w.lch = l ∧ w.bitmap = true) = some w) :
    exec (.rebuildSweepDone l) s = finish s (({ voidWritten s l w with
      dram := { (voidWritten s l w).dram with
        sweeps := sweepsLeft (voidWritten s l w).dram.sweeps l } } : State).raise .eccUe) := by
  show execRebuildSweepDone l s = _
  unfold execRebuildSweepDone
  rw [h]
  rfl

/-! Channel commands. -/

theorem onlyIn_run {modes : List Mode} (h : s.glb.mode ∈ modes) (off : Nat) (f : State → State) :
    s.onlyIn modes off f = f s := if_pos h

theorem exec_memChRetrain {p m : Nat} (hm : s.writeVerdict (Reg.MEM_CH_CMD p) 15 2 = .ok m false)
    (hmode : s.glb.mode = .service) (hmem : s.memRuns = true) (r : ChanTraining) :
    exec (.memChRetrain p r) s = finish s (s.trainAll [{ r with chan := p }]) := by
  show finish s (s.command _ _ _) = _
  rw [command_ok hm, onlyIn_run (by simp [hmode]), if_pos hmem]

/-- A write of RETIRE that no rule drops retires a channel that is FAILED or OFF (R322). -/
theorem exec_memChRetire {p m : Nat} (hm : s.writeVerdict (Reg.MEM_CH_CMD p) 15 4 = .ok m false)
    (hmode : s.glb.mode = .service) (hst : (s.chan p).state = .failed ∨ (s.chan p).state = .off) :
    exec (.memChRetire p) s =
      finish s ((s.modChan p fun c => { c with state := .retired }).withyChange 2 2 p 5) := by
  show finish s (s.command _ _ _) = _
  rw [command_ok hm, onlyIn_run (by simp [hmode]), if_pos hst]

/-- Training one channel that is not RETIRED trains it alone. -/
theorem trainAll_chans {x : ChanTraining} (hp : x.chan < 64) (hst : (s.chan x.chan).state ≠ .retired) :
    (s.trainAll [x]).dram.chans = (s.trainChan x).dram.chans := by
  simp [State.trainAll, hp, hst]

/-- The state that a FAILED channel of a stack takes when it trains again (R322). -/
def retrained (s : State) (stack : Nat) : ChanState := if (s.spareChan stack).isNone then .spare else .off

/-- The eye that a training measures. -/
def eyeOf (x : ChanTraining) : Nat := eyeWord x.readWidth x.writeWidth x.height x.caWidth

/-- A FAILED channel that passes every step shows its eye and takes its new state (R322). -/
theorem trainChan_failed_chans {x : ChanTraining} (hst : (s.chan x.chan).state = .failed) (hpass : s.failedStep x = none) :
    (s.trainChan x).dram.chans = ((s.modChan x.chan fun c => { c with eye := eyeOf x }).modChan x.chan fun c =>
      { c with state := retrained s (x.chan / 16), logical := 15 }).dram.chans := by
  have hpass' : (s.modChan x.chan fun c => { c with eye := eyeOf x }).failedStep x = none := hpass
  have hspare : (s.modChan x.chan fun c => { c with eye := eyeOf x }).spareChan (x.chan / 16) = s.spareChan (x.chan / 16) :=
    spareChan_congr (fun q => state_modChan (f := fun c => { c with eye := eyeOf x }) (fun _ => rfl) _ q) _
  unfold eyeOf at hpass' hspare ⊢
  simp only [State.trainChan, hpass', hst, hspare, withyChange_dram, retrained]

/-- Settles O34: the list of rebuilds loses the one that ends, and each channel command writes its own channel only. -/
theorem sweepAndChannelCommandsComplete : Obligations.SweepAndChannelCommandsComplete := by
  intro s
  refine ⟨fun l w hw => ?_, fun p r htaken hmode hmem hp hst hpass => ?_, fun p htaken hmode hp hst => ?_⟩
  · refine ⟨_, exec_rebuildSweepDone hw, ?_⟩
    rw [settle_dram, raise_dram]
    exact lch_sweepsLeft _ _
  · obtain ⟨m, hm⟩ := htaken
    have hlen : p < s.dram.chans.length := lt_length_of_state (by simp [hst])
    refine ⟨_, exec_memChRetrain hm hmode hmem r, ?_⟩
    have hchan : ∀ q, ((s.trainAll [{ r with chan := p }]).settle s).chan q =
        ((s.modChan p fun c => { c with eye := eyeOf r }).modChan p fun c =>
          { c with state := retrained s (p / 16), logical := 15 }).chan q := fun q => by
      rw [chan_settle]
      exact chan_of_chans ((trainAll_chans (x := { r with chan := p }) hp (by simp [hst])).trans
        (trainChan_failed_chans hst hpass)) q
    rw [hchan, chan_modChan _ _ (by rwa [length_modChan]), chan_modChan s _ hlen]
    exact ⟨rfl, rfl, fun q hq => by rw [hchan, chan_modChan_ne _ _ hq, chan_modChan_ne s _ hq]⟩
  · obtain ⟨m, hm⟩ := htaken
    refine ⟨_, exec_memChRetire hm hmode hst, ?_⟩
    rw [chan_settle, chan_withyChange, chan_modChan s _ hp]
    exact ⟨rfl, fun q hq => by rw [chan_settle, chan_withyChange, chan_modChan_ne s _ hq]⟩

/-! The two statements at concrete states: channel 0 carries logical channel 0 or has failed, and channel 1 is the spare; the
CAPAR threshold is 8 after reset. -/

def spareChannel : Chan := { state := .spare }

/-- CAPAR errors at the threshold move the logical channel, as a read that times out does; one fewer are counted. -/
theorem hardFenceCompletes_witness :
    (∃ t, exec (.capar 0 8) (memoryState .ready [carrying 0, spareChannel]) = .next t ∧ (t.chan 0).state = .failed ∧
      (t.chan 0).fault = 2 ∧ (t.chan 1).state = .active ∧ (t.chan 1).logical = 0) ∧
    (∃ t, exec (.capar 0 7) (memoryState .ready [carrying 0, spareChannel]) = .next t ∧ t.reg (Reg.MEM_CH_CAPAR 0) = 7 ∧
      (t.chan 0).state = .active) ∧
    ∃ t, exec (.readTimeout 0) (memoryState .ready [carrying 0, spareChannel]) = .next t ∧ (t.chan 0).fault = 3 ∧
      (t.chan 1).state = .active := by
  obtain ⟨hcapar, hfewer, v, hv, -, hfault, hspare, -⟩ := hardFenceCompletes (memoryState .ready [carrying 0, spareChannel])
    0 0 1 (by decide) reset_regsWf (memRuns_memoryState ..) rfl (by decide)
  obtain ⟨t, ht, hst, hfault', hspare', hlogical, -⟩ := hcapar 8 (by decide)
  obtain ⟨u, hu, hcount, hdram⟩ := hfewer 7 (by decide) (by decide)
  have hactive : (u.chan 0).state = .active := by
    rw [chan_of_chans (congrArg Dram.chans hdram)]
    rfl
  exact ⟨⟨t, ht, hst, hfault', hspare', hlogical⟩, ⟨u, hu, hcount.trans (by decide), hactive⟩, v, hv, hfault, hspare⟩

/-- A training whose margins just pass. -/
def passingTraining : ChanTraining :=
  { chan := 0, impedanceOk := true, caWidth := 16, strobeOk := true, readWidth := 16, writeWidth := 16, height := 12 }

/-- The rebuilds of logical channels 3 and 20. -/
def rebuildingState : State :=
  { memoryState .ready [] with
    dram := { (memoryState .ready []).dram with
      sweeps := [{ lch := 3, spare := 1, bitmap := true, valid := [] },
        { lch := 20, spare := 17, bitmap := false, valid := [] }] } }

theorem rebuildSweepDone_witness :
    ∃ t, exec (.rebuildSweepDone 3) rebuildingState = .next t ∧ ∀ x ∈ t.dram.sweeps, x.lch ≠ 3 :=
  (sweepAndChannelCommandsComplete rebuildingState).1 3 _ rfl

/-- A FAILED channel trains again to SPARE, to OFF beside a spare, and retires for good. -/
theorem channelCommands_witness :
    (∃ t, exec (.memChRetrain 0 passingTraining) (memoryState .service [{ state := .failed }]) = .next t ∧
      (t.chan 0).state = .spare ∧ (t.chan 0).eye = 0x100C1010) ∧
    (∃ t, exec (.memChRetrain 0 passingTraining) (memoryState .service [{ state := .failed }, spareChannel]) = .next t ∧
      (t.chan 0).state = .off) ∧
    ∃ t, exec (.memChRetire 0) (memoryState .service [{ state := .failed }]) = .next t ∧ (t.chan 0).state = .retired := by
  obtain ⟨-, halone, hretire⟩ := sweepAndChannelCommandsComplete (memoryState .service [{ state := .failed }])
  obtain ⟨-, hbeside, -⟩ := sweepAndChannelCommandsComplete (memoryState .service [{ state := .failed }, spareChannel])
  obtain ⟨t, ht, hst, heye, -⟩ := halone 0 passingTraining ⟨7, by decide⟩ rfl (memRuns_memoryState ..) (by decide) rfl
    (by decide)
  obtain ⟨u, hu, hst', -⟩ := hbeside 0 passingTraining ⟨7, by decide⟩ rfl (memRuns_memoryState ..) (by decide) rfl
    (by decide)
  obtain ⟨v, hv, hst'', -⟩ := hretire 0 ⟨7, by decide⟩ rfl (by decide) (.inl rfl)
  exact ⟨⟨t, ht, hst.trans (by decide), heye.trans (by decide)⟩, ⟨u, hu, hst'.trans (by decide)⟩, v, hv, hst''⟩

end Sys2Proof.Proofs
end

section
/-! PROOFS. RETIRE_PAGE (R314, R389): what the withy pool keeps while a command is answered, and the page's replacement in it. -/

namespace Sys2Proof.Proofs

open Sys2Proof Sys2Proof.Machine Sys2Proof.Laws

variable {s : State}

/-! The withy pool changes by its changes alone. -/

@[simp] theorem shadowPut_live (e : ShadowEntry) : (s.shadowPut e).rcr.live = s.rcr.live := by
  unfold State.shadowPut
  dsimp only
  split
  · rfl
  · split <;> rfl

@[simp] theorem trigger_live (code detail : Nat) : (s.trigger code detail).rcr.live = s.rcr.live := by
  unfold State.trigger
  dsimp only
  split
  · rfl
  · split
    · exact shadowPut_live (s := { s with rcr := { s.rcr with seqNext := _ } }) _
    · exact shadowPut_live (s := { s with rcr := { s.rcr with seqNext := _ } }) _

@[simp] theorem raiseN_live (v : Nat) : (s.raiseN v).rcr.live = s.rcr.live := by
  unfold State.raiseN
  split
  · rfl
  · rw [trigger_live]
    split <;> rfl

@[simp] theorem raise_live (x : Src) : (s.raise x).rcr.live = s.rcr.live := raiseN_live _

@[simp] theorem settle_live (s0 : State) : (s.settle s0).rcr.live = s.rcr.live := by
  refine List.foldlRecOn (motive := fun u : State => u.rcr.live = s.rcr.live) levelSources _ rfl fun u hu v _ => ?_
  split
  · rw [raiseN_live, hu]
  · exact hu

@[simp] theorem advanceHead_live (r : Nat) : (s.advanceHead r).rcr.live = s.rcr.live := by
  unfold State.advanceHead
  dsimp only
  split <;> rfl

@[simp] theorem haltRing_live (r reason : Nat) : (s.haltRing r reason).rcr.live = s.rcr.live := raise_live _

@[simp] theorem writeCompletion_live (r st d res : Nat) : (s.writeCompletion r st d res).rcr.live = s.rcr.live := by
  unfold State.writeCompletion
  split
  · rfl
  · extract_lets s1 s2 s3 s4 s5
    have h2 : s2.rcr.live = s.rcr.live := by
      unfold s2
      split <;> rfl
    have h4 : s4.rcr.live = s3.rcr.live := by
      unfold s4
      split <;> rfl
    have h5 : s5.rcr.live = s.rcr.live := by
      unfold s5
      split
      · rw [raise_live, h4, advanceHead_live, h2]
      · rw [h4, advanceHead_live, h2]
    split
    · rw [haltRing_live, h5]
    · exact h5

@[simp] theorem completeRing_live (r st d res : Nat) : (s.completeRing r st d res).rcr.live = s.rcr.live := by
  unfold State.completeRing
  split
  · exact writeCompletion_live ..
  · split <;> rfl

@[simp] theorem rejectMalformed_live (r : Nat) : (s.rejectMalformed r).rcr.live = s.rcr.live := by
  unfold State.rejectMalformed
  split
  · rfl
  · split
    · rfl
    · split
      · rfl
      · exact completeRing_live ..

/-- The answer to a command leaves the pool. -/
theorem answer_live {r : Nat} (hr : isCmdRing r = true) (st d res : Nat) :
    (s.answer r st d res).rcr.live = s.rcr.live := by
  unfold State.answer State.completeCmd
  rw [if_pos hr]
  dsimp only
  split
  · rw [rejectMalformed_live, completeRing_live]
  · exact completeRing_live ..

@[simp] theorem eccLog_live (event region cls chan detail addr : Nat) :
    (s.eccLog event region cls chan detail addr).rcr.live = s.rcr.live := by
  unfold State.eccLog
  split <;> rfl

/-- A change of kind 3 and action 0 enters a page with its replacement (R389). -/
theorem withyChange_pages (page idx : Nat) :
    (s.withyChange 3 0 page idx).rcr.live.pages = smPut (fun _ => 65536) page idx s.rcr.live.pages := by
  unfold State.withyChange
  dsimp only
  split
  · rfl
  · rw [trigger_live]
    rfl

/-! A page takes its replacement. -/

/-- The words of a page that errors struck, copied with correction to its replacement (R314). -/
def pageCopied (s : State) (page : Nat) : State :=
  (s.dram.flips.filter fun p => p.1 / 8192 = page).foldl (fun s p =>
    match s.dram.wordClass p.1 with
    | .ue => s.markWord p.1
    | .marked => s.markWord p.1
    | .clean => s
    | _ => s.cleanWord p.1) s

theorem pageCopied_live (page : Nat) : (pageCopied s page).rcr.live = s.rcr.live := by
  refine List.foldlRecOn (motive := fun u : State => u.rcr.live = s.rcr.live) _ _ rfl fun u hu p _ => ?_
  split <;> exact hu

/-- The replacement stands in the pool under its page. -/
theorem takeReplacement_pages (page idx : Nat) :
    (s.takeReplacement page idx).rcr.live.pages = smPut (fun _ => 65536) page idx s.rcr.live.pages := by
  have hpages : ((pageCopied s page).withyChange 3 0 page idx).rcr.live.pages =
      smPut (fun _ => 65536) page idx s.rcr.live.pages := by
    rw [withyChange_pages, pageCopied_live]
  show (if _ then (((pageCopied s page).withyChange 3 0 page idx).eccLog ..) else _ : State).rcr.live.pages = _
  split
  · rw [eccLog_live, hpages]
  · exact hpages

/-! RETIRE_PAGE. -/

/-- A page that no rule protects, and that has no replacement, takes the lowest free one (R314). -/
theorem retirePage_takes {a idx : Nat} (hlow : a < 0x1800000000) (hregion : s.regionAt a ≠ .reserve)
    (hfree : s.freeReplacement = some idx) (hcopies : s.dram.copies = []) (hsweeps : s.dram.sweeps = [])
    (hnew : s.replacementOf (a / 65536) = none) (r : Nat) : s.retirePage r a false =
      (s.takeReplacement (a / 65536) idx).answer r Stat.ok 0
        ((s.takeReplacement (a / 65536) idx).retireResult idx false) := by
  simp only [State.retirePage, Nat.not_le.2 hlow, hregion, hfree, hcopies, hsweeps, hnew, List.isEmpty_nil, Bool.not_true,
    Bool.or_self, Bool.false_eq_true, if_false]

theorem execRetirePage_run {r : Nat} {e : CurEntry} (hfront : Claims.front s r 0x08 none e)
    (hzero : zeroBytes e 13 35 = true) (hmode : s.glb.mode ∈ [Mode.ready, .expose, .dryrun, .service])
    (hawake : Claims.awakeNow s) :
    exec (.retirePage r false) s = finish s (s.retirePage r (fieldLE e.bytes 8 5) false) := by
  obtain ⟨hcmd, hclean, hfree⟩ := hfront
  show execRetirePage r false s = _
  unfold execRetirePage
  rw [hcmd]
  dsimp only
  rw [hzero, if_pos rfl, checked_run hclean hmode (by simp) hfree, awake_run hawake]

/-- Settles O8: past the checks the page takes its replacement, and the answer that follows leaves the pool. -/
theorem retirePageCompletes : Obligations.RetirePageCompletes := by
  intro s r e idx hrings hfront hzero hmode hawake hlow hregion hfree hcopies hsweeps hnew
  have hgo := InProgress.of_front hrings hfront
  have hgo' := hgo.of_fr (fr_takeReplacement (page := fieldLE e.bytes 8 5 / 65536) (idx := idx) (W := 98304) rfl Fr.refl)
    rfl rfl rfl
  refine ⟨_, execRetirePage_run hfront hzero hmode hawake, ?_⟩
  rw [retirePage_takes hlow hregion hfree hcopies hsweeps hnew, settle_ring, settle_live, answer_live hgo.ring,
    takeReplacement_pages]
  exact ⟨hgo'.cur_answer .., rfl⟩

/-! The statement at a concrete state: RETIRE_PAGE of page 0 at the front of ring 128 after reset, in READY. -/

/-- Without retired pages the lowest replacement page is free. -/
theorem freeReplacement_commandState (m : Mode) (e : CurEntry) : (commandState m e).freeReplacement = some 0 :=
  List.find?_range_eq_some.2 ⟨rfl, List.mem_range.2 (by decide), fun _ h => absurd h (Nat.not_lt_zero _)⟩

theorem retirePageCompletes_witness : ∃ t, exec (.retirePage 128 false) (commandState .ready (commandEntry 8 0)) = .next t ∧
    (t.ring 128).cur = none ∧ t.rcr.live.pages = [(0, 0)] :=
  retirePageCompletes (commandState .ready (commandEntry 8 0)) 128 _ 0 (by decide) ⟨rfl, by decide, rfl⟩ (by decide)
    (by decide) (.inl (by decide)) (by decide) (by decide) (freeReplacement_commandState ..) rfl rfl rfl

end Sys2Proof.Proofs
end

section
/-! PROOFS. The interrupt registers (R341 to R343): a source's bits in IRQ_PEND and among the owed messages, and the four writes
and the message that change them. -/

namespace Sys2Proof.Proofs

open Sys2Proof Sys2Proof.Machine Sys2Proof.Laws

variable {s : State}

/-! One bit of a register. -/

/-- A number with its bit `i` replaced by `c` reads `c` there and as before elsewhere. -/
theorem testBit_sub_add_bit (n i : Nat) {c : Nat} (hc : c < 2) (j : Nat) :
    (n - n / 2 ^ i % 2 * 2 ^ i + c * 2 ^ i).testBit j = if j = i then decide (c = 1) else n.testBit j := by
  have hsplit : n = 2 ^ i * (n / 2 ^ i) + n % 2 ^ i := (Nat.div_add_mod n _).symm
  have hlow : n % 2 ^ i < 2 ^ i := Nat.mod_lt _ (Nat.two_pow_pos i)
  generalize n / 2 ^ i = a at hsplit ⊢
  generalize n % 2 ^ i = r at hsplit hlow
  have hnew : n - a % 2 * 2 ^ i + c * 2 ^ i = 2 ^ i * (2 * (a / 2) + c) + r := by
    have ha : 2 ^ i * a = 2 ^ i * (2 * (a / 2)) + a % 2 * 2 ^ i := by
      conv_lhs => rw [← Nat.div_add_mod a 2]
      ring
    rw [hsplit, ha, Nat.mul_add, Nat.mul_comm c]
    omega
  rw [hnew, hsplit, Nat.testBit_two_pow_mul_add _ hlow, Nat.testBit_two_pow_mul_add _ hlow]
  rcases lt_trichotomy j i with hj | rfl | hj
  · rw [if_pos hj, if_pos hj, if_neg hj.ne]
  · simp [Nat.testBit_zero, Nat.add_mod, Nat.mod_eq_of_lt hc]
  · obtain ⟨k, hk⟩ : ∃ k, j - i = k + 1 := ⟨j - i - 1, by omega⟩
    rw [if_neg hj.not_gt, if_neg hj.not_gt, if_neg hj.ne', hk, Nat.testBit_succ, Nat.testBit_succ]
    congr 1
    omega

/-- Writing one bit of a register leaves its other bits. -/
theorem bit_setField_bit (h : s.regsWf = true) (off i : Nat) {c : Nat} (hc : c < 2) {j : Nat} (hj : j < 32) :
    (s.setField off i i c).bit off j = if j = i then decide (c = 1) else s.bit off j := by
  have hval : s.reg off - s.field off i i * 2 ^ i + c % 2 ^ (i + 1 - i) * 2 ^ i
      = s.reg off - s.reg off / 2 ^ i % 2 * 2 ^ i + c * 2 ^ i := by
    simp [State.field, bitsOf, Nat.mod_eq_of_lt hc]
  show ((s.setReg off _).reg off).testBit j = _
  rw [reg_setReg_self s h, hval, Nat.testBit_mod_two_pow, decide_eq_true hj, Bool.true_and, testBit_sub_add_bit _ _ hc]
  rfl

/-! The pending bits (R342). -/

theorem pendReg_cases (v : Nat) : pendReg v = Reg.IRQ_PEND_LO ∨ pendReg v = Reg.IRQ_PEND_HI := by
  unfold pendReg
  split <;> simp

theorem pendReg_ne {off : Nat} (hlo : off ≠ Reg.IRQ_PEND_LO) (hhi : off ≠ Reg.IRQ_PEND_HI) (v : Nat) : pendReg v ≠ off := by
  rcases pendReg_cases v with h | h <;> rw [h]
  · exact hlo.symm
  · exact hhi.symm

/-- Two of the 64 sources with the same register and the same bit are one. -/
theorem source_eq {v n : Nat} (hv : v < 64) (hn : n < 64) (hreg : pendReg n = pendReg v) (hbit : n % 32 = v % 32) : n = v := by
  unfold pendReg at hreg
  split at hreg <;> split at hreg
  · omega
  · exact absurd hreg (by decide)
  · exact absurd hreg (by decide)
  · omega

theorem pending_of_reg {t : State} {v : Nat} (h : t.reg (pendReg v) = s.reg (pendReg v)) : t.pending? v = s.pending? v := by
  unfold State.pending? State.bit
  rw [h]

theorem pending_setReg (h : s.regsWf = true) {off : Nat} (hlo : off ≠ Reg.IRQ_PEND_LO) (hhi : off ≠ Reg.IRQ_PEND_HI)
    (x v : Nat) : (s.setReg off x).pending? v = s.pending? v :=
  pending_of_reg (reg_setReg_ne s h x (pendReg_ne hlo hhi v))

/-- Writing a source's pending bit leaves those of the others. -/
theorem pending_setField (h : s.regsWf = true) {v n : Nat} (hv : v < 64) (hn : n < 64) {c : Nat} (hc : c < 2) :
    (s.setField (pendReg v) (v % 32) (v % 32) c).pending? n = if n = v then decide (c = 1) else s.pending? n := by
  by_cases hreg : pendReg n = pendReg v
  · have hiff : n % 32 = v % 32 ↔ n = v := ⟨source_eq hv hn hreg, fun e => by rw [e]⟩
    unfold State.pending?
    rw [hreg, bit_setField_bit h _ _ hc (Nat.mod_lt _ (by decide))]
    simp only [hiff]
  · rw [if_neg fun e => hreg (by rw [e])]
    exact pending_of_reg (reg_setField_ne s h _ _ _ hreg)

/-! The owed messages (R343). -/

theorem owed_unowe {v n : Nat} (hn : n < 64) : (s.unowe v).hst.owed.getLsbD n = (s.hst.owed.getLsbD n && decide (n ≠ v)) := by
  show (s.hst.owed &&& ~~~BitVec.ofNat 64 (2 ^ v)).getLsbD n = _
  rw [BitVec.getLsbD_and, BitVec.getLsbD_not, BitVec.getLsbD_ofNat, Nat.testBit_two_pow]
  simp [hn, eq_comm]

/-! No register from PD_AON's block up decides a level source (Table 11.6). -/

theorem level_setReg_above (h : s.regsWf = true) {off : Nat} (x : Nat) (hoff : 12 ≤ off / 0x100000) (n : Nat) :
    (s.setReg off x).level n = s.level n := by
  have hne : ∀ o, o / 0x100000 < 12 → (s.setReg off x).reg o = s.reg o := fun o ho =>
    reg_setReg_ne s h x fun e => Nat.not_lt.2 hoff (e ▸ ho)
  have hfield : ∀ o hi lo, o / 0x100000 < 12 → (s.setReg off x).field o hi lo = s.field o hi lo := fun o hi lo ho => by
    unfold State.field
    rw [hne o ho]
  have hregions : (s.setReg off x).regions = s.regions := by
    refine List.map_congr_left fun n hn => ?_
    have hn := List.mem_range.1 hn
    have h0 : Reg.MEM_REGION_n_0 n / 0x100000 < 12 := by unfold Reg.MEM_REGION_n_0; omega
    have h1 : Reg.MEM_REGION_n_1 n / 0x100000 < 12 := by unfold Reg.MEM_REGION_n_1; omega
    simp only [hfield _ _ _ h0, hfield _ _ _ h1]
  have hbank : (s.setReg off x).bankBase = s.bankBase := by
    funext b
    unfold State.bankBase State.reg64
    rw [hne _ (by decide), hne _ (by decide), hne _ (by decide), hne _ (by decide)]
  have hlimit := hfield Reg.WVR_LIMITS 23 16 (by decide)
  simp only [State.level, State.reload, State.tableMarks, State.regionAt, State.lowWorking, hregions, hbank, hlimit]
  rfl

theorem pendReg_above (v : Nat) : 12 ≤ pendReg v / 0x100000 := by
  rcases pendReg_cases v with h | h
  · rw [h]
    decide
  · rw [h]
    decide

/-! The sources of a written word. -/

theorem bitsSet_lt {hi : Bool} {v n : Nat} (h : n ∈ bitsSet hi v) : n < 64 := by
  obtain ⟨i, hi', rfl⟩ := List.mem_map.1 h
  have := List.mem_range.1 (List.mem_filter.1 hi').1
  split <;> omega

/-! Clearing (R342). -/

/-- What a write of IRQ_PEND does to one source that it names. -/
def clearSource (s : State) (v : Nat) : State :=
  if s.level v then s else (s.setField (pendReg v) (v % 32) (v % 32) 0).unowe v

theorem pendClear_eq (hi : Bool) (v : Nat) : s.pendClear hi v = (bitsSet hi v).foldl clearSource s := rfl

theorem regsWf_clearSource (h : s.regsWf = true) (v : Nat) : (clearSource s v).regsWf = true := by
  unfold clearSource
  split
  · exact h
  · exact regsWf_setField s h ..

theorem level_clearSource (h : s.regsWf = true) (v n : Nat) : (clearSource s v).level n = s.level n := by
  unfold clearSource
  split
  · rfl
  · exact level_setReg_above h _ (pendReg_above v) n

theorem pending_clearSource (h : s.regsWf = true) {v n : Nat} (hv : v < 64) (hn : n < 64) :
    (clearSource s v).pending? n = (s.pending? n && (s.level n || decide (n ≠ v))) := by
  unfold clearSource
  split
  case isTrue hlevel => by_cases e : n = v <;> simp [e, hlevel]
  case isFalse hlevel =>
    refine (pending_setField h hv hn (by decide)).trans ?_
    by_cases e : n = v <;> simp [e, hlevel]

theorem owed_clearSource {v n : Nat} (hn : n < 64) :
    (clearSource s v).hst.owed.getLsbD n = (s.hst.owed.getLsbD n && (s.level n || decide (n ≠ v))) := by
  unfold clearSource
  split
  case isTrue hlevel => by_cases e : n = v <;> simp [e, hlevel]
  case isFalse hlevel =>
    refine (owed_unowe hn).trans ?_
    show (s.hst.owed.getLsbD n && _) = _
    by_cases e : n = v <;> simp [e, hlevel]

/-- Clearing a list of sources changes no level condition, and keeps the pending bit and the owed message of just the sources that
are not in the list or whose level is true. -/
theorem clearSources_clears {l : List Nat} (hl : ∀ v ∈ l, v < 64) (h : s.regsWf = true) :
    (∀ n, (l.foldl clearSource s).level n = s.level n) ∧ ∀ n, n < 64 →
      (l.foldl clearSource s).pending? n = (s.pending? n && (s.level n || decide (n ∉ l))) ∧
      (l.foldl clearSource s).hst.owed.getLsbD n = (s.hst.owed.getLsbD n && (s.level n || decide (n ∉ l))) := by
  induction l generalizing s with
  | nil => simp
  | cons v l ih =>
    obtain ⟨hlevel, hbits⟩ := ih (fun w hw => hl w (List.mem_cons_of_mem _ hw)) (regsWf_clearSource h v)
    refine ⟨fun n => (hlevel n).trans (level_clearSource h v n), fun n hn => ?_⟩
    obtain ⟨hpend, howed⟩ := hbits n hn
    have hnot : (s.level n || decide (n ∉ v :: l)) = ((s.level n || decide (n ≠ v)) && (s.level n || decide (n ∉ l))) := by
      rw [← Bool.or_and_distrib_left]
      simp
    rw [List.foldl_cons, hpend, howed, level_clearSource h, pending_clearSource h (hl v List.mem_cons_self) hn,
      owed_clearSource hn, hnot, Bool.and_assoc, Bool.and_assoc]
    exact ⟨rfl, rfl⟩

/-! Enabling (R343). -/

/-- `t` is `s` but for the messages owed. -/
def OwedOnly (s t : State) : Prop := ∃ o, t = { s with hst := { s.hst with owed := o } }

theorem OwedOnly.refl (s : State) : OwedOnly s s := ⟨_, rfl⟩

theorem OwedOnly.owe {t : State} (v : Nat) : OwedOnly s t → OwedOnly s (t.owe v)
  | ⟨_, h⟩ => ⟨_, by rw [h]; rfl⟩

theorem OwedOnly.unowe {t : State} (v : Nat) : OwedOnly s t → OwedOnly s (t.unowe v)
  | ⟨_, h⟩ => ⟨_, by rw [h]; rfl⟩

/-- A write of IRQ_ENABLE is held as written, and changes the owed messages beside. -/
theorem owedOnly_enableWrite (hi : Bool) (v : Nat) :
    OwedOnly (s.setReg (if hi then Reg.IRQ_ENABLE_HI else Reg.IRQ_ENABLE_LO) v) (s.enableWrite hi v) := by
  unfold State.enableWrite
  extract_lets off old s1 s2
  have h2 : OwedOnly s1 s2 := List.foldlRecOn _ _ (.refl s1) fun u hu n _ => by
    split
    · exact hu.owe n
    · exact hu
  exact List.foldlRecOn _ _ h2 fun u hu n _ => hu.unowe n

/-! Raising (R341, R342). -/

/-- A recorder trigger writes no register of the interrupts' block. -/
theorem reg_trigger (h : s.regsWf = true) (code detail : Nat) {off : Nat} (hoff : regBlock off = 15) :
    (s.trigger code detail).reg off = s.reg off :=
  ((rg_trigger (W := 8192) rfl Rg.refl).reg h off).resolve_left (by rw [hoff]; decide)

theorem pending_trigger (h : s.regsWf = true) (code detail v : Nat) : (s.trigger code detail).pending? v = s.pending? v :=
  pending_of_reg (reg_trigger h code detail blk_pendReg)

/-- Raising a source sets its pending bit and leaves those of the others (R342). -/
theorem pending_raiseN (h : s.regsWf = true) {v n : Nat} (hv : v < 64) (hn : n < 64) :
    (s.raiseN v).pending? n = (s.pending? n || decide (n = v)) := by
  unfold State.raiseN
  split
  case isTrue hpend =>
    rw [bump_eq, pending_setReg h (by decide) (by decide)]
    by_cases e : n = v <;> simp [e, hpend]
  case isFalse =>
    extract_lets s1 s2
    have hwf : s1.regsWf = true := regsWf_setField s h ..
    have hs2 : s2.regs = s1.regs := by
      show (if _ then s1.owe v else s1).regs = _
      split <;> rfl
    have hwf2 : s2.regsWf = true := by
      unfold State.regsWf
      rw [hs2]
      exact hwf
    rw [pending_trigger hwf2, pending_of_reg (reg_of_regs hs2 _), pending_setField h hv hn (by decide)]
    by_cases e : n = v <;> simp [e]

/-- Raising a list of sources leaves each of them pending, and keeps those that were. -/
theorem pending_raised {l : List Nat} (hl : ∀ v ∈ l, v < 64) (h : s.regsWf = true) {n : Nat} (hn : n < 64)
    (hp : n ∈ l ∨ s.pending? n = true) : (l.foldl (fun s v => s.raiseN v) s).pending? n = true := by
  induction l generalizing s with
  | nil => exact hp.resolve_left List.not_mem_nil
  | cons v l ih =>
    refine ih (fun w hw => hl w (List.mem_cons_of_mem _ hw)) (quiet_raiseN.wf h) ?_
    rw [pending_raiseN h (hl v List.mem_cons_self) hn]
    rcases hp with hmem | hp
    · rcases List.mem_cons.1 hmem with rfl | hmem
      · simp
      · exact .inl hmem
    · simp [hp]

theorem regsWf_setSources (h : s.regsWf = true) (hi : Bool) (v : Nat) : (s.setSources hi v).regsWf = true :=
  List.foldlRecOn (motive := fun u : State => u.regsWf = true) _ _ h fun _ hu _ _ => quiet_raiseN.wf hu

/-- Settling clears no pending bit. -/
theorem pending_settle {s0 : State} (h : s.regsWf = true) {n : Nat} (hn : n < 64) (hp : s.pending? n = true) :
    (s.settle s0).pending? n = true := by
  refine (List.foldlRecOn (motive := fun u : State => u.regsWf = true ∧ u.pending? n = true) levelSources _ ⟨h, hp⟩
    fun u ⟨hwf, hu⟩ v hv => ?_).2
  have hv64 : v < 64 := (by decide : ∀ v ∈ levelSources, v < 64) v hv
  split
  · exact ⟨quiet_raiseN.wf hwf, by rw [pending_raiseN hwf hv64 hn, hu, Bool.true_or]⟩
  · exact ⟨hwf, hu⟩

/-! The message. -/

/-- The state after the message of source `v` has been sent. -/
def messageSent (s : State) (v : Nat) : State :=
  let u := (s.unowe v).bump Reg.IRQ_SENT
  { u with hst := { u.hst with lastMsg := some v } }

theorem level_messageSent (h : s.regsWf = true) (v n : Nat) : (messageSent s v).level n = s.level n :=
  level_setReg_above (s := s.unowe v) h _ (by decide) n

/-! The arms of the dispatch: each write passes the access policy. -/

theorem exec_irqMessageSend {v : Word} (hlt : v.toNat < 64) (howed : s.hst.owed.getLsbD v.toNat = true)
    (hmsix : s.hst.msixEnable = true) (hmask : s.vectorMasked v.toNat = false) (hlink : s.linkReady = true) :
    exec (.irqMessageSend v) s = finish s (messageSent s v.toNat) := by
  show execIrqMessageSend v s = _
  unfold execIrqMessageSend
  simp only [hlt, howed, hmsix, hmask, hlink, decide_true, Bool.not_false, Bool.and_self, if_true]
  rfl

theorem exec_irqPendClear {hi : Bool} {v : Word}
    (h : Claims.taken s (if hi then Reg.IRQ_PEND_HI else Reg.IRQ_PEND_LO) v.toNat) :
    exec (.irqPendClear hi v) s = finish s (s.pendClear hi v.toNat) :=
  congrArg (finish s) (command_ok h.choose_spec)

theorem exec_irqEnableWrite {hi : Bool} {v : Word}
    (h : Claims.taken s (if hi then Reg.IRQ_ENABLE_HI else Reg.IRQ_ENABLE_LO) v.toNat) :
    exec (.irqEnableWrite hi v) s = finish s (s.enableWrite hi v.toNat) :=
  congrArg (finish s) (command_ok h.choose_spec)

theorem exec_irqSet {hi : Bool} {v : Word} (h : Claims.taken s (if hi then Reg.IRQ_SET_HI else Reg.IRQ_SET_LO) v.toNat) :
    exec (.irqSet hi v) s = finish s (s.setSources hi v.toNat) :=
  congrArg (finish s) (command_ok h.choose_spec)

/-- Settles O17: sending, clearing and enabling change no level source, so nothing is raised after them; what is raised after a
write of IRQ_SET clears no pending bit. -/
theorem interruptCommandsComplete : Obligations.InterruptCommandsComplete := by
  intro s hwf
  refine ⟨fun v hlt howed hmsix hmask hlink => ?_, fun hi v htaken => ?_, fun hi v htaken => ?_, fun hi v htaken => ?_⟩
  · refine ⟨_, exec_irqMessageSend hlt howed hmsix hmask hlink, ?_⟩
    rw [settle_eq_self (level_messageSent hwf _)]
    refine ⟨(owed_unowe hlt).trans (by simp), rfl, ?_⟩
    exact (reg_bump (s.unowe v.toNat) hwf _ _).trans (if_pos rfl)
  · obtain ⟨hlevel, hbits⟩ := clearSources_clears (s := s) (fun n => bitsSet_lt (hi := hi) (v := v.toNat)) hwf
    refine ⟨_, exec_irqPendClear htaken, ?_⟩
    rw [pendClear_eq, settle_eq_self hlevel]
    refine ⟨fun n hn hfalse => ?_, fun n hlt hn => ?_⟩
    · obtain ⟨hpend, howed⟩ := hbits n (bitsSet_lt hn)
      rw [hpend, howed]
      simp [hn, hfalse]
    · rw [(hbits n hlt).1]
      simp [hn]
  · obtain ⟨o, ho⟩ := owedOnly_enableWrite (s := s) hi v.toNat
    have hlevel : ∀ n, (s.enableWrite hi v.toNat).level n = s.level n := fun n => by
      rw [ho]
      exact level_setReg_above hwf _ (by cases hi <;> decide) n
    refine ⟨_, exec_irqEnableWrite htaken, ?_⟩
    rw [settle_eq_self hlevel, ho]
    refine ⟨(reg_setReg_self s hwf _ _).trans (Nat.mod_eq_of_lt v.isLt), fun n _ => ?_⟩
    exact pending_setReg hwf (by cases hi <;> decide) (by cases hi <;> decide) _ n
  · refine ⟨_, exec_irqSet htaken, fun n hn => ?_⟩
    refine pending_settle (regsWf_setSources hwf hi _) (bitsSet_lt hn) ?_
    exact pending_raised (fun _ => bitsSet_lt) hwf (bitsSet_lt hn) (.inl hn)

/-! The statement at concrete states: after reset and in SERVICE, with the sources of `p` pending and enabled and their messages
owed, and MSI-X enabled with no vector masked. -/

def interruptState (p : Nat) : State :=
  let s := (State.reset.setReg Reg.IRQ_PEND_LO p).setReg Reg.IRQ_ENABLE_LO p
  { s with glb := { s.glb with mode := .service }, hst := { s.hst with
      owed := BitVec.ofNat 64 p, msixEnable := true, bme := true, width := 16, msix := [(12, 0), (28, 0)] } }

theorem interruptState_regsWf (p : Nat) : (interruptState p).regsWf = true :=
  regsWf_setReg _ (regsWf_setReg _ reset_regsWf ..) ..

theorem interruptCommandsComplete_witness :
    (∃ t, exec (.irqMessageSend 1) (interruptState 3) = .next t ∧ t.hst.owed.getLsbD 1 = false ∧ t.hst.lastMsg = some 1 ∧
      t.reg Reg.IRQ_SENT = 1) ∧
    (∃ t, exec (.irqPendClear false 2) (interruptState 3) = .next t ∧ t.pending? 1 = false ∧ t.hst.owed.getLsbD 1 = false ∧
      t.pending? 0 = true) ∧
    (∃ t, exec (.irqEnableWrite false 0xFFFFFFFF) (interruptState 3) = .next t ∧ t.reg Reg.IRQ_ENABLE_LO = 0xFFFFFFFF ∧
      t.pending? 1 = true ∧ t.pending? 31 = false) ∧
    ∃ t, exec (.irqSet true 0x80000001) (interruptState 3) = .next t ∧ t.pending? 32 = true ∧ t.pending? 63 = true := by
  obtain ⟨hsend, hclear, henable, hset⟩ := interruptCommandsComplete (interruptState 3) (interruptState_regsWf 3)
  obtain ⟨t, ht, howed, hlast, hsent⟩ := hsend 1 (by decide) (by decide) rfl (by decide) (by decide)
  obtain ⟨u, hu, hnamed, hothers⟩ := hclear false 2 ⟨0xFFFFFFFF, by decide⟩
  obtain ⟨hpend, howed'⟩ := hnamed 1 (by decide) rfl
  obtain ⟨w, hw, hheld, hkept⟩ := henable false 0xFFFFFFFF ⟨0xFFFFFFFF, by decide⟩
  obtain ⟨x, hx, hraised⟩ := hset true 0x80000001 ⟨0xFFFFFFFF, by decide⟩
  exact ⟨⟨t, ht, howed, hlast, hsent.trans (by decide)⟩,
    ⟨u, hu, hpend, howed', (hothers 0 (by decide) (by decide)).trans (by decide)⟩,
    ⟨w, hw, hheld, (hkept 1 (by decide)).trans (by decide), (hkept 31 (by decide)).trans (by decide)⟩,
    x, hx, hraised 32 (by decide), hraised 63 (by decide)⟩

end Sys2Proof.Proofs
end

section
/-! PROOFS. The reads of the time registers (R333, R334, R356): what each returns at its instant, and what it latches. -/

namespace Sys2Proof.Proofs

open Sys2Proof Sys2Proof.Machine Sys2Proof.Laws

variable {s : State}

/-! The words read. -/

theorem readReg_ptpNow : s.readReg (Reg.PTP_NOW_0 0) = (stampWords false (s.ptpTime s.time)).headD 0 := rfl

theorem readReg_ptpFrc : s.readReg Reg.PTP_FRC_LO = s.ptp.count s.time % 2 ^ 32 := rfl

theorem readReg_residency {i : Nat} (hi : i < 5) : s.readReg (Reg.PWR_RES_s_LO i) = s.residency i s.time % 2 ^ 32 := by
  interval_cases i <;> rfl

/-! The words latched. -/

theorem readEffect_ptpNow : s.readEffect (Reg.PTP_NOW_0 0) =
    ((s.setReg (Reg.PTP_NOW_0 1) ((stampWords false (s.ptpTime s.time)).getD 1 0)).setReg (Reg.PTP_NOW_0 2)
      ((stampWords false (s.ptpTime s.time)).getD 2 0)).setReg (Reg.PTP_NOW_0 3) (s.ptp.count s.time % 2 ^ 32) := by
  unfold State.readEffect
  rw [if_neg (by decide), if_pos rfl]

theorem readEffect_ptpFrc :
    s.readEffect Reg.PTP_FRC_LO = s.setReg Reg.PTP_FRC_HI (s.ptp.count s.time / 2 ^ 32 % 2 ^ 32) := by
  unfold State.readEffect
  rw [if_neg (by decide), if_neg (by decide), if_pos rfl]

/-- The residency registers are defined, and no RC registers (Table 12.10). -/
theorem residency_rows : ∀ i < 5, offsetDefined (Reg.PWR_RES_s_LO i) = true ∧
    (Reg.row? (Reg.PWR_RES_s_LO i)).map (·.access) ≠ some .rc := by
  intro i hi
  interval_cases i <;> decide

theorem readEffect_residency {i : Nat} (hi : i < 5) : s.readEffect (Reg.PWR_RES_s_LO i) =
    s.setReg (Reg.PWR_RES_s_LO i + 4) (s.residency i s.time / 2 ^ 32 % 2 ^ 32) := by
  have hwindow : Reg.PWR_RES_s_LO 0 ≤ Reg.PWR_RES_s_LO i ∧ Reg.PWR_RES_s_LO i < Reg.PWR_RES_s_LO 5 ∧
      Reg.PWR_RES_s_LO i % 8 = 0 := by
    unfold Reg.PWR_RES_s_LO
    omega
  have hindex : (Reg.PWR_RES_s_LO i - Reg.PWR_RES_s_LO 0) / 8 = i := by
    unfold Reg.PWR_RES_s_LO
    omega
  have hnow : Reg.PWR_RES_s_LO i ≠ Reg.PTP_NOW_0 0 := by
    unfold Reg.PWR_RES_s_LO Reg.PTP_NOW_0
    omega
  have hfrc : Reg.PWR_RES_s_LO i ≠ Reg.PTP_FRC_LO := by
    unfold Reg.PWR_RES_s_LO Reg.PTP_FRC_LO
    omega
  unfold State.readEffect
  rw [if_neg (residency_rows i hi).2, if_neg hnow, if_neg hfrc, if_pos hwindow, hindex]

/-- A word that a read latches outside the interrupt registers stands there after the step. -/
theorem reg_latched (h : s.regsWf = true) {off : Nat} (ho : off ∉ Claims.interruptRegs) (v : Nat) (s0 : State) :
    ((s.setReg off v).settle s0).reg off = v % 2 ^ 32 := by
  rw [reg_settle (regsWf_setReg s h ..) ho, reg_setReg_self s h]

theorem ptpNow_latches (h : s.regsWf = true) (s0 : State) :
    ((s.readEffect (Reg.PTP_NOW_0 0)).settle s0).reg (Reg.PTP_NOW_0 1) =
      (stampWords false (s.ptpTime s.time)).getD 1 0 % 2 ^ 32 ∧
    ((s.readEffect (Reg.PTP_NOW_0 0)).settle s0).reg (Reg.PTP_NOW_0 2) =
      (stampWords false (s.ptpTime s.time)).getD 2 0 % 2 ^ 32 ∧
    ((s.readEffect (Reg.PTP_NOW_0 0)).settle s0).reg (Reg.PTP_NOW_0 3) = s.ptp.count s.time % 2 ^ 32 := by
  have h1 := regsWf_setReg s h (Reg.PTP_NOW_0 1) ((stampWords false (s.ptpTime s.time)).getD 1 0)
  have h2 := regsWf_setReg _ h1 (Reg.PTP_NOW_0 2) ((stampWords false (s.ptpTime s.time)).getD 2 0)
  have h3 := regsWf_setReg _ h2 (Reg.PTP_NOW_0 3) (s.ptp.count s.time % 2 ^ 32)
  rw [readEffect_ptpNow]
  refine ⟨?_, ?_, ?_⟩
  · rw [reg_settle h3 (by decide), reg_setReg_ne _ h2 _ (by decide), reg_setReg_ne _ h1 _ (by decide), reg_setReg_self s h]
  · rw [reg_settle h3 (by decide), reg_setReg_ne _ h2 _ (by decide), reg_setReg_self _ h1]
  · rw [reg_latched h2 (by decide), Nat.mod_mod]

theorem ptpFrc_latches (h : s.regsWf = true) (s0 : State) :
    ((s.readEffect Reg.PTP_FRC_LO).settle s0).reg Reg.PTP_FRC_HI = s.ptp.count s.time / 2 ^ 32 % 2 ^ 32 := by
  rw [readEffect_ptpFrc, reg_latched h (by decide), Nat.mod_mod]

theorem residency_latches (h : s.regsWf = true) {i : Nat} (hi : i < 5) (s0 : State) :
    ((s.readEffect (Reg.PWR_RES_s_LO i)).settle s0).reg (Reg.PWR_RES_s_LO i + 4) = s.residency i s.time / 2 ^ 32 % 2 ^ 32 := by
  have hirq : Reg.PWR_RES_s_LO i + 4 ∉ Claims.interruptRegs := by interval_cases i <;> decide
  rw [readEffect_residency hi, reg_latched h hirq, Nat.mod_mod]

/-! Reads of an open register. -/

/-- A read of a register that is on and defined returns its word, beside the read's effect. -/
theorem readOff_returns {off : Nat} (h : s.accessOff off = false) (hd : offsetDefined off = true) (s0 : State) :
    ((s.readOff off).settle s0).readData = BitVec.ofNat 32 (s.readReg off) := by
  rw [settle_readData, readOff_defined h hd, readEffect_readData]

/-- A register's word keeps the bits of a number below 32. -/
theorem ofNat_mod_word (n : Nat) : BitVec.ofNat 32 (n % 2 ^ 32) = BitVec.ofNat 32 n := by
  simp [← BitVec.toNat_inj]

theorem exec_residencyRead {i : Nat} (hi : i < 5) (t : Nat) :
    exec (.residencyRead i t) s = finish s ((s.at_ t).readOff (Reg.PWR_RES_s_LO i)) := by
  show execResidencyRead i t s = _
  unfold execResidencyRead
  rw [if_pos hi]

/-- Settles O19: each read passes the access policy at its instant, and what it latches is no register of the interrupts. -/
theorem timeReadsComplete : Obligations.TimeReadsComplete := by
  intro s t hwf
  refine ⟨fun hon => ?_, fun hon => ?_, fun i hi hon => ?_⟩
  · have hdef : offsetDefined (Reg.PTP_NOW_0 0) = true := by decide
    refine ⟨_, rfl, ?_, ?_⟩
    · rw [readOff_returns hon hdef, readReg_ptpNow]
      rfl
    · rw [readOff_defined hon hdef]
      exact ptpNow_latches (s := { s.at_ t with readData := _ }) hwf s
  · have hdef : offsetDefined Reg.PTP_FRC_LO = true := by decide
    refine ⟨_, rfl, ?_, ?_⟩
    · rw [readOff_returns hon hdef, readReg_ptpFrc]
      exact ofNat_mod_word _
    · rw [readOff_defined hon hdef]
      exact ptpFrc_latches (s := { s.at_ t with readData := _ }) hwf s
  · obtain ⟨hdef, -⟩ := residency_rows i hi
    refine ⟨_, exec_residencyRead hi t, ?_, ?_⟩
    · rw [readOff_returns hon hdef, readReg_residency hi]
      exact ofNat_mod_word _
    · rw [readOff_defined hon hdef]
      exact residency_latches (s := { s.at_ t with readData := _ }) hwf hi s

/-! The statement at concrete states. -/

/-- After reset, with the PTP time 2^32 + 1 seconds and 7 ns at count 2^32 + 5, and 2^32 + 9 microseconds counted in IDLE. -/
def timedState : State :=
  { State.reset with
    ptp := { State.reset.ptp with tRef := ((2 ^ 32 + 1) * secQ32 + 7 * 2 ^ 32 : Nat), fRef := 2 ^ 32 + 5 }
    pwr := { State.reset.pwr with res := [0, usTu (2 ^ 32 + 9)] } }

theorem ptpTime_timedState : timedState.ptpTime (max timedState.time (147456 * (2 ^ 32 + 5))) =
    ((2 ^ 32 + 1) * secQ32 + 7 * 2 ^ 32 : Nat) := by rfl

/-- NS, SEC_LO and SEC_HI of that time (Table 11.3). -/
theorem stampWords_timedState :
    stampWords false (timedState.ptpTime (max timedState.time (147456 * (2 ^ 32 + 5)))) = [7, 1, 1] := by
  rw [ptpTime_timedState]
  decide

theorem timeReadsComplete_witness :
    (∃ u, exec (.ptpNowRead (147456 * (2 ^ 32 + 5))) timedState = .next u ∧ u.readData = 7 ∧ u.reg (Reg.PTP_NOW_0 1) = 1 ∧
      u.reg (Reg.PTP_NOW_0 2) = 1 ∧ u.reg (Reg.PTP_NOW_0 3) = 5) ∧
    (∃ u, exec (.ptpFrcRead (147456 * (2 ^ 32 + 5))) timedState = .next u ∧ u.readData = 5 ∧ u.reg Reg.PTP_FRC_HI = 1) ∧
    ∃ u, exec (.residencyRead 1 0) timedState = .next u ∧ u.readData = 9 ∧ u.reg (Reg.PWR_RES_s_LO 1 + 4) = 1 := by
  obtain ⟨hnow, hfrc, -⟩ := timeReadsComplete timedState (147456 * (2 ^ 32 + 5)) reset_regsWf
  obtain ⟨-, -, hres⟩ := timeReadsComplete timedState 0 reset_regsWf
  rw [stampWords_timedState] at hnow
  obtain ⟨u, hu, hns, hsec, hsub, hcount⟩ := hnow (by decide)
  obtain ⟨v, hv, hlow, hhigh⟩ := hfrc (by decide)
  obtain ⟨w, hw, hlow', hhigh'⟩ := hres 1 (by decide) (by decide)
  exact ⟨⟨u, hu, hns, hsec, hsub, hcount.trans (by decide)⟩,
    ⟨v, hv, hlow.trans (by decide), hhigh.trans (by decide)⟩, w, hw, hlow'.trans (by decide), hhigh'.trans (by decide)⟩

end Sys2Proof.Proofs
end

section
/-! PROOFS. SET_MODE (R353, R397, R398, R401): what a mode change leaves of the general state, and the modes Upsett ends in. -/

namespace Sys2Proof.Proofs

open Sys2Proof Sys2Proof.Machine Sys2Proof.Laws

variable {s : State}

/-! The mode in the general state. -/

@[simp] theorem answer_glb (r st d res : Nat) : (s.answer r st d res).glb = s.glb :=
  ((fr_answer (W := 41943048) rfl Fr.refl).glb).resolve_left (by decide)

@[simp] theorem autoRun_glb : s.autoRun.glb = s.glb :=
  ((fr_autoRun (W := 62914312) rfl Fr.refl).glb).resolve_left (by decide)

@[simp] theorem cancelTests_glb (m : Mode) : (s.cancelTests m).glb = s.glb :=
  ((fr_cancelTests (W := 8192) rfl Fr.refl).glb).resolve_left (by decide)

/-- A mode that is entered stands, whatever its entry clears and raises (R401, R402). -/
@[simp] theorem enterMode_mode (m : Mode) : (s.enterMode m).glb.mode = m := by
  unfold State.enterMode
  dsimp only
  rw [raise_glb, cancelTests_glb]

/-- Upsett ends in READY, or in DORMANT with the code of the step that failed (R397, R398); it is one command (log entry 10). -/
theorem upsett_ends (u : UpsettInput) (auto : Bool) :
    (s.upsett u auto).2 = 0 ∧ (s.upsett u auto).1.glb.mode = .ready ∨
      (s.upsett u auto).2 ≠ 0 ∧ (s.upsett u auto).1.glb.mode = .dormant := by
  unfold State.upsett
  extract_lets s1 s2 s3 s4
  split
  · exact .inl ⟨rfl, enterMode_mode _⟩
  · exact .inr ⟨Nat.succ_ne_zero _, enterMode_mode _⟩

/-! SET_MODE past its checks. -/

/-- The automatic transition to RUN that the target mode calls for (R353). -/
def ranFor (s : State) (n : Mode) : State := if !n.allows s.pwr.state || s.pwr.state == 5 then s.autoRun else s

@[simp] theorem ranFor_glb (n : Mode) : (ranFor s n).glb = s.glb := by
  unfold ranFor
  split
  · exact autoRun_glb
  · rfl

theorem ranFor_eq_self {n : Mode} (h : n.allows s.pwr.state = true) (h5 : s.pwr.state ≠ 5) : ranFor s n = s := by
  simp [ranFor, h, h5]

/-- The target is the present mode: the command is answered with no effect but the transition (R401). -/
theorem setMode_same {r : Nat} {n : Mode} {u : UpsettInput} (h : s.glb.mode = n) :
    s.setMode r n u = (ranFor s n).answer r Stat.ok 0 0 :=
  if_pos ((congrArg Glb.mode (ranFor_glb n)).trans h)

/-- Another mode than UPSETT is entered. -/
theorem setMode_enters {r : Nat} {n : Mode} {u : UpsettInput} (h : s.glb.mode ≠ n) (hn : n ≠ .upsett) :
    s.setMode r n u = ((ranFor s n).enterMode n).answer r Stat.ok 0 0 :=
  (if_neg (c := (ranFor s n).glb.mode = n) (by rwa [ranFor_glb])).trans (if_neg hn)

/-- UPSETT runs Upsett: OK, or INTERNAL with the code of the step that failed (R398). -/
theorem setMode_upsett {r : Nat} {u : UpsettInput} (h : s.glb.mode ≠ .upsett) :
    s.setMode r .upsett u = ((ranFor s .upsett).upsett u false).1.answer r
      (if ((ranFor s .upsett).upsett u false).2 = 0 then Stat.ok else Stat.internal) 0
      ((ranFor s .upsett).upsett u false).2 := by
  refine (if_neg (c := (ranFor s .upsett).glb.mode = .upsett) (by rwa [ranFor_glb])).trans ((if_pos rfl).trans ?_)
  split <;> rename_i hend
  · rw [show (ranFor s .upsett).upsett u false = _ from hend, if_pos rfl]
  · rw [show (ranFor s .upsett).upsett u false = _ from hend, if_neg (Nat.succ_ne_zero _)]

/-- SET_MODE to another mode than UPSETT ends in it (R401). -/
theorem setMode_mode (r : Nat) {n : Mode} (u : UpsettInput) (hn : n ≠ .upsett) : (s.setMode r n u).glb.mode = n := by
  by_cases h : s.glb.mode = n
  · rw [setMode_same h, answer_glb, ranFor_glb, h]
  · rw [setMode_enters h hn, answer_glb, enterMode_mode]

/-- SET_MODE to UPSETT ends in READY or DORMANT (R397, R398). -/
theorem setMode_upsett_mode (r : Nat) (u : UpsettInput) (h : s.glb.mode ≠ .upsett) :
    (s.setMode r .upsett u).glb.mode = .ready ∨ (s.setMode r .upsett u).glb.mode = .dormant := by
  rw [setMode_upsett h, answer_glb]
  exact (upsett_ends u false).imp And.right And.right

/-- In a power state that the target mode allows, SET_MODE completes: an entry to a mode leaves the ring and the link alone. -/
theorem InProgress.cur_setMode {r : Nat} (h : InProgress s r) {n : Mode} (u : UpsettInput) (hn : n ≠ .upsett)
    (hallows : n.allows s.pwr.state = true) (h5 : s.pwr.state ≠ 5) : ((s.setMode r n u).ring r).cur = none := by
  by_cases hm : s.glb.mode = n
  · rw [setMode_same hm, ranFor_eq_self hallows h5]
    exact h.cur_answer ..
  · rw [setMode_enters hm hn, ranFor_eq_self hallows h5]
    exact (h.of_fr (fr_enterMode (W := 114480) rfl Fr.refl) rfl rfl rfl).cur_answer ..

/-- SET_MODE that nothing refuses or holds back is carried out at its instant. -/
theorem exec_setMode {ring t : Nat} {u : UpsettInput} {e : CurEntry} {n : Mode} {b : Bool}
    (hfront : Claims.front s ring 0x02 none e) (hformat : setModeFormat e = none)
    (hcode : Mode.ofCode (fieldLE e.bytes 8 1 % 8) = some n) (hmove : modeMove s.glb.mode n = some b)
    (hbound : b = true → s.run = none) (hstate : s.setModeState n = none) (htrans : s.pwr.trans = none)
    (hppr : s.dram.ppr = none) :
    exec (.setMode ring t u) s = finish s ((s.at_ t).setMode ring n u) := by
  obtain ⟨hcmd, hclean, hfree⟩ := hfront
  have hstate' : (s.at_ t).setModeState n = none := hstate
  have hrun : ¬(s.glb.mode ∈ (if some b = some true then Mode.all else []) ∧ s.run.isSome = true) := by
    cases b
    · simp
    · simp [hbound rfl]
  show execSetMode ring t u s = _
  unfold execSetMode
  dsimp only
  rw [command_at, hcmd]
  dsimp only
  rw [hcode, Option.getD_some, hformat, hstate', at_glb, hmove, checked_run (s := s.at_ t) hclean (mem_all _) hrun hfree]
  simp [htrans, hppr]

/-- Settles O1: past the checks the mode is entered or Upsett runs, and neither the answer nor the settling changes the mode. -/
theorem setModeCompletes : Obligations.SetModeCompletes := by
  intro s ring t u e n b hrings hfront hformat hcode hmove hbound hstate htrans hppr
  have hin : InProgress (s.at_ t) ring := (InProgress.of_front hrings hfront).of_fr (fr_at_ (W := 1) rfl Fr.refl) rfl rfl rfl
  refine ⟨_, exec_setMode hfront hformat hcode hmove hbound hstate htrans hppr, fun hn => ?_, fun hn hmode => ?_,
    fun hn hallows h5 => ?_⟩
  · rw [settle_glb]
    exact setMode_mode ring u hn
  · subst hn
    rw [settle_glb]
    exact setMode_upsett_mode ring u hmode
  · rw [settle_ring]
    exact hin.cur_setMode u hn hallows h5

/-! The statement at concrete states. -/

/-- What an Upsett finds where no channel trains, no partner answers and no weaver differs. -/
def bareUpsett : UpsettInput :=
  { ms := [], sramFail := false, dram := [], weaverDiff := [], rim := { lanes := [], nm := 0, ident := none }, temps := [],
    age := [], pathDiff := false }

/-- After reset, in READY and IDLE, with SET_MODE to the mode of code `n` at the front of command ring 128. -/
def idleState (n : Byte) : State :=
  { commandState .ready (commandEntry 2 n) with pwr := { State.reset.pwr with state := 1 } }

/-- READY to SERVICE completes; EXPOSE without a run returns to READY; DRYRUN is entered out of IDLE; UPSETT comes to its end. -/
theorem setModeCompletes_witness :
    (∃ t, exec (.setMode 128 9 bareUpsett) (commandState .ready (commandEntry 2 5)) = .next t ∧ t.glb.mode = .service ∧
      (t.ring 128).cur = none) ∧
    (∃ t, exec (.setMode 128 9 bareUpsett) (commandState .expose (commandEntry 2 2)) = .next t ∧ t.glb.mode = .ready ∧
      (t.ring 128).cur = none) ∧
    (∃ t, exec (.setMode 128 9 bareUpsett) (idleState 4) = .next t ∧ t.glb.mode = .dryrun) ∧
    ∃ t, exec (.setMode 128 9 bareUpsett) (commandState .dormant (commandEntry 2 1)) = .next t ∧
      (t.glb.mode = .ready ∨ t.glb.mode = .dormant) := by
  obtain ⟨t, ht, hservice, -, hcur⟩ := setModeCompletes (commandState .ready (commandEntry 2 5)) 128 9 bareUpsett
    (commandEntry 2 5) .service false (by decide) ⟨rfl, by decide, rfl⟩ (by decide) (by decide) rfl (by decide) (by decide)
    rfl rfl
  obtain ⟨v, hv, hready, -, hcur'⟩ := setModeCompletes (commandState .expose (commandEntry 2 2)) 128 9 bareUpsett
    (commandEntry 2 2) .ready true (by decide) ⟨rfl, by decide, rfl⟩ (by decide) (by decide) rfl (fun _ => rfl) (by decide)
    rfl rfl
  obtain ⟨w, hw, hdryrun, -, -⟩ := setModeCompletes (idleState 4) 128 9 bareUpsett
    (commandEntry 2 4) .dryrun false (by decide) ⟨rfl, by decide, rfl⟩ (by decide) (by decide) rfl (by decide) (by decide)
    rfl rfl
  obtain ⟨x, hx, -, hends, -⟩ := setModeCompletes (commandState .dormant (commandEntry 2 1)) 128 9 bareUpsett
    (commandEntry 2 1) .upsett false (by decide) ⟨rfl, by decide, rfl⟩ (by decide) (by decide) rfl (by decide) (by decide)
    rfl rfl
  exact ⟨⟨t, ht, hservice (by decide), hcur (by decide) (by decide) (by decide)⟩,
    ⟨v, hv, hready (by decide), hcur' (by decide) (by decide) (by decide)⟩, ⟨w, hw, hdryrun (by decide)⟩,
    x, hx, hends rfl (by decide)⟩

end Sys2Proof.Proofs
end

section
/-! PROOFS. The step and the reset state (00_scope.md): a step runs the command at the front of the queue, the reset state is
canonical, and every step keeps the canonical form. -/

namespace Sys2Proof.Proofs

open Sys2Proof Sys2Proof.Machine Sys2Proof.Laws

variable {s : State}

/-! One step, by the queue. -/

theorem step_cons {c : Instr} {rest : List Instr} (h : s.pending = c :: rest) :
    step s = exec c { s with pending := rest } := by
  unfold step
  rw [h]

theorem step_nil (h : s.pending = []) : step s = .next s := by
  unfold step
  rw [h]

/-- Settles O47: the queue's two forms are the two arms of the step. -/
theorem stepRunsFrontCommand : Obligations.StepRunsFrontCommand := fun _ =>
  ⟨fun _ _ => step_cons, step_nil⟩

/-! The canonical form as the laws of the operations speak of it. -/

theorem kept_iff {q : List Instr} : Kept q s ↔ s.canon = true ∧ s.pending = q := by
  have hcanon : s.canon = true ↔ ((s.regsWf = true ∧ s.dram.memWf = true) ∧ s.hostWf = true) ∧ s.ringsWf = true := by
    simp only [State.canon, Bool.and_eq_true]
  rw [hcanon]
  constructor
  · rintro ⟨hqueue, hregs, hcells, hhost, hrings⟩
    exact ⟨⟨⟨⟨hregs, hcells⟩, hhost⟩, hrings⟩, hqueue⟩
  · rintro ⟨⟨⟨⟨hregs, hcells⟩, hhost⟩, hrings⟩, hqueue⟩
    exact ⟨hqueue, hregs, hcells, hhost, hrings⟩

/-- After reset no map lists an entry. -/
theorem kept_reset : Kept [] State.reset :=
  ⟨rfl, smWf_nil, smWf_nil, smWf_nil, smWf_nil⟩

/-- Settles O48: the maps are empty after reset, and so is the queue. -/
theorem resetIsCanonical : Obligations.ResetIsCanonical := kept_iff.1 kept_reset

/-- Every command keeps the queue's rest and the maps' canonical form, by the law of its operation. -/
theorem kept_exec {q : List Instr} (i : Instr) (hs : Kept q s) : KeptO q (exec i s) :=
  match i with
  | .loadJobKey .. => kept_execLoadJobKey hs
  | .setMode .. => kept_execSetMode hs
  | .armStripe .. => kept_execArmStripe hs
  | .abort .. => kept_execAbort hs
  | .swapSetSeal .. => kept_execSwapSetSeal hs
  | .swapSetCancel .. => kept_execSwapSetCancel hs
  | .swapSetNow .. => kept_execSwapSetNow hs
  | .trainRim .. => kept_execTrainRim hs
  | .trainDram .. => kept_execTrainDram hs
  | .calibrateUpsettSet .. => kept_execCalibrateUpsettSet hs
  | .calibrateRimRecal .. => kept_execCalibrateRimRecal hs
  | .calibrateSensors .. => kept_execCalibrateSensors hs
  | .calibrateDramRecal .. => kept_execCalibrateDramRecal hs
  | .retirePage .. => kept_execRetirePage hs
  | .readCounters .. => kept_execReadCounters hs
  | .syncBarrier .. => kept_execSyncBarrier hs
  | .syncFigure .. => kept_execSyncFigure hs
  | .syncRunEnd .. => kept_execSyncRunEnd hs
  | .doorbell .. => kept_execDoorbell hs
  | .entryFetch .. => kept_execEntryFetch hs
  | .phaseRefetch .. => kept_execPhaseRefetch hs
  | .ringReset .. => kept_execRingReset hs
  | .ringResume .. => kept_execRingResume hs
  | .ringEnable .. => kept_execRingEnable hs
  | .ringDisable .. => kept_execRingDisable hs
  | .dmaH2L .. => kept_execDmaH2L hs
  | .dmaL2H .. => kept_execDmaL2H hs
  | .dmaL2L .. => kept_execDmaL2L hs
  | .dmaH2F .. => kept_execDmaH2F hs
  | .figWait .. => kept_execFigWait hs
  | .descriptorComplete .. => kept_execDescriptorComplete hs
  | .hostPortReset .. => kept_execHostPortReset hs
  | .busMasterEnable .. => kept_execBusMasterEnable hs
  | .irqMessageSend .. => kept_execIrqMessageSend hs
  | .irqPendClear .. => kept_execIrqPendClear hs
  | .irqEnableWrite .. => kept_execIrqEnableWrite hs
  | .irqSet .. => kept_execIrqSet hs
  | .rcRead .. => kept_execRcRead hs
  | .registerWrite .. => kept_execRegisterWrite hs
  | .ptpNowRead .. => kept_execPtpNowRead hs
  | .ptpFrcRead .. => kept_execPtpFrcRead hs
  | .residencyRead .. => kept_execResidencyRead hs
  | .configSetWrite .. => kept_execConfigSetWrite hs
  | .verifyJobHeader => kept_execVerifyJobHeader hs
  | .verifyClassTable => kept_execVerifyClassTable hs
  | .verifyStripe => kept_execVerifyStripe hs
  | .verifyTileRow => kept_execVerifyTileRow hs
  | .verifyTileBin => kept_execVerifyTileBin hs
  | .verifyJobEnd => kept_execVerifyJobEnd hs
  | .figErrlogPop .. => kept_execFigErrlogPop hs
  | .weaverTakePass .. => kept_execWeaverTakePass hs
  | .densityPassDone .. => kept_execDensityPassDone hs
  | .pixelPassDone .. => kept_execPixelPassDone hs
  | .reweaveDone .. => kept_execReweaveDone hs
  | .arbiterDone .. => kept_execArbiterDone hs
  | .reweaveHoldExpiry .. => kept_execReweaveHoldExpiry hs
  | .weaverUe .. => kept_execWeaverUe hs
  | .weaverWatchdog .. => kept_execWeaverWatchdog hs
  | .weaverRetire .. => kept_execWeaverRetire hs
  | .correctSlice .. => kept_execCorrectSlice hs
  | .bindNextStripe => kept_execBindNextStripe hs
  | .bindActive => kept_execBindActive hs
  | .corResume => kept_execCorResume hs
  | .sliceCoded .. => kept_execSliceCoded hs
  | .encoderResume => kept_execEncoderResume hs
  | .expandSlice .. => kept_execExpandSlice hs
  | .hintProjection .. => kept_execHintProjection hs
  | .tickIssue .. => kept_execTickIssue hs
  | .beamStoreLoadDone => kept_execBeamStoreLoadDone hs
  | .workingTableUpdate => kept_execWorkingTableUpdate hs
  | .thermalDecay => kept_execThermalDecay hs
  | .tempStale .. => kept_execTempStale hs
  | .frameLaunch .. => kept_execFrameLaunch hs
  | .encoderEdge .. => kept_execEncoderEdge hs
  | .encoderLos .. => kept_execEncoderLos hs
  | .indexEdge .. => kept_execIndexEdge hs
  | .presetSNow => kept_execPresetSNow hs
  | .presetSIdx => kept_execPresetSIdx hs
  | .presetCNow => kept_execPresetCNow hs
  | .presetCIdx => kept_execPresetCIdx hs
  | .anchorPw => kept_execAnchorPw hs
  | .positionWord .. => kept_execPositionWord hs
  | .positionWordLoss .. => kept_execPositionWordLoss hs
  | .tickTrimUpdate => kept_execTickTrimUpdate hs
  | .simRun .. => kept_execSimRun hs
  | .simStop => kept_execSimStop hs
  | .simTick .. => kept_execSimTick hs
  | .simFreeTick .. => kept_execSimFreeTick hs
  | .returnFrame .. => kept_execReturnFrame hs
  | .tempQuorumTimeout .. => kept_execTempQuorumTimeout hs
  | .telRateWindow => kept_execTelRateWindow hs
  | .ackDrainTimeout .. => kept_execAckDrainTimeout hs
  | .runEnd .. => kept_execRunEnd hs
  | .controlBlockRx .. => kept_execControlBlockRx hs
  | .lpreq .. => kept_execLpreq hs
  | .laneLos .. => kept_execLaneLos hs
  | .laneLock .. => kept_execLaneLock hs
  | .retSilent .. => kept_execRetSilent hs
  | .laneRetire .. => kept_execLaneRetire hs
  | .laneRetrain .. => kept_execLaneRetrain hs
  | .laneInject .. => kept_execLaneInject hs
  | .lanePrbs .. => kept_execLanePrbs hs
  | .challengeResend .. => kept_execChallengeResend hs
  | .spareRecal .. => kept_execSpareRecal hs
  | .laneLpIdle .. => kept_execLaneLpIdle hs
  | .laneRelockTimeout .. => kept_execLaneRelockTimeout hs
  | .mailboxReadAdvance .. => kept_execMailboxReadAdvance hs
  | .refreshDue .. => kept_execRefreshDue hs
  | .agePromotion .. => kept_execAgePromotion hs
  | .dramPowerDown .. => kept_execDramPowerDown hs
  | .dramRecalPeriodic .. => kept_execDramRecalPeriodic hs
  | .scrubRead .. => kept_execScrubRead hs
  | .demandReadError .. => kept_execDemandReadError hs
  | .writebackQueue .. => kept_execWritebackQueue hs
  | .sramScrub .. => kept_execSramScrub hs
  | .capar .. => kept_execCapar hs
  | .readTimeout .. => kept_execReadTimeout hs
  | .ceRate .. => kept_execCeRate hs
  | .memChFence .. => kept_execMemChFence hs
  | .fenceCopyDone .. => kept_execFenceCopyDone hs
  | .rebuildSweepDone .. => kept_execRebuildSweepDone hs
  | .memChRetrain .. => kept_execMemChRetrain hs
  | .memChRetire .. => kept_execMemChRetire hs
  | .pprGo .. => kept_execPprGo hs
  | .pprDone .. => kept_execPprDone hs
  | .eccFlipArm .. => kept_execEccFlipArm hs
  | .eccLogPop .. => kept_execEccLogPop hs
  | .netRxFrame .. => kept_execNetRxFrame hs
  | .netTxEntry .. => kept_execNetTxEntry hs
  | .netLink .. => kept_execNetLink hs
  | .speedSeek => kept_execSpeedSeek hs
  | .netRateWindow .. => kept_execNetRateWindow hs
  | .apply .. => kept_execApply hs
  | .unlock .. => kept_execUnlock hs
  | .ptpPeriodWrite .. => kept_execPtpPeriodWrite hs
  | .slewEnd .. => kept_execSlewEnd hs
  | .ppsPulse .. => kept_execPpsPulse hs
  | .captureEvent .. => kept_execCaptureEvent hs
  | .capPop .. => kept_execCapPop hs
  | .mirrorSend .. => kept_execMirrorSend hs
  | .powerRequest .. => kept_execPowerRequest hs
  | .powerTransitionEnd .. => kept_execPowerTransitionEnd hs
  | .pwrResultPop .. => kept_execPwrResultPop hs
  | .deepGraceExpiry .. => kept_execDeepGraceExpiry hs
  | .wakePin .. => kept_execWakePin hs
  | .wakeTimer .. => kept_execWakeTimer hs
  | .refLost .. => kept_execRefLost hs
  | .holdoverExpiry .. => kept_execHoldoverExpiry hs
  | .pllUnlock .. => kept_execPllUnlock hs
  | .pllRelock .. => kept_execPllRelock hs
  | .refclkLoss => kept_execRefclkLoss hs
  | .phaseFault .. => kept_execPhaseFault hs
  | .lpOver .. => kept_execLpOver hs
  | .vinLow .. => kept_execVinLow hs
  | .brownout .. => kept_execBrownout hs
  | .brownoutLasting => kept_execBrownoutLasting hs
  | .brownoutClear => kept_execBrownoutClear hs
  | .sensorConversion .. => kept_execSensorConversion hs
  | .ageingMeasure .. => kept_execAgeingMeasure hs
  | .vauxLoss => kept_execVauxLoss hs
  | .coldStart .. => kept_execColdStart hs
  | .resetN .. => kept_execResetN hs
  | .warmReset .. => kept_execWarmReset hs
  | .coldReset .. => kept_execColdReset hs
  | .fwCommit => kept_execFwCommit hs
  | .upsettAutoStart .. => kept_execUpsettAutoStart hs
  | .mgtWatchdog => kept_execMgtWatchdog hs
  | .plateForecast .. => kept_execPlateForecast hs
  | .recordCommit .. => kept_execRecordCommit hs
  | .inventoryCommit .. => kept_execInventoryCommit hs
  | .operatingSecond .. => kept_execOperatingSecond hs
  | .ageTrigger => kept_execAgeTrigger hs
  | .histogramCheckpoint => kept_execHistogramCheckpoint hs
  | .retentionCheck .. => kept_execRetentionCheck hs
  | .snap => kept_execSnap hs
  | .shrink => kept_execShrink hs
  | .cursorFetch .. => kept_execCursorFetch hs
  | .cursorFetchDone => kept_execCursorFetchDone hs
  | .autoInc => kept_execAutoInc hs
  | .referenceReturn .. => kept_execReferenceReturn hs
  | .resetNRising .. => kept_execResetNRising hs
  | .vauxReturn .. => kept_execVauxReturn hs

/-- A command leaves the queue when it is taken, and taking it touches no map. -/
theorem kept_step {q : List Instr} (hs : Kept q s) : KeptO q.tail (step s) := by
  obtain ⟨hqueue, hregs, hcells, hhost, hrings⟩ := hs
  cases q with
  | nil =>
    rw [step_nil hqueue]
    exact .next ⟨hqueue, hregs, hcells, hhost, hrings⟩
  | cons c rest =>
    rw [step_cons hqueue]
    exact kept_exec c ⟨rfl, hregs, hcells, hhost, hrings⟩

/-- Settles O49: whichever command the step takes, its law keeps the maps' form and the queue's rest. -/
theorem stepKeepsCanonical : Obligations.StepKeepsCanonical := fun _ _ hcanon hstep =>
  kept_iff.1 ((kept_step (kept_iff.2 ⟨hcanon, rfl⟩)).kept _ hstep)

/-! The statements at concrete states. -/

/-- After reset with 5 in FIG_AUTH_COUNT, with a read of that register and a second command at the front of the queue. -/
def queuedRead : State := { countedFive with pending := [.rcRead Reg.FIG_AUTH_COUNT, .autoInc] }

theorem queuedRead_canon : queuedRead.canon = true :=
  (kept_iff.1 (kept_setReg (off := Reg.FIG_AUTH_COUNT) (v := 5) kept_reset)).1

/-- The read at the front is what runs, and after reset no command waits. -/
theorem stepRunsFrontCommand_witness :
    step queuedRead = exec (.rcRead Reg.FIG_AUTH_COUNT) { countedFive with pending := [.autoInc] } ∧
      step State.reset = .next State.reset :=
  ⟨(stepRunsFrontCommand queuedRead).1 _ _ rfl, (stepRunsFrontCommand State.reset).2 resetIsCanonical.2⟩

/-- The read clears the register, whose entry leaves the map, and the second command waits alone. -/
theorem stepKeepsCanonical_witness :
    ∃ t, step queuedRead = .next t ∧ t.canon = true ∧ t.pending = [.autoInc] ∧ t.reg Reg.FIG_AUTH_COUNT = 0 := by
  obtain ⟨t, ht, -, hzero⟩ := registerReadCompletes { countedFive with pending := [.autoInc] } Reg.FIG_AUTH_COUNT
    countedFive_regsWf (by decide) (by decide) (by decide)
  have hstep : step queuedRead = .next t := stepRunsFrontCommand_witness.1.trans ht
  obtain ⟨hcanon, hqueue⟩ := stepKeepsCanonical queuedRead t queuedRead_canon hstep
  exact ⟨t, hstep, hcanon, hqueue, hzero (by decide) (by decide)⟩

end Sys2Proof.Proofs
end
